-- ==== Sys2Proof/Word.lean ====
section
/-! DEFINITION. The word types of the manual: registers are 32 bits wide (R12), slot words and time words 64 bits, bytes 8,
and the sparse table in which every array of the device is held. -/

namespace Sys2Proof

/-- A register (R12). -/
abbrev Word := BitVec 32

/-- A slot word (R29) or any other 64-bit quantity (R18). -/
abbrev DWord := BitVec 64

/-- A byte. Multi-byte values are little-endian unless a chapter names a standard that says otherwise (R7). -/
abbrev Byte := BitVec 8

/-- A sparse array: the instances that differ from the array's resting value, with strictly rising indices. -/
abbrev Tab (α : Type) := List (Nat × α)

end Sys2Proof
end

