-- ==== Sys2Proof/Syntax.lean ====
section
/-! DEFINITION. The commands of the device, one constructor for each row of the table of operations and events, and the
types of what they carry. What a command carries is what comes from outside the device: media, frames, times, outcomes
of analogue and storage operations, and the host's words. -/

namespace Sys2Proof

/-- A fault on its way to the collector (R539, R540): what its record will hold, and the default level of its source
(R542). `turn` and `ns` are those of detection (R559). -/
structure FaultMsg where
  level : Nat := 1
  cls : Nat := 3
  domain : Nat := 21
  block : Nat := 1
  cause : Nat := 0
  unit : Nat := 0
  tclass : Nat := 0
  plane : Option Nat := none
  turn : Nat := 0
  ns : Nat := 0
  deriving DecidableEq, Repr

/-- Bytes of one line as a packet or frame carries them: the line (the even line of a 4:2:0 pair), the offset of the first
pgroup in pixels, and whole pgroups (R97, R98). -/
structure LineSeg where
  line : Nat
  off : Nat
  data : List Byte
  deriving DecidableEq, Repr

/-- A preanalysis record of one 64 × 64 luma block (R115). -/
structure PaRecord where
  act : Nat := 0
  tsad : Nat := 0
  mean : Nat := 0
  range : Nat := 0
  scr : Bool := false
  scp : Bool := false
  substituted : Bool := false
  deriving DecidableEq, Repr

/-- An ST 291 packet (R112): identifiers, position, user data words and the checksum word as received; `last`: it ends its picture (the
marker of its RTP packet, or the end of its Strand frame). -/
structure AncPacket where
  did : Nat
  sdid : Nat
  line : Nat
  hoff : Nat
  words : List Nat
  checksum : Nat
  last : Bool := false
  deriving DecidableEq, Repr

/-- An ST 2110-20 media packet after the MAC (R97, R100): its flow context (leg), 32-bit sequence number, RTP timestamp,
line segments, and the time of its first byte on the plane's steady base in ns. -/
structure MediaPacket where
  flow : Fin 1024
  seq : Word
  stamp : Word
  segs : List LineSeg
  at_ : Nat
  deriving DecidableEq, Repr

/-! ### What an encode lane codes (Encode Lanes, R124–R158) -/

/-- A coding tool of the tables of R133 and R134. -/
inductive Tool where
  | quadtree | binaryTernary | singleTree | intra67 | mrl | cclm | lfnst | merge6 | mmvd | amvp | amvr | tmvp | biPrediction
  | dct64 | implicitMts | jccr | dependentQuant | deblocking | sao | lumaAlfFixed | subpictures | tiles | rectSlices | gdr
  | virtualBoundaries | intra35 | strongSmoothing | merge5 | dct32 | dst4 | signHiding | slices | independentSegments
  | dualTree | mip | isp | bdpcm | palette | ibc | affine | sbTmvp | gpm | ciip | bcw | smvd | dmvr | bdof | prof
  | weightedPrediction | rpr | explicitMts | sbt | transformSkip | scalingLists | act | chromaAlf | ccAlf | apsAlf | lmcs
  | wpp | longTermRefs | temporalSublayers | amp | inter8x4 | constrainedIntra | pcm | rangeExtension | dependentSegments
  deriving DecidableEq, Repr

/-- Type of a coded picture (R139, R162). -/
inductive PicType where
  | idr
  | cra
  | gdr
  | trail
  deriving DecidableEq, Repr

/-- How a bin is coded (R144): with a context model, as a bypass bin, or as a terminating bin. -/
inductive BinKind where
  | context (n : Nat)
  | bypass
  | terminate
  deriving DecidableEq, Repr

/-- A bin of a CTU's syntax as binarised (R144). -/
structure Bin where
  kind : BinKind := .bypass
  val : Bool := false
  deriving DecidableEq, Repr

/-- The motion of a prediction block in one reference list: the reference picture's index, and the vector in quarter luma
samples (R137). -/
structure MotionRef where
  ref : Nat := 0
  x : Int := 0
  y : Int := 0
  deriving DecidableEq, Repr

/-- A coding unit (R133–R135): intra with its luma mode and reference line, or inter with its motion, as a merge candidate
or not; how it is parted (0 2N × 2N, 1 2N × N, 2 N × 2N, 3 N × N); the depth of its transform tree; and the further tools that
it uses. -/
structure CodeUnit where
  intra : Bool := true
  mode : Nat := 1
  refLine : Nat := 0
  skip : Bool := false
  merge : Option Nat := none
  motion : List MotionRef := []
  parts : Nat := 0
  tuDepth : Nat := 0
  tools : List Tool := []
  deriving DecidableEq, Repr

/-- The partition of a CTU (R135): quadtree, binary and ternary splits, and coding units. -/
inductive CodeTree where
  | unit (u : CodeUnit)
  | quad (a b c d : CodeTree)
  | binary (vertical : Bool) (a b : CodeTree)
  | ternary (vertical : Bool) (a b c : CodeTree)
  deriving DecidableEq, Repr

/-- A coding of a CTU: its partition, the bins of its SAO and ALF syntax, and those of the rest of its coding_tree_unit
syntax (R144). -/
structure CtuCode where
  tree : CodeTree := .unit {}
  filterBins : List Bin := []
  treeBins : List Bin := []
  deriving DecidableEq, Repr

/-- A merge candidate of a CTU (R141, R146): its motion, and the luma samples that it predicts. -/
structure MergeCand where
  motion : List MotionRef := []
  luma : List Nat := []
  deriving DecidableEq, Repr

/-- What P1 of a CTU row meets (R128, R153, R159): input lines whose bytes arrive changed, a CTU column at which a source line
has an uncorrectable ECC error, reference lines (picture, line) whose bytes arrive changed, a luma column at which a window
line has one; and the ENG cycle in which a fault is detected. -/
structure FetchWork where
  slot : Fin 16
  row : Nat
  upset : List (Nat × List Byte) := []
  ecc : Option Nat := none
  refUpset : List (Nat × Nat × List Byte) := []
  eccWindow : Option Nat := none
  at_ : Nat := 0
  deriving DecidableEq, Repr

/-- One CTU in row stage P3 of a lane (R128, R144–R150): the coding that the decision record and the lane's refinement choose,
the merge candidates and the bins of the guard candidate; whether the decision record that covers it is void (R227); the samples
that the primary and the diverse path reconstruct where a fault changes them; a luma column at which a window line, or that
another line, has an uncorrectable ECC error; and the ENG cycle in which a fault is detected. -/
structure CtuWork where
  code : CtuCode := {}
  merges : List MergeCand := []
  guardBins : List Bin := []
  void : Bool := false
  primUpset : Option (List Nat) := none
  divUpset : Option (List Nat) := none
  eccWindow : Option Nat := none
  eccOther : Bool := false
  at_ : Nat := 0
  deriving DecidableEq, Repr

/-- A CTU row in row stage P3: its CTUs from the left. -/
structure PredictWork where
  slot : Fin 16
  row : Nat
  ctus : List CtuWork := []
  deriving DecidableEq, Repr

/-- A CTU row in row stage P4 (R128, R151, R159): its CTUs where the row is to be coded anew as a guard row; the lines that the
second copy of the filters, and the payload that the second copy of the arithmetic coder, makes where a fault changes them;
the CTU column at which a line has an uncorrectable ECC error, or at which a disagreement is seen; and the ENG cycle in which
a fault is detected. -/
structure RowOut where
  slot : Fin 16
  row : Nat
  guards : List CtuWork := []
  filterUpset : List (Nat × List Byte) := []
  coderUpset : Option (List Byte) := none
  ecc : Bool := false
  ctux : Nat := 0
  at_ : Nat := 0
  deriving DecidableEq, Repr

/-- The HRD syntax of a channel (R190): num_units_in_tick, time_scale, tick_divisor_minus2, bit_rate_value_minus1,
cpb_size_value_minus1 and cbr_flag. The decoding-unit parameters are present, every scale is 0, and the NAL and VCL HRDs carry
the same values. -/
structure HrdSet where
  units : Nat := 1
  scale : Nat := 0
  divisor : Nat := 0
  bitRate : Nat := 0
  cpbSize : Nat := 0
  cbr : Bool := false
  deriving DecidableEq, Repr

/-- What the VPS, SPS and PPS of a channel say (R51, R99, R125–R127, R132–R136, R155, R190): codec and profile code, level and tier,
coded size, 4:2:2 chroma, sample bits, CTU, tools, widths of the subpictures in CTUs, whether subpictures are treated as pictures
and filtered across, whether slices are filtered across, colour description and range, chroma sample location, and HRD. -/
structure ParamSet where
  vvc : Bool := false
  profile : Nat := 0
  level : Nat := 0
  tier : Bool := false
  width : Nat := 0
  height : Nat := 0
  is422 : Bool := false
  bits : Nat := 10
  ctu : Nat := 64
  tools : List Tool := []
  subpics : List Nat := []
  treatedAsPic : Bool := true
  filterSubpics : Bool := false
  filterSlices : Bool := true
  colour : Nat × Nat × Nat := (1, 1, 1)
  fullRange : Bool := false
  chromaLoc : Option Nat := none
  hrd : HrdSet := {}
  deriving DecidableEq, Repr

/-- What a picture says of itself (R137, R139, R140): type, order count, ph_recovery_poc_cnt, the vertical virtual boundaries in luma
samples from the left, the order counts of its reference pictures, and that of the collocated picture of TMVP. -/
structure PicHead where
  ptype : PicType := .trail
  poc : Nat := 0
  recovery : Option Nat := none
  boundaries : List Nat := []
  refs : List Nat := []
  collocated : Option Nat := none
  deriving DecidableEq, Repr

/-- What a slice says of itself (R125, R126): its picture, CTU row, share, number of CTUs, whether it is an intra slice, and the QP
with which it begins. Slices are independent: no slice names another. -/
structure SliceHead where
  pic : PicHead := {}
  row : Nat := 0
  share : Nat := 0
  ctus : Nat := 0
  intra : Bool := true
  qp : Nat := 0
  deriving DecidableEq, Repr

/-- An SEI message (R142, R190): buffering period with its initial removal delay and offset, picture timing with its removal delay in
pictures and the output delays in ticks and sub-ticks, decoding unit information with its removal-delay increment, recovery point,
mastering display and content light level bytes, T.35 bytes, a time code, and the CRCs of the decoded picture. -/
inductive SeiMsg where
  | bufferingPeriod (delay offset : Nat)
  | pictureTiming (removal output duOutput : Nat)
  | unitInfo (increment : Nat)
  | recoveryPoint (pocs : Nat)
  | mastering (b : List Byte)
  | contentLight (b : List Byte)
  | t35 (b : List Byte)
  | timeCode (hours minutes seconds frames : Nat) (drop : Bool)
  | pictureHash (crcs : List Nat)
  deriving DecidableEq, Repr

/-- A NAL unit that is no slice (R142, R173, R191). -/
inductive HeadNal where
  | aud (irapOrGdr : Bool)
  | vps (p : ParamSet)
  | sps (p : ParamSet)
  | pps (p : ParamSet)
  | pictureHeader (h : PicHead)
  | sei (m : SeiMsg)
  | filler (bytes : Nat)
  deriving DecidableEq, Repr

/-- Where the pictures of a flow, or of a raster, stand in DRAM (R104, R109, R114): for each picture of a ring, the address of its lines,
of its mark table, of its quarter-resolution samples and of its records; and how many pictures the ring holds. -/
structure PicStore where
  lines : Nat := 0
  marks : Nat := 0
  quarter : Nat := 0
  records : Nat := 0
  ring : Nat := 3
  deriving DecidableEq, Repr

/-- Scalar ALU operations (R207). -/
inductive SaluOp where
  | add | sub | and | or | xor | shl | shr | sar | eq | ne | lt | ltu | le | leu | min | minu | max | maxu | clamp | select
  deriving DecidableEq, Repr

/-- Scalar multiplies (R207). -/
inductive SmulOp where
  | low | highS | highU
  deriving DecidableEq, Repr

/-- Scalar divides (R203, R207). -/
inductive SdivOp where
  | quotS | quotU | remS | remU
  deriving DecidableEq, Repr

/-- Scalar memory operations (R207): width in bytes, and whether a load extends the sign. -/
inductive SmemOp where
  | load8 | load8s | load16 | load16s | load32 | store8 | store16 | store32
  deriving DecidableEq, Repr

/-- Control operations (R207, R208). -/
inductive CtrlOp where
  | branchZero | branchNonZero | jump | loop
  deriving DecidableEq, Repr

/-- Vector ALU operations (R207). -/
inductive ValuOp where
  | add | sub | addSatU | addSatS | subSatU | subSatS | absDiff | minU | minS | maxU | maxS
  | and | or | xor | shl | shr | sar | select
  deriving DecidableEq, Repr

/-- Vector compares (R207). -/
inductive VcmpOp where
  | eq | ne | ltU | ltS
  deriving DecidableEq, Repr

/-- Vector multiplies (R207). -/
inductive VmulOp where
  | mul | mac | widenU | widenS
  deriving DecidableEq, Repr

/-- Cross-lane reductions (R207). -/
inductive VredOp where
  | sum | minU | maxU | argminU | minS | maxS | argminS
  deriving DecidableEq, Repr

/-- Vector permutations (R207). -/
inductive VpermOp where
  | shuffle | rotate | broadcast
  deriving DecidableEq, Repr

/-- Vector memory operations (R207). -/
inductive VmemOp where
  | load | store
  deriving DecidableEq, Repr

/-- Moves between register files (R207); a lane move names the lane width as LW codes it. -/
inductive MovsOp where
  | toLane (lw : Fin 3) | fromLane (lw : Fin 3) | toMaskLow | toMaskHigh | fromMaskLow | fromMaskHigh
  deriving DecidableEq, Repr

/-- The profiles of R244. -/
inductive DecProfile where
  | main | main10 | main422 | main444 | other
  deriving DecidableEq, Repr

/-- What the active parameter sets of a slice say (R244): profile, level times 10, number of layers, size of the coded picture, chroma
format, bit depths, conformance window and CTU size. -/
structure DecSps where
  profile : DecProfile := .main10
  level : Nat := 0
  layers : Nat := 1
  width : Nat := 0
  height : Nat := 0
  chroma : Nat := 1
  depthY : Nat := 10
  depthC : Nat := 10
  cropX : Nat := 0
  cropY : Nat := 0
  cropW : Nat := 0
  cropH : Nat := 0
  ctb : Nat := 64
  deriving DecidableEq, Repr

/-- A NAL unit of a decode stream, as the syntax of its standard reads it (R244, R248, R253). A slice gives its active parameter sets, none
where one is missing, its picture's order count and recovery point, the pictures it refers to and those its reference set drops, its
first CTU, the bins of each CTU in decoding order, and the position of the first CTU that cannot be decoded, with whether a syntax value
(case 0x4) or the end of the data (case 0x3) is why. `hash` is a decoded picture hash SEI and whether it matches. -/
structure DecNal where
  sps : Option DecSps := none
  poc : Int := 0
  recovery : Option Int := none
  refs : List Int := []
  drops : List Int := []
  first : Nat := 0
  ctuBins : List Nat := []
  bad : Option Nat := none
  badSyntax : Bool := false
  hash : Option Bool := none
  deriving DecidableEq, Repr

/-- What the parser of a decode lane finds (R248): the packets, by sequence number, whose sequence-folded mark fails as it begins an access
unit (R530), and what the syntax of the NAL units it decodes says, one entry each. -/
structure ParseIn where
  lane : Fin 4
  lost : List Nat := []
  nals : List DecNal := []
  deriving DecidableEq, Repr

/-- The work of one row slot of reconstruction (R249): the samples of the CTU row of the coded picture as its parsed CTUs decode, by rows of
luma and of chroma, at the bit depth of the stream; whether the lane's SRAM has lost the row, and whether a write leaves the buffers. -/
structure DecRowWork where
  ctx : Fin 16
  row : Nat
  y : List (List Nat) := []
  cb : List (List Nat) := []
  cr : List (List Nat) := []
  ecc : Bool
  outOfBounds : Bool
  deriving DecidableEq, Repr

/-- A source of composition or scaling (R263): its type as LAYCFG.SRCTYPE codes it, and its number. -/
structure PicSrc where
  kind : Nat := 0
  num : Nat := 0
  deriving DecidableEq, Repr

/-- A decode stream context's settings beyond its registers (R246, R248, R251): MAXDPB, CTU rows with a row slot, the row-ready
mark of row 0 and the offset of its value from the Turn count, full-range flag, the video PID of a TS input, sprop-max-don-diff of an RTP
input, and where the pictures of its output ring stand in DRAM. -/
structure DecDef where
  maxDpb : Nat := 0
  rows : Nat := 0
  mark0 : Nat := 0
  markOff : Nat := 0
  fullRange : Bool := false
  pid : Nat := 0
  donDiff : Nat := 0
  store : Option PicStore := none
  deriving DecidableEq, Repr

/-- A rendition raster (R265): its source and size, and where its pictures stand in DRAM. -/
structure RendDef where
  src : PicSrc := {}
  width : Nat := 0
  height : Nat := 0
  store : Option PicStore := none
  deriving DecidableEq, Repr

/-- A conversion set (R271, R277): three matrices of 15 numbers (nine coefficients by rows, three input offsets, three output
offsets) and two LUTs of 3 × 1,025 entries. -/
structure ConvSet where
  min : List Int := []
  mmid : List Int := []
  mout : List Int := []
  lutA : List Nat := []
  lutB : List Nat := []
  deriving DecidableEq, Repr

/-- A surface (R273, R277): size, format (0 AYUV8888, 1 CLUT8), pixel bytes and palette bytes. -/
structure Surface where
  width : Nat := 0
  height : Nat := 0
  fmt : Nat := 0
  pixels : List Byte := []
  palette : List Byte := []
  deriving DecidableEq, Repr

/-- What an input port sees from one edge of FS to the next of the same sense (R284, R289, R296): whether the edges rise, the stamp S of the
first, the times of both in ps since the PTP epoch, and SD at the rising and at the falling BCLK edge of each bit clock, from that of the first
FS edge to that of the second. -/
structure AudioFrame where
  rising : Bool
  stamp : Word
  at_ : Nat
  to_ : Nat
  sd : List (Bool × Bool)
  deriving DecidableEq, Repr

/-- An audio port's settings beyond its registers (R291, R293, R308): its flow context, the mask of the Skein, and the ring of blocks in DRAM:
its address and how many blocks it holds. -/
structure PortDef where
  flow : Nat := 0
  mask : Nat := 0xFFFF
  store : Option (Nat × Nat) := none
  deriving DecidableEq, Repr

/-- The servo gains of a base in section 0x09 (R342), in units of 2⁻⁴⁰ per ns. -/
structure TbDef where
  kp : Nat := 0
  ki : Nat := 0
  deriving DecidableEq, Repr

/-- Where a send flow takes its content from (R320, R331, R337): an encode channel, a composition output, an audio flow, or
the ancillary data of an ingest flow. -/
inductive EgSrc where
  | chan (ch : Nat)
  | output (o : Nat)
  | audio
  | anc (f : Nat)
  deriving DecidableEq, Repr

/-- A TS of a send flow (R327–R329): rate in kb/s, program number, PIDs, stream type of the video, audio PIDs with the first
entry of their channels, the ingest flow of the ST 2038 PID, the positions of PAT and PMT and of a PCR in a period of TS packets. -/
structure TsDef where
  kb : Nat := 8
  program : Nat := 1
  tsid : Nat := 1
  pmtPid : Nat := 32
  videoPid : Nat := 33
  videoType : Nat := 0x24
  audioPids : List (Nat × Nat) := []
  vancPid : Option Nat := none
  vancSrc : Nat := 0
  sctePid : Option Nat := none
  period : Nat := 1
  patAt : List Nat := []
  pmtAt : List Nat := []
  pcrAt : List Nat := []
  deriving DecidableEq, Repr

/-- What an IP header takes from the Skein (R319): its addresses, DSCP (as a traffic class over IPv6), TTL or hop limit, and flow label. -/
structure NetHead where
  src : Nat := 0
  dst : Nat := 0
  dscp : Nat := 0
  ttl : Nat := 64
  label : Nat := 0
  deriving DecidableEq, Repr

/-- A send flow's settings beyond its registers (R304, R306, R315–R319, R325, R331, R333, R337, R572): source, RTP payload type and SSRC,
PMAX, TS, key slot, whether its next hop is resolved by ARP or NDP, delay in ns, channels as (port, slot), whether it is
L16, packets of a line of ST 2110-20, channel status bytes, filter of DID and SDID pairs, and the video
flow of its picture. Of each leg: the headers of its packets (R319, R333) and its next hop, by IP address and, where the Skein gives it, MAC. -/
structure EgDef where
  src : EgSrc := .audio
  pt : Nat := 96
  ssrc : Nat := 0
  pmax : Nat := 1400
  ts : TsDef := {}
  keySlot : Nat := 0
  resolve : Bool := false
  delayNs : Nat := 0
  chans : List (Nat × Nat) := []
  l16 : Bool := false
  linePkts : Nat := 1
  status : List Byte := []
  filter : List (Nat × Nat) := []
  video : Nat := 0
  head : NetHead := {}
  vlan : Option Nat := none
  srcPort : Nat := 5004
  dstPort : Nat := 5004
  hop : Nat := 0
  hopMac : Nat := 0
  deriving DecidableEq, Repr

/-- What comes with a media packet that leaves from outside the packetiser: the time at which it leaves on each leg, ns on
the plane's base; whether the two SRTP copies agree (R332); whether the ancillary packet's stored ECC holds (R324); whether a panic
port has the line clean (R416). -/
structure SendInfo where
  at_ : Nat
  atB : Nat := 0
  srtpAgree : Bool := true
  ancEcc : Bool := true
  lineClean : Bool := true
  deriving DecidableEq, Repr

/-- Where the packets of a receive flow go (R316): to ingest, as pictures or as ancillary packets; to a decode context; or to an audio port
that plays them, by the bytes of a sample, AES3 subframes (R304), and the channels of a frame. -/
inductive RxMedia where
  | video
  | anc
  | dec (ctx : Fin 16)
  | audio (port : Fin 48) (bytes : Nat) (aes : Bool) (chans : Nat)
  deriving DecidableEq, Repr

/-- A receive flow of section 0x09 (R316, R317, R332, R572): its port, destination address and UDP port, the source it names,
whether the destination is multicast, its SRTP key slot, where its packets go. -/
structure RxDef where
  port : Nat := 0
  v6 : Bool := false
  dst : Nat := 0
  udp : Nat := 0
  src : Option Nat := none
  multicast : Bool := false
  srtp : Bool := false
  keySlot : Nat := 0
  media : RxMedia := .video
  deriving DecidableEq, Repr

/-- A PTP instance of section 0x09 (R338): its ports, domain, time-stamp asymmetry in 2⁻¹⁶ ns, whether it accepts the
intervals of ST 2059-2 or of the default profile, its clock identity, its transport (0 UDP over IPv4, 1 UDP over IPv6, 2 IEEE 802.3), and
whether a Delay_Req goes to the leader alone. -/
structure PtpDef where
  ports : List Nat := []
  domain : Nat := 127
  asym : Int := 0
  st2059 : Bool := true
  clockId : Nat := 0
  transport : Nat := 0
  unicast : Bool := false
  deriving DecidableEq, Repr

/-- A port of section 0x09 (R315, R319): MAC address, IPv4 and IPv6 host addresses, VLAN IDs, whether untagged frames are accepted, and
DSCP, TTL and flow label of the frames of its own protocols. -/
structure NetPortDef where
  mac : Nat := 0
  addrs4 : List Nat := []
  addrs6 : List Nat := []
  vlans : List Nat := []
  untagged : Bool := true
  dscp : Nat := 0
  ttl : Nat := 1
  label : Nat := 0
  deriving DecidableEq, Repr
/-- The end of a measuring window of a reference (R363), as its counters and the DPLL loop show it. -/
structure RefWindow where
  /-- R361: edges are arriving at the end of the window. -/
  alive : Bool
  /-- R363: whole periods counted. -/
  periods : Nat
  /-- R363: time they took, units of 1.25 ns. -/
  span : Nat
  /-- R372: output frequency of the DPLL at the end of the window, units of 2⁻⁴⁰ against the crystal, while it follows. -/
  freq : Int
  /-- R372: phase error at the end of the window, ns. -/
  phase : Int
  deriving DecidableEq, Repr

/-- What error checking finds on a 64-byte line of DRAM (R402). -/
inductive LineErr where
  | none
  | linkCorrected
  | linkUncorrectable
  | arrayCorrected
  | arrayUncorrectable
  | addressSyndrome
  deriving DecidableEq, Repr

/-- A dynamic DRAM request (R408): its requester, whether it is a parse read of a decode lane, a read of `count` bytes or a
write of `data`, what error checking finds on each 64-byte line, and the fabric cycles that its commands, its data and its
closing precharge take. -/
structure DynReq where
  who : Nat
  parse : Bool := false
  write : Bool := false
  addr : Nat
  count : Nat := 64
  data : List Byte := []
  errs : List LineErr := []
  cycles : Nat := 64
  deriving DecidableEq, Repr

/-- The blocks of one partition in a directory record (R431, R433): logical blocks in order, then spares. -/
structure PartMap where
  blocks : List Nat := []
  spares : List Nat := []
  deriving DecidableEq, Repr

/-- The anchor record (R430): what it says of the parts. Physical blocks are named as the MAP entries of R433 name them. -/
structure AnchorRec where
  targets : Nat := 1
  luns : Nat := 1
  blockPages : Nat := 256
  endlim : Nat := 20000
  refth : Nat := 60
  rdlim : Nat := 100000
  retryMax : Nat := 15
  bad : List Nat := []
  dir : PartMap := {}
  deriving DecidableEq, Repr

/-- A directory record (R433). PSTATE is held as state and attempt count. -/
structure DirRec where
  seq : Nat := 0
  slots : List Nat := [0xFF, 0xFF, 0xFF]
  pstate : List (Nat × Nat) := [(0, 0), (0, 0), (0, 0), (0, 0), (0, 0), (0, 0)]
  pgen : List Nat := [0, 0, 0, 0, 0, 0]
  scrubpass : Nat := 0
  insttok : Nat := 0
  goldtok : Nat := 0
  map : Tab PartMap := []
  deriving DecidableEq, Repr

/-- What the BCH decoder makes of a codeword at one read level (R436): its 2,064 protected bytes, and the bits corrected. -/
structure CwTry where
  bytes : List Byte
  corrected : Nat := 0
  deriving DecidableEq, Repr

/-- The reading of one codeword (R437): the zero bits found in its 2,289 bytes at level 0, and what decoding gives at levels 0, 1
and so on, none where it fails. -/
structure CwRead where
  zeros : Nat := 1024
  tries : List (Option CwTry) := []
  deriving DecidableEq, Repr

/-- What a page read is for: pages of a partition, an anchor (R430), or the newest page of a copy of the directory (R434). -/
inductive NandData where
  | page
  | anchor (ch : Bool) (a : Option AnchorRec)
  | directory (copy : Bool)
  deriving DecidableEq, Repr

/-- The read of a page (R437): its partition, its logical page there, its codewords, and what it is for. -/
structure NandRead where
  part : Nat := 0
  page : Nat := 0
  cws : List CwRead := []
  data : NandData := .page
  deriving DecidableEq, Repr

/-- What the firmware of a core has put into its CSRs, and where it is, when a fast source reaches it (R487). -/
structure FwCore where
  fie : Bool := false
  tvec : DWord := 0
  pc : DWord := 0
  mtvec : DWord := 0
  mie : Bool := false
  deriving DecidableEq, Repr

/-- How a lane loses lock (R465). -/
inductive LockLoss where
  | codeErrors
  | noMarker
  | signal
  deriving DecidableEq, Repr

/-- A frame as a Strand receiver took it (R467, R469): the bytes between SOF and EOF, its code errors, whether it ended in ERR,
whether EOF came in time, the time of arrival in ns, and the lane of each code error. -/
structure StrandFrame where
  bytes : List Byte
  codeError : Bool := false
  err : Bool := false
  timely : Bool := true
  at_ : Nat := 0
  errLanes : List Nat := []
  deriving DecidableEq, Repr

/-- A frame that a group is to send (R467): a segment of a line of a composition output's picture, the ancillary packets of a flow,
or a frame of another type with its payload and whether a DRAM read that fed it was poisoned (R470). -/
inductive StrandSend where
  | raster (output turn line soff pixels : Nat) (clean : Bool)
  | anc (flow turn : Nat)
  | other (type : Nat) (payload : List Byte) (poisoned : Bool)
  deriving DecidableEq, Repr

/-- A command message (R504): its 64 bytes, and its argument. -/
structure CmdMsg where
  head : List Byte
  arg : List Byte := []
  deriving DecidableEq, Repr

/-- What a rate trim names (R192). -/
inductive RateTarget where
  | chan (ch : Nat)
  | group (g : Nat)
  deriving DecidableEq, Repr

/-- What a mute names (R301, R334): a send flow, or an audio port with its slot mask. -/
inductive MuteTarget where
  | flow (f : Nat)
  | port (n mask : Nat)
  deriving DecidableEq, Repr

/-- What a forced substitution names (R509). -/
inductive Member where
  | flow (f : Nat)
  | dec (s : Nat)
  deriving DecidableEq, Repr

/-- A splice insert (R335): channel, splice Turn, splice_command_type, the bytes of the command before and after its
splice_time(), its descriptors, and REPEATS. -/
structure SpliceArg where
  chan : Nat
  spliceTurn : Nat
  ctype : Nat := 5
  pre : List Byte := []
  post : List Byte := []
  descs : List Byte := []
  repeats : Nat := 0
  deriving DecidableEq, Repr

/-- What an install meets outside the bytes it has received (R69, R77): the sections whose payload does not parse within its limits;
the bytes that a partition reads back differently, each as partition, offset and value; and the partitions with a page that cannot be
read back. -/
structure InstallBack where
  unparsed : List Nat := []
  diffs : List (Nat × Nat × Byte) := []
  unread : List Nat := []
  deriving DecidableEq, Repr

/-- The argument of a command, by its code (R509). -/
inductive CmdArg where
  | hello
  | variant (v : Nat)
  | trim (t : RateTarget) (kb : Nat)
  | mute (t : MuteTarget)
  | unmute (t : MuteTarget)
  | forceSub (m : Member)
  | release (m : Member)
  | splice (x : SpliceArg)
  | keyLoad
  | keyClear (slot : Nat)
  | selfTest (pc : Nat)
  | ply (action : Nat)
  | power (target : Nat)
  | installBegin (golden : Bool) (len : Nat)
  | installData (off : Nat) (bytes : List Byte)
  | installCommit (v : InstallBack)
  | installAbort
  | logRead (addr first count : Nat)
  | unknown
  deriving DecidableEq, Repr

/-- An in-band datagram (R507): the bytes of its UDP payload, its source address and port, and what its message asks. -/
structure MgmtDatagram where
  bytes : List Byte
  source : Nat × Nat
  cmd : CmdArg
  deriving DecidableEq, Repr

/-- A PTP message (R338, R339): messageType, domain, sequenceId, correctionField in 2⁻¹⁶ ns, twoStep flag, the sender's identity,
logMessageInterval, the origin or receive timestamp in 2⁻¹⁶ ns, the dataset of an Announce in order of comparison, and the
port identity of the requester of a Delay_Resp. -/
structure PtpMsg where
  type : Nat
  domain : Nat
  seq : Nat
  corr : Int := 0
  twoStep : Bool := false
  sender : Nat := 0
  logInt : Int := 0
  time : Int := 0
  dataset : List Nat := []
  requester : Nat := 0
  deriving DecidableEq, Repr

/-- A received frame (R316): its lane, its bytes from the destination address to the FCS, and its time stamp in 2⁻¹⁶ ns on the port's
stamping base (R340). -/
structure EthFrame where
  lane : Fin 16
  bytes : List Byte
  at_ : Int := 0
  deriving DecidableEq, Repr

/-- The physical state of a port (R314, R353). -/
structure PortPhy where
  blockLk : Bool := true
  fecLk : Bool := true
  alignLk : Bool := true
  lfault : Bool := false
  rfault : Bool := false
  deriving DecidableEq, Repr

/-- What a debugger halts, steps and resumes (R579). -/
inductive DbgUnit where
  | spindle (n : Fin 192)
  | core (k : Fin 16)
  deriving DecidableEq, Repr

/-- A heartbeat of path A as it arrived (R605): its payload and its time of receipt on the reference base, ns. -/
structure Heartbeat where
  payload : List Byte
  at_ : Nat
  deriving DecidableEq, Repr

/-- An agreement record (R617). -/
structure AgreeRec where
  ctx : Nat
  kind : Nat
  line : Nat := 0
  turn : Nat
  crc : Word
  deriving DecidableEq, Repr

/-- A JOIN frame (R613): a request, or a grant with the refresh Turn of each plane. -/
inductive JoinMsg where
  | request
  | grant (turns : List Nat)
  deriving DecidableEq, Repr

/-- What a record of an adopted kind of a state copy brings (R619). -/
inductive CopyData where
  | rate (ch : Nat) (carry : Int) (betaIntra betaInter qIntra qInter : Nat)
  | statmux (allocs : List (Nat × Nat))
  | spindle (addr : Nat) (bytes : List Byte)
  | lane (n k poc since gdrIdx : Nat) (refresh : Bool)
  | egress (f seq roc : Nat) (ccs : List (Nat × Nat)) (muted : Bool)
  | member (f : Nat) (joined : Bool) (run : Nat)
  | audio (port : Nat) (joined : Bool) (run : Nat)
  | cvu (ctx : Nat) (state : List Byte)
  deriving DecidableEq, Repr

/-- A record of a state copy (R619): its KIND and ID, and what its bytes bring. -/
structure CopyRec where
  kind : Nat
  id : Nat := 0
  data : CopyData
  deriving DecidableEq, Repr

/-- A requester of the register map (R657). -/
inductive Requester where
  | pcie
  | debug
  | core (k : Fin 16)
  | ply
  deriving DecidableEq, Repr

/-- An access to the register map (R12, R657): its requester, address, size in bytes, and the value of a write. -/
structure Access where
  who : Requester
  addr : Nat
  size : Nat := 4
  value : Option Word := none
  deriving DecidableEq, Repr

/-- One issue stream's table (R29, R30): the plane it is bound to and its slot words in order. -/
structure StreamDef where
  plane : Nat := 0
  words : List DWord := []
  deriving DecidableEq, Repr

/-- A flow context of section 0x08 beyond its registers (R97, R99, R101, R112): receive-buffer bytes, colour description (0 BT709 SDR,
1 BT2020 SDR, 2 HLG, 3 PQ), full-range flag, the DRAM addresses of its picture lines, mark table, quarter-resolution samples and records
for each of `ring` pictures, and the filter of DID and SDID pairs of an ancillary flow. -/
structure FlowDef where
  group : Option Nat := none
  bufBytes : Nat := 0
  colour : Nat := 0
  fullRange : Bool := false
  store : Option PicStore := none
  ancFilter : List (Nat × Nat) := []
  deriving DecidableEq, Repr

/-- An encode channel's settings of the Skein beyond its registers (R99, R113, R142, R172, R179, R182): plane, source, alignment
group, CPB delay in ns, ingest start in ns after the boundary, the bound on AU overhead in bits, the starting beta of intra and inter
pictures, 16 fraction bits, the colour description and range of a source that is no ingest flow, and the mastering-display and
content-light-level bytes. -/
structure ChanDef where
  plane : Nat := 0
  src : PicSrc := {}
  group : Option Nat := none
  cpbNs : Nat := 0
  startNs : Nat := 0
  ovh : Nat := 0
  betaIntra : Nat := 65536
  betaInter : Nat := 65536
  colour : Nat := 0
  fullRange : Bool := false
  mastering : Option (List Byte) := none
  contentLight : Option (List Byte) := none
  deriving DecidableEq, Repr

/-- A Spindle kernel descriptor (R231). -/
structure KernelDesc where
  entry : Nat := 0
  subst : Nat := 0
  wmax : Nat := 0
  param : Nat := 0
  valid : Bool := false
  isSubst : Bool := false
  outwin : Nat := 0
  deriving DecidableEq, Repr

/-- A parameter block of the Spindle directory (R231): plan engine and bytes. -/
structure ParamBlock where
  engine : Nat
  bytes : List Byte
  deriving DecidableEq, Repr

/-- The work queues that section 0x10 gives to what the device receives (R501): in-band management and its UDP port, PTP, other
frames, expansion completions, and the handler of each. -/
structure SvcDef where
  mgmtQ : Nat := 0
  mgmtPort : Nat := 0
  ptpQ : Nat := 0
  frameQ : Nat := 0
  expQ : Nat := 0
  deriving DecidableEq, Repr

/-- An end of a transfer (R30, R225, R324): DRAM, a line of a Spindle's scratchpad with the arrival counter that it raises, the
line of an egress flow, or the store of another unit. -/
inductive MoveEnd where
  | dram (addr : Nat)
  | pad (engine off counter : Nat)
  | egress (flow line : Nat)
  | unit (cls idx : Nat)
  deriving DecidableEq, Repr

/-- A transfer descriptor (R30, R227, R406, R533): its ends, bytes, the output window whose commit word a conditional transfer
expects (engine, byte address of the word in the scratchpad, and tag), the check-value context that snoops it (context, check or generate, address of the
mark), the Twists counted from its issue in which its planned DRAM commands fall, and activations planned. -/
structure MoveDesc where
  src : MoveEnd := .dram 0
  dst : MoveEnd := .dram 0
  len : Nat := 64
  window : Option (Nat × Nat × Nat) := none
  cvu : Option (Nat × Bool × Nat) := none
  plan : List Nat := [0]
  acts : Nat := 1
  deriving DecidableEq, Repr

/-- The entry of a check-value context (R534): mode, plane of its stream, its fold address and its save slot in DRAM. -/
structure CvuDef where
  check : Bool := false
  seqFold : Bool := false
  plane : Nat := 0
  foldAddr : Nat := 0
  save : Nat := 0
  deriving DecidableEq, Repr

/-- A test descriptor (R30, R547): the length of the pattern in fabric cycles. -/
structure TestDesc where
  cycles : Nat := 1
  deriving DecidableEq, Repr

/-- What section 0x0F says of a pair beyond PLYCFG (R603): the two DEVSN values in order, whether a decode AU feeds an encode
channel (R626), the DRAM base of the snapshot of each plane (R619), and the check-value context of the copy's mark (R620). -/
structure PairDef where
  devsn : Nat × Nat := (0, 0)
  decFeeds : Bool := false
  snap : List Nat := []
  cvu : Nat := 0
  deriving DecidableEq, Repr

/-- What a transfer in a tree of tables says of a board's PMIC (R589): the off sequence of section 0x01, bytes written on MS0. -/
structure PmicDef where
  off : List Byte := []
  deriving DecidableEq, Repr

/-- What the sections of a Skein, or a variant delta, put into the device's tables (R66, R86): SK register words by BAR0
address, and the tables no register shows. -/
structure SkeinTables where
  /-- SK register words, by BAR0 address (R16). -/
  sk : Tab Word := []
  /-- Issue streams (R29). -/
  streams : Tab StreamDef := []
  /-- Flow contexts (R97). -/
  flows : Tab FlowDef := []
  /-- Encode channel contexts (R172). -/
  chans : Tab ChanDef := []
  /-- Spindle kernel descriptors (R231). -/
  kernels : Tab KernelDesc := []
  /-- Spindle library bundles (R229). -/
  lib : Tab (BitVec 128) := []
  /-- Constant tables T0–T7, 1,024 × table + entry (R217). -/
  consts : Tab Word := []
  /-- Parameter blocks (R231). -/
  params : List ParamBlock := []
  /-- Decode stream contexts (R251). -/
  decs : Tab DecDef := []
  /-- Rendition rasters (R265). -/
  rends : Tab RendDef := []
  /-- Coefficient sets of 1,408 words (R267). -/
  coefs : Tab (List Int) := []
  /-- Conversion sets, 4 × output + set (R271). -/
  convs : Tab ConvSet := []
  /-- Surfaces (R273). -/
  surfaces : Tab Surface := []
  /-- Audio ports (R293). -/
  ports : Tab PortDef := []
  /-- Servo gains of time bases (R342). -/
  tbs : Tab TbDef := []
  /-- Send flows (R325). -/
  egs : Tab EgDef := []
  /-- Receive flows (R316). -/
  rxs : Tab RxDef := []
  /-- PTP instances (R338). -/
  ptps : Tab PtpDef := []
  /-- Ethernet ports (R315). -/
  netPorts : Tab NetPortDef := []
  svc : SvcDef := {}
  /-- Transfer descriptors (R30). -/
  moves : Tab MoveDesc := []
  /-- Check-value contexts (R534). -/
  cvus : Tab CvuDef := []
  /-- Re-threading tables of each plan column: the words with which the first body after a handover begins, by stream (R234). -/
  rethread : Tab (List (Nat × List DWord)) := []
  /-- Test descriptors (R30). -/
  tests : Tab TestDesc := []
  /-- Key slots that may serve management (R507). -/
  mgmtSlots : List Nat := []
  /-- Ports on which in-band management is served (R507). -/
  mgmtPorts : List Nat := []
  /-- Two-ply (R603). -/
  pair : PairDef := {}
  /-- Power-off sequence (R589). -/
  pmic : PmicDef := {}
  /-- MEM division 6 asked for by a P1 variant (R86). -/
  div6 : Bool := false
  deriving DecidableEq, Repr

/-- What the work of a RUN brings from outside the sequencer (R30): what the unit finds in the samples, bits and tables it works on.
The kernels of units that need nothing more are told by the word alone. -/
inductive RunWork where
  | plain
  | ingestLine (line : Nat) (late ecc poison : Bool)
  | lanePicture (slot : Nat)
  | laneFetch (w : FetchWork)
  | lanePredict (w : PredictWork)
  | laneRow (w : RowOut)
  | laneTail (slot : Nat)
  | rowKernel (ch row : Nat)
  | pictureKernel (ch : Nat)
  | endPicture (ch : Nat)
  | statmux (g : Nat)
  | decRow (w : DecRowWork)
  | compose (line : Nat) (ecc : List Nat)
  | scale (line : Nat) (ecc : Bool)
  | audioSlot (j : Nat)
  | snapshot (plane : Fin 4) (image : List Byte)
  deriving DecidableEq, Repr

/-- A section as it streamed from NAND (R71): its position in the table, its stored bytes, whether its payload parses within its limits,
what its payload puts into the device's tables, the deltas of a variant section by plane, and the engines whose copy of the library then
fails its check (R232). -/
structure SectionIn where
  pos : Nat
  stored : List Byte
  parses : Bool := true
  tables : SkeinTables := {}
  deltas : List (Nat × SkeinTables) := []
  libBad : List (Fin 192) := []
  deriving DecidableEq, Repr

/-- The commands: every operation and event of the table, in its order. -/
inductive Instr where
  /-- POWER_ON_RESET (R78): Supplies become valid or the power-on reset ball is released, and the device restarts with crystal qualification, full DRAM training and cleared RWS registers. -/
  | powerOnReset
  /-- WARM_RESET (R78): A warm reset from any source flushes unflushed Reel entries, keeps RWS registers and restarts the boot sequence with a slot chosen by R72. -/
  | warmReset
  /-- RESETCTL_WARM (R95): A write to GLB.RESETCTL with KEY 0xA5C3 and WARM 1 flushes the Reel and requests a warm reset; other writes are ignored. -/
  | resetctlWarm (v : Word)
  /-- PCIE_HOT_RESET (R502): A PCIe hot reset or link-down resets only the endpoint, clearing the ring registers and the negotiated version while the planes keep running. -/
  | pcieHotReset
  /-- SUPPLY_WARNING (R645): A watched rail stays below its minimum for 1 µs, which sets WARN and raises a level-3 supply fault. -/
  | supplyWarning (rail : Fin 8)
  /-- SUPPLY_TRIP (R645): A watched rail stays below 94 % of nominal for 1 µs, which asserts power-on reset with SUPRST set and runs no Reel flush. -/
  | supplyTrip (rail : Fin 8)
  /-- SUPPLY_LOSS (R589): Supplies are lost and the device enters P4 from any state. -/
  | supplyLoss
  /-- THERMAL_WARNING (R650): A sensor exceeds the Tj maximum of the ordering code, which sets TEMPWARN and raises a level-3 fault. -/
  | thermalWarning (sensor : Fin 8) (t : BitVec 12)
  /-- THERMAL_SHUTDOWN (R650): A sensor reaches 120 °C, which drives the pins safe, flushes the Reel and holds power-on reset until the device cools. -/
  | thermalShutdown (sensor : Fin 8) (t : BitVec 12)
  /-- CRYSTAL_WINDOW (R80): A 10,000-cycle RC window of crystal edge counting ends and passes or fails against 4,850 to 5,150 edges. -/
  | crystalWindow (edges : Nat)
  /-- CRYSTAL_QUAL_TIMEOUT (R80): The crystal has not qualified 500 ms after reset, so the device stays on RC with FAULT_N low and STAGE 3. -/
  | crystalQualTimeout
  /-- ROOT_PLL_LOCK (R383): The root PLL locks and the clock domains are released with aligned edges. -/
  | rootPllLock
  /-- IMAGE_HEADER_READ (R69): The header, section table and signature of an image have been read, and checks 1 to 8 run on them. -/
  | imageHeaderRead (h : List Byte)
  /-- SECTION_STREAMED (R71): A section finishes streaming from NAND, passes or fails checks 9, 10 and 12, and is then applied or staged. -/
  | sectionStreamed (x : SectionIn)
  /-- DIRECTORY_REPAIR (R434): The valid directory record is rewritten to the copy that lacks it, within 1 s of boot step 5. -/
  | directoryRepair
  /-- DRAM_TRAINING_DONE (R79): Training of the 16 DRAM channels completes, or restored values are confirmed. -/
  | dramTrainingDone (ok : Bool)
  /-- POST_DONE (R79): Power-on self-test of the columns completes, giving a pass or fail for each column. -/
  | postDone (pass : BitVec 16)
  /-- PLANE_START (R81): A plane starts at the first house frame pulse once its sections, time base, columns and two-ply role are ready. -/
  | planeStart (p : Fin 4)
  /-- BOOT_LATE_TIMER (R82): A plane has not started 3.0 s after reset, so BOOTSTAT.LATE is set and an interrupt is raised. -/
  | bootLateTimer
  /-- FREE_START (R82): FREE_MS expires before a steady base locks, so the base is set once to its source time without a step. -/
  | freeStart (b : Fin 16)
  /-- SLOT_PROVEN (R74): An unproven image stays on air for 60 s without a reset, so its slot is marked proven and its attempt count is cleared. -/
  | slotProven (golden : List (List Byte))
  /-- TWIST_START (R24): Every 256 fabric cycles a new Twist begins at ring position k mod 64. -/
  | twistStart
  /-- BODY_START (R32): The first owned Twist of a plane's body begins and every stream pointer returns to its first word. -/
  | bodyStart (p : Fin 4)
  /-- TAIL_START (R48): A plane's elastic tail begins, and pointer swaps, column choices and gate openings for the next boundary are made. -/
  | tailStart (p : Fin 4)
  /-- TURN_BOUNDARY (R26): A plane's tail ends and the next Turn begins, with its Turn count rising by 1. -/
  | turnBoundary (p : Fin 4)
  /-- HOUSE_FRAME_PULSE (R28): A plane's time base reaches a multiple of the frame period, which fixes hₙ and the error eₙ. -/
  | houseFramePulse (p : Fin 4)
  /-- NOP (R30): The stream waits until WAIT further owned Twists have begun. -/
  | nop (st : Fin 64)
  /-- RUN (R30): The sequencer issues a kernel to a target with a budget in fabric cycles. -/
  | run (st : Fin 64) (work : RunWork)
  /-- MOVE (R30): The sequencer starts a DRAM or fabric transfer from its descriptor. -/
  | move (st : Fin 64) (breaks : Bool) (errs : List LineErr)
  /-- AWAIT (R30): The stream checks that a mark holds the expected value. -/
  | await (st : Fin 64)
  /-- MARK (R30): A mark value is written when the target completes its RUN, or at once if the target is idle. -/
  | mark (st : Fin 64)
  /-- TEST (R30): A self-test step starts on the target, which is busy until the step ends. -/
  | test (st : Fin 64)
  /-- TURN (R30): The stream ends its program for the body and idles. -/
  | turn (st : Fin 64)
  /-- RUN_ARRIVAL (R210): A RUN reaches its engine, which either latches the bank and starts, or runs into an overrun. -/
  | runArrival (n : Fin 192)
  /-- RUN_COMPLETE (R210): A kernel drains its results and reports completion, and its pending MARK is written. -/
  | runComplete (cls : Fin 13) (idx : Nat)
  /-- BUDGET_EXPIRY (R211): A target's budget counter reaches BUDGET before completion, so it is aborted without writing its MARK. -/
  | budgetExpiry (cls : Fin 13) (idx : Nat)
  /-- ABORT_COMPLETE (R215): An aborted unit stops within 16 cycles and is ready for the next RUN. -/
  | abortComplete (cls : Fin 13) (idx : Nat)
  /-- OWNERSHIP_ABORT (R46): At the end of a Twist with an ownership breach, the requesting unit is aborted. -/
  | ownershipAbort (cls : Fin 13) (idx : Nat)
  /-- BODY_END_SHORT (R32): A stream has not reached TURN at the end of the body's last owned Twist, which is a budget breach. -/
  | bodyEndShort (st : Fin 64)
  /-- TEST_STEP_END (R30): A self-test step ends after its pattern length and the target becomes free. -/
  | testStepEnd (cls : Fin 13) (idx : Nat)
  /-- MOVE_COMPLETE (R225): A MOVE's last beat is written and its arrival counter rises. -/
  | moveComplete (st : Fin 64) (failed : List Nat)
  /-- CVU_SEED (R534): A check-value context loads its mode and fold fields and resets its sequence number. -/
  | cvuSeed (ctx : Fin 2048)
  /-- CVU_SAVE (R534): A check-value context writes its state to its save slot. -/
  | cvuSave (ctx : Fin 2048)
  /-- CVU_RESTORE (R534): A check-value context loads its state from its save slot. -/
  | cvuRestore (ctx : Fin 2048)
  /-- SALU (R207): A scalar ALU operation executes with latency 1. -/
  | salu (n : Fin 192) (cyc : Nat) (op : SaluOp)
  /-- SMUL (R207): A 32 × 32 scalar multiply executes with latency 3. -/
  | smul (n : Fin 192) (cyc : Nat) (op : SmulOp)
  /-- SDIV (R203): A 32-bit divide executes with latency 20 under the divide-by-zero rules. -/
  | sdiv (n : Fin 192) (cyc : Nat) (op : SdivOp)
  /-- SMEM (R207): A scalar load or store accesses the scratchpad. -/
  | smem (n : Fin 192) (cyc : Nat) (op : SmemOp)
  /-- STAB (R207): An entry of a constant table is read. -/
  | stab (n : Fin 192) (cyc : Nat)
  /-- CTRL (R208): A branch, jump or LOOP takes effect after two delay bundles. -/
  | ctrl (n : Fin 192) (cyc : Nat) (op : CtrlOp)
  /-- ACHK (R224): An arrival counter is checked against a threshold, and a failure is cause 0x7. -/
  | achk (n : Fin 192) (cyc : Nat)
  /-- CSR (R207): RCYC, PTURN, PCOL, KIDX, KERNEL or SUBST is read. -/
  | csr (n : Fin 192) (cyc : Nat)
  /-- VALU (R207): A vector ALU operation executes with latency 2. -/
  | valu (n : Fin 192) (cyc : Nat) (op : ValuOp)
  /-- VCMP (R207): A lane compare writes a mask register. -/
  | vcmp (n : Fin 192) (cyc : Nat) (op : VcmpOp)
  /-- VMUL (R207): A vector multiply or multiply-accumulate executes. -/
  | vmul (n : Fin 192) (cyc : Nat) (op : VmulOp)
  /-- VSAD (R207): A vector sum of absolute differences executes. -/
  | vsad (n : Fin 192) (cyc : Nat)
  /-- VRED (R207): A cross-lane reduction writes a scalar register. -/
  | vred (n : Fin 192) (cyc : Nat) (op : VredOp)
  /-- VPERM (R207): A vector shuffle, rotate or broadcast executes. -/
  | vperm (n : Fin 192) (cyc : Nat) (op : VpermOp)
  /-- VMEM (R207): A 64-byte vector load or store accesses the scratchpad. -/
  | vmem (n : Fin 192) (cyc : Nat) (op : VmemOp)
  /-- MOVS (R207): A value moves between scalar, vector lane and mask registers. -/
  | movs (n : Fin 192) (cyc : Nat) (op : MovsOp)
  /-- SEND (R221): A vector register is sent along a route to a destination line. -/
  | send (n : Fin 192) (cyc : Nat)
  /-- SENDL (R221): A scratchpad line is sent along a route to a destination line. -/
  | sendl (n : Fin 192) (cyc : Nat)
  /-- COMMIT (R226): A commit word marks an output window as valid for the Turn and tag. -/
  | commit (n : Fin 192) (cyc : Nat)
  /-- RESULT_WRITEBACK (R202): An operation's result is written at the end of its latency, and a double write is cause 0x3. -/
  | resultWriteback (n : Fin 192) (cyc : Nat)
  /-- SEND_ARRIVAL (R222): A sent line arrives 144 ENG cycles after issue and its destination arrival counter rises. -/
  | sendArrival (collided crcFail : Bool)
  /-- VARIANT_STAGING_DONE (R233): The delta writes into a shadow bank complete and SHADOWRDY is set. -/
  | variantStagingDone (p : Fin 4)
  /-- ST2110_PACKET_RX (R100): A media packet is taken into the ST 2022-7 merge, discarded as a duplicate or window-late, or counted as lost. -/
  | st2110PacketRx (k : MediaPacket)
  /-- LEG_DOWN (R101): A leg delivers no packet for 1 ms, so LEGFLT is set and an interrupt is raised. -/
  | legDown (f : Fin 1024) (isB : Bool) (t : Nat)
  /-- ANC_PACKET_RX (R112): An ST 291 packet is filtered, checked and stored, or discarded and counted. -/
  | ancPacketRx (f : Fin 1024) (stamp : Word) (a : AncPacket)
  /-- PARSE_NAL (R248): The parser decodes one slice NAL unit of a released AU in open-pool Twists. -/
  | parseNal (x : ParseIn)
  /-- AUDIO_FRAME_RX (R289): An audio frame starts at a frame-start edge and is stamped on the time base. -/
  | audioFrameRx (n : Fin 48) (k : AudioFrame)
  /-- AUDIO_CLOCK_LOSS (R296): A slave port sees no bit-clock or frame-start edge for 4 frame periods. -/
  | audioClockLoss (n : Fin 48) (t : Nat)
  /-- RATE_METER_WINDOW (R297): A 100 ms rate-measurement window ends and FSMEAS and FSPPM are updated. -/
  | rateMeterWindow (n : Fin 48)
  /-- MASK_COMMIT (R299): A COMMIT write copies the shadow mask to pending, or is ignored with MASKREJ in a pair. -/
  | maskCommit (n : Fin 48) (v : Word) (t : Nat)
  /-- AUDIO_OUTPUT_FRAME (R302): An output port plays the next frame of its source block at Eⱼ + OUTOFF. -/
  | audioOutputFrame (n : Fin 48) (t : Nat)
  /-- PORT_UP (R314): An Ethernet port reaches block lock, alignment and FEC lock with no faults, and sending resumes. -/
  | portUp (n : Fin 16) (phy : PortPhy)
  /-- PORT_DOWN (R314): An Ethernet port goes down, so DOWNEV is set and its static packets are discarded. -/
  | portDown (n : Fin 16) (phy : PortPhy)
  /-- ETH_FRAME_RX (R316): A received frame is filtered through the steps of R316 and dispatched. -/
  | ethFrameRx (k : EthFrame)
  /-- STEADY_BASE_TICK (R343): Every millisecond, a steady base slews its rate toward its source under the rate-change limit. -/
  | steadyBaseTick (b : Fin 16)
  /-- ESTIMATE_MISSED (R344): A source misses 3 expected estimates, so the base enters HOLDOVER. -/
  | estimateMissed (b : Fin 16)
  /-- ANNOUNCE_TIMEOUT (R338): The announce receipt timeout leaves the instance without a leader. -/
  | announceTimeout (k : Fin 4) (sender : Nat)
  /-- HOLDS_EXPIRY (R344): A holdover lasts HOLDS seconds, so the base becomes invalid and INVEV is set. -/
  | holdsExpiry (b : Fin 16)
  /-- MEMBERSHIP_REPORT (R317): An unsolicited IGMPv3 or MLDv2 report is sent, twice and 1 s apart. -/
  | membershipReport (n : Fin 16)
  /-- ARP_REFRESH (R318): A resolved next hop is refreshed every 60 s. -/
  | arpRefresh (n : Fin 16) (flow : Fin 1024)
  /-- MEDIA_PACKET_SEND (R321): A media packet leaves within W of its nominal send time. -/
  | mediaPacketSend (f : Fin 1024) (k : SendInfo)
  /-- SCTE35_REPEAT (R335): A splice section is sent again at a 100 ms interval. -/
  | scte35Repeat (f : Fin 1024) (t : Nat)
  /-- DYNAMIC_FRAME_SEND (R322): A dynamic frame starts only if it ends within the current run of open-pool Twists. -/
  | dynamicFrameSend (n : Fin 16) (t : Nat)
  /-- TSQ_POP (R346): A POP write moves the oldest timestamp into TSQ0 to TSQ3. -/
  | tsqPop (n : Fin 16) (v : Word)
  /-- TB_LATCH (R341): A LATCH write captures a base's full time in one cycle. -/
  | tbLatch (b : Fin 16) (v : Word)
  /-- REF_ACTIVITY_LOSS (R361): A reference shows no edge or no valid pulse, so a loss is declared and it is disqualified. -/
  | refActivityLoss (k : Fin 28)
  /-- REF_GLITCH (R362): A too-short phase is flagged on a reference input. -/
  | refGlitch (k : Fin 28)
  /-- REF_PULSE (R361): A pulse-type reference pulse arrives and is validated. -/
  | refPulse (k : Fin 28) (t : Nat) (freq phase : Int)
  /-- REF_WINDOW_END (R363): A reference measurement window ends and REFFREQ is written. -/
  | refWindowEnd (k : Fin 28) (w : RefWindow)
  /-- WTR_EXPIRY (R367): Wait-to-restore expires and the DPLL switches to the higher-ranked reference. -/
  | wtrExpiry (k : Fin 28)
  /-- DPLL_SWITCH_COMPLETE (R371): A switch completes after two full windows of the target. -/
  | dpllSwitchComplete
  /-- HOLDOVER_SECOND (R374): HOLDT counts a second, and at HOSPEC the holdover goes out of specification. -/
  | holdoverSecond
  /-- XTALSPEC_CHECK (R375): After 10 s LOCKED, the crystal is checked against 60 ppm. -/
  | xtalspecCheck
  /-- PHASE_STEP (R380): A PHSTEP write adds to an output's pending phase, or is rejected. -/
  | phaseStep (k : Fin 8) (v : Word)
  /-- CRYSTAL_MONITOR_WINDOW (R382): A running crystal-monitor window ends, and two failures in a row are a crystal failure. -/
  | crystalMonitorWindow (edges : Nat)
  /-- ROOT_PLL_LOSS (R383): The root PLL reports a loss of lock. -/
  | rootPllLoss
  /-- DOMAIN_MISALIGN (R383): The alignment monitor finds domains no longer sharing an edge. -/
  | domainMisalign
  /-- REEL_FLUSH_DONE (R388): The Reel flush after a root failure ends and a warm reset follows. -/
  | reelFlushDone
  /-- CLOCK_SWITCH_WATCHDOG (R386): A glitch-free switch unfinished after 2 µs falls back to stop, switch and restart. -/
  | clockSwitchWatchdog (pt : Fin 10)
  /-- DRAM_DYNAMIC_REQUEST (R408): A dynamic DRAM request is served in an open-pool Twist if it fits the run. -/
  | dramDynamicRequest (r : DynReq)
  /-- MR4_POLL (R410): MR4 of each channel is read every 16 ms, and a thermal fault is raised if needed. -/
  | mr4Poll (ch : Fin 16) (v : Byte) (hot : Bool)
  /-- ZQ_CALIBRATION (R411): A ZQ calibration latch is issued every 64 ms. -/
  | zqCalibration (ch : Fin 16)
  /-- DQ_OSCILLATOR_READ (R411): Interval oscillators are read every 16 ms and delay lines move a step, or are held with DRIFT. -/
  | dqOscillatorRead (ch : Fin 16) (drift : List Int)
  /-- RFM_ISSUE (R413): RFM is issued to a bank pair in an open-pool Twist. -/
  | rfmIssue (ch : Fin 16) (pair : Fin 8)
  /-- SNAG_HOLD_EXPIRY (R413): The hold on a dynamic requester's bank ends after SNAGHOLD revolutions. -/
  | snagHoldExpiry (who : Nat) (ch bank : Fin 16)
  /-- SCRUB_LINE (R403): The scrubber reads a protected line and writes back a correctable one. -/
  | scrubLine (addr : Nat) (e : LineErr)
  /-- PANIC_RETRY (R415): A panic port re-reads a line that had an uncorrectable link error. -/
  | panicRetry (k : Fin 8) (e : LineErr)
  /-- SEAM_START (R418): A MEM frequency seam begins at a Twist boundary after the planes have drained. -/
  | seamStart
  /-- SEAM_END (R418): The seam completes, refresh and access resume, and FREQSTAT is updated. -/
  | seamEnd (fail : List (Fin 16))
  /-- SEAM_TIMEOUT (R419): A seam fails or overruns 64 µs, which records cause 0x8. -/
  | seamTimeout
  /-- NAND_PAGE_READ_DONE (R437): A codeword read completes with decode, retry and refresh queueing. -/
  | nandPageReadDone (r : NandRead)
  /-- NAND_PROGRAM_DONE (R438): A page program completes, and a failure retires the block. -/
  | nandProgramDone (block : Nat) (part : Fin 10) (ok : Bool)
  /-- NAND_ERASE_DONE (R438): A block erase completes, and a failure retires the block. -/
  | nandEraseDone (block : Nat) (part : Fin 10) (ok : Bool)
  /-- NAND_BUSY_TIMEOUT (R450): A target stays busy beyond the part's maximum time, which is cause 0x6. -/
  | nandBusyTimeout (ch : Fin 2) (target : Fin 4)
  /-- SCRUB_PASS_START (R441): A NAND scrub pass begins on its schedule. -/
  | scrubPassStart
  /-- NAND_SCRUB_PAGE (R441): The scrub reads the next written page at up to 64 pages per second. -/
  | nandScrubPage (r : NandRead) (last : Bool)
  /-- BLOCK_REFRESH (R442): A queued block is copied to a free block, the directory is updated and the old block is erased. -/
  | blockRefresh (block : Nat) (corrected : Nat) (readable eraseOk : Bool)
  /-- REEL_PAGE_PROGRAM (R514): A Reel page of waiting images is programmed, no more than once per second. -/
  | reelPageProgram
  /-- LOG_PAGE_PROGRAM (R443): The event-log SRAM page is programmed, no more than once per 10 s. -/
  | logPageProgram
  /-- INSTALL_TOKEN_ACCRUE (R443): A working install token accrues every 6 h, up to 16. -/
  | installTokenAccrue
  /-- GOLDEN_TOKEN_ACCRUE (R443): A golden install token accrues every 30 days, up to 2. -/
  | goldenTokenAccrue
  /-- RECEIVER_DETECT (R462): Each Strand lane tests for a far-end termination every 100 µs. -/
  | receiverDetect (n : Fin 64) (found : Bool)
  /-- TRAINING_SET_RX (R460): A training set is received and drives lock, exchange, step-up and tap steps. -/
  | trainingSetRx (n : Fin 64) (ts : List Byte) (inverted : Bool) (call : Option (Fin 6))
  /-- BRINGUP_STEP_TIMEOUT (R462): A bring-up step misses its maximum and the group restarts from step 1. -/
  | bringupStepTimeout (g : Fin 64)
  /-- RATE_LOCK_TIMEOUT (R462): No lock 10 ms after a rate change, so both ends fall back to a lower rate. -/
  | rateLockTimeout (g : Fin 64)
  /-- TAP_ADJUST_TIMEOUT (R463): Tap adjustment ends 500 ms after it began, keeping the taps it has. -/
  | tapAdjustTimeout (g : Fin 64)
  /-- EXCHANGE_RETRY (R461): A failed exchange is retried after 1 s. -/
  | exchangeRetry (g : Fin 64)
  /-- ALIGNMENT_MARKER_SEND (R458): An AM falls due every 8,192 symbols and is sent after any frame in progress. -/
  | alignmentMarkerSend (g : Fin 64)
  /-- ALIGNMENT_MARKER_RX (R458): An AM is received for deskew and rate compensation. -/
  | alignmentMarkerRx (g : Fin 64) (skews : List Nat)
  /-- LOSS_OF_LOCK (R465): A lane loses lock from code errors, missing AMs or signal loss, and the group goes down. -/
  | lossOfLock (n : Fin 64) (how : LockLoss) (errors : Nat)
  /-- STRAND_FRAME_RX (R469): A Strand frame is checked and delivered or discarded, and SEQGAP is updated. -/
  | strandFrameRx (g : Fin 64) (f : StrandFrame)
  /-- STRAND_FRAME_SEND (R474): A static frame is sent at its symbol time, or discarded when the group is down. -/
  | strandFrameSend (g : Fin 64) (f : StrandSend) (fits : Bool)
  /-- REMOTE_STATUS_SEND (R473): A remote status frame is sent every 1 ms. -/
  | remoteStatusSend (g : Fin 64)
  /-- ELECTRICAL_IDLE_ENTRY (R476): A transmitter sends EIE and stops driving when idle for EIWAIT Twists. -/
  | electricalIdleEntry (g : Fin 64)
  /-- ELECTRICAL_IDLE_EXIT (R476): A transmitter sends the exit burst and an AM ahead of its next static frame. -/
  | electricalIdleExit (g : Fin 64)
  /-- INTERRUPT_SENSE (R489): A source input asserts or edges, which makes the source pending and counts EDGECNT. -/
  | interruptSense (src : Fin 1024) (fw : FwCore)
  /-- COALESCE_TIMEOUT (R493): COALUS expires after the first accumulated edge and the source becomes deliverable. -/
  | coalesceTimeout (src : Fin 1024)
  /-- STORM_WINDOW (R494): A STORMWIN window ends and a source over EDGEMAX is masked with STORM. -/
  | stormWindow (src : Fin 1024)
  /-- LEVELMAX_EXPIRY (R494): A level source stays asserted beyond LEVELMAX and is masked. -/
  | levelmaxExpiry (src : Fin 1024)
  /-- CLAIM (R491): A CLAIM read returns and pushes the highest qualifying pending source. -/
  | claim (k : Fin 16)
  /-- COMPLETE (R491): A COMPLETE write pops the top source, or is refused with OOO. -/
  | complete (k : Fin 16) (v : Word)
  /-- FRET (R487): FRET completes the fast source, swaps the bank back and returns. -/
  | fret (k : Fin 16) (fw : FwCore)
  /-- HOSTACK (R490): A host acknowledges a host-targeted source, ending its pending state. -/
  | hostack (v : Word)
  /-- ICGLOBAL_WRITE (R492): Setting or clearing DIS holds or releases delivery to every target. -/
  | icglobalWrite (v : Word)
  /-- EVENT_PIN_EDGE (R495): A debounced event-pin level changes, counting EDGECNT or setting LOST. -/
  | eventPinEdge (n : Fin 96) (high : Bool)
  /-- EVOUT_WRITE (R497): A write to EVOUT drives output pins within 1 µs. -/
  | evoutWrite (k : Fin 3) (v : Word)
  /-- ENQUEUE (R498): A write to ENQ3 enqueues an item, or is ignored with REJECT when the queue is full. -/
  | enqueue (q : Fin 256) (v : Word)
  /-- AFFWAIT_EXPIRY (R499): An item waiting for its affine core goes to the lowest idle core. -/
  | affwaitExpiry (q : Fin 256)
  /-- TAKE (R500): A TAKE read takes the offered item into the core's slot. -/
  | take (k : Fin 16)
  /-- DONE (R500): A DONE write ends the core's item. -/
  | done (k : Fin 16) (v : Word)
  /-- ITEM_OVERRUN (R500): ITEMUS passes without DONE, so OVERRUN is set and a service fault is raised. -/
  | itemOverrun (k : Fin 16)
  /-- CORE_RESET (R500): 1 s after an overrun the core alone is reset and its item discarded. -/
  | coreReset (k : Fin 16)
  /-- SERVICE_WATCHDOG (R500): No DONE for 2 s with work queued requests a warm reset. -/
  | serviceWatchdog
  /-- FAST_HANDLER_TIMEOUT (R500): A fast handler without FRET after 1 ms resets its core. -/
  | fastHandlerTimeout (k : Fin 16)
  /-- RING_ENABLE (R503): Setting RINGCFG.EN activates the host submission and completion rings. -/
  | ringEnable (v : Word)
  /-- SQ_DOORBELL (R503): A write to SQTAIL makes new submissions available to the device. -/
  | sqDoorbell (v : Word)
  /-- CQ_HEAD_WRITE (R503): A write to CQHEAD frees completion slots so that reading can resume. -/
  | cqHeadWrite (v : Word)
  /-- MGMT_DATAGRAM (R507): An in-band management datagram is authenticated and handled as a command. -/
  | mgmtDatagram (d : MgmtDatagram)
  /-- HELLO (R506): Host and device negotiate the protocol version and capabilities. -/
  | hello (m : CmdMsg)
  /-- VARIANT (R87): A variant switch is journaled for a plane and staged for its effective Turn. -/
  | variant (m : CmdMsg) (v : Fin 16)
  /-- TRIM (R192): A rate trim is journaled for a channel or statmux group. -/
  | trim (m : CmdMsg) (t : RateTarget) (kb : Nat)
  /-- MUTE (R334): A flow, or an audio port slot mask, is muted from its effective Turn. -/
  | mute (m : CmdMsg) (t : MuteTarget)
  /-- UNMUTE (R334): A muted flow or slot resumes from its effective Turn. -/
  | unmute (m : CmdMsg) (t : MuteTarget)
  /-- FORCESUB (R509): An ingest flow or decode context is forced to substitute from its effective Turn. -/
  | forcesub (m : CmdMsg) (t : Member)
  /-- RELEASE (R509): A forced member is released to rejoin under R108. -/
  | release (m : CmdMsg) (t : Member)
  /-- SPLICE (R335): A splice insert is journaled with its send Turn and splice Turn. -/
  | splice (m : CmdMsg) (x : SpliceArg)
  /-- KEYLOAD (R574): A signed key package is checked and held for its effective boundary. -/
  | keyload (m : CmdMsg) (v : List Byte)
  /-- KEYCLEAR (R575): A key slot is zeroised at its effective boundary. -/
  | keyclear (m : CmdMsg) (slot : Fin 256)
  /-- SELFTEST (R546): A self-test of a plan column is queued at its effective Turn. -/
  | selftest (m : CmdMsg) (pc : Nat)
  /-- PLY_SWITCH (R624): The Bobbin is transferred to the partner under R612. -/
  | plySwitch (m : CmdMsg)
  /-- PLY_HOLD (R624): The return to the primary-designate is inhibited. -/
  | plyHold (m : CmdMsg)
  /-- PLY_UNHOLD (R624): HOLD is ended. -/
  | plyUnhold (m : CmdMsg)
  /-- PLY_FENCE (R624): This device fences, transferring first if it is the holder. -/
  | plyFence (m : CmdMsg)
  /-- PLY_REJOIN (R624): A fenced device sends JOIN to its partner. -/
  | plyRejoin (m : CmdMsg)
  /-- PLY_ALONE (R624): A fenced device takes the Bobbin while both paths are silent. -/
  | plyAlone (m : CmdMsg)
  /-- POWER (R589): A power-state move is journaled and carried out at its boundary, or at once in P2. -/
  | power (m : CmdMsg) (target : Nat)
  /-- INSTALL_BEGIN (R509): A working or golden install begins, consuming an install token. -/
  | installBegin (m : CmdMsg) (golden : Bool) (len : Nat)
  /-- INSTALL_DATA (R509): Image bytes are written at an offset into the DRAM install buffer. -/
  | installData (m : CmdMsg) (off : Nat) (bytes : List Byte)
  /-- INSTALL_COMMIT (R77): The received image is checked, written to slot C's partition, read back, and the slots are renamed. -/
  | installCommit (m : CmdMsg) (v : InstallBack)
  /-- INSTALL_ABORT (R509): An install in progress is abandoned. -/
  | installAbort (m : CmdMsg)
  /-- LOGREAD (R509): Event-log entries are copied to a host buffer. -/
  | logread (m : CmdMsg) (addr first count : Nat)
  /-- UNKNOWN_COMMAND (R509): A message with an unknown code completes with 0x10 and is not journaled. -/
  | unknownCommand (m : CmdMsg)
  /-- REEL_READ (R518): A write to RDSEQHI starts the read of a Reel entry. -/
  | reelRead (v : Word)
  /-- REEL_TOKEN_QUERY (R518): A GO write to TOKQUERY searches the Reel for a token and origin. -/
  | reelTokenQuery (v : Word)
  /-- REEL_NAND_FETCH_DONE (R518): A Reel read or search that reached NAND ends and BUSY clears. -/
  | reelNandFetchDone
  /-- FAULT_COLLECT (R539): A fault reaches the collector and is counted, latched and reacted to at its level. -/
  | faultCollect
  /-- FAULTACK (R543): A FAULTACK write returns FAULT_N high if no level-3 or level-4 reaction runs. -/
  | faultack
  /-- SAFEREL (R543): A SAFEREL write returns SAFE_STATE low once the level-3 reactions release. -/
  | saferel
  /-- FIRSTREC_CLEAR (R539): Clearing FIRSTREC VALID moves the second record into the first. -/
  | firstrecClear
  /-- SELFTEST_PATTERNS_END (R548): A column's test patterns finish, ahead of the verdict at the next boundary. -/
  | selftestPatternsEnd (fail : Bool)
  /-- OVERLAP_END (R550): The outgoing column's last overlapped row leaves P4, and the column leaves service. -/
  | overlapEnd (pc : Fin 16)
  /-- PROOF_TEST_VISIT (R556): Every 75 s the rotation visits the next physical column, or skips it. -/
  | proofTestVisit
  /-- PTAGE_MINUTE (R557): PTAGE advances each minute and OVERDUE is set at 40. -/
  | ptageMinute
  /-- KEY_STORE_CHECK (R577): Every 1 ms both copies of each slot are checked, and a failure zeroises the slot. -/
  | keyStoreCheck (bad : List (Fin 256))
  /-- NONCE_READ (R582): A read of nonce word 0 draws a fresh nonce. -/
  | nonceRead
  /-- DEBUG_TOKEN (R582): A token is submitted by writing its last word. -/
  | debugToken (t : List Byte)
  /-- TOKEN_VERDICT (R582): A token is accepted or refused within 20 ms, with LOCKOUT after three failures. -/
  | tokenVerdict (ms : Fin 21)
  /-- LOCKOUT_EXPIRY (R582): The 60 s token lockout ends. -/
  | lockoutExpiry
  /-- DEBUG_GRANT (R584): Once the last plane has drained and P2 is reached, a pending D2 or D3 level is granted. -/
  | debugGrant
  /-- SESSION_EXPIRY (R583): A debug session's DURATION elapses and the session ends. -/
  | sessionExpiry
  /-- DEBUG_RELEASE (R583): A RELEASE write ends the debug session. -/
  | debugRelease
  /-- PROVISION (R569): A BLANK device is provisioned with keys and moves to PROVISIONED. -/
  | provision (r : List Byte)
  /-- DEPLOY (R569): A signed request moves PROVISIONED to DEPLOYED. -/
  | deploy (r sig : List Byte)
  /-- RMA (R570): A doubly signed request destroys the secrets and moves the device to RMA. -/
  | rma (r sig cust : List Byte)
  /-- PLANE_DRAINED (R581): A stopped plane reaches its drain boundary after L_max. -/
  | planeDrained (p : Fin 4)
  /-- DEBUG_HALT (R584): At D2 or D3, a Spindle or service core is halted. -/
  | debugHalt (u : DbgUnit)
  /-- DEBUG_STEP (R579): At D2 or D3, a halted unit is single-stepped. -/
  | debugStep (u : DbgUnit)
  /-- DEBUG_RESUME (R579): At D2 or D3, a halted unit is resumed. -/
  | debugResume (u : DbgUnit)
  /-- DEBUG_GATE_OPEN (R579): At D2 or D3, a debugger opens a unit's gate. -/
  | debugGateOpen (g : Fin 64)
  /-- DEBUG_BOOT (R579): At D3, an image is run from DRAM with checks 6 to 8 skipped. -/
  | debugBoot
  /-- JTAG_IDCODE (R579): The IEEE 1149.1 IDCODE instruction is run. -/
  | jtagIdcode
  /-- JTAG_BYPASS (R579): The IEEE 1149.1 BYPASS instruction is run. -/
  | jtagBypass
  /-- SAMPLE_PRELOAD (R579): SAMPLE/PRELOAD is run at D1 or above. -/
  | samplePreload (pins cells : List Bool)
  /-- EXTEST (R579): EXTEST is run at D3. -/
  | extest (pins cells : List Bool)
  /-- CLAMP (R579): CLAMP is run at D3. -/
  | clamp
  /-- HIGHZ (R579): HIGHZ is run at D3. -/
  | highz
  /-- INTEST (R579): INTEST is run at D3. -/
  | intest (cells outs : List Bool)
  /-- SCAN_DUMP (R579): A scan dump is run at D3. -/
  | scanDump (chain : List Bool)
  /-- MEMORY_BIST_CONTROL (R579): Memory BIST is controlled at D3. -/
  | memoryBistControl (control result : List Bool)
  /-- WAKE_PIN (R589): A rising edge on an enabled EV pin wakes the device from P3. -/
  | wakePin (n : Fin 8)
  /-- WAKE_TIMER (R601): WAKETIME elapses in P3 and the device wakes. -/
  | wakeTimer
  /-- P4_OFF_TIMEOUT (R589): Supplies are still present 1 s after the PMIC off sequence, so P4FAIL is set. -/
  | p4OffTimeout
  /-- HEARTBEAT_SEND (R605): A heartbeat frame is sent on path A every 10 µs. -/
  | heartbeatSend
  /-- HEARTBEAT_RX (R605): A partner heartbeat is received, updating path state, skew and lease echo. -/
  | heartbeatRx (h : Heartbeat)
  /-- PATHB_WORD_SEND (R606): A 33-cell heartbeat word is sent on HBA. -/
  | pathbWordSend
  /-- PATHB_WORD_RX (R606): A path B word is received and validated. -/
  | pathbWordRx (w : Word) (badCell : Bool)
  /-- PATH_SILENCE (R607): A path is silent for 300 µs, which is a path fault or, with both paths silent, a fail-over. -/
  | pathSilence (pathB : Bool)
  /-- LEASE_RENEW (R608): A healthy holder raises SERIAL every 5 ms on both paths. -/
  | leaseRenew
  /-- LEASE_EXPIRY (R609): 20 ms pass without renewal, so the holder fences. -/
  | leaseExpiry
  /-- BOBBIN_TAKE (R610): After fail-over and 22 ms without renewal, the non-holder takes the Bobbin. -/
  | bobbinTake
  /-- ROLE_RESOLVE_TIMEOUT (R614): No partner is heard for 22 ms at boot step 13, so the device takes the Bobbin alone. -/
  | roleResolveTimeout
  /-- PLY_HELLO (R625): A HELLO control frame negotiates the two-ply version, capabilities and image identity. -/
  | plyHello (payload : List Byte)
  /-- PLY_RELEASE (R612): A RELEASE control frame names a transfer boundary X. -/
  | plyRelease (rx : Option (BitVec 40))
  /-- RELEASE_ACK_DEADLINE (R612): 500 µs before X without an acknowledgement, the transfer is cancelled. -/
  | releaseAckDeadline
  /-- TRANSFER_INSTANT (R612): At X and Xₚ, sending moves between the devices along with LEASE and ACTIVE. -/
  | transferInstant (p : Fin 4)
  /-- PLY_LEGS (R623): A LEGS frame names the boundary at which a leg moves between the devices. -/
  | plyLegs (rx : Option (BitVec 40 × Bool))
  /-- PLY_FORWARD (R624): A forwarded command is journaled with ORIGIN 0x03. -/
  | plyForward (rx : Option (CmdMsg × CmdArg))
  /-- PLY_AGREE (R617): The partner's agreement records arrive for matching against local units. -/
  | plyAgree (rx : Option (List AgreeRec))
  /-- PLY_JOIN (R615): A JOIN request or grant names each plane's refresh Turn. -/
  | plyJoin (rx : Option JoinMsg)
  /-- PLY_TAKEREQ (R628): The primary-designate asks for the return of the Bobbin, and the holder answers with RELEASE. -/
  | plyTakereq (rx : Bool)
  /-- STATE_COPY_FRAME (R620): A state-copy frame of a plane's image is received and checked. -/
  | stateCopyFrame (rx : Option (List Byte × Bool))
  /-- STATE_COPY_COMPLETE (R621): A received copy is compared with the local image, adopted kinds are taken and the in-step status is updated. -/
  | stateCopyComplete (p : Fin 4) (recs : List CopyRec)
  /-- LOW_WORD_READ (R18): Reading the low word of a 64-bit pair latches the high word into the requester's shadow. -/
  | lowWordRead (who : Requester) (addr : Nat)
  /-- REGISTER_ACCESS_ABORT (R659): An access to an unimplemented, gated or unreleased address, or of the wrong size, aborts and is logged. -/
  | registerAccessAbort (a : Access)
  /-- REGISTER_WRITE (R14): A write to a register without a row of its own takes effect according to its access type. -/
  | registerWrite (ws : List Access)
  /-- ING_CNTCLR (R118): The ingest counters of a flow are cleared. -/
  | ingCntclr (v : Word)
  /-- LANE_CNTCLR (R167): The counters of a lane's channel slot are cleared. -/
  | laneCntclr (n : Fin 16) (v : Word)
  /-- RATE_CNTCLR (R194): OCCPEAK, FLOORCNT and CAPCTU of a channel context are cleared. -/
  | rateCntclr (v : Word)
  /-- SPN_CNTCLR (R238): The counters of one engine, or of every engine, are cleared. -/
  | spnCntclr (v : Word)
  /-- DEC_CNTCLR (R257): The counters of a decode stream context are cleared. -/
  | decCntclr (v : Word)
  /-- AUD_CNTCLR (R307): The counters of one audio port, or of every port, are cleared. -/
  | audCntclr (v : Word)
  /-- NET_CNTCLR_LANE (R350): The counters of an Ethernet lane are cleared. -/
  | netCntclrLane (v : Word)
  /-- NET_CNTCLR_FLOW (R350): The egress counters of a flow context are cleared. -/
  | netCntclrFlow (v : Word)
  /-- CLK_CNTCLR (R389): REFCNT of one reference, or of every reference, is cleared. -/
  | clkCntclr (v : Word)
  /-- DRAM_CNTCLR (R421): The link, ECC and Snag counters of a channel are cleared. -/
  | dramCntclr (v : Word)
  /-- NAND_CNTCLR (R448): Every RO counter of the NAND block is cleared. -/
  | nandCntclr (v : Word)
  /-- STR_CNTCLR (R479): The counters of a Strand group and its lanes are cleared. -/
  | strCntclr (v : Word)
  /-- SVC_CNTCLR_SOURCE (R519): EDGECNT of one interrupt source, or of every source, is cleared. -/
  | svcCntclrSource (v : Word)
  /-- SVC_CNTCLR_QUEUE (R519): The counters of a work queue are cleared. -/
  | svcCntclrQueue (v : Word)
  /-- SAF_CNTCLR (R558): FURTHER and L0CNT are cleared. -/
  | safCntclr (v : Word)
  /-- DELAY_REQ_SEND (R338): At the leader's logMinDelayReqInterval, a PTP instance issues a Delay_Req and so begins a delay request-response exchange. -/
  | delayReqSend (k : Fin 4)
  /-- PCIE_LINK_UP (R502): The PCIe endpoint's link to the host comes up, after which BAR0 accesses and the host rings can work. -/
  | pcieLinkUp
  /-- EIE_RECEIVED (R477): A Strand receiver sees EIE and then loss of signal, shows EI on its lanes and does not treat the group as down. -/
  | eieReceived (n : Fin 64)
  /-- EXIT_BURST_RECEIVED (R476): A Strand receiver detects the exit burst and relocks within 1 µs of its first symbol, clearing EI. -/
  | exitBurstReceived (n : Fin 64)
  /-- SUPPLY_WARNING_END (R645): A watched rail comes back above its minimum, and its WARN bit returns to 0. -/
  | supplyWarningEnd (rail : Fin 8)
  /-- THERMAL_SHUTDOWN_RELEASE (R650): After a thermal shutdown, every sensor reads at least 10 °C below the Tj maximum, and power-on reset is released. -/
  | thermalShutdownRelease (sensor : Fin 8) (t : BitVec 12)
  /-- PHASE_STEP_APPLIED (R380): Output periods move a clock output's pending phase toward 0 until PHPEND reaches exactly 0 and PHBUSY clears. -/
  | phaseStepApplied (k : Fin 8)
  /-- CLOCK_SWITCH_COMPLETE (R386): A glitch-free switch finds both clocks low and changes the multiplexer, ending the switch and clearing the point's SWSTAT bit. -/
  | clockSwitchComplete (pt : Fin 10)
  /-- TRANSIENT_AGE_OUT (R548): A transient verdict becomes 24 h old and drops out of the column's TRANS24 count. -/
  | transientAgeOut (col : Fin 16)
  deriving DecidableEq, Repr

end Sys2Proof
end

