-- ==== Sys2Proof/Decode.lean ====
section
/-! DEFINITION. The command that a table word spells. The table of operations and events gives no row any bits: the device
has no instruction words of its own at this interface, so no word spells a command. -/

namespace Sys2Proof

/-- The command spelt by a word of the table; none, since no row has bits. -/
def decodeTableWord (_nbits _w : Nat) : Option Instr := none

end Sys2Proof
end

