-- ==== Sys2Proof/Machine/Bits.lean ====
section
/-! DEFINITION. Sparse tables, rounding, saturation, byte order and the check codes that many chapters share. -/

namespace Sys2Proof.Machine

/-- The entry of a table at an index, or the table's resting value there. -/
def tabGet {α : Type} (d : Nat → α) : Tab α → Nat → α
  | [], k => d k
  | (j, a) :: t, k => if k < j then d k else if k = j then a else tabGet d t k

/-- A table with one entry replaced. An entry equal to the resting value is not listed, so equal arrays are equal lists. -/
def tabSet {α : Type} [DecidableEq α] (d : Nat → α) : Tab α → Nat → α → Tab α
  | [], k, v => if v = d k then [] else [(k, v)]
  | (j, a) :: t, k, v =>
    if k < j then (if v = d k then (j, a) :: t else (k, v) :: (j, a) :: t)
    else if k = j then (if v = d k then t else (k, v) :: t)
    else (j, a) :: tabSet d t k v

/-- Whether a table is in its one canonical form above a bound: indices strictly rising, no resting value listed. -/
def tabWfFrom {α : Type} [DecidableEq α] (d : Nat → α) (lo : Nat) : Tab α → Bool
  | [] => true
  | (j, a) :: t => decide (lo ≤ j) && decide (a ≠ d j) && tabWfFrom d (j + 1) t

/-- The canonical form of a table. -/
def tabWf {α : Type} [DecidableEq α] (d : Nat → α) (t : Tab α) : Bool := tabWfFrom d 0 t

/-- `tabGet` for an array whose resting value is the same at every index. -/
def tget {α : Type} (d : α) (t : Tab α) (k : Nat) : α := tabGet (fun _ => d) t k

/-- `tabSet` for an array whose resting value is the same at every index. -/
def tset {α : Type} [DecidableEq α] (d : α) (t : Tab α) (k : Nat) (v : α) : Tab α := tabSet (fun _ => d) t k v

/-- A table with every entry of another written over it, in that table's order. -/
def toverlay {α : Type} [DecidableEq α] (d : α) (t u : Tab α) : Tab α := u.foldl (fun t e => tset d t e.1 e.2) t

/-- The field [hi:lo] of a number (R7). -/
def bits (w hi lo : Nat) : Nat := w / 2 ^ lo % 2 ^ (hi + 1 - lo)

/-- Bit n of a number (R7). -/
def bit (w n : Nat) : Bool := w / 2 ^ n % 2 == 1

/-- 1 for true, 0 for false, as a one-bit field holds it. -/
def b2n (b : Bool) : Nat := if b then 1 else 0

/-- The two's-complement field of `n` bits that holds an integer. -/
def toField (n : Nat) (x : Int) : Nat := (x % (2 ^ n : Int)).toNat

/-- The integer that an `n`-bit two's-complement field holds. -/
def ofField (n w : Nat) : Int := if w % 2 ^ n < 2 ^ (n - 1) then (w % 2 ^ n : Int) else (w % 2 ^ n : Int) - 2 ^ n

/-- R10: the signed difference a − b of two n-bit counters. -/
def sdiff (n a b : Nat) : Int := ofField n (((a % 2 ^ n : Int) - (b % 2 ^ n : Int)) % (2 ^ n : Int)).toNat

/-- R10: a is later than b, compared by signed difference over n bits. -/
def later (n a b : Nat) : Bool := decide (0 < sdiff n a b)

/-- An integer held within a range. -/
def clampI (x lo hi : Int) : Int := max lo (min x hi)

/-- A signed value saturated to n bits of two's complement. -/
def satI (n : Nat) (x : Int) : Int := clampI x (-(2 ^ (n - 1))) (2 ^ (n - 1) - 1)

/-- A quotient rounded to the nearest integer, ties toward +∞ (R28, R35, R55). -/
def roundDiv (a : Int) (b : Nat) : Int := (2 * a + b) / (2 * (b : Int))

/-- A quotient of natural numbers rounded up. -/
def ceilDiv (a b : Nat) : Nat := (a + b - 1) / b

/-- The magnitude of the difference of two natural numbers. -/
def natAbsDiff (a b : Nat) : Nat := if a ≤ b then b - a else a - b

/-- A natural number as `n` bytes, little-endian (R7). -/
def leBytes : Nat → Nat → List Byte
  | 0, _ => []
  | n + 1, v => BitVec.ofNat 8 v :: leBytes n (v / 256)

/-- A natural number as `n` bytes, big-endian (where a standard fixes network order, R7). -/
def beBytes (n v : Nat) : List Byte := (leBytes n v).reverse

/-- The number that little-endian bytes hold (R7). -/
def ofLe : List Byte → Nat
  | [] => 0
  | b :: t => b.toNat + 256 * ofLe t

/-- The number that big-endian bytes hold. -/
def ofBe (l : List Byte) : Nat := ofLe l.reverse

/-- `n` bytes of a byte string from an offset; bytes past its end read as 0. -/
def slice (l : List Byte) (off n : Nat) : List Byte :=
  let t := (l.drop off).take n
  t ++ List.replicate (n - t.length) 0

/-- A little-endian field of a byte string. -/
def leAt (l : List Byte) (off n : Nat) : Nat := ofLe (slice l off n)

/-- A big-endian field of a byte string; bytes past its end read as 0. -/
def beAt (l : List Byte) (off n : Nat) : Nat := ofBe (slice l off n)

/-- One bit of the reflected CRC-32C (polynomial 0x1EDC_6F41, reflected 0x82F6_3B78). -/
def crc32cBit (c : BitVec 32) : BitVec 32 := if c.getLsbD 0 then (c >>> 1) ^^^ 0x82F63B78#32 else c >>> 1

/-- One byte into a CRC-32C. -/
def crc32cByte (c : BitVec 32) (b : Byte) : BitVec 32 :=
  crc32cBit (crc32cBit (crc32cBit (crc32cBit (crc32cBit (crc32cBit (crc32cBit (crc32cBit (c ^^^ b.setWidth 32))))))))

/-- CRC-32C with initial value and final exclusive-or 0xFFFF_FFFF, as every mark of the manual uses it (R109, R150, R152). -/
def crc32c (l : List Byte) : Word := l.foldl crc32cByte 0xFFFFFFFF#32 ^^^ 0xFFFFFFFF#32

/-- Whether the sum of 10-bit words checks against an ST 291 checksum (R112): nine bits of sum, bit 9 the inverse of bit 8. -/
def st291Checksum (ws : List Nat) : Nat :=
  let s := (ws.foldl (fun a w => a + w % 512) 0) % 512
  s + (if s / 256 = 1 then 0 else 512)

/-- An 8-bit ST 291 word as 10 bits: bit 8 its even parity, bit 9 the inverse of bit 8. -/
def parity10 (v : Nat) : Nat :=
  let v := v % 256
  let p := ((List.range 8).map (fun i => v / 2 ^ i % 2)).sum % 2
  v + 256 * p + 512 * (1 - p)

/-- A list with the element at one position replaced; unchanged past its end. -/
def listSet {α : Type} : List α → Nat → α → List α
  | [], _, _ => []
  | _ :: t, 0, v => v :: t
  | a :: t, n + 1, v => a :: listSet t n v

/-- The numbers from `lo` to `hi` − 1. -/
def range' (lo hi : Nat) : List Nat := (List.range (hi - lo)).map (· + lo)

end Sys2Proof.Machine
end

