-- ==== Sys2Proof/Machine/Calc.lean ====
section
/-! DEFINITION. The rules that define a quantity and belong to no one step: loads and capacity, the admission inequalities,
tail bounds, latency records, lane budgets and windows, levels, coded-size bounds. Rates and loads are fractions of
integers, so every comparison is exact. -/

namespace Sys2Proof.Machine

/-! ### Loads and capacity (R20–R22) -/

/-- Luma samples of a raster code of ING FLOWCFG.RASTER (R8, R120): width and height. -/
def rasterSize : Nat → Nat × Nat
  | 0 => (1280, 720) | 1 => (1920, 1080) | 2 => (3840, 2160) | _ => (7680, 4320)

/-- R96: bytes of a line (4:2:2) or of a line pair (4:2:0) of a raster. -/
def lineBytes (raster : Nat) (is422 : Bool) : Nat :=
  let w := (rasterSize raster).1
  if is422 then w * 5 / 2 else w * 15 / 4

/-- R20: the load of a channel in luma samples per second, times 3 × den, for a frame rate num / den: ×1 for 4:2:0 and
×4/3 for 4:2:2. -/
def loadTimes3Den (width height num : Nat) (is422 : Bool) : Nat := width * height * num * (if is422 then 4 else 3)

/-- R20, R21: the load of a channel given as (width, height, rate, 4:2:2). Every rate has denominator 1 or 1,001, so loads are taken
times 3 × 1,001. -/
def load3003 : Nat × Nat × (Nat × Nat) × Bool → Nat
  | (w, h, r, x) => loadTimes3Den w h r.1 x * (1001 / r.2)

/-- R21: 1.0 G/s as a load. -/
def columnLoad : Nat := 1000000000 * 3003

/-- R21: the smallest number of whole columns that can hold a load. -/
def columnsFor (load : Nat) : Nat := ceilDiv load columnLoad

/-- R21: whether what a column carries fits it: whole channels whose loads sum to at most 1.0 G/s, or one share, of `k` in all, of a
single channel whose load exceeds that and takes the smallest number of columns, and nothing else. -/
def columnFits (whole : List (Nat × Nat × (Nat × Nat) × Bool)) (shares : List ((Nat × Nat × (Nat × Nat) × Bool) × Nat)) : Bool :=
  match shares with
  | [] => decide ((whole.map load3003).sum ≤ columnLoad)
  | [(x, k)] => whole.isEmpty && decide (columnLoad < load3003 x) && k == columnsFor (load3003 x)
  | _ => false

/-- R21: whether a device's loads sum to at most 14.0 G/s. -/
def deviceFits (chs : List (Nat × Nat × (Nat × Nat) × Bool)) : Bool := decide ((chs.map load3003).sum ≤ 14 * columnLoad)

/-- R22: flow contexts a plan consumes: legs, audio ports, Strand rasters and decode inputs. -/
def flowContexts (legs ports strandRasters decodeInputs : Nat) : Nat := legs + ports + strandRasters + decodeInputs

/-! ### Admission (R33) and tail bounds (R37) -/

/-- R33: Nₚ, the nominal Turn in fabric cycles, as numerator and denominator. -/
def nominalTurn (rate : Nat × Nat) : Nat × Nat := (800000000 * rate.2, rate.1)

/-- A1: the ring partition; `owned` are n₀ to n₃ and `enabled` the planes with PLANECFG.EN 1. -/
def admitA1 (owned : List Nat) (nOpen : Nat) (enabled : List Bool) : Bool :=
  decide (owned.sum + nOpen = 64) && decide (4 ≤ nOpen) &&
    (owned.zip enabled).all (fun (n, e) => !e || decide (1 ≤ n))

/-- A2: Kₚ × 16,384 + 2,815 ≤ Nₚ × (1 − 60 × 10⁻⁶), with Kₚ the largest integer that satisfies it. -/
def bodyRevolutions (rate : Nat × Nat) : Nat :=
  (800000000 * rate.2 * 999940 / (rate.1 * 1000000) - 2815) / 16384

/-- A2 for a given Kₚ. -/
def admitA2 (rate : Nat × Nat) (k : Nat) : Bool := decide (k = bodyRevolutions rate)

/-- A3's lower bound rounded down, which is MINCYC (R37). -/
def minTail (rate : Nat × Nat) (k : Nat) : Nat := 800000000 * rate.2 * 999940 / (rate.1 * 1000000) - k * 16384 - 2303

/-- A3's upper bound rounded up, which is MAXCYC (R37). -/
def maxTail (rate : Nat × Nat) (k : Nat) : Nat :=
  ceilDiv (800000000 * rate.2 * 1000060) (rate.1 * 1000000) - k * 16384 + 2048

/-- A3: the tail bounds. -/
def admitA3 (rate : Nat × Nat) (k mincyc maxcyc : Nat) : Bool :=
  decide (512 ≤ mincyc) &&
  decide ((mincyc + k * 16384 + 2303) * (rate.1 * 1000000) ≤ 800000000 * rate.2 * 999940) &&
  decide (800000000 * rate.2 * 1000060 + 2048 * (rate.1 * 1000000) ≤ (maxcyc + k * 16384) * (rate.1 * 1000000)) &&
  decide (maxcyc ≤ 65535)

/-- A4: static DRAM bytes per Turn, in all and per channel. -/
def admitA4 (k n v : Nat) (vc : List Nat) : Bool :=
  decide (v ≤ 69902 * k * n) && vc.all (fun x => decide (x ≤ 4368 * k * n))

/-- A5: static DRAM of the whole device; each plane as (Vₚ, rate), over the common denominator 1,001. -/
def admitA5 (l : List (Nat × (Nat × Nat))) : Bool :=
  decide ((l.map (fun (v, r) => v * r.1 * (1001 / r.2))).sum ≤ 218400000000 * 1001)

/-- A6: static fabric bytes of each trunk per Turn. -/
def admitA6 (k n : Nat) (trunks : List Nat) : Bool := trunks.all (fun f => decide (f ≤ 32768 * k * n))

/-- A7: wire bytes per Twist on a lane (m 1) or quad (m 4), in units of 1/1,000 byte. -/
def admitA7 (milliBytes : List Nat) (m : Nat) : Bool := decide (milliBytes.sum ≤ 950 * 1000 * m)

/-- A9: every RUN's kernel and substitute fit its BUDGET. -/
def admitA9 (runs : List (Nat × Nat × Nat)) : Bool := runs.all (fun (w, ws, b) => decide (w ≤ b) && decide (ws ≤ b))

/-- A10: owned Twists to each stream's TURN. -/
def admitA10 (k n snap : Nat) (turns : List Nat) : Bool := turns.all (fun t => decide (t + snap ≤ k * n))

/-- A11: for each start position, the producer's worst completion time + 256 is at most the AWAIT's issue time. -/
def admitA11 (l : List (Nat × Nat)) : Bool := l.all (fun (done, issue) => decide (done + 256 ≤ issue))

/-- A12: cross-plane hand-off. -/
def admitA12 (writer reader : Nat × Nat) (samePtp : Bool) (depth : Nat) : Bool :=
  let a := writer.1 * reader.2
  let b := reader.1 * writer.2
  (decide (4 * a = b) || decide (2 * a = b) || decide (a = b) || decide (a = 2 * b) || decide (a = 4 * b)) && samePtp &&
    decide (3 ≤ depth)

/-- R154: the rendition rasters of a source raster, by width and height. -/
def renditionRasters : Nat → List (Nat × Nat)
  | 7680 => [(3840, 2160), (1920, 1080), (1280, 720)]
  | 3840 => [(1920, 1080), (1280, 720)]
  | 1920 => [(1280, 720)]
  | _ => []

/-- R154, A12: whether a rendition of a size, in a plane of rate `reader`, can be made of a raster of a width in a plane of rate
`writer`: its rate is the source's, or ½ or ¼ of it. -/
def renditionOk (srcWidth : Nat) (size writer reader : Nat × Nat) (samePtp : Bool) (depth : Nat) : Bool :=
  let a := writer.1 * reader.2
  let b := reader.1 * writer.2
  (renditionRasters srcWidth).contains size && (a == b || (admitA12 writer reader samePtp depth && (a == 2 * b || a == 4 * b)))

/-- A13: table capacity. -/
def admitA13 (words streams : Nat) : Bool := decide (words ≤ 524288) && decide (streams ≤ 64)

/-- A14: two-ply snapshot slot, in owned Twists. -/
def admitA14 (snap bytes : Nat) : Bool := decide (ceilDiv bytes 32768 ≤ snap)

/-- A15: context tables. -/
def admitA15 (flows chans decs groups : Nat) : Bool :=
  decide (flows ≤ 1024) && decide (chans ≤ 96) && decide (decs ≤ 16) && decide (groups ≤ 256)

/-- R37: the nominal tail Nₚ − Bₚ rounded to the nearest cycle (R41). -/
def nominalTail (rate : Nat × Nat) (k : Nat) : Nat :=
  (roundDiv (800000000 * rate.2 : Nat) rate.1 - (k * 16384 : Nat)).toNat

/-! ### Latency and the contract sheet (R84, R172, R193) -/

/-- R193: the stated latency in ns: a + p + D × p + C + 20 µs, with p given as a fraction of ns. -/
def statedLatency (a : Nat) (p : Nat × Nat) (d c : Nat) : Nat := (roundDiv ((a + c + 20000) * p.2 + (1 + d) * p.1 : Nat) p.2).toNat

/-- R84: the bytes of a contract-sheet record. -/
def sheetRecord (chan plane varmask latency ingest pipe cpb pkt rate minrate : Nat) : List Byte :=
  leBytes 1 chan ++ leBytes 1 plane ++ leBytes 2 varmask ++ leBytes 4 latency ++ leBytes 4 ingest ++ leBytes 4 pipe ++
    leBytes 4 cpb ++ leBytes 4 pkt ++ leBytes 4 rate ++ leBytes 4 minrate

/-- R84: the four rounded terms lie within 2 ns of LATENCY × 320 ns. -/
def sheetTermsAgree (latency ingest pipe cpb pkt : Nat) : Bool :=
  decide (natAbsDiff (ingest + pipe + cpb + pkt) (latency * 320) ≤ 2)

/-! ### Lane structure (R126–R140) -/

/-- R125: CTU size of a codec. -/
def ctuSize (vvc : Bool) : Nat := if vvc then 128 else 64

/-- R126: CTU columns of each of k shares of a VVC channel with n CTU columns: no two differ by more than one, the wider
on the left. -/
def shareWidths (n k : Nat) : List Nat := (List.range k).map (fun j => n / k + (if j < n % k then 1 else 0))

/-- R127: the CTU rows that column j of k codes in a divided HEVC channel. -/
def shareRows (rows k j : Nat) : List Nat := (List.range rows).filter (fun r => r % k = j)

/-- R129: 4:2:0-equivalent luma samples of a CTU holding `n` luma samples, times 3. -/
def equivTimes3 (n : Nat) (is422 : Bool) : Nat := n * (if is422 then 4 else 3)

/-- R129: stage budget in ENG cycles of a CTU holding `n` luma samples: 1.5 cycles per equivalent sample. -/
def stageBudget (n : Nat) (is422 : Bool) : Nat := equivTimes3 n is422 / 2

/-- R129: ENG cycles of a row in each lane stage. -/
def rowCycles (n : Nat) (is422 : Bool) : Nat := stageBudget n is422 + 2048

/-- R129: the largest BINCAP of a CTU: twice its stage budget. -/
def largestBinCap (vvc is422 : Bool) : Nat := 2 * stageBudget (ctuSize vvc * ctuSize vvc) is422

/-- R130: pipeline depth D in row periods. -/
def pipelineDepth (alone vvcShare : Bool) (hevcShares : Nat) : Nat :=
  if 1 < hevcShares then 4 * hevcShares else if alone || vvcShare then 4 else 5

/-- R132: the level of a raster code and a rate in frames per second rounded down: VVC and HEVC general_level_idc. -/
def levelIdc (raster fps : Nat) : Nat × Nat :=
  match raster with
  | 0 => if fps ≤ 30 then (51, 93) else if fps ≤ 60 then (64, 120) else (67, 123)
  | 1 => if fps ≤ 30 then (64, 120) else if fps ≤ 60 then (67, 123) else (80, 150)
  | 2 => if fps ≤ 30 then (80, 150) else if fps ≤ 60 then (83, 153) else (86, 156)
  | _ => if fps ≤ 30 then (96, 180) else if fps ≤ 60 then (99, 183) else (102, 186)

/-- R138: references, SRH and SRV of a search profile; reserved codes act as profile 5 (R163). -/
def searchProfile : Nat → Nat × Nat × Nat
  | 1 => (2, 256, 64) | 2 => (1, 256, 64) | 3 => (1, 128, 32) | 4 => (1, 64, 16) | _ => (1, 32, 16)

/-- R138: window bytes of a channel of coded width ws and CTU height h under a profile. -/
def windowBytes (prof ws h : Nat) (is422 : Bool) : Nat :=
  let (refs, srh, srv) := searchProfile prof
  let full := (ws + 2 * srh + 16) * (h + 2 * srv + 16) * (if is422 then 20 else 15) / 8
  let quarter := (ws / 4 + srh / 2) * ((3 * h + 2 * srv + 16) / 4) * 2
  refs * (full + quarter)

/-- R138: the lowest-numbered profile whose windows fit, if any; each channel as (ws, h, 4:2:2). -/
def chooseProfile (chs : List (Nat × Nat × Bool)) : Option Nat :=
  [1, 2, 3, 4, 5].find? (fun p => decide ((chs.map (fun (w, h, x) => windowBytes p w h x)).sum ≤ 5242880))

/-- R140: first and one-past-last CTU column that picture i of a refresh period codes as intra. -/
def refreshColumns (i cols period : Nat) : Nat × Nat := (i * cols / period, (i + 1) * cols / period)

/-! ### Decode lanes and composition (R243, R248, R249, R262, R263, R265) -/

/-- R243: the streams of a decode lane sum to at most 2.0 G luma samples/s. -/
def decodeLaneFits (streams : List (Nat × Nat × (Nat × Nat) × Bool)) : Bool := decide ((streams.map load3003).sum ≤ 2 * columnLoad)

/-- R248: the most ENG cycles that the parser takes for an access unit of `bins` bins in `nals` NAL units. -/
def parseCycles (bins nals : Nat) : Nat := bins + 256 * nals

/-- R249: ENG cycles of the row slot of a row of `n` luma samples: 0.75 per equivalent sample and 1,024. -/
def rowSlotCycles (n : Nat) (is422 : Bool) : Nat := ceilDiv (equivTimes3 n is422) 4 + 1024

/-- R262: what a composition output can be: 8K at rates up to 60, a smaller raster of R96 at rates up to 120. -/
def outputFits (raster : Nat) (rate : Nat × Nat) : Bool := decide (rate.1 ≤ (if raster = 3 then 60 else 120) * rate.2)

/-- R263: a rectangle has an even position and width and lies within a raster. -/
def rectFits (raster : Nat × Nat) (x y w h : Nat) : Bool := decide (x % 2 = 0 ∧ w % 2 = 0 ∧ x + w ≤ raster.1 ∧ y + h ≤ raster.2)

/-- R265: a scaler job's limits: input and output at most 3.2 G luma samples/s, and on each axis a ratio between 1:8 and 8:1. -/
def scalerJobFits (src dst : Nat × Nat) (srcRate rate : Nat × Nat) : Bool :=
  let axis (a b : Nat) : Bool := decide (b ≤ 8 * a ∧ a ≤ 8 * b)
  decide (src.1 * src.2 * srcRate.1 ≤ 3200000000 * srcRate.2 ∧ dst.1 * dst.2 * rate.1 ≤ 3200000000 * rate.2) &&
    axis src.1 dst.1 && axis src.2 dst.2

/-! ### Coded-size bounds (R176–R178, R183) -/

/-- R178: Hs, the slice-payload allowance in bits. -/
def sliceAllowance : Nat := 384

/-- R177: g, the bit bound of a guard candidate. -/
def guardBits (vvc inter : Bool) : Nat :=
  match vvc, inter with
  | true, false => 288 | true, true => 72 | false, false => 72 | false, true => 48

/-- R177: the largest number of bins of a guard candidate. -/
def guardBins (vvc inter : Bool) : Nat :=
  match vvc, inter with
  | true, false => 48 | true, true => 12 | false, false => 12 | false, true => 8

/-- R178: the most bits a slice NAL unit with q payload bits takes. -/
def nalBits (q : Nat) : Nat := 16 + 12 * ceilDiv q 8

/-- R183: the floor bound of a row whose slices hold the given numbers of CTUs. -/
def floorBound (vvc inter : Bool) (slices : List Nat) : Nat :=
  (slices.map (fun n => nalBits (sliceAllowance + guardBits vvc inter * n))).sum

/-- R136: the highest QP, which floor mode uses (R184). -/
def maxQp (vvc : Bool) : Nat := if vvc then 63 else 51

/-- R186: the smallest rate in kb/s that sends `bits` in one row period p = pn / pd ns, rounded up to a multiple of 8. -/
def minRateKbps (bits : Nat) (p : Nat × Nat) : Nat := ceilDiv (ceilDiv (bits * 1000000 * p.2) p.1) 8 * 8

/-- R182: round(6 × log₂(a / b)), exactly: the k with 2^(2k−1) ≤ (a/b)^12 < 2^(2k+1), searched within ±200. -/
def log2Sixths (a b : Nat) : Int :=
  let x := a ^ 12
  let y := b ^ 12
  -- the number of k in −200 … 199 with 2^(2k+1) ≤ x / y, counted from −200
  let n := ((List.range 400).filter (fun j =>
    let e : Int := 2 * ((j : Int) - 200) + 1
    if 0 ≤ e then decide (y * 2 ^ e.toNat ≤ x) else decide (y ≤ x * 2 ^ (-e).toNat))).length
  (n : Int) - 200

/-- R182: round(3 × log₂(a / b)), exactly. -/
def log2Thirds (a b : Nat) : Int :=
  let x := a ^ 6
  let y := b ^ 6
  let n := ((List.range 400).filter (fun j =>
    let e : Int := 2 * ((j : Int) - 200) + 1
    if 0 ≤ e then decide (y * 2 ^ e.toNat ≤ x) else decide (y ≤ x * 2 ^ (-e).toNat))).length
  (n : Int) - 200

end Sys2Proof.Machine
end

