-- ==== Sys2Proof/Config.lean ====
section
/-! DEFINITION. What one device fixes and the manual leaves to it, and the free values: what the manual says is undefined,
random or not stated. Nothing in Lean can evaluate a free value, so a statement holds whatever it is. -/

namespace Sys2Proof.Config

/-- The n-th free value: a 256-bit value the manual does not fix (a random nonce, a value it leaves open). It is applied
to a counter of the state that every use advances, so no two uses are known to agree. -/
opaque freeValue : Nat → BitVec 256

/-- What a MEM read of a byte of DRAM that nothing has written since power-on returns (the manual gives no contents). -/
opaque dramPowerOn : Nat → BitVec 8

/-- Whether the device was ordered as AXE-2192-BE, the extended range (R1). -/
opaque extended : Bool

/-! What the video coding standards define and the manual does not restate (Encode Lanes; log entry 125): each is one function of
what it depends on, for VVC (true) and HEVC (false). -/

/-- The initial state of a context model: of a codec, in an intra slice or not, at a slice QP. -/
opaque contextInit : Bool → Bool → Nat → Nat → Nat × Nat

/-- The two adaptation windows of a VVC context model. -/
opaque contextWindows : Nat → Nat × Nat

/-- The bytes of a slice header and its byte alignment. -/
opaque sliceHeader : Bool → SliceHead → List Byte

/-- The payload bytes of a NAL unit that is no slice, or of an SEI message, where the manual does not give them. -/
opaque headPayload : Bool → HeadNal → List Byte

/-- The unfiltered samples of a CTU, luma, Cb and Cr in raster order, that its syntax describes: from its slice, the bins of the CTUs
before it in the slice, its own bins, the QPs of its quantisation groups, and the lines of the reference pictures. -/
opaque rebuild : Bool → SliceHead → List (List Bin) → List Bin → List Nat → List (List (List Byte)) → List Nat

/-- The packed bytes of a filtered line: from the reconstruction of the CTU row above, that of its own row, and its number. -/
opaque filteredLine : Bool → List (List Nat) → List (List Nat) → Nat → List Byte

/-- The SATD of an intra mode for a block of source samples. -/
opaque intraSatd : Bool → Nat → List Nat → Nat

/-- The chroma QP of a luma QP under the default mapping of VVC. -/
opaque vvcChromaQp : Nat → Nat

/-- The bytes in which a lane hands the results of its coarse search and intra analysis to the Spindles. -/
opaque laneResults : List (List (Int × Int)) → List Nat → Nat → Byte

end Sys2Proof.Config
end

