-- ==== Sys2Proof/Machine/RegMap.lean ====
section
/-! DEFINITION. The register map of R655 and R667: every register array of the manual with its address, its strides, its
reset word and its access masks (R14), and one named `Fld` for every field of every register. -/

namespace Sys2Proof.Machine

/-- One register array of the map: the address of instance 0 in BAR0, the inner stride and count, the outer stride and
count (an array inside an instance array), the reset word and the bits of each access type of R14. `keep` marks the bits
a warm reset keeps: RWS, and the one RO field whose rule says so. `used` marks the bits that some field holds. -/
structure RegRow where
  addr : Nat
  stride : Nat
  count : Nat
  ostride : Nat
  ocount : Nat
  reset : Nat
  rw : Nat
  rws : Nat
  w1c : Nat
  sk : Nat
  wo : Nat
  keep : Nat
  used : Nat
  deriving DecidableEq, Repr

/-- A field of a register array: the address of instance 0, the stride of the array, and the bit range [hi:lo] (R7).
Instance `i` of an array inside an instance array is counted in inner strides from instance 0. -/
structure Fld where
  addr : Nat
  stride : Nat
  hi : Nat
  lo : Nat
  deriving DecidableEq, Repr

/-- The registers of block GLB, in address order of their rules. -/
def regRowsGLB0 : List RegRow := [
  ⟨0x0, 0x0, 1, 0x0, 1, 0x21920200, 0x0, 0x0, 0x0, 0x0, 0x0, 0x0, 0xFFFFFFFF⟩,  -- GLB.IDCODE, R662
  ⟨0x4, 0x0, 1, 0x0, 1, 0xFFFF, 0x0, 0x0, 0x0, 0x0, 0x0, 0x0, 0xFFFFFFFF⟩,  -- GLB.FEATURES, R663
  ⟨0x8, 0x0, 1, 0x0, 1, 0x41312111, 0x0, 0x0, 0x0, 0x0, 0x0, 0x0, 0xFFFFFFFF⟩,  -- GLB.IFVER, R664
  ⟨0xC, 0x0, 1, 0x0, 1, 0x40201010, 0x0, 0x0, 0x0, 0x0, 0x0, 0x0, 0xFFFFFFFF⟩,  -- GLB.IFMIN, R664
  ⟨0x14, 0x0, 1, 0x0, 1, 0xB2C0100, 0x0, 0x0, 0x0, 0x0, 0x0, 0x0, 0xFFFFFFFF⟩,  -- GLB.REGMAP, R665
  ⟨0x200, 0x0, 1, 0x0, 1, 0x1F000000, 0x0, 0x0, 0x8, 0x0, 0x0, 0x0, 0xFFFCFFFB⟩,  -- GLB.BOOTSTAT, R91
  ⟨0x204, 0x0, 1, 0x0, 1, 0x0, 0x0, 0x0, 0x0, 0x0, 0x0, 0x0, 0xFFFFFFFF⟩,  -- GLB.BOOTTIME, R92
  ⟨0x208, 0x0, 1, 0x0, 1, 0x0, 0x0, 0x0, 0x0, 0xFFFFFFFF, 0x0, 0x0, 0xFFFFFFFF⟩,  -- GLB.SKEINGENLO, R93
  ⟨0x20C, 0x0, 1, 0x0, 1, 0x0, 0x0, 0x0, 0x0, 0xFFFFFFFF, 0x0, 0x0, 0xFFFFFFFF⟩,  -- GLB.SKEINGENHI, R93
  ⟨0x210, 0x0, 1, 0x0, 1, 0x0, 0x0, 0x0, 0x0, 0xFFFFFFFF, 0x0, 0x0, 0xFFFFFFFF⟩,  -- GLB.SKEININFO, R93
  ⟨0x220, 0x4, 4, 0x0, 1, 0x0, 0x0, 0x0, 0x200, 0x0, 0x0, 0x0, 0x3FF⟩,  -- GLB.VARIANT, R94
  ⟨0x230, 0x0, 1, 0x0, 1, 0x0, 0x0, 0x0, 0x0, 0x0, 0xFFFF0001, 0x0, 0xFFFF0001⟩,  -- GLB.RESETCTL, R95
  ⟨0x300, 0x0, 1, 0x0, 1, 0x0, 0x0, 0x0, 0x0, 0x0, 0x0, 0x0, 0x3FFFFFF⟩,  -- GLB.ABORTADDR, R660
  ⟨0x304, 0x0, 1, 0x0, 1, 0x0, 0x0, 0x0, 0xC0000000, 0x0, 0x0, 0x0, 0xFFF0FFFF⟩,  -- GLB.ABORTINFO, R660
  ⟨0x8000, 0x4, 1024, 0x0, 1, 0x0, 0x0, 0x0, 0x0, 0x0, 0x0, 0x0, 0xFFFFFFFF⟩]  -- GLB.SHEET, R83

/-- Every register of block GLB. -/
def regRowsGLB : List RegRow := regRowsGLB0

/-- The registers of block SEQ, in address order of their rules. -/
def regRowsSEQ0 : List RegRow := [
  ⟨0x100200, 0x4, 8, 0x0, 1, 0xFFFFFFFF, 0x0, 0x0, 0x0, 0xFFFFFFFF, 0x0, 0x0, 0xFFFFFFFF⟩,  -- SEQ.RINGOWN, R52
  ⟨0x100300, 0x0, 1, 0x0, 1, 0x0, 0x0, 0x0, 0xC0000000, 0x0, 0x0, 0x0, 0xC7FFF000⟩,  -- SEQ.SFSTAT, R57
  ⟨0x100304, 0x0, 1, 0x0, 1, 0x0, 0x0, 0x0, 0x0, 0x0, 0x0, 0x0, 0xFFFFF⟩,  -- SEQ.SFSLOT, R58
  ⟨0x100308, 0x0, 1, 0x0, 1, 0x0, 0x0, 0x0, 0x0, 0x0, 0x0, 0x0, 0xFFFFFFFF⟩,  -- SEQ.SFTURNLO, R58
  ⟨0x10030C, 0x0, 1, 0x0, 1, 0x0, 0x0, 0x0, 0x0, 0x0, 0x0, 0x0, 0xFF⟩,  -- SEQ.SFTURNHI, R58
  ⟨0x100400, 0x0, 1, 0x0, 1, 0x8000003F, 0x0, 0x0, 0x0, 0x8000003F, 0x0, 0x0, 0x8000003F⟩,  -- SEQ.TRCCFG, R60
  ⟨0x100404, 0x0, 1, 0x0, 1, 0x0, 0x0, 0x0, 0x0, 0x0, 0x0, 0x0, 0xFFFF1FFF⟩,  -- SEQ.TRCSTAT, R60
  ⟨0x101000, 0x100, 4, 0x0, 1, 0xC00000, 0x0, 0x0, 0x0, 0x8FF00FFF, 0x0, 0x0, 0x8FF00FFF⟩,  -- SEQ.PLANECFG, R53
  ⟨0x101004, 0x100, 4, 0x0, 1, 0x0, 0x0, 0x0, 0x0, 0xFFFFFFFF, 0x0, 0x0, 0xFFFFFFFF⟩,  -- SEQ.TAILCTL, R54
  ⟨0x10100C, 0x100, 4, 0x0, 1, 0x0, 0x0, 0x0, 0x20000000, 0x0, 0x0, 0x0, 0xE000FFFF⟩,  -- SEQ.PLANESTAT, R55
  ⟨0x101010, 0x100, 4, 0x0, 1, 0x0, 0x0, 0x0, 0x0, 0x0, 0x0, 0x0, 0xFFFF⟩,  -- SEQ.TAILLAST, R56
  ⟨0x101018, 0x100, 4, 0x0, 1, 0x0, 0x0, 0x0, 0x0, 0x0, 0x0, 0x0, 0xFFFFFFFF⟩,  -- SEQ.TURNCNTLO, R56
  ⟨0x10101C, 0x100, 4, 0x0, 1, 0x0, 0x0, 0x0, 0x0, 0x0, 0x0, 0x0, 0xFF⟩]  -- SEQ.TURNCNTHI, R56

/-- Every register of block SEQ. -/
def regRowsSEQ : List RegRow := regRowsSEQ0

/-- The registers of block ING, in address order of their rules. -/
def regRowsING0 : List RegRow := [
  ⟨0x200010, 0x0, 1, 0x0, 1, 0x0, 0x0, 0x0, 0x0, 0x0, 0x800003FF, 0x0, 0x800003FF⟩,  -- ING.CNTCLR, R118
  ⟨0x200100, 0x4, 4, 0x0, 1, 0x0, 0x0, 0x0, 0x0, 0xFFFFFFFF, 0x0, 0x0, 0xFFFFFFFF⟩,  -- ING.PASCN, R118
  ⟨0x204000, 0x20, 1024, 0x0, 1, 0x0, 0x0, 0x0, 0x0, 0xFFFCFFFF, 0x0, 0x0, 0xFFFCFFFF⟩,  -- ING.FLOWCFG, R120
  ⟨0x204004, 0x20, 1024, 0x0, 1, 0x0, 0x0, 0x0, 0x0, 0xFFFFFFFF, 0x0, 0x0, 0xFFFFFFFF⟩,  -- ING.FLOWTIME, R119
  ⟨0x204008, 0x20, 1024, 0x0, 1, 0x0, 0x0, 0x0, 0x0, 0xFFFFFFFF, 0x0, 0x0, 0xFFFFFFFF⟩,  -- ING.ARROFF, R119
  ⟨0x20400C, 0x20, 1024, 0x0, 1, 0x0, 0x0, 0x0, 0x1E000000, 0x0, 0x0, 0x0, 0xFE00FFFF⟩,  -- ING.FLOWSTAT, R121
  ⟨0x204010, 0x20, 1024, 0x0, 1, 0x0, 0x0, 0x0, 0x0, 0x0, 0x0, 0x0, 0xFFFFFFFF⟩,  -- ING.SUBLINES, R119
  ⟨0x204014, 0x20, 1024, 0x0, 1, 0x0, 0x0, 0x0, 0x0, 0x0, 0x0, 0x0, 0xFFFFFFFF⟩,  -- ING.SUBPICS, R119
  ⟨0x204018, 0x20, 1024, 0x0, 1, 0x0, 0x0, 0x0, 0x0, 0x0, 0x0, 0x0, 0xFFFFFFFF⟩,  -- ING.MERGECNT, R122
  ⟨0x20401C, 0x20, 1024, 0x0, 1, 0x0, 0x0, 0x0, 0x0, 0x0, 0x0, 0x0, 0xFFFFFFFF⟩,  -- ING.LASTSTAMP, R119
  ⟨0x20C000, 0x4, 256, 0x0, 1, 0x0, 0x0, 0x0, 0x0, 0x8FFF0000, 0x0, 0x0, 0x8FFF03FF⟩]  -- ING.GROUPSTAT, R123

/-- Every register of block ING. -/
def regRowsING : List RegRow := regRowsING0

/-- The registers of block LANE, in address order of their rules. -/
def regRowsLANE0 : List RegRow := [
  ⟨0x400000, 0x10000, 16, 0x0, 1, 0x100100, 0x0, 0x0, 0x0, 0xFFFF071F, 0x0, 0x0, 0xFFFF071F⟩,  -- LANE.LANECFG, R163
  ⟨0x400004, 0x10000, 16, 0x0, 1, 0x0, 0x0, 0x0, 0x3F000000, 0x0, 0x0, 0x0, 0xFF000000⟩,  -- LANE.LANESTAT, R164
  ⟨0x400008, 0x10000, 16, 0x0, 1, 0x0, 0x0, 0x0, 0xC0000000, 0x0, 0x0, 0x0, 0xFFFFFFFF⟩,  -- LANE.FAULTREC, R165
  ⟨0x40000C, 0x10000, 16, 0x0, 1, 0x0, 0x0, 0x0, 0x0, 0x0, 0x8000000F, 0x0, 0x8000000F⟩,  -- LANE.CNTCLR, R167
  ⟨0x400100, 0x20, 16, 0x10000, 16, 0x0, 0x0, 0x0, 0x0, 0xFFFFFFF0, 0x0, 0x0, 0xFFFFFFF0⟩,  -- LANE.CHCFG, R169
  ⟨0x400104, 0x20, 16, 0x10000, 16, 0x0, 0x0, 0x0, 0x0, 0xFFFFF8FF, 0x0, 0x0, 0xFFFFF8FF⟩,  -- LANE.CHGOP, R170
  ⟨0x400108, 0x20, 16, 0x10000, 16, 0x0, 0x0, 0x0, 0x0, 0x1FFFF, 0x0, 0x0, 0x1FFFF⟩,  -- LANE.CHBIN, R168
  ⟨0x40010C, 0x20, 16, 0x10000, 16, 0x0, 0x0, 0x0, 0x0, 0x0, 0x0, 0x0, 0xFFFFFFFF⟩,  -- LANE.GUARDCTU, R168
  ⟨0x400110, 0x20, 16, 0x10000, 16, 0x0, 0x0, 0x0, 0x0, 0x0, 0x0, 0x0, 0xFFFFFFFF⟩,  -- LANE.GUARDROWS, R168
  ⟨0x400114, 0x20, 16, 0x10000, 16, 0x0, 0x0, 0x0, 0x0, 0x0, 0x0, 0x0, 0x1FFFF⟩,  -- LANE.BINPEAK, R168
  ⟨0x400118, 0x20, 16, 0x10000, 16, 0x0, 0x0, 0x0, 0x0, 0x0, 0x0, 0x0, 0xFFFFFFFF⟩]  -- LANE.FAULTCNT, R168

/-- Every register of block LANE. -/
def regRowsLANE : List RegRow := regRowsLANE0

/-- The registers of block RATE, in address order of their rules. -/
def regRowsRATE0 : List RegRow := [
  ⟨0x600010, 0x0, 1, 0x0, 1, 0x0, 0x0, 0x0, 0x0, 0x0, 0x8000007F, 0x0, 0x8000007F⟩,  -- RATE.CNTCLR, R194
  ⟨0x601000, 0x40, 96, 0x0, 1, 0x0, 0x0, 0x0, 0x0, 0xFFFFFFFF, 0x0, 0x0, 0xFFFFFFFF⟩,  -- RATE.RCCFG, R196
  ⟨0x601004, 0x40, 96, 0x0, 1, 0x0, 0x0, 0x0, 0x0, 0xFFFFFFFF, 0x0, 0x0, 0xFFFFFFFF⟩,  -- RATE.MINKB, R195
  ⟨0x601008, 0x40, 96, 0x0, 1, 0x0, 0x0, 0x0, 0x0, 0xFFFFFFFF, 0x0, 0x0, 0xFFFFFFFF⟩,  -- RATE.MAXKB, R195
  ⟨0x60100C, 0x40, 96, 0x0, 1, 0x0, 0x0, 0x0, 0x0, 0xFFFFFFFF, 0x0, 0x0, 0xFFFFFFFF⟩,  -- RATE.NOMKB, R195
  ⟨0x601010, 0x40, 96, 0x0, 1, 0x0, 0x0, 0x0, 0x0, 0x0, 0x0, 0x0, 0xFFFFFFFF⟩,  -- RATE.CURKB, R195
  ⟨0x601014, 0x40, 96, 0x0, 1, 0x0, 0x0, 0x0, 0x0, 0x0, 0x0, 0x0, 0xFFFFFFFF⟩,  -- RATE.HARDBITS, R195
  ⟨0x601018, 0x40, 96, 0x0, 1, 0x0, 0x0, 0x0, 0x0, 0x0, 0x0, 0x0, 0xFFFFFFFF⟩,  -- RATE.OCC, R195
  ⟨0x60101C, 0x40, 96, 0x0, 1, 0x0, 0x0, 0x0, 0x0, 0x0, 0x0, 0x0, 0xFFFFFFFF⟩,  -- RATE.OCCPEAK, R195
  ⟨0x601020, 0x40, 96, 0x0, 1, 0x0, 0x0, 0x0, 0x0, 0x0, 0x0, 0x0, 0xFFFFFFFF⟩,  -- RATE.CARRY, R195
  ⟨0x601024, 0x40, 96, 0x0, 1, 0x0, 0x0, 0x0, 0x70000000, 0x0, 0x0, 0x0, 0xF83F0000⟩,  -- RATE.RCSTAT, R197
  ⟨0x601028, 0x40, 96, 0x0, 1, 0x0, 0x0, 0x0, 0x0, 0x0, 0x0, 0x0, 0xFFFFFFFF⟩,  -- RATE.FLOORCNT, R195
  ⟨0x60102C, 0x40, 96, 0x0, 1, 0x0, 0x0, 0x0, 0x0, 0x0, 0x0, 0x0, 0xFFFFFFFF⟩,  -- RATE.CAPCTU, R195
  ⟨0x601030, 0x40, 96, 0x0, 1, 0x0, 0x0, 0x0, 0x0, 0xFF, 0x0, 0x0, 0xFF⟩,  -- RATE.RCWEIGHT, R195
  ⟨0x604000, 0x10, 32, 0x0, 1, 0x0, 0x0, 0x0, 0x0, 0xB000007F, 0x0, 0x0, 0xB000007F⟩,  -- RATE.SMCFG, R198
  ⟨0x604004, 0x10, 32, 0x0, 1, 0x0, 0x0, 0x0, 0x0, 0xFFFFFFFF, 0x0, 0x0, 0xFFFFFFFF⟩,  -- RATE.SMKB, R198
  ⟨0x604008, 0x10, 32, 0x0, 1, 0x0, 0x0, 0x0, 0x0, 0x0, 0x0, 0x0, 0xFFFFFFFF⟩,  -- RATE.SMCURKB, R198
  ⟨0x60400C, 0x10, 32, 0x0, 1, 0x0, 0x0, 0x0, 0x0, 0x0, 0x0, 0x0, 0x3F⟩]  -- RATE.SMQBAR, R198

/-- Every register of block RATE. -/
def regRowsRATE : List RegRow := regRowsRATE0

/-- The registers of block SPN, in address order of their rules. -/
def regRowsSPN0 : List RegRow := [
  ⟨0x800000, 0x1000, 192, 0x0, 1, 0x0, 0x0, 0x0, 0x0, 0xC0000000, 0x0, 0x0, 0xC0000000⟩,  -- SPN.SPNCFG, R239
  ⟨0x800004, 0x1000, 192, 0x0, 1, 0x0, 0x0, 0x0, 0x180, 0x0, 0x0, 0x0, 0xFFEFFF80⟩,  -- SPN.SPNSTAT, R240
  ⟨0x800008, 0x1000, 192, 0x0, 1, 0x0, 0x0, 0x0, 0xC0000000, 0x0, 0x0, 0x0, 0xFFFF0FFF⟩,  -- SPN.FAULTREC, R241
  ⟨0x80000C, 0x1000, 192, 0x0, 1, 0x0, 0x0, 0x0, 0x0, 0x0, 0x0, 0x0, 0xFFFFFFFF⟩,  -- SPN.FAULTTURN, R239
  ⟨0x800010, 0x1000, 192, 0x0, 1, 0x0, 0x0, 0x0, 0x0, 0x0, 0x0, 0x0, 0xFFFFFFFF⟩,  -- SPN.ECCCNT, R239
  ⟨0x800014, 0x1000, 192, 0x0, 1, 0x0, 0x0, 0x0, 0x0, 0x0, 0x0, 0x0, 0xFFFFFFFF⟩,  -- SPN.SUBCNT, R239
  ⟨0x800018, 0x1000, 192, 0x0, 1, 0xFFFFF, 0x0, 0x0, 0x0, 0x0, 0x0, 0x0, 0xFFFFF⟩,  -- SPN.SLACKMIN, R239
  ⟨0x800020, 0x4, 8, 0x1000, 192, 0x0, 0x0, 0x0, 0x0, 0x0, 0x0, 0x0, 0xFFFFFFFF⟩,  -- SPN.ACPAIR, R239
  ⟨0x800040, 0x1000, 192, 0x0, 1, 0x0, 0x0, 0x0, 0x0, 0x0, 0x0, 0x0, 0x80000FFF⟩,  -- SPN.PCNOW, R239
  ⟨0x800400, 0x4, 32, 0x1000, 192, 0x0, 0x0, 0x0, 0x0, 0x0, 0x0, 0x0, 0xFFFFFFFF⟩,  -- SPN.SREG, R239
  ⟨0x800800, 0x4, 512, 0x1000, 192, 0x0, 0x0, 0x0, 0x0, 0x0, 0x0, 0x0, 0xFFFFFFFF⟩,  -- SPN.VREG, R239
  ⟨0x8C0000, 0x0, 1, 0x0, 1, 0x0, 0x0, 0x0, 0x0, 0x7FF1FFF, 0x0, 0x0, 0x7FF1FFF⟩,  -- SPN.LIBINFO, R237
  ⟨0x8C0004, 0x0, 1, 0x0, 1, 0x0, 0x0, 0x0, 0x0, 0xFFFFFFFF, 0x0, 0x0, 0xFFFFFFFF⟩,  -- SPN.LIBCRC, R237
  ⟨0x8C0010, 0x4, 4, 0x0, 1, 0x0, 0x0, 0x0, 0x0, 0x0, 0x0, 0x0, 0x8F8F8F8F⟩,  -- SPN.COLMAP, R236
  ⟨0x8C0020, 0x0, 1, 0x0, 1, 0x0, 0x0, 0x0, 0x0, 0x0, 0xC00000FF, 0x0, 0xC00000FF⟩]  -- SPN.CNTCLR, R238

/-- Every register of block SPN. -/
def regRowsSPN : List RegRow := regRowsSPN0

/-- The registers of block DEC, in address order of their rules. -/
def regRowsDEC0 : List RegRow := [
  ⟨0xA00010, 0x0, 1, 0x0, 1, 0x0, 0x0, 0x0, 0x0, 0x0, 0x8000000F, 0x0, 0x8000000F⟩,  -- DEC.CNTCLR, R257
  ⟨0xA00100, 0x4, 4, 0x0, 1, 0x0, 0x0, 0x0, 0x60000000, 0x801F0000, 0x0, 0x0, 0xE01F0000⟩,  -- DEC.DLSTAT, R258
  ⟨0xA01000, 0x20, 16, 0x0, 1, 0x0, 0x0, 0x0, 0x0, 0xFFF3FFFF, 0x0, 0x0, 0xFFF3FFFF⟩,  -- DEC.DSCFG, R260
  ⟨0xA01004, 0x20, 16, 0x0, 1, 0x0, 0x0, 0x0, 0x0, 0xF800FFFF, 0x0, 0x0, 0xF800FFFF⟩,  -- DEC.DSTIME, R259
  ⟨0xA01008, 0x20, 16, 0x0, 1, 0x0, 0x0, 0x0, 0x0, 0xFFFFFFFF, 0x0, 0x0, 0xFFFFFFFF⟩,  -- DEC.DSPARSE, R259
  ⟨0xA0100C, 0x20, 16, 0x0, 1, 0x0, 0x0, 0x0, 0x1C000000, 0x0, 0x0, 0x0, 0xFC00FFFF⟩,  -- DEC.DSSTAT, R261
  ⟨0xA01010, 0x20, 16, 0x0, 1, 0x0, 0x0, 0x0, 0x0, 0x0, 0x0, 0x0, 0xFFFFFFFF⟩,  -- DEC.CONCPICS, R259
  ⟨0xA01014, 0x20, 16, 0x0, 1, 0x0, 0x0, 0x0, 0x0, 0x0, 0x0, 0x0, 0xFFFFFFFF⟩,  -- DEC.CONCCTU, R259
  ⟨0xA01018, 0x20, 16, 0x0, 1, 0x0, 0x0, 0x0, 0x0, 0x0, 0x0, 0x0, 0xF000FFFF⟩,  -- DEC.ERRCASE, R259
  ⟨0xA0101C, 0x20, 16, 0x0, 1, 0x0, 0x0, 0x0, 0x0, 0x0, 0x0, 0x0, 0xFFFFFFFF⟩]  -- DEC.LASTSTAMP, R259

/-- Every register of block DEC. -/
def regRowsDEC : List RegRow := regRowsDEC0

/-- The registers of block CMP, in address order of their rules. -/
def regRowsCMP0 : List RegRow := [
  ⟨0xB01000, 0x400, 4, 0x0, 1, 0x0, 0x0, 0x0, 0x0, 0xFF8003FF, 0x0, 0x0, 0xFF8003FF⟩,  -- CMP.OUTCFG, R279
  ⟨0xB01004, 0x400, 4, 0x0, 1, 0x0, 0x0, 0x0, 0x40000000, 0x0, 0x0, 0x0, 0xC000FFFF⟩,  -- CMP.OUTSTAT, R278
  ⟨0xB01008, 0x400, 4, 0x0, 1, 0x0, 0x0, 0x0, 0x0, 0x3FFFFFFF, 0x0, 0x0, 0x3FFFFFFF⟩,  -- CMP.BGCOLOUR, R278
  ⟨0xB0100C, 0x400, 4, 0x0, 1, 0x1F0803C0, 0x0, 0x0, 0x0, 0x3FFFFFFF, 0x0, 0x0, 0x3FFFFFFF⟩,  -- CMP.ERRFILL, R278
  ⟨0xB01010, 0x400, 4, 0x0, 1, 0x0, 0x0, 0x0, 0x0, 0xFFFFFF, 0x0, 0x0, 0xFFFFFF⟩,  -- CMP.OUTDELAY, R278
  ⟨0xB01100, 0x20, 16, 0x400, 4, 0x7E400, 0x0, 0x0, 0x0, 0xFFFFFFFC, 0x0, 0x0, 0xFFFFFFFC⟩,  -- CMP.LAYCFG, R281
  ⟨0xB01104, 0x20, 16, 0x400, 4, 0x0, 0x0, 0x0, 0x0, 0x1FFF1FFF, 0x0, 0x0, 0x1FFF1FFF⟩,  -- CMP.CROPXY, R280
  ⟨0xB01108, 0x20, 16, 0x400, 4, 0x0, 0x0, 0x0, 0x0, 0x1FFF1FFF, 0x0, 0x0, 0x1FFF1FFF⟩,  -- CMP.CROPWH, R280
  ⟨0xB0110C, 0x20, 16, 0x400, 4, 0x0, 0x0, 0x0, 0x0, 0x1FFF1FFF, 0x0, 0x0, 0x1FFF1FFF⟩,  -- CMP.DSTXY, R280
  ⟨0xB01110, 0x20, 16, 0x400, 4, 0x0, 0x0, 0x0, 0x0, 0x1FFF1FFF, 0x0, 0x0, 0x1FFF1FFF⟩,  -- CMP.DSTWH, R280
  ⟨0xB01114, 0x20, 16, 0x400, 4, 0x0, 0x0, 0x0, 0x0, 0x0, 0x0, 0x0, 0x8000FFFF⟩,  -- CMP.LAYSTAT, R280
  ⟨0xB01300, 0x20, 8, 0x400, 4, 0x0, 0x0, 0x0, 0x0, 0xFFFF0000, 0x0, 0x0, 0xFFFF0000⟩,  -- CMP.GFXCFG, R282
  ⟨0xB01304, 0x20, 8, 0x400, 4, 0x0, 0x0, 0x0, 0x0, 0x1FFF1FFF, 0x0, 0x0, 0x1FFF1FFF⟩,  -- CMP.GFXXY, R282
  ⟨0xB01308, 0x20, 8, 0x400, 4, 0x0, 0x0, 0x0, 0x0, 0x1FFF1FFF, 0x0, 0x0, 0x1FFF1FFF⟩,  -- CMP.GFXWH, R282
  ⟨0xB0130C, 0x20, 8, 0x400, 4, 0x0, 0x0, 0x0, 0x0, 0x3F, 0x0, 0x0, 0x3F⟩,  -- CMP.SURFACE, R282
  ⟨0xB01310, 0x20, 8, 0x400, 4, 0x0, 0x0, 0x0, 0x0, 0x0, 0x0, 0x0, 0x80000000⟩,  -- CMP.GFXSTAT, R282
  ⟨0xB08000, 0x20, 24, 0x0, 1, 0x0, 0x0, 0x0, 0x0, 0xFBFFC000, 0x0, 0x0, 0xFBFFC000⟩,  -- CMP.SCLCFG, R283
  ⟨0xB08004, 0x20, 24, 0x0, 1, 0x0, 0x0, 0x0, 0x10000000, 0x0, 0x0, 0x0, 0xF0000000⟩,  -- CMP.SCLSTAT, R283
  ⟨0xB08008, 0x20, 24, 0x0, 1, 0x0, 0x0, 0x0, 0x0, 0x0, 0x0, 0x0, 0xFFFFFFFF⟩]  -- CMP.JOBCNT, R283

/-- Every register of block CMP. -/
def regRowsCMP : List RegRow := regRowsCMP0

/-- The registers of block AUD, in address order of their rules. -/
def regRowsAUD0 : List RegRow := [
  ⟨0xC00010, 0x0, 1, 0x0, 1, 0x0, 0x0, 0x0, 0x0, 0x0, 0xC000003F, 0x0, 0xC000003F⟩,  -- AUD.CNTCLR, R307
  ⟨0xC01000, 0x40, 48, 0x0, 1, 0x100, 0x0, 0x0, 0x0, 0xFCFFFFC0, 0x0, 0x0, 0xFCFFFFC0⟩,  -- AUD.PORTCFG, R309
  ⟨0xC01004, 0x40, 48, 0x0, 1, 0x21544000, 0x0, 0x0, 0x0, 0xFFFFC0FF, 0x0, 0x0, 0xFFFFC0FF⟩,  -- AUD.PORTFMT, R310
  ⟨0xC01008, 0x40, 48, 0x0, 1, 0x0, 0x0, 0x0, 0x0, 0xFFFFFFFF, 0x0, 0x0, 0xFFFFFFFF⟩,  -- AUD.BLKCFG, R308
  ⟨0xC0100C, 0x40, 48, 0x0, 1, 0x0, 0x0, 0x0, 0x0, 0xFFFFFFFF, 0x0, 0x0, 0xFFFFFFFF⟩,  -- AUD.AOFF, R308
  ⟨0xC01010, 0x40, 48, 0x0, 1, 0x0, 0x0, 0x0, 0x0, 0xFFFFFFFF, 0x0, 0x0, 0xFFFFFFFF⟩,  -- AUD.OUTOFF, R308
  ⟨0xC01014, 0x40, 48, 0x0, 1, 0xFFFF, 0xFFFF, 0x0, 0x0, 0x0, 0x0, 0x0, 0xFFFF⟩,  -- AUD.SLOTMASK, R308
  ⟨0xC01018, 0x40, 48, 0x0, 1, 0x0, 0x0, 0x0, 0x0, 0x0, 0x80000000, 0x0, 0x80000000⟩,  -- AUD.MASKCTL, R308
  ⟨0xC0101C, 0x40, 48, 0x0, 1, 0x0, 0x0, 0x0, 0x0, 0x0, 0x0, 0x0, 0xFFFFFFFF⟩,  -- AUD.MASKSTAT, R308
  ⟨0xC01020, 0x40, 48, 0x0, 1, 0x0, 0x0, 0x0, 0x2F00000, 0x0, 0x0, 0x0, 0xFFF8FFFF⟩,  -- AUD.PORTSTAT, R311
  ⟨0xC01024, 0x40, 48, 0x0, 1, 0x0, 0x0, 0x0, 0x0, 0x0, 0x0, 0x0, 0xFFFFFF⟩,  -- AUD.FSMEAS, R308
  ⟨0xC01028, 0x40, 48, 0x0, 1, 0x0, 0x0, 0x0, 0x0, 0x0, 0x0, 0x0, 0xFFFF⟩,  -- AUD.FSPPM, R308
  ⟨0xC0102C, 0x40, 48, 0x0, 1, 0x0, 0x0, 0x0, 0x0, 0x0, 0x0, 0x0, 0xFFFFFFFF⟩,  -- AUD.SUBBLKS, R308
  ⟨0xC01030, 0x40, 48, 0x0, 1, 0x0, 0x0, 0x0, 0x0, 0x0, 0x0, 0x0, 0xFFFFFFFF⟩,  -- AUD.FRAMECNT, R308
  ⟨0xC01034, 0x40, 48, 0x0, 1, 0x0, 0x0, 0x0, 0x0, 0x0, 0x0, 0x0, 0xFFFFFFFF⟩,  -- AUD.ERRCNT, R308
  ⟨0xC01038, 0x40, 48, 0x0, 1, 0x0, 0x0, 0x0, 0x0, 0x0, 0x0, 0x0, 0xFFFFFFFF⟩,  -- AUD.LASTSTAMP, R308
  ⟨0xC0103C, 0x40, 48, 0x0, 1, 0x0, 0x0, 0x0, 0x0, 0x800003FF, 0x0, 0x0, 0x800003FF⟩]  -- AUD.OUTSRC, R308

/-- Every register of block AUD. -/
def regRowsAUD : List RegRow := regRowsAUD0

/-- The registers of block NET, in address order of their rules. -/
def regRowsNET0 : List RegRow := [
  ⟨0xD00010, 0x0, 1, 0x0, 1, 0x0, 0x0, 0x0, 0x0, 0x0, 0xC00003FF, 0x0, 0xC00003FF⟩,  -- NET.CNTCLR, R350
  ⟨0xD00100, 0x4, 4, 0x0, 1, 0x0, 0x0, 0x0, 0x0, 0xC0000F3F, 0x0, 0x0, 0xC0000F3F⟩,  -- NET.QUADCFG, R351
  ⟨0xD01000, 0x100, 16, 0x0, 1, 0x0, 0x0, 0x0, 0x3800000, 0x0, 0x0, 0x0, 0xFF800000⟩,  -- NET.LANESTAT, R353
  ⟨0xD01004, 0x100, 16, 0x0, 1, 0x0, 0x0, 0x0, 0x0, 0xFFFFFFFF, 0x0, 0x0, 0xFFFFFFFF⟩,  -- NET.TXDLY, R352
  ⟨0xD01008, 0x100, 16, 0x0, 1, 0x0, 0x0, 0x0, 0x0, 0xFFFFFFFF, 0x0, 0x0, 0xFFFFFFFF⟩,  -- NET.RXDLY, R352
  ⟨0xD0100C, 0x100, 16, 0x0, 1, 0x0, 0x0, 0x0, 0x0, 0xF, 0x0, 0x0, 0xF⟩,  -- NET.STAMPTB, R352
  ⟨0xD01010, 0x100, 16, 0x0, 1, 0x0, 0x0, 0x0, 0x80000000, 0x0, 0x0, 0x0, 0x801FFFFF⟩,  -- NET.TSQSTAT, R352
  ⟨0xD01014, 0x100, 16, 0x0, 1, 0x0, 0x0, 0x0, 0x0, 0x0, 0x80000000, 0x0, 0x80000000⟩,  -- NET.TSQPOP, R352
  ⟨0xD01018, 0x100, 16, 0x0, 1, 0x0, 0x0, 0x0, 0x0, 0x0, 0x0, 0x0, 0x8000FFFF⟩,  -- NET.TSQ0, R352
  ⟨0xD0101C, 0x100, 16, 0x0, 1, 0x0, 0x0, 0x0, 0x0, 0x0, 0x0, 0x0, 0xFFFFFFFF⟩,  -- NET.TSQ1, R352
  ⟨0xD01020, 0x100, 16, 0x0, 1, 0x0, 0x0, 0x0, 0x0, 0x0, 0x0, 0x0, 0xFFFFFFFF⟩,  -- NET.TSQ2, R352
  ⟨0xD01024, 0x100, 16, 0x0, 1, 0x0, 0x0, 0x0, 0x0, 0x0, 0x0, 0x0, 0xFFFFFFFF⟩,  -- NET.TSQ3, R352
  ⟨0xD01028, 0x100, 16, 0x0, 1, 0x0, 0x0, 0x0, 0x0, 0x0, 0x0, 0x0, 0xFFFFFFFF⟩,  -- NET.RXDROP, R352
  ⟨0xD0102C, 0x100, 16, 0x0, 1, 0x0, 0x0, 0x0, 0x0, 0x0, 0x0, 0x0, 0xFFFFFFFF⟩,  -- NET.FCSERR, R352
  ⟨0xD01030, 0x100, 16, 0x0, 1, 0x0, 0x0, 0x0, 0x0, 0x0, 0x0, 0x0, 0xFFFFFFFF⟩,  -- NET.FECCNT, R352
  ⟨0xD01034, 0x100, 16, 0x0, 1, 0x0, 0x0, 0x0, 0x0, 0x0, 0x0, 0x0, 0xFFFFFFFF⟩,  -- NET.TCFWD, R352
  ⟨0xD04000, 0x40, 16, 0x0, 1, 0x0, 0x0, 0x0, 0x0, 0xFF80FFFF, 0x0, 0x0, 0xFF80FFFF⟩,  -- NET.TBCFG, R355
  ⟨0xD04004, 0x40, 16, 0x0, 1, 0x0, 0x0, 0x0, 0xC000000, 0x0, 0x0, 0xFFFF, 0xFC00FFFF⟩,  -- NET.TBSTAT, R356
  ⟨0xD04008, 0x40, 16, 0x0, 1, 0x0, 0x0, 0x0, 0x0, 0x0, 0x0, 0x0, 0xFFFFFFFF⟩,  -- NET.TBRATE, R354
  ⟨0xD0400C, 0x40, 16, 0x0, 1, 0x0, 0x0, 0x0, 0x0, 0x0, 0x0, 0x0, 0xFFFFFFFF⟩,  -- NET.TBOFFS, R354
  ⟨0xD04010, 0x40, 16, 0x0, 1, 0x0, 0x0, 0x0, 0x0, 0x0, 0x80000000, 0x0, 0x80000000⟩,  -- NET.TBLATCH, R354
  ⟨0xD04014, 0x40, 16, 0x0, 1, 0x0, 0x0, 0x0, 0x0, 0x0, 0x0, 0x0, 0xFFFFFFFF⟩,  -- NET.TBSECLO, R354
  ⟨0xD04018, 0x40, 16, 0x0, 1, 0x0, 0x0, 0x0, 0x0, 0x0, 0x0, 0x0, 0xFFFF⟩,  -- NET.TBSECHI, R354
  ⟨0xD0401C, 0x40, 16, 0x0, 1, 0x0, 0x0, 0x0, 0x0, 0x0, 0x0, 0x0, 0xFFFFFFFF⟩,  -- NET.TBNS, R354
  ⟨0xD04020, 0x40, 16, 0x0, 1, 0x0, 0x0, 0x0, 0x0, 0x0, 0x0, 0x0, 0xFFFF⟩]  -- NET.TBFRAC, R354

/-- The registers of block NET (continued), in address order of their rules. -/
def regRowsNET1 : List RegRow := [
  ⟨0xD04024, 0x40, 16, 0x0, 1, 0x0, 0x0, 0x0, 0x0, 0xFFFFFFFF, 0x0, 0x0, 0xFFFFFFFF⟩,  -- NET.TBLIM, R354
  ⟨0xD04028, 0x40, 16, 0x0, 1, 0x0, 0x0, 0x0, 0x0, 0x0, 0x0, 0x0, 0xFFFFFFFF⟩,  -- NET.TBHOLDT, R354
  ⟨0xD08000, 0x20, 1024, 0x0, 1, 0x0, 0x0, 0x0, 0x0, 0xFFF80000, 0x0, 0x0, 0xFFF80000⟩,  -- NET.EGCFG, R358
  ⟨0xD08004, 0x20, 1024, 0x0, 1, 0x0, 0x0, 0x0, 0x0, 0xFFFFF, 0x0, 0x0, 0xFFFFF⟩,  -- NET.EGWIN, R357
  ⟨0xD08008, 0x20, 1024, 0x0, 1, 0x0, 0x0, 0x0, 0x18000000, 0x0, 0x0, 0x0, 0xF8000000⟩,  -- NET.EGSTAT, R359
  ⟨0xD0800C, 0x20, 1024, 0x0, 1, 0x0, 0x0, 0x0, 0x0, 0x0, 0x0, 0x0, 0xFFFFFFFF⟩,  -- NET.EGPKTLO, R357
  ⟨0xD08010, 0x20, 1024, 0x0, 1, 0x0, 0x0, 0x0, 0x0, 0x0, 0x0, 0x0, 0xFFFFFFFF⟩,  -- NET.EGPKTHI, R357
  ⟨0xD08014, 0x20, 1024, 0x0, 1, 0x0, 0x0, 0x0, 0x0, 0x0, 0x0, 0x0, 0xFFFFFFFF⟩,  -- NET.EGDROP, R357
  ⟨0xD08018, 0x20, 1024, 0x0, 1, 0x0, 0x0, 0x0, 0x0, 0x0, 0x0, 0x0, 0xFFFFFFFF⟩]  -- NET.EGLATE, R357

/-- Every register of block NET. -/
def regRowsNET : List RegRow := regRowsNET0 ++ regRowsNET1

/-- The registers of block CLK, in address order of their rules. -/
def regRowsCLK0 : List RegRow := [
  ⟨0xE00010, 0x0, 1, 0x0, 1, 0x0, 0x0, 0x0, 0x0, 0x0, 0xC000001F, 0x0, 0xC000001F⟩,  -- CLK.CNTCLR, R389
  ⟨0xE00100, 0x0, 1, 0x0, 1, 0x100000E0, 0x0, 0x0, 0x0, 0xFFFFFFE0, 0x0, 0x0, 0xFFFFFFE0⟩,  -- CLK.DPLLCFG, R390
  ⟨0xE00104, 0x0, 1, 0x0, 1, 0x1FFA0000, 0x0, 0x0, 0x1F000, 0x0, 0x0, 0x0, 0xFFFFF000⟩,  -- CLK.DPLLSTAT, R391
  ⟨0xE00108, 0x0, 1, 0x0, 1, 0x0, 0x0, 0x0, 0x0, 0x0, 0x0, 0x0, 0xFFFFFFFF⟩,  -- CLK.DPLLFREQ, R392
  ⟨0xE0010C, 0x0, 1, 0x0, 1, 0x0, 0x0, 0x0, 0x0, 0x0, 0x0, 0x0, 0xFFFFFFFF⟩,  -- CLK.HOLDEST, R392
  ⟨0xE00110, 0x0, 1, 0x0, 1, 0x0, 0x0, 0x0, 0x0, 0x0, 0x0, 0x0, 0xFFFFFFFF⟩,  -- CLK.HOLDT, R392
  ⟨0xE00114, 0x0, 1, 0x0, 1, 0x0, 0x0, 0x0, 0x0, 0xFFFFFFFF, 0x0, 0x0, 0xFFFFFFFF⟩,  -- CLK.HOSPEC, R392
  ⟨0xE00300, 0x0, 1, 0x0, 1, 0x0, 0x0, 0x0, 0x0, 0x0, 0x0, 0x0, 0x3FFFFFF⟩,  -- CLK.GATE0, R392
  ⟨0xE00304, 0x0, 1, 0x0, 1, 0x0, 0x0, 0x0, 0x0, 0x0, 0x0, 0x0, 0xFFFFFFFF⟩,  -- CLK.GATE1, R392
  ⟨0xE00310, 0x0, 1, 0x0, 1, 0x20000000, 0x0, 0x7000000, 0x0, 0x0, 0x0, 0x7000000, 0xE7000000⟩,  -- CLK.ROOTSTAT, R393
  ⟨0xE00314, 0x0, 1, 0x0, 1, 0x0, 0x0, 0x0, 0xE000FF00, 0x0, 0x0, 0x0, 0xE000FFFF⟩,  -- CLK.SUPSTAT, R652
  ⟨0xE00318, 0x0, 1, 0x0, 1, 0x0, 0x0, 0x0, 0x0, 0x0, 0x0, 0xFFF00000, 0xFFFF0FFF⟩,  -- CLK.TEMP, R653
  ⟨0xE00320, 0x0, 1, 0x0, 1, 0x2, 0x0, 0x0, 0x0, 0x3FF, 0x0, 0x0, 0x3FF⟩,  -- CLK.SWCFG, R392
  ⟨0xE00324, 0x0, 1, 0x0, 1, 0x0, 0x0, 0x0, 0x3FF0000, 0x0, 0x0, 0x0, 0x3FF03FF⟩,  -- CLK.SWSTAT, R392
  ⟨0xE01000, 0x20, 28, 0x0, 1, 0x0, 0x0, 0x0, 0x0, 0xFF000000, 0x0, 0x0, 0xFF000000⟩,  -- CLK.REFCFG, R394
  ⟨0xE01004, 0x20, 28, 0x0, 1, 0x0, 0x0, 0x0, 0x0, 0x7FFFFFF, 0x0, 0x0, 0x7FFFFFF⟩,  -- CLK.REFNOM, R394
  ⟨0xE01008, 0x20, 28, 0x0, 1, 0x0, 0x0, 0x0, 0x0, 0xFFFFFFFF, 0x0, 0x0, 0xFFFFFFFF⟩,  -- CLK.REFLIM, R394
  ⟨0xE0100C, 0x20, 28, 0x0, 1, 0x0, 0x0, 0x0, 0x0, 0xFFF000FF, 0x0, 0x0, 0xFFF000FF⟩,  -- CLK.REFTIME, R394
  ⟨0xE01010, 0x20, 28, 0x0, 1, 0x0, 0x0, 0x0, 0xF000000, 0x0, 0x0, 0x0, 0xFF000FFF⟩,  -- CLK.REFSTAT, R395
  ⟨0xE01014, 0x20, 28, 0x0, 1, 0x0, 0x0, 0x0, 0x0, 0x0, 0x0, 0x0, 0xFFFFFFFF⟩,  -- CLK.REFFREQ, R394
  ⟨0xE01018, 0x20, 28, 0x0, 1, 0x0, 0x0, 0x0, 0x0, 0x0, 0x0, 0x0, 0xFFFFFFFF⟩,  -- CLK.REFCNT, R394
  ⟨0xE02000, 0x20, 8, 0x0, 1, 0x0, 0x0, 0x0, 0x0, 0xFFFFFC00, 0x0, 0x0, 0xFFFFFC00⟩,  -- CLK.OUTCFG, R396
  ⟨0xE02004, 0x20, 8, 0x0, 1, 0x0, 0x0, 0x0, 0x0, 0xFFFFFFF, 0x0, 0x0, 0xFFFFFFF⟩,  -- CLK.OUTFREQ, R396
  ⟨0xE02008, 0x20, 8, 0x0, 1, 0x0, 0x0, 0x0, 0x0, 0xFFFFFFFF, 0x0, 0x0, 0xFFFFFFFF⟩,  -- CLK.OUTOFS, R396
  ⟨0xE0200C, 0x20, 8, 0x0, 1, 0x0, 0x0, 0x0, 0x0, 0x0, 0xFFFFFFFF, 0x0, 0xFFFFFFFF⟩]  -- CLK.PHSTEP, R396

/-- The registers of block CLK (continued), in address order of their rules. -/
def regRowsCLK1 : List RegRow := [
  ⟨0xE02010, 0x20, 8, 0x0, 1, 0x0, 0x0, 0x0, 0x20000000, 0x0, 0x0, 0x0, 0xE0000000⟩,  -- CLK.PHSTAT, R396
  ⟨0xE02014, 0x20, 8, 0x0, 1, 0x0, 0x0, 0x0, 0x0, 0x0, 0x0, 0x0, 0xFFFFFFFF⟩]  -- CLK.PHPEND, R396

/-- Every register of block CLK. -/
def regRowsCLK : List RegRow := regRowsCLK0 ++ regRowsCLK1

/-- The registers of block DRAM, in address order of their rules. -/
def regRowsDRAM0 : List RegRow := [
  ⟨0xF00010, 0x0, 1, 0x0, 1, 0x0, 0x0, 0x0, 0x0, 0x0, 0xC000000F, 0x0, 0xC000000F⟩,  -- DRAM.CNTCLR, R421
  ⟨0xF00100, 0x0, 1, 0x0, 1, 0x18, 0x0, 0x0, 0x0, 0xF8F000FF, 0x0, 0x0, 0xF8F000FF⟩,  -- DRAM.MAPCFG, R422
  ⟨0xF00104, 0x0, 1, 0x0, 1, 0x80000000, 0x0, 0x0, 0x0, 0x0, 0x0, 0xFF, 0xC000FFFF⟩,  -- DRAM.FREQSTAT, R424
  ⟨0xF00108, 0x0, 1, 0x0, 1, 0x0, 0x0, 0x0, 0x0, 0xFFFFFF00, 0x0, 0x0, 0xFFFFFF00⟩,  -- DRAM.SNAGCFG, R423
  ⟨0xF00200, 0x8, 16, 0x0, 1, 0x0, 0x0, 0x0, 0x0, 0xC00FFFFF, 0x0, 0x0, 0xC00FFFFF⟩,  -- DRAM.REGIONLO, R425
  ⟨0xF00204, 0x8, 16, 0x0, 1, 0x0, 0x0, 0x0, 0x0, 0xFFFFF, 0x0, 0x0, 0xFFFFF⟩,  -- DRAM.REGIONHI, R425
  ⟨0xF00300, 0x0, 1, 0x0, 1, 0x0, 0x0, 0x0, 0xC0000000, 0x0, 0x0, 0x0, 0xFFFCFFFF⟩,  -- DRAM.FAULTREC, R420
  ⟨0xF01000, 0x100, 16, 0x0, 1, 0x0, 0x0, 0x0, 0x0, 0x80000000, 0x0, 0x0, 0x80000000⟩,  -- DRAM.CHCFG, R426
  ⟨0xF01004, 0x100, 16, 0x0, 1, 0x0, 0x0, 0x0, 0x78000000, 0x0, 0x0, 0x0, 0xF8000000⟩,  -- DRAM.CHSTAT, R427
  ⟨0xF01008, 0x100, 16, 0x0, 1, 0x0, 0x0, 0x0, 0x0, 0x0, 0x0, 0x0, 0xFFFFFFFF⟩,  -- DRAM.LINKCNT, R426
  ⟨0xF0100C, 0x100, 16, 0x0, 1, 0x0, 0x0, 0x0, 0x0, 0x0, 0x0, 0x0, 0xFFFFFFFF⟩,  -- DRAM.ECCCNT, R426
  ⟨0xF01010, 0x100, 16, 0x0, 1, 0x0, 0x0, 0x0, 0x0, 0x0, 0x0, 0x0, 0xFFFFFFFF⟩,  -- DRAM.SNAGCNT, R426
  ⟨0xF01014, 0x100, 16, 0x0, 1, 0x0, 0x0, 0x0, 0x0, 0x0, 0x0, 0x0, 0xFF⟩,  -- DRAM.MR4, R426
  ⟨0xF01018, 0x100, 16, 0x0, 1, 0x0, 0x0, 0x0, 0x0, 0x0, 0x0, 0x0, 0xF⟩,  -- DRAM.DRIFTMAX, R426
  ⟨0xF04000, 0x20, 8, 0x0, 1, 0x0, 0x0, 0x0, 0x0, 0xE00003FF, 0x0, 0x0, 0xE00003FF⟩,  -- DRAM.PPCFG, R428
  ⟨0xF04004, 0x20, 8, 0x0, 1, 0x0, 0x0, 0x0, 0x40000000, 0x0, 0x0, 0x0, 0xC0000000⟩,  -- DRAM.PPSTAT, R428
  ⟨0xF04008, 0x20, 8, 0x0, 1, 0x0, 0x0, 0x0, 0x0, 0x0, 0x0, 0x0, 0xFFFFFFFF⟩]  -- DRAM.PPCNT, R428

/-- Every register of block DRAM. -/
def regRowsDRAM : List RegRow := regRowsDRAM0

/-- The registers of block NAND, in address order of their rules. -/
def regRowsNAND0 : List RegRow := [
  ⟨0x1000010, 0x0, 1, 0x0, 1, 0x0, 0x0, 0x0, 0x0, 0x0, 0x80000000, 0x0, 0x80000000⟩,  -- NAND.CNTCLR, R448
  ⟨0x1000100, 0x0, 1, 0x0, 1, 0x0, 0x0, 0x0, 0x0, 0x0, 0x0, 0x0, 0xF8FEFFFF⟩,  -- NAND.STORESTAT, R449
  ⟨0x1000300, 0x0, 1, 0x0, 1, 0x0, 0x0, 0x0, 0xC0000000, 0x0, 0x0, 0x0, 0xFFFFFFFF⟩,  -- NAND.FAULTREC, R450
  ⟨0x1001000, 0x100, 2, 0x0, 1, 0x0, 0x0, 0x0, 0x0, 0x0, 0x0, 0x0, 0xF0000000⟩,  -- NAND.CHSTAT, R451
  ⟨0x1001004, 0x100, 2, 0x0, 1, 0x0, 0x0, 0x0, 0x0, 0x0, 0x0, 0x0, 0xFFFFFFFF⟩,  -- NAND.CORRCNT, R451
  ⟨0x1001008, 0x100, 2, 0x0, 1, 0x0, 0x0, 0x0, 0x0, 0x0, 0x0, 0x0, 0xFFFFFFFF⟩,  -- NAND.RETRYCNT, R451
  ⟨0x100100C, 0x100, 2, 0x0, 1, 0x0, 0x0, 0x0, 0x0, 0x0, 0x0, 0x0, 0xFFFFFFFF⟩,  -- NAND.UNCCNT, R451
  ⟨0x1002000, 0x20, 10, 0x0, 1, 0x0, 0x0, 0x0, 0x30000000, 0x0, 0x0, 0x80FFFFFF, 0xF0FFFFFF⟩,  -- NAND.PARTSTAT, R453
  ⟨0x1002004, 0x20, 10, 0x0, 1, 0x0, 0x0, 0x0, 0x0, 0x0, 0x0, 0xFFFFFFFF, 0xFFFFFFFF⟩,  -- NAND.ERASEMAX, R452
  ⟨0x1002008, 0x20, 10, 0x0, 1, 0x0, 0x0, 0x0, 0x0, 0x0, 0x0, 0xFFFFFFFF, 0xFFFFFFFF⟩,  -- NAND.REFRESHCNT, R452
  ⟨0x100200C, 0x20, 10, 0x0, 1, 0x0, 0x0, 0x0, 0x0, 0x0, 0x0, 0x0, 0xFFFFFFFF⟩,  -- NAND.LOGLOST, R452
  ⟨0x1002010, 0x20, 10, 0x0, 1, 0x0, 0x0, 0x0, 0x0, 0x0, 0x0, 0xFFFFFFFF, 0xFFFFFFFF⟩]  -- NAND.RDMAX, R452

/-- Every register of block NAND. -/
def regRowsNAND : List RegRow := regRowsNAND0

/-- The registers of block STR, in address order of their rules. -/
def regRowsSTR0 : List RegRow := [
  ⟨0x1100010, 0x0, 1, 0x0, 1, 0x0, 0x0, 0x0, 0x0, 0x0, 0xC000003F, 0x0, 0xC000003F⟩,  -- STR.CNTCLR, R479
  ⟨0x1100100, 0x0, 1, 0x0, 1, 0x2110F01F, 0x0, 0x0, 0x0, 0x0, 0x0, 0x0, 0xFFFFF0FF⟩,  -- STR.CAPS, R480
  ⟨0x1101000, 0x40, 64, 0x0, 1, 0xC40000, 0x0, 0x0, 0x0, 0xEFFFFF00, 0x0, 0x0, 0xEFFFFF00⟩,  -- STR.GRPCFG, R482
  ⟨0x1101004, 0x40, 64, 0x0, 1, 0x0, 0x0, 0x0, 0x1F00000, 0x0, 0x0, 0x0, 0xFFF00000⟩,  -- STR.GRPSTAT, R483
  ⟨0x1101008, 0x40, 64, 0x0, 1, 0x0, 0x0, 0x0, 0x0, 0x0, 0x0, 0x0, 0xFFFFFFFF⟩,  -- STR.PARTNER, R481
  ⟨0x110100C, 0x40, 64, 0x0, 1, 0x0, 0x0, 0x0, 0x0, 0x0, 0x0, 0x0, 0xFFFFFFFF⟩,  -- STR.CRCERR, R481
  ⟨0x1101010, 0x40, 64, 0x0, 1, 0x0, 0x0, 0x0, 0x0, 0x0, 0x0, 0x0, 0xFFFFFFFF⟩,  -- STR.SEQGAP, R481
  ⟨0x1101014, 0x40, 64, 0x0, 1, 0x0, 0x0, 0x0, 0x0, 0x0, 0x0, 0x0, 0xFFFFFFFF⟩,  -- STR.DROPFRM, R481
  ⟨0x1101018, 0x40, 64, 0x0, 1, 0x0, 0x0, 0x0, 0x0, 0x0, 0x0, 0x0, 0xFFFFFFFF⟩,  -- STR.ABORTFRM, R481
  ⟨0x110101C, 0x40, 64, 0x0, 1, 0x0, 0x0, 0x0, 0x0, 0x0, 0x0, 0x0, 0xFFFFFFFF⟩,  -- STR.FRMRXLO, R481
  ⟨0x1101020, 0x40, 64, 0x0, 1, 0x0, 0x0, 0x0, 0x0, 0x0, 0x0, 0x0, 0xFFFFFFFF⟩,  -- STR.FRMRXHI, R481
  ⟨0x1101024, 0x40, 64, 0x0, 1, 0x0, 0x0, 0x0, 0x0, 0x0, 0x0, 0x0, 0xFFFFFFFF⟩,  -- STR.RETRAINS, R481
  ⟨0x1103000, 0x20, 64, 0x0, 1, 0x0, 0x0, 0x0, 0x0, 0x0, 0x0, 0x0, 0xF8F000FF⟩,  -- STR.LANESTAT, R485
  ⟨0x1103004, 0x20, 64, 0x0, 1, 0x0, 0x0, 0x0, 0x0, 0x0, 0x0, 0x0, 0xFFFFFFFF⟩,  -- STR.CODEERR, R484
  ⟨0x1103008, 0x20, 64, 0x0, 1, 0x0, 0x0, 0x0, 0x0, 0x0, 0x0, 0x0, 0x3F1F000F⟩,  -- STR.TXTAP, R484
  ⟨0x110300C, 0x20, 64, 0x0, 1, 0x30000000, 0x0, 0x0, 0x0, 0x3F1F000F, 0x0, 0x0, 0x3F1F000F⟩,  -- STR.TXPRESET, R484
  ⟨0x1103010, 0x20, 64, 0x0, 1, 0x0, 0x0, 0x0, 0x0, 0xF, 0x0, 0x0, 0xF⟩]  -- STR.RXCTLE, R484

/-- Every register of block STR. -/
def regRowsSTR : List RegRow := regRowsSTR0

/-- The registers of block SVC, in address order of their rules. -/
def regRowsSVC0 : List RegRow := [
  ⟨0x1200010, 0x0, 1, 0x0, 1, 0x0, 0x0, 0x0, 0x0, 0x0, 0xE00003FF, 0x0, 0xE00003FF⟩,  -- SVC.CNTCLR, R519
  ⟨0x1200100, 0x0, 1, 0x0, 1, 0x0, 0x0, 0x0, 0x0, 0x0, 0x0, 0x0, 0xFFFFFFFF⟩,  -- SVC.HOSTVER, R520
  ⟨0x1200104, 0x0, 1, 0x0, 1, 0x0, 0x0, 0x0, 0x0, 0x0, 0x3FF, 0x0, 0x3FF⟩,  -- SVC.HOSTACK, R520
  ⟨0x1200108, 0x0, 1, 0x0, 1, 0x0, 0x8000000F, 0x0, 0x0, 0x0, 0x0, 0x0, 0x8000000F⟩,  -- SVC.RINGCFG, R520
  ⟨0x120010C, 0x0, 1, 0x0, 1, 0x0, 0x0, 0x0, 0x0, 0x0, 0xFFF, 0x0, 0xFFF⟩,  -- SVC.SQTAIL, R520
  ⟨0x1200110, 0x0, 1, 0x0, 1, 0x0, 0x0, 0x0, 0x0, 0x0, 0xFFF, 0x0, 0xFFF⟩,  -- SVC.CQHEAD, R520
  ⟨0x1200114, 0x0, 1, 0x0, 1, 0x0, 0x0, 0x0, 0x0, 0x0, 0x0, 0x0, 0xFFF⟩,  -- SVC.SQHEAD, R520
  ⟨0x1200118, 0x0, 1, 0x0, 1, 0x0, 0xFFFFFFFF, 0x0, 0x0, 0x0, 0x0, 0x0, 0xFFFFFFFF⟩,  -- SVC.SQBASELO, R520
  ⟨0x120011C, 0x0, 1, 0x0, 1, 0x0, 0xFFFFFFFF, 0x0, 0x0, 0x0, 0x0, 0x0, 0xFFFFFFFF⟩,  -- SVC.SQBASEHI, R520
  ⟨0x1200120, 0x0, 1, 0x0, 1, 0x0, 0xFFFFFFFF, 0x0, 0x0, 0x0, 0x0, 0x0, 0xFFFFFFFF⟩,  -- SVC.CQBASELO, R520
  ⟨0x1200124, 0x0, 1, 0x0, 1, 0x0, 0xFFFFFFFF, 0x0, 0x0, 0x0, 0x0, 0x0, 0xFFFFFFFF⟩,  -- SVC.CQBASEHI, R520
  ⟨0x1200128, 0x0, 1, 0x0, 1, 0x0, 0x0, 0x0, 0x0, 0x0, 0x0, 0x0, 0xFFFFFFFF⟩,  -- SVC.MGMTAUTHF, R520
  ⟨0x1200200, 0x0, 1, 0x0, 1, 0x64, 0x8000FFFF, 0x0, 0x0, 0x0, 0x0, 0x0, 0x8000FFFF⟩,  -- SVC.ICGLOBAL, R520
  ⟨0x1200300, 0x4, 3, 0x0, 1, 0x0, 0xFFFFFFFF, 0x0, 0x0, 0x0, 0x0, 0x0, 0xFFFFFFFF⟩,  -- SVC.EVOUT, R520
  ⟨0x1200310, 0x4, 3, 0x0, 1, 0x0, 0x0, 0x0, 0x0, 0x0, 0x0, 0x0, 0xFFFFFFFF⟩,  -- SVC.EVIN, R520
  ⟨0x1201000, 0x100, 16, 0x0, 1, 0x0, 0x0, 0x0, 0x0, 0x0, 0x0, 0x0, 0x800003FF⟩,  -- SVC.CLAIM, R523
  ⟨0x1201004, 0x100, 16, 0x0, 1, 0x0, 0x0, 0x0, 0x0, 0x0, 0x3FF, 0x0, 0x3FF⟩,  -- SVC.COMPLETE, R523
  ⟨0x1201008, 0x100, 16, 0x0, 1, 0x0, 0xF, 0x0, 0x0, 0x0, 0x0, 0x0, 0xF⟩,  -- SVC.THRESH, R523
  ⟨0x120100C, 0x100, 16, 0x0, 1, 0x0, 0x0, 0x0, 0x0, 0x0, 0x0, 0x0, 0xF00003FF⟩,  -- SVC.STACK, R523
  ⟨0x1201010, 0x100, 16, 0x0, 1, 0x0, 0x0, 0x0, 0x0, 0x0, 0x0, 0x0, 0x800000FF⟩,  -- SVC.TAKE, R523
  ⟨0x1201014, 0x100, 16, 0x0, 1, 0x0, 0x0, 0x0, 0x0, 0x0, 0x80000000, 0x0, 0x80000000⟩,  -- SVC.DONE, R523
  ⟨0x1201018, 0x100, 16, 0x0, 1, 0x0, 0x80000000, 0x0, 0x1C000000, 0x0, 0x0, 0x0, 0xFC0000FF⟩,  -- SVC.CORESTAT, R524
  ⟨0x1204000, 0x10, 1024, 0x0, 1, 0x1, 0x1, 0x0, 0x0, 0xFFFFE000, 0x0, 0x0, 0xFFFFE001⟩,  -- SVC.SRCCFG, R521
  ⟨0x1204004, 0x10, 1024, 0x0, 1, 0x0, 0x0, 0x0, 0x30000000, 0x0, 0x0, 0x0, 0xF800FFFF⟩,  -- SVC.SRCSTAT, R522
  ⟨0x1204008, 0x10, 1024, 0x0, 1, 0x0, 0x0, 0x0, 0x0, 0xFFFFFFFF, 0x0, 0x0, 0xFFFFFFFF⟩]  -- SVC.STORMCFG, R521

/-- The registers of block SVC (continued), in address order of their rules. -/
def regRowsSVC1 : List RegRow := [
  ⟨0x120400C, 0x10, 1024, 0x0, 1, 0x0, 0x0, 0x0, 0x0, 0xFF0FFFFF, 0x0, 0x0, 0xFF0FFFFF⟩,  -- SVC.COALCFG, R521
  ⟨0x1208000, 0x20, 256, 0x0, 1, 0x0, 0x0, 0x0, 0x0, 0xF0FFFFFF, 0x0, 0x0, 0xF0FFFFFF⟩,  -- SVC.WQCFG, R525
  ⟨0x1208004, 0x20, 256, 0x0, 1, 0x0, 0x0, 0x0, 0x80000000, 0x0, 0x0, 0x0, 0x80FFF1FF⟩,  -- SVC.WQSTAT, R525
  ⟨0x1208008, 0x4, 4, 0x20, 256, 0x0, 0x0, 0x0, 0x0, 0x0, 0xFFFFFFFF, 0x0, 0xFFFFFFFF⟩,  -- SVC.ENQ, R525
  ⟨0x1208018, 0x20, 256, 0x0, 1, 0x0, 0x0, 0x0, 0x0, 0xFFFFFFFF, 0x0, 0x0, 0xFFFFFFFF⟩,  -- SVC.WQTIME, R525
  ⟨0x120C000, 0x10, 96, 0x0, 1, 0x0, 0x0, 0x0, 0x0, 0xFC0003FF, 0x0, 0x0, 0xFC0003FF⟩,  -- SVC.EVCFG, R526
  ⟨0x120F000, 0x4, 256, 0x0, 1, 0x0, 0xFFFFFFFF, 0x0, 0x0, 0x0, 0x0, 0x0, 0xFFFFFFFF⟩,  -- SVC.MSIXTAB, R502
  ⟨0x120F800, 0x4, 2, 0x0, 1, 0x0, 0x0, 0x0, 0x0, 0x0, 0x0, 0x0, 0xFFFFFFFF⟩]  -- SVC.MSIXPBA, R502

/-- Every register of block SVC. -/
def regRowsSVC : List RegRow := regRowsSVC0 ++ regRowsSVC1

/-- The registers of block REEL, in address order of their rules. -/
def regRowsREEL0 : List RegRow := [
  ⟨0x1300100, 0x0, 1, 0x0, 1, 0x0, 0x0, 0x0, 0x0, 0x0, 0x0, 0x0, 0xFFFFFFFF⟩,  -- REEL.HEADLO, R527
  ⟨0x1300104, 0x0, 1, 0x0, 1, 0x0, 0x0, 0x0, 0x0, 0x0, 0x0, 0x0, 0xFFFF⟩,  -- REEL.HEADHI, R527
  ⟨0x1300108, 0x0, 1, 0x0, 1, 0x0, 0x0, 0x0, 0x0, 0x0, 0x0, 0x0, 0xFFFFFFFF⟩,  -- REEL.FLUSHLO, R527
  ⟨0x130010C, 0x0, 1, 0x0, 1, 0x0, 0x0, 0x0, 0x0, 0x0, 0x0, 0x0, 0xFFFF⟩,  -- REEL.FLUSHHI, R527
  ⟨0x1300110, 0x0, 1, 0x0, 1, 0x0, 0x0, 0x0, 0x0, 0x0, 0x0, 0x0, 0xFFFFFFFF⟩,  -- REEL.OLDLO, R527
  ⟨0x1300114, 0x0, 1, 0x0, 1, 0x0, 0x0, 0x0, 0x0, 0x0, 0x0, 0x0, 0xFFFF⟩,  -- REEL.OLDHI, R527
  ⟨0x1300118, 0x0, 1, 0x0, 1, 0x0, 0x0, 0x0, 0x0, 0x0, 0x0, 0x0, 0x800007FF⟩,  -- REEL.REELSTAT, R527
  ⟨0x1300120, 0x0, 1, 0x0, 1, 0x0, 0xFFFFFFFF, 0x0, 0x0, 0x0, 0x0, 0x0, 0xFFFFFFFF⟩,  -- REEL.RDSEQLO, R527
  ⟨0x1300124, 0x0, 1, 0x0, 1, 0x0, 0xFFFF, 0x0, 0x0, 0x0, 0x0, 0x0, 0xFFFF⟩,  -- REEL.RDSEQHI, R527
  ⟨0x1300128, 0x0, 1, 0x0, 1, 0x0, 0x0, 0x0, 0x18000000, 0x0, 0x0, 0x0, 0xF8000000⟩,  -- REEL.RDSTAT, R527
  ⟨0x1300130, 0x0, 1, 0x0, 1, 0x0, 0xFFFFFFFF, 0x0, 0x0, 0x0, 0x0, 0x0, 0xFFFFFFFF⟩,  -- REEL.TOKLO, R527
  ⟨0x1300134, 0x0, 1, 0x0, 1, 0x0, 0xFFFFFFFF, 0x0, 0x0, 0x0, 0x0, 0x0, 0xFFFFFFFF⟩,  -- REEL.TOKHI, R527
  ⟨0x1300138, 0x0, 1, 0x0, 1, 0x0, 0x0, 0x0, 0x0, 0x0, 0x800000FF, 0x0, 0x800000FF⟩,  -- REEL.TOKQUERY, R527
  ⟨0x1301000, 0x4, 16, 0x0, 1, 0x0, 0x0, 0x0, 0x0, 0x0, 0x0, 0x0, 0xFFFFFFFF⟩]  -- REEL.ENTRY, R527

/-- Every register of block REEL. -/
def regRowsREEL : List RegRow := regRowsREEL0

/-- The registers of block SAF, in address order of their rules. -/
def regRowsSAF0 : List RegRow := [
  ⟨0x1400010, 0x0, 1, 0x0, 1, 0x0, 0x0, 0x0, 0x0, 0x0, 0x80000000, 0x0, 0x80000000⟩,  -- SAF.CNTCLR, R558
  ⟨0x1400020, 0x0, 1, 0x0, 1, 0x0, 0x0, 0x0, 0x0, 0x0, 0x3, 0x0, 0x3⟩,  -- SAF.PINCTL, R558
  ⟨0x1400024, 0x0, 1, 0x0, 1, 0x40000000, 0x0, 0x0, 0x0, 0x0, 0x0, 0x0, 0xF8000000⟩,  -- SAF.PINSTAT, R558
  ⟨0x1400100, 0x0, 1, 0x0, 1, 0x0, 0x0, 0x0, 0x80000000, 0x0, 0x0, 0x0, 0xFFFFFF07⟩,  -- SAF.FIRSTREC0, R559
  ⟨0x1400104, 0x0, 1, 0x0, 1, 0x0, 0x0, 0x0, 0x0, 0x0, 0x0, 0x0, 0xFFFF0FFF⟩,  -- SAF.FIRSTREC1, R559
  ⟨0x1400108, 0x0, 1, 0x0, 1, 0x0, 0x0, 0x0, 0x0, 0x0, 0x0, 0x0, 0xFFFFFFFF⟩,  -- SAF.FIRSTREC2, R559
  ⟨0x140010C, 0x0, 1, 0x0, 1, 0x0, 0x0, 0x0, 0x0, 0x0, 0x0, 0x0, 0x8F00FFFF⟩,  -- SAF.FIRSTREC3, R559
  ⟨0x1400110, 0x0, 1, 0x0, 1, 0x0, 0x0, 0x0, 0x80000000, 0x0, 0x0, 0x0, 0xFFFFFF07⟩,  -- SAF.SECONDREC0, R559
  ⟨0x1400114, 0x0, 1, 0x0, 1, 0x0, 0x0, 0x0, 0x0, 0x0, 0x0, 0x0, 0xFFFF0FFF⟩,  -- SAF.SECONDREC1, R559
  ⟨0x1400118, 0x0, 1, 0x0, 1, 0x0, 0x0, 0x0, 0x0, 0x0, 0x0, 0x0, 0xFFFFFFFF⟩,  -- SAF.SECONDREC2, R559
  ⟨0x140011C, 0x0, 1, 0x0, 1, 0x0, 0x0, 0x0, 0x0, 0x0, 0x0, 0x0, 0x8F00FFFF⟩,  -- SAF.SECONDREC3, R559
  ⟨0x1400120, 0x0, 1, 0x0, 1, 0x0, 0x0, 0x0, 0x0, 0x0, 0x0, 0x0, 0xFFFFFFFF⟩,  -- SAF.FURTHER, R559
  ⟨0x1400124, 0x0, 1, 0x0, 1, 0x0, 0x0, 0x0, 0x0, 0x0, 0x0, 0x0, 0xFFFFFFFF⟩,  -- SAF.L0CNT, R559
  ⟨0x1400200, 0x4, 32, 0x0, 1, 0x0, 0x0, 0x0, 0x0, 0x0, 0x0, 0x0, 0xFFFCFFFF⟩,  -- SAF.DOMSTAT, R560
  ⟨0x1400300, 0x0, 1, 0x0, 1, 0x0, 0x0, 0x0, 0x0, 0x0, 0x0, 0x0, 0xFF80FFFF⟩,  -- SAF.STQ, R561
  ⟨0x1400304, 0x0, 1, 0x0, 1, 0x0, 0x0, 0x0, 0x40000000, 0x0, 0x0, 0x0, 0xCF00FFFF⟩,  -- SAF.PTSTAT, R561
  ⟨0x1400310, 0x4, 2, 0x0, 1, 0x0, 0x0, 0x0, 0x0, 0xFFFFFFFF, 0x0, 0x0, 0xFFFFFFFF⟩,  -- SAF.SHEDRANK, R561
  ⟨0x1400318, 0x0, 1, 0x0, 1, 0x0, 0x0, 0x0, 0x0, 0x0, 0x0, 0x0, 0xFFFF⟩,  -- SAF.SHEDSTAT, R561
  ⟨0x1400320, 0x0, 1, 0x0, 1, 0x0, 0x0, 0xFFFF, 0x0, 0x0, 0x0, 0xFFFF, 0xFFFF⟩,  -- SAF.RETIRED, R561
  ⟨0x1400400, 0x4, 16, 0x0, 1, 0xFFFF, 0x0, 0x0, 0x0, 0x0, 0x0, 0xF00000, 0xFFFCFFFF⟩,  -- SAF.COLSTAT, R562
  ⟨0x1401000, 0x4, 32, 0x0, 1, 0x0, 0x0, 0x0, 0x0, 0x0, 0x0, 0x0, 0xFFFF007F⟩]  -- SAF.CVUSTAT, R563

/-- Every register of block SAF. -/
def regRowsSAF : List RegRow := regRowsSAF0

/-- The registers of block SEC, in address order of their rules. -/
def regRowsSEC0 : List RegRow := [
  ⟨0x1500100, 0x0, 1, 0x0, 1, 0x100, 0x0, 0x0, 0x0, 0x0, 0x0, 0x0, 0xC0FFFF7F⟩,  -- SEC.LCSTAT, R594
  ⟨0x1500104, 0x0, 1, 0x0, 1, 0xD, 0x0, 0x0, 0x0, 0x0, 0x0, 0x0, 0xFFFFFFFF⟩,  -- SEC.KROLE, R595
  ⟨0x1500108, 0x0, 1, 0x0, 1, 0x0, 0x0, 0x0, 0x0, 0x0, 0x0, 0x0, 0xFFFFFFFF⟩,  -- SEC.DEVSNLO, R595
  ⟨0x150010C, 0x0, 1, 0x0, 1, 0x0, 0x0, 0x0, 0x0, 0x0, 0x0, 0x0, 0xFFFFFFFF⟩,  -- SEC.DEVSNHI, R595
  ⟨0x1500110, 0x0, 1, 0x0, 1, 0x0, 0x0, 0x0, 0x0, 0xE0000000, 0x0, 0x0, 0xE0000000⟩,  -- SEC.POLICY, R596
  ⟨0x1500120, 0x0, 1, 0x0, 1, 0x0, 0x0, 0x0, 0x6000000, 0x0, 0x0, 0x0, 0xFF01FFFF⟩,  -- SEC.DBGSTAT, R597
  ⟨0x1500140, 0x4, 8, 0x0, 1, 0x0, 0x0, 0x0, 0x0, 0x0, 0x0, 0x0, 0xFFFFFFFF⟩,  -- SEC.NONCE, R598
  ⟨0x1500180, 0x0, 1, 0x0, 1, 0x0, 0x0, 0x0, 0x0, 0x0, 0x1, 0x0, 0x1⟩,  -- SEC.DBGCTL, R598
  ⟨0x1500200, 0x4, 12, 0x40, 8, 0x0, 0x0, 0x0, 0x0, 0x0, 0x0, 0x0, 0xFFFFFFFF⟩,  -- SEC.KHASH, R595
  ⟨0x1500400, 0x4, 64, 0x0, 1, 0x0, 0x0, 0x0, 0x0, 0x0, 0xFFFFFFFF, 0x0, 0xFFFFFFFF⟩,  -- SEC.TOKEN, R598
  ⟨0x1500500, 0x4, 256, 0x0, 1, 0x0, 0x0, 0x0, 0x0, 0x0, 0xFFFFFFFF, 0x0, 0xFFFFFFFF⟩,  -- SEC.LCREQ, R598
  ⟨0x1501000, 0x4, 256, 0x0, 1, 0x0, 0x0, 0x0, 0x2000000, 0x0, 0x0, 0x0, 0xFE000000⟩,  -- SEC.KSSTAT, R599
  ⟨0x1501800, 0x4, 256, 0x0, 1, 0x0, 0x0, 0x0, 0x0, 0x0, 0x0, 0x0, 0xFFFFFFFF⟩]  -- SEC.KSGEN, R599

/-- Every register of block SEC. -/
def regRowsSEC : List RegRow := regRowsSEC0

/-- The registers of block PWR, in address order of their rules. -/
def regRowsPWR0 : List RegRow := [
  ⟨0x1600100, 0x0, 1, 0x0, 1, 0x0, 0x0, 0x0, 0x1800000, 0x0, 0x0, 0x0, 0xFF800000⟩,  -- PWR.PWRSTAT, R600
  ⟨0x1600104, 0x0, 1, 0x0, 1, 0x0, 0x0, 0x0, 0x0, 0x8000000F, 0x0, 0x0, 0x8000000F⟩,  -- PWR.P1CFG, R601
  ⟨0x1600108, 0x0, 1, 0x0, 1, 0x0, 0x0, 0xC00000FF, 0x0, 0x0, 0x0, 0xC00000FF, 0xC00000FF⟩,  -- PWR.WAKECFG, R601
  ⟨0x160010C, 0x0, 1, 0x0, 1, 0x0, 0x0, 0xFFFFFFFF, 0x0, 0x0, 0x0, 0xFFFFFFFF, 0xFFFFFFFF⟩]  -- PWR.WAKETIME, R601

/-- Every register of block PWR. -/
def regRowsPWR : List RegRow := regRowsPWR0

/-- The registers of block PLY, in address order of their rules. -/
def regRowsPLY0 : List RegRow := [
  ⟨0x1700100, 0x0, 1, 0x0, 1, 0x8000000, 0x0, 0x0, 0x0, 0xFEFCFFFF, 0x0, 0x0, 0xFEFCFFFF⟩,  -- PLY.PLYCFG, R630
  ⟨0x1700104, 0x0, 1, 0x0, 1, 0x0, 0x0, 0x0, 0x7F0000, 0x0, 0x0, 0x0, 0xFFFFFFFF⟩,  -- PLY.PLYSTAT, R631
  ⟨0x1700108, 0x0, 1, 0x0, 1, 0x0, 0x0, 0x0, 0x0, 0x0, 0x0, 0x0, 0xFF00FFFF⟩,  -- PLY.PARTINFO, R632
  ⟨0x170010C, 0x0, 1, 0x0, 1, 0x0, 0x0, 0x0, 0x0, 0x0, 0x0, 0x0, 0xFFFFFFFF⟩,  -- PLY.LEASEAGE, R632
  ⟨0x1700110, 0x0, 1, 0x0, 1, 0x0, 0x0, 0x0, 0x0, 0x0, 0x0, 0x0, 0xFFFFFFFF⟩,  -- PLY.SKEW, R632
  ⟨0x1700114, 0x0, 1, 0x0, 1, 0x0, 0x0, 0x0, 0x0, 0x0, 0x0, 0x0, 0xFFFFFFFF⟩,  -- PLY.PLYCNT, R632
  ⟨0x1700118, 0x0, 1, 0x0, 1, 0x0, 0x0, 0x0, 0x0, 0x0, 0x0, 0x0, 0xFFFFFFFF⟩,  -- PLY.PARTGENLO, R632
  ⟨0x170011C, 0x0, 1, 0x0, 1, 0x0, 0x0, 0x0, 0x0, 0x0, 0x0, 0x0, 0xFFFFFFFF⟩]  -- PLY.PARTGENHI, R632

/-- Every register of block PLY. -/
def regRowsPLY : List RegRow := regRowsPLY0

/-- The register rows of the block whose window holds a BAR0 address (R655). SPN has a window of 2 MiB. -/
def regRowsAt (a : Nat) : List RegRow :=
  match a / 0x100000 with
  | 0x0 => regRowsGLB
  | 0x1 => regRowsSEQ
  | 0x2 => regRowsING
  | 0x4 => regRowsLANE
  | 0x6 => regRowsRATE
  | 0x8 => regRowsSPN
  | 0xA => regRowsDEC
  | 0xB => regRowsCMP
  | 0xC => regRowsAUD
  | 0xD => regRowsNET
  | 0xE => regRowsCLK
  | 0xF => regRowsDRAM
  | 0x10 => regRowsNAND
  | 0x11 => regRowsSTR
  | 0x12 => regRowsSVC
  | 0x13 => regRowsREEL
  | 0x14 => regRowsSAF
  | 0x15 => regRowsSEC
  | 0x16 => regRowsPWR
  | 0x17 => regRowsPLY
  | _ => []

/-- Whether an address is one of the array's (R667): instance i of an array lies at its address plus i strides. -/
def rowHolds (r : RegRow) (a : Nat) : Bool :=
  if a < r.addr then false
  else
    let d := a - r.addr
    let (j, e) := if r.ocount ≤ 1 then (0, d) else (d / r.ostride, d % r.ostride)
    if r.ocount ≤ j then false
    else if r.stride = 0 then e == 0
    else e % r.stride == 0 && decide (e / r.stride < r.count)

/-- The register array an address belongs to, if a register occupies it. -/
def regRowAt (a : Nat) : Option RegRow := (regRowsAt a).find? (fun r => rowHolds r a)

/-- The value of the word at an address after power-on reset (R13, R14): the Reset column; 0 where no register stands. -/
def regReset (a : Nat) : BitVec 32 :=
  match regRowAt a with
  | some r => BitVec.ofNat 32 r.reset
  | none => 0

namespace R

/-- GLB.IDCODE.PART [31:16], RO (R662). -/
abbrev GLB_IDCODE_PART : Fld := ⟨0x0, 0x0, 31, 16⟩
/-- GLB.IDCODE.FAMILY [15:8], RO (R662). -/
abbrev GLB_IDCODE_FAMILY : Fld := ⟨0x0, 0x0, 15, 8⟩
/-- GLB.IDCODE.STEP [7:0], RO (R662). -/
abbrev GLB_IDCODE_STEP : Fld := ⟨0x0, 0x0, 7, 0⟩
/-- GLB.FEATURES [31:0], RO (R663). -/
abbrev GLB_FEATURES : Fld := ⟨0x4, 0x0, 31, 0⟩
/-- GLB.IFVER [31:0], RO (R664). -/
abbrev GLB_IFVER : Fld := ⟨0x8, 0x0, 31, 0⟩
/-- GLB.IFMIN [31:0], RO (R664). -/
abbrev GLB_IFMIN : Fld := ⟨0xC, 0x0, 31, 0⟩
/-- GLB.REGMAP [31:0], RO (R665). -/
abbrev GLB_REGMAP : Fld := ⟨0x14, 0x0, 31, 0⟩
/-- GLB.BOOTSTAT.STAGE [31:28], RO (R91). -/
abbrev GLB_BOOTSTAT_STAGE : Fld := ⟨0x200, 0x0, 31, 28⟩
/-- GLB.BOOTSTAT.SLOT [27:24], RO (R91). -/
abbrev GLB_BOOTSTAT_SLOT : Fld := ⟨0x200, 0x0, 27, 24⟩
/-- GLB.BOOTSTAT.SLOTFAIL [23:18], RO (R91). -/
abbrev GLB_BOOTSTAT_SLOTFAIL : Fld := ⟨0x200, 0x0, 23, 18⟩
/-- GLB.BOOTSTAT.REASON [15:8], RO (R91). -/
abbrev GLB_BOOTSTAT_REASON : Fld := ⟨0x200, 0x0, 15, 8⟩
/-- GLB.BOOTSTAT.RSTCAUSE [7:4], RO (R91). -/
abbrev GLB_BOOTSTAT_RSTCAUSE : Fld := ⟨0x200, 0x0, 7, 4⟩
/-- GLB.BOOTSTAT.LATE [3:3], W1C (R91). -/
abbrev GLB_BOOTSTAT_LATE : Fld := ⟨0x200, 0x0, 3, 3⟩
/-- GLB.BOOTSTAT.INAIR [1:1], RO (R91). -/
abbrev GLB_BOOTSTAT_INAIR : Fld := ⟨0x200, 0x0, 1, 1⟩
/-- GLB.BOOTSTAT.NOIMAGE [0:0], RO (R91). -/
abbrev GLB_BOOTSTAT_NOIMAGE : Fld := ⟨0x200, 0x0, 0, 0⟩
/-- GLB.BOOTTIME [31:0], RO (R92). -/
abbrev GLB_BOOTTIME : Fld := ⟨0x204, 0x0, 31, 0⟩
/-- GLB.SKEINGENLO [31:0], SK (R93). -/
abbrev GLB_SKEINGENLO : Fld := ⟨0x208, 0x0, 31, 0⟩
/-- GLB.SKEINGENHI [31:0], SK (R93). -/
abbrev GLB_SKEINGENHI : Fld := ⟨0x20C, 0x0, 31, 0⟩
/-- GLB.SKEININFO.FMTMAJOR [31:24], SK (R93). -/
abbrev GLB_SKEININFO_FMTMAJOR : Fld := ⟨0x210, 0x0, 31, 24⟩
/-- GLB.SKEININFO.FMTMINOR [23:16], SK (R93). -/
abbrev GLB_SKEININFO_FMTMINOR : Fld := ⟨0x210, 0x0, 23, 16⟩
/-- GLB.SKEININFO.DETCLASS [15:0], SK (R93). -/
abbrev GLB_SKEININFO_DETCLASS : Fld := ⟨0x210, 0x0, 15, 0⟩
/-- GLB.VARIANT.MISSED [9:9], W1C (R94). -/
abbrev GLB_VARIANT_MISSED : Fld := ⟨0x220, 0x4, 9, 9⟩
/-- GLB.VARIANT.PENDVALID [8:8], RO (R94). -/
abbrev GLB_VARIANT_PENDVALID : Fld := ⟨0x220, 0x4, 8, 8⟩
/-- GLB.VARIANT.PENDING [7:4], RO (R94). -/
abbrev GLB_VARIANT_PENDING : Fld := ⟨0x220, 0x4, 7, 4⟩
/-- GLB.VARIANT.CURRENT [3:0], RO (R94). -/
abbrev GLB_VARIANT_CURRENT : Fld := ⟨0x220, 0x4, 3, 0⟩
/-- GLB.RESETCTL.KEY [31:16], WO (R95). -/
abbrev GLB_RESETCTL_KEY : Fld := ⟨0x230, 0x0, 31, 16⟩
/-- GLB.RESETCTL.WARM [0:0], WO (R95). -/
abbrev GLB_RESETCTL_WARM : Fld := ⟨0x230, 0x0, 0, 0⟩
/-- GLB.ABORTADDR.ADDR [25:0], RO (R660). -/
abbrev GLB_ABORTADDR_ADDR : Fld := ⟨0x300, 0x0, 25, 0⟩
/-- GLB.ABORTINFO.VALID [31:31], W1C (R660). -/
abbrev GLB_ABORTINFO_VALID : Fld := ⟨0x304, 0x0, 31, 31⟩
/-- GLB.ABORTINFO.MORE [30:30], W1C (R660). -/
abbrev GLB_ABORTINFO_MORE : Fld := ⟨0x304, 0x0, 30, 30⟩
/-- GLB.ABORTINFO.CAUSE [29:28], RO (R660). -/
abbrev GLB_ABORTINFO_CAUSE : Fld := ⟨0x304, 0x0, 29, 28⟩
/-- GLB.ABORTINFO.WRITE [27:27], RO (R660). -/
abbrev GLB_ABORTINFO_WRITE : Fld := ⟨0x304, 0x0, 27, 27⟩
/-- GLB.ABORTINFO.REQ [26:24], RO (R660). -/
abbrev GLB_ABORTINFO_REQ : Fld := ⟨0x304, 0x0, 26, 24⟩
/-- GLB.ABORTINFO.CORE [23:20], RO (R660). -/
abbrev GLB_ABORTINFO_CORE : Fld := ⟨0x304, 0x0, 23, 20⟩
/-- GLB.ABORTINFO.COUNT [15:0], RO (R660). -/
abbrev GLB_ABORTINFO_COUNT : Fld := ⟨0x304, 0x0, 15, 0⟩
/-- GLB.SHEET [31:0], RO (R83). -/
abbrev GLB_SHEET : Fld := ⟨0x8000, 0x4, 31, 0⟩
/-- SEQ.RINGOWN.POS [31:0], SK (R52). -/
abbrev SEQ_RINGOWN_POS : Fld := ⟨0x100200, 0x4, 31, 0⟩
/-- SEQ.SFSTAT.VALID [31:31], W1C (R57). -/
abbrev SEQ_SFSTAT_VALID : Fld := ⟨0x100300, 0x0, 31, 31⟩
/-- SEQ.SFSTAT.MORE [30:30], W1C (R57). -/
abbrev SEQ_SFSTAT_MORE : Fld := ⟨0x100300, 0x0, 30, 30⟩
/-- SEQ.SFSTAT.CLASS [26:24], RO (R57). -/
abbrev SEQ_SFSTAT_CLASS : Fld := ⟨0x100300, 0x0, 26, 24⟩
/-- SEQ.SFSTAT.CAUSE [23:20], RO (R57). -/
abbrev SEQ_SFSTAT_CAUSE : Fld := ⟨0x100300, 0x0, 23, 20⟩
/-- SEQ.SFSTAT.PLANE [19:18], RO (R57). -/
abbrev SEQ_SFSTAT_PLANE : Fld := ⟨0x100300, 0x0, 19, 18⟩
/-- SEQ.SFSTAT.STREAM [17:12], RO (R57). -/
abbrev SEQ_SFSTAT_STREAM : Fld := ⟨0x100300, 0x0, 17, 12⟩
/-- SEQ.SFSLOT [19:0], RO (R58). -/
abbrev SEQ_SFSLOT : Fld := ⟨0x100304, 0x0, 19, 0⟩
/-- SEQ.SFTURNLO [31:0], RO (R58). -/
abbrev SEQ_SFTURNLO : Fld := ⟨0x100308, 0x0, 31, 0⟩
/-- SEQ.SFTURNHI [7:0], RO (R58). -/
abbrev SEQ_SFTURNHI : Fld := ⟨0x10030C, 0x0, 7, 0⟩
/-- SEQ.TRCCFG.EN [31:31], SK (R60). -/
abbrev SEQ_TRCCFG_EN : Fld := ⟨0x100400, 0x0, 31, 31⟩
/-- SEQ.TRCCFG.KINDS [5:0], SK (R60). -/
abbrev SEQ_TRCCFG_KINDS : Fld := ⟨0x100400, 0x0, 5, 0⟩
/-- SEQ.TRCSTAT.WRAPS [31:16], RO (R60). -/
abbrev SEQ_TRCSTAT_WRAPS : Fld := ⟨0x100404, 0x0, 31, 16⟩
/-- SEQ.TRCSTAT.NEXT [12:0], RO (R60). -/
abbrev SEQ_TRCSTAT_NEXT : Fld := ⟨0x100404, 0x0, 12, 0⟩
/-- SEQ.PLANECFG.EN [31:31], SK (R53). -/
abbrev SEQ_PLANECFG_EN : Fld := ⟨0x101000, 0x100, 31, 31⟩
/-- SEQ.PLANECFG.RATE [27:24], SK (R53). -/
abbrev SEQ_PLANECFG_RATE : Fld := ⟨0x101000, 0x100, 27, 24⟩
/-- SEQ.PLANECFG.TBSEL [23:20], SK (R53). -/
abbrev SEQ_PLANECFG_TBSEL : Fld := ⟨0x101000, 0x100, 23, 20⟩
/-- SEQ.PLANECFG.BODYREV [11:0], SK (R53). -/
abbrev SEQ_PLANECFG_BODYREV : Fld := ⟨0x101000, 0x100, 11, 0⟩
/-- SEQ.TAILCTL.MAXCYC [31:16], SK (R54). -/
abbrev SEQ_TAILCTL_MAXCYC : Fld := ⟨0x101004, 0x100, 31, 16⟩
/-- SEQ.TAILCTL.MINCYC [15:0], SK (R54). -/
abbrev SEQ_TAILCTL_MINCYC : Fld := ⟨0x101004, 0x100, 15, 0⟩
/-- SEQ.PLANESTAT.LOCKED [31:31], RO (R55). -/
abbrev SEQ_PLANESTAT_LOCKED : Fld := ⟨0x10100C, 0x100, 31, 31⟩
/-- SEQ.PLANESTAT.CLAMP [30:30], RO (R55). -/
abbrev SEQ_PLANESTAT_CLAMP : Fld := ⟨0x10100C, 0x100, 30, 30⟩
/-- SEQ.PLANESTAT.TFAULT [29:29], W1C (R55). -/
abbrev SEQ_PLANESTAT_TFAULT : Fld := ⟨0x10100C, 0x100, 29, 29⟩
/-- SEQ.PLANESTAT.ERRCYC [15:0], RO (R55). -/
abbrev SEQ_PLANESTAT_ERRCYC : Fld := ⟨0x10100C, 0x100, 15, 0⟩
/-- SEQ.TAILLAST.LAST [15:0], RO (R56). -/
abbrev SEQ_TAILLAST_LAST : Fld := ⟨0x101010, 0x100, 15, 0⟩
/-- SEQ.TURNCNTLO [31:0], RO (R56). -/
abbrev SEQ_TURNCNTLO : Fld := ⟨0x101018, 0x100, 31, 0⟩
/-- SEQ.TURNCNTHI [7:0], RO (R56). -/
abbrev SEQ_TURNCNTHI : Fld := ⟨0x10101C, 0x100, 7, 0⟩
/-- ING.CNTCLR.GO [31:31], WO (R118). -/
abbrev ING_CNTCLR_GO : Fld := ⟨0x200010, 0x0, 31, 31⟩
/-- ING.CNTCLR.FLOW [9:0], WO (R118). -/
abbrev ING_CNTCLR_FLOW : Fld := ⟨0x200010, 0x0, 9, 0⟩
/-- ING.PASCN.SCMIN [31:24], SK (R118). -/
abbrev ING_PASCN_SCMIN : Fld := ⟨0x200100, 0x4, 31, 24⟩
/-- ING.PASCN.SCFLOOR [23:16], SK (R118). -/
abbrev ING_PASCN_SCFLOOR : Fld := ⟨0x200100, 0x4, 23, 16⟩
/-- ING.PASCN.RATIO [15:0], SK (R118). -/
abbrev ING_PASCN_RATIO : Fld := ⟨0x200100, 0x4, 15, 0⟩
/-- ING.FLOWCFG.EN [31:31], SK (R120). -/
abbrev ING_FLOWCFG_EN : Fld := ⟨0x204000, 0x20, 31, 31⟩
/-- ING.FLOWCFG.SRC [30:28], SK (R120). -/
abbrev ING_FLOWCFG_SRC : Fld := ⟨0x204000, 0x20, 30, 28⟩
/-- ING.FLOWCFG.ALIGN [27:27], SK (R120). -/
abbrev ING_FLOWCFG_ALIGN : Fld := ⟨0x204000, 0x20, 27, 27⟩
/-- ING.FLOWCFG.DUAL [26:26], SK (R120). -/
abbrev ING_FLOWCFG_DUAL : Fld := ⟨0x204000, 0x20, 26, 26⟩
/-- ING.FLOWCFG.SUBST [25:25], SK (R120). -/
abbrev ING_FLOWCFG_SUBST : Fld := ⟨0x204000, 0x20, 25, 25⟩
/-- ING.FLOWCFG.FOFF [24:23], SK (R120). -/
abbrev ING_FLOWCFG_FOFF : Fld := ⟨0x204000, 0x20, 24, 23⟩
/-- ING.FLOWCFG.CHROMA [22:22], SK (R120). -/
abbrev ING_FLOWCFG_CHROMA : Fld := ⟨0x204000, 0x20, 22, 22⟩
/-- ING.FLOWCFG.RASTER [21:20], SK (R120). -/
abbrev ING_FLOWCFG_RASTER : Fld := ⟨0x204000, 0x20, 21, 20⟩
/-- ING.FLOWCFG.PLANE [19:18], SK (R120). -/
abbrev ING_FLOWCFG_PLANE : Fld := ⟨0x204000, 0x20, 19, 18⟩
/-- ING.FLOWCFG.GROUP [15:8], SK (R120). -/
abbrev ING_FLOWCFG_GROUP : Fld := ⟨0x204000, 0x20, 15, 8⟩
/-- ING.FLOWCFG.FREEZEMAX [7:0], SK (R120). -/
abbrev ING_FLOWCFG_FREEZEMAX : Fld := ⟨0x204000, 0x20, 7, 0⟩
/-- ING.FLOWTIME.SKEWLN [31:16], SK (R119). -/
abbrev ING_FLOWTIME_SKEWLN : Fld := ⟨0x204004, 0x20, 31, 16⟩
/-- ING.FLOWTIME.TOL [15:0], SK (R119). -/
abbrev ING_FLOWTIME_TOL : Fld := ⟨0x204004, 0x20, 15, 0⟩
/-- ING.ARROFF [31:0], SK (R119). -/
abbrev ING_ARROFF : Fld := ⟨0x204008, 0x20, 31, 0⟩
/-- ING.FLOWSTAT.JOINED [31:31], RO (R121). -/
abbrev ING_FLOWSTAT_JOINED : Fld := ⟨0x20400C, 0x20, 31, 31⟩
/-- ING.FLOWSTAT.LEGAUP [30:30], RO (R121). -/
abbrev ING_FLOWSTAT_LEGAUP : Fld := ⟨0x20400C, 0x20, 30, 30⟩
/-- ING.FLOWSTAT.LEGBUP [29:29], RO (R121). -/
abbrev ING_FLOWSTAT_LEGBUP : Fld := ⟨0x20400C, 0x20, 29, 29⟩
/-- ING.FLOWSTAT.LEGFLT [28:28], W1C (R121). -/
abbrev ING_FLOWSTAT_LEGFLT : Fld := ⟨0x20400C, 0x20, 28, 28⟩
/-- ING.FLOWSTAT.OVFL [27:27], W1C (R121). -/
abbrev ING_FLOWSTAT_OVFL : Fld := ⟨0x20400C, 0x20, 27, 27⟩
/-- ING.FLOWSTAT.MARKFLT [26:26], W1C (R121). -/
abbrev ING_FLOWSTAT_MARKFLT : Fld := ⟨0x20400C, 0x20, 26, 26⟩
/-- ING.FLOWSTAT.ANCDROP [25:25], W1C (R121). -/
abbrev ING_FLOWSTAT_ANCDROP : Fld := ⟨0x20400C, 0x20, 25, 25⟩
/-- ING.FLOWSTAT.REPEATRUN [15:0], RO (R121). -/
abbrev ING_FLOWSTAT_REPEATRUN : Fld := ⟨0x20400C, 0x20, 15, 0⟩
/-- ING.SUBLINES [31:0], RO (R119). -/
abbrev ING_SUBLINES : Fld := ⟨0x204010, 0x20, 31, 0⟩
/-- ING.SUBPICS.PICS [31:16], RO (R119). -/
abbrev ING_SUBPICS_PICS : Fld := ⟨0x204014, 0x20, 31, 16⟩
/-- ING.SUBPICS.MISM [15:0], RO (R119). -/
abbrev ING_SUBPICS_MISM : Fld := ⟨0x204014, 0x20, 15, 0⟩
/-- ING.MERGECNT.BOTHLOST [31:16], RO (R122). -/
abbrev ING_MERGECNT_BOTHLOST : Fld := ⟨0x204018, 0x20, 31, 16⟩
/-- ING.MERGECNT.WINLATE [15:8], RO (R122). -/
abbrev ING_MERGECNT_WINLATE : Fld := ⟨0x204018, 0x20, 15, 8⟩
/-- ING.MERGECNT.DUPS [7:0], RO (R122). -/
abbrev ING_MERGECNT_DUPS : Fld := ⟨0x204018, 0x20, 7, 0⟩
/-- ING.LASTSTAMP [31:0], RO (R119). -/
abbrev ING_LASTSTAMP : Fld := ⟨0x20401C, 0x20, 31, 0⟩
/-- ING.GROUPSTAT.EN [31:31], SK (R123). -/
abbrev ING_GROUPSTAT_EN : Fld := ⟨0x20C000, 0x4, 31, 31⟩
/-- ING.GROUPSTAT.PLANE [27:26], SK (R123). -/
abbrev ING_GROUPSTAT_PLANE : Fld := ⟨0x20C000, 0x4, 27, 26⟩
/-- ING.GROUPSTAT.MEMBERS [25:16], SK (R123). -/
abbrev ING_GROUPSTAT_MEMBERS : Fld := ⟨0x20C000, 0x4, 25, 16⟩
/-- ING.GROUPSTAT.UNDER [9:0], RO (R123). -/
abbrev ING_GROUPSTAT_UNDER : Fld := ⟨0x20C000, 0x4, 9, 0⟩
/-- LANE.LANECFG.EN [31:31], SK (R163). -/
abbrev LANE_LANECFG_EN : Fld := ⟨0x400000, 0x10000, 31, 31⟩
/-- LANE.LANECFG.SHAREMODE [30:29], SK (R163). -/
abbrev LANE_LANECFG_SHAREMODE : Fld := ⟨0x400000, 0x10000, 30, 29⟩
/-- LANE.LANECFG.SHAREIDX [28:26], SK (R163). -/
abbrev LANE_LANECFG_SHAREIDX : Fld := ⟨0x400000, 0x10000, 28, 26⟩
/-- LANE.LANECFG.SHARES [25:23], SK (R163). -/
abbrev LANE_LANECFG_SHARES : Fld := ⟨0x400000, 0x10000, 25, 23⟩
/-- LANE.LANECFG.DEPTH [22:18], SK (R163). -/
abbrev LANE_LANECFG_DEPTH : Fld := ⟨0x400000, 0x10000, 22, 18⟩
/-- LANE.LANECFG.PLANE [17:16], SK (R163). -/
abbrev LANE_LANECFG_PLANE : Fld := ⟨0x400000, 0x10000, 17, 16⟩
/-- LANE.LANECFG.SPROF [10:8], SK (R163). -/
abbrev LANE_LANECFG_SPROF : Fld := ⟨0x400000, 0x10000, 10, 8⟩
/-- LANE.LANECFG.CHANS [4:0], SK (R163). -/
abbrev LANE_LANECFG_CHANS : Fld := ⟨0x400000, 0x10000, 4, 0⟩
/-- LANE.LANESTAT.RUNNING [31:31], RO (R164). -/
abbrev LANE_LANESTAT_RUNNING : Fld := ⟨0x400004, 0x10000, 31, 31⟩
/-- LANE.LANESTAT.GUARDROW [30:30], RO (R164). -/
abbrev LANE_LANESTAT_GUARDROW : Fld := ⟨0x400004, 0x10000, 30, 30⟩
/-- LANE.LANESTAT.DIVFLT [29:29], W1C (R164). -/
abbrev LANE_LANESTAT_DIVFLT : Fld := ⟨0x400004, 0x10000, 29, 29⟩
/-- LANE.LANESTAT.DUPFLT [28:28], W1C (R164). -/
abbrev LANE_LANESTAT_DUPFLT : Fld := ⟨0x400004, 0x10000, 28, 28⟩
/-- LANE.LANESTAT.INMARK [27:27], W1C (R164). -/
abbrev LANE_LANESTAT_INMARK : Fld := ⟨0x400004, 0x10000, 27, 27⟩
/-- LANE.LANESTAT.REFMARK [26:26], W1C (R164). -/
abbrev LANE_LANESTAT_REFMARK : Fld := ⟨0x400004, 0x10000, 26, 26⟩
/-- LANE.LANESTAT.ECCFLT [25:25], W1C (R164). -/
abbrev LANE_LANESTAT_ECCFLT : Fld := ⟨0x400004, 0x10000, 25, 25⟩
/-- LANE.LANESTAT.REFRESH [24:24], W1C (R164). -/
abbrev LANE_LANESTAT_REFRESH : Fld := ⟨0x400004, 0x10000, 24, 24⟩
/-- LANE.FAULTREC.VALID [31:31], W1C (R165). -/
abbrev LANE_FAULTREC_VALID : Fld := ⟨0x400008, 0x10000, 31, 31⟩
/-- LANE.FAULTREC.MORE [30:30], W1C (R165). -/
abbrev LANE_FAULTREC_MORE : Fld := ⟨0x400008, 0x10000, 30, 30⟩
/-- LANE.FAULTREC.CAUSE [29:27], RO (R165). -/
abbrev LANE_FAULTREC_CAUSE : Fld := ⟨0x400008, 0x10000, 29, 27⟩
/-- LANE.FAULTREC.CHAN [26:23], RO (R165). -/
abbrev LANE_FAULTREC_CHAN : Fld := ⟨0x400008, 0x10000, 26, 23⟩
/-- LANE.FAULTREC.ROW [22:15], RO (R165). -/
abbrev LANE_FAULTREC_ROW : Fld := ⟨0x400008, 0x10000, 22, 15⟩
/-- LANE.FAULTREC.CTUX [14:8], RO (R165). -/
abbrev LANE_FAULTREC_CTUX : Fld := ⟨0x400008, 0x10000, 14, 8⟩
/-- LANE.FAULTREC.TURNLSB [7:0], RO (R165). -/
abbrev LANE_FAULTREC_TURNLSB : Fld := ⟨0x400008, 0x10000, 7, 0⟩
/-- LANE.CNTCLR.GO [31:31], WO (R167). -/
abbrev LANE_CNTCLR_GO : Fld := ⟨0x40000C, 0x10000, 31, 31⟩
/-- LANE.CNTCLR.CHAN [3:0], WO (R167). -/
abbrev LANE_CNTCLR_CHAN : Fld := ⟨0x40000C, 0x10000, 3, 0⟩
/-- LANE.CHCFG.EN [31:31], SK (R169). -/
abbrev LANE_CHCFG_EN : Fld := ⟨0x400100, 0x20, 31, 31⟩
/-- LANE.CHCFG.CHID [30:24], SK (R169). -/
abbrev LANE_CHCFG_CHID : Fld := ⟨0x400100, 0x20, 30, 24⟩
/-- LANE.CHCFG.CODEC [23:22], SK (R169). -/
abbrev LANE_CHCFG_CODEC : Fld := ⟨0x400100, 0x20, 23, 22⟩
/-- LANE.CHCFG.PROFILE [21:20], SK (R169). -/
abbrev LANE_CHCFG_PROFILE : Fld := ⟨0x400100, 0x20, 21, 20⟩
/-- LANE.CHCFG.CHROMA [19:19], SK (R169). -/
abbrev LANE_CHCFG_CHROMA : Fld := ⟨0x400100, 0x20, 19, 19⟩
/-- LANE.CHCFG.IN422 [18:18], SK (R169). -/
abbrev LANE_CHCFG_IN422 : Fld := ⟨0x400100, 0x20, 18, 18⟩
/-- LANE.CHCFG.EIGHTBIT [17:17], SK (R169). -/
abbrev LANE_CHCFG_EIGHTBIT : Fld := ⟨0x400100, 0x20, 17, 17⟩
/-- LANE.CHCFG.GOP [16:15], SK (R169). -/
abbrev LANE_CHCFG_GOP : Fld := ⟨0x400100, 0x20, 16, 15⟩
/-- LANE.CHCFG.RASTER [14:13], SK (R169). -/
abbrev LANE_CHCFG_RASTER : Fld := ⟨0x400100, 0x20, 14, 13⟩
/-- LANE.CHCFG.TIER [12:12], SK (R169). -/
abbrev LANE_CHCFG_TIER : Fld := ⟨0x400100, 0x20, 12, 12⟩
/-- LANE.CHCFG.LEVELIDC [11:4], SK (R169). -/
abbrev LANE_CHCFG_LEVELIDC : Fld := ⟨0x400100, 0x20, 11, 4⟩
/-- LANE.CHGOP.REFRESH [31:24], SK (R170). -/
abbrev LANE_CHGOP_REFRESH : Fld := ⟨0x400104, 0x20, 31, 24⟩
/-- LANE.CHGOP.IRAPINT [23:12], SK (R170). -/
abbrev LANE_CHGOP_IRAPINT : Fld := ⟨0x400104, 0x20, 23, 12⟩
/-- LANE.CHGOP.HASH [11:11], SK (R170). -/
abbrev LANE_CHGOP_HASH : Fld := ⟨0x400104, 0x20, 11, 11⟩
/-- LANE.CHGOP.LADDER [7:0], SK (R170). -/
abbrev LANE_CHGOP_LADDER : Fld := ⟨0x400104, 0x20, 7, 0⟩
/-- LANE.CHBIN.BINCAP [16:0], SK (R168). -/
abbrev LANE_CHBIN_BINCAP : Fld := ⟨0x400108, 0x20, 16, 0⟩
/-- LANE.GUARDCTU [31:0], RO (R168). -/
abbrev LANE_GUARDCTU : Fld := ⟨0x40010C, 0x20, 31, 0⟩
/-- LANE.GUARDROWS [31:0], RO (R168). -/
abbrev LANE_GUARDROWS : Fld := ⟨0x400110, 0x20, 31, 0⟩
/-- LANE.BINPEAK [16:0], RO (R168). -/
abbrev LANE_BINPEAK : Fld := ⟨0x400114, 0x20, 16, 0⟩
/-- LANE.FAULTCNT.DIV [31:16], RO (R168). -/
abbrev LANE_FAULTCNT_DIV : Fld := ⟨0x400118, 0x20, 31, 16⟩
/-- LANE.FAULTCNT.REFR [15:0], RO (R168). -/
abbrev LANE_FAULTCNT_REFR : Fld := ⟨0x400118, 0x20, 15, 0⟩
/-- RATE.CNTCLR.GO [31:31], WO (R194). -/
abbrev RATE_CNTCLR_GO : Fld := ⟨0x600010, 0x0, 31, 31⟩
/-- RATE.CNTCLR.CHAN [6:0], WO (R194). -/
abbrev RATE_CNTCLR_CHAN : Fld := ⟨0x600010, 0x0, 6, 0⟩
/-- RATE.RCCFG.EN [31:31], SK (R196). -/
abbrev RATE_RCCFG_EN : Fld := ⟨0x601000, 0x40, 31, 31⟩
/-- RATE.RCCFG.MODE [30:29], SK (R196). -/
abbrev RATE_RCCFG_MODE : Fld := ⟨0x601000, 0x40, 30, 29⟩
/-- RATE.RCCFG.SMGROUP [28:24], SK (R196). -/
abbrev RATE_RCCFG_SMGROUP : Fld := ⟨0x601000, 0x40, 28, 24⟩
/-- RATE.RCCFG.QPMAX [23:18], SK (R196). -/
abbrev RATE_RCCFG_QPMAX : Fld := ⟨0x601000, 0x40, 23, 18⟩
/-- RATE.RCCFG.QPMIN [17:12], SK (R196). -/
abbrev RATE_RCCFG_QPMIN : Fld := ⟨0x601000, 0x40, 17, 12⟩
/-- RATE.RCCFG.ROWSTEP [11:9], SK (R196). -/
abbrev RATE_RCCFG_ROWSTEP : Fld := ⟨0x601000, 0x40, 11, 9⟩
/-- RATE.RCCFG.AQMAX [8:6], SK (R196). -/
abbrev RATE_RCCFG_AQMAX : Fld := ⟨0x601000, 0x40, 8, 6⟩
/-- RATE.RCCFG.WI [5:0], SK (R196). -/
abbrev RATE_RCCFG_WI : Fld := ⟨0x601000, 0x40, 5, 0⟩
/-- RATE.MINKB [31:0], SK (R195). -/
abbrev RATE_MINKB : Fld := ⟨0x601004, 0x40, 31, 0⟩
/-- RATE.MAXKB [31:0], SK (R195). -/
abbrev RATE_MAXKB : Fld := ⟨0x601008, 0x40, 31, 0⟩
/-- RATE.NOMKB [31:0], SK (R195). -/
abbrev RATE_NOMKB : Fld := ⟨0x60100C, 0x40, 31, 0⟩
/-- RATE.CURKB [31:0], RO (R195). -/
abbrev RATE_CURKB : Fld := ⟨0x601010, 0x40, 31, 0⟩
/-- RATE.HARDBITS [31:0], RO (R195). -/
abbrev RATE_HARDBITS : Fld := ⟨0x601014, 0x40, 31, 0⟩
/-- RATE.OCC [31:0], RO (R195). -/
abbrev RATE_OCC : Fld := ⟨0x601018, 0x40, 31, 0⟩
/-- RATE.OCCPEAK [31:0], RO (R195). -/
abbrev RATE_OCCPEAK : Fld := ⟨0x60101C, 0x40, 31, 0⟩
/-- RATE.CARRY [31:0], RO (R195). -/
abbrev RATE_CARRY : Fld := ⟨0x601020, 0x40, 31, 0⟩
/-- RATE.RCSTAT.FLOOR [31:31], RO (R197). -/
abbrev RATE_RCSTAT_FLOOR : Fld := ⟨0x601024, 0x40, 31, 31⟩
/-- RATE.RCSTAT.FLOORSEEN [30:30], W1C (R197). -/
abbrev RATE_RCSTAT_FLOORSEEN : Fld := ⟨0x601024, 0x40, 30, 30⟩
/-- RATE.RCSTAT.CAPHIT [29:29], W1C (R197). -/
abbrev RATE_RCSTAT_CAPHIT : Fld := ⟨0x601024, 0x40, 29, 29⟩
/-- RATE.RCSTAT.HRDFLT [28:28], W1C (R197). -/
abbrev RATE_RCSTAT_HRDFLT : Fld := ⟨0x601024, 0x40, 28, 28⟩
/-- RATE.RCSTAT.TRIMPEND [27:27], RO (R197). -/
abbrev RATE_RCSTAT_TRIMPEND : Fld := ⟨0x601024, 0x40, 27, 27⟩
/-- RATE.RCSTAT.QPROW [21:16], RO (R197). -/
abbrev RATE_RCSTAT_QPROW : Fld := ⟨0x601024, 0x40, 21, 16⟩
/-- RATE.FLOORCNT.PICS [31:16], RO (R195). -/
abbrev RATE_FLOORCNT_PICS : Fld := ⟨0x601028, 0x40, 31, 16⟩
/-- RATE.FLOORCNT.ROWS [15:0], RO (R195). -/
abbrev RATE_FLOORCNT_ROWS : Fld := ⟨0x601028, 0x40, 15, 0⟩
/-- RATE.CAPCTU [31:0], RO (R195). -/
abbrev RATE_CAPCTU : Fld := ⟨0x60102C, 0x40, 31, 0⟩
/-- RATE.RCWEIGHT.SMWEIGHT [7:0], SK (R195). -/
abbrev RATE_RCWEIGHT_SMWEIGHT : Fld := ⟨0x601030, 0x40, 7, 0⟩
/-- RATE.SMCFG.EN [31:31], SK (R198). -/
abbrev RATE_SMCFG_EN : Fld := ⟨0x604000, 0x10, 31, 31⟩
/-- RATE.SMCFG.PLANE [29:28], SK (R198). -/
abbrev RATE_SMCFG_PLANE : Fld := ⟨0x604000, 0x10, 29, 28⟩
/-- RATE.SMCFG.MEMBERS [6:0], SK (R198). -/
abbrev RATE_SMCFG_MEMBERS : Fld := ⟨0x604000, 0x10, 6, 0⟩
/-- RATE.SMKB [31:0], SK (R198). -/
abbrev RATE_SMKB : Fld := ⟨0x604004, 0x10, 31, 0⟩
/-- RATE.SMCURKB [31:0], RO (R198). -/
abbrev RATE_SMCURKB : Fld := ⟨0x604008, 0x10, 31, 0⟩
/-- RATE.SMQBAR [5:0], RO (R198). -/
abbrev RATE_SMQBAR : Fld := ⟨0x60400C, 0x10, 5, 0⟩
/-- SPN.SPNCFG.EN [31:31], SK (R239). -/
abbrev SPN_SPNCFG_EN : Fld := ⟨0x800000, 0x1000, 31, 31⟩
/-- SPN.SPNCFG.SPARE [30:30], SK (R239). -/
abbrev SPN_SPNCFG_SPARE : Fld := ⟨0x800000, 0x1000, 30, 30⟩
/-- SPN.SPNSTAT.BUSY [31:31], RO (R240). -/
abbrev SPN_SPNSTAT_BUSY : Fld := ⟨0x800004, 0x1000, 31, 31⟩
/-- SPN.SPNSTAT.ABORTING [30:30], RO (R240). -/
abbrev SPN_SPNSTAT_ABORTING : Fld := ⟨0x800004, 0x1000, 30, 30⟩
/-- SPN.SPNSTAT.BANK [29:29], RO (R240). -/
abbrev SPN_SPNSTAT_BANK : Fld := ⟨0x800004, 0x1000, 29, 29⟩
/-- SPN.SPNSTAT.SHADOWRDY [28:28], RO (R240). -/
abbrev SPN_SPNSTAT_SHADOWRDY : Fld := ⟨0x800004, 0x1000, 28, 28⟩
/-- SPN.SPNSTAT.PLANE [27:26], RO (R240). -/
abbrev SPN_SPNSTAT_PLANE : Fld := ⟨0x800004, 0x1000, 27, 26⟩
/-- SPN.SPNSTAT.PCOL [25:22], RO (R240). -/
abbrev SPN_SPNSTAT_PCOL : Fld := ⟨0x800004, 0x1000, 25, 22⟩
/-- SPN.SPNSTAT.PVALID [21:21], RO (R240). -/
abbrev SPN_SPNSTAT_PVALID : Fld := ⟨0x800004, 0x1000, 21, 21⟩
/-- SPN.SPNSTAT.KERNEL [19:10], RO (R240). -/
abbrev SPN_SPNSTAT_KERNEL : Fld := ⟨0x800004, 0x1000, 19, 10⟩
/-- SPN.SPNSTAT.SUBST [9:9], RO (R240). -/
abbrev SPN_SPNSTAT_SUBST : Fld := ⟨0x800004, 0x1000, 9, 9⟩
/-- SPN.SPNSTAT.LATE [8:8], W1C (R240). -/
abbrev SPN_SPNSTAT_LATE : Fld := ⟨0x800004, 0x1000, 8, 8⟩
/-- SPN.SPNSTAT.FLT [7:7], W1C (R240). -/
abbrev SPN_SPNSTAT_FLT : Fld := ⟨0x800004, 0x1000, 7, 7⟩
/-- SPN.FAULTREC.VALID [31:31], W1C (R241). -/
abbrev SPN_FAULTREC_VALID : Fld := ⟨0x800008, 0x1000, 31, 31⟩
/-- SPN.FAULTREC.MORE [30:30], W1C (R241). -/
abbrev SPN_FAULTREC_MORE : Fld := ⟨0x800008, 0x1000, 30, 30⟩
/-- SPN.FAULTREC.CAUSE [29:26], RO (R241). -/
abbrev SPN_FAULTREC_CAUSE : Fld := ⟨0x800008, 0x1000, 29, 26⟩
/-- SPN.FAULTREC.KERNEL [25:16], RO (R241). -/
abbrev SPN_FAULTREC_KERNEL : Fld := ⟨0x800008, 0x1000, 25, 16⟩
/-- SPN.FAULTREC.PC [11:0], RO (R241). -/
abbrev SPN_FAULTREC_PC : Fld := ⟨0x800008, 0x1000, 11, 0⟩
/-- SPN.FAULTTURN [31:0], RO (R239). -/
abbrev SPN_FAULTTURN : Fld := ⟨0x80000C, 0x1000, 31, 0⟩
/-- SPN.ECCCNT.PAD [31:16], RO (R239). -/
abbrev SPN_ECCCNT_PAD : Fld := ⟨0x800010, 0x1000, 31, 16⟩
/-- SPN.ECCCNT.IST [15:0], RO (R239). -/
abbrev SPN_ECCCNT_IST : Fld := ⟨0x800010, 0x1000, 15, 0⟩
/-- SPN.SUBCNT.SUBS [31:16], RO (R239). -/
abbrev SPN_SUBCNT_SUBS : Fld := ⟨0x800014, 0x1000, 31, 16⟩
/-- SPN.SUBCNT.ABORTS [15:0], RO (R239). -/
abbrev SPN_SUBCNT_ABORTS : Fld := ⟨0x800014, 0x1000, 15, 0⟩
/-- SPN.SLACKMIN [19:0], RO (R239). -/
abbrev SPN_SLACKMIN : Fld := ⟨0x800018, 0x1000, 19, 0⟩
/-- SPN.ACPAIR.HI [31:16], RO (R239). -/
abbrev SPN_ACPAIR_HI : Fld := ⟨0x800020, 0x4, 31, 16⟩
/-- SPN.ACPAIR.LO [15:0], RO (R239). -/
abbrev SPN_ACPAIR_LO : Fld := ⟨0x800020, 0x4, 15, 0⟩
/-- SPN.PCNOW.RUN [31:31], RO (R239). -/
abbrev SPN_PCNOW_RUN : Fld := ⟨0x800040, 0x1000, 31, 31⟩
/-- SPN.PCNOW.PC [11:0], RO (R239). -/
abbrev SPN_PCNOW_PC : Fld := ⟨0x800040, 0x1000, 11, 0⟩
/-- SPN.SREG [31:0], RO (R239). -/
abbrev SPN_SREG : Fld := ⟨0x800400, 0x4, 31, 0⟩
/-- SPN.VREG [31:0], RO (R239). -/
abbrev SPN_VREG : Fld := ⟨0x800800, 0x4, 31, 0⟩
/-- SPN.LIBINFO.KERNELS [26:16], SK (R237). -/
abbrev SPN_LIBINFO_KERNELS : Fld := ⟨0x8C0000, 0x0, 26, 16⟩
/-- SPN.LIBINFO.BUNDLES [12:0], SK (R237). -/
abbrev SPN_LIBINFO_BUNDLES : Fld := ⟨0x8C0000, 0x0, 12, 0⟩
/-- SPN.LIBCRC [31:0], SK (R237). -/
abbrev SPN_LIBCRC : Fld := ⟨0x8C0004, 0x0, 31, 0⟩
/-- SPN.COLMAP.VALID3 [31:31], RO (R236). -/
abbrev SPN_COLMAP_VALID3 : Fld := ⟨0x8C0010, 0x4, 31, 31⟩
/-- SPN.COLMAP.PHYS3 [27:24], RO (R236). -/
abbrev SPN_COLMAP_PHYS3 : Fld := ⟨0x8C0010, 0x4, 27, 24⟩
/-- SPN.COLMAP.VALID2 [23:23], RO (R236). -/
abbrev SPN_COLMAP_VALID2 : Fld := ⟨0x8C0010, 0x4, 23, 23⟩
/-- SPN.COLMAP.PHYS2 [19:16], RO (R236). -/
abbrev SPN_COLMAP_PHYS2 : Fld := ⟨0x8C0010, 0x4, 19, 16⟩
/-- SPN.COLMAP.VALID1 [15:15], RO (R236). -/
abbrev SPN_COLMAP_VALID1 : Fld := ⟨0x8C0010, 0x4, 15, 15⟩
/-- SPN.COLMAP.PHYS1 [11:8], RO (R236). -/
abbrev SPN_COLMAP_PHYS1 : Fld := ⟨0x8C0010, 0x4, 11, 8⟩
/-- SPN.COLMAP.VALID0 [7:7], RO (R236). -/
abbrev SPN_COLMAP_VALID0 : Fld := ⟨0x8C0010, 0x4, 7, 7⟩
/-- SPN.COLMAP.PHYS0 [3:0], RO (R236). -/
abbrev SPN_COLMAP_PHYS0 : Fld := ⟨0x8C0010, 0x4, 3, 0⟩
/-- SPN.CNTCLR.GO [31:31], WO (R238). -/
abbrev SPN_CNTCLR_GO : Fld := ⟨0x8C0020, 0x0, 31, 31⟩
/-- SPN.CNTCLR.ALL [30:30], WO (R238). -/
abbrev SPN_CNTCLR_ALL : Fld := ⟨0x8C0020, 0x0, 30, 30⟩
/-- SPN.CNTCLR.ENGINE [7:0], WO (R238). -/
abbrev SPN_CNTCLR_ENGINE : Fld := ⟨0x8C0020, 0x0, 7, 0⟩
/-- DEC.CNTCLR.GO [31:31], WO (R257). -/
abbrev DEC_CNTCLR_GO : Fld := ⟨0xA00010, 0x0, 31, 31⟩
/-- DEC.CNTCLR.STREAM [3:0], WO (R257). -/
abbrev DEC_CNTCLR_STREAM : Fld := ⟨0xA00010, 0x0, 3, 0⟩
/-- DEC.DLSTAT.EN [31:31], SK (R258). -/
abbrev DEC_DLSTAT_EN : Fld := ⟨0xA00100, 0x4, 31, 31⟩
/-- DEC.DLSTAT.ECCFLT [30:30], W1C (R258). -/
abbrev DEC_DLSTAT_ECCFLT : Fld := ⟨0xA00100, 0x4, 30, 30⟩
/-- DEC.DLSTAT.BOUNDFLT [29:29], W1C (R258). -/
abbrev DEC_DLSTAT_BOUNDFLT : Fld := ⟨0xA00100, 0x4, 29, 29⟩
/-- DEC.DLSTAT.STREAMS [20:16], SK (R258). -/
abbrev DEC_DLSTAT_STREAMS : Fld := ⟨0xA00100, 0x4, 20, 16⟩
/-- DEC.DSCFG.EN [31:31], SK (R260). -/
abbrev DEC_DSCFG_EN : Fld := ⟨0xA01000, 0x20, 31, 31⟩
/-- DEC.DSCFG.LANE [30:29], SK (R260). -/
abbrev DEC_DSCFG_LANE : Fld := ⟨0xA01000, 0x20, 30, 29⟩
/-- DEC.DSCFG.CODEC [28:28], SK (R260). -/
abbrev DEC_DSCFG_CODEC : Fld := ⟨0xA01000, 0x20, 28, 28⟩
/-- DEC.DSCFG.SRC [27:26], SK (R260). -/
abbrev DEC_DSCFG_SRC : Fld := ⟨0xA01000, 0x20, 27, 26⟩
/-- DEC.DSCFG.PLANE [25:24], SK (R260). -/
abbrev DEC_DSCFG_PLANE : Fld := ⟨0xA01000, 0x20, 25, 24⟩
/-- DEC.DSCFG.CHROMA [23:23], SK (R260). -/
abbrev DEC_DSCFG_CHROMA : Fld := ⟨0xA01000, 0x20, 23, 23⟩
/-- DEC.DSCFG.RASTER [22:21], SK (R260). -/
abbrev DEC_DSCFG_RASTER : Fld := ⟨0xA01000, 0x20, 22, 21⟩
/-- DEC.DSCFG.SUBST [20:20], SK (R260). -/
abbrev DEC_DSCFG_SUBST : Fld := ⟨0xA01000, 0x20, 20, 20⟩
/-- DEC.DSCFG.FLOW [17:8], SK (R260). -/
abbrev DEC_DSCFG_FLOW : Fld := ⟨0xA01000, 0x20, 17, 8⟩
/-- DEC.DSCFG.FREEZEMAX [7:0], SK (R260). -/
abbrev DEC_DSCFG_FREEZEMAX : Fld := ⟨0xA01000, 0x20, 7, 0⟩
/-- DEC.DSTIME.DDEL [31:30], SK (R259). -/
abbrev DEC_DSTIME_DDEL : Fld := ⟨0xA01004, 0x20, 31, 30⟩
/-- DEC.DSTIME.MAXREORD [29:27], SK (R259). -/
abbrev DEC_DSTIME_MAXREORD : Fld := ⟨0xA01004, 0x20, 29, 27⟩
/-- DEC.DSTIME.TOL [15:0], SK (R259). -/
abbrev DEC_DSTIME_TOL : Fld := ⟨0xA01004, 0x20, 15, 0⟩
/-- DEC.DSPARSE.PARSEBINS [31:0], SK (R259). -/
abbrev DEC_DSPARSE_PARSEBINS : Fld := ⟨0xA01008, 0x20, 31, 0⟩
/-- DEC.DSSTAT.JOINED [31:31], RO (R261). -/
abbrev DEC_DSSTAT_JOINED : Fld := ⟨0xA0100C, 0x20, 31, 31⟩
/-- DEC.DSSTAT.CONCEALING [30:30], RO (R261). -/
abbrev DEC_DSSTAT_CONCEALING : Fld := ⟨0xA0100C, 0x20, 30, 30⟩
/-- DEC.DSSTAT.PAUSED [29:29], RO (R261). -/
abbrev DEC_DSSTAT_PAUSED : Fld := ⟨0xA0100C, 0x20, 29, 29⟩
/-- DEC.DSSTAT.HASHFLT [28:28], W1C (R261). -/
abbrev DEC_DSSTAT_HASHFLT : Fld := ⟨0xA0100C, 0x20, 28, 28⟩
/-- DEC.DSSTAT.PARSEOVR [27:27], W1C (R261). -/
abbrev DEC_DSSTAT_PARSEOVR : Fld := ⟨0xA0100C, 0x20, 27, 27⟩
/-- DEC.DSSTAT.LOSS [26:26], W1C (R261). -/
abbrev DEC_DSSTAT_LOSS : Fld := ⟨0xA0100C, 0x20, 26, 26⟩
/-- DEC.DSSTAT.REPEATRUN [15:0], RO (R261). -/
abbrev DEC_DSSTAT_REPEATRUN : Fld := ⟨0xA0100C, 0x20, 15, 0⟩
/-- DEC.CONCPICS.PICS [31:16], RO (R259). -/
abbrev DEC_CONCPICS_PICS : Fld := ⟨0xA01010, 0x20, 31, 16⟩
/-- DEC.CONCPICS.SUBST [15:0], RO (R259). -/
abbrev DEC_CONCPICS_SUBST : Fld := ⟨0xA01010, 0x20, 15, 0⟩
/-- DEC.CONCCTU [31:0], RO (R259). -/
abbrev DEC_CONCCTU : Fld := ⟨0xA01014, 0x20, 31, 0⟩
/-- DEC.ERRCASE.CODE [31:28], RO (R259). -/
abbrev DEC_ERRCASE_CODE : Fld := ⟨0xA01018, 0x20, 31, 28⟩
/-- DEC.ERRCASE.COUNT [15:0], RO (R259). -/
abbrev DEC_ERRCASE_COUNT : Fld := ⟨0xA01018, 0x20, 15, 0⟩
/-- DEC.LASTSTAMP [31:0], RO (R259). -/
abbrev DEC_LASTSTAMP : Fld := ⟨0xA0101C, 0x20, 31, 0⟩
/-- CMP.OUTCFG.EN [31:31], SK (R279). -/
abbrev CMP_OUTCFG_EN : Fld := ⟨0xB01000, 0x400, 31, 31⟩
/-- CMP.OUTCFG.PLANE [30:29], SK (R279). -/
abbrev CMP_OUTCFG_PLANE : Fld := ⟨0xB01000, 0x400, 30, 29⟩
/-- CMP.OUTCFG.RASTER [28:27], SK (R279). -/
abbrev CMP_OUTCFG_RASTER : Fld := ⟨0xB01000, 0x400, 28, 27⟩
/-- CMP.OUTCFG.RANGE [26:26], SK (R279). -/
abbrev CMP_OUTCFG_RANGE : Fld := ⟨0xB01000, 0x400, 26, 26⟩
/-- CMP.OUTCFG.EGRESS [25:25], SK (R279). -/
abbrev CMP_OUTCFG_EGRESS : Fld := ⟨0xB01000, 0x400, 25, 25⟩
/-- CMP.OUTCFG.COLR [24:23], SK (R279). -/
abbrev CMP_OUTCFG_COLR : Fld := ⟨0xB01000, 0x400, 24, 23⟩
/-- CMP.OUTCFG.FLOW [9:0], SK (R279). -/
abbrev CMP_OUTCFG_FLOW : Fld := ⟨0xB01000, 0x400, 9, 0⟩
/-- CMP.OUTSTAT.RUNNING [31:31], RO (R278). -/
abbrev CMP_OUTSTAT_RUNNING : Fld := ⟨0xB01004, 0x400, 31, 31⟩
/-- CMP.OUTSTAT.MARKFLT [30:30], W1C (R278). -/
abbrev CMP_OUTSTAT_MARKFLT : Fld := ⟨0xB01004, 0x400, 30, 30⟩
/-- CMP.OUTSTAT.MARKLINES [15:0], RO (R278). -/
abbrev CMP_OUTSTAT_MARKLINES : Fld := ⟨0xB01004, 0x400, 15, 0⟩
/-- CMP.BGCOLOUR.Y [29:20], SK (R278). -/
abbrev CMP_BGCOLOUR_Y : Fld := ⟨0xB01008, 0x400, 29, 20⟩
/-- CMP.BGCOLOUR.CB [19:10], SK (R278). -/
abbrev CMP_BGCOLOUR_CB : Fld := ⟨0xB01008, 0x400, 19, 10⟩
/-- CMP.BGCOLOUR.CR [9:0], SK (R278). -/
abbrev CMP_BGCOLOUR_CR : Fld := ⟨0xB01008, 0x400, 9, 0⟩
/-- CMP.ERRFILL.Y [29:20], SK (R278). -/
abbrev CMP_ERRFILL_Y : Fld := ⟨0xB0100C, 0x400, 29, 20⟩
/-- CMP.ERRFILL.CB [19:10], SK (R278). -/
abbrev CMP_ERRFILL_CB : Fld := ⟨0xB0100C, 0x400, 19, 10⟩
/-- CMP.ERRFILL.CR [9:0], SK (R278). -/
abbrev CMP_ERRFILL_CR : Fld := ⟨0xB0100C, 0x400, 9, 0⟩
/-- CMP.OUTDELAY [23:0], SK (R278). -/
abbrev CMP_OUTDELAY : Fld := ⟨0xB01010, 0x400, 23, 0⟩
/-- CMP.LAYCFG.EN [31:31], SK (R281). -/
abbrev CMP_LAYCFG_EN : Fld := ⟨0xB01100, 0x20, 31, 31⟩
/-- CMP.LAYCFG.SRCTYPE [30:29], SK (R281). -/
abbrev CMP_LAYCFG_SRCTYPE : Fld := ⟨0xB01100, 0x20, 30, 29⟩
/-- CMP.LAYCFG.SRC [28:19], SK (R281). -/
abbrev CMP_LAYCFG_SRC : Fld := ⟨0xB01100, 0x20, 28, 19⟩
/-- CMP.LAYCFG.SCALER [18:14], SK (R281). -/
abbrev CMP_LAYCFG_SCALER : Fld := ⟨0xB01100, 0x20, 18, 14⟩
/-- CMP.LAYCFG.CONV [13:11], SK (R281). -/
abbrev CMP_LAYCFG_CONV : Fld := ⟨0xB01100, 0x20, 13, 11⟩
/-- CMP.LAYCFG.ALPHA [10:2], SK (R281). -/
abbrev CMP_LAYCFG_ALPHA : Fld := ⟨0xB01100, 0x20, 10, 2⟩
/-- CMP.CROPXY.X [28:16], SK (R280). -/
abbrev CMP_CROPXY_X : Fld := ⟨0xB01104, 0x20, 28, 16⟩
/-- CMP.CROPXY.Y [12:0], SK (R280). -/
abbrev CMP_CROPXY_Y : Fld := ⟨0xB01104, 0x20, 12, 0⟩
/-- CMP.CROPWH.W [28:16], SK (R280). -/
abbrev CMP_CROPWH_W : Fld := ⟨0xB01108, 0x20, 28, 16⟩
/-- CMP.CROPWH.H [12:0], SK (R280). -/
abbrev CMP_CROPWH_H : Fld := ⟨0xB01108, 0x20, 12, 0⟩
/-- CMP.DSTXY.X [28:16], SK (R280). -/
abbrev CMP_DSTXY_X : Fld := ⟨0xB0110C, 0x20, 28, 16⟩
/-- CMP.DSTXY.Y [12:0], SK (R280). -/
abbrev CMP_DSTXY_Y : Fld := ⟨0xB0110C, 0x20, 12, 0⟩
/-- CMP.DSTWH.W [28:16], SK (R280). -/
abbrev CMP_DSTWH_W : Fld := ⟨0xB01110, 0x20, 28, 16⟩
/-- CMP.DSTWH.H [12:0], SK (R280). -/
abbrev CMP_DSTWH_H : Fld := ⟨0xB01110, 0x20, 12, 0⟩
/-- CMP.LAYSTAT.SHOWN [31:31], RO (R280). -/
abbrev CMP_LAYSTAT_SHOWN : Fld := ⟨0xB01114, 0x20, 31, 31⟩
/-- CMP.LAYSTAT.FILLED [15:0], RO (R280). -/
abbrev CMP_LAYSTAT_FILLED : Fld := ⟨0xB01114, 0x20, 15, 0⟩
/-- CMP.GFXCFG.EN [31:31], SK (R282). -/
abbrev CMP_GFXCFG_EN : Fld := ⟨0xB01300, 0x20, 31, 31⟩
/-- CMP.GFXCFG.FMT [30:30], SK (R282). -/
abbrev CMP_GFXCFG_FMT : Fld := ⟨0xB01300, 0x20, 30, 30⟩
/-- CMP.GFXCFG.VISSRC [29:26], SK (R282). -/
abbrev CMP_GFXCFG_VISSRC : Fld := ⟨0xB01300, 0x20, 29, 26⟩
/-- CMP.GFXCFG.VISARG [25:16], SK (R282). -/
abbrev CMP_GFXCFG_VISARG : Fld := ⟨0xB01300, 0x20, 25, 16⟩
/-- CMP.GFXXY.X [28:16], SK (R282). -/
abbrev CMP_GFXXY_X : Fld := ⟨0xB01304, 0x20, 28, 16⟩
/-- CMP.GFXXY.Y [12:0], SK (R282). -/
abbrev CMP_GFXXY_Y : Fld := ⟨0xB01304, 0x20, 12, 0⟩
/-- CMP.GFXWH.W [28:16], SK (R282). -/
abbrev CMP_GFXWH_W : Fld := ⟨0xB01308, 0x20, 28, 16⟩
/-- CMP.GFXWH.H [12:0], SK (R282). -/
abbrev CMP_GFXWH_H : Fld := ⟨0xB01308, 0x20, 12, 0⟩
/-- CMP.SURFACE [5:0], SK (R282). -/
abbrev CMP_SURFACE : Fld := ⟨0xB0130C, 0x20, 5, 0⟩
/-- CMP.GFXSTAT.VISIBLE [31:31], RO (R282). -/
abbrev CMP_GFXSTAT_VISIBLE : Fld := ⟨0xB01310, 0x20, 31, 31⟩
/-- CMP.SCLCFG.EN [31:31], SK (R283). -/
abbrev CMP_SCLCFG_EN : Fld := ⟨0xB08000, 0x20, 31, 31⟩
/-- CMP.SCLCFG.USE [30:30], SK (R283). -/
abbrev CMP_SCLCFG_USE : Fld := ⟨0xB08000, 0x20, 30, 30⟩
/-- CMP.SCLCFG.PLANE [29:28], SK (R283). -/
abbrev CMP_SCLCFG_PLANE : Fld := ⟨0xB08000, 0x20, 29, 28⟩
/-- CMP.SCLCFG.OUT422 [27:27], SK (R283). -/
abbrev CMP_SCLCFG_OUT422 : Fld := ⟨0xB08000, 0x20, 27, 27⟩
/-- CMP.SCLCFG.RND [25:20], SK (R283). -/
abbrev CMP_SCLCFG_RND : Fld := ⟨0xB08000, 0x20, 25, 20⟩
/-- CMP.SCLCFG.COEF [19:14], SK (R283). -/
abbrev CMP_SCLCFG_COEF : Fld := ⟨0xB08000, 0x20, 19, 14⟩
/-- CMP.SCLSTAT.BUSY [31:31], RO (R283). -/
abbrev CMP_SCLSTAT_BUSY : Fld := ⟨0xB08004, 0x20, 31, 31⟩
/-- CMP.SCLSTAT.BANK [30:30], RO (R283). -/
abbrev CMP_SCLSTAT_BANK : Fld := ⟨0xB08004, 0x20, 30, 30⟩
/-- CMP.SCLSTAT.SHADOWRDY [29:29], RO (R283). -/
abbrev CMP_SCLSTAT_SHADOWRDY : Fld := ⟨0xB08004, 0x20, 29, 29⟩
/-- CMP.SCLSTAT.MARKFLT [28:28], W1C (R283). -/
abbrev CMP_SCLSTAT_MARKFLT : Fld := ⟨0xB08004, 0x20, 28, 28⟩
/-- CMP.JOBCNT [31:0], RO (R283). -/
abbrev CMP_JOBCNT : Fld := ⟨0xB08008, 0x20, 31, 0⟩
/-- AUD.CNTCLR.GO [31:31], WO (R307). -/
abbrev AUD_CNTCLR_GO : Fld := ⟨0xC00010, 0x0, 31, 31⟩
/-- AUD.CNTCLR.ALL [30:30], WO (R307). -/
abbrev AUD_CNTCLR_ALL : Fld := ⟨0xC00010, 0x0, 30, 30⟩
/-- AUD.CNTCLR.PORT [5:0], WO (R307). -/
abbrev AUD_CNTCLR_PORT : Fld := ⟨0xC00010, 0x0, 5, 0⟩
/-- AUD.PORTCFG.EN [31:31], SK (R309). -/
abbrev AUD_PORTCFG_EN : Fld := ⟨0xC01000, 0x40, 31, 31⟩
/-- AUD.PORTCFG.DIR [30:30], SK (R309). -/
abbrev AUD_PORTCFG_DIR : Fld := ⟨0xC01000, 0x40, 30, 30⟩
/-- AUD.PORTCFG.MASTER [29:29], SK (R309). -/
abbrev AUD_PORTCFG_MASTER : Fld := ⟨0xC01000, 0x40, 29, 29⟩
/-- AUD.PORTCFG.AMSEL [28:28], SK (R309). -/
abbrev AUD_PORTCFG_AMSEL : Fld := ⟨0xC01000, 0x40, 28, 28⟩
/-- AUD.PORTCFG.PLANE [27:26], SK (R309). -/
abbrev AUD_PORTCFG_PLANE : Fld := ⟨0xC01000, 0x40, 27, 26⟩
/-- AUD.PORTCFG.GROUP [23:16], SK (R309). -/
abbrev AUD_PORTCFG_GROUP : Fld := ⟨0xC01000, 0x40, 23, 16⟩
/-- AUD.PORTCFG.BCLKDIV [15:8], SK (R309). -/
abbrev AUD_PORTCFG_BCLKDIV : Fld := ⟨0xC01000, 0x40, 15, 8⟩
/-- AUD.PORTCFG.SUBST [7:7], SK (R309). -/
abbrev AUD_PORTCFG_SUBST : Fld := ⟨0xC01000, 0x40, 7, 7⟩
/-- AUD.PORTCFG.TRISTATE [6:6], SK (R309). -/
abbrev AUD_PORTCFG_TRISTATE : Fld := ⟨0xC01000, 0x40, 6, 6⟩
/-- AUD.PORTFMT.MODE [31:30], SK (R310). -/
abbrev AUD_PORTFMT_MODE : Fld := ⟨0xC01004, 0x40, 31, 30⟩
/-- AUD.PORTFMT.FS [29:28], SK (R310). -/
abbrev AUD_PORTFMT_FS : Fld := ⟨0xC01004, 0x40, 29, 28⟩
/-- AUD.PORTFMT.SLOTS [27:23], SK (R310). -/
abbrev AUD_PORTFMT_SLOTS : Fld := ⟨0xC01004, 0x40, 27, 23⟩
/-- AUD.PORTFMT.SLOTW [22:21], SK (R310). -/
abbrev AUD_PORTFMT_SLOTW : Fld := ⟨0xC01004, 0x40, 22, 21⟩
/-- AUD.PORTFMT.SAMPW [20:19], SK (R310). -/
abbrev AUD_PORTFMT_SAMPW : Fld := ⟨0xC01004, 0x40, 20, 19⟩
/-- AUD.PORTFMT.DELAY [18:18], SK (R310). -/
abbrev AUD_PORTFMT_DELAY : Fld := ⟨0xC01004, 0x40, 18, 18⟩
/-- AUD.PORTFMT.BCLKINV [17:17], SK (R310). -/
abbrev AUD_PORTFMT_BCLKINV : Fld := ⟨0xC01004, 0x40, 17, 17⟩
/-- AUD.PORTFMT.FSINV [16:16], SK (R310). -/
abbrev AUD_PORTFMT_FSINV : Fld := ⟨0xC01004, 0x40, 16, 16⟩
/-- AUD.PORTFMT.PACK [15:14], SK (R310). -/
abbrev AUD_PORTFMT_PACK : Fld := ⟨0xC01004, 0x40, 15, 14⟩
/-- AUD.PORTFMT.DATAPAIR [7:0], SK (R310). -/
abbrev AUD_PORTFMT_DATAPAIR : Fld := ⟨0xC01004, 0x40, 7, 0⟩
/-- AUD.BLKCFG.BLKLEN [31:24], SK (R308). -/
abbrev AUD_BLKCFG_BLKLEN : Fld := ⟨0xC01008, 0x40, 31, 24⟩
/-- AUD.BLKCFG.HOLDMAX [23:16], SK (R308). -/
abbrev AUD_BLKCFG_HOLDMAX : Fld := ⟨0xC01008, 0x40, 23, 16⟩
/-- AUD.BLKCFG.ATOL [15:0], SK (R308). -/
abbrev AUD_BLKCFG_ATOL : Fld := ⟨0xC01008, 0x40, 15, 0⟩
/-- AUD.AOFF [31:0], SK (R308). -/
abbrev AUD_AOFF : Fld := ⟨0xC0100C, 0x40, 31, 0⟩
/-- AUD.OUTOFF [31:0], SK (R308). -/
abbrev AUD_OUTOFF : Fld := ⟨0xC01010, 0x40, 31, 0⟩
/-- AUD.SLOTMASK [15:0], RW (R308). -/
abbrev AUD_SLOTMASK : Fld := ⟨0xC01014, 0x40, 15, 0⟩
/-- AUD.MASKCTL.COMMIT [31:31], WO (R308). -/
abbrev AUD_MASKCTL_COMMIT : Fld := ⟨0xC01018, 0x40, 31, 31⟩
/-- AUD.MASKSTAT.PEND [31:16], RO (R308). -/
abbrev AUD_MASKSTAT_PEND : Fld := ⟨0xC0101C, 0x40, 31, 16⟩
/-- AUD.MASKSTAT.ACTIVE [15:0], RO (R308). -/
abbrev AUD_MASKSTAT_ACTIVE : Fld := ⟨0xC0101C, 0x40, 15, 0⟩
/-- AUD.PORTSTAT.JOINED [31:31], RO (R311). -/
abbrev AUD_PORTSTAT_JOINED : Fld := ⟨0xC01020, 0x40, 31, 31⟩
/-- AUD.PORTSTAT.CLKOK [30:30], RO (R311). -/
abbrev AUD_PORTSTAT_CLKOK : Fld := ⟨0xC01020, 0x40, 30, 30⟩
/-- AUD.PORTSTAT.MASKPEND [29:29], RO (R311). -/
abbrev AUD_PORTSTAT_MASKPEND : Fld := ⟨0xC01020, 0x40, 29, 29⟩
/-- AUD.PORTSTAT.RATECLS [28:26], RO (R311). -/
abbrev AUD_PORTSTAT_RATECLS : Fld := ⟨0xC01020, 0x40, 28, 26⟩
/-- AUD.PORTSTAT.RATECHG [25:25], W1C (R311). -/
abbrev AUD_PORTSTAT_RATECHG : Fld := ⟨0xC01020, 0x40, 25, 25⟩
/-- AUD.PORTSTAT.RATEERR [24:24], RO (R311). -/
abbrev AUD_PORTSTAT_RATEERR : Fld := ⟨0xC01020, 0x40, 24, 24⟩
/-- AUD.PORTSTAT.UNDER [23:23], W1C (R311). -/
abbrev AUD_PORTSTAT_UNDER : Fld := ⟨0xC01020, 0x40, 23, 23⟩
/-- AUD.PORTSTAT.FRAMEERR [22:22], W1C (R311). -/
abbrev AUD_PORTSTAT_FRAMEERR : Fld := ⟨0xC01020, 0x40, 22, 22⟩
/-- AUD.PORTSTAT.CLKLOSS [21:21], W1C (R311). -/
abbrev AUD_PORTSTAT_CLKLOSS : Fld := ⟨0xC01020, 0x40, 21, 21⟩
/-- AUD.PORTSTAT.MASKREJ [20:20], W1C (R311). -/
abbrev AUD_PORTSTAT_MASKREJ : Fld := ⟨0xC01020, 0x40, 20, 20⟩
/-- AUD.PORTSTAT.DATADET [19:19], RO (R311). -/
abbrev AUD_PORTSTAT_DATADET : Fld := ⟨0xC01020, 0x40, 19, 19⟩
/-- AUD.PORTSTAT.HOLDRUN [15:0], RO (R311). -/
abbrev AUD_PORTSTAT_HOLDRUN : Fld := ⟨0xC01020, 0x40, 15, 0⟩
/-- AUD.FSMEAS [23:0], RO (R308). -/
abbrev AUD_FSMEAS : Fld := ⟨0xC01024, 0x40, 23, 0⟩
/-- AUD.FSPPM [15:0], RO (R308). -/
abbrev AUD_FSPPM : Fld := ⟨0xC01028, 0x40, 15, 0⟩
/-- AUD.SUBBLKS.SUBST [31:16], RO (R308). -/
abbrev AUD_SUBBLKS_SUBST : Fld := ⟨0xC0102C, 0x40, 31, 16⟩
/-- AUD.SUBBLKS.NOMATCH [15:0], RO (R308). -/
abbrev AUD_SUBBLKS_NOMATCH : Fld := ⟨0xC0102C, 0x40, 15, 0⟩
/-- AUD.FRAMECNT.DROPPED [31:16], RO (R308). -/
abbrev AUD_FRAMECNT_DROPPED : Fld := ⟨0xC01030, 0x40, 31, 16⟩
/-- AUD.FRAMECNT.REPEATED [15:0], RO (R308). -/
abbrev AUD_FRAMECNT_REPEATED : Fld := ⟨0xC01030, 0x40, 15, 0⟩
/-- AUD.ERRCNT.FRAMING [31:16], RO (R308). -/
abbrev AUD_ERRCNT_FRAMING : Fld := ⟨0xC01034, 0x40, 31, 16⟩
/-- AUD.ERRCNT.CLKLOSS [15:0], RO (R308). -/
abbrev AUD_ERRCNT_CLKLOSS : Fld := ⟨0xC01034, 0x40, 15, 0⟩
/-- AUD.LASTSTAMP [31:0], RO (R308). -/
abbrev AUD_LASTSTAMP : Fld := ⟨0xC01038, 0x40, 31, 0⟩
/-- AUD.OUTSRC.KIND [31:31], SK (R308). -/
abbrev AUD_OUTSRC_KIND : Fld := ⟨0xC0103C, 0x40, 31, 31⟩
/-- AUD.OUTSRC.SRC [9:0], SK (R308). -/
abbrev AUD_OUTSRC_SRC : Fld := ⟨0xC0103C, 0x40, 9, 0⟩
/-- NET.CNTCLR.GO [31:31], WO (R350). -/
abbrev NET_CNTCLR_GO : Fld := ⟨0xD00010, 0x0, 31, 31⟩
/-- NET.CNTCLR.KIND [30:30], WO (R350). -/
abbrev NET_CNTCLR_KIND : Fld := ⟨0xD00010, 0x0, 30, 30⟩
/-- NET.CNTCLR.INDEX [9:0], WO (R350). -/
abbrev NET_CNTCLR_INDEX : Fld := ⟨0xD00010, 0x0, 9, 0⟩
/-- NET.QUADCFG.EN [31:31], SK (R351). -/
abbrev NET_QUADCFG_EN : Fld := ⟨0xD00100, 0x4, 31, 31⟩
/-- NET.QUADCFG.MODE [30:30], SK (R351). -/
abbrev NET_QUADCFG_MODE : Fld := ⟨0xD00100, 0x4, 30, 30⟩
/-- NET.QUADCFG.FEC108 [11:8], SK (R351). -/
abbrev NET_QUADCFG_FEC108 : Fld := ⟨0xD00100, 0x4, 11, 8⟩
/-- NET.QUADCFG.TCPAIR [5:4], SK (R351). -/
abbrev NET_QUADCFG_TCPAIR : Fld := ⟨0xD00100, 0x4, 5, 4⟩
/-- NET.QUADCFG.LANEEN [3:0], SK (R351). -/
abbrev NET_QUADCFG_LANEEN : Fld := ⟨0xD00100, 0x4, 3, 0⟩
/-- NET.LANESTAT.UP [31:31], RO (R353). -/
abbrev NET_LANESTAT_UP : Fld := ⟨0xD01000, 0x100, 31, 31⟩
/-- NET.LANESTAT.BLOCKLK [30:30], RO (R353). -/
abbrev NET_LANESTAT_BLOCKLK : Fld := ⟨0xD01000, 0x100, 30, 30⟩
/-- NET.LANESTAT.FECLK [29:29], RO (R353). -/
abbrev NET_LANESTAT_FECLK : Fld := ⟨0xD01000, 0x100, 29, 29⟩
/-- NET.LANESTAT.ALIGNLK [28:28], RO (R353). -/
abbrev NET_LANESTAT_ALIGNLK : Fld := ⟨0xD01000, 0x100, 28, 28⟩
/-- NET.LANESTAT.LFAULT [27:27], RO (R353). -/
abbrev NET_LANESTAT_LFAULT : Fld := ⟨0xD01000, 0x100, 27, 27⟩
/-- NET.LANESTAT.RFAULT [26:26], RO (R353). -/
abbrev NET_LANESTAT_RFAULT : Fld := ⟨0xD01000, 0x100, 26, 26⟩
/-- NET.LANESTAT.DOWNEV [25:25], W1C (R353). -/
abbrev NET_LANESTAT_DOWNEV : Fld := ⟨0xD01000, 0x100, 25, 25⟩
/-- NET.LANESTAT.PAUSERX [24:24], W1C (R353). -/
abbrev NET_LANESTAT_PAUSERX : Fld := ⟨0xD01000, 0x100, 24, 24⟩
/-- NET.LANESTAT.OLDQUERIER [23:23], W1C (R353). -/
abbrev NET_LANESTAT_OLDQUERIER : Fld := ⟨0xD01000, 0x100, 23, 23⟩
/-- NET.TXDLY [31:0], SK (R352). -/
abbrev NET_TXDLY : Fld := ⟨0xD01004, 0x100, 31, 0⟩
/-- NET.RXDLY [31:0], SK (R352). -/
abbrev NET_RXDLY : Fld := ⟨0xD01008, 0x100, 31, 0⟩
/-- NET.STAMPTB [3:0], SK (R352). -/
abbrev NET_STAMPTB : Fld := ⟨0xD0100C, 0x100, 3, 0⟩
/-- NET.TSQSTAT.OVFEV [31:31], W1C (R352). -/
abbrev NET_TSQSTAT_OVFEV : Fld := ⟨0xD01010, 0x100, 31, 31⟩
/-- NET.TSQSTAT.COUNT [20:16], RO (R352). -/
abbrev NET_TSQSTAT_COUNT : Fld := ⟨0xD01010, 0x100, 20, 16⟩
/-- NET.TSQSTAT.OVFCNT [15:0], RO (R352). -/
abbrev NET_TSQSTAT_OVFCNT : Fld := ⟨0xD01010, 0x100, 15, 0⟩
/-- NET.TSQPOP.POP [31:31], WO (R352). -/
abbrev NET_TSQPOP_POP : Fld := ⟨0xD01014, 0x100, 31, 31⟩
/-- NET.TSQ0.VALID [31:31], RO (R352). -/
abbrev NET_TSQ0_VALID : Fld := ⟨0xD01018, 0x100, 31, 31⟩
/-- NET.TSQ0.FRAMEID [15:0], RO (R352). -/
abbrev NET_TSQ0_FRAMEID : Fld := ⟨0xD01018, 0x100, 15, 0⟩
/-- NET.TSQ1 [31:0], RO (R352). -/
abbrev NET_TSQ1 : Fld := ⟨0xD0101C, 0x100, 31, 0⟩
/-- NET.TSQ2.FRAC [31:16], RO (R352). -/
abbrev NET_TSQ2_FRAC : Fld := ⟨0xD01020, 0x100, 31, 16⟩
/-- NET.TSQ2.SECHI [15:0], RO (R352). -/
abbrev NET_TSQ2_SECHI : Fld := ⟨0xD01020, 0x100, 15, 0⟩
/-- NET.TSQ3 [31:0], RO (R352). -/
abbrev NET_TSQ3 : Fld := ⟨0xD01024, 0x100, 31, 0⟩
/-- NET.RXDROP [31:0], RO (R352). -/
abbrev NET_RXDROP : Fld := ⟨0xD01028, 0x100, 31, 0⟩
/-- NET.FCSERR [31:0], RO (R352). -/
abbrev NET_FCSERR : Fld := ⟨0xD0102C, 0x100, 31, 0⟩
/-- NET.FECCNT.UNC [31:16], RO (R352). -/
abbrev NET_FECCNT_UNC : Fld := ⟨0xD01030, 0x100, 31, 16⟩
/-- NET.FECCNT.COR [15:0], RO (R352). -/
abbrev NET_FECCNT_COR : Fld := ⟨0xD01030, 0x100, 15, 0⟩
/-- NET.TCFWD.DISC [31:16], RO (R352). -/
abbrev NET_TCFWD_DISC : Fld := ⟨0xD01034, 0x100, 31, 16⟩
/-- NET.TCFWD.FWD [15:0], RO (R352). -/
abbrev NET_TCFWD_FWD : Fld := ⟨0xD01034, 0x100, 15, 0⟩
/-- NET.TBCFG.EN [31:31], SK (R355). -/
abbrev NET_TBCFG_EN : Fld := ⟨0xD04000, 0x40, 31, 31⟩
/-- NET.TBCFG.SRCTYPE [30:28], SK (R355). -/
abbrev NET_TBCFG_SRCTYPE : Fld := ⟨0xD04000, 0x40, 30, 28⟩
/-- NET.TBCFG.SRC [27:24], SK (R355). -/
abbrev NET_TBCFG_SRC : Fld := ⟨0xD04000, 0x40, 27, 24⟩
/-- NET.TBCFG.START [23:23], SK (R355). -/
abbrev NET_TBCFG_START : Fld := ⟨0xD04000, 0x40, 23, 23⟩
/-- NET.TBCFG.FREEMS [15:0], SK (R355). -/
abbrev NET_TBCFG_FREEMS : Fld := ⟨0xD04000, 0x40, 15, 0⟩
/-- NET.TBSTAT.VALID [31:31], RO (R356). -/
abbrev NET_TBSTAT_VALID : Fld := ⟨0xD04004, 0x40, 31, 31⟩
/-- NET.TBSTAT.LOCKED [30:30], RO (R356). -/
abbrev NET_TBSTAT_LOCKED : Fld := ⟨0xD04004, 0x40, 30, 30⟩
/-- NET.TBSTAT.HOLDOVER [29:29], RO (R356). -/
abbrev NET_TBSTAT_HOLDOVER : Fld := ⟨0xD04004, 0x40, 29, 29⟩
/-- NET.TBSTAT.FREESTART [28:28], RO (R356). -/
abbrev NET_TBSTAT_FREESTART : Fld := ⟨0xD04004, 0x40, 28, 28⟩
/-- NET.TBSTAT.STEPPED [27:27], W1C (R356). -/
abbrev NET_TBSTAT_STEPPED : Fld := ⟨0xD04004, 0x40, 27, 27⟩
/-- NET.TBSTAT.INVEV [26:26], W1C (R356). -/
abbrev NET_TBSTAT_INVEV : Fld := ⟨0xD04004, 0x40, 26, 26⟩
/-- NET.TBSTAT.STEPCNT [15:0], RO, kept over a warm reset (R356). -/
abbrev NET_TBSTAT_STEPCNT : Fld := ⟨0xD04004, 0x40, 15, 0⟩
/-- NET.TBRATE [31:0], RO (R354). -/
abbrev NET_TBRATE : Fld := ⟨0xD04008, 0x40, 31, 0⟩
/-- NET.TBOFFS [31:0], RO (R354). -/
abbrev NET_TBOFFS : Fld := ⟨0xD0400C, 0x40, 31, 0⟩
/-- NET.TBLATCH.LATCH [31:31], WO (R354). -/
abbrev NET_TBLATCH_LATCH : Fld := ⟨0xD04010, 0x40, 31, 31⟩
/-- NET.TBSECLO [31:0], RO (R354). -/
abbrev NET_TBSECLO : Fld := ⟨0xD04014, 0x40, 31, 0⟩
/-- NET.TBSECHI [15:0], RO (R354). -/
abbrev NET_TBSECHI : Fld := ⟨0xD04018, 0x40, 15, 0⟩
/-- NET.TBNS [31:0], RO (R354). -/
abbrev NET_TBNS : Fld := ⟨0xD0401C, 0x40, 31, 0⟩
/-- NET.TBFRAC [15:0], RO (R354). -/
abbrev NET_TBFRAC : Fld := ⟨0xD04020, 0x40, 15, 0⟩
/-- NET.TBLIM.STEP [31:16], SK (R354). -/
abbrev NET_TBLIM_STEP : Fld := ⟨0xD04024, 0x40, 31, 16⟩
/-- NET.TBLIM.HOLDS [15:0], SK (R354). -/
abbrev NET_TBLIM_HOLDS : Fld := ⟨0xD04024, 0x40, 15, 0⟩
/-- NET.TBHOLDT [31:0], RO (R354). -/
abbrev NET_TBHOLDT : Fld := ⟨0xD04028, 0x40, 31, 0⟩
/-- NET.EGCFG.EN [31:31], SK (R358). -/
abbrev NET_EGCFG_EN : Fld := ⟨0xD08000, 0x20, 31, 31⟩
/-- NET.EGCFG.FORM [30:28], SK (R358). -/
abbrev NET_EGCFG_FORM : Fld := ⟨0xD08000, 0x20, 30, 28⟩
/-- NET.EGCFG.PORT [27:24], SK (R358). -/
abbrev NET_EGCFG_PORT : Fld := ⟨0xD08000, 0x20, 27, 24⟩
/-- NET.EGCFG.IPV6 [23:23], SK (R358). -/
abbrev NET_EGCFG_IPV6 : Fld := ⟨0xD08000, 0x20, 23, 23⟩
/-- NET.EGCFG.SRTP [22:22], SK (R358). -/
abbrev NET_EGCFG_SRTP : Fld := ⟨0xD08000, 0x20, 22, 22⟩
/-- NET.EGCFG.DUAL [21:21], SK (R358). -/
abbrev NET_EGCFG_DUAL : Fld := ⟨0xD08000, 0x20, 21, 21⟩
/-- NET.EGCFG.PLANE [20:19], SK (R358). -/
abbrev NET_EGCFG_PLANE : Fld := ⟨0xD08000, 0x20, 20, 19⟩
/-- NET.EGWIN.W [19:0], SK (R357). -/
abbrev NET_EGWIN_W : Fld := ⟨0xD08004, 0x20, 19, 0⟩
/-- NET.EGSTAT.MUTED [31:31], RO (R359). -/
abbrev NET_EGSTAT_MUTED : Fld := ⟨0xD08008, 0x20, 31, 31⟩
/-- NET.EGSTAT.UNRES [30:30], RO (R359). -/
abbrev NET_EGSTAT_UNRES : Fld := ⟨0xD08008, 0x20, 30, 30⟩
/-- NET.EGSTAT.LINKDN [29:29], RO (R359). -/
abbrev NET_EGSTAT_LINKDN : Fld := ⟨0xD08008, 0x20, 29, 29⟩
/-- NET.EGSTAT.MARKFLT [28:28], W1C (R359). -/
abbrev NET_EGSTAT_MARKFLT : Fld := ⟨0xD08008, 0x20, 28, 28⟩
/-- NET.EGSTAT.LATE [27:27], W1C (R359). -/
abbrev NET_EGSTAT_LATE : Fld := ⟨0xD08008, 0x20, 27, 27⟩
/-- NET.EGPKTLO [31:0], RO (R357). -/
abbrev NET_EGPKTLO : Fld := ⟨0xD0800C, 0x20, 31, 0⟩
/-- NET.EGPKTHI [31:0], RO (R357). -/
abbrev NET_EGPKTHI : Fld := ⟨0xD08010, 0x20, 31, 0⟩
/-- NET.EGDROP.DISC [31:16], RO (R357). -/
abbrev NET_EGDROP_DISC : Fld := ⟨0xD08014, 0x20, 31, 16⟩
/-- NET.EGDROP.MARKF [15:0], RO (R357). -/
abbrev NET_EGDROP_MARKF : Fld := ⟨0xD08014, 0x20, 15, 0⟩
/-- NET.EGLATE [31:0], RO (R357). -/
abbrev NET_EGLATE : Fld := ⟨0xD08018, 0x20, 31, 0⟩
/-- CLK.CNTCLR.GO [31:31], WO (R389). -/
abbrev CLK_CNTCLR_GO : Fld := ⟨0xE00010, 0x0, 31, 31⟩
/-- CLK.CNTCLR.ALL [30:30], WO (R389). -/
abbrev CLK_CNTCLR_ALL : Fld := ⟨0xE00010, 0x0, 30, 30⟩
/-- CLK.CNTCLR.REF [4:0], WO (R389). -/
abbrev CLK_CNTCLR_REF : Fld := ⟨0xE00010, 0x0, 4, 0⟩
/-- CLK.DPLLCFG.EN [31:31], SK (R390). -/
abbrev CLK_DPLLCFG_EN : Fld := ⟨0xE00100, 0x0, 31, 31⟩
/-- CLK.DPLLCFG.REVERT [30:30], SK (R390). -/
abbrev CLK_DPLLCFG_REVERT : Fld := ⟨0xE00100, 0x0, 30, 30⟩
/-- CLK.DPLLCFG.BW [29:27], SK (R390). -/
abbrev CLK_DPLLCFG_BW : Fld := ⟨0xE00100, 0x0, 29, 27⟩
/-- CLK.DPLLCFG.HOLDAVG [26:15], SK (R390). -/
abbrev CLK_DPLLCFG_HOLDAVG : Fld := ⟨0xE00100, 0x0, 26, 15⟩
/-- CLK.DPLLCFG.DISLIM [14:8], SK (R390). -/
abbrev CLK_DPLLCFG_DISLIM : Fld := ⟨0xE00100, 0x0, 14, 8⟩
/-- CLK.DPLLCFG.TODPI [7:5], SK (R390). -/
abbrev CLK_DPLLCFG_TODPI : Fld := ⟨0xE00100, 0x0, 7, 5⟩
/-- CLK.DPLLSTAT.STATE [31:29], RO (R391). -/
abbrev CLK_DPLLSTAT_STATE : Fld := ⟨0xE00104, 0x0, 31, 29⟩
/-- CLK.DPLLSTAT.SEL [28:24], RO (R391). -/
abbrev CLK_DPLLSTAT_SEL : Fld := ⟨0xE00104, 0x0, 28, 24⟩
/-- CLK.DPLLSTAT.TARGET [23:19], RO (R391). -/
abbrev CLK_DPLLSTAT_TARGET : Fld := ⟨0xE00104, 0x0, 23, 19⟩
/-- CLK.DPLLSTAT.HOOSPEC [18:18], RO (R391). -/
abbrev CLK_DPLLSTAT_HOOSPEC : Fld := ⟨0xE00104, 0x0, 18, 18⟩
/-- CLK.DPLLSTAT.HOFREE [17:17], RO (R391). -/
abbrev CLK_DPLLSTAT_HOFREE : Fld := ⟨0xE00104, 0x0, 17, 17⟩
/-- CLK.DPLLSTAT.DISAGREE [16:16], W1C (R391). -/
abbrev CLK_DPLLSTAT_DISAGREE : Fld := ⟨0xE00104, 0x0, 16, 16⟩
/-- CLK.DPLLSTAT.SWEV [15:15], W1C (R391). -/
abbrev CLK_DPLLSTAT_SWEV : Fld := ⟨0xE00104, 0x0, 15, 15⟩
/-- CLK.DPLLSTAT.HOEV [14:14], W1C (R391). -/
abbrev CLK_DPLLSTAT_HOEV : Fld := ⟨0xE00104, 0x0, 14, 14⟩
/-- CLK.DPLLSTAT.OOSEV [13:13], W1C (R391). -/
abbrev CLK_DPLLSTAT_OOSEV : Fld := ⟨0xE00104, 0x0, 13, 13⟩
/-- CLK.DPLLSTAT.XTALSPEC [12:12], W1C (R391). -/
abbrev CLK_DPLLSTAT_XTALSPEC : Fld := ⟨0xE00104, 0x0, 12, 12⟩
/-- CLK.DPLLFREQ [31:0], RO (R392). -/
abbrev CLK_DPLLFREQ : Fld := ⟨0xE00108, 0x0, 31, 0⟩
/-- CLK.HOLDEST [31:0], RO (R392). -/
abbrev CLK_HOLDEST : Fld := ⟨0xE0010C, 0x0, 31, 0⟩
/-- CLK.HOLDT [31:0], RO (R392). -/
abbrev CLK_HOLDT : Fld := ⟨0xE00110, 0x0, 31, 0⟩
/-- CLK.HOSPEC [31:0], SK (R392). -/
abbrev CLK_HOSPEC : Fld := ⟨0xE00114, 0x0, 31, 0⟩
/-- CLK.GATE0 [25:0], RO (R392). -/
abbrev CLK_GATE0 : Fld := ⟨0xE00300, 0x0, 25, 0⟩
/-- CLK.GATE1 [31:0], RO (R392). -/
abbrev CLK_GATE1 : Fld := ⟨0xE00304, 0x0, 31, 0⟩
/-- CLK.ROOTSTAT.XTALOK [31:31], RO (R393). -/
abbrev CLK_ROOTSTAT_XTALOK : Fld := ⟨0xE00310, 0x0, 31, 31⟩
/-- CLK.ROOTSTAT.PLLLOCK [30:30], RO (R393). -/
abbrev CLK_ROOTSTAT_PLLLOCK : Fld := ⟨0xE00310, 0x0, 30, 30⟩
/-- CLK.ROOTSTAT.ONRC [29:29], RO (R393). -/
abbrev CLK_ROOTSTAT_ONRC : Fld := ⟨0xE00310, 0x0, 29, 29⟩
/-- CLK.ROOTSTAT.XTALFAIL [26:26], RWS (R393). -/
abbrev CLK_ROOTSTAT_XTALFAIL : Fld := ⟨0xE00310, 0x0, 26, 26⟩
/-- CLK.ROOTSTAT.PLLFAIL [25:25], RWS (R393). -/
abbrev CLK_ROOTSTAT_PLLFAIL : Fld := ⟨0xE00310, 0x0, 25, 25⟩
/-- CLK.ROOTSTAT.ALIGNFAIL [24:24], RWS (R393). -/
abbrev CLK_ROOTSTAT_ALIGNFAIL : Fld := ⟨0xE00310, 0x0, 24, 24⟩
/-- CLK.SUPSTAT.THERMRST [31:31], W1C (R652). -/
abbrev CLK_SUPSTAT_THERMRST : Fld := ⟨0xE00314, 0x0, 31, 31⟩
/-- CLK.SUPSTAT.SUPRST [30:30], W1C (R652). -/
abbrev CLK_SUPSTAT_SUPRST : Fld := ⟨0xE00314, 0x0, 30, 30⟩
/-- CLK.SUPSTAT.TEMPWARN [29:29], W1C (R652). -/
abbrev CLK_SUPSTAT_TEMPWARN : Fld := ⟨0xE00314, 0x0, 29, 29⟩
/-- CLK.SUPSTAT.WARNEV [15:8], W1C (R652). -/
abbrev CLK_SUPSTAT_WARNEV : Fld := ⟨0xE00314, 0x0, 15, 8⟩
/-- CLK.SUPSTAT.WARN [7:0], RO (R652). -/
abbrev CLK_SUPSTAT_WARN : Fld := ⟨0xE00314, 0x0, 7, 0⟩
/-- CLK.TEMP.TJMAX [31:20], RO, kept over a warm reset (R653). -/
abbrev CLK_TEMP_TJMAX : Fld := ⟨0xE00318, 0x0, 31, 20⟩
/-- CLK.TEMP.HOTSENS [19:16], RO (R653). -/
abbrev CLK_TEMP_HOTSENS : Fld := ⟨0xE00318, 0x0, 19, 16⟩
/-- CLK.TEMP.TJ [11:0], RO (R653). -/
abbrev CLK_TEMP_TJ : Fld := ⟨0xE00318, 0x0, 11, 0⟩
/-- CLK.SWCFG [9:0], SK (R392). -/
abbrev CLK_SWCFG : Fld := ⟨0xE00320, 0x0, 9, 0⟩
/-- CLK.SWSTAT.SWWD [25:16], W1C (R392). -/
abbrev CLK_SWSTAT_SWWD : Fld := ⟨0xE00324, 0x0, 25, 16⟩
/-- CLK.SWSTAT.BUSY [9:0], RO (R392). -/
abbrev CLK_SWSTAT_BUSY : Fld := ⟨0xE00324, 0x0, 9, 0⟩
/-- CLK.REFCFG.EN [31:31], SK (R394). -/
abbrev CLK_REFCFG_EN : Fld := ⟨0xE01000, 0x20, 31, 31⟩
/-- CLK.REFCFG.PRIO [30:27], SK (R394). -/
abbrev CLK_REFCFG_PRIO : Fld := ⟨0xE01000, 0x20, 30, 27⟩
/-- CLK.REFCFG.TYPE [26:24], SK (R394). -/
abbrev CLK_REFCFG_TYPE : Fld := ⟨0xE01000, 0x20, 26, 24⟩
/-- CLK.REFNOM [26:0], SK (R394). -/
abbrev CLK_REFNOM : Fld := ⟨0xE01004, 0x20, 26, 0⟩
/-- CLK.REFLIM.REJ [31:16], SK (R394). -/
abbrev CLK_REFLIM_REJ : Fld := ⟨0xE01008, 0x20, 31, 16⟩
/-- CLK.REFLIM.ACC [15:0], SK (R394). -/
abbrev CLK_REFLIM_ACC : Fld := ⟨0xE01008, 0x20, 15, 0⟩
/-- CLK.REFTIME.WTR [31:20], SK (R394). -/
abbrev CLK_REFTIME_WTR : Fld := ⟨0xE0100C, 0x20, 31, 20⟩
/-- CLK.REFTIME.QUALT [7:0], SK (R394). -/
abbrev CLK_REFTIME_QUALT : Fld := ⟨0xE0100C, 0x20, 7, 0⟩
/-- CLK.REFSTAT.QUAL [31:31], RO (R395). -/
abbrev CLK_REFSTAT_QUAL : Fld := ⟨0xE01010, 0x20, 31, 31⟩
/-- CLK.REFSTAT.ACTIVE [30:30], RO (R395). -/
abbrev CLK_REFSTAT_ACTIVE : Fld := ⟨0xE01010, 0x20, 30, 30⟩
/-- CLK.REFSTAT.INACC [29:29], RO (R395). -/
abbrev CLK_REFSTAT_INACC : Fld := ⟨0xE01010, 0x20, 29, 29⟩
/-- CLK.REFSTAT.WTRRUN [28:28], RO (R395). -/
abbrev CLK_REFSTAT_WTRRUN : Fld := ⟨0xE01010, 0x20, 28, 28⟩
/-- CLK.REFSTAT.LOSSEV [27:27], W1C (R395). -/
abbrev CLK_REFSTAT_LOSSEV : Fld := ⟨0xE01010, 0x20, 27, 27⟩
/-- CLK.REFSTAT.GLITCHEV [26:26], W1C (R395). -/
abbrev CLK_REFSTAT_GLITCHEV : Fld := ⟨0xE01010, 0x20, 26, 26⟩
/-- CLK.REFSTAT.FREQEV [25:25], W1C (R395). -/
abbrev CLK_REFSTAT_FREQEV : Fld := ⟨0xE01010, 0x20, 25, 25⟩
/-- CLK.REFSTAT.QUALEV [24:24], W1C (R395). -/
abbrev CLK_REFSTAT_QUALEV : Fld := ⟨0xE01010, 0x20, 24, 24⟩
/-- CLK.REFSTAT.TIMER [11:0], RO (R395). -/
abbrev CLK_REFSTAT_TIMER : Fld := ⟨0xE01010, 0x20, 11, 0⟩
/-- CLK.REFFREQ [31:0], RO (R394). -/
abbrev CLK_REFFREQ : Fld := ⟨0xE01014, 0x20, 31, 0⟩
/-- CLK.REFCNT.DISQ [31:16], RO (R394). -/
abbrev CLK_REFCNT_DISQ : Fld := ⟨0xE01018, 0x20, 31, 16⟩
/-- CLK.REFCNT.GLITCH [15:0], RO (R394). -/
abbrev CLK_REFCNT_GLITCH : Fld := ⟨0xE01018, 0x20, 15, 0⟩
/-- CLK.OUTCFG.EN [31:31], SK (R396). -/
abbrev CLK_OUTCFG_EN : Fld := ⟨0xE02000, 0x20, 31, 31⟩
/-- CLK.OUTCFG.SRC [30:28], SK (R396). -/
abbrev CLK_OUTCFG_SRC : Fld := ⟨0xE02000, 0x20, 30, 28⟩
/-- CLK.OUTCFG.PLANE [27:26], SK (R396). -/
abbrev CLK_OUTCFG_PLANE : Fld := ⟨0xE02000, 0x20, 27, 26⟩
/-- CLK.OUTCFG.TB [25:22], SK (R396). -/
abbrev CLK_OUTCFG_TB : Fld := ⟨0xE02000, 0x20, 25, 22⟩
/-- CLK.OUTCFG.SQ [21:20], SK (R396). -/
abbrev CLK_OUTCFG_SQ : Fld := ⟨0xE02000, 0x20, 21, 20⟩
/-- CLK.OUTCFG.SLEW [19:10], SK (R396). -/
abbrev CLK_OUTCFG_SLEW : Fld := ⟨0xE02000, 0x20, 19, 10⟩
/-- CLK.OUTFREQ [27:0], SK (R396). -/
abbrev CLK_OUTFREQ : Fld := ⟨0xE02004, 0x20, 27, 0⟩
/-- CLK.OUTOFS [31:0], SK (R396). -/
abbrev CLK_OUTOFS : Fld := ⟨0xE02008, 0x20, 31, 0⟩
/-- CLK.PHSTEP [31:0], WO (R396). -/
abbrev CLK_PHSTEP : Fld := ⟨0xE0200C, 0x20, 31, 0⟩
/-- CLK.PHSTAT.SQUELCHED [31:31], RO (R396). -/
abbrev CLK_PHSTAT_SQUELCHED : Fld := ⟨0xE02010, 0x20, 31, 31⟩
/-- CLK.PHSTAT.PHBUSY [30:30], RO (R396). -/
abbrev CLK_PHSTAT_PHBUSY : Fld := ⟨0xE02010, 0x20, 30, 30⟩
/-- CLK.PHSTAT.PHREJ [29:29], W1C (R396). -/
abbrev CLK_PHSTAT_PHREJ : Fld := ⟨0xE02010, 0x20, 29, 29⟩
/-- CLK.PHPEND [31:0], RO (R396). -/
abbrev CLK_PHPEND : Fld := ⟨0xE02014, 0x20, 31, 0⟩
/-- DRAM.CNTCLR.GO [31:31], WO (R421). -/
abbrev DRAM_CNTCLR_GO : Fld := ⟨0xF00010, 0x0, 31, 31⟩
/-- DRAM.CNTCLR.ALL [30:30], WO (R421). -/
abbrev DRAM_CNTCLR_ALL : Fld := ⟨0xF00010, 0x0, 30, 30⟩
/-- DRAM.CNTCLR.CHAN [3:0], WO (R421). -/
abbrev DRAM_CNTCLR_CHAN : Fld := ⟨0xF00010, 0x0, 3, 0⟩
/-- DRAM.MAPCFG.EN [31:31], SK (R422). -/
abbrev DRAM_MAPCFG_EN : Fld := ⟨0xF00100, 0x0, 31, 31⟩
/-- DRAM.MAPCFG.DENS [30:30], SK (R422). -/
abbrev DRAM_MAPCFG_DENS : Fld := ⟨0xF00100, 0x0, 30, 30⟩
/-- DRAM.MAPCFG.CHXOR [29:29], SK (R422). -/
abbrev DRAM_MAPCFG_CHXOR : Fld := ⟨0xF00100, 0x0, 29, 29⟩
/-- DRAM.MAPCFG.BXOR [28:28], SK (R422). -/
abbrev DRAM_MAPCFG_BXOR : Fld := ⟨0xF00100, 0x0, 28, 28⟩
/-- DRAM.MAPCFG.ECCRSV [27:27], SK (R422). -/
abbrev DRAM_MAPCFG_ECCRSV : Fld := ⟨0xF00100, 0x0, 27, 27⟩
/-- DRAM.MAPCFG.GRAIN [23:20], SK (R422). -/
abbrev DRAM_MAPCFG_GRAIN : Fld := ⟨0xF00100, 0x0, 23, 20⟩
/-- DRAM.MAPCFG.SCRUBH [7:0], SK (R422). -/
abbrev DRAM_MAPCFG_SCRUBH : Fld := ⟨0xF00100, 0x0, 7, 0⟩
/-- DRAM.FREQSTAT.DIV6 [31:31], RO (R424). -/
abbrev DRAM_FREQSTAT_DIV6 : Fld := ⟨0xF00104, 0x0, 31, 31⟩
/-- DRAM.FREQSTAT.SEAM [30:30], RO (R424). -/
abbrev DRAM_FREQSTAT_SEAM : Fld := ⟨0xF00104, 0x0, 30, 30⟩
/-- DRAM.FREQSTAT.SEAMUS [15:8], RO (R424). -/
abbrev DRAM_FREQSTAT_SEAMUS : Fld := ⟨0xF00104, 0x0, 15, 8⟩
/-- DRAM.FREQSTAT.SEAMS [7:0], RO, kept over a warm reset (R424). -/
abbrev DRAM_FREQSTAT_SEAMS : Fld := ⟨0xF00104, 0x0, 7, 0⟩
/-- DRAM.SNAGCFG.SNAGTH [31:16], SK (R423). -/
abbrev DRAM_SNAGCFG_SNAGTH : Fld := ⟨0xF00108, 0x0, 31, 16⟩
/-- DRAM.SNAGCFG.SNAGHOLD [15:8], SK (R423). -/
abbrev DRAM_SNAGCFG_SNAGHOLD : Fld := ⟨0xF00108, 0x0, 15, 8⟩
/-- DRAM.REGIONLO.EN [31:31], SK (R425). -/
abbrev DRAM_REGIONLO_EN : Fld := ⟨0xF00200, 0x8, 31, 31⟩
/-- DRAM.REGIONLO.ECC [30:30], SK (R425). -/
abbrev DRAM_REGIONLO_ECC : Fld := ⟨0xF00200, 0x8, 30, 30⟩
/-- DRAM.REGIONLO.BASE [19:0], SK (R425). -/
abbrev DRAM_REGIONLO_BASE : Fld := ⟨0xF00200, 0x8, 19, 0⟩
/-- DRAM.REGIONHI.LIMIT [19:0], SK (R425). -/
abbrev DRAM_REGIONHI_LIMIT : Fld := ⟨0xF00204, 0x8, 19, 0⟩
/-- DRAM.FAULTREC.VALID [31:31], W1C (R420). -/
abbrev DRAM_FAULTREC_VALID : Fld := ⟨0xF00300, 0x0, 31, 31⟩
/-- DRAM.FAULTREC.MORE [30:30], W1C (R420). -/
abbrev DRAM_FAULTREC_MORE : Fld := ⟨0xF00300, 0x0, 30, 30⟩
/-- DRAM.FAULTREC.CAUSE [29:26], RO (R420). -/
abbrev DRAM_FAULTREC_CAUSE : Fld := ⟨0xF00300, 0x0, 29, 26⟩
/-- DRAM.FAULTREC.CHAN [25:22], RO (R420). -/
abbrev DRAM_FAULTREC_CHAN : Fld := ⟨0xF00300, 0x0, 25, 22⟩
/-- DRAM.FAULTREC.BANK [21:18], RO (R420). -/
abbrev DRAM_FAULTREC_BANK : Fld := ⟨0xF00300, 0x0, 21, 18⟩
/-- DRAM.FAULTREC.ROW [15:0], RO (R420). -/
abbrev DRAM_FAULTREC_ROW : Fld := ⟨0xF00300, 0x0, 15, 0⟩
/-- DRAM.CHCFG.EN [31:31], SK (R426). -/
abbrev DRAM_CHCFG_EN : Fld := ⟨0xF01000, 0x100, 31, 31⟩
/-- DRAM.CHSTAT.TRAINED [31:31], RO (R427). -/
abbrev DRAM_CHSTAT_TRAINED : Fld := ⟨0xF01004, 0x100, 31, 31⟩
/-- DRAM.CHSTAT.HOT [30:30], W1C (R427). -/
abbrev DRAM_CHSTAT_HOT : Fld := ⟨0xF01004, 0x100, 30, 30⟩
/-- DRAM.CHSTAT.DRIFT [29:29], W1C (R427). -/
abbrev DRAM_CHSTAT_DRIFT : Fld := ⟨0xF01004, 0x100, 29, 29⟩
/-- DRAM.CHSTAT.STATSNAG [28:28], W1C (R427). -/
abbrev DRAM_CHSTAT_STATSNAG : Fld := ⟨0xF01004, 0x100, 28, 28⟩
/-- DRAM.CHSTAT.BLOCKED [27:27], W1C (R427). -/
abbrev DRAM_CHSTAT_BLOCKED : Fld := ⟨0xF01004, 0x100, 27, 27⟩
/-- DRAM.LINKCNT.UNC [31:16], RO (R426). -/
abbrev DRAM_LINKCNT_UNC : Fld := ⟨0xF01008, 0x100, 31, 16⟩
/-- DRAM.LINKCNT.COR [15:0], RO (R426). -/
abbrev DRAM_LINKCNT_COR : Fld := ⟨0xF01008, 0x100, 15, 0⟩
/-- DRAM.ECCCNT.UNC [31:16], RO (R426). -/
abbrev DRAM_ECCCNT_UNC : Fld := ⟨0xF0100C, 0x100, 31, 16⟩
/-- DRAM.ECCCNT.COR [15:0], RO (R426). -/
abbrev DRAM_ECCCNT_COR : Fld := ⟨0xF0100C, 0x100, 15, 0⟩
/-- DRAM.SNAGCNT [31:0], RO (R426). -/
abbrev DRAM_SNAGCNT : Fld := ⟨0xF01010, 0x100, 31, 0⟩
/-- DRAM.MR4 [7:0], RO (R426). -/
abbrev DRAM_MR4 : Fld := ⟨0xF01014, 0x100, 7, 0⟩
/-- DRAM.DRIFTMAX [3:0], RO (R426). -/
abbrev DRAM_DRIFTMAX : Fld := ⟨0xF01018, 0x100, 3, 0⟩
/-- DRAM.PPCFG.EN [31:31], SK (R428). -/
abbrev DRAM_PPCFG_EN : Fld := ⟨0xF04000, 0x20, 31, 31⟩
/-- DRAM.PPCFG.PANICTRY [30:29], SK (R428). -/
abbrev DRAM_PPCFG_PANICTRY : Fld := ⟨0xF04000, 0x20, 30, 29⟩
/-- DRAM.PPCFG.FLOW [9:0], SK (R428). -/
abbrev DRAM_PPCFG_FLOW : Fld := ⟨0xF04000, 0x20, 9, 0⟩
/-- DRAM.PPSTAT.RETRY [31:31], RO (R428). -/
abbrev DRAM_PPSTAT_RETRY : Fld := ⟨0xF04004, 0x20, 31, 31⟩
/-- DRAM.PPSTAT.UNDER [30:30], W1C (R428). -/
abbrev DRAM_PPSTAT_UNDER : Fld := ⟨0xF04004, 0x20, 30, 30⟩
/-- DRAM.PPCNT.BLACK [31:16], RO (R428). -/
abbrev DRAM_PPCNT_BLACK : Fld := ⟨0xF04008, 0x20, 31, 16⟩
/-- DRAM.PPCNT.RECOV [15:0], RO (R428). -/
abbrev DRAM_PPCNT_RECOV : Fld := ⟨0xF04008, 0x20, 15, 0⟩
/-- NAND.CNTCLR.GO [31:31], WO (R448). -/
abbrev NAND_CNTCLR_GO : Fld := ⟨0x1000010, 0x0, 31, 31⟩
/-- NAND.STORESTAT.ANCHOR0 [31:31], RO (R449). -/
abbrev NAND_STORESTAT_ANCHOR0 : Fld := ⟨0x1000100, 0x0, 31, 31⟩
/-- NAND.STORESTAT.ANCHOR1 [30:30], RO (R449). -/
abbrev NAND_STORESTAT_ANCHOR1 : Fld := ⟨0x1000100, 0x0, 30, 30⟩
/-- NAND.STORESTAT.DIR0 [29:29], RO (R449). -/
abbrev NAND_STORESTAT_DIR0 : Fld := ⟨0x1000100, 0x0, 29, 29⟩
/-- NAND.STORESTAT.DIR1 [28:28], RO (R449). -/
abbrev NAND_STORESTAT_DIR1 : Fld := ⟨0x1000100, 0x0, 28, 28⟩
/-- NAND.STORESTAT.SCRUBRUN [27:27], RO (R449). -/
abbrev NAND_STORESTAT_SCRUBRUN : Fld := ⟨0x1000100, 0x0, 27, 27⟩
/-- NAND.STORESTAT.INSTTOK [23:19], RO (R449). -/
abbrev NAND_STORESTAT_INSTTOK : Fld := ⟨0x1000100, 0x0, 23, 19⟩
/-- NAND.STORESTAT.GOLDTOK [18:17], RO (R449). -/
abbrev NAND_STORESTAT_GOLDTOK : Fld := ⟨0x1000100, 0x0, 18, 17⟩
/-- NAND.STORESTAT.SCRUBPASS [15:0], RO (R449). -/
abbrev NAND_STORESTAT_SCRUBPASS : Fld := ⟨0x1000100, 0x0, 15, 0⟩
/-- NAND.FAULTREC.VALID [31:31], W1C (R450). -/
abbrev NAND_FAULTREC_VALID : Fld := ⟨0x1000300, 0x0, 31, 31⟩
/-- NAND.FAULTREC.MORE [30:30], W1C (R450). -/
abbrev NAND_FAULTREC_MORE : Fld := ⟨0x1000300, 0x0, 30, 30⟩
/-- NAND.FAULTREC.CAUSE [29:26], RO (R450). -/
abbrev NAND_FAULTREC_CAUSE : Fld := ⟨0x1000300, 0x0, 29, 26⟩
/-- NAND.FAULTREC.CHAN [25:25], RO (R450). -/
abbrev NAND_FAULTREC_CHAN : Fld := ⟨0x1000300, 0x0, 25, 25⟩
/-- NAND.FAULTREC.TARGET [24:23], RO (R450). -/
abbrev NAND_FAULTREC_TARGET : Fld := ⟨0x1000300, 0x0, 24, 23⟩
/-- NAND.FAULTREC.LUN [22:22], RO (R450). -/
abbrev NAND_FAULTREC_LUN : Fld := ⟨0x1000300, 0x0, 22, 22⟩
/-- NAND.FAULTREC.PART [21:18], RO (R450). -/
abbrev NAND_FAULTREC_PART : Fld := ⟨0x1000300, 0x0, 21, 18⟩
/-- NAND.FAULTREC.BLOCK [17:0], RO (R450). -/
abbrev NAND_FAULTREC_BLOCK : Fld := ⟨0x1000300, 0x0, 17, 0⟩
/-- NAND.CHSTAT.UP [31:31], RO (R451). -/
abbrev NAND_CHSTAT_UP : Fld := ⟨0x1001000, 0x100, 31, 31⟩
/-- NAND.CHSTAT.DDR3 [30:30], RO (R451). -/
abbrev NAND_CHSTAT_DDR3 : Fld := ⟨0x1001000, 0x100, 30, 30⟩
/-- NAND.CHSTAT.TARGETS [29:28], RO (R451). -/
abbrev NAND_CHSTAT_TARGETS : Fld := ⟨0x1001000, 0x100, 29, 28⟩
/-- NAND.CORRCNT [31:0], RO (R451). -/
abbrev NAND_CORRCNT : Fld := ⟨0x1001004, 0x100, 31, 0⟩
/-- NAND.RETRYCNT [31:0], RO (R451). -/
abbrev NAND_RETRYCNT : Fld := ⟨0x1001008, 0x100, 31, 0⟩
/-- NAND.UNCCNT [31:0], RO (R451). -/
abbrev NAND_UNCCNT : Fld := ⟨0x100100C, 0x100, 31, 0⟩
/-- NAND.PARTSTAT.WORN [31:31], RO, kept over a warm reset (R453). -/
abbrev NAND_PARTSTAT_WORN : Fld := ⟨0x1002000, 0x20, 31, 31⟩
/-- NAND.PARTSTAT.WRITING [30:30], RO (R453). -/
abbrev NAND_PARTSTAT_WRITING : Fld := ⟨0x1002000, 0x20, 30, 30⟩
/-- NAND.PARTSTAT.RETIREEV [29:29], W1C (R453). -/
abbrev NAND_PARTSTAT_RETIREEV : Fld := ⟨0x1002000, 0x20, 29, 29⟩
/-- NAND.PARTSTAT.REFRESHEV [28:28], W1C (R453). -/
abbrev NAND_PARTSTAT_REFRESHEV : Fld := ⟨0x1002000, 0x20, 28, 28⟩
/-- NAND.PARTSTAT.SPARES [23:16], RO, kept over a warm reset (R453). -/
abbrev NAND_PARTSTAT_SPARES : Fld := ⟨0x1002000, 0x20, 23, 16⟩
/-- NAND.PARTSTAT.RETIRED [15:0], RO, kept over a warm reset (R453). -/
abbrev NAND_PARTSTAT_RETIRED : Fld := ⟨0x1002000, 0x20, 15, 0⟩
/-- NAND.ERASEMAX [31:0], RO, kept over a warm reset (R452). -/
abbrev NAND_ERASEMAX : Fld := ⟨0x1002004, 0x20, 31, 0⟩
/-- NAND.REFRESHCNT [31:0], RO, kept over a warm reset (R452). -/
abbrev NAND_REFRESHCNT : Fld := ⟨0x1002008, 0x20, 31, 0⟩
/-- NAND.LOGLOST [31:0], RO (R452). -/
abbrev NAND_LOGLOST : Fld := ⟨0x100200C, 0x20, 31, 0⟩
/-- NAND.RDMAX [31:0], RO, kept over a warm reset (R452). -/
abbrev NAND_RDMAX : Fld := ⟨0x1002010, 0x20, 31, 0⟩
/-- STR.CNTCLR.GO [31:31], WO (R479). -/
abbrev STR_CNTCLR_GO : Fld := ⟨0x1100010, 0x0, 31, 31⟩
/-- STR.CNTCLR.ALL [30:30], WO (R479). -/
abbrev STR_CNTCLR_ALL : Fld := ⟨0x1100010, 0x0, 30, 30⟩
/-- STR.CNTCLR.GROUP [5:0], WO (R479). -/
abbrev STR_CNTCLR_GROUP : Fld := ⟨0x1100010, 0x0, 5, 0⟩
/-- STR.CAPS.VERMAX [31:24], RO (R480). -/
abbrev STR_CAPS_VERMAX : Fld := ⟨0x1100100, 0x0, 31, 24⟩
/-- STR.CAPS.VERMIN [23:16], RO (R480). -/
abbrev STR_CAPS_VERMIN : Fld := ⟨0x1100100, 0x0, 23, 16⟩
/-- STR.CAPS.RATES [15:12], RO (R480). -/
abbrev STR_CAPS_RATES : Fld := ⟨0x1100100, 0x0, 15, 12⟩
/-- STR.CAPS.CAPS [7:0], RO (R480). -/
abbrev STR_CAPS_CAPS : Fld := ⟨0x1100100, 0x0, 7, 0⟩
/-- STR.GRPCFG.EN [31:31], SK (R482). -/
abbrev STR_GRPCFG_EN : Fld := ⟨0x1101000, 0x40, 31, 31⟩
/-- STR.GRPCFG.ROLE [30:29], SK (R482). -/
abbrev STR_GRPCFG_ROLE : Fld := ⟨0x1101000, 0x40, 30, 29⟩
/-- STR.GRPCFG.WIDTH [27:24], SK (R482). -/
abbrev STR_GRPCFG_WIDTH : Fld := ⟨0x1101000, 0x40, 27, 24⟩
/-- STR.GRPCFG.MAXRATE [23:22], SK (R482). -/
abbrev STR_GRPCFG_MAXRATE : Fld := ⟨0x1101000, 0x40, 23, 22⟩
/-- STR.GRPCFG.VERFLOOR [21:20], SK (R482). -/
abbrev STR_GRPCFG_VERFLOOR : Fld := ⟨0x1101000, 0x40, 21, 20⟩
/-- STR.GRPCFG.EIALLOW [19:19], SK (R482). -/
abbrev STR_GRPCFG_EIALLOW : Fld := ⟨0x1101000, 0x40, 19, 19⟩
/-- STR.GRPCFG.TAPREQ [18:18], SK (R482). -/
abbrev STR_GRPCFG_TAPREQ : Fld := ⟨0x1101000, 0x40, 18, 18⟩
/-- STR.GRPCFG.PLANE [17:16], SK (R482). -/
abbrev STR_GRPCFG_PLANE : Fld := ⟨0x1101000, 0x40, 17, 16⟩
/-- STR.GRPCFG.EIWAIT [15:8], SK (R482). -/
abbrev STR_GRPCFG_EIWAIT : Fld := ⟨0x1101000, 0x40, 15, 8⟩
/-- STR.GRPSTAT.STATE [31:29], RO (R483). -/
abbrev STR_GRPSTAT_STATE : Fld := ⟨0x1101004, 0x40, 31, 29⟩
/-- STR.GRPSTAT.RATE [28:27], RO (R483). -/
abbrev STR_GRPSTAT_RATE : Fld := ⟨0x1101004, 0x40, 28, 27⟩
/-- STR.GRPSTAT.VER [26:25], RO (R483). -/
abbrev STR_GRPSTAT_VER : Fld := ⟨0x1101004, 0x40, 26, 25⟩
/-- STR.GRPSTAT.DOWNEV [24:24], W1C (R483). -/
abbrev STR_GRPSTAT_DOWNEV : Fld := ⟨0x1101004, 0x40, 24, 24⟩
/-- STR.GRPSTAT.VERFAIL [23:23], W1C (R483). -/
abbrev STR_GRPSTAT_VERFAIL : Fld := ⟨0x1101004, 0x40, 23, 23⟩
/-- STR.GRPSTAT.CFGFAIL [22:22], W1C (R483). -/
abbrev STR_GRPSTAT_CFGFAIL : Fld := ⟨0x1101004, 0x40, 22, 22⟩
/-- STR.GRPSTAT.FALLBACK [21:21], W1C (R483). -/
abbrev STR_GRPSTAT_FALLBACK : Fld := ⟨0x1101004, 0x40, 21, 21⟩
/-- STR.GRPSTAT.REMERR [20:20], W1C (R483). -/
abbrev STR_GRPSTAT_REMERR : Fld := ⟨0x1101004, 0x40, 20, 20⟩
/-- STR.PARTNER.DEVID [31:16], RO (R481). -/
abbrev STR_PARTNER_DEVID : Fld := ⟨0x1101008, 0x40, 31, 16⟩
/-- STR.PARTNER.VERMAX [15:8], RO (R481). -/
abbrev STR_PARTNER_VERMAX : Fld := ⟨0x1101008, 0x40, 15, 8⟩
/-- STR.PARTNER.VERMIN [7:0], RO (R481). -/
abbrev STR_PARTNER_VERMIN : Fld := ⟨0x1101008, 0x40, 7, 0⟩
/-- STR.CRCERR [31:0], RO (R481). -/
abbrev STR_CRCERR : Fld := ⟨0x110100C, 0x40, 31, 0⟩
/-- STR.SEQGAP [31:0], RO (R481). -/
abbrev STR_SEQGAP : Fld := ⟨0x1101010, 0x40, 31, 0⟩
/-- STR.DROPFRM [31:0], RO (R481). -/
abbrev STR_DROPFRM : Fld := ⟨0x1101014, 0x40, 31, 0⟩
/-- STR.ABORTFRM.RX [31:16], RO (R481). -/
abbrev STR_ABORTFRM_RX : Fld := ⟨0x1101018, 0x40, 31, 16⟩
/-- STR.ABORTFRM.TX [15:0], RO (R481). -/
abbrev STR_ABORTFRM_TX : Fld := ⟨0x1101018, 0x40, 15, 0⟩
/-- STR.FRMRXLO [31:0], RO (R481). -/
abbrev STR_FRMRXLO : Fld := ⟨0x110101C, 0x40, 31, 0⟩
/-- STR.FRMRXHI [31:0], RO (R481). -/
abbrev STR_FRMRXHI : Fld := ⟨0x1101020, 0x40, 31, 0⟩
/-- STR.RETRAINS.FULL [31:16], RO (R481). -/
abbrev STR_RETRAINS_FULL : Fld := ⟨0x1101024, 0x40, 31, 16⟩
/-- STR.RETRAINS.RETR [15:0], RO (R481). -/
abbrev STR_RETRAINS_RETR : Fld := ⟨0x1101024, 0x40, 15, 0⟩
/-- STR.LANESTAT.RXDET [31:31], RO (R485). -/
abbrev STR_LANESTAT_RXDET : Fld := ⟨0x1103000, 0x20, 31, 31⟩
/-- STR.LANESTAT.SIGDET [30:30], RO (R485). -/
abbrev STR_LANESTAT_SIGDET : Fld := ⟨0x1103000, 0x20, 30, 30⟩
/-- STR.LANESTAT.SYMLOCK [29:29], RO (R485). -/
abbrev STR_LANESTAT_SYMLOCK : Fld := ⟨0x1103000, 0x20, 29, 29⟩
/-- STR.LANESTAT.POLINV [28:28], RO (R485). -/
abbrev STR_LANESTAT_POLINV : Fld := ⟨0x1103000, 0x20, 28, 28⟩
/-- STR.LANESTAT.EI [27:27], RO (R485). -/
abbrev STR_LANESTAT_EI : Fld := ⟨0x1103000, 0x20, 27, 27⟩
/-- STR.LANESTAT.LANENUM [23:20], RO (R485). -/
abbrev STR_LANESTAT_LANENUM : Fld := ⟨0x1103000, 0x20, 23, 20⟩
/-- STR.LANESTAT.SKEW [7:0], RO (R485). -/
abbrev STR_LANESTAT_SKEW : Fld := ⟨0x1103000, 0x20, 7, 0⟩
/-- STR.CODEERR [31:0], RO (R484). -/
abbrev STR_CODEERR : Fld := ⟨0x1103004, 0x20, 31, 0⟩
/-- STR.TXTAP.MAIN [29:24], RO (R484). -/
abbrev STR_TXTAP_MAIN : Fld := ⟨0x1103008, 0x20, 29, 24⟩
/-- STR.TXTAP.POST [20:16], RO (R484). -/
abbrev STR_TXTAP_POST : Fld := ⟨0x1103008, 0x20, 20, 16⟩
/-- STR.TXTAP.PRE [3:0], RO (R484). -/
abbrev STR_TXTAP_PRE : Fld := ⟨0x1103008, 0x20, 3, 0⟩
/-- STR.TXPRESET.MAIN [29:24], SK (R484). -/
abbrev STR_TXPRESET_MAIN : Fld := ⟨0x110300C, 0x20, 29, 24⟩
/-- STR.TXPRESET.POST [20:16], SK (R484). -/
abbrev STR_TXPRESET_POST : Fld := ⟨0x110300C, 0x20, 20, 16⟩
/-- STR.TXPRESET.PRE [3:0], SK (R484). -/
abbrev STR_TXPRESET_PRE : Fld := ⟨0x110300C, 0x20, 3, 0⟩
/-- STR.RXCTLE [3:0], SK (R484). -/
abbrev STR_RXCTLE : Fld := ⟨0x1103010, 0x20, 3, 0⟩
/-- SVC.CNTCLR.GO [31:31], WO (R519). -/
abbrev SVC_CNTCLR_GO : Fld := ⟨0x1200010, 0x0, 31, 31⟩
/-- SVC.CNTCLR.ALL [30:30], WO (R519). -/
abbrev SVC_CNTCLR_ALL : Fld := ⟨0x1200010, 0x0, 30, 30⟩
/-- SVC.CNTCLR.QUEUES [29:29], WO (R519). -/
abbrev SVC_CNTCLR_QUEUES : Fld := ⟨0x1200010, 0x0, 29, 29⟩
/-- SVC.CNTCLR.SOURCE [9:0], WO (R519). -/
abbrev SVC_CNTCLR_SOURCE : Fld := ⟨0x1200010, 0x0, 9, 0⟩
/-- SVC.HOSTVER.MAJOR [31:24], RO (R520). -/
abbrev SVC_HOSTVER_MAJOR : Fld := ⟨0x1200100, 0x0, 31, 24⟩
/-- SVC.HOSTVER.MINOR [23:16], RO (R520). -/
abbrev SVC_HOSTVER_MINOR : Fld := ⟨0x1200100, 0x0, 23, 16⟩
/-- SVC.HOSTVER.CAPS [15:8], RO (R520). -/
abbrev SVC_HOSTVER_CAPS : Fld := ⟨0x1200100, 0x0, 15, 8⟩
/-- SVC.HOSTVER.DEVCAPS [7:0], RO (R520). -/
abbrev SVC_HOSTVER_DEVCAPS : Fld := ⟨0x1200100, 0x0, 7, 0⟩
/-- SVC.HOSTACK.SOURCE [9:0], WO (R520). -/
abbrev SVC_HOSTACK_SOURCE : Fld := ⟨0x1200104, 0x0, 9, 0⟩
/-- SVC.RINGCFG.EN [31:31], RW (R520). -/
abbrev SVC_RINGCFG_EN : Fld := ⟨0x1200108, 0x0, 31, 31⟩
/-- SVC.RINGCFG.LOG2 [3:0], RW (R520). -/
abbrev SVC_RINGCFG_LOG2 : Fld := ⟨0x1200108, 0x0, 3, 0⟩
/-- SVC.SQTAIL [11:0], WO (R520). -/
abbrev SVC_SQTAIL : Fld := ⟨0x120010C, 0x0, 11, 0⟩
/-- SVC.CQHEAD [11:0], WO (R520). -/
abbrev SVC_CQHEAD : Fld := ⟨0x1200110, 0x0, 11, 0⟩
/-- SVC.SQHEAD [11:0], RO (R520). -/
abbrev SVC_SQHEAD : Fld := ⟨0x1200114, 0x0, 11, 0⟩
/-- SVC.SQBASELO [31:0], RW (R520). -/
abbrev SVC_SQBASELO : Fld := ⟨0x1200118, 0x0, 31, 0⟩
/-- SVC.SQBASEHI [31:0], RW (R520). -/
abbrev SVC_SQBASEHI : Fld := ⟨0x120011C, 0x0, 31, 0⟩
/-- SVC.CQBASELO [31:0], RW (R520). -/
abbrev SVC_CQBASELO : Fld := ⟨0x1200120, 0x0, 31, 0⟩
/-- SVC.CQBASEHI [31:0], RW (R520). -/
abbrev SVC_CQBASEHI : Fld := ⟨0x1200124, 0x0, 31, 0⟩
/-- SVC.MGMTAUTHF [31:0], RO (R520). -/
abbrev SVC_MGMTAUTHF : Fld := ⟨0x1200128, 0x0, 31, 0⟩
/-- SVC.ICGLOBAL.DIS [31:31], RW (R520). -/
abbrev SVC_ICGLOBAL_DIS : Fld := ⟨0x1200200, 0x0, 31, 31⟩
/-- SVC.ICGLOBAL.STORMWIN [15:0], RW (R520). -/
abbrev SVC_ICGLOBAL_STORMWIN : Fld := ⟨0x1200200, 0x0, 15, 0⟩
/-- SVC.EVOUT [31:0], RW (R520). -/
abbrev SVC_EVOUT : Fld := ⟨0x1200300, 0x4, 31, 0⟩
/-- SVC.EVIN [31:0], RO (R520). -/
abbrev SVC_EVIN : Fld := ⟨0x1200310, 0x4, 31, 0⟩
/-- SVC.CLAIM.VALID [31:31], RO (R523). -/
abbrev SVC_CLAIM_VALID : Fld := ⟨0x1201000, 0x100, 31, 31⟩
/-- SVC.CLAIM.SOURCE [9:0], RO (R523). -/
abbrev SVC_CLAIM_SOURCE : Fld := ⟨0x1201000, 0x100, 9, 0⟩
/-- SVC.COMPLETE.SOURCE [9:0], WO (R523). -/
abbrev SVC_COMPLETE_SOURCE : Fld := ⟨0x1201004, 0x100, 9, 0⟩
/-- SVC.THRESH [3:0], RW (R523). -/
abbrev SVC_THRESH : Fld := ⟨0x1201008, 0x100, 3, 0⟩
/-- SVC.STACK.DEPTH [31:28], RO (R523). -/
abbrev SVC_STACK_DEPTH : Fld := ⟨0x120100C, 0x100, 31, 28⟩
/-- SVC.STACK.TOP [9:0], RO (R523). -/
abbrev SVC_STACK_TOP : Fld := ⟨0x120100C, 0x100, 9, 0⟩
/-- SVC.TAKE.VALID [31:31], RO (R523). -/
abbrev SVC_TAKE_VALID : Fld := ⟨0x1201010, 0x100, 31, 31⟩
/-- SVC.TAKE.QUEUE [7:0], RO (R523). -/
abbrev SVC_TAKE_QUEUE : Fld := ⟨0x1201010, 0x100, 7, 0⟩
/-- SVC.DONE.DONE [31:31], WO (R523). -/
abbrev SVC_DONE_DONE : Fld := ⟨0x1201014, 0x100, 31, 31⟩
/-- SVC.CORESTAT.READY [31:31], RW (R524). -/
abbrev SVC_CORESTAT_READY : Fld := ⟨0x1201018, 0x100, 31, 31⟩
/-- SVC.CORESTAT.HOLDING [30:30], RO (R524). -/
abbrev SVC_CORESTAT_HOLDING : Fld := ⟨0x1201018, 0x100, 30, 30⟩
/-- SVC.CORESTAT.INFAST [29:29], RO (R524). -/
abbrev SVC_CORESTAT_INFAST : Fld := ⟨0x1201018, 0x100, 29, 29⟩
/-- SVC.CORESTAT.OOO [28:28], W1C (R524). -/
abbrev SVC_CORESTAT_OOO : Fld := ⟨0x1201018, 0x100, 28, 28⟩
/-- SVC.CORESTAT.OVERRUN [27:27], W1C (R524). -/
abbrev SVC_CORESTAT_OVERRUN : Fld := ⟨0x1201018, 0x100, 27, 27⟩
/-- SVC.CORESTAT.CORERST [26:26], W1C (R524). -/
abbrev SVC_CORESTAT_CORERST : Fld := ⟨0x1201018, 0x100, 26, 26⟩
/-- SVC.CORESTAT.LASTQ [7:0], RO (R524). -/
abbrev SVC_CORESTAT_LASTQ : Fld := ⟨0x1201018, 0x100, 7, 0⟩
/-- SVC.SRCCFG.EN [31:31], SK (R521). -/
abbrev SVC_SRCCFG_EN : Fld := ⟨0x1204000, 0x10, 31, 31⟩
/-- SVC.SRCCFG.SENSE [30:29], SK (R521). -/
abbrev SVC_SRCCFG_SENSE : Fld := ⟨0x1204000, 0x10, 30, 29⟩
/-- SVC.SRCCFG.INV [28:28], SK (R521). -/
abbrev SVC_SRCCFG_INV : Fld := ⟨0x1204000, 0x10, 28, 28⟩
/-- SVC.SRCCFG.FAST [27:27], SK (R521). -/
abbrev SVC_SRCCFG_FAST : Fld := ⟨0x1204000, 0x10, 27, 27⟩
/-- SVC.SRCCFG.PRIO [26:23], SK (R521). -/
abbrev SVC_SRCCFG_PRIO : Fld := ⟨0x1204000, 0x10, 26, 23⟩
/-- SVC.SRCCFG.KIND [22:21], SK (R521). -/
abbrev SVC_SRCCFG_KIND : Fld := ⟨0x1204000, 0x10, 22, 21⟩
/-- SVC.SRCCFG.TARGET [20:13], SK (R521). -/
abbrev SVC_SRCCFG_TARGET : Fld := ⟨0x1204000, 0x10, 20, 13⟩
/-- SVC.SRCCFG.MASK [0:0], RW (R521). -/
abbrev SVC_SRCCFG_MASK : Fld := ⟨0x1204000, 0x10, 0, 0⟩
/-- SVC.SRCSTAT.PEND [31:31], RO (R522). -/
abbrev SVC_SRCSTAT_PEND : Fld := ⟨0x1204004, 0x10, 31, 31⟩
/-- SVC.SRCSTAT.INSVC [30:30], RO (R522). -/
abbrev SVC_SRCSTAT_INSVC : Fld := ⟨0x1204004, 0x10, 30, 30⟩
/-- SVC.SRCSTAT.STORM [29:29], W1C (R522). -/
abbrev SVC_SRCSTAT_STORM : Fld := ⟨0x1204004, 0x10, 29, 29⟩
/-- SVC.SRCSTAT.LOST [28:28], W1C (R522). -/
abbrev SVC_SRCSTAT_LOST : Fld := ⟨0x1204004, 0x10, 28, 28⟩
/-- SVC.SRCSTAT.LEVEL [27:27], RO (R522). -/
abbrev SVC_SRCSTAT_LEVEL : Fld := ⟨0x1204004, 0x10, 27, 27⟩
/-- SVC.SRCSTAT.EDGECNT [15:0], RO (R522). -/
abbrev SVC_SRCSTAT_EDGECNT : Fld := ⟨0x1204004, 0x10, 15, 0⟩
/-- SVC.STORMCFG.EDGEMAX [31:16], SK (R521). -/
abbrev SVC_STORMCFG_EDGEMAX : Fld := ⟨0x1204008, 0x10, 31, 16⟩
/-- SVC.STORMCFG.LEVELMAX [15:0], SK (R521). -/
abbrev SVC_STORMCFG_LEVELMAX : Fld := ⟨0x1204008, 0x10, 15, 0⟩
/-- SVC.COALCFG.COALCNT [31:24], SK (R521). -/
abbrev SVC_COALCFG_COALCNT : Fld := ⟨0x120400C, 0x10, 31, 24⟩
/-- SVC.COALCFG.COALUS [19:0], SK (R521). -/
abbrev SVC_COALCFG_COALUS : Fld := ⟨0x120400C, 0x10, 19, 0⟩
/-- SVC.WQCFG.EN [31:31], SK (R525). -/
abbrev SVC_WQCFG_EN : Fld := ⟨0x1208000, 0x20, 31, 31⟩
/-- SVC.WQCFG.PRIO [30:28], SK (R525). -/
abbrev SVC_WQCFG_PRIO : Fld := ⟨0x1208000, 0x20, 30, 28⟩
/-- SVC.WQCFG.DEPTH [23:16], SK (R525). -/
abbrev SVC_WQCFG_DEPTH : Fld := ⟨0x1208000, 0x20, 23, 16⟩
/-- SVC.WQCFG.CORES [15:0], SK (R525). -/
abbrev SVC_WQCFG_CORES : Fld := ⟨0x1208000, 0x20, 15, 0⟩
/-- SVC.WQSTAT.REJECT [31:31], W1C (R525). -/
abbrev SVC_WQSTAT_REJECT : Fld := ⟨0x1208004, 0x20, 31, 31⟩
/-- SVC.WQSTAT.DISCARD [23:16], RO (R525). -/
abbrev SVC_WQSTAT_DISCARD : Fld := ⟨0x1208004, 0x20, 23, 16⟩
/-- SVC.WQSTAT.LASTCORE [15:12], RO (R525). -/
abbrev SVC_WQSTAT_LASTCORE : Fld := ⟨0x1208004, 0x20, 15, 12⟩
/-- SVC.WQSTAT.COUNT [8:0], RO (R525). -/
abbrev SVC_WQSTAT_COUNT : Fld := ⟨0x1208004, 0x20, 8, 0⟩
/-- SVC.ENQ [31:0], WO (R525). -/
abbrev SVC_ENQ : Fld := ⟨0x1208008, 0x4, 31, 0⟩
/-- SVC.WQTIME.AFFWAIT [31:24], SK (R525). -/
abbrev SVC_WQTIME_AFFWAIT : Fld := ⟨0x1208018, 0x20, 31, 24⟩
/-- SVC.WQTIME.ITEMUS [23:0], SK (R525). -/
abbrev SVC_WQTIME_ITEMUS : Fld := ⟨0x1208018, 0x20, 23, 0⟩
/-- SVC.EVCFG.DIR [31:31], SK (R526). -/
abbrev SVC_EVCFG_DIR : Fld := ⟨0x120C000, 0x10, 31, 31⟩
/-- SVC.EVCFG.OSRC [30:28], SK (R526). -/
abbrev SVC_EVCFG_OSRC : Fld := ⟨0x120C000, 0x10, 30, 28⟩
/-- SVC.EVCFG.PLANE [27:26], SK (R526). -/
abbrev SVC_EVCFG_PLANE : Fld := ⟨0x120C000, 0x10, 27, 26⟩
/-- SVC.EVCFG.ARG [9:0], SK (R526). -/
abbrev SVC_EVCFG_ARG : Fld := ⟨0x120C000, 0x10, 9, 0⟩
/-- SVC.MSIXTAB [31:0], RW (R502). -/
abbrev SVC_MSIXTAB : Fld := ⟨0x120F000, 0x4, 31, 0⟩
/-- SVC.MSIXPBA [31:0], RO (R502). -/
abbrev SVC_MSIXPBA : Fld := ⟨0x120F800, 0x4, 31, 0⟩
/-- REEL.HEADLO [31:0], RO (R527). -/
abbrev REEL_HEADLO : Fld := ⟨0x1300100, 0x0, 31, 0⟩
/-- REEL.HEADHI [15:0], RO (R527). -/
abbrev REEL_HEADHI : Fld := ⟨0x1300104, 0x0, 15, 0⟩
/-- REEL.FLUSHLO [31:0], RO (R527). -/
abbrev REEL_FLUSHLO : Fld := ⟨0x1300108, 0x0, 31, 0⟩
/-- REEL.FLUSHHI [15:0], RO (R527). -/
abbrev REEL_FLUSHHI : Fld := ⟨0x130010C, 0x0, 15, 0⟩
/-- REEL.OLDLO [31:0], RO (R527). -/
abbrev REEL_OLDLO : Fld := ⟨0x1300110, 0x0, 31, 0⟩
/-- REEL.OLDHI [15:0], RO (R527). -/
abbrev REEL_OLDHI : Fld := ⟨0x1300114, 0x0, 15, 0⟩
/-- REEL.REELSTAT.MIRROR [31:31], RO (R527). -/
abbrev REEL_REELSTAT_MIRROR : Fld := ⟨0x1300118, 0x0, 31, 31⟩
/-- REEL.REELSTAT.PENDING [10:0], RO (R527). -/
abbrev REEL_REELSTAT_PENDING : Fld := ⟨0x1300118, 0x0, 10, 0⟩
/-- REEL.RDSEQLO [31:0], RW (R527). -/
abbrev REEL_RDSEQLO : Fld := ⟨0x1300120, 0x0, 31, 0⟩
/-- REEL.RDSEQHI [15:0], RW (R527). -/
abbrev REEL_RDSEQHI : Fld := ⟨0x1300124, 0x0, 15, 0⟩
/-- REEL.RDSTAT.BUSY [31:31], RO (R527). -/
abbrev REEL_RDSTAT_BUSY : Fld := ⟨0x1300128, 0x0, 31, 31⟩
/-- REEL.RDSTAT.VALID [30:30], RO (R527). -/
abbrev REEL_RDSTAT_VALID : Fld := ⟨0x1300128, 0x0, 30, 30⟩
/-- REEL.RDSTAT.NAND [29:29], RO (R527). -/
abbrev REEL_RDSTAT_NAND : Fld := ⟨0x1300128, 0x0, 29, 29⟩
/-- REEL.RDSTAT.NOTFOUND [28:28], W1C (R527). -/
abbrev REEL_RDSTAT_NOTFOUND : Fld := ⟨0x1300128, 0x0, 28, 28⟩
/-- REEL.RDSTAT.COLLIDE [27:27], W1C (R527). -/
abbrev REEL_RDSTAT_COLLIDE : Fld := ⟨0x1300128, 0x0, 27, 27⟩
/-- REEL.TOKLO [31:0], RW (R527). -/
abbrev REEL_TOKLO : Fld := ⟨0x1300130, 0x0, 31, 0⟩
/-- REEL.TOKHI [31:0], RW (R527). -/
abbrev REEL_TOKHI : Fld := ⟨0x1300134, 0x0, 31, 0⟩
/-- REEL.TOKQUERY.GO [31:31], WO (R527). -/
abbrev REEL_TOKQUERY_GO : Fld := ⟨0x1300138, 0x0, 31, 31⟩
/-- REEL.TOKQUERY.ORIGIN [7:0], WO (R527). -/
abbrev REEL_TOKQUERY_ORIGIN : Fld := ⟨0x1300138, 0x0, 7, 0⟩
/-- REEL.ENTRY [31:0], RO (R527). -/
abbrev REEL_ENTRY : Fld := ⟨0x1301000, 0x4, 31, 0⟩
/-- SAF.CNTCLR.GO [31:31], WO (R558). -/
abbrev SAF_CNTCLR_GO : Fld := ⟨0x1400010, 0x0, 31, 31⟩
/-- SAF.PINCTL.SAFEREL [1:1], WO (R558). -/
abbrev SAF_PINCTL_SAFEREL : Fld := ⟨0x1400020, 0x0, 1, 1⟩
/-- SAF.PINCTL.FAULTACK [0:0], WO (R558). -/
abbrev SAF_PINCTL_FAULTACK : Fld := ⟨0x1400020, 0x0, 0, 0⟩
/-- SAF.PINSTAT.FAULT_N [31:31], RO (R558). -/
abbrev SAF_PINSTAT_FAULT_N : Fld := ⟨0x1400024, 0x0, 31, 31⟩
/-- SAF.PINSTAT.SAFE_STATE [30:30], RO (R558). -/
abbrev SAF_PINSTAT_SAFE_STATE : Fld := ⟨0x1400024, 0x0, 30, 30⟩
/-- SAF.PINSTAT.LEVEL [29:27], RO (R558). -/
abbrev SAF_PINSTAT_LEVEL : Fld := ⟨0x1400024, 0x0, 29, 27⟩
/-- SAF.FIRSTREC0.VALID [31:31], W1C (R559). -/
abbrev SAF_FIRSTREC0_VALID : Fld := ⟨0x1400100, 0x0, 31, 31⟩
/-- SAF.FIRSTREC0.LEVEL [30:28], RO (R559). -/
abbrev SAF_FIRSTREC0_LEVEL : Fld := ⟨0x1400100, 0x0, 30, 28⟩
/-- SAF.FIRSTREC0.CLASS [27:24], RO (R559). -/
abbrev SAF_FIRSTREC0_CLASS : Fld := ⟨0x1400100, 0x0, 27, 24⟩
/-- SAF.FIRSTREC0.DOMAIN [23:19], RO (R559). -/
abbrev SAF_FIRSTREC0_DOMAIN : Fld := ⟨0x1400100, 0x0, 23, 19⟩
/-- SAF.FIRSTREC0.BLOCK [18:14], RO (R559). -/
abbrev SAF_FIRSTREC0_BLOCK : Fld := ⟨0x1400100, 0x0, 18, 14⟩
/-- SAF.FIRSTREC0.CAUSE [13:8], RO (R559). -/
abbrev SAF_FIRSTREC0_CAUSE : Fld := ⟨0x1400100, 0x0, 13, 8⟩
/-- SAF.FIRSTREC0.PVALID [2:2], RO (R559). -/
abbrev SAF_FIRSTREC0_PVALID : Fld := ⟨0x1400100, 0x0, 2, 2⟩
/-- SAF.FIRSTREC0.PLANE [1:0], RO (R559). -/
abbrev SAF_FIRSTREC0_PLANE : Fld := ⟨0x1400100, 0x0, 1, 0⟩
/-- SAF.FIRSTREC1.TURN [31:16], RO (R559). -/
abbrev SAF_FIRSTREC1_TURN : Fld := ⟨0x1400104, 0x0, 31, 16⟩
/-- SAF.FIRSTREC1.UNIT [11:0], RO (R559). -/
abbrev SAF_FIRSTREC1_UNIT : Fld := ⟨0x1400104, 0x0, 11, 0⟩
/-- SAF.FIRSTREC2.NS [31:0], RO (R559). -/
abbrev SAF_FIRSTREC2_NS : Fld := ⟨0x1400108, 0x0, 31, 0⟩
/-- SAF.FIRSTREC3.ESC [31:31], RO (R559). -/
abbrev SAF_FIRSTREC3_ESC : Fld := ⟨0x140010C, 0x0, 31, 31⟩
/-- SAF.FIRSTREC3.TCLASS [27:24], RO (R559). -/
abbrev SAF_FIRSTREC3_TCLASS : Fld := ⟨0x140010C, 0x0, 27, 24⟩
/-- SAF.FIRSTREC3.REPEAT [15:0], RO (R559). -/
abbrev SAF_FIRSTREC3_REPEAT : Fld := ⟨0x140010C, 0x0, 15, 0⟩
/-- SAF.SECONDREC0.VALID [31:31], W1C (R559). -/
abbrev SAF_SECONDREC0_VALID : Fld := ⟨0x1400110, 0x0, 31, 31⟩
/-- SAF.SECONDREC0.LEVEL [30:28], RO (R559). -/
abbrev SAF_SECONDREC0_LEVEL : Fld := ⟨0x1400110, 0x0, 30, 28⟩
/-- SAF.SECONDREC0.CLASS [27:24], RO (R559). -/
abbrev SAF_SECONDREC0_CLASS : Fld := ⟨0x1400110, 0x0, 27, 24⟩
/-- SAF.SECONDREC0.DOMAIN [23:19], RO (R559). -/
abbrev SAF_SECONDREC0_DOMAIN : Fld := ⟨0x1400110, 0x0, 23, 19⟩
/-- SAF.SECONDREC0.BLOCK [18:14], RO (R559). -/
abbrev SAF_SECONDREC0_BLOCK : Fld := ⟨0x1400110, 0x0, 18, 14⟩
/-- SAF.SECONDREC0.CAUSE [13:8], RO (R559). -/
abbrev SAF_SECONDREC0_CAUSE : Fld := ⟨0x1400110, 0x0, 13, 8⟩
/-- SAF.SECONDREC0.PVALID [2:2], RO (R559). -/
abbrev SAF_SECONDREC0_PVALID : Fld := ⟨0x1400110, 0x0, 2, 2⟩
/-- SAF.SECONDREC0.PLANE [1:0], RO (R559). -/
abbrev SAF_SECONDREC0_PLANE : Fld := ⟨0x1400110, 0x0, 1, 0⟩
/-- SAF.SECONDREC1.TURN [31:16], RO (R559). -/
abbrev SAF_SECONDREC1_TURN : Fld := ⟨0x1400114, 0x0, 31, 16⟩
/-- SAF.SECONDREC1.UNIT [11:0], RO (R559). -/
abbrev SAF_SECONDREC1_UNIT : Fld := ⟨0x1400114, 0x0, 11, 0⟩
/-- SAF.SECONDREC2.NS [31:0], RO (R559). -/
abbrev SAF_SECONDREC2_NS : Fld := ⟨0x1400118, 0x0, 31, 0⟩
/-- SAF.SECONDREC3.ESC [31:31], RO (R559). -/
abbrev SAF_SECONDREC3_ESC : Fld := ⟨0x140011C, 0x0, 31, 31⟩
/-- SAF.SECONDREC3.TCLASS [27:24], RO (R559). -/
abbrev SAF_SECONDREC3_TCLASS : Fld := ⟨0x140011C, 0x0, 27, 24⟩
/-- SAF.SECONDREC3.REPEAT [15:0], RO (R559). -/
abbrev SAF_SECONDREC3_REPEAT : Fld := ⟨0x140011C, 0x0, 15, 0⟩
/-- SAF.FURTHER [31:0], RO (R559). -/
abbrev SAF_FURTHER : Fld := ⟨0x1400120, 0x0, 31, 0⟩
/-- SAF.L0CNT [31:0], RO (R559). -/
abbrev SAF_L0CNT : Fld := ⟨0x1400124, 0x0, 31, 0⟩
/-- SAF.DOMSTAT.LEVEL [31:29], RO (R560). -/
abbrev SAF_DOMSTAT_LEVEL : Fld := ⟨0x1400200, 0x4, 31, 29⟩
/-- SAF.DOMSTAT.BLOCK [28:24], RO (R560). -/
abbrev SAF_DOMSTAT_BLOCK : Fld := ⟨0x1400200, 0x4, 28, 24⟩
/-- SAF.DOMSTAT.CAUSE [23:18], RO (R560). -/
abbrev SAF_DOMSTAT_CAUSE : Fld := ⟨0x1400200, 0x4, 23, 18⟩
/-- SAF.DOMSTAT.REPEATS [15:0], RO (R560). -/
abbrev SAF_DOMSTAT_REPEATS : Fld := ⟨0x1400200, 0x4, 15, 0⟩
/-- SAF.STQ.COUNT [31:28], RO (R561). -/
abbrev SAF_STQ_COUNT : Fld := ⟨0x1400300, 0x0, 31, 28⟩
/-- SAF.STQ.RUNNING [27:27], RO (R561). -/
abbrev SAF_STQ_RUNNING : Fld := ⟨0x1400300, 0x0, 27, 27⟩
/-- SAF.STQ.COL [26:23], RO (R561). -/
abbrev SAF_STQ_COL : Fld := ⟨0x1400300, 0x0, 26, 23⟩
/-- SAF.STQ.ESCAL [15:0], RO (R561). -/
abbrev SAF_STQ_ESCAL : Fld := ⟨0x1400300, 0x0, 15, 0⟩
/-- SAF.PTSTAT.PAUSED [31:31], RO (R561). -/
abbrev SAF_PTSTAT_PAUSED : Fld := ⟨0x1400304, 0x0, 31, 31⟩
/-- SAF.PTSTAT.OVERDUE [30:30], W1C (R561). -/
abbrev SAF_PTSTAT_OVERDUE : Fld := ⟨0x1400304, 0x0, 30, 30⟩
/-- SAF.PTSTAT.NEXT [27:24], RO (R561). -/
abbrev SAF_PTSTAT_NEXT : Fld := ⟨0x1400304, 0x0, 27, 24⟩
/-- SAF.PTSTAT.VISITS [15:0], RO (R561). -/
abbrev SAF_PTSTAT_VISITS : Fld := ⟨0x1400304, 0x0, 15, 0⟩
/-- SAF.SHEDRANK [31:0], SK (R561). -/
abbrev SAF_SHEDRANK : Fld := ⟨0x1400310, 0x4, 31, 0⟩
/-- SAF.SHEDSTAT [15:0], RO (R561). -/
abbrev SAF_SHEDSTAT : Fld := ⟨0x1400318, 0x0, 15, 0⟩
/-- SAF.RETIRED [15:0], RWS (R561). -/
abbrev SAF_RETIRED : Fld := ⟨0x1400320, 0x0, 15, 0⟩
/-- SAF.COLSTAT.STATE [31:29], RO (R562). -/
abbrev SAF_COLSTAT_STATE : Fld := ⟨0x1400400, 0x4, 31, 29⟩
/-- SAF.COLSTAT.PVALID [28:28], RO (R562). -/
abbrev SAF_COLSTAT_PVALID : Fld := ⟨0x1400400, 0x4, 28, 28⟩
/-- SAF.COLSTAT.PCOL [27:24], RO (R562). -/
abbrev SAF_COLSTAT_PCOL : Fld := ⟨0x1400400, 0x4, 27, 24⟩
/-- SAF.COLSTAT.TRANS24 [23:20], RO, kept over a warm reset (R562). -/
abbrev SAF_COLSTAT_TRANS24 : Fld := ⟨0x1400400, 0x4, 23, 20⟩
/-- SAF.COLSTAT.LASTV [19:18], RO (R562). -/
abbrev SAF_COLSTAT_LASTV : Fld := ⟨0x1400400, 0x4, 19, 18⟩
/-- SAF.COLSTAT.PTAGE [15:0], RO (R562). -/
abbrev SAF_COLSTAT_PTAGE : Fld := ⟨0x1400400, 0x4, 15, 0⟩
/-- SAF.CVUSTAT.MISM [31:16], RO (R563). -/
abbrev SAF_CVUSTAT_MISM : Fld := ⟨0x1401000, 0x4, 31, 16⟩
/-- SAF.CVUSTAT.SEEDED [6:0], RO (R563). -/
abbrev SAF_CVUSTAT_SEEDED : Fld := ⟨0x1401000, 0x4, 6, 0⟩
/-- SEC.LCSTAT.LCS [31:30], RO (R594). -/
abbrev SEC_LCSTAT_LCS : Fld := ⟨0x1500100, 0x0, 31, 30⟩
/-- SEC.LCSTAT.KREVOKE [23:16], RO (R594). -/
abbrev SEC_LCSTAT_KREVOKE : Fld := ⟨0x1500100, 0x0, 23, 16⟩
/-- SEC.LCSTAT.KVALID [15:8], RO (R594). -/
abbrev SEC_LCSTAT_KVALID : Fld := ⟨0x1500100, 0x0, 15, 8⟩
/-- SEC.LCSTAT.FUSEDVER [6:0], RO (R594). -/
abbrev SEC_LCSTAT_FUSEDVER : Fld := ⟨0x1500100, 0x0, 6, 0⟩
/-- SEC.KROLE [31:0], RO (R595). -/
abbrev SEC_KROLE : Fld := ⟨0x1500104, 0x0, 31, 0⟩
/-- SEC.DEVSNLO [31:0], RO (R595). -/
abbrev SEC_DEVSNLO : Fld := ⟨0x1500108, 0x0, 31, 0⟩
/-- SEC.DEVSNHI [31:0], RO (R595). -/
abbrev SEC_DEVSNHI : Fld := ⟨0x150010C, 0x0, 31, 0⟩
/-- SEC.POLICY.DBGCAP [31:30], SK (R596). -/
abbrev SEC_POLICY_DBGCAP : Fld := ⟨0x1500110, 0x0, 31, 30⟩
/-- SEC.POLICY.AUTOROLL [29:29], SK (R596). -/
abbrev SEC_POLICY_AUTOROLL : Fld := ⟨0x1500110, 0x0, 29, 29⟩
/-- SEC.DBGSTAT.LEVEL [31:30], RO (R597). -/
abbrev SEC_DBGSTAT_LEVEL : Fld := ⟨0x1500120, 0x0, 31, 30⟩
/-- SEC.DBGSTAT.PENDLVL [29:28], RO (R597). -/
abbrev SEC_DBGSTAT_PENDLVL : Fld := ⟨0x1500120, 0x0, 29, 28⟩
/-- SEC.DBGSTAT.PENDING [27:27], RO (R597). -/
abbrev SEC_DBGSTAT_PENDING : Fld := ⟨0x1500120, 0x0, 27, 27⟩
/-- SEC.DBGSTAT.AUTHFAIL [26:26], W1C (R597). -/
abbrev SEC_DBGSTAT_AUTHFAIL : Fld := ⟨0x1500120, 0x0, 26, 26⟩
/-- SEC.DBGSTAT.ZEROISED [25:25], W1C (R597). -/
abbrev SEC_DBGSTAT_ZEROISED : Fld := ⟨0x1500120, 0x0, 25, 25⟩
/-- SEC.DBGSTAT.LOCKOUT [24:24], RO (R597). -/
abbrev SEC_DBGSTAT_LOCKOUT : Fld := ⟨0x1500120, 0x0, 24, 24⟩
/-- SEC.DBGSTAT.REMAIN [16:0], RO (R597). -/
abbrev SEC_DBGSTAT_REMAIN : Fld := ⟨0x1500120, 0x0, 16, 0⟩
/-- SEC.NONCE [31:0], RO (R598). -/
abbrev SEC_NONCE : Fld := ⟨0x1500140, 0x4, 31, 0⟩
/-- SEC.DBGCTL.RELEASE [0:0], WO (R598). -/
abbrev SEC_DBGCTL_RELEASE : Fld := ⟨0x1500180, 0x0, 0, 0⟩
/-- SEC.KHASH [31:0], RO (R595). -/
abbrev SEC_KHASH : Fld := ⟨0x1500200, 0x4, 31, 0⟩
/-- SEC.TOKEN [31:0], WO (R598). -/
abbrev SEC_TOKEN : Fld := ⟨0x1500400, 0x4, 31, 0⟩
/-- SEC.LCREQ [31:0], WO (R598). -/
abbrev SEC_LCREQ : Fld := ⟨0x1500500, 0x4, 31, 0⟩
/-- SEC.KSSTAT.TYPE [31:28], RO (R599). -/
abbrev SEC_KSSTAT_TYPE : Fld := ⟨0x1501000, 0x4, 31, 28⟩
/-- SEC.KSSTAT.LOADED [27:27], RO (R599). -/
abbrev SEC_KSSTAT_LOADED : Fld := ⟨0x1501000, 0x4, 27, 27⟩
/-- SEC.KSSTAT.PEND [26:26], RO (R599). -/
abbrev SEC_KSSTAT_PEND : Fld := ⟨0x1501000, 0x4, 26, 26⟩
/-- SEC.KSSTAT.KSFLT [25:25], W1C (R599). -/
abbrev SEC_KSSTAT_KSFLT : Fld := ⟨0x1501000, 0x4, 25, 25⟩
/-- SEC.KSGEN [31:0], RO (R599). -/
abbrev SEC_KSGEN : Fld := ⟨0x1501800, 0x4, 31, 0⟩
/-- PWR.PWRSTAT.STATE [31:29], RO (R600). -/
abbrev PWR_PWRSTAT_STATE : Fld := ⟨0x1600100, 0x0, 31, 29⟩
/-- PWR.PWRSTAT.TARGET [28:26], RO (R600). -/
abbrev PWR_PWRSTAT_TARGET : Fld := ⟨0x1600100, 0x0, 28, 26⟩
/-- PWR.PWRSTAT.BUSY [25:25], RO (R600). -/
abbrev PWR_PWRSTAT_BUSY : Fld := ⟨0x1600100, 0x0, 25, 25⟩
/-- PWR.PWRSTAT.P3WAKE [24:24], W1C (R600). -/
abbrev PWR_PWRSTAT_P3WAKE : Fld := ⟨0x1600100, 0x0, 24, 24⟩
/-- PWR.PWRSTAT.P4FAIL [23:23], W1C (R600). -/
abbrev PWR_PWRSTAT_P4FAIL : Fld := ⟨0x1600100, 0x0, 23, 23⟩
/-- PWR.P1CFG.EN [31:31], SK (R601). -/
abbrev PWR_P1CFG_EN : Fld := ⟨0x1600104, 0x0, 31, 31⟩
/-- PWR.P1CFG.VARIANT [3:0], SK (R601). -/
abbrev PWR_P1CFG_VARIANT : Fld := ⟨0x1600104, 0x0, 3, 0⟩
/-- PWR.WAKECFG.TOP2 [31:31], RWS (R601). -/
abbrev PWR_WAKECFG_TOP2 : Fld := ⟨0x1600108, 0x0, 31, 31⟩
/-- PWR.WAKECFG.TIMEREN [30:30], RWS (R601). -/
abbrev PWR_WAKECFG_TIMEREN : Fld := ⟨0x1600108, 0x0, 30, 30⟩
/-- PWR.WAKECFG.EVS [7:0], RWS (R601). -/
abbrev PWR_WAKECFG_EVS : Fld := ⟨0x1600108, 0x0, 7, 0⟩
/-- PWR.WAKETIME [31:0], RWS (R601). -/
abbrev PWR_WAKETIME : Fld := ⟨0x160010C, 0x0, 31, 0⟩
/-- PLY.PLYCFG.EN [31:31], SK (R630). -/
abbrev PLY_PLYCFG_EN : Fld := ⟨0x1700100, 0x0, 31, 31⟩
/-- PLY.PLYCFG.MODE [30:29], SK (R630). -/
abbrev PLY_PLYCFG_MODE : Fld := ⟨0x1700100, 0x0, 30, 29⟩
/-- PLY.PLYCFG.PRIMARY [28:28], SK (R630). -/
abbrev PLY_PLYCFG_PRIMARY : Fld := ⟨0x1700100, 0x0, 28, 28⟩
/-- PLY.PLYCFG.REVERT [27:27], SK (R630). -/
abbrev PLY_PLYCFG_REVERT : Fld := ⟨0x1700100, 0x0, 27, 27⟩
/-- PLY.PLYCFG.REFPLANE [26:25], SK (R630). -/
abbrev PLY_PLYCFG_REFPLANE : Fld := ⟨0x1700100, 0x0, 26, 25⟩
/-- PLY.PLYCFG.GROUP [23:18], SK (R630). -/
abbrev PLY_PLYCFG_GROUP : Fld := ⟨0x1700100, 0x0, 23, 18⟩
/-- PLY.PLYCFG.PATHDLY [15:0], SK (R630). -/
abbrev PLY_PLYCFG_PATHDLY : Fld := ⟨0x1700100, 0x0, 15, 0⟩
/-- PLY.PLYSTAT.ROLE [31:29], RO (R631). -/
abbrev PLY_PLYSTAT_ROLE : Fld := ⟨0x1700104, 0x0, 31, 29⟩
/-- PLY.PLYSTAT.LEASE [28:28], RO (R631). -/
abbrev PLY_PLYSTAT_LEASE : Fld := ⟨0x1700104, 0x0, 28, 28⟩
/-- PLY.PLYSTAT.PATHA [27:27], RO (R631). -/
abbrev PLY_PLYSTAT_PATHA : Fld := ⟨0x1700104, 0x0, 27, 27⟩
/-- PLY.PLYSTAT.PATHB [26:26], RO (R631). -/
abbrev PLY_PLYSTAT_PATHB : Fld := ⟨0x1700104, 0x0, 26, 26⟩
/-- PLY.PLYSTAT.PARTNER [25:25], RO (R631). -/
abbrev PLY_PLYSTAT_PARTNER : Fld := ⟨0x1700104, 0x0, 25, 25⟩
/-- PLY.PLYSTAT.INSTEP [24:24], RO (R631). -/
abbrev PLY_PLYSTAT_INSTEP : Fld := ⟨0x1700104, 0x0, 24, 24⟩
/-- PLY.PLYSTAT.WARM [23:23], RO (R631). -/
abbrev PLY_PLYSTAT_WARM : Fld := ⟨0x1700104, 0x0, 23, 23⟩
/-- PLY.PLYSTAT.FAILEV [22:22], W1C (R631). -/
abbrev PLY_PLYSTAT_FAILEV : Fld := ⟨0x1700104, 0x0, 22, 22⟩
/-- PLY.PLYSTAT.TAKEEV [21:21], W1C (R631). -/
abbrev PLY_PLYSTAT_TAKEEV : Fld := ⟨0x1700104, 0x0, 21, 21⟩
/-- PLY.PLYSTAT.FENCEEV [20:20], W1C (R631). -/
abbrev PLY_PLYSTAT_FENCEEV : Fld := ⟨0x1700104, 0x0, 20, 20⟩
/-- PLY.PLYSTAT.PATHFLT [19:19], W1C (R631). -/
abbrev PLY_PLYSTAT_PATHFLT : Fld := ⟨0x1700104, 0x0, 19, 19⟩
/-- PLY.PLYSTAT.DIGFLT [18:18], W1C (R631). -/
abbrev PLY_PLYSTAT_DIGFLT : Fld := ⟨0x1700104, 0x0, 18, 18⟩
/-- PLY.PLYSTAT.SKEWFLT [17:17], W1C (R631). -/
abbrev PLY_PLYSTAT_SKEWFLT : Fld := ⟨0x1700104, 0x0, 17, 17⟩
/-- PLY.PLYSTAT.VERFAIL [16:16], W1C (R631). -/
abbrev PLY_PLYSTAT_VERFAIL : Fld := ⟨0x1700104, 0x0, 16, 16⟩
/-- PLY.PLYSTAT.CLEAN [15:0], RO (R631). -/
abbrev PLY_PLYSTAT_CLEAN : Fld := ⟨0x1700104, 0x0, 15, 0⟩
/-- PLY.PARTINFO.MAJOR [31:28], RO (R632). -/
abbrev PLY_PARTINFO_MAJOR : Fld := ⟨0x1700108, 0x0, 31, 28⟩
/-- PLY.PARTINFO.MINOR [27:24], RO (R632). -/
abbrev PLY_PARTINFO_MINOR : Fld := ⟨0x1700108, 0x0, 27, 24⟩
/-- PLY.PARTINFO.DETCLASS [15:0], RO (R632). -/
abbrev PLY_PARTINFO_DETCLASS : Fld := ⟨0x1700108, 0x0, 15, 0⟩
/-- PLY.LEASEAGE [31:0], RO (R632). -/
abbrev PLY_LEASEAGE : Fld := ⟨0x170010C, 0x0, 31, 0⟩
/-- PLY.SKEW [31:0], RO (R632). -/
abbrev PLY_SKEW : Fld := ⟨0x1700110, 0x0, 31, 0⟩
/-- PLY.PLYCNT.TAKES [31:16], RO (R632). -/
abbrev PLY_PLYCNT_TAKES : Fld := ⟨0x1700114, 0x0, 31, 16⟩
/-- PLY.PLYCNT.MISM [15:0], RO (R632). -/
abbrev PLY_PLYCNT_MISM : Fld := ⟨0x1700114, 0x0, 15, 0⟩
/-- PLY.PARTGENLO [31:0], RO (R632). -/
abbrev PLY_PARTGENLO : Fld := ⟨0x1700118, 0x0, 31, 0⟩
/-- PLY.PARTGENHI [31:0], RO (R632). -/
abbrev PLY_PARTGENHI : Fld := ⟨0x170011C, 0x0, 31, 0⟩

end R

end Sys2Proof.Machine
end

