-- ==== Sys2Proof/Machine/State.lean ====
section
/-! DEFINITION. The state of the device, as plain data: its registers, and everything the manual gives it that no register
shows; the queue of waiting commands; the reasons a step can stop; and the state after reset. A field's value on the
right is its value after power-on reset. -/

namespace Sys2Proof.Machine

/-- Where a plane stands in its Turn (R26). -/
inductive PlanePhase where
  | stopped
  | lead
  | body
  | tail
  deriving DecidableEq, Repr

/-- The sequencer's own state of one timing plane; what it shows stands in the SEQ plane block. -/
structure PlaneRun where
  /-- R26: part of the Turn the plane is in; stopped before its first start. -/
  phase : PlanePhase := .stopped
  /-- R26: fabric cycle of the Turn boundary tₙ. -/
  t : Nat := 0
  /-- R26: lead gₙ, fabric cycles. -/
  lead : Nat := 0
  /-- R26: length of the body of this Turn, fabric cycles. -/
  body : Nat := 0
  /-- R35: tail Lₙ computed for this Turn, fabric cycles. -/
  tail : Nat := 0
  /-- R35: the next Turn boundary tₙ₊₁, fabric cycle. -/
  tnext : Nat := 0
  /-- R35: whether the servo has computed the tail of this Turn. -/
  servoDone : Bool := false
  /-- R35: whether that tail was clamped; CLAMP shows it from the boundary on. -/
  clamp : Bool := false
  /-- R39: index of the house frame pulse on which tₙ lies, of which the Turn count is the remainder modulo 2⁴⁰. -/
  index : Nat := 0
  /-- R28: index of the last house frame pulse that has occurred. -/
  pulseIdx : Nat := 0
  /-- R28: fabric-cycle value of that pulse, in units of 2⁻¹⁶ cycle. -/
  pulseAt : Int := 0
  /-- R35: eₙ of the last boundary, in units of 2⁻¹⁶ cycle. -/
  err : Int := 0
  /-- R40: whether a run of excess is on. -/
  excess : Bool := false
  /-- R581, R588: whether the plane is to stop at the next boundary. -/
  stopReq : Bool := false
  /-- R581: Turn count of the stop boundary, once it is known. -/
  stopTurn : Option Nat := none
  /-- R581: fabric cycle from which the plane has drained at its next boundary. -/
  drainAt : Nat := 0
  deriving DecidableEq, Repr

/-- One issue stream's run through its table in the present body (R32). -/
structure StreamRun where
  /-- R32: index of the next word of the stream's table. -/
  next : Nat := 0
  /-- R30: owned Twists still to begin before the NOP the stream waits at ends. -/
  wait : Nat := 0
  /-- R32: words issued in the present owned Twist, 0 to 8. -/
  issued : Nat := 0
  /-- R32: the stream has met a NOP in the present owned Twist. -/
  paused : Bool := false
  /-- R30: the stream has met its TURN in this body. -/
  ended : Bool := false
  /-- R234: words of the re-threading tables that come before the stream's own in this body. -/
  extra : List DWord := []
  /-- R46: targets (class × 4096 + index) on which the stream's RUNs run substitutes. -/
  subst : List Nat := []
  deriving DecidableEq, Repr

/-- What a target of slot words is doing (R30, R45). -/
inductive TargetWork where
  | idle
  | run
  | test
  deriving DecidableEq, Repr

/-- A RUN or TEST word on its way to a unit over the tree (R48, R210), or a RUN that waits for an aborted unit to stop (R46). -/
structure RunArrival where
  stream : Nat
  slot : Nat
  kernel : Nat
  budget : Nat
  subst : Bool
  issued : Nat
  marks : List (Nat × Nat) := []
  /-- R30: what the unit works on. -/
  job : RunWork := .plain
  /-- R39: Turn count of its plane at the issue. -/
  turn : Nat := 0
  /-- R30: it is a TEST word. -/
  test : Bool := false
  /-- R47: the word has been recorded as an overrun. -/
  overran : Bool := false
  deriving DecidableEq, Repr

/-- One target of slot words: class × 4096 + index (R31). -/
structure TargetRun where
  /-- R30: what the target is busy with. -/
  work : TargetWork := .idle
  /-- R45: stream that issued the work. -/
  stream : Nat := 0
  /-- R58: index of the word that issued the work. -/
  slot : Nat := 0
  /-- R30: kernel of the RUN, or descriptor of the TEST. -/
  kernel : Nat := 0
  /-- R30: fabric cycle at which the budget, or the test pattern, ends. -/
  deadline : Nat := 0
  /-- R212: whether the substitute kernel runs. -/
  subst : Bool := false
  /-- R30: marks to write when the RUN completes (MARKNO, VALUE). -/
  marks : List (Nat × Nat) := []
  /-- R30: what the RUN works on. -/
  job : RunWork := .plain
  /-- R39: Turn count of its plane at the issue. -/
  turn : Nat := 0
  /-- R47: its word has been recorded as an overrun. -/
  overran : Bool := false
  /-- R46: the unit has been aborted and has not yet stopped. -/
  aborting : Bool := false
  /-- R46: a RUN that starts, as its substitute, once the aborted unit has stopped. -/
  after : Option RunArrival := none
  /-- R46: an ownership breach aborts the unit at the end of the Twist. -/
  breach : Bool := false
  deriving DecidableEq, Repr

/-- One entry of the trace buffer (R59). -/
structure TraceEntry where
  /-- R59: KIND, 8 bits. -/
  kind : Nat := 0
  /-- R59: PLANE, 2 bits. -/
  plane : Nat := 0
  /-- R59: AUX, 16 bits. -/
  aux : Nat := 0
  /-- R59: TURN, 40 bits. -/
  turn : Nat := 0
  /-- R59: DATA, 32 bits. -/
  data : Nat := 0
  deriving DecidableEq, Repr

/-- The schedule sequencer and fabric: what no register shows. -/
structure Sched where
  /-- R24: fabric cycle at which the present Twist began, counted from warm reset; a multiple of 256. -/
  cyc : Nat := 0
  /-- R26: the four timing planes. -/
  planes : Tab PlaneRun := []
  /-- R32: the 64 issue streams. -/
  streams : Tab StreamRun := []
  /-- R31: every target that is not idle. -/
  targets : Tab TargetRun := []
  /-- R48: RUN and TEST words on their way over the tree to lanes, decode lanes and composition outputs: target and word, oldest first. -/
  arrivals : List (Nat × RunArrival) := []
  /-- R47: fabric cycle of the fault that SFSTAT holds. -/
  sfAt : Nat := 0
  /-- R32: the 4,096 marks of 24 bits; none where no MARK has written. -/
  marks : Tab (Option Nat) := []
  /-- R59: the 8,192 entries of the trace buffer. -/
  trace : Tab TraceEntry := []
  deriving DecidableEq, Repr

/-- Start-up: what no register shows. -/
structure Boot where
  /-- R79: power-on reset is held (a supply is not valid, or a shutdown has not been released). -/
  held : Bool := false
  /-- R80: crystal windows that have passed in a row. -/
  xtalRun : Nat := 0
  /-- R78: the reset in progress is a warm reset. -/
  warm : Bool := false
  /-- R95: a warm reset waits for the Reel flush (RSTCAUSE of the request). -/
  warmAfterFlush : Option Nat := none
  /-- R72: slot now being tried. -/
  slot : Option Nat := none
  /-- R69: checks 1 to 8 have passed on the slot. -/
  hdrOk : Bool := false
  /-- R61: the 64-byte header of the image being read. -/
  header : List Byte := []
  /-- R63: the section table entries of the image being read. -/
  table : List (List Byte) := []
  /-- R71: table positions of the sections that have passed. -/
  passed : List Nat := []
  /-- R71, R75: early sections in force: type, digest and tables. -/
  early : Tab (Option (Nat × SkeinTables)) := []
  /-- R83: contract sheet of the image being read. -/
  sheet : List Word := []
  /-- R71: every section of the image has passed. -/
  complete : Bool := false
  /-- R79: DRAM training is complete. -/
  dramOk : Bool := false
  /-- R75: DRAM training has begun. -/
  dramBegun : Bool := false
  /-- R79: physical columns that have passed power-on self-test, one bit each. -/
  postPass : Nat := 0
  /-- R79: power-on self-test is complete. -/
  postDone : Bool := false
  /-- R79: the two-ply role is resolved, or solo is declared. -/
  roleOk : Bool := false
  /-- R92: microseconds since the release of reset, from the commands that carry a time. -/
  us : Nat := 0
  /-- R74: on-air seconds at which the running image is proven are still to come. -/
  proving : Bool := false
  /-- R571: SECVER of the running image. -/
  secver : Nat := 0
  /-- R61: FLAGS[0], the running image is a golden image. -/
  golden : Bool := false
  /-- R81: planes that have started since the reset. -/
  started : List Nat := []
  /-- R583: a boot from a DRAM image at D3, checks 6 to 8 skipped. -/
  debugBoot : Bool := false
  deriving DecidableEq, Repr

/-- A variant switch that has been accepted for a plane (R87). -/
structure VarPend where
  /-- R87: variant named. -/
  variant : Nat := 0
  /-- R87: effective Turn. -/
  turn : Nat := 0
  /-- R87: staging has finished. -/
  staged : Bool := false
  /-- R517: Reel sequence of the command. -/
  seq : Nat := 0
  /-- R87: the pointer swap of the tail has been made. -/
  swapped : Bool := false
  deriving DecidableEq, Repr

/-- A picture of a flow that is arriving (R103). -/
structure RxPic where
  /-- R102: picture stamp S, 32 bits. -/
  stamp : Nat := 0
  /-- R103: Turn the picture belongs to. -/
  turn : Nat := 0
  /-- R104: segments received of each line. -/
  lines : Tab (List LineSeg) := []
  /-- R106: lines whose Strand frame failed its CRC or that were discarded. -/
  bad : List Nat := []
  deriving DecidableEq, Repr

/-- A line as it was written to DRAM (R104). -/
structure LineOut where
  /-- R104: packed bytes. -/
  bytes : List Byte := []
  /-- R109: Thread mark in the picture's mark table. -/
  mark : Word := 0
  /-- R105: the line was substituted. -/
  subst : Bool := false
  /-- R105: the line was substituted with black. -/
  black : Bool := false
  deriving DecidableEq, Repr

/-- A picture of a flow as it was written to DRAM, with what preanalysis made of it (R104, R114). -/
structure WrPic where
  /-- R104: Turn the picture belongs to; none when no picture has been written since the plane started. -/
  turn : Option Nat := none
  /-- R104: lines written. -/
  lines : Tab LineOut := []
  /-- R105: the repeat run as it stood at the start of the Turn. -/
  run : Nat := 0
  /-- R107: lines taken from the input. -/
  taken : Nat := 0
  /-- R114: quarter-resolution luma, one row of samples for each two luma lines. -/
  quarter : Tab (List Nat) := []
  /-- R115: records of each row of 64 luma lines. -/
  records : Tab (List PaRecord) := []
  /-- R116: rows with SCR so far. -/
  scRows : Nat := 0
  /-- R116: SCP has latched. -/
  scp : Bool := false
  deriving DecidableEq, Repr

/-- An ancillary picture: the ST 291 packets stored for a Turn (R112). -/
structure AncPic where
  /-- R113: Turn the packets belong to. -/
  turn : Nat := 0
  /-- R113: its picture stamp. -/
  stamp : Nat := 0
  /-- R112: packets stored, at most 64. -/
  packets : List AncPacket := []
  /-- R617: the picture has ended: its packets are held complete. -/
  whole : Bool := false
  deriving DecidableEq, Repr

/-- R100: a sequence number that no leg has delivered: the taken packet before it (number, stamp), the one after it (number, stamp, line),
and whether it has been counted as lost, and found missing from every leg. -/
structure MissSeq where
  seq : Nat := 0
  lo : Nat × Nat := (0, 0)
  hi : Nat × Nat × Nat := (0, 0, 0)
  counted : Bool := false
  gone : Bool := false
  deriving DecidableEq, Repr

/-- One ingest flow context: what its register block does not show. In a pair, leg A's entry serves both (R119). -/
structure FlowRx where
  /-- R100: newest sequence number taken, 32 bits; none before the first. -/
  newest : Option Nat := none
  /-- R253: sequence numbers found missing from every leg so far. -/
  losses : Nat := 0
  /-- R100: stamp of the newest packet taken. -/
  newestStamp : Nat := 0
  /-- R102: picture stamp S of the picture that the newest packet belongs to (its arrival time in ARRIVAL mode). -/
  arrStamp : Nat := 0
  /-- R100: line of the newest packet taken. -/
  newestLine : Nat := 0
  /-- R100: newest sequence number each leg has delivered (A, B). -/
  legNewest : Option Nat × Option Nat := (none, none)
  /-- R100: numbers no leg has delivered, inside the merge window. -/
  missing : List MissSeq := []
  /-- R122: duplicates discarded since the counter was cleared. -/
  dups : Nat := 0
  /-- R101: time of the last packet of leg A, ns; none before the first. -/
  legA : Option Nat := none
  /-- R101: time of the last packet of leg B, ns. -/
  legB : Option Nat := none
  /-- R103: pictures being received, oldest first. -/
  pics : List RxPic := []
  /-- R103: pictures discarded whole: stamp, and the plane's Turn then. -/
  dead : List (Nat × Nat) := []
  /-- R103: Turns that a picture of the flow has matched, newest first. -/
  matched : List Nat := []
  /-- R105: the repeat run as it stood at the start of the present Turn. -/
  runStart : Nat := 0
  /-- R107: Turn from which a match made in UNDERRUN joins the member. -/
  joinAt : Option Nat := none
  /-- R509: the flow is forced to substitute. -/
  forced : Bool := false
  /-- R104: picture being written. -/
  cur : WrPic := {}
  /-- R105: picture of the Turn before, as written. -/
  prev : WrPic := {}
  /-- R104: the two pictures before that, which a reader in another plane may still take (A12 of R33, R264). -/
  older : List WrPic := []
  /-- R112: ancillary pictures, newest first. -/
  ancs : List AncPic := []
  /-- R112: ancillary packets discarded. -/
  ancDrops : Nat := 0
  deriving DecidableEq, Repr

/-- How a CTU is coded (R147, R159, R160). The later constructor is the stricter candidate. -/
inductive RowMode where
  | normal
  | guardRow
  | intraGuard
  deriving DecidableEq, Repr

/-- A NAL unit in the bitstream buffer in DRAM; a slice has its Thread mark (R152). -/
structure NalUnit where
  /-- R152: encode channel context. -/
  chan : Nat := 0
  /-- R152: CTU row. -/
  row : Nat := 0
  /-- R152: bits [31:0] of the Turn count. -/
  turn : Nat := 0
  /-- R152: share index. -/
  share : Nat := 0
  /-- R152: bytes of the NAL unit. -/
  bytes : List Byte := []
  /-- R152: bitstream Thread mark written with it. -/
  mark : Word := 0
  /-- R142: it is a slice. -/
  slice : Bool := true
  /-- R173, R191: it is filler data. -/
  filler : Bool := false
  /-- R171: it is the last NAL unit of its DU. -/
  lastOfDu : Bool := false
  deriving DecidableEq, Repr

/-- A CTU row of source samples as P1 has fetched it (R128, R155): lines of luma, Cb and Cr. -/
structure SrcRow where
  luma : List (List Nat) := []
  cb : List (List Nat) := []
  cr : List (List Nat) := []
  deriving DecidableEq, Repr

/-- A CTU as it is committed (R128, R144, R149, R176): its partition, its bins, their payload bits, whether it is a guard candidate,
and its reconstruction. -/
structure CodedCtu where
  tree : CodeTree := .unit {}
  bins : List Bin := []
  payload : Nat := 0
  guard : Bool := false
  recon : List Nat := []
  deriving DecidableEq, Repr

/-- A CTU row of a picture in the row stages of a channel slot (R128). -/
structure RowRun where
  /-- R147: it is a guard row. -/
  guard : Bool := false
  /-- R185: its guard candidates are intra ones. -/
  intra : Bool := false
  /-- R168: it has been counted as a guard row. -/
  counted : Bool := false
  /-- R159: CTU columns coded as the intra guard candidate: first, and one past the last. -/
  cols : List (Nat × Nat) := []
  /-- R178: payload cap of its slice; none where rate control does not run. -/
  qcap : Option Nat := none
  /-- R155: its source samples. -/
  src : SrcRow := {}
  /-- R128: its CTUs as committed in P3. -/
  coded : List CodedCtu := []
  deriving DecidableEq, Repr

/-- A picture in the row stages of a channel slot (R128, R157). -/
structure SlotPic where
  /-- R150, R152: Turn of the picture. -/
  turn : Nat := 0
  /-- R139: type of the picture. -/
  ptype : PicType := .idr
  /-- R139, R160: it is an IRAP picture of its structure, or starts a GDR period. -/
  starts : Bool := true
  /-- R140: index i of the picture within its refresh period. -/
  gdrIdx : Nat := 0
  /-- R142: picture order count. -/
  poc : Nat := 0
  /-- R162: it is a refresh picture. -/
  isRefresh : Bool := false
  /-- R161: its rows are guard rows, since a column took the slot over. -/
  guard : Bool := false
  /-- R128: its CTU rows. -/
  rows : Tab RowRun := []
  /-- R168: largest CTU bin count of the picture so far, before replacement. -/
  peak : Nat := 0
  /-- R148: bins of the picture so far, as committed. -/
  bins : Nat := 0
  /-- R148: bytes of its slice NAL units so far. -/
  nalBytes : Nat := 0
  /-- R148: cabac_zero_words appended to its last slice. -/
  czw : Nat := 0
  /-- R142: the NAL units that precede its first slice. -/
  head : List HeadNal := []
  deriving DecidableEq, Repr

/-- A reference picture of a share in DRAM (R131, R137, R140, R153): its Turn, order count, whether it is an IRAP picture, the order
count at which its GDR period began, the CTU columns of the share that are clean once it is decoded, and its filtered lines with
their marks. -/
structure RefPic where
  turn : Nat := 0
  poc : Nat := 0
  irap : Bool := false
  period : Nat := 0
  clean : Nat := 0
  lines : Tab LineOut := []
  deriving DecidableEq, Repr

/-- One channel slot of a plan column: what its register block does not show (R157). The picture whose rows enter P1, and the one
before it, whose last rows may still be in P2 to P4 (R128). -/
structure SlotRun where
  /-- R139: a picture has been coded since the plane started. -/
  begun : Bool := false
  /-- R139: pictures since the last IRAP or GDR period began. -/
  since : Nat := 0
  /-- R162: Turns in which the causes of refresh pictures still to be coded arose. -/
  refresh : List Nat := []
  /-- R190: pictures since the last buffering period. -/
  sinceBp : Nat := 0
  /-- R157: parameter sets in force. -/
  params : Option ParamSet := none
  /-- R128: the picture in P1. -/
  cur : SlotPic := {}
  /-- R128: the picture before it. -/
  old : SlotPic := {}
  /-- R157: last row to enter P1 of the picture there. -/
  rowP1 : Option Nat := none
  /-- R128: P3 works on the picture before. -/
  oldP3 : Bool := false
  /-- R128: last row to enter P3. -/
  rowP3 : Option Nat := none
  /-- R128: P4 works on the picture before. -/
  oldP4 : Bool := false
  /-- R128: last row to leave P4. -/
  rowP4 : Option Nat := none
  /-- R137, R157: reference pictures, newest first; the pictures in the row stages stand ahead. -/
  refs : List RefPic := []
  /-- R138: lines of each reference picture in the window: Turn, first line, one past the last. -/
  window : List (Nat × Nat × Nat) := []
  deriving DecidableEq, Repr

/-- The encode lanes: what no register shows. -/
structure Lanes where
  /-- R157: channel slots, 16 × plan column + slot. -/
  slots : Tab SlotRun := []
  /-- R152: NAL units of DUs that are ready, by channel context, oldest first. -/
  nals : Tab (List NalUnit) := []
  /-- R171: slice NAL units of DUs that not every share has coded yet, by channel context. -/
  parts : Tab (List NalUnit) := []
  /-- R166: ENG cycle of each lane's fault record. -/
  recAt : Tab Nat := []
  deriving DecidableEq, Repr


/-- A DU of a channel in the row kernels (R179, R182). -/
structure RowRate where
  /-- R152: Turn of its picture. -/
  turn : Nat := 0
  /-- R171: CTU row. -/
  row : Nat := 0
  /-- R182: target, bits. -/
  target : Nat := 0
  /-- R182: q. -/
  q : Nat := 0
  /-- R182: QPs of its quantisation groups. -/
  groups : List Nat := []
  /-- R179: sum of nal(qcap) of its slices. -/
  capNal : Nat := 0
  /-- R181: bits once it has left P4. -/
  bits : Option Nat := none
  /-- R179: occupancy right after it was added. -/
  occ : Nat := 0
  /-- R184: it is a floor row. -/
  floor : Bool := false
  deriving DecidableEq, Repr

/-- A picture in the row kernels of a channel (R181, R182). -/
structure PicRate where
  /-- R152: Turn of the picture. -/
  turn : Nat := 0
  /-- R182: it is an intra picture. -/
  intra : Bool := false
  /-- R181: base of the picture, bits. -/
  base : Int := 0
  /-- R181: target T of the picture, bits. -/
  target : Int := 0
  /-- R189: sum of the row QPs, and their number. -/
  qSum : Nat × Nat := (0, 0)
  /-- R183: the rest of the picture is in floor mode. -/
  floor : Bool := false
  /-- R181: its size has been taken into the carry, or there is no picture. -/
  ended : Bool := true
  deriving DecidableEq, Repr

/-- Rate control of one encode channel context: what its register block does not show (R179, R181, R182). -/
structure ChanRate where
  /-- R181: the picture in P2. -/
  cur : PicRate := {}
  /-- R181: the picture before it, whose last rows may not have left P4. -/
  old : PicRate := {}
  /-- R181: carry K, bits. -/
  k : Int := 0
  /-- R179, R182: DUs of those pictures, newest first. -/
  dus : List RowRate := []
  /-- R182: complexity of each row, of the picture in P2 or of the one before. -/
  cx : Tab Nat := []
  /-- R182: q of the previous row of intra pictures. A plane start gives it no value; the model's is 30 (log entry 124). -/
  qIntra : Nat := 30
  /-- R182: q of the previous row of inter pictures; the model's starting value is 30 (log entry 124). -/
  qInter : Nat := 30
  /-- R182: beta of intra pictures, 16 fraction bits. -/
  betaIntra : Nat := 65536
  /-- R182: beta of inter pictures, 16 fraction bits. -/
  betaInter : Nat := 65536
  /-- R189: NAL bits of the last picture. -/
  lastBits : Nat := 0
  /-- R189: sum of the row QPs of the last picture, and their number. -/
  lastQ : Nat × Nat := (0, 0)
  /-- R189: allocation for the next Turn, kb/s. -/
  alloc : Option Nat := none
  /-- R173: bits in the channel's output buffer that have not been sent. -/
  occ : Nat := 0
  deriving DecidableEq, Repr


/-- Where a result of a Spindle operation goes (R201). -/
inductive SpnDest where
  | sreg (n : Nat)
  | vreg (n : Nat)
  | vmask (n : Nat)
  deriving DecidableEq, Repr

/-- A result in flight (R202): its register, its value and the ENG cycle of the RUN at whose end it is written. -/
structure SpnResult where
  dest : SpnDest
  val : BitVec 512
  due : Nat
  deriving DecidableEq, Repr

/-- A store made in the present ENG cycle, visible from the next (R219): 0 an arriving beat, 1 vector, 2 scalar. -/
structure SpnStore where
  prio : Nat
  addr : Nat
  bytes : List Byte
  cyc : Nat
  poisoned : Bool := false
  deriving DecidableEq, Repr

/-- A running kernel on an engine (R210). -/
structure SpnRun where
  /-- R210: kernel started. -/
  kernel : Nat := 0
  /-- R212: it is a substitute. -/
  subst : Bool := false
  /-- R210: parameter bank latched. -/
  bank : Nat := 0
  /-- R226: commit line of the kernel. -/
  outwin : Nat := 0
  /-- R204: the END bundle has issued. -/
  ended : Bool := false
  /-- R211: ENG cycle of the END bundle. -/
  endCyc : Nat := 0
  /-- R210: fabric cycle of the RUN's arrival. -/
  start : Nat := 0
  /-- R30: BUDGET of the RUN. -/
  budget : Nat := 0
  /-- R220: ENG cycle whose bundle has been fetched and checked, plus 1. -/
  fetched : Nat := 0
  /-- R215: ENG cycle in which an engine fault was detected; issue has stopped. -/
  stop : Option Nat := none
  /-- R216: a second cause of that cycle. -/
  again : Option Nat := none
  deriving DecidableEq, Repr

/-- An active loop (R208): iterations left, first bundle and end bundle. -/
structure SpnLoop where
  left : Nat
  start : Nat
  stop : Nat
  deriving DecidableEq, Repr

/-- One Spindle engine: what its register block does not hold. -/
structure Engine where
  /-- R201: scalar registers S1–S31. -/
  sreg : Tab Word := []
  /-- R201: vector registers. -/
  vreg : Tab (BitVec 512) := []
  /-- R201: mask registers VM1–VM7. -/
  vmask : Tab (BitVec 64) := []
  /-- R201: active loops, innermost first. -/
  loops : List SpnLoop := []
  /-- R224: snapshot of the arrival counters. -/
  acbase : Tab Nat := []
  /-- R217: scratchpad bytes that differ from 0. -/
  pad : Tab Byte := []
  /-- R220: poisoned lines of the scratchpad. -/
  poison : Tab Bool := []
  /-- R220: 64-bit words of the scratchpad with a double-bit error. -/
  dbl : Tab Bool := []
  /-- R220: 64-bit words of the scratchpad with a single-bit error. -/
  sgl : Tab Bool := []
  /-- R220: bundles of the instruction store with a double-bit error. -/
  istDbl : Tab Bool := []
  /-- R220: bundles of the instruction store with a single-bit error. -/
  istSgl : Tab Bool := []
  /-- R202: results in flight. -/
  results : List SpnResult := []
  /-- R219: stores of the present cycle. -/
  stores : List SpnStore := []
  /-- R210: kernel running. -/
  run : Option SpnRun := none
  /-- R207: ENG cycles since the RUN began. -/
  cyc : Nat := 0
  /-- R208: bundle now issuing. -/
  pc : Nat := 0
  /-- R208: control transfer still to take effect (bundles left, target). -/
  jump : Option (Nat × Nat) := none
  /-- R209: bundles, this one included, to the end of the delay slots of the last CTRL. -/
  slots : Nat := 0
  /-- R208: the cycles before the transfer are bubbles, of a LOOP whose count is 0. -/
  bubble : Bool := false
  /-- R214: ENG cycle from which the divider is free. -/
  divFree : Nat := 0
  /-- R210: RUNs on their way over the tree. -/
  arrivals : List RunArrival := []
  /-- R234: parameter MOVEs of a handover still to complete. -/
  awaitParams : Nat := 0
  /-- R579: halted by the debugger. -/
  halted : Bool := false
  deriving DecidableEq, Repr

/-- A 64-byte beat on the tree (R222, R223). -/
structure Beat where
  /-- R223: physical engine it left. -/
  src : Nat
  /-- R221: destination plan column. -/
  pcol : Nat
  /-- R221: destination unit, 0 to 12. -/
  unit : Nat
  /-- R221: destination line. -/
  line : Nat
  /-- R222: arrival counter at the destination. -/
  acn : Nat
  /-- R221: the 64 bytes. -/
  data : List Byte
  /-- R222: absolute ENG cycle, counted from warm reset, from which a load sees it. -/
  due : Nat := 0
  deriving DecidableEq, Repr

/-- The Spindle array: what no register shows. -/
structure Spindles where
  /-- R199: the 192 engines. -/
  eng : Tab Engine := []
  /-- R229: the library, the same in every engine, 128-bit bundles. -/
  lib : Tab (BitVec 128) := []
  /-- R222: beats in flight, oldest first. -/
  flight : List Beat := []
  /-- R221: the lanes' 64 KiB decision buffers, lane × 65,536 + byte. -/
  decision : Tab Byte := []
  /-- R232: engines whose copy of the library has failed its check. -/
  libBad : List Nat := []
  deriving DecidableEq, Repr

/-- What a packet of a decode stream carries (R246): a whole NAL unit; a fragment of one, the first with the unit's header; or the payload
of a TS packet, with its unit start flag and continuity counter. -/
inductive DecPart where
  | whole (b : List Byte)
  | frag (start finish : Bool) (b : List Byte)
  | ts (start : Bool) (cc : Nat) (b : List Byte)
  deriving DecidableEq, Repr

/-- An access unit of a decode stream that has been matched to a Turn (R247). -/
structure DecAu where
  /-- R247: picture stamp. -/
  stamp : Nat := 0
  /-- R247: Turn its decoding stamp matched. -/
  turn : Nat := 0
  /-- R252: Turn its presentation stamp matched. -/
  shown : Nat := 0
  /-- R246: packets by sequence number, oldest first, with their parts. -/
  parts : List (Nat × List DecPart) := []
  /-- R253: its last packet has arrived. -/
  ended : Bool := false
  deriving DecidableEq, Repr

/-- The first slice of a picture: its type and its syntax (R253, R255). -/
structure DecHead where
  irap : Bool := false
  cra : Bool := false
  rasl : Bool := false
  nal : DecNal := {}
  deriving DecidableEq, Repr

/-- The access unit released for parsing, and the picture made of it (R248, R249). -/
structure DecRel where
  /-- R252: Turn its presentation stamp matched. -/
  shown : Nat := 0
  /-- R248: the access unit, until the parser begins it. -/
  au : Option DecAu := none
  /-- R248: bytes of the NAL units still to parse. -/
  nals : List (List Byte) := []
  /-- R248: NAL units parsed. -/
  count : Nat := 0
  /-- R248: bins parsed. -/
  bins : Nat := 0
  /-- R248: addresses of the CTUs parsed. -/
  parsed : List Nat := []
  /-- R248: the parser has stopped and written the row-ready marks. -/
  stopped : Bool := false
  /-- R253: the first slice of the picture; none when no slice has been taken. -/
  head : Option DecHead := none
  /-- R255: a slice refers to a generated or concealed picture. -/
  tainted : Bool := false
  /-- R253: what the decoded picture hash SEI says. -/
  hash : Option Bool := none
  /-- R249: the lines reconstructed so far. -/
  lines : Tab LineOut := []
  /-- R250: addresses of the CTUs concealed. -/
  concealed : List Nat := []
  deriving DecidableEq, Repr

/-- A picture in a decode stream's DPB (R251): order count, and whether it is generated or marked concealed. -/
structure DecRef where
  poc : Int := 0
  clean : Bool := true
  deriving DecidableEq, Repr

/-- A decoded picture with the records that concealed CTUs touch, as (row of 64 lines, block) (R252). -/
structure DecPicture where
  /-- R252: the Turn it is shown in. -/
  turn : Nat := 0
  /-- R249: its lines. -/
  lines : Tab LineOut := []
  /-- R252: records that concealed CTUs touch. -/
  touched : List (Nat × Nat) := []
  deriving DecidableEq, Repr

/-- One decode stream context: what its register block does not show. -/
structure DecStream where
  /-- R247: access units matched and not released, oldest first. -/
  aus : List DecAu := []
  /-- R246: payloads of TS packets not released, by sequence number of their RTP packets. -/
  ts : List (Nat × List DecPart) := []
  /-- R253: Turn of the last access unit that the lane took whole, with its last RTP sequence number and, in TS, continuity counter. -/
  lastAu : Option (Nat × Nat × Option Nat) := none
  /-- R617: Turns whose access unit has been offered to the partner, newest first. -/
  offered : List Nat := []
  /-- R247: the last Turn whose access unit has been released. -/
  relTurn : Option Nat := none
  /-- R248: access unit being parsed and reconstructed. -/
  rel : Option DecRel := none
  /-- R249: the parameter sets of the picture parsed last. -/
  shape : Option DecSps := none
  /-- R251: decoded picture buffer. -/
  dpb : List DecRef := []
  /-- R252: decoded pictures of Turns to come. -/
  waiting : List DecPicture := []
  /-- R252: output ring of 3 pictures, newest first. -/
  ring : List WrPic := []
  /-- R250: the stream's most recent output picture. -/
  lastOut : Tab LineOut := []
  /-- R255: order count at which the context recovers. -/
  recoverAt : Option Int := none
  /-- R255: RASL pictures of the CRA at which the context recovered are not output. -/
  skipRasl : Bool := false
  /-- R509: the stream is forced to substitute. -/
  forced : Bool := false
  deriving DecidableEq, Repr

/-- The decode lanes: what no register shows. -/
structure Decs where
  /-- R243: stream contexts. -/
  ctx : Tab DecStream := []
  /-- R248: context served last in the parser's rotation, of each lane, plus 1. -/
  turnOf : Tab Nat := []
  deriving DecidableEq, Repr

/-- Composition and scaling: what no register shows. -/
structure Cmp where
  /-- R268: coefficients in the two banks of each scaler, 2 × scaler + bank. -/
  banks : Tab (List Int) := []
  /-- R269: pictures of each rendition raster, newest first. -/
  rends : Tab (List WrPic) := []
  /-- R262: pictures in the frame store of each output, newest first. -/
  outs : Tab (List WrPic) := []
  deriving DecidableEq, Repr


/-- A frame of an input port as it was taken (R290, R294). -/
structure AFrame where
  /-- R289: stamp S. -/
  stamp : Nat := 0
  /-- R291: samples by slot, a masked slot 0. -/
  samples : List Nat := []
  /-- R294: the frame is complete. -/
  ok : Bool := true
  /-- R291: a mask became active at its start. -/
  maskChg : Bool := false
  deriving DecidableEq, Repr

/-- A block of audio in DRAM (R291, R293). -/
structure ABlock where
  /-- R288: j. -/
  index : Nat := 0
  /-- R291: header bytes 0x00 to 0x0B. -/
  header : List Byte := []
  /-- R291: sample bytes. -/
  data : List Byte := []
  /-- R293: MARK. -/
  mark : Word := 0
  /-- R291: SUB. -/
  sub : Bool := false
  deriving DecidableEq, Repr

/-- One audio port: what its register block does not show. -/
structure AudPort where
  /-- R290: frames that a slot may still take, oldest first. -/
  frames : List AFrame := []
  /-- R290: number of the first of those frames, counted from the port's start. -/
  base : Nat := 0
  /-- R290: number of the first frame after the block taken last. -/
  taken : Nat := 0
  /-- R294: last sample taken from each channel; empty while none has been. -/
  hold : List Nat := []
  /-- R300: time of the pending commit, ps. -/
  commitAt : Nat := 0
  /-- R301: the pending mask waits for the first grid frame at or after this time, ns. -/
  grid : Option Nat := none
  /-- R296: a clock loss is declared. -/
  lost : Bool := false
  /-- R296: time of the last frame-start edge, ps. -/
  lastEdge : Nat := 0
  /-- R289: stamp of that edge. -/
  edgeStamp : Nat := 0
  /-- R617: block indexes offered to the partner, newest first. -/
  offered : List Nat := []
  /-- R297: frames in the measurement window. -/
  winN : Nat := 0
  /-- R297: stamp of its first frame. -/
  winFirst : Nat := 0
  /-- R297: stamp of its last frame. -/
  winLast : Nat := 0
  /-- R298: class that the last window lay within ±1,000 ppm of. -/
  cand : Nat := 0
  /-- R291: newest blocks, newest first. -/
  blocks : List ABlock := []
  /-- R302: what an output port drives in each slot of the present frame; none for high impedance. -/
  drive : List (Option Nat) := []
  /-- R284: SD in each bit clock from the present frame start on, with the bits that come after the next one. -/
  sdOut : List (Option Bool) := []
  /-- R284: FS in each bit clock from that frame start on, where the port drives it. -/
  fsOut : List Bool := []
  deriving DecidableEq, Repr

/-- Audio: what no register shows. -/
structure Aud where
  /-- R284: the 48 ports. -/
  ports : Tab AudPort := []
  /-- R302: blocks of ST 2110-30 and -31 receive flows, newest first. -/
  rx : Tab (List ABlock) := []
  deriving DecidableEq, Repr


/-- One time base (R341): what its register block does not show. -/
structure TimeBase where
  /-- R341: time since the PTP epoch, in units of 2⁻⁴⁰ ns. -/
  t40 : Nat := 0
  /-- R341: rate offset r, in units of 2⁻⁴⁰. -/
  rate : Int := 0
  /-- R342: frequency integrator i, in units of 2⁻⁴⁰. -/
  integ : Int := 0
  /-- R342: estimates in a row with |o| ≤ 1,000 ns. -/
  good : Nat := 0
  /-- R343: the newest four estimates, ns, newest first. -/
  recent : List Int := []
  /-- R82: the base has been stepped or set since reset. -/
  placed : Bool := false
  /-- R344: fabric cycle at which the present holdover began. -/
  holdFrom : Nat := 0
  /-- R343: the newest 16 offsets from the source, units of 2⁻⁴⁰ ns, newest first. -/
  offsets : List Int := []
  /-- R343: the source's rate at the newest 1,024 ticks, newest first. -/
  rates : List Int := []
  /-- R343: f, kept in holdover. -/
  freq : Int := 0
  deriving DecidableEq, Repr

/-- A packet as it left (R325–R337): the RTP header fields and the payload. -/
structure EgPacket where
  /-- R325, R332: RTP packet, header and payload, as SRTP protects it where it is on. -/
  rtp : List Byte := []
  /-- R332: SRTP packet index (rollover counter × 65,536 + sequence number) where SRTP protects it. -/
  srtp : Option Nat := none
  /-- R321: nominal send time, ns. -/
  due : Nat := 0
  /-- R321, R319: time at which each leg left, ns, and its frame; none for a leg that was not sent. -/
  legs : Option (Nat × List Byte) × Option (Nat × List Byte) := (none, none)
  deriving DecidableEq, Repr

/-- Bytes of one PID of a TS that wait for positions (R328, R329). -/
structure TsQueue where
  /-- R328: PES packets or sections, oldest first. -/
  units : List (List Byte) := []
  /-- R328: bytes of the first unit already sent. -/
  sent : Nat := 0
  /-- R330: continuity counter of the next packet. -/
  cc : Nat := 0
  /-- R330: a packet has been sent since the plane started. -/
  begun : Bool := false
  deriving DecidableEq, Repr

/-- A splice section that is still to be sent (R335). -/
structure Splice where
  /-- R335: encode channel. -/
  chan : Nat := 0
  /-- R335: send Turn. -/
  sendTurn : Nat := 0
  /-- R335: splice Turn. -/
  spliceTurn : Nat := 0
  /-- R335: splice_command_type. -/
  ctype : Nat := 5
  /-- R335: bytes of the command before and after its splice_time(), and its descriptors. -/
  pre : List Byte := []
  post : List Byte := []
  descs : List Byte := []
  /-- R335: times it is still to be sent. -/
  left : Nat := 0
  /-- R335: time at which it was sent last, ns. -/
  lastNs : Option Nat := none
  deriving DecidableEq, Repr

/-- A send flow: what its register block does not show (R334). -/
structure EgFlow where
  /-- R325: RTP sequence number of the next packet. -/
  seq : Nat := 0
  /-- R332: rollover counter. -/
  roc : Nat := 0
  /-- R320: time at which the drain has delivered every bit before the next packet, in units of 2⁻¹⁶ ns. -/
  drain : Nat := 0
  /-- R325: bytes of the first queued NAL unit already sent. -/
  off : Nat := 0
  /-- R324: the first queued NAL unit has passed or failed its mark check; its bytes as they are sent. -/
  nal : Option (List Byte) := none
  /-- R331, R337: Turn of the picture being sent. -/
  turn : Nat := 0
  /-- R331: index of the next packet within it. -/
  k : Nat := 0
  /-- R320: nominal send time of the first packet of the picture being sent, ns. -/
  start : Nat := 0
  /-- R303: block index of the next audio packet. -/
  j : Nat := 0
  /-- R327: TS packets sent since the plane started. -/
  pos : Nat := 0
  /-- R327: nominal send time of TS packet 0, ns. -/
  pos0 : Option Nat := none
  /-- R328: bytes waiting, by PID. -/
  pids : Tab TsQueue := []
  /-- R330: access unit whose PES is open (Turn). -/
  auTurn : Option Nat := none
  /-- R330: bytes of the PES being gathered. -/
  auBytes : List Byte := []
  /-- R336: splice sections dropped. -/
  spliceDrops : Nat := 0
  /-- R334: muted by command, by the role, or from a Turn on. -/
  cmdMuted : Bool := false
  /-- R318: MAC address of the next hop, once it is resolved; a leg B's is in its own entry. -/
  hopMac : Option Nat := none
  /-- R626: in warm standby, waits for an IRAP picture or GDR period (0), or sends from that of a Turn on (Turn + 1). -/
  hold : Option Nat := none
  /-- R334: packet sent last. -/
  last : Option EgPacket := none
  deriving DecidableEq, Repr

/-- A frame that a service core has queued on a port (R322, R345): its bytes without the FCS, the FRAMEID under which it asks for its stamp,
and the ingress stamp of a forwarded PTP event message. -/
structure DynFrame where
  /-- R322: what it is: 1 membership report, 2 Delay_Req, 3 ARP or NDP, 4 forwarded PTP, 5 any other. -/
  kind : Nat := 5
  /-- R313: its bytes, without the FCS. -/
  data : List Byte := []
  /-- R345: FRAMEID of the stamp asked for. -/
  stampId : Option Nat := none
  /-- R347: a forwarded PTP event message: its ingress stamp, 2⁻¹⁶ ns. -/
  ingress : Option Int := none
  deriving DecidableEq, Repr

/-- An entry of a transmit timestamp queue (R345). -/
structure TsqEntry where
  id : Nat := 0
  /-- R345: time at which the frame left, units of 2⁻⁴⁰ ns. -/
  t40 : Nat := 0
  deriving DecidableEq, Repr

/-- A leader of a PTP instance (R339). -/
structure PtpLeader where
  /-- R339: dataset in order of comparison, ending with the sender's identity. -/
  key : List Nat := []
  /-- R339: sender's identity. -/
  sender : Nat := 0
  /-- R339: lane on which it is heard. -/
  port : Nat := 0
  /-- R339: Announce messages heard; the second qualifies the sender. -/
  count : Nat := 0
  /-- R338: its MAC and IP addresses, to which a unicast Delay_Req goes. -/
  addr : Nat × Nat := (0, 0)
  /-- R339: logSyncInterval. -/
  logSync : Int := 0
  /-- R338: logMinDelayReqInterval. -/
  logDelay : Int := 0
  deriving DecidableEq, Repr

/-- A PTP instance (R338, R339); times in units of 2⁻¹⁶ ns. -/
structure PtpInst where
  /-- R339: qualified Announce senders on its ports. -/
  heard : List PtpLeader := []
  /-- R339: present leader. -/
  leader : Option PtpLeader := none
  /-- R339: Sync whose Follow_Up is awaited: sequenceId, arrival stamp, correction. -/
  sync : Option (Nat × Int × Int) := none
  /-- R339: last complete Sync: t₁, t₂, corrections. -/
  lastSync : Option (Int × Int × Int) := none
  /-- R339: sequenceId of the next Delay_Req, and its FRAMEID. -/
  reqSeq : Nat := 0
  /-- R339: exchange in progress: sequenceId, t₃ once popped, t₄ and correction once received. -/
  exch : Option (Nat × Option Int × Option (Int × Int)) := none
  /-- R339: mean path delay of the last completed exchange with the present leader. -/
  path : Option Int := none
  deriving DecidableEq, Repr

/-- One Ethernet port (R312): what its lane block does not show. -/
structure NetPort where
  /-- R322: dynamic frames waiting, oldest first. -/
  queue : List DynFrame := []
  /-- R345: transmit timestamp queue, oldest first, at most 16. -/
  tsq : List TsqEntry := []
  /-- R317: membership reports still to be sent: the flow, whether it leaves, reports left. -/
  reports : List (RxDef × Bool × Nat) := []
  /-- R317: time up to which an IGMPv1, IGMPv2 or MLDv1 querier keeps the port in host compatibility mode, s on its stamping base. -/
  igmp1 : Nat := 0
  igmp2 : Nat := 0
  mld1 : Nat := 0
  /-- R318: next hops being refreshed. -/
  refresh : List Nat := []
  /-- R322: dynamic frame sent last, its FCS included. -/
  sent : List Byte := []
  /-- R348: second in which frames are counted, and frames forwarded in it. -/
  fwdSec : Nat := 0
  fwdN : Nat := 0
  deriving DecidableEq, Repr

/-- The network block: what no register shows. -/
structure Net where
  /-- R320: send flows, by flow context (leg A's of a pair). -/
  eg : Tab EgFlow := []
  /-- R312: ports, by lane. -/
  ports : Tab NetPort := []
  /-- R338: PTP instances. -/
  ptp : Tab PtpInst := []
  /-- R335: splice sections waiting. -/
  splices : List Splice := []
  /-- R335: encode channels and the Turns whose pictures a splice makes refresh pictures. -/
  spliceTurns : List (Nat × Nat) := []
  /-- R332: packet indices taken of each SRTP receive flow within its replay window, newest first. -/
  replay : Tab (List Nat) := []
  /-- R332: packets of each flow that failed authentication or replay. -/
  srtpFails : Tab Nat := []
  deriving DecidableEq, Repr


/-- One reference candidate: what its register block does not show. -/
structure RefRun where
  /-- R363: the present window holds a loss or a glitch. -/
  bad : Bool := false
  /-- R364: good windows in a row toward qualification. -/
  good : Nat := 0
  /-- R365: the count was reached while a switch was in progress. -/
  ready : Bool := false
  /-- R361: fabric cycle of the last valid pulse, of a pulse type. -/
  lastPulse : Option Nat := none
  /-- R369: fabric cycle at which the last measured window ended. -/
  measured : Option Nat := none
  /-- R367: fabric cycle at which wait-to-restore began. -/
  wtrFrom : Option Nat := none
  deriving DecidableEq, Repr

/-- References, the clean-up DPLL and the clock outputs: what no register shows. -/
structure Clk where
  /-- R360: the 28 references. -/
  refs : Tab RefRun := []
  /-- R372: windows in a row that passed the lock test. -/
  lockRun : Nat := 0
  /-- R371: fabric cycle at which the switch in progress was decided. -/
  swFrom : Nat := 0
  /-- R371: full windows of the target in a row since. -/
  swRun : Nat := 0
  /-- R375: fabric cycle at which LOCKED was entered. -/
  lockedAt : Nat := 0
  /-- R373: windows spent LOCKED, newest first: end cycle, length in cycles, output frequency in units of 2⁻⁴⁰. -/
  hist : List (Nat × Nat × Int) := []
  /-- R374: fabric cycle at which HOLDOVER was entered, until LOCKED is entered. -/
  holdFrom : Option Nat := none
  /-- R376: the DPLL has been LOCKED since reset. -/
  timed : Bool := false
  /-- R376: DPLL time of each base, units of 2⁻⁴⁰ ns, at cycle `timeAt`. -/
  times : Tab Nat := []
  /-- R376: fabric cycle of those times. -/
  timeAt : Nat := 0
  /-- R380: phase applied to each clock output since warm reset, ps. -/
  applied : Tab Int := []
  /-- R380: fabric cycle of the last PHSTEP of each output, and PHPEND after it, ps. -/
  stepped : Tab (Nat × Int) := []
  /-- R385: source that each switch point is on (OUTCFG.SRC of points 2 to 9; 1 for RC at point 0). -/
  src : Tab Nat := [(0, 1)]
  /-- R386: source that a glitch-free switch in progress goes to. -/
  goal : Tab (Option Nat) := []
  /-- R382: crystal-monitor windows that have failed in a row. -/
  xtalFails : Nat := 0
  /-- R388: a root failure has been met: every CKOUT and every master audio port output is held low, and every Ethernet and
  Strand transmitter is in electrical idle. -/
  dead : Bool := false
  deriving DecidableEq, Repr

/-- The DRAM controllers and the parts: what no register shows. -/
structure Dram where
  /-- R398: bytes of DRAM that have been written since power-on, by DRAM address, strictly rising. -/
  mem : List Host.Cell := []
  /-- R408: dynamic requests waiting for a run of open-pool Twists, oldest first. -/
  queue : List DynReq := []
  /-- R408: fabric cycle until which each channel is busy with dynamic accesses. -/
  busy : Tab Nat := []
  /-- R408: bytes of the last read of each dynamic requester, and whether any was poisoned. -/
  reply : Tab (List Byte × Bool) := []
  /-- R412: Snag table of each bank, 16 × channel + bank: 32 entries of row + 1 (0 for none) and count. -/
  snag : Tab (List (Nat × Nat)) := []
  /-- R413: RFM still to be issued: channel, bank pair. -/
  rfm : List (Nat × Nat) := []
  /-- R413: activations held back: requester, 16 × channel + bank, fabric cycle at which the hold began. -/
  holds : List (Nat × Nat × Nat) := []
  /-- R411: fabric cycle of the last ZQ calibration latch of each channel. -/
  zq : Tab Nat := []
  /-- R411: steps of each delay line of a channel from its trained value. -/
  delays : Tab (List Int) := []
  /-- R415: line that a panic port reads again, and attempts made. -/
  panics : Tab (Option (Nat × Nat)) := []
  /-- R416: lines that reached an egress flow poisoned: flow, line. -/
  poisoned : List (Nat × Nat) := []
  /-- R536: 64-byte lines of the DRAM space (address / 64) that a checking MOVE has written poisoned. -/
  tags : Tab Bool := []
  /-- R418: fabric cycle at which the seam in progress began. -/
  seamFrom : Nat := 0
  deriving DecidableEq, Repr

/-- One physical block (R436, R438–R440). -/
structure NandBlock where
  /-- R439: erase count. -/
  erases : Nat := 0
  /-- R439: the count has been read, or made, since reset. -/
  counted : Bool := false
  /-- R440: reads since power-on or the last erase. -/
  reads : Nat := 0
  /-- R438: retired. -/
  retired : Bool := false
  /-- R429: pages programmed since the last erase. -/
  pages : Nat := 0
  deriving DecidableEq, Repr

/-- An entry of the event log (R443): what it records. -/
structure LogEntry where
  /-- R443: 1 for a fault, 2 for a rise of the fused security version (R571). -/
  kind : Nat := 0
  /-- R443: what is recorded. -/
  words : List Nat := []
  deriving DecidableEq, Repr

/-- An entry of the Reel (R513). -/
structure ReelEntry where
  /-- R513: SEQ. -/
  seq : Nat := 0
  /-- R513: TURN. -/
  turn : Nat := 0
  /-- R513: PLANE, with bit [2] for a device-wide command. -/
  plane : Nat := 0
  /-- R513: CODE. -/
  code : Nat := 0
  /-- R513: ORIGIN. -/
  origin : Nat := 0
  /-- R511: RESULT. -/
  result : Nat := 0
  /-- R513: TOKEN. -/
  token : Nat := 0
  /-- R513: EFFTURN. -/
  eff : Nat := 0
  /-- R513: DURABLE. -/
  durable : Bool := false
  /-- R513: FINAL. -/
  final : Bool := false
  /-- R513: ARGDIG. -/
  argdig : Nat := 0
  /-- R513: STATEDIG. -/
  statedig : Nat := 0
  deriving DecidableEq, Repr

/-- A Reel page in NAND (R514): acceptance images, then completion images. -/
structure ReelPage where
  /-- R436: PSEQ. -/
  pseq : Nat := 0
  /-- R514: slots 0 to 127. -/
  accept : List ReelEntry := []
  /-- R514: slots 128 to 255. -/
  complete : List ReelEntry := []
  deriving DecidableEq, Repr

/-- The NAND store: what no register shows. It keeps what it holds through every reset and without power, but for what power-on
clears. -/
structure Nand where
  /-- R430: anchors as read, of NC0 and NC1; none where the copy has not passed. -/
  anchors : Option AnchorRec × Option AnchorRec := (none, none)
  /-- R430: the channels whose anchor has been read since reset. -/
  anchorsRead : Bool × Bool := (false, false)
  /-- R434: newest record of each directory copy. -/
  copies : Option DirRec × Option DirRec := (none, none)
  /-- R446: directory copies that are worn. -/
  dirWorn : Bool × Bool := (false, false)
  /-- R433: the directory in SRAM. -/
  dir : DirRec := {}
  /-- R435: attempt counting is off, as no directory record passed. -/
  noCount : Bool := false
  /-- R438: physical blocks, by MAP entry. -/
  blocks : Tab NandBlock := []
  /-- R437, R440, R442: blocks queued for refresh, oldest first. -/
  refresh : List Nat := []
  /-- R441: pages read in the scrub pass in progress. -/
  scrubbed : Nat := 0
  /-- R441: fabric cycle at which the scrub pass in progress began. -/
  scrubFrom : Nat := 0
  /-- R443: event-log page in SRAM. -/
  logPage : List LogEntry := []
  /-- R443: entries in the LOG partition, newest page first. -/
  log : List (List LogEntry) := []
  /-- R443: fabric cycle of the last LOG program. -/
  logAt : Option Nat := none
  /-- R446: the LOG partition has stopped. -/
  logStopped : Bool := false
  /-- R514: pages in the REEL partition, newest first, at most its 65,536. -/
  reel : List ReelPage := []
  /-- R443: fabric cycle of the last Reel program. -/
  reelAt : Option Nat := none
  /-- R443: fabric cycle from which a calibration record may be stored again. -/
  calDue : Nat := 0
  /-- R443: fabric cycle from which the next working install token may accrue. -/
  tokDue : Nat := 0
  /-- R443: fabric cycle from which the next golden install token may accrue. -/
  goldDue : Nat := 0
  /-- R431: a calibration record exists. -/
  cal : Bool := false
  /-- R446: the CAL partition is worn. -/
  calWorn : Bool := false
  /-- R77: bytes of the image that an install wrote to each image partition, as they read back. -/
  images : Tab (List Byte) := []
  deriving DecidableEq, Repr

/-- One Strand lane: what its register block does not show. -/
structure StrLane where
  /-- R460: the last valid training set. -/
  last : List Byte := []
  /-- R462: valid training sets in a row. -/
  run : Nat := 0
  /-- R462: identical valid training sets in a row. -/
  same : Nat := 0
  /-- R462: TSB received since TSB has been sent, and sent. -/
  tsb : Nat := 0
  sent : Nat := 0
  /-- R463: DONE has been seen. -/
  done : Bool := false
  /-- R463: the tap request whose status has not arrived, coded as in TAPREQ, and the one that the next training set carries. -/
  req : Nat := 0
  ask : Nat := 0
  /-- R464: tap requests made. -/
  requests : Nat := 0
  /-- R464: DONE is sent. -/
  over_ : Bool := false
  /-- R463: TAPSTAT of the next training set. -/
  tapstat : Nat := 0
  /-- R460: the training set that the lane sends. -/
  tx : List Byte := []
  deriving DecidableEq, Repr

/-- One Strand group: what its register block does not show. -/
structure StrGroup where
  /-- R465: the bring-up in progress is a retrain, and retrains that have failed in a row. -/
  retrain : Bool := false
  fails : Nat := 0
  /-- R461, R462: fabric cycle at which the exchange failed, until it is retried. -/
  failAt : Option Nat := none
  /-- R462: the failure is one of width or lane numbers. -/
  cfgFail : Bool := false
  /-- R462: fabric cycle at which step 1 ended, or at which a retrain began. -/
  from0 : Nat := 0
  /-- R462: fabric cycle of the last rate change. -/
  rateFrom : Nat := 0
  /-- R463: fabric cycle at which tap adjustment began. -/
  tapFrom : Nat := 0
  /-- R460: RATES and CAPS of the partner. -/
  rates : Nat := 0
  caps : Nat := 0
  /-- R458: AM count of the next marker sent. -/
  amTx : Nat := 0
  /-- R462: aligned AMs in a row. -/
  amRun : Nat := 0
  /-- R465: fabric cycle of the last AM received. -/
  amAt : Nat := 0
  /-- R476: frames wait for the first AM after an exit burst. -/
  waitAm : Bool := false
  /-- R478: a retrain waits for the end of the exit burst. -/
  retrainAfter : Bool := false
  /-- R468: link sequence of the next frame sent, and expected. -/
  txSeq : Nat := 0
  rxSeq : Nat := 0
  /-- R473: CRCERR and SEQGAP of the partner's last remote status frame. -/
  remote : Option (Nat × Nat) := none
  /-- R476: fabric cycle at which the last frame was sent. -/
  lastTx : Nat := 0
  /-- R324: the line being sent is sent black. -/
  black : Bool := false
  /-- R467: the last frame sent. -/
  sent : List Byte := []
  /-- R456–R458: symbols of the last frame, marker or electrical-idle set sent, lane by lane; a K symbol carries bit [8]. -/
  wire : List (List Nat) := []
  deriving DecidableEq, Repr

/-- The Strand links: what no register shows. -/
structure Str where
  /-- R454: the 64 lanes. -/
  lanes : Tab StrLane := []
  /-- R455: groups, by first lane. -/
  groups : Tab StrGroup := []
  /-- R472: the receive ring of expansion payloads, oldest first, at most 256. -/
  ring : List (List Byte) := []
  deriving DecidableEq, Repr

/-- One interrupt source: what its register block does not show. -/
structure SrcRun where
  /-- R493: sensed edges accumulated toward a delivery. -/
  accum : Nat := 0
  /-- R493: fabric cycle of the first of them. -/
  accumAt : Option Nat := none
  /-- R493: the time rule has made the source deliverable. -/
  timed : Bool := false
  /-- R494: assertions in the present window. -/
  winCount : Nat := 0
  /-- R494: fabric cycle at which that window began. -/
  winFrom : Nat := 0
  /-- R494: fabric cycle at which a level source was asserted. -/
  heldFrom : Nat := 0
  /-- R490: the host message of the pending state has been sent. -/
  sent : Bool := false
  deriving DecidableEq, Repr

/-- A work item (R498): 16 bytes. -/
structure WorkItem where
  /-- R498: ARG. -/
  arg : Nat := 0
  /-- R498: AUX. -/
  aux : Nat := 0
  /-- R498: TAG. -/
  tag : Nat := 0
  /-- R498: HANDLER. -/
  handler : Nat := 0
  deriving DecidableEq, Repr

/-- One service core (R486, R487): what its register block does not show. -/
structure CoreRun where
  /-- R487: integer registers x1 to x31, and the second copy of 16 of them, by register number. -/
  x : Tab DWord := []
  alt : Tab DWord := []
  /-- R487: address of the next instruction. -/
  pc : DWord := 0
  /-- R487: FXSTATUS.FIE. -/
  fie : Bool := false
  /-- R487: FXEPC. -/
  fxepc : DWord := 0
  /-- R487: FXSRC. -/
  fxsrc : Nat := 0
  /-- R487: FXTVEC. -/
  fxtvec : DWord := 0
  /-- R486: mepc, mcause and mtvec of the core, for the exception of an FRET outside a fast handler. -/
  mepc : DWord := 0
  mcause : DWord := 0
  mtvec : DWord := 0
  /-- R487: mstatus.MIE and MPIE; the mode is machine mode. -/
  mie : Bool := false
  mpie : Bool := false
  /-- R491: in-service stack, top first. -/
  stack : List Nat := []
  /-- R499: queue whose item is offered. -/
  offer : Option Nat := none
  /-- R500: item held. -/
  item : Option WorkItem := none
  /-- R500: fabric cycle of TAKE. -/
  takenAt : Nat := 0
  /-- R500: the item has overrun. -/
  late : Bool := false
  /-- R500: fabric cycle of the fast entry. -/
  fastAt : Nat := 0
  /-- R579: a debug session has halted the core. -/
  halted : Bool := false
  deriving DecidableEq, Repr

/-- One work queue (R498): what its register block does not show. -/
structure QueueRun where
  /-- R498: items, oldest first. -/
  items : List WorkItem := []
  /-- R498: ENQ0 to ENQ2 as written last. -/
  enq : Nat × Nat × Nat := (0, 0, 0)
  /-- R499: core that ran the previous item. -/
  last : Option Nat := none
  /-- R499: fabric cycle at which the item began to wait for that core. -/
  waitFrom : Option Nat := none
  /-- R499: AFFWAIT has passed. -/
  waited : Bool := false
  deriving DecidableEq, Repr

/-- A completion (R505). -/
structure Completion where
  /-- R505: SEQ. -/
  seq : Nat := 0
  /-- R505: RESULT. -/
  result : Nat := 0
  /-- R505: DUP. -/
  dup : Bool := false
  /-- R505: FLUSHED. -/
  flushed : Bool := false
  /-- R505: FINAL. -/
  final : Bool := false
  /-- R505: PHASE. -/
  phase : Bool := false
  /-- R505: TOKEN. -/
  token : Nat := 0
  /-- R505: EFFTURN. -/
  eff : Nat := 0
  /-- R505: SQIDX. -/
  sqidx : Nat := 0
  /-- R505: CODE. -/
  code : Nat := 0
  deriving DecidableEq, Repr

/-- Who a command's completions go to (R503, R507): the host, with the submission index; an in-band sender, with its key slot and
address; nobody. -/
inductive Answer where
  | host (sqidx : Nat)
  | mgmt (slot : Nat) (source : Nat × Nat)
  | nobody
  deriving DecidableEq, Repr

/-- A journaled command that awaits its effective Turn or its action (R510). -/
structure PendCmd where
  /-- R513: SEQ. -/
  seq : Nat := 0
  /-- R510: plane whose Turn count the effective Turn is measured on. -/
  plane : Nat := 0
  /-- R510: effective Turn. -/
  eff : Nat := 0
  /-- R513: ORIGIN. -/
  origin : Nat := 1
  /-- R509: what the command asks. -/
  arg : CmdArg
  /-- R504: NOTIFY. -/
  notify : Bool := false
  /-- R504: TOKEN. -/
  token : Nat := 0
  /-- R505: where the second completion goes. -/
  answer : Answer := .nobody
  /-- R510: it has no effective Turn, and is final when its action ends. -/
  atOnce : Bool := false
  deriving DecidableEq, Repr

/-- A completion on its way, and where it goes (R503, R507). -/
structure Post where
  dest : Answer := .nobody
  comp : Completion := {}
  deriving DecidableEq, Repr

/-- An install in progress (R77). -/
structure Install where
  /-- R77: a golden image. -/
  golden : Bool := false
  /-- R77: image length. -/
  len : Nat := 0
  /-- R77: bytes received, by offset. -/
  data : Tab Byte := []
  /-- R77, R443: partitions that the image is to be written to. -/
  parts : List Nat := []
  /-- R513: Reel sequence of INSTALL_BEGIN. -/
  seq : Nat := 0
  deriving DecidableEq, Repr

/-- The service complex: what no register shows. -/
structure Svc where
  /-- R666: pulse sources that have pulsed and have not been sensed. -/
  pulses : Tab Bool := []
  /-- R488: the 1,024 interrupt sources. -/
  srcs : Tab SrcRun := []
  /-- R486: the 16 service cores. -/
  cores : Tab CoreRun := []
  /-- R498: the 256 work queues. -/
  queues : Tab QueueRun := []
  /-- R499: queue served last. -/
  lastQ : Nat := 255
  /-- R500: fabric cycle of the last DONE of any core. -/
  doneAt : Nat := 0
  /-- R490, R502: MSI-X vectors sent to the host, oldest first. -/
  msix : List Nat := []
  /-- R502: the PCIe link is up. -/
  linkUp : Bool := false
  /-- R514: the on-chip Reel, newest first, at most 4,096 entries. -/
  reel : List ReelEntry := []
  /-- R514: acceptance images waiting for a page, in sequence order. -/
  accImgs : List ReelEntry := []
  /-- R514: completion images waiting for a page, in the order of completion. -/
  doneImgs : List ReelEntry := []
  /-- R510: journaled commands that are not final, in ascending sequence. -/
  cmds : List PendCmd := []
  /-- R515: acknowledgements of DURABLE commands that wait for their page: sequence and completion. -/
  durable : List (Nat × Post) := []
  /-- R508: fabric cycles at which journaled commands of the last second were accepted. -/
  accepted : List Nat := []
  /-- R503: submission tail. -/
  sqTail : Nat := 0
  /-- R503: completion head, index of the next completion slot, and whether its PHASE is 1. -/
  cqHead : Nat := 0
  cqNext : Nat := 0
  cqPhase : Bool := true
  /-- R503: completions in the ring that the host has not freed, oldest first. -/
  ring : List Completion := []
  /-- R503: completions that wait for room in the ring. -/
  posts : List Completion := []
  /-- R507: answers to in-band messages, oldest first: the address and port they go to, and their bytes. -/
  mgmtOut : List ((Nat × Nat) × List Byte) := []
  /-- R507: last COUNTER accepted under each key slot. -/
  mgmtCnt : Tab (Option Nat) := []
  /-- R506: HELLO has succeeded since the rings were enabled. -/
  hello : Bool := false
  /-- R77: install in progress. -/
  install : Option Install := none
  /-- R509: what a LOGREAD wrote to the host last: host address and entries. -/
  logOut : Option (Nat × List LogEntry) := none
  /-- R518: a read (false) or a search (true) that has gone on to the NAND ring. -/
  fetch : Option Bool := none
  /-- R518: TOKEN and ORIGIN of that search. -/
  query : Nat × Nat := (0, 0)
  deriving DecidableEq, Repr

/-- Patterns of a column's self-test (R547). -/
inductive TestSet where
  | laneBist
  | laneMarch
  | padMarch
  | storeMarch
  | engineBist
  | loopback
  | full
  deriving DecidableEq, Repr

/-- Why a test is run (R546, R548, R556). -/
inductive TestKind where
  | fault
  | proof
  | command
  deriving DecidableEq, Repr

/-- A self-test in the queue, or running (R546). -/
structure SelfTest where
  /-- R546: physical column. -/
  col : Nat := 0
  /-- R548: why it is run. -/
  kind : TestKind := .fault
  /-- R547: union of the patterns of its causes. -/
  sets : List TestSet := []
  /-- R546: the test runs. -/
  running : Bool := false
  /-- R545: a fault has arisen under the patterns. -/
  failed : Bool := false
  /-- R548: the patterns have ended. -/
  ended : Bool := false
  /-- R550, R552: plan column whose work a spare holds meanwhile, and the spare. -/
  spare : Option (Nat × Nat) := none
  deriving DecidableEq, Repr

/-- When a reaction stops running (R541). -/
inductive ReactEnd where
  | turn
  | ms
  | verdict
  | release
  | reset
  deriving DecidableEq, Repr

/-- A reaction that runs (R541): its domain, level, source, plane, end and repeats. -/
structure Reaction where
  dom : Nat := 0
  level : Nat := 1
  cls : Nat := 0
  block : Nat := 0
  cause : Nat := 0
  plane : Option Nat := none
  ends : ReactEnd := .turn
  /-- R541: fabric cycle at which a level-1 reaction with no plane ends. -/
  endAt : Nat := 0
  /-- R544, R560: repeats. -/
  repeats : Nat := 0
  deriving DecidableEq, Repr

/-- Kinds of move of a plan column, as RETHREAD and SHED entries name them (R555). -/
inductive MoveKind where
  | fault
  | planned
  | shed
  | restore
  | back
  deriving DecidableEq, Repr

/-- A choice made in the tail for the next boundary (R552): plan column, the physical column it leaves and the one it goes to. -/
structure ColMove where
  pc : Nat := 0
  from_ : Option Nat := none
  dest : Option Nat := none
  kind : MoveKind := .fault
  deriving DecidableEq, Repr

/-- Integrity and safety: what no register shows. -/
structure Saf where
  /-- R539: faults detected that have not reached the collector, oldest first. -/
  inbox : List FaultMsg := []
  /-- R541: reactions running, oldest first. -/
  reacts : List Reaction := []
  /-- R546: the self-test queue, the running test included, at most 8. -/
  tests : List SelfTest := []
  /-- R546: faulty columns whose test waits for a place in the queue. -/
  waiting : List SelfTest := []
  /-- R549: physical columns that leave service at the boundary that the choice of R552 is next made for. -/
  leaving : List Nat := []
  /-- R546: work that goes back to a spare that has passed a test: plan column and spare. -/
  returns : List (Nat × Nat) := []
  /-- R552: choices for the next boundary of each plane. -/
  moves : Tab (List ColMove) := []
  /-- R550: overlaps in progress: plan column, outgoing column, incoming column. -/
  overlaps : List (Nat × Nat × Nat) := []
  /-- R546: plan column that each physical column served last since the last start. -/
  served : Tab (Option Nat) := []
  /-- R556: fabric cycle of the rotation's next visit; none before the first plane start. -/
  visitAt : Option Nat := none
  /-- R557: fabric cycle of the next minute of PTAGE. -/
  minuteAt : Nat := 48000000000
  deriving DecidableEq, Repr

/-- A check-value context (R531): 16 bytes of state. -/
structure CvuCtx where
  /-- R534: seeded. -/
  seeded : Bool := false
  /-- R531: mode: check, sequence fold. -/
  check : Bool := false
  seqFold : Bool := false
  /-- R532: fold header: fold address. -/
  fold : Nat := 0
  /-- R532: running CRC-32C. -/
  crc : Word := 0
  /-- R532: sequence number. -/
  seq : Nat := 0
  deriving DecidableEq, Repr

/-- A transfer in flight (R30, R225): its stream, descriptor, fabric cycle by which its data has passed, bytes as they passed, and
whether any is poisoned; the access was blocked. -/
structure InFlight where
  stream : Nat := 0
  desc : Nat := 0
  plane : Nat := 0
  data : List Byte := []
  poisoned : List Bool := []
  blocked : Bool := false
  void : Bool := false
  deriving DecidableEq, Repr


/-- A key slot's content that no register shows (R572, R575). -/
structure KeySlot where
  /-- R572: key bytes. -/
  key : List Byte := []
  deriving DecidableEq, Repr

/-- A key that waits in the key store for its effective Turn (R574). -/
structure PendKey where
  seq : Nat := 0
  slot : Nat := 0
  type : Nat := 0
  gen : Nat := 0
  key : List Byte := []
  deriving DecidableEq, Repr

/-- Instructions of the debug port's test access (R579, IEEE 1149.1). -/
inductive JtagIr where
  | bypass
  | idcode
  | sample
  | extest
  | clamp
  | highz
  | intest
  | scanDump
  | bist
  deriving DecidableEq, Repr

/-- A lifecycle request that has been accepted and is being carried out (R570). -/
inductive LcRequest where
  | provision (bytes : List Byte)
  | deploy
  | rma
  deriving DecidableEq, Repr

/-- Security and debug: what no register shows. -/
structure Sec where
  /-- R565: fuse rows IK0 to IK2. -/
  ik : List Nat := [0, 0, 0]
  /-- R565: fuse row KWK. -/
  kwk : Nat := 0
  /-- R572: key slots. -/
  slots : Tab KeySlot := []
  /-- R574: keys pending. -/
  pend : List PendKey := []
  /-- R582: fabric cycle at which the nonce was drawn. -/
  nonceAt : Option Nat := none
  /-- R582: token submitted, waiting for its verdict. -/
  token : Option (List Byte) := none
  /-- R582: fabric cycle at which it was submitted. -/
  tokenAt : Nat := 0
  /-- R582: fabric cycles of the tokens that failed in the last 60 s. -/
  fails : List Nat := []
  /-- R582: fabric cycle at which LOCKOUT was set. -/
  lockAt : Nat := 0
  /-- R583: fabric cycle at which the session ends. -/
  endAt : Nat := 0
  /-- R582: DURATION of a grant that awaits P2, seconds. -/
  dur : Nat := 0
  /-- R570: lifecycle request in progress. -/
  lc : Option LcRequest := none
  /-- R579: instruction of the test access port. -/
  ir : JtagIr := .idcode
  /-- R579: boundary register, and what the last operation shifted out. -/
  cells : List Bool := []
  shifted : List Bool := []
  /-- R579: control word of the memory BIST, as written last. -/
  bist : List Bool := []
  /-- R579: Spindles that a debugger has halted. -/
  haltedSpn : List Nat := []
  /-- R579: gates that a debugger has opened. -/
  gates : List Nat := []
  deriving DecidableEq, Repr

/-- Power: what no register shows. -/
structure Pwr where
  /-- R589: planes that ran when a stop began, to be restarted after the move. -/
  restart : List Nat := []
  /-- R589: variants that the planes ran when P1 was entered. -/
  before : Tab Nat := []
  /-- R418: division that the seam called for changes to: 6 when true. -/
  seam : Option Bool := none
  /-- R589: fabric cycle before which no plane restarts. -/
  holdUntil : Nat := 0
  /-- R589: the boot in progress stops in P2 after step 13. -/
  toP2 : Bool := false
  /-- R589: bytes written on MS0. -/
  ms0 : List Byte := []
  /-- R584: stop that a D2 or D3 grant, a lifecycle request or a POWER has begun on every plane. -/
  stopping : Bool := false
  /-- R645: watched rails below their trip level, and sensors too hot to release. -/
  tripped : List Nat := []
  hot : Bool := false
  deriving DecidableEq, Repr


/-- What the device sends of a plane's send flows under its two-ply role (R604). -/
structure PlyTx where
  /-- R604: 0 nothing, 1 every flow with both legs, 2 single-leg flows and its own leg, 3 its own leg. -/
  mode : Nat := 1
  /-- R610, R612: changes of what is sent, and the nominal send time in ns from which each holds, in order. -/
  next : List (Nat × Nat) := []
  deriving DecidableEq, Repr


/-- A state copy being received (R620): its Turn, its data by offset, TOTAL, and whether a frame of it has failed. -/
structure CopyIn where
  turn : Nat := 0
  parts : List (Nat × List Byte) := []
  total : Nat := 0
  bad : Bool := false
  deriving DecidableEq, Repr

/-- The two-ply pair: what no register shows. -/
structure Ply where
  /-- R604: what is sent of each plane. -/
  tx : Tab PlyTx := []
  /-- R609, R612; the ACTIVE pin. -/
  active : Bool := false
  /-- R605: HBCNT of the next heartbeat, and count of the next word. -/
  hbcnt : Nat := 0
  word : Nat := 0
  /-- R607: fabric cycles of the last valid heartbeat and of the last valid word, and valid ones in a row. -/
  lastA : Nat := 0
  lastB : Nat := 0
  runA : Nat := 0
  runB : Nat := 0
  /-- R606: counter of the last word. -/
  wordRx : Option Nat := none
  /-- R607: fail-over is declared. -/
  failover : Bool := false
  /-- R608: lease serial of the holder, and serials sent with their fabric cycles, newest first. -/
  serial : Nat := 0
  sent : List (Nat × Nat) := []
  /-- R608: newest serial seen, and the fabric cycle at which it was seen first. -/
  seen : Option Nat := none
  seenAt : Nat := 0
  /-- R605: the partner's last FLAGS, LEVEL and serial. -/
  pflags : Nat := 0
  plevel : Nat := 0
  /-- R608: newest serial that the partner has echoed. -/
  echo : Option Nat := none
  /-- R612: transfer in progress: X, in Turns of the reference plane, and whether it is acknowledged. -/
  transfer : Option (Nat × Bool) := none
  /-- R612: planes whose transfer instant has passed. -/
  moved : List Nat := []
  /-- R612: RELEASE has been received and acknowledged for this X. -/
  acked : Option Nat := none
  /-- R624: HOLD is in force. -/
  hold : Bool := false
  /-- R614: fabric cycle at which role resolution began. -/
  resolveAt : Option Nat := none
  /-- R614, R625: HELLO has been exchanged: common version, CAPS of the partner. -/
  hello : Option (Nat × Nat) := none
  caps : Nat := 0
  /-- R623: which leg assignment is to change: reference Turn, and whether the non-holder sends. -/
  legs : Option (Nat × Bool) := none
  /-- R623: the non-holder sends its leg. -/
  legOut : Bool := false
  /-- R615: refresh Turn of each plane under a JOIN; a JOIN has been sent or granted. -/
  join : List Nat := []
  joining : Bool := false
  /-- R622: in step on each plane. -/
  inStep : Tab Bool := []
  /-- R616: the last skew exceeded 5 µs. -/
  skewBad : Bool := false
  /-- R617: agreement records sent for units held, and received and not used yet. -/
  agree : List AgreeRec := []
  mine : List AgreeRec := []
  /-- R619: last state image of each plane, with its Turn. -/
  images : Tab (Nat × List Byte) := []
  /-- R620: copy being received of each plane: Turn, bytes by offset, TOTAL, and whether a frame has failed. -/
  copies : Tab CopyIn := []
  /-- R620: offset of the next copy frame that the holder sends of each plane. -/
  copyOut : Tab Nat := []
  /-- R624: journaled commands that wait to be forwarded: sequence, message and what it asks. -/
  forward : List (Nat × CmdMsg × CmdArg) := []
  /-- R622: conditions of KIND 0x08 and 0x0B that are pending, by plane. -/
  pending : Tab Bool := []
  /-- R607: a path is silent from the last check. -/
  silentA : Bool := false
  silentB : Bool := false
  /-- R612: a level-3 reaction calls for a transfer. -/
  want : Bool := false
  /-- R606: the last word sent. -/
  wordOut : Word := 0
  /-- R624: FENCE of a holder fences once its transfer has ended. -/
  fenceAfter : Bool := false
  /-- R619: key slots whose SRTP flows the non-holder mutes until their records match. -/
  keyMute : List Nat := []
  deriving DecidableEq, Repr


/-- Everything the manual gives the device. -/
structure Chip where
  /-- R13, R14; every register word that differs from its reset value, by BAR0 address. -/
  regs : Tab Word := []
  /-- model's own; free values drawn so far. -/
  free : Nat := 0
  /-- R24–R60; schedule sequencer and fabric. -/
  sched : Sched := {}
  /-- R61–R95; start-up. -/
  boot : Boot := {}
  /-- R66; tables of the running Skein. -/
  tables : SkeinTables := {}
  /-- R66, R87; variant deltas staged in DRAM at boot. -/
  variants : Tab SkeinTables := []
  /-- R87; pending variant switch of each plane (PENDVALID of VARIANTp says whether one is pending). -/
  varPend : Tab VarPend := []
  /-- R96–R123; ingest flow contexts. -/
  flows : Tab FlowRx := []
  /-- R124–R170; encode lanes. -/
  lanes : Lanes := {}
  /-- R171–R198; rate control of the encode channel contexts. -/
  rate : Tab ChanRate := []
  /-- R180; copies of it in DRAM, as the last completed P2 left it. -/
  rateCopy : Tab ChanRate := []
  /-- R199–R242; Spindle engine array. -/
  spn : Spindles := {}
  /-- R341–R344; time bases. -/
  tb : Tab TimeBase := []
  /-- R487–R526; service complex. -/
  svc : Svc := {}
  /-- R528–R564; integrity and safety. -/
  saf : Saf := {}
  /-- R243–R261; decode lanes. -/
  decs : Decs := {}
  /-- R262–R283; composition and scalers. -/
  cmp : Cmp := {}
  /-- R284–R306; audio ports. -/
  aud : Aud := {}
  /-- R312–R349; Ethernet, packetising and network time. -/
  net : Net := {}
  /-- R604–R633; two-ply redundancy. -/
  ply : Ply := {}
  /-- R360–R396; references, DPLL and clock outputs. -/
  clk : Clk := {}
  /-- R397–R428; DRAM. -/
  dram : Dram := {}
  /-- R429–R453; NAND store. -/
  nand : Nand := {}
  /-- R454–R485; Strand links. -/
  str : Str := {}
  /-- R565–R603; security and debug. -/
  sec : Sec := {}
  /-- R587–R603; power states. -/
  pwr : Pwr := {}
  /-- R531; check-value contexts. -/
  cvus : Tab CvuCtx := []
  /-- R30, R225; transfers in flight, oldest first. -/
  moves : List InFlight := []
  /-- R18, R657; shadows of 64-bit reads, 64 Mi × requester + address of the low word; value + 1. -/
  shadows : Tab Nat := []
  deriving DecidableEq, Repr

/-- The state: the device, and the commands waiting for it, first in, first out. -/
structure State where
  /-- The device. -/
  chip : Chip := {}
  /-- Commands waiting, oldest first. -/
  pending : List Instr := []
  deriving DecidableEq, Repr

/-- Why a step stops with a fault. -/
inductive Fault where
  /-- A dynamic access, a scrub access or a transfer's burst at a DRAM address outside the DRAM space of R398, which does not exist.
  Raised by DRAM_DYNAMIC_REQUEST, SCRUB_LINE and MOVE. Safe. -/
  | noSuchDramAddress
  deriving DecidableEq, Repr

/-- Why a step refuses a command. -/
inductive Refusal where
  /-- The command of that mnemonic has no meaning in this model. Raised by no command that has one. Safe. -/
  | notModelled (mnemonic : String)
  deriving DecidableEq, Repr

/-- The device right after power-on reset, its reset registers at their Reset values and nothing queued (R13, R79 step 1). -/
def State.reset : State := {}

end Sys2Proof.Machine
end

