-- ==== Sys2Proof/Machine/Ops.lean ====
section
/-! DEFINITION. The operations every family shares: reading and writing register fields, counters, free values, time, the
ring and the planes, the trace buffer, and the way of a fault to the collector and of a pulse to the interrupt controller. -/

namespace Sys2Proof.Machine

/-- A command's meaning changes the device and leaves the queue. -/
def onChip (f : Chip → Chip) (s : State) : Host.Outcome State Fault Refusal := .next { s with chip := f s.chip }

/-! ### Register fields -/

/-- The BAR0 address of instance `i` of a field's register (R667). -/
def Fld.at (f : Fld) (i : Nat) : Nat := f.addr + f.stride * i

/-- The number of bits of a field. -/
def Fld.width (f : Fld) : Nat := f.hi + 1 - f.lo

/-- The bits of the register word that a field occupies. -/
def Fld.mask (f : Fld) : Word := BitVec.ofNat 32 (2 ^ f.width - 1) <<< f.lo

/-- The value of a field in a register word (R7). -/
def Fld.read (f : Fld) (w : Word) : Nat := (w >>> f.lo).toNat % 2 ^ f.width

/-- A register word with one field replaced; the value is cut to the field's width. -/
def Fld.write (f : Fld) (w : Word) (v : Nat) : Word :=
  (w &&& ~~~ f.mask) ||| (BitVec.ofNat 32 (v % 2 ^ f.width) <<< f.lo)

/-- The word of the register at a BAR0 address. -/
def Chip.rd (c : Chip) (a : Nat) : Word := tabGet regReset c.regs a

/-- The device with the word of one register replaced. -/
def Chip.wr (c : Chip) (a : Nat) (w : Word) : Chip := { c with regs := tabSet regReset c.regs a w }

/-- The value of a field of instance `i` of its register. -/
def Chip.get (c : Chip) (f : Fld) (i : Nat := 0) : Nat := f.read (c.rd (f.at i))

/-- Whether a one-bit field is 1. -/
def Chip.on (c : Chip) (f : Fld) (i : Nat := 0) : Bool := c.get f i == 1

/-- The device with one field of instance `i` of its register replaced. -/
def Chip.set (c : Chip) (f : Fld) (i : Nat) (v : Nat) : Chip := c.wr (f.at i) (f.write (c.rd (f.at i)) v)

/-- The device with a one-bit field set to a truth value. -/
def Chip.setB (c : Chip) (f : Fld) (i : Nat) (b : Bool) : Chip := c.set f i (b2n b)

/-- A saturating counter raised by `n`. -/
def Chip.bump (c : Chip) (f : Fld) (i : Nat) (n : Nat := 1) : Chip :=
  c.set f i (min (2 ^ f.width - 1) (c.get f i + n))

/-- A counter that wraps, raised by `n`. -/
def Chip.count (c : Chip) (f : Fld) (i : Nat) (n : Nat := 1) : Chip := c.set f i (c.get f i + n)

/-- A count of the members now in a state, lowered by 1 and held at 0. -/
def Chip.drop (c : Chip) (f : Fld) (i : Nat) : Chip := c.set f i (c.get f i - 1)

/-- The 64-bit (or shorter) quantity of a low and a high field (R18). -/
def Chip.get2 (c : Chip) (lo hi : Fld) (i : Nat := 0) : Nat := c.get lo i + 2 ^ 32 * c.get hi i

/-- A 64-bit quantity written to its low and high fields. -/
def Chip.set2 (c : Chip) (lo hi : Fld) (i : Nat) (v : Nat) : Chip :=
  (c.set lo i (v % 2 ^ 32)).set hi i (v / 2 ^ 32)

/-- A 64-bit counter raised by `n`, wrapping. -/
def Chip.count2 (c : Chip) (lo hi : Fld) (i : Nat) (n : Nat := 1) : Chip :=
  c.set2 lo hi i ((c.get2 lo hi i + n) % 2 ^ 64)

/-- The list of operations carried out in order. -/
def Chip.each {α : Type} (c : Chip) (l : List α) (f : Chip → α → Chip) : Chip := l.foldl f c

/-- A change made only under a condition. -/
def Chip.when (c : Chip) (b : Bool) (f : Chip → Chip) : Chip := if b then f c else c

/-! ### Free values -/

/-- A free value, with the counter of uses advanced. -/
def Chip.draw (c : Chip) : BitVec 256 × Chip := (Config.freeValue c.free, { c with free := c.free + 1 })

/-! ### Time -/

/-- Nanoseconds per cycle of the fabric clock, over 4 (R24): 1.25 ns = 5 / 4. -/
def nsPerCycle : Nat × Nat := (5, 4)

/-- Time base b. -/
def Chip.base (c : Chip) (b : Nat) : TimeBase := tget {} c.tb b

/-- Time base b replaced. -/
def Chip.setBase (c : Chip) (b : Nat) (t : TimeBase) : Chip := { c with tb := tset {} c.tb b t }

/-- The reading of a time base in nanoseconds since the PTP epoch (short time, R9). -/
def Chip.ns (c : Chip) (b : Nat) : Nat := (c.base b).t40 / 2 ^ 40

/-- R92: microseconds since the release of reset: on RC, and then in fabric cycles. -/
def Chip.sinceReset (c : Chip) : Nat := c.boot.us + c.sched.cyc / 800

/-- R8: frames per second of a RATE code (R37), as a numerator and a denominator. -/
def frameRate : Nat → Nat × Nat
  | 0x0 => (24000, 1001) | 0x1 => (24, 1) | 0x2 => (25, 1) | 0x3 => (30000, 1001) | 0x4 => (30, 1) | 0x5 => (50, 1)
  | 0x6 => (60000, 1001) | 0x7 => (60, 1) | 0x8 => (100, 1) | 0x9 => (120000, 1001) | 0xA => (120, 1)
  | _ => (0, 1)

/-- The frame rate of plane p. -/
def Chip.rateOf (c : Chip) (p : Nat) : Nat × Nat := frameRate (c.get R.SEQ_PLANECFG_RATE p)

/-- The steady time base of plane p (R53). -/
def Chip.baseOf (c : Chip) (p : Nat) : Nat := c.get R.SEQ_PLANECFG_TBSEL p

/-- R28: the time of house frame pulse n of a plane, in nanoseconds, rounded down. -/
def pulseNs (rate : Nat × Nat) (n : Nat) : Nat := n * 1000000000 * rate.2 / rate.1

/-- R28, R35: the fabric cycle, in units of 2⁻¹⁶ cycle, of pulse n, from cycle `cyc` at which the base reads t40 and runs
with rate offset r (units of 2⁻⁴⁰): cyc + (time of the pulse − τ) / (1.25 × (1 + r)), ties upward. -/
def pulseCycle (rate : Nat × Nat) (n cyc t40 : Nat) (r : Int) : Int :=
  let num : Int := 4 * ((n * 1000000000 * rate.2 * 2 ^ 40 : Nat) - (t40 * rate.1 : Nat))
  let den : Nat := 5 * rate.1 * ((2 ^ 40 : Int) + r).toNat
  cyc * 65536 + roundDiv (num * 65536) den

/-! ### The ring and the planes -/

/-- The Turn count of plane p (R39, R56). -/
def Chip.turn (c : Chip) (p : Nat) : Nat := c.get2 R.SEQ_TURNCNTLO R.SEQ_TURNCNTHI p

/-- R24: the ring position of the present Twist. -/
def Chip.ringPos (c : Chip) : Nat := c.sched.cyc / 256 % 64

/-- R25, R52: the plane that owns a ring position; none for the open pool, which reserved codes act as. -/
def Chip.owner (c : Chip) (pos : Nat) : Option Nat :=
  let v := c.get ⟨0x100200, 4, 4 * (pos % 8) + 3, 4 * (pos % 8)⟩ (pos / 8)
  if v < 4 then some v else none

/-- The sequencer's state of plane p. -/
def Chip.plane (c : Chip) (p : Nat) : PlaneRun := tget {} c.sched.planes p

/-- The sequencer's state of plane p replaced. -/
def Chip.setPlane (c : Chip) (p : Nat) (v : PlaneRun) : Chip :=
  { c with sched := { c.sched with planes := tset {} c.sched.planes p v } }

/-- Whether plane p has started and not stopped. -/
def Chip.running (c : Chip) (p : Nat) : Bool := decide ((c.plane p).phase ≠ .stopped)

/-- R10, R39: the index of the house frame pulse of Turn count n of plane p, taken as the one nearest to the present Turn's. -/
def Chip.pulseIndex (c : Chip) (p n : Nat) : Nat := (((c.plane p).index : Int) + sdiff 40 n (c.turn p)).toNat

/-- R27: the plane that may use the present Twist: its owner, while that plane is in its body; none when the Twist belongs
to the open pool or is lent to it (a stopped plane's Twists are lent). -/
def Chip.twistPlane (c : Chip) : Option Nat :=
  match c.owner c.ringPos with
  | some p => if (c.plane p).phase = .body then some p else none
  | none => none

/-- R44: whether dynamic work may use the present Twist. -/
def Chip.openTwist (c : Chip) : Bool := c.twistPlane.isNone

/-! ### Columns -/

/-- R236: the physical column that serves plan column pc; none where it is not served. -/
def Chip.physCol (c : Chip) (pc : Nat) : Option Nat :=
  let k := pc % 4
  if c.get ⟨0x8C0010, 4, 8 * k + 7, 8 * k + 7⟩ (pc / 4) = 1 then some (c.get ⟨0x8C0010, 4, 8 * k + 3, 8 * k⟩ (pc / 4))
  else none

/-- R236: a plan column's entry of the map replaced. -/
def Chip.setPhysCol (c : Chip) (pc : Nat) (v : Option Nat) : Chip :=
  let k := pc % 4
  (c.set ⟨0x8C0010, 4, 8 * k + 7, 8 * k + 7⟩ (pc / 4) (b2n v.isSome)).set ⟨0x8C0010, 4, 8 * k + 3, 8 * k⟩ (pc / 4)
    (v.getD 0)

/-- R562: the plan column that physical column x serves, if any. -/
def Chip.planCol (c : Chip) (x : Nat) : Option Nat :=
  (List.range 16).find? (fun pc => c.physCol pc == some x)

/-- R21, R163: the Skein loads plan column pc. -/
def Chip.loaded (c : Chip) (pc : Nat) : Bool := c.on R.LANE_LANECFG_EN pc

/-- R668: the plane of a plan column. -/
def Chip.colPlane (c : Chip) (pc : Nat) : Option Nat :=
  if c.loaded pc then some (c.get R.LANE_LANECFG_PLANE pc) else none

/-! ### Trace and faults -/

/-- R59, R60: an event is written to the trace buffer if its kind is enabled. -/
def Chip.trace (c : Chip) (kind plane aux data : Nat) : Chip :=
  if c.on R.SEQ_TRCCFG_EN ∧ bit (c.get R.SEQ_TRCCFG_KINDS) (kind - 1) then
    let i := c.get R.SEQ_TRCSTAT_NEXT
    let e : TraceEntry := { kind := kind, plane := plane, aux := aux, turn := c.turn plane, data := data % 2 ^ 32 }
    let c := { c with sched := { c.sched with trace := tset {} c.sched.trace i e } }
    let c := c.set R.SEQ_TRCSTAT_NEXT 0 ((i + 1) % 8192)
    if i = 8191 then c.bump R.SEQ_TRCSTAT_WRAPS 0 else c
  else c

/-- R666: a pulse source asserts for one PER cycle. -/
def Chip.pulse (c : Chip) (source : Nat) : Chip :=
  { c with svc := { c.svc with pulses := tset false c.svc.pulses source true } }

/-- R539, R559, R668: a fault leaves for the collector, with the Turn count of its plane and the nanoseconds of that
plane's steady base, or of TB12 where it has no plane. -/
def Chip.fault (c : Chip) (level cls domain block cause unit : Nat) (plane : Option Nat) (tclass : Nat := 0) : Chip :=
  let (t, n) := match plane with
    | some p => (c.turn p, c.ns (c.baseOf p))
    | none => (0, c.ns 12)
  let m : FaultMsg := ⟨level, cls, domain, block, cause, unit, tclass, plane, t, n⟩
  { c with saf := { c.saf with inbox := c.saf.inbox ++ [m] } }

/-- BLOCK codes of R655. -/
def blkGlb : Nat := 0
def blkSeq : Nat := 1
def blkIng : Nat := 2
def blkLane : Nat := 3
def blkRate : Nat := 4
def blkSpn : Nat := 5
def blkDec : Nat := 6
def blkCmp : Nat := 7
def blkAud : Nat := 8
def blkNet : Nat := 9
def blkClk : Nat := 10
def blkDram : Nat := 11
def blkNand : Nat := 12
def blkStr : Nat := 13
def blkSvc : Nat := 14
def blkReel : Nat := 15
def blkSaf : Nat := 16
def blkSec : Nat := 17
def blkPwr : Nat := 18
def blkPly : Nat := 19

/-- R31, R46: whether a target class and INDEX name a unit of a column; an INDEX outside its class names none. -/
def columnUnit (cls idx : Nat) : Bool := (cls == 1 && decide (idx < 16)) || (cls == 2 && decide (idx < 192))

/-- R540: the safety domain of a target class and index (R31); a unit of a column falls in the domain of the physical
column that serves it, and an INDEX that names no unit of a column in the sequencer's. -/
def Chip.targetDomain (c : Chip) (cls idx : Nat) : Nat :=
  match cls with
  | 0x1 => if idx < 16 then (c.physCol idx).getD idx else 21
  | 0x2 => if idx < 192 then (c.physCol (idx / 12)).getD (idx / 12) else 21
  | 0x3 => 17
  | 0x4 | 0x5 => 18
  | 0x6 => 16
  | 0x7 => 20
  | 0x8 => 19
  | 0xA => 27
  | 0xB => 22
  | _ => 21

/-- R57, R58: SFSTAT, SFSLOT and SFTURN take a schedule fault of fabric cycle `cyc`. -/
def Chip.schedLatch (c : Chip) (fcls cause plane stream slot cyc : Nat) : Chip :=
  let c := (c.set R.SEQ_SFSTAT_VALID 0 1).set R.SEQ_SFSTAT_CLASS 0 fcls
  let c := (c.set R.SEQ_SFSTAT_CAUSE 0 cause).set R.SEQ_SFSTAT_PLANE 0 plane
  let c := (c.set R.SEQ_SFSTAT_STREAM 0 stream).set R.SEQ_SFSLOT 0 slot
  ({ c with sched := { c.sched with sfAt := cyc } }).set2 R.SEQ_SFTURNLO R.SEQ_SFTURNHI 0 (c.turn plane)

/-- R45, R47, R57, R58: a schedule fault of a slot word, in fabric cycle `cyc`: the first since VALID was cleared is latched, later ones
set MORE, and of two of one cycle the one of the lower stream counts as the first; every one is traced and goes to the collector (R540:
cause = class in [5:3] and cause in [2:0]; R542: level 2 in a column, else 1). -/
def Chip.schedFault (c : Chip) (fcls cause plane stream slot tcls tidx cyc : Nat) : Chip :=
  let word := 2 ^ 31 + fcls * 2 ^ 24 + cause * 2 ^ 20 + plane * 2 ^ 18 + stream * 2 ^ 12
  let c := c.trace 2 plane 0 word
  let first := c.sched.sfAt == cyc && decide (stream < c.get R.SEQ_SFSTAT_STREAM)
  let c :=
    if c.on R.SEQ_SFSTAT_VALID then (c.when first (·.schedLatch fcls cause plane stream slot cyc)).set R.SEQ_SFSTAT_MORE 0 1
    else c.schedLatch fcls cause plane stream slot cyc
  c.fault (if columnUnit tcls tidx then 2 else 1) 3 (c.targetDomain tcls tidx) blkSeq (8 * fcls + cause) tidx (some plane) tcls

/-! ### The DRAM space (R398) -/

/-- The byte at an address; none where nothing has been written since power-on. -/
def memGet : List Host.Cell → Nat → Option Byte
  | [], _ => none
  | (b, v) :: t, a => if a < b then none else if a = b then some v else memGet t a

/-- A byte written; addresses stay strictly rising. -/
def memPut : List Host.Cell → Nat → Byte → List Host.Cell
  | [], a, v => [(a, v)]
  | (b, w) :: t, a, v => if a < b then (a, v) :: (b, w) :: t else if a = b then (a, v) :: t else (b, w) :: memPut t a v

/-- Addresses at or above a bound, strictly rising. -/
def memWfFrom (lo : Nat) : List Host.Cell → Bool
  | [] => true
  | (a, _) :: t => decide (lo ≤ a) && memWfFrom (a + 1) t

/-- The canonical form of the memory. -/
def Memory.wf (m : List Host.Cell) : Bool := memWfFrom 0 m

/-- The byte that a read of the DRAM returns. -/
def Chip.dramByte (c : Chip) (a : Nat) : Byte := (memGet c.dram.mem a).getD (Config.dramPowerOn a)

/-- `n` bytes read from an address. -/
def Chip.dramRead (c : Chip) (a n : Nat) : List Byte := (List.range n).map (fun i => c.dramByte (a + i))

/-- Bytes written from an address up. -/
def memPutAll (m : List Host.Cell) (a : Nat) : List Byte → List Host.Cell
  | [] => m
  | v :: t => memPutAll (memPut m a v) (a + 1) t

/-- Bytes written to the DRAM from an address up. -/
def Chip.dramWrite (c : Chip) (a : Nat) (l : List Byte) : Chip :=
  { c with dram := { c.dram with mem := memPutAll c.dram.mem a l } }

/-! ### Check-value contexts (R531, R532) -/

/-- The run of check-value context n. -/
def Chip.cvu (c : Chip) (n : Nat) : CvuCtx := tget {} c.cvus n

/-- R563: the state of a check-value context replaced, with the seeded contexts of its unit counted. -/
def Chip.setCvu (c : Chip) (n : Nat) (v : CvuCtx) : Chip :=
  let c := { c with cvus := tset {} c.cvus n v }
  let u := n / 64
  c.set R.SAF_CVUSTAT_SEEDED u ((range' (64 * u) (64 * u + 64)).filter (fun k => (c.cvu k).seeded)).length

/-- R532: the mark of data: CRC-32C over a fold header and the bytes. The address fold holds the context, the DRAM address of the
first byte and the Turn count; the sequence fold the context, the sequence number and the Turn count. -/
def cvuMark (ctx : Nat) (v : CvuCtx) (addr turn : Nat) (data : List Byte) : Word :=
  crc32c (leBytes 2 ctx ++ (if v.seqFold then leBytes 4 v.seq else leBytes 8 addr) ++ leBytes 4 turn ++ data)

/-! ### Agreement between two plies (R616–R618) -/

/-- R630: the device is paired, in hot standby or dual-leg mode. -/
def Chip.plyOn (c : Chip) : Bool :=
  c.on R.PLY_PLYCFG_EN && (c.get R.PLY_PLYCFG_MODE == 1 || c.get R.PLY_PLYCFG_MODE == 2)

/-- R617, R618, R626: units are taken under agreement: path A is up, the pair is not warm, and a JOIN has been granted. -/
def Chip.agreeOn (c : Chip) : Bool :=
  c.plyOn && c.on R.PLY_PLYSTAT_PATHA && !c.on R.PLY_PLYSTAT_WARM && !c.ply.join.isEmpty &&
    (c.get R.PLY_PLYSTAT_ROLE == 1 || c.get R.PLY_PLYSTAT_ROLE == 2)

/-- R617: the agreement record of a unit. -/
def agreeRec (kind ctx line turn : Nat) (bytes : List Byte) : AgreeRec :=
  { ctx := ctx, kind := kind, line := line, turn := turn % 2 ^ 32, crc := crc32c bytes }

/-- R617: this device sends the record of a unit that it holds complete, while agreement is on. -/
def Chip.agreeSend (c : Chip) (r : AgreeRec) : Chip :=
  if c.agreeOn then { c with ply := { c.ply with mine := (r :: c.ply.mine).take 4096 } } else c

/-- R617, R618: a unit held complete may be taken: the partner's record has equal fields, or agreement is off. -/
def Chip.agreed (c : Chip) (r : AgreeRec) : Bool := !c.agreeOn || c.ply.agree.contains r

end Sys2Proof.Machine
end

