-- ==== Sys2Proof/Machine/Sequencer.lean ====
section
/-! DEFINITION. The schedule sequencer: streams and their words, marks, targets with their budgets, the frame-lock servo and
the schedule faults (The Schedule Contract). -/

namespace Sys2Proof.Machine

/-! ### Slot words (R29–R31) -/

/-- R29: OPCODE of a slot word. -/
def slotOp (w : DWord) : Nat := bits w.toNat 63 56
/-- R29: CLASS of a slot word. -/
def slotClass (w : DWord) : Nat := bits w.toNat 55 48
/-- R29: INDEX of a slot word. -/
def slotIndex (w : DWord) : Nat := bits w.toNat 47 36
/-- R29: ARG of a slot word. -/
def slotArg (w : DWord) : Nat := bits w.toNat 35 0
/-- R30: KERNEL of a RUN. -/
def slotKernel (w : DWord) : Nat := bits w.toNat 35 20
/-- R30: BUDGET of a RUN, or WAIT of a NOP. -/
def slotLow (w : DWord) : Nat := bits w.toNat 19 0
/-- R30: MARKNO of an AWAIT or a MARK. -/
def slotMark (w : DWord) : Nat := bits w.toNat 35 24
/-- R30: VALUE of an AWAIT or a MARK. -/
def slotValue (w : DWord) : Nat := bits w.toNat 23 0

/-- R31: the number of instances of a target class; 0 for a reserved class. -/
def classSize : Nat → Nat
  | 0x00 => 1 | 0x01 => 16 | 0x02 => 192 | 0x03 => 4 | 0x04 => 4 | 0x05 => 24 | 0x06 => 1024 | 0x07 => 1024 | 0x08 => 48
  | 0x09 => 2048 | 0x0A => 1 | 0x0B => 16 | 0x0C => 64 | _ => 0

/-- R30, R31: a word with a reserved opcode, an INDEX outside its class, or a RUN with BUDGET 0 is malformed. -/
def slotMalformed (w : DWord) : Bool :=
  decide (6 < slotOp w) ||
  decide (classSize (slotClass w) ≤ slotIndex w) ||
  (slotOp w == 1 && slotLow w == 0)

/-- The key of a target: class × 4,096 + index. -/
def targetKey (cls idx : Nat) : Nat := cls * 4096 + idx

/-! ### Streams (R32) -/

/-- The run of stream st. -/
def Chip.stream (c : Chip) (st : Nat) : StreamRun := tget {} c.sched.streams st

/-- The run of stream st replaced. -/
def Chip.setStream (c : Chip) (st : Nat) (v : StreamRun) : Chip :=
  { c with sched := { c.sched with streams := tset {} c.sched.streams st v } }

/-- The table of stream st (R29). -/
def Chip.streamDef (c : Chip) (st : Nat) : StreamDef := tget {} c.tables.streams st

/-- R32, R58, R234: the word that stream st issues next in the present Twist, with its index: the stream's plane owns the Twist and is
in its body, the stream waits at no NOP or TURN, and has issued fewer than 8 words in the Twist. In the first body after a handover the
index counts the re-threading words that come before the stream's own table, which the spec leaves open (DESIGN CHOICE, log entry
133). -/
def Chip.dueWord (c : Chip) (st : Nat) : Option (Nat × DWord) :=
  let d := c.streamDef st
  let r := c.stream st
  if c.twistPlane = some d.plane ∧ r.ended = false ∧ r.paused = false ∧ r.issued < 8 then
    ((r.extra ++ d.words)[r.next]?).map (fun w => (r.next, w))
  else none

/-- R32: the fabric cycle at which the next word of stream st issues: 32 × k of the Twist. -/
def Chip.issueCycle (c : Chip) (st : Nat) : Nat := c.sched.cyc + 32 * (c.stream st).issued

/-- R32: stream st moves past the word it has issued. -/
def Chip.advance (c : Chip) (st : Nat) : Chip :=
  let r := c.stream st
  c.setStream st { r with next := r.next + 1, issued := r.issued + 1 }

/-- R32: an owned Twist of plane p begins: its streams may issue again, and NOPs count it (R30). -/
def streamTwist (r : StreamRun) : StreamRun :=
  if r.wait ≤ 1 then { r with issued := 0, paused := false, wait := 0 } else { r with issued := 0, wait := r.wait - 1 }

/-- R32: at the first owned Twist of a body every stream of the plane stands at its first word. -/
def streamBody (r : StreamRun) : StreamRun := { r with next := 0, wait := 0, issued := 0, paused := false, ended := false }

/-- The streams bound to plane p. -/
def Chip.streamsOf (c : Chip) (p : Nat) : List Nat :=
  (List.range 64).filter (fun st => decide ((c.streamDef st).plane = p ∧ (c.streamDef st).words ≠ []))

/-! ### Marks and targets (R30, R45, R46) -/

/-- R32: a mark is written with a 24-bit value. -/
def Chip.writeMark (c : Chip) (n v : Nat) : Chip :=
  { c with sched := { c.sched with marks := tset none c.sched.marks (n % 4096) (some (v % 2 ^ 24)) } }

/-- R32: the marks of a list are written. -/
def Chip.writeMarks (c : Chip) (l : List (Nat × Nat)) : Chip := c.each l (fun c m => c.writeMark m.1 m.2)

/-- The target with a key. -/
def Chip.target (c : Chip) (k : Nat) : TargetRun := tget {} c.sched.targets k

/-- The target with a key replaced. -/
def Chip.setTarget (c : Chip) (k : Nat) (v : TargetRun) : Chip :=
  { c with sched := { c.sched with targets := tset {} c.sched.targets k v } }

/-- R210: a target completes: its pending marks are written and it is free; a substitute that waits for it starts. -/
def Chip.completeTarget (c : Chip) (k : Nat) : Chip :=
  let t := c.target k
  let c := c.writeMarks t.marks
  c.setTarget k {}

/-- R46: a target is aborted: its pending marks are not written. It stops within 16 fabric cycles. -/
def Chip.abortTarget (c : Chip) (k : Nat) : Chip :=
  let t := c.target k
  c.setTarget k { t with marks := [], aborting := true, work := .idle }

/-- R46: a stream's RUNs on a target run substitutes after a failed AWAIT on it. -/
def Chip.substOn (c : Chip) (st k : Nat) : Bool := (c.stream st).subst.contains k

/-! ### The servo (R35–R41) -/

/-- R35, R41: the tail of the present Turn of plane p, computed at cycle `cyc` from its base: (Lₙ, clamp, tₙ₊₁). While the
base is invalid the nominal tail less gₙ is used. -/
def Chip.servo (c : Chip) (p : Nat) : Nat × Bool × Nat :=
  let r := c.plane p
  let rate := c.rateOf p
  let b := c.baseOf p
  if c.on R.NET_TBSTAT_VALID b then
    let h := pulseCycle rate (r.index + 1) c.sched.cyc (c.base b).t40 (c.base b).rate
    let l : Int := roundDiv h 65536 - r.t - r.lead - r.body
    let lo : Int := c.get R.SEQ_TAILCTL_MINCYC p
    let hi : Int := c.get R.SEQ_TAILCTL_MAXCYC p
    let l' := if l < lo then lo else l
    let l'' := if hi < l' then hi else l'
    (l''.toNat, decide (l ≠ l''), r.t + r.lead + r.body + l''.toNat)
  else
    let l := nominalTail rate (c.get R.SEQ_PLANECFG_BODYREV p) - r.lead
    (l, false, r.t + r.lead + r.body + l)

/-- R55: eₙ in whole cycles, ties upward, saturating at ±32,767, as the field holds it. -/
def errField (e : Int) : Nat := toField 16 (clampI (roundDiv e 65536) (-32767) 32767)

/-- R40: whether |eₙ| exceeds 640 cycles, with its fraction bits. -/
def errExceeds (e : Int) : Bool := decide (640 * 65536 < e.natAbs)

/-- R26: the lead of a Turn that begins at cycle t. -/
def leadOf (t : Nat) : Nat := (256 - t % 256) % 256

/-- R40, R41, R542: a timing fault of plane p goes to the collector and TFAULT is set. -/
def Chip.timingFault (c : Chip) (p : Nat) : Chip :=
  (c.set R.SEQ_PLANESTAT_TFAULT p 1).fault 3 2 21 blkSeq 0x03 p (some p)

/-- R41: every running plane that uses a base raises a timing fault when the base reports itself invalid. -/
def Chip.baseInvalid (c : Chip) (b : Nat) : Chip :=
  c.each (List.range 4) (fun c p => c.when (c.running p && c.baseOf p == b) (·.timingFault p))

/-- R28: the index of the last house frame pulse that plane p's base has reached by the end of the present Twist. -/
def Chip.lastPulse (c : Chip) (p : Nat) : Nat :=
  let r := c.rateOf p
  let b := c.base (c.baseOf p)
  let t : Int := b.t40 + 320 * ((2 ^ 40 : Int) + b.rate)
  if r.1 = 0 then 0 else t.toNat * r.1 / (1000000000 * r.2 * 2 ^ 40)

/-- R35: hₙ of a pulse index, in units of 2⁻¹⁶ cycle, from the base as it now reads. -/
def Chip.pulseAt (c : Chip) (p n : Nat) : Int :=
  let b := c.base (c.baseOf p)
  pulseCycle (c.rateOf p) n c.sched.cyc b.t40 b.rate

/-- R38, R39: plane p begins its first Turn at pulse n: on the fabric cycle nearest the pulse, ties to the earlier. -/
def Chip.beginPlane (c : Chip) (p n : Nat) : Chip :=
  let h := c.pulseAt p n
  let t := ((2 * h + 65535) / 131072).toNat
  let k := c.get R.SEQ_PLANECFG_BODYREV p
  let e : Int := (t : Int) * 65536 - h
  let c := c.setPlane p
    { phase := .lead, t := t, lead := leadOf t, body := k * 16384, tail := 0, tnext := 0, servoDone := false, clamp := false, index := n,
      pulseIdx := n, pulseAt := h, err := e, excess := false, stopReq := false, stopTurn := none, drainAt := 0 }
  let c := c.set2 R.SEQ_TURNCNTLO R.SEQ_TURNCNTHI p (n % 2 ^ 40)
  let c := c.set R.SEQ_PLANESTAT_ERRCYC p (errField e)
  c.setB R.SEQ_PLANESTAT_LOCKED p (c.on R.NET_TBSTAT_VALID (c.baseOf p))

/-- R46: a schedule fault of a stream's word in fabric cycle `cyc`: the plane is the stream's. -/
def Chip.streamFault (c : Chip) (fcls cause st slot tcls tidx cyc : Nat) : Chip :=
  c.schedFault fcls cause (c.streamDef st).plane st slot tcls tidx cyc

/-- R45: what a static access of plane p in the Twist j after the present one breaks: cause 0x1 in a Twist that the plane does not own, 0x2 in
its lead or tail. -/
def Chip.accessCause (c : Chip) (p j : Nat) : Option Nat :=
  let r := c.plane p
  let at_ := c.sched.cyc + 256 * j
  if r.phase ≠ .body ∨ r.t + r.lead + r.body ≤ at_ then some 2
  else if c.owner (at_ / 256 % 64) = some p then none else some 1

/-- R47: the rank of a class: ownership breach, overrun, budget breach, late data. -/
def classRank : Nat → Nat
  | 4 => 4 | 2 => 3 | 3 => 2 | _ => 1

/-- R47: of the classes whose conditions one word meets, the one that is recorded. -/
def worstClass (l : List Nat) : Option Nat :=
  l.foldl (fun b k => match b with
    | some x => if classRank x < classRank k then some k else some x
    | none => some k) none

/-! ### Runs of open-pool Twists (R27, R44) -/

/-- R27: whether the Twist that begins at fabric cycle `at_` belongs to a plane that is then in its body, as the planes' present
Turns foresee it. A plane in its tail begins its body no earlier than its next boundary allows. -/
def Chip.ownedAt (c : Chip) (at_ : Nat) : Bool :=
  match c.owner (at_ / 256 % 64) with
  | none => false
  | some p =>
    let r := c.plane p
    let start := r.t + r.lead
    match r.phase with
    | .stopped => false
    | .lead => decide (start ≤ at_ ∧ at_ < start + r.body)
    | .body => decide (at_ < start + r.body) || decide (r.tnext ≠ 0 ∧ r.tnext ≤ at_)
    | .tail => decide (r.tnext ≤ at_)

/-- R322, R408: the open-pool Twists in a row from the present one, lent Twists included, up to one revolution. -/
def Chip.openRun (c : Chip) : Nat :=
  ((List.range 64).takeWhile (fun j => if j = 0 then c.openTwist else !c.ownedAt (c.sched.cyc + 256 * j))).length

end Sys2Proof.Machine
end

