-- ==== Sys2Proof/Machine/Ingest.lean ====
section
/-! DEFINITION. Video ingest and preanalysis: the ST 2022-7 merge, alignment to Turns, line slots, substitution, line Thread
marks, ancillary data, quarter-resolution samples and complexity records (Video Ingest and Preanalysis). -/

namespace Sys2Proof.Machine

/-! ### Flow contexts -/

/-- R120: leg A's context of a flow: in a pair the even context serves both legs. -/
def Chip.legA (c : Chip) (f : Nat) : Nat :=
  if f % 2 = 1 ∧ c.on R.ING_FLOWCFG_DUAL (f - 1) ∧ c.on R.ING_FLOWCFG_EN (f - 1) then f - 1 else f

/-- R120: whether a flow context is ingested: EN with a SRC that is not reserved. -/
def Chip.flowOn (c : Chip) (f : Nat) : Bool := c.on R.ING_FLOWCFG_EN f && decide (c.get R.ING_FLOWCFG_SRC f < 4)

/-- R120: whether flow f is leg A of a pair; DUAL is ignored if f is odd. -/
def Chip.flowDual (c : Chip) (f : Nat) : Bool := c.on R.ING_FLOWCFG_DUAL f && f % 2 == 0

/-- The ingest state of flow f. -/
def Chip.flow (c : Chip) (f : Nat) : FlowRx := tget {} c.flows f

/-- The ingest state of flow f replaced. -/
def Chip.setFlow (c : Chip) (f : Nat) (v : FlowRx) : Chip := { c with flows := tset {} c.flows f v }

/-- R112: whether a flow carries ancillary data. -/
def Chip.flowIsAnc (c : Chip) (f : Nat) : Bool := decide (2 ≤ c.get R.ING_FLOWCFG_SRC f)

/-- R96: bytes of a line, or line pair, of flow f. -/
def Chip.flowLineBytes (c : Chip) (f : Nat) : Nat :=
  lineBytes (c.get R.ING_FLOWCFG_RASTER f) (c.on R.ING_FLOWCFG_CHROMA f)

/-- R96: luma lines of flow f. -/
def Chip.flowHeight (c : Chip) (f : Nat) : Nat := (rasterSize (c.get R.ING_FLOWCFG_RASTER f)).2

/-! ### Alignment (R102, R103) -/

/-- R113: the FOFF a flow takes: an ancillary flow that of the video member of its group. -/
def Chip.flowFoff (c : Chip) (f : Nat) : Nat :=
  let v := if c.flowIsAnc f then (List.range 1024).find? (fun v => c.flowOn v && !c.flowIsAnc v &&
      c.get R.ING_FLOWCFG_GROUP v == c.get R.ING_FLOWCFG_GROUP f) else none
  c.get R.ING_FLOWCFG_FOFF (v.getD f)

/-- R102: the expected stamp Eₙ of flow f for Turn n, 32 bits. -/
def Chip.expectedStamp (c : Chip) (f n : Nat) : Nat :=
  let p := c.get R.ING_FLOWCFG_PLANE f
  let r := c.rateOf p
  let n := c.pulseIndex p n
  let foff := c.flowFoff f
  if c.on R.ING_FLOWCFG_ALIGN f then (pulseNs r n + c.get R.ING_ARROFF f) % 2 ^ 32
  else if c.get R.ING_FLOWCFG_SRC f = 1 ∨ c.get R.ING_FLOWCFG_SRC f = 2 then (n - foff) * 90000 * r.2 / r.1 % 2 ^ 32
  else pulseNs r (n - foff) % 2 ^ 32

/-- R102: TOL of flow f in the units of its stamps: ticks for ST 2110 stamps, ns (TOL is in µs) otherwise. -/
def Chip.stampTol (c : Chip) (f : Nat) : Nat :=
  let tol := c.get R.ING_FLOWTIME_TOL f
  if c.on R.ING_FLOWCFG_ALIGN f = false ∧ (c.get R.ING_FLOWCFG_SRC f = 1 ∨ c.get R.ING_FLOWCFG_SRC f = 2) then tol
  else tol * 1000

/-- R102: frame periods between a stamp and the expected stamp of the present Turn, rounded to the nearest. -/
def Chip.stampTurns (c : Chip) (f s : Nat) : Int :=
  let p := c.get R.ING_FLOWCFG_PLANE f
  let r := c.rateOf p
  let d := sdiff 32 s (c.expectedStamp f (c.turn p))
  let perSecond : Nat :=
    if c.on R.ING_FLOWCFG_ALIGN f = false ∧ (c.get R.ING_FLOWCFG_SRC f = 1 ∨ c.get R.ING_FLOWCFG_SRC f = 2) then 90000
    else 1000000000
  roundDiv (d * r.1) (perSecond * r.2)

/-- R103: the Turn that a picture with stamp s belongs to, if any: |S − Eₙ| ≤ TOL, signed over 32 bits. -/
def Chip.matchTurn (c : Chip) (f s : Nat) : Option Nat :=
  let p := c.get R.ING_FLOWCFG_PLANE f
  let n := (((c.turn p : Int) + c.stampTurns f s) % (2 ^ 40 : Int)).toNat
  if (sdiff 32 s (c.expectedStamp f n)).natAbs ≤ c.stampTol f then some n else none

/-! ### Members (R107) -/

/-- R107, R123: member f joins: the repeat run returns to 0 and one member fewer is in UNDERRUN. -/
def Chip.joinFlow (c : Chip) (f : Nat) : Chip :=
  if c.on R.ING_FLOWSTAT_JOINED f then c
  else
    let c := (c.set R.ING_FLOWSTAT_JOINED f 1).set R.ING_FLOWSTAT_REPEATRUN f 0
    c.drop R.ING_GROUPSTAT_UNDER (c.get R.ING_FLOWCFG_GROUP f)

/-- R107: a picture of Turn n matched in UNDERRUN joins the member in the Turn it belongs to; under agreement it counts as
matched once a line of it is taken (R617). -/
def Chip.flowMatched (c : Chip) (f n : Nat) : Chip :=
  if c.on R.ING_FLOWSTAT_JOINED f || c.agreeOn then c
  else if !later 40 n (c.turn (c.get R.ING_FLOWCFG_PLANE f)) then c.joinFlow f
  else c.setFlow f { c.flow f with joinAt := some n }

/-- R107: the end of Turn n of its plane for video member f, and the start of Turn n + 1. -/
def Chip.memberTurnEnd (c : Chip) (f n : Nat) : Chip :=
  let x := c.flow f
  let g := c.get R.ING_FLOWCFG_GROUP f
  let taken := if x.cur.turn = some n then x.cur.taken else 0
  let c :=
    if c.on R.ING_FLOWSTAT_JOINED f then
      if 0 < taken then c
      else
        let c := (c.set R.ING_FLOWSTAT_JOINED f 0).set R.ING_FLOWSTAT_REPEATRUN f 1
        let c := (c.bump R.ING_SUBPICS_PICS f).count R.ING_GROUPSTAT_UNDER g
        c.pulse (256 + f / 16)
    else (c.bump R.ING_FLOWSTAT_REPEATRUN f).bump R.ING_SUBPICS_PICS f
  let c := c.setFlow f { c.flow f with runStart := c.get R.ING_FLOWSTAT_REPEATRUN f }
  match x.joinAt with
  | some m => if !later 40 m (n + 1) then (c.setFlow f { c.flow f with joinAt := none }).joinFlow f else c
  | none => c

/-- The video members of plane p: leg A contexts of its ingested raster flows. -/
def Chip.videoFlows (c : Chip) (p : Nat) : List Nat :=
  (List.range 1024).filter (fun f =>
    c.flowOn f && !c.flowIsAnc f && c.get R.ING_FLOWCFG_PLANE f == p && c.legA f == f)

/-- R107: a plane start or restart puts a member in UNDERRUN with no earlier picture. -/
def Chip.memberRestart (c : Chip) (f : Nat) : Chip :=
  let c := if c.on R.ING_FLOWSTAT_JOINED f then c.count R.ING_GROUPSTAT_UNDER (c.get R.ING_FLOWCFG_GROUP f) else c
  let c := (c.set R.ING_FLOWSTAT_JOINED f 0).set R.ING_FLOWSTAT_REPEATRUN f 0
  c.setFlow f { c.flow f with cur := {}, prev := {}, older := [], pics := [], joinAt := none, matched := [], dead := [], runStart := 0 }

/-- R107, R123: at a plane start every member of the plane is in UNDERRUN, and each group counts its own. -/
def Chip.membersStart (c : Chip) (p : Nat) : Chip :=
  let fs := c.videoFlows p
  let c := c.each fs (fun c f => c.memberRestart f)
  c.each (List.range 256) (fun c g =>
    if c.on R.ING_GROUPSTAT_EN g ∧ c.get R.ING_GROUPSTAT_PLANE g = p then
      c.set R.ING_GROUPSTAT_UNDER g ((fs.filter (fun f => c.get R.ING_FLOWCFG_GROUP f == g)).length)
    else c)

/-! ### Receive buffers -/

/-- Bytes held in the receive buffer of a flow (R101). -/
def heldBytes (x : FlowRx) : Nat :=
  (x.pics.map (fun p => (p.lines.map (fun l => (l.2.map (fun s => s.data.length)).sum)).sum)).sum

/-- A segment is added to a line's list. -/
def addSeg (l : List LineSeg) (s : LineSeg) : List LineSeg := l ++ [s]

/-- R104: the bytes of a line if every byte of it is present: segments are taken in order of offset, each starting where
the bytes so far end. `fuel` bounds the number of segments. -/
def assemble (bytesPerPixelTimes4 total : Nat) : Nat → List LineSeg → List Byte → Option (List Byte)
  | 0, _, acc => if acc.length = total then some acc else none
  | n + 1, segs, acc =>
    if acc.length = total then some acc
    else match segs.find? (fun s => decide (s.off * bytesPerPixelTimes4 = acc.length * 4) && !s.data.isEmpty) with
      | some s => assemble bytesPerPixelTimes4 total n segs (acc ++ s.data)
      | none => none

/-- R104: the packed bytes of line `l` of a picture, if complete and not discarded. 2.5 bytes per pixel of a 4:2:2 line,
3.75 per pixel of a 4:2:0 line pair. -/
def Chip.lineOf (c : Chip) (f : Nat) (pic : RxPic) (l : Nat) : Option (List Byte) :=
  let segs := tget [] pic.lines l
  if l ∈ pic.bad then none
  else assemble (if c.on R.ING_FLOWCFG_CHROMA f then 10 else 15) (c.flowLineBytes f) segs.length segs []

/-- R97, R98: whether a segment fits the declared raster. -/
def Chip.segFits (c : Chip) (f : Nat) (s : LineSeg) : Bool :=
  let k := if c.on R.ING_FLOWCFG_CHROMA f then 10 else 15
  decide (s.line < c.flowHeight f) && decide (s.off * k / 4 + s.data.length ≤ c.flowLineBytes f) &&
    decide (s.data.length % (if c.on R.ING_FLOWCFG_CHROMA f then 5 else 15) = 0)

/-- Segments put into a picture; those that do not fit are discarded and leave their line late (R98, R101). -/
def Chip.putSegs (c : Chip) (f : Nat) (pic : RxPic) (segs : List LineSeg) : RxPic :=
  segs.foldl (fun pic s =>
    if c.segFits f s then { pic with lines := tset [] pic.lines s.line (addSeg (tget [] pic.lines s.line) s) }
    else { pic with bad := if s.line ∈ pic.bad then pic.bad else s.line :: pic.bad }) pic

/-- R617: the agreement records of the lines that these segments complete. -/
def Chip.agreeLines (c : Chip) (f s : Nat) (segs : List LineSeg) : Chip :=
  if !c.agreeOn then c
  else match (c.flow f).pics.find? (fun q => q.stamp == s) with
    | some pic => c.each ((segs.map (·.line)).dedup) (fun c l => match c.lineOf f pic l with
        | some b => c.agreeSend (agreeRec 0 f l pic.turn b)
        | none => c)
    | none => c

/-- R104: whether the slot of a line of the picture for Turn n has passed. -/
def FlowRx.linePassed (x : FlowRx) (n line : Nat) : Bool :=
  match [x.cur, x.prev].find? (fun p => p.turn == some n) with
  | some p => p.lines.any (fun e => e.1 == line)
  | none => match x.cur.turn with
    | some m => later 40 m n
    | none => false

/-- R103: whether the picture with stamp s has been discarded whole, in the present Turn of its plane or the one before. -/
def Chip.stampDead (c : Chip) (f s : Nat) : Bool :=
  let now := c.turn (c.get R.ING_FLOWCFG_PLANE f)
  (c.flow f).dead.any (fun d => d.1 == s && decide ((sdiff 40 now d.2).natAbs ≤ 1))

/-- R103, R113: a picture of flow f is discarded whole, and counted once as mismatched. -/
def Chip.discardPic (c : Chip) (f s : Nat) : Chip :=
  let x := c.flow f
  (c.setFlow f { x with dead := ((s, c.turn (c.get R.ING_FLOWCFG_PLANE f)) :: x.dead).take 8 }).bump R.ING_SUBPICS_MISM f

/-- R103, R113: the first bytes of a picture with stamp s on flow f: the Turn it is taken for. One whose stamp matches no Turn, or a Turn
that an earlier picture of the flow has matched, is discarded whole. -/
def Chip.newPicture (c : Chip) (f s : Nat) : Chip × Option Nat :=
  match c.matchTurn f s with
  | none => (c.discardPic f s, none)
  | some n =>
    let x := c.flow f
    if x.matched.contains n then (c.discardPic f s, none)
    else ((c.setFlow f { x with matched := (n :: x.matched).take 8 }).set R.ING_LASTSTAMP f s, some n)

/-- R101, R104: segments of a matched picture reach the receive buffer: bytes of a line past its slot are discarded, and a packet that
finds the buffer full leaves its lines late. -/
def Chip.bufferSegs (c : Chip) (f s : Nat) (segs : List LineSeg) : Chip :=
  let x := c.flow f
  match x.pics.find? (fun q => q.stamp == s) with
  | none => c
  | some pic =>
    let segs := segs.filter (fun g => !x.linePassed pic.turn g.line)
    let len := (segs.map (fun g => g.data.length)).sum
    let full := decide ((tget {} c.tables.flows f).bufBytes < heldBytes x + len)
    let pic' := if full then { pic with bad := segs.map (fun g => g.line) ++ pic.bad } else c.putSegs f pic segs
    let c := c.setFlow f { x with pics := x.pics.map (fun q => if q.stamp == s then pic' else q) }
    if full then c.set R.ING_FLOWSTAT_OVFL f 1 else c.agreeLines f s segs

/-- R103: segments of a picture with stamp s arrive on flow f (leg A's context); `fresh` where they begin another picture than the one
before though its stamp is the same. -/
def Chip.takeSegs (c : Chip) (f s : Nat) (segs : List LineSeg) (fresh : Bool := false) : Chip :=
  if !fresh && c.stampDead f s then c
  else if !fresh && (c.flow f).pics.any (fun q => q.stamp == s) then c.bufferSegs f s segs
  else match c.newPicture f s with
    | (c, none) => c
    | (c, some n) =>
      let x := c.flow f
      ((c.setFlow f { x with pics := x.pics ++ [{ stamp := s, turn := n }] }).flowMatched f n).bufferSegs f s segs

/-! ### ST 2022-7 merge (R100, R101) -/

/-- R122: a duplicate is discarded; the register holds the number of duplicates divided by 65,536. -/
def Chip.countDup (c : Chip) (f : Nat) : Chip :=
  let d := (c.flow f).dups + 1
  (c.setFlow f { c.flow f with dups := d }).set R.ING_MERGECNT_DUPS f (min 255 (d / 65536))

/-- R100: how many line periods a packet (stamp, line) is older than the newest taken; a picture counts its lines. -/
def Chip.linesOlder (c : Chip) (f stamp line : Nat) : Int :=
  let x := c.flow f
  let r := c.rateOf (c.get R.ING_FLOWCFG_PLANE f)
  let pics := roundDiv (sdiff 32 x.newestStamp stamp * r.1) (90000 * r.2)
  pics * c.flowHeight f + x.newestLine - line

/-- R101: a leg delivers a packet at time t. -/
def Chip.legHeard (c : Chip) (f : Nat) (isB : Bool) (t : Nat) : Chip :=
  let x := c.flow f
  if isB then
    let c := c.setFlow f { x with legB := some t }
    if c.flowDual f then c.set R.ING_FLOWSTAT_LEGBUP f 1 else c
  else (c.setFlow f { x with legA := some t }).set R.ING_FLOWSTAT_LEGAUP f 1

/-- R100: the packet that stands after a missing number is more than the merge window older than the newest, so every copy of the number
will be; on a single leg the window is a picture. -/
def Chip.missPast (c : Chip) (f : Nat) (e : MissSeq) : Bool :=
  let w := if c.flowDual f then c.get R.ING_FLOWTIME_SKEWLN f else c.flowHeight f
  decide ((w : Int) < c.linesOlder f e.hi.2.1 e.hi.2.2)

/-- R100: a number missing from both legs: one that every leg now up has passed, or whose window is over. -/
def Chip.missBoth (c : Chip) (f : Nat) (e : MissSeq) : Bool :=
  let x := c.flow f
  let passed (leg : Option Nat) (up : Bool) : Bool :=
    !up || (match leg with | some m => later 32 m e.seq | none => false)
  (passed x.legNewest.1 (c.on R.ING_FLOWSTAT_LEGAUP f) && passed x.legNewest.2 (c.on R.ING_FLOWSTAT_LEGBUP f)) || c.missPast f e

/-- R100: numbers missing from both legs when a later packet of the same picture has been taken are lost on both; of one between two
pictures no packet tells the picture. -/
def Chip.countLost (c : Chip) (f : Nat) : Chip :=
  let x := c.flow f
  let lost (e : MissSeq) : Bool := !e.counted && e.lo.2 == e.hi.2.1 && c.missBoth f e
  let left := (x.missing.filter (fun e => !c.missPast f e)).map (fun e =>
    { e with counted := e.counted || lost e, gone := e.gone || c.missBoth f e })
  let new := (x.missing.filter (fun e => !e.gone && c.missBoth f e)).length
  (c.setFlow f { x with missing := left, losses := x.losses + new }).bump R.ING_MERGECNT_BOTHLOST f (x.missing.filter lost).length

/-- R100: a missing number s arrives: the packets that stand around the others. -/
def missTake (l : List MissSeq) (s stamp line : Nat) : List MissSeq :=
  (l.filter (fun e => e.seq != s)).map (fun e =>
    if later 32 s e.seq && later 32 e.hi.1 s then { e with hi := (s, stamp, line) }
    else if later 32 e.seq s && later 32 s e.lo.1 then { e with lo := (s, stamp) }
    else e)

/-- The later of two sequence numbers (R10), the first having been heard or not. -/
def laterSeq (a : Option Nat) (b : Nat) : Option Nat :=
  match a with
  | some m => if later 32 b m then some b else some m
  | none => some b

/-- R100: a packet (sequence number, stamp, line) that a leg of flow f has delivered reaches the merge: whether it is taken,
rather than discarded as a duplicate or as window-late. `pstamp` is the picture stamp kept with the newest packet. -/
def Chip.mergeSeq (c : Chip) (f : Nat) (isB : Bool) (s stamp pstamp line : Nat) : Chip × Bool :=
  let x := c.flow f
  let x := { x with legNewest := if isB then (x.legNewest.1, laterSeq x.legNewest.2 s)
                                 else (laterSeq x.legNewest.1 s, x.legNewest.2) }
  let c := c.setFlow f x
  match x.newest with
  | none => (c.setFlow f { x with newest := some s, newestStamp := stamp, arrStamp := pstamp, newestLine := line }, true)
  | some m =>
    if later 32 s m then
      let gap : List MissSeq := (List.range (sdiff 32 s m - 1).toNat).map (fun j =>
        { seq := (m + 1 + j) % 2 ^ 32, lo := (m, x.newestStamp), hi := (s, stamp, line) })
      let c := c.setFlow f { x with newest := some s, newestStamp := stamp, arrStamp := pstamp, newestLine := line,
                                    missing := x.missing ++ gap }
      (c.countLost f, true)
    else if c.flowDual f ∧ (c.get R.ING_FLOWTIME_SKEWLN f : Int) < c.linesOlder f stamp line then
      (c.bump R.ING_MERGECNT_WINLATE f, false)
    else if x.missing.any (fun e => e.seq == s) then ((c.setFlow f { x with missing := missTake x.missing s stamp line }).countLost f, true)
    else ((c.countDup f).countLost f, false)

/-- R100, R102: a media packet reaches the merge of its flow; one that is taken puts its segments into its picture. -/
def Chip.mergePacket (c : Chip) (k : MediaPacket) : Chip :=
  let f := c.legA k.flow.val
  if !c.flowOn f then c
  else
    let isB := decide (k.flow.val ≠ f)
    let c := c.legHeard f isB k.at_
    let x := c.flow f
    let stamp := if c.on R.ING_FLOWCFG_ALIGN f then
        (if x.newest.isSome ∧ x.newestStamp = k.stamp.toNat then x.arrStamp else k.at_ % 2 ^ 32)
      else k.stamp.toNat
    let line := ((k.segs.map (fun g => g.line)).head?).getD x.newestLine
    let (c, taken) := c.mergeSeq f isB k.seq.toNat k.stamp.toNat stamp line
    c.when taken (fun c => c.takeSegs f stamp k.segs)

/-- R100: ST2110_PACKET_RX. A packet of an ancillary flow is not media; of a flow that is not ST 2110-20, nothing. -/
def execSt2110PacketRx (k : MediaPacket) (s : State) : Host.Outcome State Fault Refusal :=
  onChip (fun c => if c.get R.ING_FLOWCFG_SRC (c.legA k.flow.val) = 1 then c.mergePacket k else c) s

/-- R101: LEG_DOWN at time t (ns on the plane's base): the leg has delivered no packet within the last 1 ms. -/
def execLegDown (f : Fin 1024) (isB : Bool) (t : Nat) (s : State) : Host.Outcome State Fault Refusal :=
  onChip (fun c =>
    let a := c.legA f.val
    let x := c.flow a
    let up := if isB then c.on R.ING_FLOWSTAT_LEGBUP a else c.on R.ING_FLOWSTAT_LEGAUP a
    let partner := if isB then c.on R.ING_FLOWSTAT_LEGAUP a else c.on R.ING_FLOWSTAT_LEGBUP a
    let last := if isB then x.legB else x.legA
    if up ∧ (last.getD 0) + 1000000 ≤ t then
      let c := c.set (if isB then R.ING_FLOWSTAT_LEGBUP else R.ING_FLOWSTAT_LEGAUP) a 0
      c.when partner (fun c => (c.set R.ING_FLOWSTAT_LEGFLT a 1).countLost a)
    else c) s

/-! ### Line slots, substitution and marks (R104–R111) -/

/-- R109: the Thread mark of a line: flow context, line, bits [31:0] of the Turn count, bytes as written. -/
def lineMark (f line turn : Nat) (bytes : List Byte) : Word :=
  crc32c (leBytes 2 f ++ leBytes 2 line ++ leBytes 4 turn ++ bytes)

/-- Four 10-bit samples packed into five bytes, most significant bit first, as the pgroups of ST 2110-20 pack them. -/
def pack10 (a b d e : Nat) : List Byte := beBytes 5 (((a * 1024 + b) * 1024 + d) * 1024 + e)

/-- R105: the bytes of a black line: luma 64 (0 for RANGE FULL), chroma 512. -/
def blackLine (is422 full : Bool) (n : Nat) : List Byte :=
  let y := if full then 0 else 64
  if is422 then (List.replicate (n / 5) (pack10 512 y 512 y)).flatten
  else (List.replicate (n / 15) (pack10 y y y y ++ pack10 512 512 y y ++ pack10 y y 512 512)).flatten

/-- R105: whether a substitute of flow f must be black, with the run judged as it stood at the start of the Turn. -/
def Chip.substBlack (c : Chip) (f run : Nat) (prev : WrPic) : Bool :=
  let fm := c.get R.ING_FLOWCFG_FREEZEMAX f
  c.on R.ING_FLOWCFG_SUBST f || prev.turn.isNone || (fm != 0 && decide (fm * 16 ≤ run))

/-! ### Preanalysis (R114–R116) -/

/-- The 10-bit samples of packed bytes, four in five bytes. `fuel` bounds the number of groups. -/
def unpack10 : Nat → List Byte → List Nat
  | 0, _ => []
  | n + 1, l =>
    if l.length < 5 then []
    else
      let v := ofBe (l.take 5)
      bits v 39 30 :: bits v 29 20 :: bits v 19 10 :: bits v 9 0 :: unpack10 n (l.drop 5)

/-- Samples at the positions j with j mod k in a list. -/
def pick (k : Nat) (js : List Nat) (l : List Nat) : List Nat :=
  ((List.range l.length).filter (fun i => (i % k) ∈ js)).map (fun i => l.getD i 0)

/-- The luma samples of a 4:2:2 line: pgroup order Cb Y Cr Y. -/
def luma422 (b : List Byte) : List Nat := pick 4 [1, 3] (unpack10 b.length b)

/-- The luma samples of the two lines of a 4:2:0 pair: pgroup order Y00 Y01 Y10 Y11 Cb Cr. -/
def luma420 (b : List Byte) : List Nat × List Nat :=
  let s := unpack10 b.length b
  (pick 6 [0, 1] s, pick 6 [2, 3] s)

/-- R114: quarter-resolution luma of two luma lines: (sum + 2) >> 2 of each 2 × 2 block. -/
def quarterRow (a b : List Nat) : List Nat :=
  (List.range (a.length / 2)).map (fun x =>
    (a.getD (2 * x) 0 + a.getD (2 * x + 1) 0 + b.getD (2 * x) 0 + b.getD (2 * x + 1) 0 + 2) / 4)

/-- The mean of a list times k, rounded to the nearest, ties up, saturating at 16 bits (R115); 0 of an empty list. The spec does not say
whether a mean is rounded before or after the factor k; k × sum / n is rounded once (DESIGN CHOICE, log entry 132). -/
def meanSat (k : Nat) (l : List Nat) : Nat :=
  if l.isEmpty then 0 else min 0xFFFF ((2 * k * l.sum + l.length) / (2 * l.length))

/-- R115: the record of one 64 × 64 luma block (32 × 32 quarter-resolution samples) at block column bx, from the
quarter-resolution rows of the block row, those of the previous picture if it exists and was not black, and its luma. -/
def blockRecord (rows : List (List Nat)) (prev : Option (List (List Nat))) (lumaSum lumaN : Nat) (bx : Nat)
    (sub : Bool) : PaRecord :=
  let blk (rs : List (List Nat)) := rs.map (fun r => (r.drop (32 * bx)).take 32)
  let q := blk rows
  let h (r : List Nat) := (List.range (r.length - 1)).map (fun x => (x, natAbsDiff (r.getD (x + 1) 0) (r.getD x 0)))
  let grads := (List.range (q.length - 1)).flatMap (fun y =>
    (h (q.getD y [])).map (fun e => e.2 + natAbsDiff ((q.getD (y + 1) []).getD e.1 0) ((q.getD y []).getD e.1 0)))
  let all := q.flatten
  let tsad := match prev with
    | none => 0xFFFF
    | some p => meanSat 16 (((blk p).flatten.zip all).map (fun e => natAbsDiff e.1 e.2))
  { act := meanSat 16 grads, tsad := tsad,
    mean := if lumaN = 0 then 0 else min 0xFFFF ((2 * lumaSum + lumaN) / (2 * lumaN)),
    range := all.foldl max 0 - all.foldl min 0xFFFF, substituted := sub }

/-- R116: SCR and SCP of a completed row of records; RATIO, SCFLOOR and SCMIN are the plane's. -/
def sceneFlags (ratio floor scmin : Nat) (pic : WrPic) (recs : List PaRecord) : List PaRecord × Nat × Bool :=
  let t := (recs.map (·.tsad)).sum
  let a := (recs.map (·.act)).sum
  let scr := decide (ratio * a < 256 * t) && decide (16 * floor * recs.length ≤ t)
  let n := pic.scRows + (if scr then 1 else 0)
  let scp := pic.scp || decide (scmin ≤ n)
  (recs.map (fun r => { r with scr := scr, scp := scp }), n, scp)

/-- R114: quarter-resolution row y and, at the end of a row of 64 luma lines, its records. `last` is the luma height. -/
def analyseLine (is422 : Bool) (width height ratio floor scmin : Nat) (prev cur : WrPic) (line : Nat) : WrPic :=
  let bytesAt (p : WrPic) (l : Nat) := (tget {} p.lines l).bytes
  let done := if is422 then line + 1 else line + 2
  if done % 2 ≠ 0 then cur
  else
    let y := done / 2 - 1
    let (a, b) := if is422 then (luma422 (bytesAt cur (line - 1)), luma422 (bytesAt cur line)) else luma420 (bytesAt cur line)
    let cur := { cur with quarter := tset [] cur.quarter y (quarterRow a b) }
    if done % 64 ≠ 0 ∧ done ≠ height then cur
    else
      let r := (done - 1) / 64
      let ys := range' (32 * r) (done / 2)
      let rows := ys.map (fun y => tget [] cur.quarter y)
      let lines := range' (64 * r) done
      let unit (l : Nat) := if is422 then l else l / 2 * 2
      let prevOk := prev.turn.isSome && lines.all (fun l => !(tget {} prev.lines (unit l)).black)
      let prevRows := if prevOk then some (ys.map (fun y => tget [] prev.quarter y)) else none
      let sub := lines.any (fun l => (tget {} cur.lines (unit l)).subst)
      let lumas := lines.map (fun l => if is422 then luma422 (bytesAt cur l)
        else if l % 2 = 0 then (luma420 (bytesAt cur (unit l))).1 else (luma420 (bytesAt cur (unit l))).2)
      let recs := (List.range (ceilDiv width 64)).map (fun bx =>
        let seg := (lumas.map (fun s => (s.drop (64 * bx)).take 64)).flatten
        blockRecord rows prevRows seg.sum seg.length bx sub)
      let (recs, n, scp) := sceneFlags ratio floor scmin cur recs
      { cur with records := tset [] cur.records r recs, scRows := n, scp := scp }

/-- The ST 291 words that the checksum covers: DID, SDID, data count and user data; the count takes its parity bits here. -/
def ancWords (a : AncPacket) : List Nat := [a.did, a.sdid, parity10 a.words.length] ++ a.words

/-- R113: the packets stored for a Turn. -/
def FlowRx.ancOf (x : FlowRx) (n : Nat) : List AncPacket := ((x.ancs.find? (fun p => p.turn == n)).map (·.packets)).getD []

/-- R617: whether the ancillary packets of a Turn are held complete. -/
def FlowRx.ancWhole (x : FlowRx) (n : Nat) : Bool := x.ancs.any (fun p => p.turn == n && p.whole)

/-- R617: the agreement record of the ancillary packets of flow a for Turn n. -/
def Chip.ancRec (c : Chip) (a n : Nat) : AgreeRec :=
  agreeRec 2 a 0 n (((c.flow a).ancOf n).flatMap (fun k => (ancWords k).flatMap (leBytes 2)))

/-- R617: the ancillary picture with stamp s on flow f has ended: it is held complete, and its agreement record goes out. -/
def Chip.ancEnd (c : Chip) (f s : Nat) : Chip :=
  match (c.flow f).ancs.find? (fun q => q.stamp == s) with
  | none => c
  | some q =>
    let x := c.flow f
    let l := x.ancs.map (fun p => if p.turn == q.turn then { p with whole := true } else p)
    (c.setFlow f { x with ancs := l }).agreeSend (c.ancRec f q.turn)

/-- R617: at the first line slot of Turn n of video member f, the ancillary packets of its group that the two devices do not
agree on are carried by neither. -/
def Chip.agreeAnc (c : Chip) (f n : Nat) : Chip :=
  if !c.agreeOn then c
  else c.each ((List.range 1024).filter (fun a => c.flowOn a && c.flowIsAnc a &&
      c.get R.ING_FLOWCFG_GROUP a == c.get R.ING_FLOWCFG_GROUP f && (c.flow a).ancs.any (fun q => q.turn == n))) (fun c a =>
    let x := c.flow a
    if x.ancWhole n && c.agreed (c.ancRec a n) then c
    else c.setFlow a { x with ancs := x.ancs.map (fun q => if q.turn == n then { q with packets := [] } else q) })

/-- R115: the 16 bytes of a record. -/
def PaRecord.bytes (r : PaRecord) : List Byte :=
  leBytes 2 r.act ++ leBytes 2 r.tsad ++ leBytes 2 r.mean ++ leBytes 2 r.range ++
    leBytes 2 (b2n r.scr + 2 * b2n r.scp + 4 * b2n r.substituted) ++ leBytes 6 0

/-- R109, R114, R117: the stored form of what line `line` adds to a picture of Turn n: its bytes and mark, the quarter-resolution row that
it completes, and the records of the row of 64 lines that it ends, each where the Skein puts them. -/
def Chip.storeLine (c : Chip) (st : Option PicStore) (is422 : Bool) (w h n line : Nat) (pic : WrPic) : Chip :=
  match st with
  | none => c
  | some m =>
    let k := n % max 1 m.ring
    let o := tget {} pic.lines line
    let done := if is422 then line + 1 else line + 2
    let unit := if is422 then line else line / 2
    let units := if is422 then h else h / 2
    let c := c.dramWrite (m.lines + (k * units + unit) * o.bytes.length) o.bytes
    let c := c.dramWrite (m.marks + 4 * (k * h + line)) (leBytes 4 o.mark.toNat)
    let c := c.when (done % 2 == 0) (·.dramWrite (m.quarter + 2 * (w / 2) * (k * (h / 2) + (done / 2 - 1)))
      ((tget [] pic.quarter (done / 2 - 1)).flatMap (leBytes 2)))
    c.when (done % 64 == 0 || done == h) (·.dramWrite (m.records + 16 * ceilDiv w 64 * (k * ceilDiv h 64 + (done - 1) / 64))
      ((tget [] pic.records ((done - 1) / 64)).flatMap PaRecord.bytes))

/-- R105, R111: what is written in a line slot: the line taken, or its substitute: the co-located line of the picture for Turn n − 1, whose
mark must hold with that Turn, or black. Also whether a repeat failed its mark. -/
def Chip.lineOut (c : Chip) (f n line : Nat) (x : FlowRx) (got : Option (List Byte)) (poison : Bool) : LineOut × Bool :=
  let black := c.substBlack f x.cur.run x.prev
  let old := tget {} x.prev.lines line
  let oldBad := got.isNone && !black && (poison || decide (old.mark ≠ lineMark f line ((n + 2 ^ 40 - 1) % 2 ^ 32) old.bytes))
  let blackBytes := blackLine (c.on R.ING_FLOWCFG_CHROMA f) (tget {} c.tables.flows f).fullRange (c.flowLineBytes f)
  let out : LineOut := match got with
    | some b => { bytes := b }
    | none =>
      if black || oldBad || old.bytes.isEmpty then { bytes := blackBytes, subst := true, black := true }
      else { bytes := old.bytes, subst := true, black := old.black }
  ({ out with mark := lineMark f line (n % 2 ^ 32) out.bytes }, oldBad)

/-- R104: the flow with the picture for Turn n as the one being written: the first slot of a picture makes the one before it the repeat
source. -/
def FlowRx.turnTo (x : FlowRx) (n : Nat) : FlowRx :=
  if x.cur.turn = some n then x
  else { x with prev := x.cur, cur := { turn := some n, run := x.runStart }, older := (x.prev :: x.older).take 2 }

/-- R104, R106, R110, R537, R617: the bytes that a line slot takes, if any: the line complete in the receive buffer, its ECC sound, and agreed
on in a pair. -/
def Chip.lineGot (c : Chip) (f n line : Nat) (ecc : Bool) : Option (List Byte) :=
  let x := c.flow f
  if x.forced || ecc then none
  else ((x.pics.find? (fun q => q.turn == n)).bind (fun q => c.lineOf f q line)).filter (fun b => c.agreed (agreeRec 0 f line n b))

/-- R104–R111, R114, R617: the line slot of `line` of the picture for Turn n on flow f: the line is taken if complete, else
substituted; marked; written; and analysed. `ecc`: an uncorrectable error of the receive buffer; `poison`: the stored line of a repeat is
read poisoned. -/
def Chip.lineSlot (c : Chip) (f n line : Nat) (ecc poison : Bool) : Chip :=
  let c := c.when (decide ((c.flow f).cur.turn ≠ some n)) (·.agreeAnc f n)
  let got := c.lineGot f n line ecc
  let x := (c.flow f).turnTo n
  let p := c.get R.ING_FLOWCFG_PLANE f
  let is422 := c.on R.ING_FLOWCFG_CHROMA f
  let (out, oldBad) := c.lineOut f n line x got poison
  let cur := { x.cur with lines := tset {} x.cur.lines line out, taken := x.cur.taken + b2n got.isSome }
  let (w, h) := rasterSize (c.get R.ING_FLOWCFG_RASTER f)
  let cur := analyseLine is422 w h (c.get R.ING_PASCN_RATIO p) (c.get R.ING_PASCN_SCFLOOR p) (c.get R.ING_PASCN_SCMIN p)
    x.prev cur line
  -- bytes of the line leave the receive buffer
  let pics := x.pics.map (fun q => if q.turn == n then { q with lines := tset [] q.lines line [] } else q)
  let pics := pics.filter (fun q => decide (sdiff 40 n q.turn ≤ 1))
  let c := (c.setFlow f { x with cur := cur, pics := pics }).storeLine (tget {} c.tables.flows f).store is422 w h n line cur
  let c := if got.isSome then c.when c.agreeOn (·.joinFlow f) else c.bump R.ING_SUBLINES f
  let c := c.when oldBad (fun c => (c.set R.ING_FLOWSTAT_MARKFLT f 1).fault 1 1 16 blkIng 0x01 f (some p))
  c.when ecc (·.fault 1 1 16 blkIng 0x02 f (some p))

/-! ### Ancillary data (R112, R113) -/

/-- R112: whether an ST 291 packet's checksum holds. -/
def ancOk (a : AncPacket) : Bool := decide (st291Checksum (ancWords a) = a.checksum)

/-- R112: an ancillary packet is discarded and counted. -/
def Chip.dropAnc (c : Chip) (f : Nat) : Chip :=
  (c.setFlow f { c.flow f with ancDrops := (c.flow f).ancDrops + 1 }).set R.ING_FLOWSTAT_ANCDROP f 1

/-- R112: a packet of the ancillary picture for a Turn is stored, up to 64 of up to 255 words; further ones are discarded. -/
def Chip.storeAnc (c : Chip) (f s n : Nat) (a : AncPacket) : Chip :=
  let x := c.flow f
  let have_ := x.ancOf n
  if 64 ≤ have_.length ∨ 255 < a.words.length then c.dropAnc f
  else c.setFlow f { x with ancs :=
    ({ turn := n, stamp := s, packets := have_ ++ [a], whole := x.ancWhole n } :: x.ancs.filter (fun q => q.turn != n)).take 8 }

/-- R113: the Turn of the ancillary picture with stamp s on flow f, which its first packet opens. -/
def Chip.ancTurn (c : Chip) (f s : Nat) : Chip × Option Nat :=
  match (c.flow f).ancs.find? (fun q => q.stamp == s) with
  | some q => (c, some q.turn)
  | none => match c.newPicture f s with
    | (c, some n) => (c.setFlow f { c.flow f with ancs := ({ turn := n, stamp := s } :: (c.flow f).ancs).take 8 }, some n)
    | (c, none) => (c, none)

/-- R112, R113: an ST 291 packet with picture stamp s on ancillary flow f: its picture aligns as R103 says, and the packet passes the
filter and its checksum. -/
def Chip.ancPacket (c : Chip) (f s : Nat) (a : AncPacket) : Chip :=
  if c.stampDead f s then c
  else
    match c.ancTurn f s with
    | (c, none) => c
    | (c, some n) =>
      if !((tget {} c.tables.flows f).ancFilter.contains (a.did % 256, a.sdid % 256)) || !ancOk a then c.dropAnc f
      else c.storeAnc f s n a

/-- R112, R617: ANC_PACKET_RX on an ancillary flow, with its picture stamp; the last packet ends the picture. -/
def execAncPacketRx (f : Fin 1024) (stamp : Word) (a : AncPacket) (s : State) : Host.Outcome State Fault Refusal :=
  onChip (fun c => if c.flowOn f.val ∧ c.flowIsAnc f.val then
      (c.ancPacket f.val stamp.toNat a).when a.last (·.ancEnd f.val stamp.toNat)
    else c) s

/-! ### Counters (R118) -/

/-- R118: a CNTCLR write clears SUBLINES, SUBPICS and MERGECNT of a flow; one that names leg B has no effect (R119). -/
def execIngCntclr (v : Word) (s : State) : Host.Outcome State Fault Refusal :=
  onChip (fun c =>
    let f := bits v.toNat 9 0
    if bit v.toNat 31 ∧ c.legA f = f then
      let c := (c.set R.ING_SUBLINES f 0).set R.ING_SUBPICS_PICS f 0
      let c := (c.set R.ING_SUBPICS_MISM f 0).set R.ING_MERGECNT_BOTHLOST f 0
      let c := (c.set R.ING_MERGECNT_WINLATE f 0).set R.ING_MERGECNT_DUPS f 0
      c.setFlow f { c.flow f with dups := 0 }
    else c) s

end Sys2Proof.Machine
end

