-- ==== Sys2Proof/Machine/Audio.lean ====
section
/-! DEFINITION. Audio ports: formats, the block grid, blocks in DRAM and their marks, substitution and member states, the
rate meter, slot masks and output ports (Audio Ports and Sample Clocks). -/

namespace Sys2Proof.Machine

/-- The state of port n. -/
def Chip.port (c : Chip) (n : Nat) : AudPort := tget {} c.aud.ports n

/-- The state of a port replaced. -/
def Chip.setPort (c : Chip) (n : Nat) (v : AudPort) : Chip := { c with aud := { c.aud with ports := tset {} c.aud.ports n v } }

/-! ### Formats (R284–R287, R310) -/

/-- R310: sample rate in Hz of a FS code. -/
def fsHz : Nat → Nat
  | 0 => 32000 | 1 => 44100 | 2 => 48000 | _ => 96000

/-- R284, R310: slots of a frame; in I2S and left-justified mode 2. -/
def Chip.portSlots (c : Chip) (n : Nat) : Nat :=
  if c.get R.AUD_PORTFMT_MODE n = 2 then max 2 (min 16 (c.get R.AUD_PORTFMT_SLOTS n)) else 2

/-- R310: slot width in bits. -/
def Chip.slotWidth (c : Chip) (n : Nat) : Nat :=
  match c.get R.AUD_PORTFMT_SLOTW n with
  | 0 => 16 | 1 => 24 | _ => 32

/-- R310: sample width in bits. -/
def Chip.sampleWidth (c : Chip) (n : Nat) : Nat :=
  match c.get R.AUD_PORTFMT_SAMPW n with
  | 0 => 16 | 1 => 20 | _ => 24

/-- R292: bytes per sample; PACK 2 with a sample wider than 16 bits uses 3. -/
def Chip.packBytes (c : Chip) (n : Nat) : Nat :=
  match c.get R.AUD_PORTFMT_PACK n with
  | 0 => if c.sampleWidth n = 16 then 2 else 3
  | 1 => 3
  | _ => 4

/-- The configured rate of a port in Hz. -/
def Chip.portFs (c : Chip) (n : Nat) : Nat := fsHz (c.get R.AUD_PORTFMT_FS n)

/-- R287: whether the settings of a master port divide its audio master clock exactly. -/
def Chip.masterOk (c : Chip) (n : Nat) : Bool :=
  let bits := c.portSlots n * c.slotWidth n
  let q := match c.get R.AUD_PORTFMT_FS n with
    | 0 => 768 | 1 => 512 | 2 => 512 | _ => 256
  let am1 := c.get R.AUD_PORTFMT_FS n == 1
  (c.on R.AUD_PORTCFG_AMSEL n == am1) && q % bits == 0 && decide (max 1 (c.get R.AUD_PORTCFG_BCLKDIV n) = q / bits) &&
    decide (q / bits ≤ 255)

/-- R285, R287: whether port n is in use. -/
def Chip.portOn (c : Chip) (n : Nat) : Bool :=
  c.on R.AUD_PORTCFG_EN n && decide (c.get R.AUD_PORTFMT_MODE n < 3) && decide (c.sampleWidth n ≤ c.slotWidth n) &&
    (!c.on R.AUD_PORTCFG_MASTER n || c.masterOk n)

/-- R285: bit clocks per second of a port's format. -/
def Chip.bitRate (c : Chip) (n : Nat) : Nat := c.portSlots n * c.slotWidth n * c.portFs n

/-- R285: what the enabled ports' formats must keep to, each and together. -/
def Chip.audioFits (c : Chip) : Bool :=
  let on := (List.range 48).filter c.portOn
  on.all (fun n => decide (c.bitRate n ≤ 24576000)) && decide ((on.map (fun n => c.portSlots n * c.portFs n)).sum ≤ 36864000)

/-- R284: a frame of port n starts with a rising edge of FS. -/
def Chip.startRising (c : Chip) (n : Nat) : Bool := (c.get R.AUD_PORTFMT_MODE n != 0) != c.on R.AUD_PORTFMT_FSINV n

/-- R284, R310: bit clocks from the frame-start edge to the first data bit. -/
def Chip.dataDelay (c : Chip) (n : Nat) : Nat :=
  match c.get R.AUD_PORTFMT_MODE n with
  | 0 => 1
  | 1 => 0
  | _ => c.get R.AUD_PORTFMT_DELAY n

/-- R284: the word of slot k, SLOTW bits with the most significant first, in what a port sees from a frame start on. -/
def Chip.sdWord (c : Chip) (n k : Nat) (sd : List (Bool × Bool)) : Nat :=
  let w := c.slotWidth n
  ((sd.drop (c.dataDelay n + k * w)).take w).foldl (fun v b => 2 * v + b2n (if c.on R.AUD_PORTFMT_BCLKINV n then b.2 else b.1)) 0

/-- R284: FS in the bit clocks of a frame that a master port drives: 50 % duty, or in TDM one bit clock wide. -/
def Chip.fsWave (c : Chip) (n : Nat) : List Bool :=
  let bits := c.portSlots n * c.slotWidth n
  let high := if c.get R.AUD_PORTFMT_MODE n = 2 then 1 else bits / 2
  (List.range bits).map (fun i => decide (i < high) == c.startRising n)

/-- R305: whether slot k of port n belongs to a data pair. -/
def Chip.dataSlot (c : Chip) (n k : Nat) : Bool := bit (c.get R.AUD_PORTFMT_DATAPAIR n) (k / 2)

/-! ### The block grid (R288) -/

/-- R288: Eⱼ of port n in nanoseconds since the PTP epoch. -/
def Chip.slotTime (c : Chip) (n j : Nat) : Nat :=
  c.get R.AUD_AOFF n + j * c.get R.AUD_BLKCFG_BLKLEN n * 1000000000 / c.portFs n

/-- The grid frame of port n nearest a time in ns. -/
def Chip.gridFrame (c : Chip) (n : Nat) (t : Int) : Nat :=
  (roundDiv ((t - c.get R.AUD_AOFF n) * c.portFs n) 1000000000).toNat

/-- The nominal time of grid frame k of port n, ns. -/
def Chip.gridTime (c : Chip) (n k : Nat) : Nat := c.get R.AUD_AOFF n + k * 1000000000 / c.portFs n

/-! ### Masks (R299–R301) -/

/-- R300, R301: whether the pending mask of port n applies at a frame whose start is sampled at t ps: the commit did not
reach the port within the 2 bit-clock periods that end on the edge; a command's mask waits for its grid frame. -/
def Chip.maskDue (c : Chip) (n t : Nat) : Bool :=
  let x := c.port n
  c.on R.AUD_PORTSTAT_MASKPEND n && (match x.grid with
    | some b => decide (b ≤ c.gridTime n (c.gridFrame n (t / 1000)))
    | none => decide (x.commitAt + 2 * 1000000000000 / c.bitRate n ≤ t))

/-- R300: a pending mask becomes active at the frame start at t ps, if it is due. Returns whether it did. -/
def Chip.applyMask (c : Chip) (n t : Nat) : Chip × Bool :=
  if c.maskDue n t then
    let c := (c.set R.AUD_MASKSTAT_ACTIVE n (c.get R.AUD_MASKSTAT_PEND n)).set R.AUD_PORTSTAT_MASKPEND n 0
    (c.setPort n { c.port n with grid := none }, true)
  else (c, false)

/-- R299, R301: a mask is committed on port n. -/
def Chip.commitMask (c : Chip) (n m t : Nat) (grid : Option Nat) : Chip :=
  let c := (c.set R.AUD_MASKSTAT_PEND n m).set R.AUD_PORTSTAT_MASKPEND n 1
  c.setPort n { c.port n with commitAt := t, grid := grid }

/-- R299–R301: MASK_COMMIT. A write of MASKCTL that reaches the port at t ps. -/
def execMaskCommit (n : Fin 48) (v : Word) (t : Nat) (s : State) : Host.Outcome State Fault Refusal :=
  onChip (fun c =>
    if !bit v.toNat 31 then c
    else if c.plyOn then c.set R.AUD_PORTSTAT_MASKREJ n.val 1
    else c.commitMask n.val (c.get R.AUD_SLOTMASK n.val) t none) s

/-! ### Frames (R289, R296) -/

/-- R284, R299: the sample of a slot word: its top bits; 0 in a masked slot. -/
def Chip.slotSample (c : Chip) (n k w : Nat) : Nat :=
  if bit (c.get R.AUD_MASKSTAT_ACTIVE n) k then w % 2 ^ c.slotWidth n / 2 ^ (c.slotWidth n - c.sampleWidth n) else 0

/-- R290: the number of the first waiting frame of port n whose stamp matches slot j. -/
def Chip.matchFrame (c : Chip) (n j : Nat) : Option Nat :=
  let x := c.port n
  ((List.range x.frames.length).find? (fun i =>
    decide ((sdiff 32 ((x.frames.getD i {}).stamp) (c.slotTime n j)).natAbs ≤ c.get R.AUD_BLKCFG_ATOL n))).map (· + x.base)

/-- R292: a sample of w bits left-justified in a container of `pack` bytes. -/
def sampleBytes (pack w x : Nat) : List Byte := leBytes pack (x * 2 ^ (8 * pack - w))

/-- R617: the agreement record of the block of slot j that `blk` makes. -/
def Chip.blockRec (c : Chip) (n j : Nat) (blk : List AFrame) : AgreeRec :=
  agreeRec 1 (tget {} c.tables.ports n).flow 0 j ((blk.map (·.samples)).flatten.flatMap (sampleBytes (c.packBytes n) (c.sampleWidth n)))

/-- R290, R617: the block that port n holds complete with the frame that begins at t ps is offered to the partner, once. -/
def Chip.offerBlock (c : Chip) (n t : Nat) : Chip :=
  let x := c.port n
  let len := max 1 (c.get R.AUD_BLKCFG_BLKLEN n)
  let j := (c.gridFrame n (t / 1000 : Nat) + 1 - len) / len
  match c.matchFrame n j with
  | none => c
  | some i =>
    let blk := (x.frames.drop (i - x.base)).take len
    if blk.length < len ∨ blk.any (fun f => !f.ok) ∨ j ∈ x.offered then c
    else (c.setPort n { x with offered := (j :: x.offered).take 8 }).agreeSend (c.blockRec n j blk)

/-- R289, R296, R300: AUDIO_FRAME_RX on an input port: the frame between two frame-start edges. At most 512 frames wait for their slots. -/
def execAudioFrameRx (n : Fin 48) (k : AudioFrame) (s : State) : Host.Outcome State Fault Refusal :=
  onChip (fun c =>
    let n := n.val
    if !c.portOn n || c.on R.AUD_PORTCFG_DIR n || k.rising != c.startRising n then c
    else
      let (c, chg) := c.applyMask n k.at_
      let ok := decide (k.sd.length = c.portSlots n * c.slotWidth n + 1)
      let samples := (List.range (c.portSlots n)).map (fun i => c.slotSample n i (c.sdWord n i k.sd))
      let x := c.port n
      let frames := x.frames ++ [{ stamp := k.stamp.toNat, samples := samples, ok := ok, maskChg := chg }]
      let extra := frames.length - 512
      let x := { x with frames := frames.drop extra, base := x.base + extra, lost := x.lost && !ok, lastEdge := k.to_,
                        edgeStamp := (k.stamp.toNat + (k.to_ - k.at_) / 1000) % 2 ^ 32,
                        winN := x.winN + 1, winFirst := if x.winN = 0 then k.stamp.toNat else x.winFirst,
                        winLast := k.stamp.toNat }
      let c := c.setPort n x
      let c := (c.when ok (·.set R.AUD_PORTSTAT_CLKOK n 1)).offerBlock n k.at_
      c.when (!ok) (fun c => (c.set R.AUD_PORTSTAT_FRAMEERR n 1).bump R.AUD_ERRCNT_FRAMING n)) s

/-- R296: AUDIO_CLOCK_LOSS. A slave port has seen no edge for 4 nominal frame periods at t ps. The frame in progress is
incomplete, and stands so among the frames. -/
def execAudioClockLoss (n : Fin 48) (t : Nat) (s : State) : Host.Outcome State Fault Refusal :=
  onChip (fun c =>
    let n := n.val
    let x := c.port n
    if c.portOn n ∧ c.on R.AUD_PORTCFG_MASTER n = false ∧ x.lost = false ∧ x.lastEdge + 4 * 1000000000000 / c.portFs n ≤ t then
      let c := c.setPort n { x with lost := true, frames := x.frames ++ [{ stamp := x.edgeStamp, ok := false }] }
      ((c.set R.AUD_PORTSTAT_CLKOK n 0).set R.AUD_PORTSTAT_CLKLOSS n 1).bump R.AUD_ERRCNT_CLKLOSS n
    else c) s

/-! ### Blocks (R290–R295, R305) -/

/-- R293: MARK of a block. -/
def blockMark (flow j : Nat) (header data : List Byte) : Word :=
  crc32c (leBytes 2 flow ++ leBytes 4 j ++ header ++ data)

/-- R291: header bytes 0x00 to 0x0B. -/
def blockHeader (stamp j : Nat) (sub hold rep drop chg : Bool) (slots pack : Nat) : List Byte :=
  leBytes 4 stamp ++ leBytes 4 j ++
    leBytes 2 (b2n sub + 2 * b2n hold + 4 * b2n rep + 8 * b2n drop + 16 * b2n chg) ++ leBytes 1 slots ++ leBytes 1 pack

/-- R305: the ST 337 sync words Pa and Pb of a sample width. -/
def syncWords : Nat → Nat × Nat
  | 16 => (0xF872, 0x4E1F) | 20 => (0x6F872, 0x54E1F) | _ => (0x96F872, 0xA54E1F)

/-- R305: whether a list of words holds Pa followed by Pb. -/
def holdsSync (w : Nat) : List Nat → Bool
  | a :: b :: t => (a == (syncWords w).1 && b == (syncWords w).2) || holdsSync w (b :: t)
  | _ => false

/-- R305: whether any data pair of the frames holds the sync words. -/
def Chip.dataDetect (c : Chip) (n : Nat) (frames : List (List Nat)) : Bool :=
  (List.range 8).any (fun p => bit (c.get R.AUD_PORTFMT_DATAPAIR n) p &&
    holdsSync (c.sampleWidth n) (frames.flatMap (fun f => [f.getD (2 * p) 0, f.getD (2 * p + 1) 0])))

/-- R294: a substitute frame: silence, or hold where SUBST chooses it, a sample has been taken and the run is below
HOLDMAX × 16; masked slots and data pairs hold 0. Returns whether it is a hold. -/
def Chip.substFrame (c : Chip) (n : Nat) : List Nat × Bool :=
  let x := c.port n
  let m := c.get R.AUD_BLKCFG_HOLDMAX n
  let hold := c.on R.AUD_PORTCFG_SUBST n && !x.hold.isEmpty && (m == 0 || decide (c.get R.AUD_PORTSTAT_HOLDRUN n < 16 * m))
  ((List.range (c.portSlots n)).map (fun k =>
    if hold && !c.dataSlot n k && bit (c.get R.AUD_MASKSTAT_ACTIVE n) k then x.hold.getD k 0 else 0), hold)

/-- R291: a block goes to DRAM: its header, its mark and its samples. The newest 16 are kept for their readers. -/
def Chip.putBlock (c : Chip) (n j stamp : Nat) (sub hold rep drop chg : Bool) (frames : List (List Nat)) : Chip :=
  let pack := c.packBytes n
  let header := blockHeader stamp j sub hold rep drop chg (c.portSlots n) pack
  let data := frames.flatMap (fun f => f.flatMap (sampleBytes pack (c.sampleWidth n)))
  let b : ABlock := { index := j, header := header, data := data, sub := sub,
                      mark := blockMark (tget {} c.tables.ports n).flow j header data }
  let x := c.port n
  let c := match (tget {} c.tables.ports n : PortDef).store with
    | none => c
    | some (a, ring) =>
      c.dramWrite (a + (j % max 1 ring) * (16 + data.length)) (header ++ leBytes 4 b.mark.toNat ++ data)
  (c.setPort n { x with blocks := (b :: x.blocks).take 16 }).setB R.AUD_PORTSTAT_DATADET n (c.dataDetect n frames)

/-- R295: a slot of port n was substituted. -/
def Chip.portUnder (c : Chip) (n : Nat) : Chip :=
  let c := c.bump R.AUD_SUBBLKS_SUBST n
  if c.on R.AUD_PORTSTAT_JOINED n then
    let c := ((c.set R.AUD_PORTSTAT_JOINED n 0).set R.AUD_PORTSTAT_HOLDRUN n 1).set R.AUD_PORTSTAT_UNDER n 1
    c.count R.ING_GROUPSTAT_UNDER (c.get R.AUD_PORTCFG_GROUP n)
  else c.bump R.AUD_PORTSTAT_HOLDRUN n

/-- R295: a slot of port n took a complete block. -/
def Chip.portJoin (c : Chip) (n : Nat) : Chip :=
  let c := if c.on R.AUD_PORTSTAT_JOINED n then c
    else (c.set R.AUD_PORTSTAT_JOINED n 1).drop R.ING_GROUPSTAT_UNDER (c.get R.AUD_PORTCFG_GROUP n)
  c.set R.AUD_PORTSTAT_HOLDRUN n 0

/-- R294, R295, R46: slot j of input port n is substituted. -/
def Chip.portSubst (c : Chip) (n j : Nat) : Chip :=
  let (f, hold) := c.substFrame n
  (c.putBlock n j (c.slotTime n j % 2 ^ 32) true hold false false false (List.replicate (c.get R.AUD_BLKCFG_BLKLEN n) f)).portUnder n

/-- R290–R295, R298, R617: slot j of input port n. -/
def Chip.audioSlot (c : Chip) (n j : Nat) : Chip :=
  if !c.portOn n || c.on R.AUD_PORTCFG_DIR n then c
  else
    let len := c.get R.AUD_BLKCFG_BLKLEN n
    let x := c.port n
    let subst (c : Chip) : Chip := c.portSubst n j
    match c.matchFrame n j with
    | none => subst (c.bump R.AUD_SUBBLKS_NOMATCH n)
    | some i =>
      let blk := (x.frames.drop (i - x.base)).take len
      let dropped := i - x.taken
      let repeated := x.taken - i
      let c := (c.bump R.AUD_FRAMECNT_DROPPED n dropped).bump R.AUD_FRAMECNT_REPEATED n repeated
      let c := c.setPort n { x with frames := x.frames.drop (i - x.base), base := i, taken := i + blk.length }
      if blk.length < len ∨ blk.any (fun f => !f.ok) ∨ c.on R.AUD_PORTSTAT_RATEERR n then subst c
      else
        if !c.agreed (c.blockRec n j blk) then subst c else
        let c := c.putBlock n j ((blk.getD 0 {}).stamp) false false (decide (0 < repeated)) (decide (0 < dropped))
          ((blk.drop 1).any (·.maskChg)) (blk.map (·.samples))
        let c := c.setPort n { c.port n with hold := ((blk.getLast?).map (·.samples)).getD [] }
        (c.portJoin n).set R.AUD_LASTSTAMP n ((blk.getD 0 {}).stamp)

/-- R295, R298: a plane start or restart puts a port in UNDERRUN with no hold source. -/
def Chip.portRestart (c : Chip) (n : Nat) : Chip :=
  let c := (c.set R.AUD_PORTSTAT_JOINED n 0).set R.AUD_PORTSTAT_HOLDRUN n 0
  let c := c.setB R.AUD_PORTSTAT_RATEERR n (c.get R.AUD_PORTSTAT_RATECLS n != c.get R.AUD_PORTFMT_FS n + 1)
  c.setPort n { c.port n with hold := [], blocks := [] }

/-- The input ports of plane p. -/
def Chip.inputPorts (c : Chip) (p : Nat) : List Nat :=
  (List.range 48).filter (fun n => c.portOn n && !c.on R.AUD_PORTCFG_DIR n && c.get R.AUD_PORTCFG_PLANE n == p)

/-- R295, R123: at a start of plane p its ports are in UNDERRUN, and their groups count them. -/
def Chip.portsStart (c : Chip) (p : Nat) : Chip :=
  c.each (c.inputPorts p) (fun c n => (c.portRestart n).count R.ING_GROUPSTAT_UNDER (c.get R.AUD_PORTCFG_GROUP n))

/-! ### Rate meter (R297, R298) -/

/-- R298: the class whose rate lies within `ppm` of a measured rate of `n` frames in `dt` ns; 0 for none. -/
def rateClass (ppm n dt : Nat) : Nat :=
  (([0, 1, 2, 3].find? (fun k => decide (natAbsDiff (n * 1000000000) (fsHz k * dt) * 1000000 ≤ fsHz k * dt * ppm))).map
    (· + 1)).getD 0

/-- R297, R298: RATE_METER_WINDOW. A window of 100 ms of port n ends. -/
def execRateMeterWindow (n : Fin 48) (s : State) : Host.Outcome State Fault Refusal :=
  onChip (fun c =>
    let n := n.val
    if !c.portOn n then c
    else
      let x := c.port n
      let dt := (sdiff 32 x.winLast x.winFirst).toNat
      let m := x.winN - 1
      let fs := c.portFs n
      let old := c.get R.AUD_PORTSTAT_RATECLS n
      let few := decide (x.winN < 2) || dt == 0
      let near := if few then 0 else rateClass 1000 m dt
      let cls :=
        if few then 0
        else if near ≠ 0 ∧ near = x.cand then near
        else if old ≠ 0 ∧ 2000 * (fsHz (old - 1) * dt) < natAbsDiff (m * 1000000000) (fsHz (old - 1) * dt) * 1000000 then 0
        else old
      let meas := if few then 0 else (roundDiv (m * 100000000000 : Nat) dt).toNat
      let ppm : Int := if few then 0
        else clampI (roundDiv (((m * 1000000000 : Nat) - (fs * dt : Nat) : Int) * 10000000) (fs * dt)) (-32768) 32767
      let c := (c.set R.AUD_FSMEAS n meas).set R.AUD_FSPPM n (toField 16 ppm)
      let c := c.set R.AUD_PORTSTAT_RATECLS n cls
      let c := c.when (cls != old) (·.set R.AUD_PORTSTAT_RATECHG n 1)
      let c := c.setB R.AUD_PORTSTAT_RATEERR n (cls != c.get R.AUD_PORTFMT_FS n + 1)
      c.setPort n { x with winN := 0, cand := near }) s

/-! ### Output ports (R302) -/

/-- R302: the newest blocks of the source of output port n, and the flow context its marks are made with. -/
def Chip.outBlocks (c : Chip) (n : Nat) : List ABlock × Nat :=
  let k := c.get R.AUD_OUTSRC_SRC n
  if c.on R.AUD_OUTSRC_KIND n then (tget [] c.aud.rx k, k)
  else ((c.port k).blocks, (tget {} c.tables.ports (k % 48)).flow)

/-- R299, R300: the frame of output port n that starts at t, and the block that it comes from, if it is on the grid. -/
def Chip.outFrame (c : Chip) (n t : Nat) : Nat × Option ABlock :=
  let k := c.gridFrame n ((t / 1000 : Nat) - (c.get R.AUD_OUTOFF n : Int))
  let len := max 1 (c.get R.AUD_BLKCFG_BLKLEN n)
  let onGrid := c.on R.AUD_PORTCFG_MASTER n ||
    decide (natAbsDiff (t / 1000) (c.gridTime n k + c.get R.AUD_OUTOFF n) ≤ c.get R.AUD_BLKCFG_ATOL n)
  (k, if onGrid then (c.outBlocks n).1.find? (fun b => b.index == k / len) else none)

/-- R293: whether the mark of a block of a flow differs. -/
def blockBad (flow : Nat) : Option ABlock → Bool
  | some b => decide (b.mark ≠ blockMark flow b.index b.header b.data)
  | none => false

/-- R299: the sample of slot i in frame k of a block, in the sample width of port n: 0 of a block that is missing or bad. -/
def Chip.outSample (c : Chip) (n k i : Nat) (bad : Bool) : Option ABlock → Nat
  | none => 0
  | some b =>
    let pack := leAt b.header 11 1
    let chans := leAt b.header 10 1
    let len := max 1 (c.get R.AUD_BLKCFG_BLKLEN n)
    if bad ∨ chans ≤ i then 0 else leAt b.data (((k % len) * chans + i) * pack) pack / 2 ^ (8 * pack - c.sampleWidth n)

/-- R299: what port n drives in each slot: an active slot its sample, another 0 or nothing. -/
def Chip.outDrive (c : Chip) (n k : Nat) (bad : Bool) (blk : Option ABlock) : List (Option Nat) :=
  (List.range (c.portSlots n)).map (fun i =>
    if bit (c.get R.AUD_MASKSTAT_ACTIVE n) i then some (c.outSample n k i bad blk * 2 ^ (c.slotWidth n - c.sampleWidth n))
    else if c.on R.AUD_PORTCFG_TRISTATE n then none else some 0)

/-- R286: the data line of port n over a frame: the slots, most significant bit first, after the delay of its format. -/
def Chip.outWave (c : Chip) (n : Nat) (was : List (Option Bool)) (drive : List (Option Nat)) : List (Option Bool) :=
  let bits := drive.flatMap (fun v => (List.range (c.slotWidth n)).map (fun i => v.map (fun v => bit v (c.slotWidth n - 1 - i))))
  let late := was.drop bits.length
  List.replicate (c.dataDelay n - late.length) (some false) ++ late ++ bits

/-- R299, R302, R324: AUDIO_OUTPUT_FRAME. Output port n starts a frame at t ps. A block whose mark fails plays as silence. -/
def execAudioOutputFrame (n : Fin 48) (t : Nat) (s : State) : Host.Outcome State Fault Refusal :=
  onChip (fun c =>
    let n := n.val
    if !c.portOn n || !c.on R.AUD_PORTCFG_DIR n then c
    else
      let c := (c.applyMask n t).1
      let (k, blk) := c.outFrame n t
      let bad := blockBad (c.outBlocks n).2 blk
      let drive := c.outDrive n k bad blk
      let x := c.port n
      let fs := if c.on R.AUD_PORTCFG_MASTER n then c.fsWave n else []
      let c := c.setPort n { x with drive := drive, lastEdge := t, sdOut := c.outWave n x.sdOut drive, fsOut := fs }
      let c := c.when blk.isNone (·.bump R.AUD_FRAMECNT_DROPPED n)
      c.when bad (fun c => c.fault 1 1 19 blkAud 0x01 n (some (c.get R.AUD_PORTCFG_PLANE n)))) s

/-! ### Carriage (R303, R304) -/

/-- R303: the RTP timestamp of an audio block: ⌊Eⱼ × fs⌋ mod 2³², Eⱼ in seconds. -/
def Chip.audioTimestamp (c : Chip) (n j : Nat) : Nat := c.slotTime n j * c.portFs n / 1000000000 % 2 ^ 32

/-- R303: the PTS of an audio block: Eⱼ in 90 kHz units, rounded to the nearest. -/
def Chip.audioPts (c : Chip) (n j : Nat) : Nat := (roundDiv (c.slotTime n j * 9 : Nat) 100000).toNat % 2 ^ 33

/-- R304: a sample of w bits rounded to 16, ties upward, with saturation, both as fields. -/
def toL16 (w x : Nat) : Nat := if w ≤ 16 then x else toField 16 (satI 16 ((ofField w x + 2 ^ (w - 17)) / 2 ^ (w - 16)))

/-- R307: AUD.CNTCLR. -/
def execAudCntclr (v : Word) (s : State) : Host.Outcome State Fault Refusal :=
  onChip (fun c =>
    if bit v.toNat 31 then
      c.each (if bit v.toNat 30 then List.range 48 else (List.range 48).filter (· == bits v.toNat 5 0)) (fun c n =>
        let c := (c.set R.AUD_SUBBLKS_SUBST n 0).set R.AUD_SUBBLKS_NOMATCH n 0
        let c := (c.set R.AUD_FRAMECNT_DROPPED n 0).set R.AUD_FRAMECNT_REPEATED n 0
        (c.set R.AUD_ERRCNT_FRAMING n 0).set R.AUD_ERRCNT_CLKLOSS n 0)
    else c) s

end Sys2Proof.Machine
end

