-- ==== Sys2Proof/Machine/Sections.lean ====
section
/-! DEFINITION. The payloads of Skein sections whose bytes the spec lays out: the Spindle programs of section 0x06 (R230, R231), the
composition of section 0x0B (R267, R277) and the contract sheet of section 0x11 (R83). Each has its limits, which check 12 of R69
holds it to, and the tables it puts into the device. -/

namespace Sys2Proof.Machine

/-- The `n` entries of `k` bytes that stand from an offset of a payload. -/
def entriesAt (b : List Byte) (off k n : Nat) : List (List Byte) := (List.range n).map (fun i => slice b (off + k * i) k)

/-- An area of `k` bytes from an offset lies in a payload. -/
def areaIn (b : List Byte) (off k : Nat) : Bool := decide (off + k ≤ b.length)

/-! ### Spindle programs (R229–R232) -/

/-- R230: where the library, the descriptors, the constants and the directory stand. -/
def spnLibOff (b : List Byte) : Nat := leAt b 0x0C 4
def spnDescOff (b : List Byte) : Nat := leAt b 0x10 4
def spnConstOff (b : List Byte) : Nat := leAt b 0x14 4
def spnDirOff (b : List Byte) : Nat := leAt b 0x18 4

/-- R230: BUNDLES, KERNELS and DIR_COUNT. -/
def spnBundles (b : List Byte) : Nat := leAt b 0x02 2
def spnKernels (b : List Byte) : Nat := leAt b 0x04 2
def spnDirCount (b : List Byte) : Nat := leAt b 0x1C 4

/-- R230: the bytes of the library. -/
def spnLibrary (b : List Byte) : List Byte := slice b (spnLibOff b) (16 * spnBundles b)

/-- R230: the 16 bytes of each kernel's descriptor. -/
def spnDescs (b : List Byte) : List (List Byte) := entriesAt b (spnDescOff b) 16 (spnKernels b)

/-- R231: the directory's entries. -/
def spnDir (b : List Byte) : List (List Byte) := entriesAt b (spnDirOff b) 16 (spnDirCount b)

/-- R231: the block of a directory entry. -/
def dirBlock (b e : List Byte) : List Byte := slice b (leAt e 0x04 4) (64 * leAt e 0x02 2)

/-- R231: a descriptor. -/
def kernelDesc (d : List Byte) : KernelDesc :=
  { entry := leAt d 0x00 2, subst := leAt d 0x02 2, wmax := leAt d 0x04 4, param := leAt d 0x08 2, valid := bit (leAt d 0x0A 2) 0,
    isSubst := bit (leAt d 0x0A 2) 1, outwin := leAt d 0x0C 2 }

/-- R231: a descriptor keeps its ranges. -/
def kernelDescOk (d : List Byte) : Bool := decide (leAt d 0x00 2 < 4096 ∧ leAt d 0x02 2 < 1024 ∧ leAt d 0x0A 2 < 4) && leAt d 0x0E 2 == 0

/-- R231, R232: a directory entry keeps its ranges, and its block its CRC. -/
def dirEntryOk (b e : List Byte) : Bool :=
  let lines := leAt e 0x02 2
  decide (leAt e 0x00 1 < 192 ∧ leAt e 0x01 1 < 16 ∧ 1 ≤ lines ∧ lines ≤ 384) && areaIn b (leAt e 0x04 4) (64 * lines) &&
    leAt e 0x08 4 == (crc32c (dirBlock b e)).toNat && leAt e 0x0C 4 == 0

/-- R229: the blocks of one engine fit in 24 KiB in every variant. -/
def dirFits (dir : List (List Byte)) : Bool :=
  dir.all (fun e => decide (((dir.filter (fun f => f.take 2 == e.take 2)).map (fun f => leAt f 0x02 2)).sum ≤ 384))

/-- R69, R229–R232: check 12 of section 0x06. -/
def spindleOk (b : List Byte) : Bool :=
  areaIn b 0 0x20 && leAt b 0 2 == 1 && decide (1 ≤ spnBundles b ∧ spnBundles b ≤ 4096) && decide (1 ≤ spnKernels b ∧ spnKernels b ≤ 1024) &&
    leAt b 6 2 == 0 && areaIn b (spnLibOff b) (16 * spnBundles b) && areaIn b (spnDescOff b) 0x4000 && areaIn b (spnConstOff b) 0x8000 &&
    areaIn b (spnDirOff b) (16 * spnDirCount b) && (spnDescs b).all kernelDescOk && (spnDir b).all (dirEntryOk b) && dirFits (spnDir b)

/-- R232: the library has the CRC-32C that LIBCRC names. -/
def spnLibOk (b : List Byte) : Bool := leAt b 0x08 4 == (crc32c (spnLibrary b)).toNat

/-- R231, R232: the parameter blocks of a variant, by plan engine; the blocks of one engine follow one another. -/
def spnParams (b : List Byte) (variant : Nat) : List ParamBlock :=
  let dir := (spnDir b).filter (fun e => leAt e 0x01 1 == variant)
  ((dir.map (fun e => leAt e 0x00 1)).dedup).map (fun k =>
    { engine := k, bytes := (dir.filter (fun e => leAt e 0x00 1 == k)).flatMap (dirBlock b) })

/-- R230–R232: what section 0x06 puts into the device's tables. -/
def spindleTables (b : List Byte) : SkeinTables :=
  { lib := ((List.range (spnBundles b)).map (fun i => (i, BitVec.ofNat 128 (leAt b (spnLibOff b + 16 * i) 16)))),
    kernels := (spnDescs b).zipIdx.map (fun (d, i) => (i, kernelDesc d)),
    consts := (List.range 8192).map (fun i => (i, BitVec.ofNat 32 (leAt b (spnConstOff b + 4 * i) 4))),
    params := spnParams b 0 }

/-! ### Composition (R267, R271, R277) -/

/-- R267: where the luma horizontal, luma vertical, chroma horizontal and chroma vertical coefficients begin. -/
def coefLH : Nat := 0
def coefLV : Nat := 512
def coefCH : Nat := 896
def coefCV : Nat := 1152

/-- R267: whether a coefficient set has 1,408 words of 10 bits and each phase sums to 256 (check 12 of R69). -/
def coefSetOk (l : List Int) : Bool :=
  let sums (off n : Nat) := (List.range 64).all (fun p => decide (((l.drop (off + p * n)).take n).sum = 256))
  decide (l.length = 1408) && l.all (fun x => decide (-512 ≤ x) && decide (x ≤ 511)) &&
    sums coefLH 8 && sums coefLV 6 && sums coefCH 4 && sums coefCV 4

/-- Little-endian 16-bit words in two's complement. -/
def signedWords (b : List Byte) (off n : Nat) : List Int := (List.range n).map (fun i => ofField 16 (leAt b (off + 2 * i) 2))

/-- Little-endian 16-bit words. -/
def plainWords (b : List Byte) (off n : Nat) : List Nat := (List.range n).map (fun i => leAt b (off + 2 * i) 2)

/-- R277: OUTPUTS, SCALERS, COEFSETS, CONVSETS and SURFACES. -/
def cmpOutputs (b : List Byte) : Nat := leAt b 0x02 1
def cmpScalers (b : List Byte) : Nat := leAt b 0x03 1
def cmpCoefs (b : List Byte) : Nat := leAt b 0x04 2
def cmpConvs (b : List Byte) : Nat := leAt b 0x06 2
def cmpSurfaces (b : List Byte) : Nat := leAt b 0x08 2

/-- R277: where the output images, the scaler images, the coefficient sets, the conversion sets and the surface directory stand. -/
def cmpOutOff (b : List Byte) : Nat := leAt b 0x0C 4
def cmpSclOff (b : List Byte) : Nat := leAt b 0x10 4
def cmpCoefOff (b : List Byte) : Nat := leAt b 0x14 4
def cmpConvOff (b : List Byte) : Nat := leAt b 0x18 4
def cmpSurfOff (b : List Byte) : Nat := leAt b 0x1C 4

/-- R267: coefficient set i. -/
def cmpCoefSet (b : List Byte) (i : Nat) : List Int := signedWords b (cmpCoefOff b + 2816 * i) 1408

/-- R271, R277: conversion set i. -/
def cmpConvSet (b : List Byte) (i : Nat) : ConvSet :=
  let o := cmpConvOff b + 12416 * i
  { min := signedWords b o 15, mmid := signedWords b (o + 30) 15, mout := signedWords b (o + 60) 15, lutA := plainWords b (o + 90) 3075,
    lutB := plainWords b (o + 6240) 3075 }

/-- R277: the surface directory. -/
def cmpSurfDir (b : List Byte) : List (List Byte) := entriesAt b (cmpSurfOff b) 16 (cmpSurfaces b)

/-- R273, R277: the bytes of a surface's pixels, and of its palette after them. -/
def surfPixels (e : List Byte) : Nat := leAt e 0 2 * leAt e 2 2 * (if leAt e 4 1 = 0 then 4 else 1)
def surfPalette (e : List Byte) : Nat := if leAt e 4 1 = 0 then 0 else 1024

/-- R277: a surface's format, place and CRC are right. -/
def surfaceOk (b e : List Byte) : Bool :=
  let n := surfPixels e + surfPalette e
  decide (leAt e 4 1 < 2) && leAt e 5 3 == 0 && areaIn b (leAt e 8 4) n && leAt e 12 4 == (crc32c (slice b (leAt e 8 4) n)).toNat

/-- R273, R277: a surface. -/
def surfaceOf (b e : List Byte) : Surface :=
  { width := leAt e 0 2, height := leAt e 2 2, fmt := leAt e 4 1, pixels := slice b (leAt e 8 4) (surfPixels e),
    palette := slice b (leAt e 8 4 + surfPixels e) (surfPalette e) }

/-- R69, R267, R277: check 12 of section 0x0B. -/
def composeOk (b : List Byte) : Bool :=
  areaIn b 0 0x20 && leAt b 0 2 == 1 && decide (cmpOutputs b ≤ 4 ∧ cmpScalers b ≤ 24 ∧ 1 ≤ cmpCoefs b ∧ cmpCoefs b ≤ 64) &&
    decide (cmpConvs b ≤ 16 ∧ cmpSurfaces b ≤ 64) && leAt b 0x0A 2 == 0 && areaIn b (cmpOutOff b) (1024 * cmpOutputs b) &&
    areaIn b (cmpSclOff b) (32 * cmpScalers b) && areaIn b (cmpCoefOff b) (2816 * cmpCoefs b) && areaIn b (cmpConvOff b) (12416 * cmpConvs b) &&
    areaIn b (cmpSurfOff b) (16 * cmpSurfaces b) && (List.range (cmpCoefs b)).all (fun i => coefSetOk (cmpCoefSet b i)) &&
    (cmpSurfDir b).all (surfaceOk b)

/-- R277: the SK words that a block image at an offset holds for the block at a BAR0 address. -/
def imageWords (b : List Byte) (off a n : Nat) : Tab Word := (List.range n).map (fun i => (a + 4 * i, BitVec.ofNat 32 (leAt b (off + 4 * i) 4)))

/-- R277, R278, R283: what section 0x0B puts into the device's tables. -/
def composeTables (b : List Byte) : SkeinTables :=
  { sk := (List.range (cmpOutputs b)).flatMap (fun o => imageWords b (cmpOutOff b + 1024 * o) (0x00B01000 + 0x400 * o) 256) ++
      (List.range (cmpScalers b)).flatMap (fun k => imageWords b (cmpSclOff b + 32 * k) (0x00B08000 + 0x20 * k) 8),
    coefs := (List.range (cmpCoefs b)).map (fun i => (i, cmpCoefSet b i)),
    convs := (List.range (cmpConvs b)).map (fun i => (i, cmpConvSet b i)),
    surfaces := (cmpSurfDir b).zipIdx.map (fun (e, i) => (i, surfaceOf b e)) }

/-! ### The contract sheet (R83) -/

/-- R83: a contract sheet keeps its limits: its format, at most 96 records, all of them there, and the GENERATION of the header. -/
def sheetOk (h plain : List Byte) : Bool :=
  leAt plain 0 2 == 1 && decide (leAt plain 2 2 ≤ 96) && decide (16 + 32 * leAt plain 2 2 ≤ plain.length) &&
    leAt plain 8 8 == leAt h 0x10 8

/-- R83: the words of the contract sheet: its header and its records; what follows the last record is no part of it (R68). -/
def sheetWords (plain : List Byte) : List Word :=
  (List.range (4 + 8 * leAt plain 2 2)).map (fun w => BitVec.ofNat 32 (leAt plain (4 * w) 4))

/-! ### Any section -/

/-- R69: check 12 as far as the spec lays the payload out: the payload of a section of type t, in an image with header h. -/
def payloadOk (h : List Byte) (t : Nat) (plain : List Byte) : Bool :=
  match t with
  | 0x06 => spindleOk plain
  | 0x0B => composeOk plain
  | 0x11 => sheetOk h plain
  | _ => true

/-- What a section of type t puts into the device's tables: what its payload says where the spec lays that out, else what
`x` says. The rendition rasters of section 0x0B stand outside the layout of R277. -/
def payloadTables (t : Nat) (plain : List Byte) (x : SkeinTables) : SkeinTables :=
  match t with
  | 0x06 => spindleTables plain
  | 0x0B => { composeTables plain with rends := x.rends }
  | _ => x

end Sys2Proof.Machine
end

