-- ==== Sys2Proof/Machine/Crypto.lean ====
section
/-! DEFINITION. The cryptographic engines: AES-256 and its GCM mode (FIPS 197, SP 800-38D: R65, R573), HMAC with SHA-1 and
SHA-256 (FIPS 180-4, RFC 2104: R332, R507), the SRTP transform (RFC 3711, RFC 6188: R332) and ECDSA over P-384 (FIPS 186, SEC 1:
R64). -/

namespace Sys2Proof.Machine

/-! ### AES-256 -/

/-- FIPS 197: the S-box, entries 0 to 127. -/
def aesSboxLo : List Byte :=
  [0x63#8, 0x7C#8, 0x77#8, 0x7B#8, 0xF2#8, 0x6B#8, 0x6F#8, 0xC5#8, 0x30#8, 0x01#8, 0x67#8, 0x2B#8, 0xFE#8, 0xD7#8, 0xAB#8, 0x76#8,
   0xCA#8, 0x82#8, 0xC9#8, 0x7D#8, 0xFA#8, 0x59#8, 0x47#8, 0xF0#8, 0xAD#8, 0xD4#8, 0xA2#8, 0xAF#8, 0x9C#8, 0xA4#8, 0x72#8, 0xC0#8,
   0xB7#8, 0xFD#8, 0x93#8, 0x26#8, 0x36#8, 0x3F#8, 0xF7#8, 0xCC#8, 0x34#8, 0xA5#8, 0xE5#8, 0xF1#8, 0x71#8, 0xD8#8, 0x31#8, 0x15#8,
   0x04#8, 0xC7#8, 0x23#8, 0xC3#8, 0x18#8, 0x96#8, 0x05#8, 0x9A#8, 0x07#8, 0x12#8, 0x80#8, 0xE2#8, 0xEB#8, 0x27#8, 0xB2#8, 0x75#8,
   0x09#8, 0x83#8, 0x2C#8, 0x1A#8, 0x1B#8, 0x6E#8, 0x5A#8, 0xA0#8, 0x52#8, 0x3B#8, 0xD6#8, 0xB3#8, 0x29#8, 0xE3#8, 0x2F#8, 0x84#8,
   0x53#8, 0xD1#8, 0x00#8, 0xED#8, 0x20#8, 0xFC#8, 0xB1#8, 0x5B#8, 0x6A#8, 0xCB#8, 0xBE#8, 0x39#8, 0x4A#8, 0x4C#8, 0x58#8, 0xCF#8,
   0xD0#8, 0xEF#8, 0xAA#8, 0xFB#8, 0x43#8, 0x4D#8, 0x33#8, 0x85#8, 0x45#8, 0xF9#8, 0x02#8, 0x7F#8, 0x50#8, 0x3C#8, 0x9F#8, 0xA8#8,
   0x51#8, 0xA3#8, 0x40#8, 0x8F#8, 0x92#8, 0x9D#8, 0x38#8, 0xF5#8, 0xBC#8, 0xB6#8, 0xDA#8, 0x21#8, 0x10#8, 0xFF#8, 0xF3#8, 0xD2#8]

/-- FIPS 197: the S-box, entries 128 to 255. -/
def aesSboxHi : List Byte :=
  [0xCD#8, 0x0C#8, 0x13#8, 0xEC#8, 0x5F#8, 0x97#8, 0x44#8, 0x17#8, 0xC4#8, 0xA7#8, 0x7E#8, 0x3D#8, 0x64#8, 0x5D#8, 0x19#8, 0x73#8,
   0x60#8, 0x81#8, 0x4F#8, 0xDC#8, 0x22#8, 0x2A#8, 0x90#8, 0x88#8, 0x46#8, 0xEE#8, 0xB8#8, 0x14#8, 0xDE#8, 0x5E#8, 0x0B#8, 0xDB#8,
   0xE0#8, 0x32#8, 0x3A#8, 0x0A#8, 0x49#8, 0x06#8, 0x24#8, 0x5C#8, 0xC2#8, 0xD3#8, 0xAC#8, 0x62#8, 0x91#8, 0x95#8, 0xE4#8, 0x79#8,
   0xE7#8, 0xC8#8, 0x37#8, 0x6D#8, 0x8D#8, 0xD5#8, 0x4E#8, 0xA9#8, 0x6C#8, 0x56#8, 0xF4#8, 0xEA#8, 0x65#8, 0x7A#8, 0xAE#8, 0x08#8,
   0xBA#8, 0x78#8, 0x25#8, 0x2E#8, 0x1C#8, 0xA6#8, 0xB4#8, 0xC6#8, 0xE8#8, 0xDD#8, 0x74#8, 0x1F#8, 0x4B#8, 0xBD#8, 0x8B#8, 0x8A#8,
   0x70#8, 0x3E#8, 0xB5#8, 0x66#8, 0x48#8, 0x03#8, 0xF6#8, 0x0E#8, 0x61#8, 0x35#8, 0x57#8, 0xB9#8, 0x86#8, 0xC1#8, 0x1D#8, 0x9E#8,
   0xE1#8, 0xF8#8, 0x98#8, 0x11#8, 0x69#8, 0xD9#8, 0x8E#8, 0x94#8, 0x9B#8, 0x1E#8, 0x87#8, 0xE9#8, 0xCE#8, 0x55#8, 0x28#8, 0xDF#8,
   0x8C#8, 0xA1#8, 0x89#8, 0x0D#8, 0xBF#8, 0xE6#8, 0x42#8, 0x68#8, 0x41#8, 0x99#8, 0x2D#8, 0x0F#8, 0xB0#8, 0x54#8, 0xBB#8, 0x16#8]

/-- FIPS 197: SubBytes of one byte. -/
def aesSub (b : Byte) : Byte := if b.toNat < 128 then aesSboxLo.getD b.toNat 0 else aesSboxHi.getD (b.toNat - 128) 0

/-- Two byte strings, exclusive-ored up to the shorter. -/
def xorBytes (a b : List Byte) : List Byte := List.zipWith (fun x y => x ^^^ y) a b

/-- FIPS 197: the words of the key schedule after eight of them, `i` being the index of the next; newest first. -/
def aesExpand : Nat → Nat → Byte → List (List Byte) → List (List Byte)
  | 0, _, _, w => w
  | n + 1, i, rcon, w =>
    let last := w.getD 0 []
    let t := if i % 8 = 0 then xorBytes ((last.drop 1 ++ last.take 1).map aesSub) [rcon, 0, 0, 0]
      else if i % 8 = 4 then last.map aesSub else last
    aesExpand n (i + 1) (if i % 8 = 0 then rcon <<< (1 : Nat) else rcon) (xorBytes (w.getD 7 []) t :: w)

/-- FIPS 197: the 15 round keys of a 32-byte key. -/
def aesKeys (key : List Byte) : List (List Byte) :=
  let w0 := ((List.range 8).map (fun i => slice key (4 * i) 4)).reverse
  let w := (aesExpand 52 8 0x01#8 w0).reverse
  (List.range 15).map (fun r => ((w.drop (4 * r)).take 4).flatten)

/-- FIPS 197: a byte times 2 in the field of AES. -/
def xtime (b : Byte) : Byte := if b.getLsbD 7 then (b <<< (1 : Nat)) ^^^ 0x1B#8 else b <<< (1 : Nat)

/-- FIPS 197: SubBytes and ShiftRows. -/
def aesShift (s : List Byte) : List Byte :=
  let t := s.map aesSub
  (List.range 16).map (fun k => t.getD (k % 4 + 4 * ((k / 4 + k % 4) % 4)) 0)

/-- FIPS 197: MixColumns. -/
def aesMix (s : List Byte) : List Byte :=
  (List.range 16).map (fun k =>
    let at_ (j : Nat) : Byte := s.getD (4 * (k / 4) + (k + j) % 4) 0
    xtime (at_ 0) ^^^ (xtime (at_ 1) ^^^ at_ 1) ^^^ at_ 2 ^^^ at_ 3)

/-- FIPS 197: the rounds over the round keys that are left. -/
def aesRounds : List (List Byte) → List Byte → List Byte
  | [], s => s
  | [k], s => xorBytes (aesShift s) k
  | k :: t, s => aesRounds t (xorBytes (aesMix (aesShift s)) k)

/-- FIPS 197: one block under AES-256. -/
def aesBlock (keys : List (List Byte)) (b : List Byte) : List Byte := aesRounds (keys.drop 1) (xorBytes b (keys.getD 0 []))

/-- AES in counter mode: `n` blocks of keystream from a 128-bit counter, of which the low `w` bits count. -/
def aesStream (keys : List (List Byte)) (w : Nat) : Nat → Nat → List Byte
  | 0, _ => []
  | n + 1, ctr =>
    aesBlock keys (beBytes 16 ctr) ++ aesStream keys w n (ctr / 2 ^ w * 2 ^ w + (ctr + 1) % 2 ^ w)

/-! ### GCM -/

/-- SP 800-38D: one bit of a product: the multiple of H, and its next. -/
def ghashBit (b : Bool) (a : BitVec 128 × BitVec 128) : BitVec 128 × BitVec 128 :=
  (if b then a.1 ^^^ a.2 else a.1, if a.2.getLsbD 0 then (a.2 >>> (1 : Nat)) ^^^ 0xE1000000000000000000000000000000#128 else a.2 >>> (1 : Nat))

/-- SP 800-38D: the product of two blocks. -/
def ghashMul (x h : BitVec 128) : BitVec 128 := ((List.range 128).foldl (fun a i => ghashBit (x.getLsbD (127 - i)) a) (0#128, h)).1

/-- SP 800-38D: GHASH over `n` blocks. -/
def ghash (h : BitVec 128) : Nat → List Byte → BitVec 128 → BitVec 128
  | 0, _, y => y
  | n + 1, l, y => ghash h n (l.drop 16) (ghashMul (y ^^^ BitVec.ofNat 128 (ofBe (l.take 16))) h)

/-- Zero bytes appended up to a whole block. -/
def padBlock (l : List Byte) : List Byte := l ++ List.replicate ((16 - l.length % 16) % 16) 0#8

/-- SP 800-38D, R65, R573: the tag of a ciphertext under a key, a 12-byte IV and additional data. -/
def gcmTag (key iv aad ct : List Byte) : List Byte :=
  let keys := aesKeys key
  let h := BitVec.ofNat 128 (ofBe (aesBlock keys (List.replicate 16 0#8)))
  let l := padBlock aad ++ padBlock ct ++ beBytes 8 (8 * aad.length) ++ beBytes 8 (8 * ct.length)
  xorBytes (beBytes 16 (ghash h (l.length / 16) l 0#128).toNat) (aesBlock keys (iv ++ [0#8, 0#8, 0#8, 1#8]))

/-- SP 800-38D: a ciphertext deciphered, or a plaintext enciphered. -/
def gcmCrypt (key iv l : List Byte) : List Byte :=
  xorBytes l (aesStream (aesKeys key) 32 (ceilDiv l.length 16) (ofBe (iv ++ [0#8, 0#8, 0#8, 2#8])))

/-! ### SHA-256, SHA-1 and HMAC -/

/-- FIPS 180-4: the first 32 bits of the constants of SHA-512 are those of SHA-256. -/
def sha256K : List Word := (shaK.take 64).map (fun k : DWord => (k >>> (32 : Nat)).setWidth 32)

/-- FIPS 180-4: a message padded to whole blocks of 64 bytes. -/
def shaPad64 (m : List Byte) : List Byte :=
  m ++ [0x80#8] ++ List.replicate ((64 - (m.length + 9) % 64) % 64) 0#8 ++ beBytes 8 (8 * m.length)

/-- An exclusive-or of three rotations of a 32-bit word. -/
def rotl3 (x : Word) (i j k : Nat) : Word := x.rotateRight i ^^^ x.rotateRight j ^^^ x.rotateRight k

/-- FIPS 180-4: one round of SHA-256 over the eight working words. -/
def sha256Round (s : List Word) (k w : Word) : List Word :=
  match s with
  | [a, b, c, d, e, f, g, h] =>
    let t1 := h + rotl3 e 6 11 25 + ((e &&& f) ^^^ (~~~e &&& g)) + k + w
    let t2 := rotl3 a 2 13 22 + ((a &&& b) ^^^ (a &&& c) ^^^ (b &&& c))
    [t1 + t2, a, b, c, d + t1, e, f, g]
  | l => l

/-- FIPS 180-4: the rounds of SHA-256 over a window of sixteen message words. -/
def sha256Rounds : List Word → List Word → List Word → List Word
  | [], _, s => s
  | k :: ks, w, s =>
    let x := w.getD 14 0
    let y := w.getD 1 0
    let next := (x.rotateRight 17 ^^^ x.rotateRight 19 ^^^ x >>> (10 : Nat)) + w.getD 9 0 +
      (y.rotateRight 7 ^^^ y.rotateRight 18 ^^^ y >>> (3 : Nat)) + w.getD 0 0
    sha256Rounds ks (w.drop 1 ++ [next]) (sha256Round s k (w.getD 0 0))

/-- The sixteen message words of a block of 64 bytes. -/
def blockWords (l : List Byte) : List Word := (List.range 16).map (fun i => BitVec.ofNat 32 (ofBe (slice l (4 * i) 4)))

/-- FIPS 180-4: SHA-256 over `n` blocks. -/
def sha256Blocks : Nat → List Byte → List Word → List Word
  | 0, _, s => s
  | n + 1, l, s => sha256Blocks n (l.drop 64) (List.zipWith (· + ·) s (sha256Rounds sha256K (blockWords l) s))

/-- SHA-256 of a byte string: 32 bytes. -/
def sha256 (m : List Byte) : List Byte :=
  let p := shaPad64 m
  (sha256Blocks (p.length / 64) p
    [0x6A09E667#32, 0xBB67AE85#32, 0x3C6EF372#32, 0xA54FF53A#32, 0x510E527F#32, 0x9B05688C#32, 0x1F83D9AB#32, 0x5BE0CD19#32]).flatMap
    (fun w => beBytes 4 w.toNat)

/-- FIPS 180-4: the rounds of SHA-1 from round `t` on, over a window of sixteen message words. -/
def sha1Rounds : Nat → Nat → List Word → List Word → List Word
  | 0, _, _, s => s
  | n + 1, t, w, s => match s with
    | [a, b, c, d, e] =>
      let fk : Word × Word :=
        if t < 20 then ((b &&& c) ^^^ (~~~b &&& d), 0x5A827999#32)
        else if t < 40 then (b ^^^ c ^^^ d, 0x6ED9EBA1#32)
        else if t < 60 then ((b &&& c) ^^^ (b &&& d) ^^^ (c &&& d), 0x8F1BBCDC#32)
        else (b ^^^ c ^^^ d, 0xCA62C1D6#32)
      let next := (w.getD 13 0 ^^^ w.getD 8 0 ^^^ w.getD 2 0 ^^^ w.getD 0 0).rotateLeft 1
      sha1Rounds n (t + 1) (w.drop 1 ++ [next]) [a.rotateLeft 5 + fk.1 + e + fk.2 + w.getD 0 0, a, b.rotateLeft 30, c, d]
    | l => l

/-- FIPS 180-4: SHA-1 over `n` blocks. -/
def sha1Blocks : Nat → List Byte → List Word → List Word
  | 0, _, s => s
  | n + 1, l, s => sha1Blocks n (l.drop 64) (List.zipWith (· + ·) s (sha1Rounds 80 0 (blockWords l) s))

/-- SHA-1 of a byte string: 20 bytes. -/
def sha1 (m : List Byte) : List Byte :=
  let p := shaPad64 m
  (sha1Blocks (p.length / 64) p [0x67452301#32, 0xEFCDAB89#32, 0x98BADCFE#32, 0x10325476#32, 0xC3D2E1F0#32]).flatMap
    (fun w => beBytes 4 w.toNat)

/-- RFC 2104: HMAC with a hash of 64-byte blocks and a key of at most 64 bytes. -/
def hmac (h : List Byte → List Byte) (key m : List Byte) : List Byte :=
  let k := slice key 0 64
  h (k.map (· ^^^ 0x5C#8) ++ h (k.map (· ^^^ 0x36#8) ++ m))

/-! ### SRTP (R332, R575) -/

/-- RFC 3711, RFC 6188: a session key of `n` bytes from the master key and salt, by its label, at a key derivation rate of 0. -/
def srtpKey (master salt : List Byte) (label n : Nat) : List Byte :=
  (aesStream (aesKeys master) 16 (ceilDiv n 16) (Nat.xor (ofBe salt) (label * 2 ^ 48) * 65536)).take n

/-- RFC 3711: a payload enciphered or deciphered by AES_256_CM: packet index i of an SSRC. -/
def srtpCrypt (material : List Byte) (ssrc i : Nat) (l : List Byte) : List Byte :=
  let master := material.take 32
  let salt := slice material 32 14
  let iv := Nat.xor (Nat.xor (ofBe (srtpKey master salt 2 14) * 65536) (ssrc * 2 ^ 64)) (i * 65536)
  xorBytes l (aesStream (aesKeys (srtpKey master salt 0 32)) 16 (ceilDiv l.length 16) iv)

/-- RFC 3711: the 80-bit authentication tag of an RTP packet with its payload enciphered, at a rollover counter. -/
def srtpTag (material : List Byte) (roc : Nat) (packet : List Byte) : List Byte :=
  (hmac sha1 (srtpKey (material.take 32) (slice material 32 14) 1 20) (packet ++ beBytes 4 roc)).take 10

/-! ### ECDSA over P-384 -/

/-- FIPS 186: the prime of P-384. -/
def p384P : Nat := 2 ^ 384 - 2 ^ 128 - 2 ^ 96 + 2 ^ 32 - 1
/-- FIPS 186: coefficient b of P-384. -/
def p384B : Nat := 0xB3312FA7E23EE7E4988E056BE3F82D19181D9C6EFE8141120314088F5013875AC656398D8A2ED19D2A85C8EDD3EC2AEF
/-- FIPS 186: the order of the base point of P-384. -/
def p384N : Nat := 0xFFFFFFFFFFFFFFFFFFFFFFFFFFFFFFFFFFFFFFFFFFFFFFFFC7634D81F4372DDF581A0DB248B0A77AECEC196ACCC52973
/-- FIPS 186: x of the base point. -/
def p384Gx : Nat := 0xAA87CA22BE8B05378EB1C71EF320AD746E1D3B628BA79B9859F741E082542A385502F25DBF55296C3A545E3872760AB7
/-- FIPS 186: y of the base point. -/
def p384Gy : Nat := 0x3617DE4A96262C6F5D9E98BF9292DC29F8F41DBD289A147CE9DA3113B5F0B8C00A60B1CE1D7E819D7A431D7C90EA0E5F

/-- A point (X : Y : Z) of P-384 in Jacobian coordinates; Z = 0 is the point at infinity. -/
abbrev EcPoint := Nat × Nat × Nat

/-- a − b modulo the prime. -/
def p384Sub (a b : Nat) : Nat := (a + p384P - b % p384P) % p384P

/-- A point doubled (a = −3). -/
def ecDouble (q : EcPoint) : EcPoint :=
  let (x, y, z) := q
  let zz := z * z % p384P
  let s := 4 * x * (y * y % p384P) % p384P
  let m := 3 * (p384Sub x zz * ((x + zz) % p384P)) % p384P
  let x' := p384Sub (m * m) (2 * s)
  let yy := y * y % p384P
  (x', p384Sub (m * p384Sub s x') (8 * (yy * yy)), 2 * y * z % p384P)

/-- The sum of two points. -/
def ecAdd (p q : EcPoint) : EcPoint :=
  if p.2.2 = 0 then q else if q.2.2 = 0 then p
  else
    let z1 := p.2.2 * p.2.2 % p384P
    let z2 := q.2.2 * q.2.2 % p384P
    let u1 := p.1 * z2 % p384P
    let u2 := q.1 * z1 % p384P
    let s1 := p.2.1 * (z2 * q.2.2 % p384P) % p384P
    let s2 := q.2.1 * (z1 * p.2.2 % p384P) % p384P
    if u1 = u2 then (if s1 = s2 then ecDouble p else (1, 1, 0))
    else
      let h := p384Sub u2 u1
      let r := p384Sub s2 s1
      let hh := h * h % p384P
      let v := u1 * hh % p384P
      let h3 := h * hh % p384P
      let x := p384Sub (p384Sub (r * r) h3) (2 * v)
      (x, p384Sub (r * p384Sub v x) (s1 * h3), p.2.2 * q.2.2 % p384P * h % p384P)

/-- u₁·P + u₂·Q, from bit `n` − 1 of both multipliers down. -/
def ecMul2 (u1 u2 : Nat) (p q pq : EcPoint) : Nat → EcPoint → EcPoint
  | 0, a => a
  | n + 1, a =>
    let a := ecDouble a
    ecMul2 u1 u2 p q pq n (match bit u1 n, bit u2 n with
      | true, true => ecAdd a pq
      | true, false => ecAdd a p
      | false, true => ecAdd a q
      | false, false => a)

/-- b to the power e modulo m, over `n` bits of e. -/
def powMod (b e m : Nat) : Nat → Nat
  | 0 => 1
  | n + 1 => let h := powMod b (e / 2) m n; if e % 2 = 1 then h * h % m * b % m else h * h % m

/-- R64: an ECDSA P-384 signature (r then s, 48 bytes each, big-endian) over the SHA-384 of a message verifies under a public key (x
then y). -/
def ecdsaOk (pubkey sig msg : List Byte) : Bool :=
  let x := ofBe (slice pubkey 0 48)
  let y := ofBe (slice pubkey 48 48)
  let r := ofBe (slice sig 0 48)
  let s := ofBe (slice sig 48 48)
  if x < p384P ∧ y < p384P ∧ y * y % p384P = (x * x * x + (p384P - 3) * x + p384B) % p384P ∧ 0 < r ∧ r < p384N ∧ 0 < s ∧ s < p384N then
    let w := powMod s (p384N - 2) p384N 384
    let u1 := ofBe (sha384 msg) * w % p384N
    let u2 := r * w % p384N
    let g : EcPoint := (p384Gx, p384Gy, 1)
    let q : EcPoint := (x, y, 1)
    let (rx, _, rz) := ecMul2 u1 u2 g q (ecAdd g q) 384 (1, 1, 0)
    let zz := rz * rz % p384P
    rz != 0 && (rx == r * zz % p384P || (decide (r + p384N < p384P) && rx == (r + p384N) * zz % p384P))
  else false

end Sys2Proof.Machine
end

