-- ==== Sys2Proof/Machine/TimeBases.lean ====
section
/-! DEFINITION. Time bases: the servo of TB0–TB11, the steady bases TB12–TB15, holdover, validity and the latch (Ethernet,
Packetising and Network Time, R341–R344; R82). -/

namespace Sys2Proof.Machine

/-- R342: ±500 ppm in units of 2⁻⁴⁰. -/
def rateMax : Int := 549755813
/-- R343: 10 ppm in units of 2⁻⁴⁰. -/
def slewMax : Int := 10995116
/-- R36, R343: 0.01 ppm in units of 2⁻⁴⁰, the most that a steady base's rate changes in a millisecond. -/
def slewStep : Int := 10995

/-- R36: the furthest that the rate of a steady base lies from its fabric cycles: 10 ppm of nominal and the crystal's 50 ppm. -/
def steadyMax : Int := 65970697

/-- R341: the advance of a base in one Twist of 256 fabric cycles: 320 ns × (1 + r), with no residue lost. -/
def TimeBase.twist (t : TimeBase) : TimeBase := { t with t40 := (t.t40 + 320 * ((2 ^ 40 : Int) + t.rate)).toNat }

/-- R378: SQUELCHED of every clock output. SQ 0x3 acts as 0x2. A house output follows the DPLL; any other follows its base. -/
def Chip.squelch (c : Chip) : Chip :=
  c.each (List.range 8) (fun c k =>
    let src := c.get R.CLK_OUTCFG_SRC k
    let sq := min 2 (c.get R.CLK_OUTCFG_SQ k)
    let st := c.get R.CLK_DPLLSTAT_STATE
    let b := if src < 4 then c.baseOf (c.get R.CLK_OUTCFG_PLANE k) else c.get R.CLK_OUTCFG_TB k
    let on : Bool :=
      if c.on R.CLK_OUTCFG_EN k = false ∨ src = 0 ∨ 5 < src ∨ sq = 0 then false
      else if src = 1 then
        (if sq = 1 then st == 0 || st == 1 || st == 4 else st == 0 || st == 1 || c.on R.CLK_DPLLSTAT_HOOSPEC)
      else if sq = 1 then !c.on R.NET_TBSTAT_LOCKED b else !c.on R.NET_TBSTAT_VALID b
    c.setB R.CLK_PHSTAT_SQUELCHED k on)

/-- R380: the phase still pending on output k becomes p ps; what has gone is applied. -/
def Chip.phaseTo (c : Chip) (k : Nat) (p : Int) : Chip :=
  let x := ofField 32 (c.get R.CLK_PHPEND k) - p
  let c := (c.set R.CLK_PHPEND k (toField 32 p)).setB R.CLK_PHSTAT_PHBUSY k (decide (p ≠ 0))
  { c with clk := { c.clk with applied := tset 0 c.clk.applied k (tget 0 c.clk.applied k + x) } }

/-- R380: the phase of output k moves by SLEW × 0.1 ppm of the time since its last step, in whole picoseconds: SLEW / 8,000 ps in each fabric
cycle. -/
def Chip.slewPhase (c : Chip) (k : Nat) : Chip :=
  let slew := min 1000 (c.get R.CLK_OUTCFG_SLEW k)
  let (t, p) := tget (0, 0) c.clk.stepped k
  if slew = 0 ∨ c.on R.CLK_PHSTAT_PHBUSY k = false then c
  else
    let left : Nat := p.natAbs - slew * (c.sched.cyc - t) / 8000
    c.phaseTo k (if p < 0 then -left else left)

/-- R355: SRCTYPE of a base; a code that does not fit its kind acts as 0x0. -/
def Chip.tbSrcType (c : Chip) (b : Nat) : Nat :=
  let t := c.get R.NET_TBCFG_SRCTYPE b
  if b < 12 then (if t = 1 ∨ t = 2 then t else 0) else (if t = 3 then 3 else 0)

/-- R355: the servo-corrected base that a steady base follows, if it names one. -/
def Chip.tbSource (c : Chip) (b : Nat) : Option Nat :=
  if c.tbSrcType b = 3 ∧ c.get R.NET_TBCFG_SRC b < 12 then some (c.get R.NET_TBCFG_SRC b) else none

/-- The rate of a base set; TBRATE shows it (R354). -/
def Chip.setRate (c : Chip) (b : Nat) (r : Int) : Chip :=
  (c.setBase b { c.base b with rate := r }).set R.NET_TBRATE b (toField 32 r)

/-- R342, R343: a base is stepped: it reads t40, STEPPED is set and STEPCNT rises. -/
def Chip.stepBase (c : Chip) (b t40 : Nat) : Chip :=
  ((c.setBase b { c.base b with t40 := t40, placed := true }).set R.NET_TBSTAT_STEPPED b 1).bump R.NET_TBSTAT_STEPCNT b

/-- R344, R356, R41: a base becomes invalid: INVEV, and a timing fault of every running plane that uses it. -/
def Chip.invalidateBase (c : Chip) (b : Nat) : Chip :=
  if c.on R.NET_TBSTAT_VALID b then ((c.set R.NET_TBSTAT_VALID b 0).set R.NET_TBSTAT_INVEV b 1).baseInvalid b else c

/-- R344: whether a steady base's source is in holdover or invalid. -/
def Chip.sourceHolds (c : Chip) (b : Nat) : Bool :=
  match c.tbSource b with
  | some s => c.on R.NET_TBSTAT_HOLDOVER s || !c.on R.NET_TBSTAT_VALID s
  | none => false

/-- R344: a base enters HOLDOVER. A servo-corrected base loses LOCKED and keeps its integrator rate. -/
def Chip.enterHoldover (c : Chip) (b : Nat) : Chip :=
  if c.on R.NET_TBSTAT_HOLDOVER b then c
  else
    let c := (c.set R.NET_TBSTAT_HOLDOVER b 1).set R.NET_TBHOLDT b 0
    let t := c.base b
    if b < 12 then
      ((c.setBase b { t with holdFrom := c.sched.cyc, good := 0 }).setRate b t.integ).set R.NET_TBSTAT_LOCKED b 0
    else c.setBase b { t with holdFrom := c.sched.cyc }

/-- R344: a base leaves HOLDOVER; it is valid again, a steady base if it has locked or made a free start. -/
def Chip.leaveHoldover (c : Chip) (b : Nat) : Chip :=
  let c := (c.set R.NET_TBSTAT_HOLDOVER b 0).set R.NET_TBHOLDT b 0
  c.when (decide (b < 12) || c.on R.NET_TBSTAT_LOCKED b || c.on R.NET_TBSTAT_FREESTART b) (·.set R.NET_TBSTAT_VALID b 1)

/-- R343, R82: steady base s locks when its source is LOCKED and four estimates in a row of that source agree within 1 µs;
unless it made a free start it is stepped once to its source. -/
def Chip.tryLock (c : Chip) (s : Nat) : Chip :=
  match c.tbSource s with
  | none => c
  | some b =>
    let e := (c.base b).recent
    let agree := decide (e.length = 4) &&
      decide (e.foldl max (e.headD 0) - e.foldl min (e.headD 0) ≤ 1000)
    if c.on R.NET_TBCFG_EN s ∧ c.on R.NET_TBSTAT_LOCKED s = false ∧ c.on R.NET_TBSTAT_LOCKED b ∧ agree then
      let c := if c.on R.NET_TBSTAT_FREESTART s then c
        else
          let c := c.stepBase s (c.base b).t40
          c.setBase s { c.base s with offsets := [] }
      (c.set R.NET_TBSTAT_LOCKED s 1).set R.NET_TBSTAT_VALID s 1
    else c

/-- R342, R344: an offset estimate o, in ns, reaches servo-corrected base b. -/
def Chip.estimate (c : Chip) (b : Nat) (o : Int) : Chip :=
  if b < 12 ∧ c.on R.NET_TBCFG_EN b then
    let c := if c.on R.NET_TBSTAT_HOLDOVER b then c.leaveHoldover b else c
    let step := c.get R.NET_TBLIM_STEP b
    let lim : Int := (if step = 0 then 10 else step) * 100
    let t := c.base b
    let c := c.set R.NET_TBOFFS b (toField 32 (satI 32 o))
    let c :=
      if lim < |o| then c.stepBase b ((t.t40 : Int) - o * 2 ^ 40).toNat
      else
        let d := tget {} c.tables.tbs b
        let i := clampI (t.integ - d.ki * o) (-rateMax) rateMax
        let r := clampI (i - d.kp * o) (-rateMax) rateMax
        (c.setBase b { c.base b with integ := i }).setRate b r
    let good := if |o| ≤ 1000 then (c.base b).good + 1 else 0
    let c := c.setBase b { c.base b with good := min good 8, recent := (o :: (c.base b).recent).take 4 }
    let c := c.setB R.NET_TBSTAT_LOCKED b (decide (8 ≤ good) || (c.on R.NET_TBSTAT_LOCKED b && decide (|o| ≤ 1000)))
    (c.each [12, 13, 14, 15] (fun c s => if c.tbSource s = some b then c.tryLock s else c)).squelch
  else c

/-- R343: s_tgt of the braking curve in units of 2⁻⁴⁰, for a mean offset of `tot / n` units of 2⁻⁴⁰ ns:
−sign(o) × min(10 ppm, √(2 × 10⁻⁵ × |o| × 10⁻⁹)). -/
def braking (tot : Int) (n : Nat) : Int :=
  let m : Int := min slewMax (Nat.sqrt (2 ^ 41 * tot.natAbs / (n * 10 ^ 14)))
  if 0 < tot then -m else m

/-- R343, R344: STEADY_BASE_TICK. A millisecond of a steady base that has locked or made a free start. -/
def execSteadyBaseTick (b : Fin 16) (s : State) : Host.Outcome State Fault Refusal :=
  onChip (fun c =>
    let b := b.val
    if b < 12 ∨ c.on R.NET_TBCFG_EN b = false then c
    else match c.tbSource b with
      | none => c
      | some src =>
        let c := c.setBase b { c.base b with rates := ((c.base src).rate :: (c.base b).rates).take 1024 }
        if !c.on R.NET_TBSTAT_LOCKED b && !c.on R.NET_TBSTAT_FREESTART b then c
        else
          let hold := c.sourceHolds b
          let c := (if hold then c.enterHoldover b else if c.on R.NET_TBSTAT_HOLDOVER b then c.leaveHoldover b else c).squelch
          let t := c.base b
          let f := if hold then t.freq else roundDiv t.rates.sum (max 1 t.rates.length)
          let o : Int := (t.t40 : Int) - (c.base src).t40
          let offs := (o :: t.offsets).take 16
          let slew := if hold ∨ c.on R.NET_TBSTAT_FREESTART b then 0 else braking offs.sum offs.length
          let c := c.setBase b { t with freq := f, offsets := offs }
          let c := c.set R.NET_TBOFFS b (toField 32 (satI 32 (roundDiv offs.sum (offs.length * 2 ^ 40))))
          c.setRate b (clampI (t.rate + clampI (f + slew - t.rate) (-slewStep) slewStep) (-steadyMax) steadyMax)) s

/-- R344: ESTIMATE_MISSED. The source of a base has missed 3 expected estimates in a row. -/
def execEstimateMissed (b : Fin 16) (s : State) : Host.Outcome State Fault Refusal :=
  onChip (fun c =>
    if c.on R.NET_TBCFG_EN b.val ∧ (c.tbSrcType b.val = 1 ∨ c.tbSrcType b.val = 2) then (c.enterHoldover b.val).squelch else c) s

/-- R344: HOLDS_EXPIRY. The present holdover of a base has lasted HOLDS seconds; a HOLDS of 0 never invalidates. -/
def execHoldsExpiry (b : Fin 16) (s : State) : Host.Outcome State Fault Refusal :=
  onChip (fun c =>
    let h := c.get R.NET_TBLIM_HOLDS b.val
    if c.on R.NET_TBSTAT_HOLDOVER b.val ∧ h ≠ 0 ∧ (c.base b.val).holdFrom + h * 800000000 ≤ c.sched.cyc then
      (c.invalidateBase b.val).squelch
    else c) s

/-- R354: TBHOLDT: whole seconds of the present holdover of every base. -/
def Chip.holdSeconds (c : Chip) : Chip :=
  c.each (List.range 16) (fun c b =>
    if c.on R.NET_TBSTAT_HOLDOVER b then c.set R.NET_TBHOLDT b (min (2 ^ 32 - 1) ((c.sched.cyc - (c.base b).holdFrom) / 800000000))
    else c)

/-- R341, R354: TB_LATCH. A LATCH write captures seconds, nanoseconds and fraction in one cycle. -/
def execTbLatch (b : Fin 16) (v : Word) (s : State) : Host.Outcome State Fault Refusal :=
  onChip (fun c =>
    if bit v.toNat 31 then
      let t := (c.base b.val).t40
      let ns := t / 2 ^ 40
      let sec := ns / 1000000000
      let c := (c.set R.NET_TBSECLO b.val (sec % 2 ^ 32)).set R.NET_TBSECHI b.val (sec / 2 ^ 32)
      (c.set R.NET_TBNS b.val (ns % 1000000000)).set R.NET_TBFRAC b.val (t % 2 ^ 40 / 2 ^ 24)
    else c) s

/-- R82: FREE_START. FREE_MS has passed since reset before steady base b has locked: it is set once to the present time of
its source, 0 if that has not been stepped or set since reset, and runs on at the source's rate. It is no step. -/
def execFreeStart (b : Fin 16) (s : State) : Host.Outcome State Fault Refusal :=
  onChip (fun c =>
    let b := b.val
    if b < 12 ∨ c.on R.NET_TBCFG_EN b = false ∨ c.on R.NET_TBCFG_START b = false ∨ c.on R.NET_TBSTAT_LOCKED b ∨
        c.on R.NET_TBSTAT_FREESTART b ∨ c.sinceReset < min 60000 (max 1000 (c.get R.NET_TBCFG_FREEMS b)) * 1000 then c
    else
      let (t, r) := match c.tbSource b with
        | some q => (if (c.base q).placed then (c.base q).t40 else 0, (c.base q).rate)
        | none => (0, 0)
      let c := (c.setBase b { c.base b with t40 := t, placed := true, freq := r }).setRate b r
      ((c.set R.NET_TBSTAT_FREESTART b 1).set R.NET_TBSTAT_VALID b 1).squelch) s

/-- R342, R343: the bases that a section enables start: a servo-corrected base is valid, with i and r 0. -/
def Chip.basesStart (c : Chip) : Chip :=
  c.each (List.range 16) (fun c b =>
    if c.on R.NET_TBCFG_EN b ∧ b < 12 then
      ((c.setBase b { c.base b with integ := 0, good := 0, recent := [] }).setRate b 0).set R.NET_TBSTAT_VALID b 1
    else c)

/-- R41, R581: at a restart of plane p its steady base is stepped to its source if no other running plane uses it and its
offset from its source exceeds 1 µs. -/
def Chip.restartBase (c : Chip) (p : Nat) : Chip :=
  let b := c.baseOf p
  match c.tbSource b with
  | some q =>
    let o : Int := ((c.base b).t40 : Int) - (c.base q).t40
    let alone := (List.range 4).all (fun k => k == p || !c.running k || c.baseOf k != b)
    if alone ∧ 1000 * 2 ^ 40 < o.natAbs then
      let c := c.stepBase b (c.base q).t40
      c.setBase b { c.base b with offsets := [] }
    else c
  | none => c

end Sys2Proof.Machine
end

