-- ==== Sys2Proof/Machine/Clocks.lean ====
section
/-! DEFINITION. References, the clean-up DPLL, the clock outputs, the switch points and root failure (References, Holdover and
Clock Generation, R360–R396). -/

namespace Sys2Proof.Machine

/-! ### References (R360–R365) -/

/-- Reference k. -/
def Chip.refRun (c : Chip) (k : Nat) : RefRun := tget {} c.clk.refs k

/-- Reference k replaced. -/
def Chip.setRef (c : Chip) (k : Nat) (r : RefRun) : Chip := { c with clk := { c.clk with refs := tset {} c.clk.refs k r } }

/-- R360, R394: reference k is enabled and its TYPE fits its index. -/
def Chip.refOn (c : Chip) (k : Nat) : Bool :=
  let t := c.get R.CLK_REFCFG_TYPE k
  c.on R.CLK_REFCFG_EN k &&
    (if k < 8 then decide (t < 4)
     else if k < 24 then t == 4 && (!c.on R.NET_QUADCFG_MODE ((k - 8) / 4) || (k - 8) % 4 == 0)
     else t == 5)

/-- R360: the pulse types. -/
def Chip.refPulse (c : Chip) (k : Nat) : Bool := let t := c.get R.CLK_REFCFG_TYPE k; t == 0 || t == 5

/-- R360: the lowest-numbered base whose TBCFG names a PTP instance. -/
def Chip.ptpBase (c : Chip) (pi : Nat) : Option Nat :=
  (List.range 12).find? (fun b => c.on R.NET_TBCFG_EN b && c.tbSrcType b == 1 && c.get R.NET_TBCFG_SRC b == pi)

/-- R360: whether what a reference comes from offers it: a port that is up; a LOCKED base and a leader. -/
def Chip.refOffered (c : Chip) (k : Nat) : Bool :=
  if k < 8 then true
  else if k < 24 then c.on R.NET_LANESTAT_UP (k - 8)
  else match c.ptpBase (k - 24) with
    | some b => c.on R.NET_TBSTAT_LOCKED b && (tget {} c.net.ptp (k - 24)).leader.isSome
    | none => false

/-- R360: nominal frequency of a frequency type, mHz over 1,000 kept exact as a fraction of Hz: numerator, denominator. -/
def Chip.refNominal (c : Chip) (k : Nat) : Nat × Nat :=
  match c.get R.CLK_REFCFG_TYPE k with
  | 1 => (10000000, 1)
  | 4 => (1611328125, 10)
  | 0 | 5 => (1, 1)
  | _ => (c.get R.CLK_REFNOM k, 1)

/-- R363: offset from nominal against the crystal, in 0.01 ppm, of `n` periods in `span` × 1.25 ns: the frequency is
n × 800,000,000 / span. Rounded to the nearest unit, ties upward. -/
def refOffset (nominal : Nat × Nat) (n span : Nat) : Int :=
  if span = 0 ∨ nominal.1 = 0 then 0
  else
    let f : Nat := n * 800000000 * nominal.2
    let g : Nat := span * nominal.1
    roundDiv (((f : Int) - g) * 100000000) g

/-- R364: ACC in 0.01 ppm; above 100 ppm it acts as 100 ppm. -/
def Chip.refAcc (c : Chip) (k : Nat) : Nat := min (c.get R.CLK_REFLIM_ACC k) 10000
/-- R364: REJ in 0.01 ppm; below ACC + 1 ppm it acts as ACC + 1 ppm. -/
def Chip.refRej (c : Chip) (k : Nat) : Nat := max (c.get R.CLK_REFLIM_REJ k) (c.refAcc k + 100)

/-- R365: good windows that qualify reference k: QUALT seconds, at least 1 s of 100 ms windows or 5 pulse intervals. -/
def Chip.refNeed (c : Chip) (k : Nat) : Nat :=
  let q := c.get R.CLK_REFTIME_QUALT k
  if c.refPulse k then max q 5 else 10 * max q 1

/-! ### The DPLL (R366–R376) -/

/-- DPLLSTAT.STATE codes of R391. -/
def dpllFreerun : Nat := 0
def dpllAcquire : Nat := 1
def dpllLocked : Nat := 2
def dpllSwitch : Nat := 3
def dpllHoldover : Nat := 4

/-- The state of the DPLL. -/
def Chip.dpll (c : Chip) : Nat := c.get R.CLK_DPLLSTAT_STATE
/-- The selected reference; 31 for none. -/
def Chip.sel (c : Chip) : Nat := c.get R.CLK_DPLLSTAT_SEL
/-- The target of ACQUIRE or SWITCH; 31 for none. -/
def Chip.dpllTarget (c : Chip) : Nat := c.get R.CLK_DPLLSTAT_TARGET
/-- REFFREQ of a reference, 0.01 ppm. -/
def Chip.refFreq (c : Chip) (k : Nat) : Int := ofField 32 (c.get R.CLK_REFFREQ k)

/-- R366: a reference is eligible when it is qualified and its PRIO is not 0. -/
def Chip.eligible (c : Chip) (k : Nat) : Bool :=
  decide (k < 28) && c.on R.CLK_REFSTAT_QUAL k && decide (c.get R.CLK_REFCFG_PRIO k ≠ 0)

/-- R373: the holdover estimate, 0.01 ppm; 0 while none exists, as holdover then runs at the crystal. -/
def Chip.holdEst (c : Chip) : Int := if c.on R.CLK_DPLLSTAT_HOFREE then 0 else ofField 32 (c.get R.CLK_HOLDEST)

/-- A frequency of 0.01 ppm units in units of 2⁻⁴⁰. -/
def unitsOf40 (f : Int) : Int := roundDiv (f * 2 ^ 40) 100000000

/-- R366: the reference that a new selection chooses: the highest rank, the present selection or target among them kept, else
the closest to HOLDEST, ties to the lower index. -/
def Chip.bestRef (c : Chip) : Option Nat :=
  let e := (List.range 28).filter c.eligible
  let top := (e.map (fun k => c.get R.CLK_REFCFG_PRIO k)).foldl min 16
  let e := e.filter (fun k => c.get R.CLK_REFCFG_PRIO k == top)
  match e.find? (fun k => k == c.sel || k == c.dpllTarget) with
  | some k => some k
  | none => e.foldl (fun b k => match b with
      | none => some k
      | some j => if (c.refFreq k - c.holdEst).natAbs < (c.refFreq j - c.holdEst).natAbs then some k else some j) none

/-- R367: the wait-to-restore timer of reference k stops and is set to 0. -/
def Chip.stopWtr (c : Chip) (k : Nat) : Chip :=
  if (c.refRun k).wtrFrom.isSome then
    ((c.setRef k { c.refRun k with wtrFrom := none }).set R.CLK_REFSTAT_WTRRUN k 0).set R.CLK_REFSTAT_TIMER k 0
  else c

/-- R367: in revertive mode the eligible references ranked strictly higher than the selection wait to restore, from now if
they do not already; the others do not. -/
def Chip.watchRank (c : Chip) : Chip :=
  c.each (List.range 28) (fun c k =>
    if c.dpll = dpllLocked ∧ c.on R.CLK_DPLLCFG_REVERT ∧ c.eligible k ∧
        c.get R.CLK_REFCFG_PRIO k < c.get R.CLK_REFCFG_PRIO c.sel then
      if (c.refRun k).wtrFrom.isSome then c
      else ((c.setRef k { c.refRun k with wtrFrom := some c.sched.cyc }).set R.CLK_REFSTAT_WTRRUN k 1).set
        R.CLK_REFSTAT_TIMER k 0
    else c.stopWtr k)

/-- The DPLL's output frequency against the crystal, which DPLLFREQ shows (R392). -/
def Chip.setDpllFreq (c : Chip) (f : Int) : Chip := c.set R.CLK_DPLLFREQ 0 (toField 32 (satI 32 f))
/-- The DPLL's output frequency, units of 2⁻⁴⁰. -/
def Chip.dpllFreq (c : Chip) : Int := ofField 32 (c.get R.CLK_DPLLFREQ)

/-- R370, R371: SWITCH to reference b begins; the DPLL runs at the holdover estimate. -/
def Chip.startSwitch (c : Chip) (b : Nat) : Chip :=
  let c := (c.set R.CLK_DPLLSTAT_STATE 0 dpllSwitch).set R.CLK_DPLLSTAT_TARGET 0 b
  let c := { c with clk := { c.clk with swFrom := c.sched.cyc, swRun := 0 } }
  (c.setDpllFreq (unitsOf40 c.holdEst)).each (List.range 28) Chip.stopWtr

/-- R370, R373, R374: HOLDOVER is entered. -/
def Chip.dpllHold (c : Chip) : Chip :=
  let c := (c.set R.CLK_DPLLSTAT_STATE 0 dpllHoldover).set R.CLK_DPLLSTAT_HOEV 0 1
  let c := (c.set R.CLK_DPLLSTAT_SEL 0 31).set R.CLK_DPLLSTAT_TARGET 0 31
  let c := { c with clk := { c.clk with holdFrom := some (c.clk.holdFrom.getD c.sched.cyc) } }
  (c.setDpllFreq (unitsOf40 c.holdEst)).each (List.range 28) Chip.stopWtr

/-- R370, R374, R376: LOCKED is entered on reference k. -/
def Chip.dpllLock (c : Chip) (k : Nat) : Chip :=
  let c := (c.set R.CLK_DPLLSTAT_STATE 0 dpllLocked).set R.CLK_DPLLSTAT_SEL 0 k
  let c := (c.set R.CLK_DPLLSTAT_TARGET 0 31).set R.CLK_DPLLSTAT_SWEV 0 1
  let c := (c.set R.CLK_HOLDT 0 0).set R.CLK_DPLLSTAT_HOOSPEC 0 0
  let times := if c.clk.timed then c.clk.times
    else (List.range 12).foldl (fun t b => if c.tbSrcType b = 2 then tset 0 t b (c.base b).t40 else t) c.clk.times
  let at0 := if c.clk.timed then c.clk.timeAt else c.sched.cyc
  { c with clk := { c.clk with lockedAt := c.sched.cyc, holdFrom := none, lockRun := 0, timed := true, times := times,
                               timeAt := at0 } }

/-- R366, R368, R370: selection, wherever the eligible references have changed. -/
def Chip.select (c : Chip) : Chip :=
  if c.on R.CLK_DPLLCFG_EN = false then c
  else
    let c :=
      if c.dpll = dpllAcquire ∧ c.eligible c.dpllTarget = false then
        (c.set R.CLK_DPLLSTAT_STATE 0 dpllFreerun).set R.CLK_DPLLSTAT_TARGET 0 31
      else if c.dpll = dpllSwitch ∧ c.eligible c.dpllTarget = false then c.dpllHold
      else if c.dpll = dpllLocked ∧ c.eligible c.sel = false then
        match c.bestRef with
        | some b => c.startSwitch b
        | none => c.dpllHold
      else c
    let c := match c.bestRef with
      | some b =>
        if c.dpll = dpllFreerun then
          let c := (c.set R.CLK_DPLLSTAT_STATE 0 dpllAcquire).set R.CLK_DPLLSTAT_TARGET 0 b
          { c with clk := { c.clk with lockRun := 0 } }
        else if c.dpll = dpllHoldover then c.startSwitch b else c
      | none => c
    c.watchRank.squelch

/-- R364: a reference is disqualified, or its count toward qualification starts again. -/
def Chip.disqualify (c : Chip) (k : Nat) : Chip :=
  let c := c.when (c.on R.CLK_REFSTAT_QUAL k) (fun c => (c.set R.CLK_REFSTAT_QUAL k 0).bump R.CLK_REFCNT_DISQ k)
  let c := (c.stopWtr k).set R.CLK_REFSTAT_TIMER k 0
  (c.setRef k { c.refRun k with good := 0, ready := false }).select

/-- R364: a reference qualifies. -/
def Chip.qualify (c : Chip) (k : Nat) : Chip :=
  let c := (c.set R.CLK_REFSTAT_QUAL k 1).set R.CLK_REFSTAT_QUALEV k 1
  (c.set R.CLK_REFSTAT_TIMER k 0).setRef k { c.refRun k with good := 0, ready := false }

/-- R361: a loss is declared on reference k. -/
def Chip.refLoss (c : Chip) (k : Nat) : Chip :=
  let c := (c.set R.CLK_REFSTAT_ACTIVE k 0).set R.CLK_REFSTAT_LOSSEV k 1
  (c.setRef k { c.refRun k with bad := true }).disqualify k

/-- R376: DPLL time of every base moves on to the present Twist at the DPLL's frequency. -/
def Chip.advanceDpllTime (c : Chip) : Chip :=
  if c.clk.timed then
    let d := c.sched.cyc - c.clk.timeAt
    let step : Int := 5 * d * ((2 ^ 40 : Int) + c.dpllFreq) / 4
    let times := (List.range 12).foldl (fun t b =>
      if c.tbSrcType b = 2 then tset 0 t b (((tget 0 t b : Nat) : Int) + step).toNat else t) c.clk.times
    { c with clk := { c.clk with times := times, timeAt := c.sched.cyc } }
  else c

/-- A time in units of 2⁻⁴⁰ ns rounded to the nearest whole second, in seconds. -/
def nearestSecond (t40 : Nat) : Nat := (roundDiv t40 (10 ^ 9 * 2 ^ 40)).toNat

/-- R376: the reading of a base at fabric cycle t of the present Twist, units of 2⁻⁴⁰ ns. -/
def Chip.timeAtCycle (c : Chip) (b t : Nat) : Nat :=
  ((c.base b).t40 + 5 * ((t : Int) - c.sched.cyc) * ((2 ^ 40 : Int) + (c.base b).rate) / 4).toNat

/-- R376: a pulse of the selected reference marks a whole second: the seconds of the base of instance TODPI while that base is
LOCKED, else each base's own time at the pulse, rounded. -/
def Chip.pulseSeconds (c : Chip) (t : Nat) : Chip :=
  let pi := c.get R.CLK_DPLLCFG_TODPI
  let named := match (if pi < 4 then c.ptpBase pi else none) with
    | some b => if c.on R.NET_TBSTAT_LOCKED b then some (nearestSecond (c.timeAtCycle b t)) else none
    | none => none
  let times := (List.range 12).foldl (fun l b =>
    if c.tbSrcType b = 2 then
      let sec := named.getD (nearestSecond (c.timeAtCycle b t))
      -- the pulse came (t - cyc) cycles after the instant `timeAt` names
      let back : Int := 5 * ((t : Int) - c.sched.cyc) * ((2 ^ 40 : Int) + c.dpllFreq) / 4
      tset 0 l b (((sec * 10 ^ 9 * 2 ^ 40 : Nat) : Int) - back).toNat
    else l) c.clk.times
  { c with clk := { c.clk with times := times, timeAt := c.sched.cyc } }

/-- R376: in LOCKED and in SWITCH the DPLL sends an offset estimate to every base whose source it is. -/
def Chip.dpllEstimates (c : Chip) : Chip :=
  if c.dpll = dpllLocked ∨ c.dpll = dpllSwitch then
    c.each (List.range 12) (fun c b =>
      if c.on R.NET_TBCFG_EN b ∧ c.tbSrcType b = 2 then
        c.estimate b (roundDiv (((c.base b).t40 : Int) - tget 0 c.clk.times b) (2 ^ 40))
      else c)
  else c

/-- R373: HOLDEST: the average of the windows of the last HOLDAVG seconds that end at least 1 s ago, once they make up 1 s. -/
def Chip.average (c : Chip) : Chip :=
  let avg := max 1 (c.get R.CLK_DPLLCFG_HOLDAVG)
  let hi := c.sched.cyc - 800000000
  let lo := hi - avg * 800000000
  let keep := c.clk.hist.filter (fun h => decide (lo < h.1))
  let use := keep.filter (fun h => decide (h.1 ≤ hi))
  let len := (use.map (fun h => h.2.1)).sum
  let c := { c with clk := { c.clk with hist := keep } }
  if len < 800000000 then c
  else
    let sum : Int := (use.map (fun h => (h.2.1 : Int) * h.2.2)).sum
    let est := roundDiv (sum * 100000000) (len * 2 ^ 40)
    (c.set R.CLK_HOLDEST 0 (toField 32 (satI 32 est))).set R.CLK_DPLLSTAT_HOFREE 0 0

/-- R369: two eligible references of equal PRIO, both measured in the window that ends now, differ by more than DISLIM. -/
def Chip.disagree (c : Chip) (k : Nat) : Chip :=
  let lim := c.get R.CLK_DPLLCFG_DISLIM
  let far := (List.range 28).any (fun j =>
    j != k && c.eligible j && c.get R.CLK_REFCFG_PRIO j == c.get R.CLK_REFCFG_PRIO k &&
    (c.refRun j).measured == (c.refRun k).measured && (c.refRun k).measured.isSome &&
    decide (lim < (c.refFreq j - c.refFreq k).natAbs))
  c.when (decide (lim ≠ 0) && c.on R.CLK_DPLLCFG_EN && c.eligible k && far) (·.set R.CLK_DPLLSTAT_DISAGREE 0 1)

/-- R370–R376: what the end of a window of reference k, which began at cycle `from0`, does to the DPLL. -/
def Chip.dpllWindow (c : Chip) (k from0 : Nat) (ok : Bool) (freq phase : Int) (pulse : Option Nat) : Chip :=
  if c.on R.CLK_DPLLCFG_EN = false then c
  else if c.dpll = dpllAcquire ∧ c.dpllTarget = k then
    let c := c.setDpllFreq freq
    let e : Int := freq * 100000000 - c.refFreq k * 2 ^ 40
    let n := if ok ∧ e.natAbs ≤ 10 * 2 ^ 40 ∧ phase.natAbs ≤ 100 then c.clk.lockRun + 1 else 0
    let c := { c with clk := { c.clk with lockRun := n } }
    if 4 ≤ n then (c.dpllLock k).watchRank.squelch else c
  else if c.dpll = dpllLocked ∧ c.sel = k then
    let c := c.advanceDpllTime.setDpllFreq freq
    let c := { c with clk := { c.clk with hist := (c.sched.cyc, c.sched.cyc - from0, freq) :: c.clk.hist } }
    let c := c.average
    let c := match pulse with
      | some t => c.pulseSeconds t
      | none => c
    c.dpllEstimates
  else if c.dpll = dpllSwitch ∧ c.dpllTarget = k then
    let n := if ok then (if c.clk.swFrom ≤ from0 then c.clk.swRun + 1 else c.clk.swRun) else 0
    let c := { c with clk := { c.clk with swRun := n } }
    c.advanceDpllTime.dpllEstimates
  else c

/-- R363–R365, R369: a window of reference k ends, with its offset if it was measured. -/
def Chip.refWindow (c : Chip) (k from0 : Nat) (f : Option Int) (freq phase : Int) (pulse : Option Nat) : Chip :=
  let c := match f with
    | some x =>
      (c.set R.CLK_REFFREQ k (toField 32 (satI 32 x))).setRef k { c.refRun k with measured := some c.sched.cyc }
    | none => c
  let acc : Bool := match f with
    | some x => decide (x.natAbs ≤ c.refAcc k)
    | none => false
  let rej : Bool := match f with
    | some x => decide (c.refRej k < x.natAbs)
    | none => false
  let c := (c.setB R.CLK_REFSTAT_INACC k acc).when rej (·.set R.CLK_REFSTAT_FREQEV k 1)
  let c :=
    if rej then c.disqualify k
    else if c.on R.CLK_REFSTAT_QUAL k then
      match (c.refRun k).wtrFrom with
      | some w => c.set R.CLK_REFSTAT_TIMER k (min 4095 ((c.sched.cyc - w) / 800000000))
      | none => c
    else if acc then
      let n := (c.refRun k).good + 1
      let c := c.setRef k { c.refRun k with good := n }
      if n < c.refNeed k then c.set R.CLK_REFSTAT_TIMER k (if c.refPulse k then n else n / 10)
      else if c.dpll = dpllSwitch then c.setRef k { c.refRun k with ready := true }
      else (c.qualify k).select
    else (c.setRef k { c.refRun k with good := 0, ready := false }).set R.CLK_REFSTAT_TIMER k 0
  (c.disagree k).dpllWindow k from0 f.isSome freq phase pulse

/-- R361, R364, R368, R370: REF_ACTIVITY_LOSS. -/
def execRefActivityLoss (k : Fin 28) (s : State) : Host.Outcome State Fault Refusal :=
  onChip (fun c => if c.refOn k.val then c.refLoss k.val else c) s

/-- R362, R364: REF_GLITCH. Only a REFIN has a glitch detector. -/
def execRefGlitch (k : Fin 28) (s : State) : Host.Outcome State Fault Refusal :=
  onChip (fun c =>
    if c.refOn k.val ∧ k.val < 8 then
      let c := (c.set R.CLK_REFSTAT_GLITCHEV k.val 1).bump R.CLK_REFCNT_GLITCH k.val
      (c.setRef k.val { c.refRun k.val with bad := true }).disqualify k.val
    else c) s

/-- R361, R363: REF_PULSE: a rising edge of a pulse type at fabric cycle t. It is valid 1 s ± 100 µs after the previous valid
pulse; an early one is a loss; one after a missing pulse starts again. -/
def execRefPulse (k : Fin 28) (t : Nat) (freq phase : Int) (s : State) : Host.Outcome State Fault Refusal :=
  onChip (fun c =>
    let k := k.val
    if c.refOn k = false ∨ c.refPulse k = false ∨ c.refOffered k = false then c
    else match (c.refRun k).lastPulse with
      | none => c.setRef k { c.refRun k with lastPulse := some t, bad := false }
      | some u =>
        if t < u + 800000000 - 80000 then c.refLoss k
        else if u + 800000000 + 80000 < t then
          let c := c.refLoss k
          c.setRef k { c.refRun k with lastPulse := some t, bad := false }
        else
          let f := if (c.refRun k).bad then none else some (refOffset (1, 1) 1 (t - u))
          let c := c.setRef k { c.refRun k with lastPulse := some t, bad := false }
          (c.set R.CLK_REFSTAT_ACTIVE k 1).refWindow k u f freq phase (some t)) s

/-- R363: REF_WINDOW_END: a 100 ms window of a frequency type ends. A window that holds a loss or a glitch, or in which the
input is not active, gives no measurement. -/
def execRefWindowEnd (k : Fin 28) (w : RefWindow) (s : State) : Host.Outcome State Fault Refusal :=
  onChip (fun c =>
    let k := k.val
    if c.refOn k = false ∨ c.refPulse k then c
    else
      let alive := w.alive && c.refOffered k
      let bad := (c.refRun k).bad || !alive
      let f := if bad then none else some (refOffset (c.refNominal k) w.periods w.span)
      let c := (c.setRef k { c.refRun k with bad := !alive }).setB R.CLK_REFSTAT_ACTIVE k alive
      c.refWindow k (c.sched.cyc - 80000000) f w.freq w.phase none) s

/-- R367, R370: WTR_EXPIRY. -/
def execWtrExpiry (k : Fin 28) (s : State) : Host.Outcome State Fault Refusal :=
  onChip (fun c =>
    match (c.refRun k.val).wtrFrom with
    | some w =>
      if c.dpll = dpllLocked ∧ w + c.get R.CLK_REFTIME_WTR k.val * 800000000 ≤ c.sched.cyc then
        (c.startSwitch k.val).squelch
      else c
    | none => c) s

/-- R371, R365, R367: DPLL_SWITCH_COMPLETE, after two full windows of the target. The DPLL takes the target's frequency; the
references whose count was reached during the switch qualify; wait-to-restore starts. -/
def execDpllSwitchComplete (s : State) : Host.Outcome State Fault Refusal :=
  onChip (fun c =>
    if c.dpll = dpllSwitch ∧ 2 ≤ c.clk.swRun then
      let k := c.dpllTarget
      let c := (c.dpllLock k).setDpllFreq (unitsOf40 (c.refFreq k))
      let c := c.each (List.range 28) (fun c j => c.when (c.refRun j).ready (·.qualify j))
      c.select
    else c) s

/-- R374: HOLDOVER_SECOND. -/
def execHoldoverSecond (s : State) : Host.Outcome State Fault Refusal :=
  onChip (fun c =>
    match c.clk.holdFrom with
    | some h =>
      let n := c.get R.CLK_HOLDT + 1
      if h + n * 800000000 ≤ c.sched.cyc then
        let c := c.bump R.CLK_HOLDT 0
        let spec := c.get R.CLK_HOSPEC
        if spec ≠ 0 ∧ n = spec then
          ((c.set R.CLK_DPLLSTAT_HOOSPEC 0 1).set R.CLK_DPLLSTAT_OOSEV 0 1).squelch
        else c
      else c
    | none => c) s

/-- R375: XTALSPEC_CHECK, once the DPLL has been LOCKED for 10 s: 60 ppm in units of 2⁻⁴⁰ is 65,970,697.67. -/
def execXtalspecCheck (s : State) : Host.Outcome State Fault Refusal :=
  onChip (fun c =>
    if c.dpll = dpllLocked ∧ c.clk.lockedAt + 8000000000 ≤ c.sched.cyc ∧ 65970697 < c.dpllFreq.natAbs then
      c.set R.CLK_DPLLSTAT_XTALSPEC 0 1
    else c) s

/-- R389: CLK_CNTCLR. -/
def execClkCntclr (v : Word) (s : State) : Host.Outcome State Fault Refusal :=
  onChip (fun c =>
    let n := v.toNat
    if bit n 31 then
      c.each (if bit n 30 then List.range 28 else [bits n 4 0]) (fun c k =>
        if k < 28 then (c.set R.CLK_REFCNT_DISQ k 0).set R.CLK_REFCNT_GLITCH k 0 else c)
    else c) s

/-- R372: bandwidth of the loop, mHz: 10 Hz or 0.1 Hz in ACQUIRE, else the value of BW, a pulse type at most 100 mHz. -/
def Chip.bandwidth (c : Chip) : Nat :=
  if c.dpll = dpllAcquire then (if c.refPulse c.dpllTarget then 100 else 10000)
  else
    let b := match c.get R.CLK_DPLLCFG_BW with
      | 0 => 1 | 1 => 10 | 2 => 100 | 3 => 1000 | _ => 10000
    if c.refPulse c.sel then min b 100 else b

/-! ### Clock outputs (R377–R380) -/

/-- R377, R379: what output k drives: nominal Hz and the offset of its clock against the crystal in units of 2⁻⁴⁰; none while
it is off, squelched or held low. -/
def Chip.clockOut (c : Chip) (k : Nat) : Option (Nat × Int) :=
  if c.on R.CLK_OUTCFG_EN k = false ∨ c.on R.CLK_PHSTAT_SQUELCHED k ∨ c.clk.dead then none
  else
    let am (hz : Nat) :=
      let b := c.baseOf (c.get R.CLK_OUTCFG_PLANE k)
      some (hz, if c.on R.NET_TBSTAT_VALID b then (c.base b).rate else 0)
    let b := c.get R.CLK_OUTCFG_TB k
    match tget (c.get R.CLK_OUTCFG_SRC k) c.clk.src (k + 2) with
    | 1 => some (max 1000 (min 200000000 (c.get R.CLK_OUTFREQ k)), if c.dpll = dpllFreerun then 0 else c.dpllFreq)
    | 2 => am 24576000
    | 3 => am 22579200
    | 4 => some (10000000, (c.base b).rate)
    | 5 => some (1, (c.base b).rate)
    | _ => none

/-- R396: OUTOFS of output k, ps, held to ±1,000,000. -/
def Chip.outOffset (c : Chip) (k : Nat) : Int := clampI (ofField 32 (c.get R.CLK_OUTOFS k)) (-1000000) 1000000

/-- R380: PHASE_STEP. -/
def execPhaseStep (k : Fin 8) (v : Word) (s : State) : Host.Outcome State Fault Refusal :=
  onChip (fun c =>
    let x := ofField 32 v.toNat
    let p := ofField 32 (c.get R.CLK_PHPEND k.val) + x
    if 500000 < x.natAbs ∨ 1000000 < p.natAbs then c.set R.CLK_PHSTAT_PHREJ k.val 1
    else
      let c := (c.set R.CLK_PHPEND k.val (toField 32 p)).setB R.CLK_PHSTAT_PHBUSY k.val (decide (p ≠ 0))
      { c with clk := { c.clk with stepped := tset (0, 0) c.clk.stepped k.val (c.sched.cyc, p) } }) s

/-- R380: PHASE_STEP_APPLIED: the pending phase has been applied in steps of 1 ps until exactly 0. Under a SLEW it has, at the earliest,
once SLEW × 0.1 ppm brings it there. -/
def execPhaseStepApplied (k : Fin 8) (s : State) : Host.Outcome State Fault Refusal :=
  onChip (fun c => if c.get R.CLK_OUTCFG_SLEW k.val = 0 then c.phaseTo k.val 0 else c.slewPhase k.val) s

/-! ### Switch points (R385, R386) -/

/-- R386: whether point pt is switching. -/
def Chip.switching (c : Chip) (pt : Nat) : Bool := bit (c.get R.CLK_SWSTAT_BUSY) pt

/-- SWSTAT[pt] of the switching bits written. -/
def Chip.setSwitching (c : Chip) (pt : Nat) (b : Bool) : Chip := c.setB ⟨R.CLK_SWSTAT_BUSY.addr, 0, pt, pt⟩ 0 b

/-- R386: the source of point pt has changed. ONRC shows point 0 (R393); on RC the NAND channels leave NV-DDR3, on FAB they return
to it once up. -/
def Chip.switched (c : Chip) (pt src : Nat) : Chip :=
  let c := (c.setSwitching pt false)
  let c := { c with clk := { c.clk with src := tset 0 c.clk.src pt src, goal := tset none c.clk.goal pt none } }
  if pt = 0 then
    (c.set R.CLK_ROOTSTAT_ONRC 0 src).each [0, 1] (fun c ch =>
      c.setB R.NAND_CHSTAT_DDR3 ch (c.on R.NAND_CHSTAT_UP ch && src == 0))
  else c

/-- R385, R386: a change of source at point pt. Stop, switch and restart is complete within the command; a glitch-free change
ends with CLOCK_SWITCH_COMPLETE or CLOCK_SWITCH_WATCHDOG, and a second request replaces one that has not reached the
multiplexer. -/
def Chip.requestSwitch (c : Chip) (pt src : Nat) (glitchFree : Bool) : Chip :=
  if glitchFree then
    let c := c.setSwitching pt true
    { c with clk := { c.clk with goal := tset none c.clk.goal pt (some src) } }
  else c.switched pt src

/-- R392: SWCFG bit pt: 0 is the glitch-free method; point 1 always stops. -/
def Chip.glitchFree (c : Chip) (pt : Nat) : Bool := pt != 1 && !bit (c.get R.CLK_SWCFG) pt

/-- R386: CLOCK_SWITCH_COMPLETE. -/
def execClockSwitchComplete (pt : Fin 10) (s : State) : Host.Outcome State Fault Refusal :=
  onChip (fun c =>
    match tget none c.clk.goal pt.val with
    | some src => if c.switching pt.val then c.switched pt.val src else c
    | none => c) s

/-- R386: CLOCK_SWITCH_WATCHDOG: the glitch-free switch is abandoned, SWWD is set, and stop, switch and restart is done. -/
def execClockSwitchWatchdog (pt : Fin 10) (s : State) : Host.Outcome State Fault Refusal :=
  onChip (fun c =>
    match tget none c.clk.goal pt.val with
    | some src =>
      if c.switching pt.val then
        (c.switched pt.val src).set ⟨R.CLK_SWSTAT_SWWD.addr, 0, 16 + pt.val, 16 + pt.val⟩ 0 1
      else c
    | none => c) s

/-! ### Root failure (R388) -/

/-- R388 step 2: the pins and transmitters that the always-on domain drives. -/
def Chip.rootPins (c : Chip) : Chip :=
  let c := (c.set R.SAF_PINSTAT_FAULT_N 0 0).set R.SAF_PINSTAT_SAFE_STATE 0 1
  let c := (c.set R.PLY_PLYSTAT_LEASE 0 0)
  let c := { c with ply := { c.ply with active := false }, clk := { c.clk with dead := true } }
  c.each ((List.range 48).filter (fun n => c.on R.AUD_PORTCFG_MASTER n)) (fun c n =>
    let x : AudPort := tget {} c.aud.ports n
    { c with aud := { c.aud with ports := tset {} c.aud.ports n { x with sdOut := [], fsOut := [] } } })

/-- R388: a root failure with its CAUSE. One that is met while another is running only leaves its ROOTSTAT bit. Point 0 moves
to RC, the fault is recorded, and the Reel is flushed before a warm reset with RSTCAUSE 0x3. -/
def Chip.rootFailure (c : Chip) (cause : Nat) : Chip :=
  if c.clk.dead then c
  else
    let c := c.rootPins.requestSwitch 0 1 (c.glitchFree 0)
    let c := c.fault 4 9 25 blkClk cause 0 none
    { c with boot := { c.boot with warmAfterFlush := some 3 } }

/-- R382: CRYSTAL_MONITOR_WINDOW. Two failing windows in a row are a crystal failure. -/
def execCrystalMonitorWindow (edges : Nat) (s : State) : Host.Outcome State Fault Refusal :=
  onChip (fun c =>
    if c.on R.CLK_ROOTSTAT_XTALOK = false ∧ c.clk.xtalFails = 0 then c
    else if 4850 ≤ edges ∧ edges ≤ 5150 then
      ({ c with clk := { c.clk with xtalFails := 0 } }).set R.CLK_ROOTSTAT_XTALOK 0 1
    else
      let n := c.clk.xtalFails + 1
      let c := ({ c with clk := { c.clk with xtalFails := n } }).set R.CLK_ROOTSTAT_XTALOK 0 0
      if n = 2 then (c.set R.CLK_ROOTSTAT_XTALFAIL 0 1).rootFailure 0x09 else c) s

/-- R383, R388: ROOT_PLL_LOSS. -/
def execRootPllLoss (s : State) : Host.Outcome State Fault Refusal :=
  onChip (fun c =>
    if c.on R.CLK_ROOTSTAT_PLLLOCK then
      ((c.set R.CLK_ROOTSTAT_PLLLOCK 0 0).set R.CLK_ROOTSTAT_PLLFAIL 0 1).rootFailure 0x0A
    else c) s

/-- R383, R388: DOMAIN_MISALIGN. The monitor runs once the dividers have been released. -/
def execDomainMisalign (s : State) : Host.Outcome State Fault Refusal :=
  onChip (fun c =>
    if c.on R.CLK_ROOTSTAT_PLLLOCK then (c.set R.CLK_ROOTSTAT_ALIGNFAIL 0 1).rootFailure 0x0B else c) s

end Sys2Proof.Machine
end

