-- ==== Sys2Proof/Machine/Coding.lean ====
section
/-! DEFINITION. What the encode lanes code, as functions of their inputs: tools and partition limits, motion limits, bins and the
arithmetic coder, NAL units, SEI payloads, chroma conversion and the coarse search (Encode Lanes, R125–R155). -/

namespace Sys2Proof

/-- R139: whether a picture of the slot is coded with intra slices only. -/
def PicType.intra : PicType → Bool
  | .idr => true
  | .cra => true
  | .gdr => false
  | .trail => false

/-- R144: the bins of a coding: context-coded, bypass and terminating, the SAO and ALF syntax included. -/
def CtuCode.bins (k : CtuCode) : List Bin := k.filterBins ++ k.treeBins

end Sys2Proof

namespace Sys2Proof.Machine

/-! ### Tools and partitions (R133–R136) -/

/-- R133: the VVC tools that the device uses; every other tool is off in the SPS and PPS, or never chosen. -/
def toolsVvc : List Tool :=
  [.quadtree, .binaryTernary, .singleTree, .intra67, .mrl, .cclm, .lfnst, .merge6, .mmvd, .amvp, .amvr, .tmvp, .biPrediction, .dct64,
   .implicitMts, .jccr, .dependentQuant, .deblocking, .sao, .lumaAlfFixed, .subpictures, .tiles, .rectSlices, .gdr,
   .virtualBoundaries]

/-- R134: the HEVC tools that the device uses. -/
def toolsHevc : List Tool :=
  [.quadtree, .intra35, .strongSmoothing, .merge5, .amvp, .tmvp, .biPrediction, .dct32, .dst4, .signHiding, .deblocking, .sao,
   .slices, .independentSegments]

/-- R133, R134: the tools of a codec. -/
def toolsOf (vvc : Bool) : List Tool := if vvc then toolsVvc else toolsHevc

/-- R133–R135: a coding unit of w × h luma samples is one that the lane codes: its tools, intra mode and reference line, merge index,
parts and transform tree. HEVC inter units are never parted into 8 × 4 or 4 × 8. -/
def unitShape (vvc : Bool) (u : CodeUnit) (w h : Nat) : Bool :=
  u.tools.all (toolsOf vvc).contains &&
  (if vvc then u.parts == 0 && u.tuDepth == 0 && decide (u.refLine ≤ 1) && decide (u.mode ≤ 66)
   else u.refLine == 0 && decide (u.mode ≤ 34) && decide (u.tuDepth ≤ 2) && decide (4 * 2 ^ u.tuDepth ≤ min w 32) && w == h &&
     (if u.intra then u.parts == 0 || (u.parts == 3 && w == 8) else decide (u.parts ≤ 2) && (u.parts == 0 || decide (8 < w)))) &&
  (match u.merge with
   | some m => decide (m < if vvc then 6 else 5)
   | none => !u.skip) &&
  decide (u.motion.length ≤ 2) && (u.intra || !u.motion.isEmpty)

/-- R135: a coding tree of a w × h block at (x, y) keeps the partition limits, and each coding unit satisfies `q`. `mtt` counts the
binary and ternary splits above it. A block that crosses the edge of the coded area (W × H) is split until no unit does, and one
outside it codes nothing. -/
def treeOk (vvc intra : Bool) (W H : Nat) (q : CodeUnit → Nat → Nat → Nat → Nat → Bool) : CodeTree → Nat → Nat → Nat → Nat → Nat → Bool
  | .unit u, x, y, w, h, _ =>
    decide (W ≤ x) || decide (H ≤ y) ||
      (decide (8 ≤ w) && decide (8 ≤ h) && decide (x + w ≤ W) && decide (y + h ≤ H) && q u x y w h)
  | .quad a b c d, x, y, w, h, mtt =>
    w == h && mtt == 0 && decide ((if vvc then 32 else 16) ≤ w) &&
      treeOk vvc intra W H q a x y (w / 2) (h / 2) 0 && treeOk vvc intra W H q b (x + w / 2) y (w / 2) (h / 2) 0 &&
      treeOk vvc intra W H q c x (y + h / 2) (w / 2) (h / 2) 0 &&
      treeOk vvc intra W H q d (x + w / 2) (y + h / 2) (w / 2) (h / 2) 0
  | .binary v a b, x, y, w, h, mtt =>
    vvc && (decide (W < x + w) || decide (H < y + h) || (decide (mtt < 2) && decide (max w h ≤ if intra then 64 else 128))) &&
      (if v then treeOk vvc intra W H q a x y (w / 2) h (mtt + 1) && treeOk vvc intra W H q b (x + w / 2) y (w / 2) h (mtt + 1)
       else treeOk vvc intra W H q a x y w (h / 2) (mtt + 1) && treeOk vvc intra W H q b x (y + h / 2) w (h / 2) (mtt + 1))
  | .ternary v a b c, x, y, w, h, mtt =>
    vvc && decide (mtt < 2) && decide (max w h ≤ 64) &&
      (if v then treeOk vvc intra W H q a x y (w / 4) h (mtt + 1) && treeOk vvc intra W H q b (x + w / 4) y (w / 2) h (mtt + 1) &&
         treeOk vvc intra W H q c (x + 3 * w / 4) y (w / 4) h (mtt + 1)
       else treeOk vvc intra W H q a x y w (h / 4) (mtt + 1) && treeOk vvc intra W H q b x (y + h / 4) w (h / 2) (mtt + 1) &&
         treeOk vvc intra W H q c x (y + 3 * h / 4) w (h / 4) (mtt + 1))

/-- R136: the chroma QP under the default mapping of HEVC: the table of 4:2:0, or the luma QP held at 51 in 4:2:2. -/
def hevcChromaQp (is422 : Bool) (qp : Nat) : Nat :=
  if is422 then min qp 51
  else if qp < 30 then qp
  else if 43 ≤ qp then qp - 6
  else [29, 30, 31, 32, 33, 33, 34, 34, 35, 35, 36, 36, 37].getD (qp - 30) 37

/-- R136: the chroma QP of a codec. -/
def chromaQp (vvc is422 : Bool) (qp : Nat) : Nat := if vvc then Config.vvcChromaQp qp else hevcChromaQp is422 qp

/-! ### Motion (R137, R140, R141) -/

/-- R137: a picture's reference pictures: the previous pictures in decoding order, at most `n`, none from before the most recent IRAP. -/
def refsOf : Nat → List RefPic → List RefPic
  | 0, _ => []
  | _, [] => []
  | n + 1, r :: l => r :: (if r.irap then [] else refsOf n l)

/-- R141: luma samples past the right edge of a block that its prediction reads in VVC: four taps where the vector has a fraction. -/
def tapsRight (x : Int) : Int := if x % 4 = 0 then 0 else 4

/-- R137, R141: a vector of a block whose right edge is `right` (one past, from the left of the share): it lies in the search range
widened by 2 samples, names a reference picture, and, where the CTU lies in the clean area, keeps the block inside the reference's
clean area: with its filter taps in VVC, at least 8 samples inside in HEVC. A reference from before the refresh period has none. -/
def motionOk (vvc : Bool) (refs : List RefPic) (srh srv ctu period : Nat) (cleanCtu : Bool) (right : Nat) (m : MotionRef) : Bool :=
  decide (m.x.natAbs ≤ 4 * (srh + 2)) && decide (m.y.natAbs ≤ 4 * (srv + 2)) &&
  match refs[m.ref]? with
  | none => false
  | some r =>
    !cleanCtu ||
      (let edge : Int := if r.period = period then (r.clean * ctu : Nat) else 0
       let reach : Int := right + m.x / 4 + (if vvc then tapsRight m.x else 8)
       decide (reach ≤ edge))

/-! ### Bins and the range half of the coder (R144, R176) -/

/-- The arithmetic coder: its base, its range, the bits that it has shifted out, and the state of its context models. -/
structure Coder where
  low : Nat := 0
  range : Nat := 510
  bits : Nat := 0
  ctx : Tab (Option (Nat × Nat)) := []

/-- The range of the least probable symbol of the HEVC coder, by probability state and range quarter (Rec. ITU-T H.265). -/
def rangeLpsA : List (List Nat) :=
  [[128, 176, 208, 240], [128, 167, 197, 227], [128, 158, 187, 216], [123, 150, 178, 205], [116, 142, 169, 195], [111, 135, 160, 185],
   [105, 128, 152, 175], [100, 122, 144, 166], [95, 116, 137, 158], [90, 110, 130, 150], [85, 104, 123, 142], [81, 99, 117, 135],
   [77, 94, 111, 128], [73, 89, 105, 122], [69, 85, 100, 116], [66, 80, 95, 110], [62, 76, 90, 104], [59, 72, 86, 99],
   [56, 69, 81, 94], [53, 65, 77, 89], [51, 62, 73, 85], [48, 59, 69, 80], [46, 56, 66, 76], [43, 53, 63, 72], [41, 50, 59, 69],
   [39, 48, 56, 65], [37, 45, 54, 62], [35, 43, 51, 59], [33, 41, 48, 56], [32, 39, 46, 53], [30, 37, 43, 50], [29, 35, 41, 48]]

/-- The second half of that table. -/
def rangeLpsB : List (List Nat) :=
  [[27, 33, 39, 45], [26, 31, 37, 43], [24, 30, 35, 41], [23, 28, 33, 39], [22, 27, 32, 37], [21, 26, 30, 35], [20, 24, 29, 33],
   [19, 23, 27, 31], [18, 22, 26, 30], [17, 21, 25, 28], [16, 20, 23, 27], [15, 19, 22, 25], [14, 18, 21, 24], [14, 17, 20, 23],
   [13, 16, 19, 22], [12, 15, 18, 21], [12, 14, 17, 20], [11, 14, 16, 19], [11, 13, 15, 18], [10, 12, 15, 17], [10, 12, 14, 16],
   [9, 11, 13, 15], [9, 11, 12, 14], [8, 10, 12, 14], [8, 9, 11, 13], [7, 9, 11, 12], [7, 9, 10, 12], [7, 8, 10, 11],
   [6, 8, 9, 11], [6, 7, 9, 10], [6, 7, 8, 9], [2, 2, 2, 2]]

/-- The probability state after the least probable symbol in the HEVC coder. -/
def nextLps : List Nat :=
  [0, 0, 1, 2, 2, 4, 4, 5, 6, 7, 8, 9, 9, 11, 11, 12, 13, 13, 15, 15, 16, 16, 18, 18, 19, 19, 21, 21, 22, 22, 23, 24, 24, 25, 26, 26,
   27, 27, 28, 29, 29, 30, 30, 30, 31, 32, 32, 33, 33, 33, 34, 34, 35, 35, 35, 36, 36, 36, 37, 37, 37, 38, 38, 63]

/-- The state of a context model as a codec starts it: in HEVC a probability state and the most probable value, in VVC two estimates. -/
def contextStart (vvc intra : Bool) (qp n : Nat) : Nat × Nat :=
  let (a, b) := Config.contextInit vvc intra qp n
  if vvc then (a % 1024, b % 16384) else (a % 63, b % 2)

/-- The range of the least probable symbol, the most probable value, and the next state of a context model after a value. -/
def contextStep (vvc : Bool) (n range : Nat) (s : Nat × Nat) (v : Bool) : Nat × Bool × (Nat × Nat) :=
  if vvc then
    let p := s.2 + 16 * s.1
    let mps := decide (16384 ≤ p)
    let lps := range / 32 * ((if mps then 32767 - p else p) / 512) / 2 + 4
    let (a, b) := Config.contextWindows n
    let (a, b) := (2 + a % 4, 3 + b % 8)
    (lps, mps, (s.1 - s.1 / 2 ^ a + (if v then 1023 / 2 ^ a else 0), s.2 - s.2 / 2 ^ b + (if v then 16383 / 2 ^ b else 0)))
  else
    let mps := s.2 == 1
    let row := if s.1 < 32 then rangeLpsA.getD s.1 [] else rangeLpsB.getD (s.1 - 32) []
    let next := if v == mps then (min 62 (s.1 + 1), s.2)
      else (nextLps.getD s.1 0, if s.1 = 0 then 1 - s.2 else s.2)
    (row.getD (range / 64 % 4) 2, mps, next)

/-- The coder doubles its range until it is 256 or more, shifting out one bit each time. -/
def Coder.renorm : Nat → Coder → Coder
  | 0, k => k
  | n + 1, k => if 256 ≤ k.range then k else Coder.renorm n { k with low := 2 * k.low, range := 2 * k.range, bits := k.bits + 1 }

/-- R176: one bin through the arithmetic coder of a slice at a QP. -/
def Coder.step (vvc intra : Bool) (qp : Nat) (k : Coder) (b : Bin) : Coder :=
  match b.kind with
  | .bypass => { k with low := 2 * k.low + (if b.val then k.range else 0), bits := k.bits + 1 }
  | .terminate =>
    if b.val then Coder.renorm 8 { k with low := k.low + (k.range - 2), range := 2 }
    else Coder.renorm 8 { k with range := k.range - 2 }
  | .context n =>
    let s := (tget none k.ctx n).getD (contextStart vvc intra qp n)
    let (lps, mps, s') := contextStep vvc n k.range s b.val
    let k := { k with ctx := tset none k.ctx n (some s') }
    Coder.renorm 8 (if b.val = mps then { k with range := k.range - lps }
      else { k with low := k.low + (k.range - lps), range := lps })

/-- R176: the bins of a CTU through the coder; its payload bits are those that it shifts out. -/
def Coder.run (vvc intra : Bool) (qp : Nat) (k : Coder) (l : List Bin) : Coder := l.foldl (Coder.step vvc intra qp) k

/-- R151: the payload bytes of a slice: the coder's output for its bins and its final flush, whose last bit is the stop bit. -/
def Coder.bytes (k : Coder) : List Byte :=
  let k := Coder.renorm 8 { k with low := k.low + (k.range - 2), range := 2 }
  let n := k.bits + 2
  let v := (k.low / 128) / 2 * 2 + 1
  let pad := (8 - n % 8) % 8
  beBytes ((n + pad) / 8) (v * 2 ^ pad % 2 ^ (n + pad))

/-! ### The guard candidate (R146, R177) -/

/-- The sum of absolute differences of two lists of samples. -/
def sadOf (a b : List Nat) : Nat := ((a.zip b).map (fun e => natAbsDiff e.1 e.2)).sum

/-- R146: the index of the candidate of lowest cost; ties go to the lower index. -/
def lowestIx (l : List (Nat × Nat)) : Option Nat :=
  (l.foldl (fun (best : Option (Nat × Nat)) e => match best with
    | none => some e
    | some b => if e.2 < b.2 then some e else some b) none).map Prod.fst

/-- R146: the partition of the guard candidate: one DC unit per 64 × 64 region, or one skipped unit with a merge candidate. -/
def guardTree (vvc : Bool) (merge : Option (Nat × List MotionRef)) : CodeTree :=
  let dc : CodeTree := .unit { intra := true, mode := 1 }
  match merge with
  | some (m, mv) => .unit { intra := false, skip := true, merge := some m, motion := mv }
  | none => if vvc then .quad dc dc dc dc else dc

/-! ### NAL units (R125, R142, R148, R152) -/

/-- R148: emulation prevention: a byte 0x03 goes before a byte of 0 to 3 that follows two bytes of 0. -/
def emulation : Nat → List Byte → List Byte
  | _, [] => []
  | zeros, b :: t =>
    if zeros = 2 ∧ b.toNat ≤ 3 then 0x03#8 :: b :: emulation (if b = 0 then 1 else 0) t
    else b :: emulation (if b = 0 then zeros + 1 else 0) t

/-- The two bytes of a NAL unit header of layer 0 and temporal sublayer 0. -/
def nalHeader (vvc : Bool) (type : Nat) : List Byte :=
  if vvc then [0x00#8, BitVec.ofNat 8 (8 * type + 1)] else [BitVec.ofNat 8 (2 * type), 0x01#8]

/-- nal_unit_type of the slices of a picture (R139). -/
def sliceType (vvc : Bool) : PicType → Nat
  | .idr => if vvc then 8 else 20
  | .cra => if vvc then 9 else 21
  | .gdr => if vvc then 10 else 1
  | .trail => if vvc then 0 else 1

/-- R125, R178: a slice NAL unit: its header, then the slice header, held to the bits that Hs allows it, and the payload, with emulation
prevention, and cabac_zero_words (R148). -/
def sliceNal (vvc : Bool) (h : SliceHead) (payload : List Byte) (czw : Nat) : List Byte :=
  nalHeader vvc (sliceType vvc h.pic.ptype) ++ emulation 0 ((Config.sliceHeader vvc h).take 46 ++ payload) ++
    (List.replicate czw [0x00#8, 0x00#8, 0x03#8]).flatten

/-- R148: bits of a minimum coding block (8 × 8 luma and its chroma) of a coded format. -/
def rawMinCuBits (is422 : Bool) (depth : Nat) : Nat := 64 * depth + (if is422 then 64 else 32) * depth

/-- R148: cabac_zero_words that the bin-to-byte constraint of the standards needs for a picture of `bins` bins in `bytes` bytes of
slices: bins ≤ 32 / 3 × bytes + raw bits of its minimum coding blocks / 32, a word being 3 bytes. -/
def zeroWords (is422 : Bool) (depth width height bins bytes : Nat) : Nat :=
  let raw := rawMinCuBits is422 depth * (ceilDiv width 8 * ceilDiv height 8)
  -- 96 bins ≤ 1,024 bytes + 3 raw, and 3,072 more for each word
  ceilDiv (96 * bins - (1024 * bytes + 3 * raw)) 3072

/-- R142: the size and type fields of SEI messages: 255 for each 255 of the value, then the rest. -/
def seiField (n : Nat) : List Byte := List.replicate (n / 255) 0xFF#8 ++ [BitVec.ofNat 8 (n % 255)]

/-- R142: payloadType of an SEI message. -/
def seiType (vvc : Bool) : SeiMsg → Nat
  | .bufferingPeriod _ _ => 0
  | .pictureTiming _ _ _ => 1
  | .unitInfo _ => 130
  | .recoveryPoint _ => 6
  | .mastering _ => 137
  | .contentLight _ => 144
  | .t35 _ => 4
  | .timeCode _ _ _ _ _ => 136
  | .pictureHash _ => if vvc then 132 else 132

/-- R142: the payload of an SEI message: the bytes that it holds, the CRCs of the picture under method 1, or what its standard writes
for its values. -/
def seiPayload (vvc : Bool) : SeiMsg → List Byte
  | .mastering b => b
  | .contentLight b => b
  | .t35 b => b
  | .pictureHash l => (if vvc then [0x01#8, 0x00#8] else [0x01#8]) ++ l.flatMap (beBytes 2)
  | m => Config.headPayload vvc (.sei m)

/-- R324: a filler data NAL unit of a length: HEVC type 38, VVC type 25. -/
def fillerNal (vvc : Bool) (n : Nat) : List Byte :=
  (nalHeader vvc (if vvc then 25 else 38) ++ List.replicate (n - 3) 0xFF#8 ++ [0x80#8]).take n

/-- R142: the bytes of a NAL unit that is no slice. The picture hash is a suffix SEI message. -/
def headNalBytes (vvc : Bool) (n : HeadNal) : List Byte :=
  match n with
  | .aud f =>
    if vvc then nalHeader true 20 ++ [BitVec.ofNat 8 (b2n f * 128 + 0x28)] else nalHeader false 35 ++ [0x50#8]
  | .vps _ => nalHeader vvc (if vvc then 14 else 32) ++ emulation 0 (Config.headPayload vvc n)
  | .sps _ => nalHeader vvc (if vvc then 15 else 33) ++ emulation 0 (Config.headPayload vvc n)
  | .pps _ => nalHeader vvc (if vvc then 16 else 34) ++ emulation 0 (Config.headPayload vvc n)
  | .pictureHeader _ => nalHeader vvc 19 ++ emulation 0 (Config.headPayload vvc n)
  | .sei m =>
    let p := seiPayload vvc m
    let suffix := match m with | .pictureHash _ => 1 | _ => 0
    nalHeader vvc ((if vvc then 23 else 39) + suffix) ++
      emulation 0 (seiField (seiType vvc m) ++ seiField p.length ++ p ++ [0x80#8])
  | .filler k => fillerNal vvc k

/-! ### Captions and time codes (R143) -/

/-- R143: the caption packets of a list: DID 0x61, SDID 0x01. -/
def captions (l : List AncPacket) : List AncPacket := l.filter (fun k => k.did % 256 == 0x61 && k.sdid % 256 == 0x01)

/-- R143: the timecode packets of a list: DID 0x60, SDID 0x60. -/
def timecodes (l : List AncPacket) : List AncPacket := l.filter (fun k => k.did % 256 == 0x60 && k.sdid % 256 == 0x60)

/-- R143: the cc_data triplets of a caption distribution packet: after the header of 7 bytes and a time code section (0x71) of 5
bytes, the section 0x72 holds a count in bits [4:0] and that many triplets. -/
def ccTriplets (words : List Nat) : List Nat :=
  let b := words.map (· % 256)
  let rest := b.drop 7
  let rest := if rest.head? = some 0x71 then rest.drop 5 else rest
  if rest.head? = some 0x72 then (rest.drop 2).take (3 * (rest.getD 1 0 % 32)) else []

/-- R143: the T.35 payload of the captions of a picture in the ATSC A/53 cc_data syntax: country 0xB5, provider 0x0031, 'GA94', type
3, the count, and the triplets. -/
def captionT35 (l : List AncPacket) : List Byte :=
  let cc := (captions l).flatMap (fun k => ccTriplets k.words)
  let n := min 31 (cc.length / 3)
  [0xB5#8, 0x00#8, 0x31#8, 0x47#8, 0x41#8, 0x39#8, 0x34#8, 0x03#8, BitVec.ofNat 8 (0x40 + n), 0xFF#8] ++
    (cc.take (3 * n)).map (BitVec.ofNat 8) ++ [0xFF#8]

/-- R143: the time address of a timecode packet: its user words carry in bits [7:4] four bits of the code word each, every second group
being a binary group: frames, seconds, minutes, hours, each as units and tens. -/
def timecodeSei (k : AncPacket) : SeiMsg :=
  let nib (i : Nat) : Nat := k.words.getD (2 * i) 0 / 16 % 16
  .timeCode (nib 6 + 10 * (nib 7 % 4)) (nib 4 + 10 * (nib 5 % 8)) (nib 2 + 10 * (nib 3 % 8)) (nib 0 + 10 * (nib 1 % 4)) (bit (nib 1) 2)

/-! ### Samples (R51, R99, R114, R128, R142, R155) -/

/-- R99: colour_primaries, transfer_characteristics and matrix_coefficients of a colorimetry and TCS (0 BT709 SDR,
1 BT2020 SDR, 2 HLG, 3 PQ). -/
def colourCodes : Nat → Nat × Nat × Nat
  | 0 => (1, 1, 1) | 1 => (9, 14, 9) | 2 => (9, 18, 9) | _ => (9, 16, 9)

/-- R51: a 10-bit sample rounded to 8 bits, ties upward, held at 255. -/
def to8 (s : Nat) : Nat := min 255 ((s + 2) / 4)

/-- R155: one chroma sample of the 4:2:2 to 4:2:0 conversion, from lines 2y − 1, 2y, 2y + 1 and 2y + 2. -/
def chroma420 (a b d e : Nat) : Nat := min 1023 ((a + 3 * b + 3 * d + e + 4) / 8)

/-- R155: chroma line y of a picture of n 4:2:2 chroma lines converted to 4:2:0; edge lines are repeated. -/
def chromaLine (n : Nat) (line : Nat → List Nat) (y : Nat) : List Nat :=
  let at_ (k : Int) : List Nat := line (clampI k 0 ((n : Int) - 1)).toNat
  let a := at_ (2 * y - 1)
  let b := at_ (2 * y)
  let d := at_ (2 * y + 1)
  let e := at_ (2 * y + 2)
  (List.range b.length).map (fun x => chroma420 (a.getD x 0) (b.getD x 0) (d.getD x 0) (e.getD x 0))

/-- A block of rows of samples; positions past their edges repeat the edge. -/
def blockAt (rows : List (List Nat)) (x y : Int) (w h : Nat) : List Nat :=
  (List.range h).flatMap (fun j =>
    let r := rows.getD (clampI (y + j) 0 ((rows.length : Int) - 1)).toNat []
    (List.range w).map (fun i => r.getD (clampI (x + i) 0 ((r.length : Int) - 1)).toNat 0))

/-- R128, R129: the coarse search of one block of 32 × 32 luma samples at (bx, by), in blocks, on quarter-resolution pictures: over the
whole range of the profile, the 4 vectors (in quarter-resolution samples) of lowest SAD. -/
def coarseSearch (srh srv : Nat) (src ref : List (List Nat)) (bx by_ : Nat) : List (Int × Int) :=
  let blk := blockAt src (16 * bx) (16 * by_) 16 16
  let cand := (List.range (srv / 2 * 2 + 1)).flatMap (fun j => (List.range (srh / 2 * 2 + 1)).map (fun i =>
    ((i : Int) - (srh / 2 : Nat), (j : Int) - (srv / 2 : Nat))))
  let cost (v : Int × Int) : Nat := sadOf blk (blockAt ref (16 * bx + v.1) (16 * by_ + v.2) 16 16)
  let insert (l : List (Nat × (Int × Int))) (v : Int × Int) : List (Nat × (Int × Int)) :=
    let k := cost v
    ((l.takeWhile (fun e => decide (e.1 ≤ k))) ++ [(k, v)] ++ l.dropWhile (fun e => decide (e.1 ≤ k))).take 4
  (cand.foldl insert []).map Prod.snd

/-- R128, R129: the intra analysis of a CTU row: the SATD of every mode for every block of 8 × 8, 16 × 16 and 32 × 32 luma samples. -/
def intraAnalysis (vvc : Bool) (rows : List (List Nat)) : List Nat :=
  let w := (rows.headD []).length
  [8, 16, 32].flatMap (fun n => (List.range (rows.length / n)).flatMap (fun j => (List.range (w / n)).flatMap (fun i =>
    (List.range (if vvc then 67 else 35)).map (fun m => Config.intraSatd vvc m (blockAt rows (n * i) (n * j) n n)))))

/-- One sample of a picture into the CRC of the decoded picture hash: polynomial 0x1021, most significant bit first, low byte first. -/
def hashBits (crc v : Nat) (n : Nat) : Nat :=
  (List.range n).foldl (fun c i =>
    let msb := c / 32768 % 2
    let b := v / 2 ^ (n - 1 - i) % 2
    let c' := c * 2 % 65536 + b
    if msb = 1 then Nat.xor c' 0x1021 else c') crc

/-- R142: the CRC of one colour component of a decoded picture, of samples of a depth. -/
def pictureCrc (depth : Nat) (samples : List Nat) : Nat :=
  let c := samples.foldl (fun c s => let c := hashBits c (s % 256) 8; if 8 < depth then hashBits c (s / 256) 8 else c) 0xFFFF
  hashBits c 0 16

end Sys2Proof.Machine
end

