-- ==== Sys2Proof/Machine/DecodeLane.lean ====
section
/-! DEFINITION. Decode lanes: access units and their release, the capped parser, reconstruction with concealment, the output
ring and the member states of a decode stream (Decode Lanes and Composition, R243–R261). -/

namespace Sys2Proof.Machine

/-- The state of decode stream context s. -/
def Chip.dec (c : Chip) (s : Nat) : DecStream := tget {} c.decs.ctx s

/-- The state of a decode stream context replaced. -/
def Chip.setDec (c : Chip) (s : Nat) (v : DecStream) : Chip :=
  { c with decs := { c.decs with ctx := tset {} c.decs.ctx s v } }

/-- R258, R260: whether context s decodes a stream; SRC 0x3 keeps it disabled. -/
def Chip.decOn (c : Chip) (s : Nat) : Bool :=
  c.on R.DEC_DSCFG_EN s && decide (c.get R.DEC_DSCFG_SRC s < 3) && c.on R.DEC_DLSTAT_EN (c.get R.DEC_DSCFG_LANE s)

/-- R19: the timing plane of context s: that of its decode lane, which is in one plane, so that of the lane's first enabled context. -/
def Chip.decPlane (c : Chip) (s : Nat) : Nat :=
  let l := c.get R.DEC_DSCFG_LANE s
  let first := (List.range 16).find? (fun k => c.on R.DEC_DSCFG_EN k && c.get R.DEC_DSCFG_LANE k == l)
  c.get R.DEC_DSCFG_PLANE (first.getD s)

/-- R259: DDEL, where 0 acts as 1. -/
def Chip.ddel (c : Chip) (s : Nat) : Nat := max 1 (c.get R.DEC_DSTIME_DDEL s)

/-- R259: MAXREORD, where 5 to 7 act as 4. -/
def Chip.maxReord (c : Chip) (s : Nat) : Nat := min 4 (c.get R.DEC_DSTIME_MAXREORD s)

/-- The settings of a context beyond its registers. -/
def Chip.decDef (c : Chip) (s : Nat) : DecDef := tget {} c.tables.decs s

/-- R253, R259: a case of the table of R253 is recorded. -/
def Chip.decCase (c : Chip) (s code : Nat) : Chip := (c.set R.DEC_ERRCASE_CODE s code).bump R.DEC_ERRCASE_COUNT s

/-! ### Arrival (R245–R247) -/

/-- R247: the Turn that a stamp of a decode stream matches, STAMP mode with FOFF 0, in 90 kHz ticks. -/
def Chip.decMatch (c : Chip) (s stamp : Nat) : Option Nat :=
  let r := c.rateOf (c.decPlane s)
  let e (n : Nat) : Nat := n * 90000 * r.2 / r.1 % 2 ^ 32
  let n0 := c.turn (c.decPlane s)
  let n := (((n0 : Int) + roundDiv (sdiff 32 stamp (e n0) * r.1) (90000 * r.2)) % 2 ^ 40).toNat
  if (sdiff 32 stamp (e n)).natAbs ≤ c.get R.DEC_DSTIME_TOL s then some n else none

/-- A packet's parts put among those of its access unit, in order of sequence number. -/
def insertPart : List (Nat × List DecPart) → Nat × List DecPart → List (Nat × List DecPart)
  | [], e => [e]
  | h :: t, e => if later 32 h.1 e.1 then e :: h :: t else h :: insertPart t e

/-- RFC 7798, RFC 9328: the type in a NAL unit header. -/
def nalType (vvc : Bool) (b : List Byte) : Nat := if vvc then leAt b 1 1 / 8 else bits (leAt b 0 1) 6 1

/-- RFC 7798, RFC 9328: the NAL units of an aggregation packet after its header, each behind its length. -/
def aggregated : Nat → List Byte → List DecPart
  | 0, _ => []
  | n + 1, l => if l.length < 2 then [] else .whole ((l.drop 2).take (beAt l 0 2)) :: aggregated n (l.drop (2 + beAt l 0 2))

/-- RFC 7798, RFC 9328: the header of the NAL unit whose fragment a fragmentation packet carries. -/
def fragHeader (vvc : Bool) (l : List Byte) : List Byte :=
  if vvc then [BitVec.ofNat 8 (leAt l 0 1), BitVec.ofNat 8 (leAt l 2 1 % 32 * 8 + leAt l 1 1 % 8)]
  else [BitVec.ofNat 8 (leAt l 0 1 / 128 * 128 + leAt l 2 1 % 64 * 2 + leAt l 0 1 % 2), BitVec.ofNat 8 (leAt l 1 1)]

/-- R246: what an RTP payload of a native stream carries: a single NAL unit, aggregated ones or a fragment; a PACI packet is discarded. -/
def rtpParts (vvc : Bool) (l : List Byte) : List DecPart :=
  let t := nalType vvc l
  let head := leAt l 2 1
  if l.length < 2 then []
  else if t = (if vvc then 28 else 48) then aggregated l.length (l.drop 2)
  else if t = (if vvc then 29 else 49) then
    [.frag (bit head 7) (bit head 6) ((if bit head 7 then fragHeader vvc l else []) ++ l.drop 3)]
  else if vvc = false ∧ t = 50 then []
  else [.whole l]

/-- R246: the payloads of a PID in the TS packets, 1 to 7, of an RTP packet. -/
def tsParts (pid : Nat) : Nat → List Byte → List DecPart
  | 0, _ => []
  | n + 1, l =>
    let p := l.take 188
    let skip := if bit (leAt p 3 1) 5 then 5 + leAt p 4 1 else 4
    let rest := tsParts pid n (l.drop 188)
    if p.length < 188 ∨ leAt p 0 1 ≠ 0x47 ∨ beAt p 1 2 % 8192 ≠ pid ∨ bit (leAt p 3 1) 4 = false then rest
    else .ts (bit (leAt p 1 1) 6) (leAt p 3 1 % 16) (p.drop skip) :: rest

/-- ISO/IEC 13818-1: a 33-bit time stamp of a PES header, and its low 32 bits (R247). -/
def pesTime (l : List Byte) : Nat :=
  (bits (leAt l 0 1) 3 1 * 2 ^ 30 + leAt l 1 1 * 2 ^ 22 + leAt l 2 1 / 2 * 2 ^ 15 + leAt l 3 1 * 2 ^ 7 + leAt l 4 1 / 2) % 2 ^ 32

/-- R247: the decoding and presentation stamps of a PES packet, from its start: DTS, or PTS where it carries no DTS; none where it
carries neither. -/
def pesStamps (l : List Byte) : Option (Nat × Nat) :=
  let flags := leAt l 7 1 / 64
  if beAt l 0 3 ≠ 1 ∨ flags < 2 then none
  else
    let pts := pesTime (l.drop 9)
    some (if flags = 3 then pesTime (l.drop 14) else pts, pts)

/-- The elementary stream bytes at the start of a PES packet. -/
def pesData (l : List Byte) : List Byte := l.drop (9 + leAt l 8 1)

/-- The NAL units of a run of a byte stream (start codes 0x000001), without trailing zeros; the first piece is what comes before a start
code. `z` counts the zeros that have just been read, `cur` is the piece in reverse. -/
def byteStream : Nat → List Byte → List Byte → List (List Byte)
  | _, cur, [] => [cur.reverse]
  | z, cur, b :: l =>
    if b = 0 then byteStream (z + 1) cur l
    else if b = 1 ∧ 2 ≤ z then cur.reverse :: byteStream 0 [] l
    else byteStream 0 (b :: List.replicate z 0 ++ cur) l

/-- R246: the NAL units of the packets of a native access unit, in order. A fragmented unit that a gap falls into is discarded; `pend` is
the fragmented unit now open. -/
def nalsOf : List (Nat × List DecPart) → Option Nat → Option (List Byte) → List (List Byte) → List (List Byte) × Option (List Byte)
  | [], _, pend, acc => (acc, pend)
  | (q, ps) :: t, prev, pend, acc =>
    let whole := match prev with
      | some m => q == (m + 1) % 2 ^ 32
      | none => true
    let pend := if whole then pend else none
    let (acc, pend) := ps.foldl (fun (a : List (List Byte) × Option (List Byte)) p =>
      match p with
      | .whole n => (a.1 ++ [n], none)
      | .frag true true n => (a.1 ++ [n], none)
      | .frag true false n => (a.1, some n)
      | .frag false fin n => match a.2 with
        | some m => if fin then (a.1 ++ [m ++ n], none) else (a.1, some (m ++ n))
        | none => a
      | .ts _ _ _ => a) (acc, pend)
    nalsOf t (some q) pend acc

/-- The packets of a TS input in order: each with the sequence number of its RTP packet. -/
def tsChunks (l : List (Nat × List DecPart)) : List (Nat × DecPart) := l.flatMap (fun e => e.2.map (fun p => (e.1, p)))

/-- The TS packets that belong to one PES packet each; the first group has no start where the list does not begin with one. -/
def tsGroups : List (Nat × DecPart) → List (List (Nat × DecPart))
  | [] => []
  | e :: l =>
    let starts : Bool := match l with
      | (_, .ts s _ _) :: _ => s
      | _ => true
    match starts, tsGroups l with
    | false, g :: gs => (e :: g) :: gs
    | _, gs => [e] :: gs

/-- The stamps of a group of TS packets that begins a PES packet. -/
def groupStamps : List (Nat × DecPart) → Option (Nat × Nat)
  | (_, .ts true _ b) :: _ => pesStamps b
  | _ => none

/-- R246, R253: the runs of elementary stream bytes of a group, cut where the continuity counter shows a gap; a repeated packet is passed
over. `cc` is the counter of the packet before. -/
def tsRuns : Option Nat → List DecPart → List (List Byte)
  | _, [] => [[]]
  | cc, .ts s n b :: l =>
    let data := if s then pesData b else b
    if cc = some n then tsRuns cc l
    else match tsRuns (some n) l with
      | r :: rs => if cc = none ∨ cc = some ((n + 15) % 16) then (data ++ r) :: rs else [] :: (data ++ r) :: rs
      | [] => []
  | cc, _ :: l => tsRuns cc l

/-- R246, R253: the NAL units of the runs of an access unit: those that span a gap are discarded. -/
def runNals : List (List Byte) → List (List Byte)
  | [] => []
  | [r] => ((byteStream 0 [] r).drop 1).filter (· ≠ [])
  | r :: rs => (((byteStream 0 [] r).drop 1).dropLast.filter (· ≠ [])) ++ runNals rs

/-- Whether the sequence numbers of packets follow one another. -/
def contiguous : List Nat → Bool
  | a :: b :: l => b == (a + 1) % 2 ^ 32 && contiguous (b :: l)
  | _ => true

/-- R617: the bytes of an access unit: those that its packets carry. -/
def auBytes (a : DecAu) : List Byte :=
  a.parts.flatMap (fun e => e.2.flatMap (fun p => match p with
    | .whole b => b
    | .frag _ _ b => b
    | .ts s _ b => if s then pesData b else b))

/-- R617: an access unit is held complete. -/
def auComplete (a : DecAu) : Bool := a.ended && contiguous (a.parts.map (·.1)).dedup

/-- R617: the agreement record of an access unit of context s. -/
def auRec (s : Nat) (a : DecAu) : AgreeRec := agreeRec 3 (0x0800 + s) 0 a.turn (auBytes a)

/-- R617: an access unit that context s now holds complete is offered to the partner, once. -/
def Chip.decOffer (c : Chip) (s : Nat) (a : DecAu) : Chip :=
  let x := c.dec s
  if auComplete a = false ∨ a.turn ∈ x.offered then c
  else (c.setDec s { x with offered := (a.turn :: x.offered).take 8 }).agreeSend (auRec s a)

/-- R247: parts of a packet that decodes in Turn n and is shown in Turn m reach context s. An access unit already released,
or another that matches the same Turn, discards them; a forced substitute matches no Turn (R509). -/
def Chip.decArrive (c : Chip) (s seq stamp n m : Nat) (parts : List DecPart) (last : Bool) : Chip :=
  let x := c.dec s
  let late := match x.relTurn with
    | some r => !later 40 n r
    | none => false
  if late || x.forced then c
  else match x.aus.find? (fun a => a.turn == n) with
    | some a =>
      if a.stamp = stamp then
        let a' := { a with parts := insertPart a.parts (seq, parts), ended := a.ended || last }
        (c.setDec s { x with aus := x.aus.map (fun b => if b.turn == n then a' else b) }).decOffer s a'
      else c
    | none =>
      let a : DecAu := { stamp := stamp, turn := n, shown := m, parts := [(seq, parts)], ended := last }
      ((c.setDec s { x with aus := x.aus ++ [a] }).set R.DEC_LASTSTAMP s stamp).decOffer s a

/-- R246, R247: the access units that the TS packets held by context s form, in their order: each ends where the next PES packet starts. -/
def Chip.tsAus (c : Chip) (s : Nat) : List (Option DecAu × List (Nat × DecPart)) :=
  let groups := tsGroups (tsChunks (c.dec s).ts)
  groups.zipIdx.map (fun (g, i) =>
    ((groupStamps g).bind (fun (d, p) => (c.decMatch s d).map (fun n =>
      { stamp := d, turn := n, shown := (c.decMatch s p).getD n, parts := g.map (fun e => (e.1, [e.2])), ended := decide (i + 1 < groups.length) })), g))

/-- R246, R247: TS packets reach context s. -/
def Chip.tsArrive (c : Chip) (s seq : Nat) (parts : List DecPart) : Chip :=
  let x := c.dec s
  if x.forced ∨ parts = [] then c
  else
    let c := c.setDec s { x with ts := insertPart x.ts (seq, parts) }
    let c := c.each ((parts.filterMap (fun p => match p with
      | .ts true _ b => pesStamps b
      | _ => none)).filter (fun e => (c.decMatch s e.1).isSome)) (fun c e => c.set R.DEC_LASTSTAMP s e.1)
    c.each ((c.tsAus s).filterMap (·.1)) (fun c a => c.decOffer s a)

/-- R253: packets of an access unit are lost. -/
def Chip.decLoss (c : Chip) (s : Nat) : Chip := (c.set R.DEC_DSSTAT_LOSS s 1).decCase s 0x1

/-- A 16-bit RTP sequence number taken to 32 bits, next to the newest of its flow. -/
def Chip.wideSeq (c : Chip) (f seq : Nat) : Nat := match (c.flow f).newest with
  | some m => (((m : Int) + sdiff 16 seq m) % 2 ^ 32).toNat
  | none => seq

/-- R245–R247, R253: an RTP packet of a decode stream, its SRTP removed, that leg A or B of flow f has delivered: `mark` is its marker bit.
A stream whose packets carry a DONL field is not taken (R246). -/
def Chip.decPacket (c : Chip) (s f : Nat) (isB : Bool) (seq stamp at_ : Nat) (mark : Bool) (pay : List Byte) : Chip :=
  let src := c.get R.DEC_DSCFG_SRC s
  if c.decOn s = false ∨ 2 ≤ src ∨ f ≠ c.get R.DEC_DSCFG_FLOW s ∨ (src = 0 ∧ (c.decDef s).donDiff ≠ 0) then c
  else
    let seq := c.wideSeq f seq
    let q := (c.legHeard f isB at_).mergeSeq f isB seq stamp stamp 0
    let c := q.1
    if q.2 = false then c
    else if src = 1 then c.tsArrive s seq (tsParts (c.decDef s).pid 7 pay)
    else match c.decMatch s stamp with
      | none => c
      | some n => c.decArrive s seq stamp n n (rtpParts (c.on R.DEC_DSCFG_CODEC s) pay) mark

/-- R245, R247: the internal tap of the RTP payload that send flow f of an encode channel queues: the tapped picture is matched to its own
Turn. FLOW of the context names that flow. -/
def Chip.decTap (c : Chip) (f turn stamp : Nat) (mark : Bool) (pay : List Byte) : Chip :=
  c.each ((List.range 16).filter (fun s => c.decOn s && c.get R.DEC_DSCFG_SRC s == 2 && c.get R.DEC_DSCFG_FLOW s == f))
    (fun c s =>
      let held := ((c.dec s).aus.find? (fun a => a.turn == turn)).map (fun a => a.parts.length)
      c.decArrive s (held.getD 0) stamp turn turn (rtpParts (c.on R.DEC_DSCFG_CODEC s) pay) mark)

/-! ### Release (R247) -/

/-- R248: the row-ready mark of every CTU row with a row slot. -/
def Chip.rowMarks (c : Chip) (s : Nat) : Chip :=
  let d := c.decDef s
  let v := (c.turn (c.decPlane s) + d.markOff) % 2 ^ 24
  c.writeMarks ((List.range d.rows).map (fun i => (d.mark0 + i, v)))

/-- R247, R253, R617: at the first owned Twist of the body of Turn m, context s releases the access unit matched to Turn m − DDEL. Where
none is there, or the partner does not hold it, the rows are ready with no parsed syntax. -/
def Chip.decRelease (c : Chip) (s : Nat) : Chip :=
  let x := c.dec s
  let n := (c.turn (c.decPlane s) + 2 ^ 40 - c.ddel s) % 2 ^ 40
  let groups := c.tsAus s
  let keep := groups.filter (fun e => match e.1 with
    | some a => later 40 a.turn n
    | none => false)
  let found := if c.get R.DEC_DSCFG_SRC s = 1 then (groups.filterMap (·.1)).find? (fun a => a.turn == n) else x.aus.find? (fun a => a.turn == n)
  let x := { x with aus := x.aus.filter (fun a => later 40 a.turn n), ts := keep.flatMap (fun e => e.2.map (fun p => (p.1, [p.2]))),
                    rel := none, relTurn := some n }
  match found.filter (fun a => !c.agreeOn || (auComplete a && c.agreed (auRec s a))) with
  | none => ((c.setDec s x).decCase s 0x9).rowMarks s
  | some a => (c.setDec s { x with rel := some { shown := a.shown, au := some a } }).when (!a.ended) (·.decCase s 0x2)

/-! ### Parsing (R248, R253, R254) -/

/-- R246, R253: the NAL units of an access unit, the open one of an incomplete unit as far as it has arrived. -/
def auNals (cc : Option Nat) (a : DecAu) : List (List Byte) :=
  match (tsChunks a.parts).head? with
  | some (_, .ts _ _ _) => runNals (tsRuns cc ((tsChunks a.parts).map (·.2)))
  | _ =>
    let (nals, pend) := nalsOf a.parts none none []
    match a.ended, pend with
    | false, some b => nals ++ [b]
    | _, _ => nals

/-- R246: the continuity counter of the last TS packet of an access unit. -/
def auCc (a : DecAu) : Option Nat := (tsChunks a.parts).reverse.head?.bind (fun e => match e.2 with
  | .ts _ n _ => some n
  | _ => none)

/-- R253: the last RTP packet, and its continuity counter in TS, of the access unit of the Turn before n, where the lane took that whole. -/
def Chip.auBefore (c : Chip) (s n : Nat) : Option (Nat × Option Nat) :=
  ((c.dec s).lastAu.filter (fun e => (e.1 + 1) % 2 ^ 40 == n)).map (·.2)

/-- R253: whether packets are lost within access unit a of context s, or between it and that of the Turn before. -/
def Chip.auGap (c : Chip) (s : Nat) (a : DecAu) : Bool :=
  let before := c.auBefore s a.turn
  let seqs := (a.parts.map (·.1)).dedup
  let parts := (tsChunks a.parts).map (·.2)
  let between := match before, seqs with
    | some (q, _), m :: _ => c.get R.DEC_DSCFG_SRC s != 2 && m != (q + 1) % 2 ^ 32 && (m != q || c.get R.DEC_DSCFG_SRC s != 1)
    | _, _ => false
  !contiguous seqs || between || decide (1 < (tsRuns (before.bind (·.2)) parts).length)

/-- R253, R530: the parser begins the access unit of context s: packets whose mark fails count as lost. Losses are one case of the access
unit; one that is lost whole is case 0x9 alone. -/
def Chip.parseBegin (c : Chip) (s : Nat) (lost : List Nat) : Chip :=
  let x := c.dec s
  match x.rel with
  | none => c
  | some r => match r.au with
    | none => c
    | some a =>
      let bad := a.parts.filter (fun e => e.1 ∈ lost)
      let a := { a with parts := a.parts.filter (fun e => e.1 ∉ lost) }
      let cc := (c.auBefore s a.turn).bind (·.2)
      let loss := !bad.isEmpty || c.auGap s a
      let last := if a.ended then (a.parts.reverse.head?).map (fun e => (a.turn, e.1, auCc a)) else none
      (c.setDec s { x with rel := some { r with au := none, nals := auNals cc a }, lastAu := last }).when loss (·.decLoss s)

/-- R248, R253: the CTUs of a slice parsed from address `addr`: CTU i of the slice takes `bins`, until the first that cannot
be decoded or the bin budget. A repeated address is ignored. -/
def parseCtus (budget : Nat) (bad : Option Nat) : List Nat → Nat → Nat → Nat → List Nat → Nat × List Nat × Bool
  | [], _, _, used, parsed => (used, parsed, false)
  | b :: t, i, addr, used, parsed =>
    if bad = some i then (used, parsed, false)
    else if budget < used + b then (used, parsed, true)
    else parseCtus budget bad t (i + 1) (addr + 1) (used + b) (if addr ∈ parsed then parsed else addr :: parsed)

/-- R248: an access unit stops: the row-ready mark of every CTU row with a row slot is written. -/
def Chip.parseStop (c : Chip) (s : Nat) : Chip :=
  let x := c.dec s
  match x.rel with
  | none => c
  | some r => (c.setDec s { x with rel := some { r with stopped := true } }).rowMarks s

/-- R254: the pictures a slice refers to that are not in the DPB are generated in mid-grey, case 0x7 each. -/
def Chip.makeRefs (c : Chip) (s : Nat) (refs : List Int) : Chip :=
  c.each (refs.filter (fun q => !((c.dec s).dpb.any (fun e => e.poc == q)))) (fun c q =>
    let x := c.dec s
    if x.dpb.any (fun e => e.poc == q) then c
    else (c.setDec s { x with dpb := x.dpb ++ [{ poc := q, clean := false }] }).decCase s 0x7)

/-- The picture under parse of decode stream s changed. -/
def Chip.decRelSet (c : Chip) (s : Nat) (f : DecRel → DecRel) : Chip :=
  let x := c.dec s
  c.setDec s { x with rel := x.rel.map f }

/-- HEVC and VVC: the types of NAL units that are slices, of IRAP pictures, CRA pictures and RASL pictures. -/
def sliceTypes (vvc : Bool) : List Nat := if vvc then [0, 1, 2, 3, 7, 8, 9, 10] else List.range 10 ++ [16, 17, 18, 19, 20, 21]
def irapTypes (vvc : Bool) : List Nat := if vvc then [7, 8, 9] else [16, 17, 18, 19, 20, 21]
def craType (vvc : Bool) : Nat := if vvc then 9 else 21
def raslTypes (vvc : Bool) : List Nat := if vvc then [3] else [8, 9]

/-- R244: whether parameter sets are within what context s decodes. -/
def Chip.spsOk (c : Chip) (s : Nat) (p : DecSps) : Bool :=
  let (w, h) := rasterSize (c.get R.DEC_DSCFG_RASTER s)
  let wide := c.on R.DEC_DSCFG_CHROMA s
  let profile := match p.profile with
    | .main | .main422 => !c.on R.DEC_DSCFG_CODEC s
    | .main10 => true
    | .main444 => c.on R.DEC_DSCFG_CODEC s && (p.chroma == 1 || p.chroma == 2)
    | .other => false
  profile && decide (p.level ≤ 61) && (!c.on R.DEC_DSCFG_CODEC s || p.layers == 1) && decide (p.width ≤ w ∧ p.height ≤ h) &&
    decide (p.chroma ≤ if wide then 2 else 1) && (p.depthY == 8 || p.depthY == 10) && (p.depthC == 8 || p.depthC == 10)

/-- R248, R253: a slice of the picture under parse: its CTUs, as far as PARSEBINS and its data allow, and the case that stops it. -/
def Chip.parseSlice (c : Chip) (s : Nat) (h : DecHead) (r : DecRel) : Chip :=
  let n := h.nal
  let tainted := n.refs.any (fun q => (c.dec s).dpb.any (fun e => e.poc == q && !e.clean))
  let out := decide (n.first ∉ r.parsed) && r.parsed.any (fun a => decide (n.first < a))
  let x := if out then (r.bins, r.parsed, false)
    else parseCtus (c.get R.DEC_DSPARSE_PARSEBINS s) n.bad n.ctuBins 0 n.first r.bins r.parsed
  let c := c.decRelSet s (fun r => { r with bins := x.1, parsed := x.2.1, head := some (r.head.getD h), tainted := r.tainted || tainted })
  let c := c.setDec s { c.dec s with shape := n.sps }
  let c := if out then c.decCase s 0x4
    else if x.2.2 then (c.set R.DEC_DSSTAT_PARSEOVR s 1).decCase s 0x6
    else if n.bad.isSome then c.decCase s (if n.badSyntax then 0x4 else 0x3) else c
  c.when x.2.2 (·.parseStop s)

/-- R248, R253: one NAL unit of the released access unit of context s. A slice outside R244, or while the context is paused
and no IRAP picture comes, is discarded; a type that is neither a slice nor a hash is ignored, its syntax being what slices refer to. -/
def Chip.parseOne (c : Chip) (s : Nat) (b : List Byte) (n : DecNal) : Chip :=
  let vvc := c.on R.DEC_DSCFG_CODEC s
  let t := nalType vvc b
  let irap := (irapTypes vvc).contains t
  let c := c.decRelSet s (fun r => { r with count := r.count + 1 })
  if (sliceTypes vvc).contains t = false then
    match n.hash with
    | some h => c.decRelSet s (fun r => { r with hash := some h })
    | none => c
  else if (n.sps.any (c.spsOk s)) = false then (c.set R.DEC_DSSTAT_PAUSED s 1).decCase s 0x5
  else if c.on R.DEC_DSSTAT_PAUSED s && !irap then c
  else
    let c := c.when (c.on R.DEC_DSSTAT_PAUSED s && !c.on R.DEC_DSSTAT_CONCEALING s) (·.set R.DEC_DSSTAT_PAUSED s 0)
    let c := c.makeRefs s n.refs
    match (c.dec s).rel with
    | none => c
    | some r => c.parseSlice s { irap := irap, cra := t == craType vvc, rasl := (raslTypes vvc).contains t, nal := n } r

/-- R248: the parser works on context s until it has decoded one slice NAL unit or the access unit stops: at its end, at
PARSEBINS bins or at its 1,025th NAL unit. `ns` is what the syntax of its NAL units says. -/
def Chip.parseSome (c : Chip) (s : Nat) : List (List Byte) → List DecNal → Chip
  | [], _ => c.parseStop s
  | b :: t, ns =>
    let x := c.dec s
    match x.rel with
    | none => c
    | some r =>
      if r.stopped then c
      else if r.count = 1024 then ((c.set R.DEC_DSSTAT_PARSEOVR s 1).decCase s 0x6).parseStop s
      else
        let c := (c.setDec s { x with rel := some { r with nals := t } }).parseOne s b (ns.headD {})
        let vvc := c.on R.DEC_DSCFG_CODEC s
        if (sliceTypes vvc).contains (nalType vvc b) then (if t.isEmpty then c.parseStop s else c) else c.parseSome s t (ns.drop 1)

/-- R248: the context of lane l that the fixed rotation serves next: the first after the one served last that has a released
access unit the parser has not stopped. -/
def Chip.parseNext (c : Chip) (l : Nat) : Option Nat :=
  let last := tget 0 c.decs.turnOf l
  ((List.range 16).map (fun i => (last + i) % 16)).find? (fun s =>
    c.decOn s && c.get R.DEC_DSCFG_LANE s == l && (match (c.dec s).rel with | some r => !r.stopped | none => false))

/-- R248, R408: PARSE_NAL on a decode lane, in an open-pool Twist. -/
def execParseNal (x : ParseIn) (s : State) : Host.Outcome State Fault Refusal :=
  onChip (fun c =>
    if !c.openTwist then c
    else match c.parseNext x.lane.val with
      | none => c
      | some k =>
        let c := c.parseBegin k x.lost
        let c := c.parseSome k (((c.dec k).rel.map (·.nals)).getD []) x.nals
        { c with decs := { c.decs with turnOf := tset 0 c.decs.turnOf x.lane.val (k + 1) } }) s

/-! ### Reconstruction (R249–R252, R255) -/

/-- 10-bit samples packed four to five bytes. `fuel` bounds the number of groups. -/
def packSamples : Nat → List Nat → List Byte
  | 0, _ => []
  | n + 1, l =>
    if l.isEmpty then []
    else pack10 (l.getD 0 0) (l.getD 1 0) (l.getD 2 0) (l.getD 3 0) ++ packSamples n (l.drop 4)

/-- R250: a stored line with the samples of the concealed CTUs replaced: by the co-located samples of `old`, or by mid-grey
where it has none. Two luma columns take g packed samples. -/
def concealLine (g ctb cropX : Nat) (hidden : List Nat) (new old : List Byte) : List Byte :=
  if hidden.isEmpty then new
  else
    let a := unpack10 new.length new
    let b := unpack10 old.length old
    let l := (List.range a.length).map (fun i =>
      if (i / g * 2 + cropX) / ctb ∈ hidden then b.getD i 512 else a.getD i 0)
    packSamples l.length l

/-- R252: the mark identity of a decoded line in R109's place of the flow context. -/
def decMarkId (s : Nat) : Nat := 0x0800 + s

/-- The picture of decode context s for Turn n in its output ring. -/
def Chip.decPic (c : Chip) (s n : Nat) : Option WrPic := (c.dec s).ring.find? (fun p => p.turn == some n)

/-- R107, R252: a decoded picture of the present Turn or an earlier one joins the member. -/
def Chip.decJoin (c : Chip) (s : Nat) : Chip := (c.set R.DEC_DSSTAT_JOINED s 1).set R.DEC_DSSTAT_REPEATRUN s 0

/-- R244: one stored line, or line pair of a 4:2:0 context, of a row of the coded picture: samples brought to 10 bits, from the conformance
window, black beyond it; chroma of a narrower format is repeated. `i` is the luma row within `y`, w the width of the declared raster. -/
def decLine (wide : Bool) (w : Nat) (p : DecSps) (k : DecRowWork) (i : Nat) : List Byte :=
  let norm (depth v : Nat) : Nat := if depth = 8 then 4 * v else v
  let luma (i x : Nat) : Nat := if x < p.cropW then norm p.depthY ((k.y.getD i []).getD (x + p.cropX) 16) else 64
  let chroma (rows : List (List Nat)) (x : Nat) : Nat :=
    if 2 * x < p.cropW ∧ p.chroma ≠ 0 then
      norm p.depthC ((rows.getD (if p.chroma = 2 then i else i / 2) []).getD (x + p.cropX / 2) 128)
    else 512
  if wide then (List.range (w / 2)).flatMap (fun x => pack10 (chroma k.cb x) (luma i (2 * x)) (chroma k.cr x) (luma i (2 * x + 1)))
  else
    let l := (List.range (w / 2)).flatMap (fun x =>
      [luma i (2 * x), luma i (2 * x + 1), luma (i + 1) (2 * x), luma (i + 1) (2 * x + 1), chroma k.cb x, chroma k.cr x])
    packSamples l.length l

/-- R244, R250: the lines that a row slot stores, with their numbers in the picture: the CTUs of the columns `hidden` are concealed from the
most recent output picture. -/
def Chip.decLines (c : Chip) (s : Nat) (p : DecSps) (k : DecRowWork) (hidden : List Nat) : List (Nat × LineOut) :=
  let wide := c.on R.DEC_DSCFG_CHROMA s
  let w := (rasterSize (c.get R.DEC_DSCFG_RASTER s)).1
  let top := k.row * p.ctb
  let rows := (range' (max top p.cropY) (min (top + p.ctb) (p.cropY + p.cropH))).filter (fun y => wide || (y - p.cropY) % 2 == 0)
  rows.map (fun y =>
    let line := y - p.cropY
    let old := (tget {} (c.dec s).lastOut line).bytes
    (line, { bytes := concealLine (if wide then 4 else 6) p.ctb p.cropX hidden (decLine wide w p k (y - top)) old }))

/-- R252: the records that concealed CTUs touch: those whose 64 × 64 samples of the stored picture they share. -/
def touchedRecords (p : DecSps) (hidden : List Nat) : List (Nat × Nat) :=
  let cols := ceilDiv p.width (max 1 p.ctb)
  hidden.flatMap (fun a =>
    let span (from_ len : Nat) : List Nat := if len = 0 then [] else range' (from_ / 64) ((from_ + len - 1) / 64 + 1)
    let y0 := a / cols * p.ctb - p.cropY
    let x0 := a % cols * p.ctb - p.cropX
    let dy := (a / cols + 1) * p.ctb - p.cropY - y0
    let dx := (a % cols + 1) * p.ctb - p.cropX - x0
    (span y0 dy).flatMap (fun r => (span x0 dx).map (fun b => (r, b))))

/-- R252, R109, R114: lines of the picture shown in Turn n go to the output ring of 3, marked and analysed; records that concealed CTUs touch
carry FLAGS[2]. -/
def Chip.decPut (c : Chip) (s n : Nat) (lines : List (Nat × LineOut)) (touched : List (Nat × Nat)) : Chip :=
  let x := c.dec s
  let p := c.decPlane s
  let wide := c.on R.DEC_DSCFG_CHROMA s
  let (w, h) := rasterSize (c.get R.DEC_DSCFG_RASTER s)
  let prev := (c.decPic s (n - 1)).getD {}
  let old := (c.decPic s n).getD { turn := some n }
  let pic := lines.foldl (fun q e =>
    let o := { e.2 with mark := lineMark (decMarkId s) e.1 (n % 2 ^ 32) e.2.bytes }
    analyseLine wide w h (c.get R.ING_PASCN_RATIO p) (c.get R.ING_PASCN_SCFLOOR p) (c.get R.ING_PASCN_SCMIN p) prev
      { q with lines := tset {} q.lines e.1 o } e.1) old
  let recs := pic.records.map (fun e =>
    (e.1, e.2.mapIdx (fun b k => { k with substituted := k.substituted || decide ((e.1, b) ∈ touched) })))
  let pic := { pic with records := recs }
  (c.setDec s { x with ring := (pic :: x.ring.filter (fun q => q.turn != some n)).take 3 }).each lines (fun c e =>
    c.storeLine (c.decDef s).store wide w h n e.1 pic)

/-- R252: decoded lines of the picture shown in Turn n: to the output ring in that Turn or after it, and held for it before. -/
def Chip.decOut (c : Chip) (s n : Nat) (lines : List (Nat × LineOut)) (touched : List (Nat × Nat)) : Chip :=
  if later 40 n (c.turn (c.decPlane s)) = false then c.decPut s n lines touched
  else
    let x := c.dec s
    let d := (x.waiting.find? (fun d => d.turn == n)).getD { turn := n }
    let d := { d with lines := lines.foldl (fun t e => tset {} t e.1 e.2) d.lines, touched := d.touched ++ touched }
    c.setDec s { x with waiting := d :: x.waiting.filter (fun d => d.turn != n) }

/-- R252: the picture held for Turn n, which begins, goes to the output ring. -/
def Chip.decShow (c : Chip) (s n : Nat) : Chip :=
  let x := c.dec s
  match x.waiting.find? (fun d => d.turn == n) with
  | none => c
  | some d => ((c.setDec s { x with waiting := x.waiting.filter (fun d => d.turn != n), lastOut := d.lines }).decPut s n d.lines d.touched).decJoin s

/-- R255, R256: whether the picture is marked concealed, and the states it leaves. Returns the device and whether the picture is output. -/
def Chip.decVerdict (c : Chip) (s : Nat) (r : DecRel) (k : DecHead) : Chip × Bool :=
  let x := c.dec s
  let clean := r.concealed.isEmpty && !r.tainted
  let hashBad := clean && r.hash == some false
  let c := c.when hashBad (fun c => (c.set R.DEC_DSSTAT_HASHFLT s 1).decCase s 0xA)
  let was := c.on R.DEC_DSSTAT_CONCEALING s
  let good := clean && !hashBad
  -- an IRAP picture, or the recovery point, decoded without concealment ends the concealed state
  let recovers := was && good && (k.irap || x.recoverAt == some k.nal.poc)
  let marked := !good || (was && !recovers)
  let paused := c.on R.DEC_DSSTAT_PAUSED s
  let c := c.when marked (fun c => (c.set R.DEC_DSSTAT_CONCEALING s 1).bump R.DEC_CONCPICS_PICS s)
  let c := c.when recovers (·.set R.DEC_DSSTAT_CONCEALING s 0)
  let c := c.when (paused && k.irap && good) (·.set R.DEC_DSSTAT_PAUSED s 0)
  let skip := k.rasl && x.skipRasl
  let x := c.dec s
  let dpb := x.dpb.filter (fun e => decide (e.poc ∉ k.nal.drops) && e.poc != k.nal.poc)
  let keep := decide (dpb.length < (c.decDef s).maxDpb)
  let c := c.setDec s { x with
    dpb := if keep then dpb ++ [{ poc := k.nal.poc, clean := !marked }] else dpb,
    recoverAt := match k.nal.recovery with
      | some q => some q
      | none => x.recoverAt,
    skipRasl := if k.irap then recovers && k.cra else x.skipRasl }
  let c := c.when (!keep) (·.decCase s 0x8)
  (c, !skip && !c.on R.DEC_DSSTAT_PAUSED s)

/-- R250, R255: the states that a picture of which no slice was decoded leaves: it is concealed throughout, and no reference. -/
def Chip.decLostPic (c : Chip) (s : Nat) : Chip × Bool :=
  ((c.set R.DEC_DSSTAT_CONCEALING s 1).bump R.DEC_CONCPICS_PICS s, !c.on R.DEC_DSSTAT_PAUSED s)

/-- R249, R252, R255: the last row slot of a picture has run: the picture is output, and is now the most recent one, or not. A picture whose
context was paused until then is output whole. -/
def Chip.decDone (c : Chip) (s n : Nat) (p : DecSps) (r : DecRel) (shown : Bool) : Chip :=
  let (c, out) := match r.head with
    | some k => c.decVerdict s r k
    | none => c.decLostPic s
  let c := c.setDec s { c.dec s with rel := none }
  if !out then c
  else
    let c := c.when (!shown) (·.decOut s n r.lines (touchedRecords p r.concealed))
    if later 40 n (c.turn (c.decPlane s)) then c else (c.setDec s { c.dec s with lastOut := r.lines }).decJoin s

/-- R249, R250: a row of the picture under reconstruction: CTUs that were not parsed, the whole row of a substitute RUN and a row that the
lane's SRAM has lost are concealed; a write outside the context's buffers is discarded. -/
def Chip.decRowOf (c : Chip) (s : Nat) (w : DecRowWork) (subst : Bool) (r : DecRel) (p : DecSps) : Chip :=
  let size := ceilDiv p.width (max 1 p.ctb)
  let cols := (List.range size).filter (fun i => subst || w.ecc || !r.parsed.contains (w.row * size + i))
  let lines := if w.outOfBounds then [] else c.decLines s p w cols
  let hidden := cols.map (fun i => w.row * size + i)
  let r := { r with lines := lines.foldl (fun t e => tset {} t e.1 e.2) r.lines, concealed := r.concealed ++ hidden }
  let n := r.shown + c.ddel s + c.maxReord s
  let shown := !c.on R.DEC_DSSTAT_PAUSED s && !(r.head.any (·.rasl) && (c.dec s).skipRasl)
  let c := (c.setDec s { c.dec s with rel := some r }).bump R.DEC_CONCCTU s cols.length
  let c := c.when shown (·.decOut s n lines (touchedRecords p hidden))
  if w.row + 1 < ceilDiv p.height (max 1 p.ctb) then c else c.decDone s n p r shown

/-- R249–R252, R258: the row slot of a CTU row of the picture of context s. A picture of which no slice was decoded has the shape of the one
before it. -/
def Chip.decRow (c : Chip) (w : DecRowWork) (subst : Bool) : Chip :=
  let s := w.ctx.val
  let l := c.get R.DEC_DSCFG_LANE s
  let c := c.when w.ecc (fun c => (c.set R.DEC_DLSTAT_ECCFLT l 1).fault 1 3 17 blkDec 0x02 l none)
  let c := c.when w.outOfBounds (fun c =>
    let (v, c) := c.draw
    (c.set R.DEC_DLSTAT_BOUNDFLT l 1).fault 1 4 17 blkDec (v.toNat % 256) l none)
  let x := c.dec s
  match x.rel with
  | none => c
  | some r => match ((r.head.map (·.nal)).bind (·.sps)).or x.shape with
    | none => c
    | some p => c.decRowOf s w subst r p

/-! ### Turns with no decoded picture (R252, R105, R107) -/

/-- R105, R252: whether a substitute of context s is black. -/
def Chip.decBlack (c : Chip) (s : Nat) (prev : WrPic) : Bool :=
  let fm := c.get R.DEC_DSCFG_FREEZEMAX s
  c.on R.DEC_DSCFG_SUBST s || prev.turn.isNone || (fm != 0 && decide (fm * 16 ≤ c.get R.DEC_DSSTAT_REPEATRUN s))

/-- R105, R252: the substitute picture of context s: the picture before it repeated, or black. -/
def Chip.decSubst (c : Chip) (s : Nat) : WrPic :=
  let prev := ((c.dec s).ring.head?).getD {}
  let is422 := c.on R.DEC_DSCFG_CHROMA s
  let raster := c.get R.DEC_DSCFG_RASTER s
  let black := blackLine is422 (c.decDef s).fullRange (lineBytes raster is422)
  let step := if is422 then 1 else 2
  let ls := (List.range ((rasterSize raster).2 / step)).map (· * step)
  { lines := ls.map (fun l =>
      if c.decBlack s prev then (l, ({ bytes := black, subst := true, black := true } : LineOut))
      else (l, { tget {} prev.lines l with subst := true })) }

/-- R107, R252: the end of Turn n for decode stream s: a Turn with no decoded picture is filled with a substitute, and the picture held for
the next Turn is shown. -/
def Chip.decTurnEnd (c : Chip) (s n : Nat) : Chip :=
  let c :=
    if (c.decPic s n).isSome then c
    else
      let pic := c.decSubst s
      let joined := c.on R.DEC_DSSTAT_JOINED s
      let c := (c.decPut s n pic.lines []).bump R.DEC_CONCPICS_SUBST s
      if joined then ((c.set R.DEC_DSSTAT_JOINED s 0).set R.DEC_DSSTAT_REPEATRUN s 1).pulse (320 + s)
      else c.bump R.DEC_DSSTAT_REPEATRUN s
  c.decShow s (n + 1)

/-- R107, R256: a plane start, or a stream added at a boundary, puts a decode stream in UNDERRUN with nothing output. -/
def Chip.decRestart (c : Chip) (s : Nat) : Chip :=
  let c := (c.set R.DEC_DSSTAT_JOINED s 0).set R.DEC_DSSTAT_REPEATRUN s 0
  let c := (c.set R.DEC_DSSTAT_CONCEALING s 0).set R.DEC_DSSTAT_PAUSED s 0
  c.setDec s { forced := (c.dec s).forced }

/-- R257: DEC.CNTCLR. -/
def execDecCntclr (v : Word) (s : State) : Host.Outcome State Fault Refusal :=
  onChip (fun c =>
    if bit v.toNat 31 then
      let k := bits v.toNat 3 0
      let c := (c.set R.DEC_CONCPICS_PICS k 0).set R.DEC_CONCPICS_SUBST k 0
      let c := (c.set R.DEC_CONCCTU k 0).set R.DEC_ERRCASE_CODE k 0
      c.set R.DEC_ERRCASE_COUNT k 0
    else c) s

end Sys2Proof.Machine
end

