-- ==== Sys2Proof/Machine/Compose.lean ====
section
/-! DEFINITION. Composition outputs and scalers: sources of layers, scaling, colour conversion, blending, the output stage and
rendition rasters (Decode Lanes and Composition, R262–R283). -/

namespace Sys2Proof.Machine

/-- A picture as layers and scalers read it: its luma size, chroma rows, rows of samples, and the luma lines whose mark
fails. -/
structure View where
  w : Nat
  h : Nat
  ch : Nat
  y : Nat → List Nat
  cb : Nat → List Nat
  cr : Nat → List Nat
  bad : Nat → Bool

/-! ### Sources (R263, R264) -/

/-- The view of a stored picture (R96, R104): packed 4:2:2 lines or 4:2:0 line pairs, marked with an identity. A line that
was never written reads as black. -/
def viewOf (is422 : Bool) (w h id : Nat) (pic : WrPic) : View :=
  let unit (l : Nat) := if is422 then l else l / 2 * 2
  let at_ (l : Nat) := tget {} pic.lines (unit l)
  let samples (b : List Byte) := if b.isEmpty then [] else unpack10 b.length b
  let fill (n d : Nat) (l : List Nat) := if l.isEmpty then List.replicate n d else l
  { w := w, h := h, ch := if is422 then h else h / 2,
    y := fun l => fill w 64 (let s := samples (at_ l).bytes
                             if is422 then pick 4 [1, 3] s else if l % 2 = 0 then pick 6 [0, 1] s else pick 6 [2, 3] s),
    cb := fun r => let l := if is422 then r else 2 * r
                   fill (w / 2) 512 (pick (if is422 then 4 else 6) [if is422 then 0 else 4] (samples (at_ l).bytes)),
    cr := fun r => let l := if is422 then r else 2 * r
                   fill (w / 2) 512 (pick (if is422 then 4 else 6) [if is422 then 2 else 5] (samples (at_ l).bytes)),
    bad := fun l => let o := at_ l
                    !o.bytes.isEmpty && decide (o.mark ≠ lineMark id (unit l) ((pic.turn.getD 0) % 2 ^ 32) o.bytes) }

/-- R264: the Turn of a source in plane sp that a reader in plane rp shows in its present Turn. -/
def Chip.sourceTurn (c : Chip) (rp sp : Nat) : Nat :=
  let n := c.turn rp
  if rp = sp then n
  else
    let (a, b) := c.rateOf rp
    let (d, e) := c.rateOf sp
    n * b * d / (a * e) - 1

/-- The scaler that makes rendition raster r, if any (R265, R283). -/
def Chip.rendScaler (c : Chip) (r : Nat) : Option Nat :=
  (List.range 24).find? (fun k => c.on R.CMP_SCLCFG_EN k && c.on R.CMP_SCLCFG_USE k && c.get R.CMP_SCLCFG_RND k == r)

/-- The timing plane of a source. -/
def Chip.srcPlane (c : Chip) (s : PicSrc) : Nat :=
  match s.kind with
  | 0 => c.get R.ING_FLOWCFG_PLANE s.num
  | 1 => c.decPlane s.num
  | _ => ((c.rendScaler s.num).map (fun k => c.get R.CMP_SCLCFG_PLANE k)).getD 0

/-- R104: the picture of ingest flow f for Turn n. -/
def Chip.flowPic (c : Chip) (f n : Nat) : Option WrPic :=
  let x := c.flow f
  (x.cur :: x.prev :: x.older).find? (fun p => p.turn == some n)

/-- R269: the picture of rendition raster r for Turn n. -/
def Chip.rendPic (c : Chip) (r n : Nat) : Option WrPic := (tget [] c.cmp.rends r).find? (fun p => p.turn == some n)

/-- R269: whether rendition raster r is 4:2:2. -/
def Chip.rend422 (c : Chip) (r : Nat) : Bool :=
  match c.rendScaler r with
  | some k => c.on R.CMP_SCLCFG_OUT422 k
  | none => false

/-- The picture of a source for Turn n. A decode stream's Turn with no decoded picture shows its substitute (R252, R276). -/
def Chip.srcPic (c : Chip) (s : PicSrc) (n : Nat) : WrPic :=
  match s.kind with
  | 0 => (c.flowPic s.num n).getD {}
  | 1 => (c.decPic s.num n).getD { c.decSubst s.num with turn := none }
  | _ => (c.rendPic s.num n).getD {}

/-- R263, R264: the view of a source that a reader in plane rp takes in its present Turn. -/
def Chip.srcView (c : Chip) (s : PicSrc) (rp : Nat) : View :=
  let n := c.sourceTurn rp (c.srcPlane s)
  let pic := c.srcPic s n
  match s.kind with
  | 0 =>
    let (w, h) := rasterSize (c.get R.ING_FLOWCFG_RASTER s.num)
    viewOf (c.on R.ING_FLOWCFG_CHROMA s.num) w h s.num pic
  | 1 =>
    let (w, h) := rasterSize (c.get R.DEC_DSCFG_RASTER s.num)
    let v := viewOf (c.on R.DEC_DSCFG_CHROMA s.num) w h (decMarkId s.num) pic
    if pic.turn.isNone then { v with bad := fun _ => false } else v
  | _ =>
    let d := tget {} c.tables.rends s.num
    viewOf (c.rend422 s.num) d.width d.height (0x0400 + s.num) pic

/-- A crop rectangle of a view (R263). -/
def View.crop (v : View) (x y w h : Nat) : View :=
  let cy := if v.ch = v.h then y else y / 2
  { w := w, h := h, ch := if v.ch = v.h then h else h / 2,
    y := fun l => ((v.y (y + l)).drop x).take w,
    cb := fun l => ((v.cb (cy + l)).drop (x / 2)).take (w / 2),
    cr := fun l => ((v.cr (cy + l)).drop (x / 2)).take (w / 2),
    bad := fun l => v.bad (y + l) }

/-! ### Scaling (R266, R267) -/

/-- Number of halvings of an axis: while the source is more than twice the destination, at most twice (R266). -/
def halvings (src dst : Nat) : Nat := if 2 * dst < src then (if 2 * dst < (src + 1) / 2 then 2 else 1) else 0

/-- Size of an axis after halvings that keep the even positions. -/
def halved : Nat → Nat → Nat
  | 0, n => n
  | k + 1, n => halved k ((n + 1) / 2)

/-- The filter (1, 2, 1) / 4, rounded to the nearest. -/
def tap121 (a b d : Nat) : Nat := (a + 2 * b + d + 2) / 4

/-- A row halved once, edge samples repeated. -/
def halveRow (r : List Nat) : List Nat :=
  (List.range ((r.length + 1) / 2)).map (fun i =>
    let b := r.getD (2 * i) 0
    tap121 (if i = 0 then b else r.getD (2 * i - 1) 0) b (r.getD (2 * i + 1) b))

/-- A row halved k times. -/
def halveRowN : Nat → List Nat → List Nat
  | 0, r => r
  | k + 1, r => halveRowN k (halveRow r)

/-- R266: the taps of output position x: their clamped source positions and the phase. -/
def scaleTaps (n src dst x : Nat) : List Nat × Nat :=
  let step := src * 65536 / max dst 1
  let pos : Int := ((2 * x + 1) * step / 2 : Nat) - 32768
  let i := pos / 65536
  ((List.range n).map (fun t => (clampI (i - (n / 2 : Nat) + 1 + t) 0 (src - 1 : Nat)).toNat), (pos / 1024 % 64).toNat)

/-- R266: the filtered sample of taps under the coefficients of a phase, `off` words into a coefficient set. -/
def scaleSample (coef : List Int) (off n ph : Nat) (samples : List Nat) : Nat :=
  let acc := ((List.range n).map (fun t => coef.getD (off + ph * n + t) 0 * (samples.getD t 0 : Int))).sum
  (clampI ((acc + 128) / 256) 0 1023).toNat

/-- R266, R267: a row scaled horizontally to `dst` samples. -/
def scaleRow (coef : List Int) (off n dst : Nat) (row : List Nat) : List Nat :=
  let r := halveRowN (halvings row.length dst) row
  (List.range dst).map (fun x =>
    let (ix, ph) := scaleTaps n r.length dst x
    scaleSample coef off n ph (ix.map (fun i => r.getD i 0)))

/-- Row i of a plane whose rows have been halved k times vertically. -/
def halvedRow (rows : Nat → List Nat) (h : Nat) : Nat → Nat → List Nat
  | 0, i => rows (min i (h - 1))
  | k + 1, i =>
    let top := halved k h - 1
    let b := halvedRow rows h k (min (2 * i) top)
    let a := if i = 0 then b else halvedRow rows h k (2 * i - 1)
    let d := if 2 * i + 1 ≤ top then halvedRow rows h k (2 * i + 1) else b
    (List.range b.length).map (fun j => tap121 (a.getD j 0) (b.getD j 0) (d.getD j 0))

/-- R266: row y of a plane of h rows scaled to dw × dh: horizontally, then vertically. `hOff`, `vOff`, `nh`, `nv` are the
places of the horizontal and vertical coefficients in the set and their taps. -/
def scaledRow (coef : List Int) (hOff nh vOff nv : Nat) (rows : Nat → List Nat) (h dw dh y : Nat) : List Nat :=
  let k := halvings h dh
  let (ix, ph) := scaleTaps nv (halved k h) dh y
  let rs := ix.map (halvedRow (fun i => scaleRow coef hOff nh dw (rows i)) h k)
  (List.range dw).map (fun x => scaleSample coef vOff nv ph (rs.map (fun r => r.getD x 0)))

/-- R275: the source lines that the vertical window of output line y of an axis reads. -/
def windowLines (nv src dst y : Nat) : List Nat :=
  let k := halvings src dst
  let reach := 2 ^ k - 1
  ((scaleTaps nv (halved k src) dst y).1.flatMap (fun i => range' (2 ^ k * i - reach) (2 ^ k * i + reach + 1))).filter (· < src)

/-- R266: a view scaled to dw × dh with chroma rows dch. -/
def View.scale (v : View) (coef : List Int) (dw dh dch : Nat) : View :=
  { w := dw, h := dh, ch := dch,
    y := fun l => scaledRow coef coefLH 8 coefLV 6 v.y v.h dw dh l,
    cb := fun l => scaledRow coef coefCH 4 coefCV 4 v.cb v.ch (dw / 2) dch l,
    cr := fun l => scaledRow coef coefCH 4 coefCV 4 v.cr v.ch (dw / 2) dch l,
    bad := fun l => (windowLines 6 v.h dh l).any v.bad ||
      (windowLines 4 v.ch dch (if dch = dh then l else l / 2)).any (fun r =>
        if v.ch = v.h then v.bad r else v.bad (2 * r) || v.bad (2 * r + 1)) }

/-- R268: the coefficients in the bank that scaler k uses. -/
def Chip.sclCoef (c : Chip) (k : Nat) : List Int := tget [] c.cmp.banks (2 * k + c.get R.CMP_SCLSTAT_BANK k)

/-! ### Colour (R270, R271) -/

/-- R270: a chroma row brought to full width: even positions copy, odd ones interpolate, edges repeated, clipped. -/
def chromaUp (r : List Nat) : List Nat :=
  let m := r.length - 1
  let at_ (i : Int) : Int := (r.getD (clampI i 0 m).toNat 0 : Nat)
  (List.range (2 * r.length)).map (fun j =>
    let i : Int := (j / 2 : Nat)
    if j % 2 = 0 then (at_ i).toNat
    else (clampI ((-(at_ (i - 1)) + 9 * at_ i + 9 * at_ (i + 1) - at_ (i + 2) + 8) / 16) 0 1023).toNat)

/-- R270: row l of a chroma plane at full size. -/
def View.chromaRow (v : View) (plane : Nat → List Nat) (l : Nat) : List Nat :=
  if v.ch = v.h then chromaUp (plane l)
  else
    let k := l / 2
    let here := chromaUp (plane k)
    let other := chromaUp (plane (if l % 2 = 0 then k - 1 else min (k + 1) (v.ch - 1)))
    (List.range here.length).map (fun j => min 1023 ((other.getD j 0 + 3 * here.getD j 0 + 2) / 4))

/-- R270: row l of a view at 12 bits, 4:4:4. -/
def View.row444 (v : View) (l : Nat) : List (Nat × Nat × Nat) :=
  let y := v.y l
  let cb := v.chromaRow v.cb l
  let cr := v.chromaRow v.cr l
  (List.range v.w).map (fun x => (4 * y.getD x 0, 4 * cb.getD x 0, 4 * cr.getD x 0))

/-- R271: a matrix: out[i] = clamp(((Σ m[i][j] × (in[j] + a[j]) + 2048) >> 12) + b[i], 0, 4095), in 32-bit arithmetic. -/
def applyMatrix (m : List Int) (p : Nat × Nat × Nat) : Nat × Nat × Nat :=
  let wrap (x : Int) : Int := ofField 32 (toField 32 x)
  let v : List Int := [p.1, p.2.1, p.2.2]
  let out (i : Nat) : Nat :=
    let s := ((List.range 3).map (fun j => m.getD (3 * i + j) 0 * (v.getD j 0 + m.getD (9 + j) 0))).sum
    (clampI (wrap (s + 2048) / 4096 + m.getD (12 + i) 0) 0 4095).toNat
  (out 0, out 1, out 2)

/-- R271: a LUT of three components. -/
def applyLut (l : List Nat) (p : Nat × Nat × Nat) : Nat × Nat × Nat :=
  let one (k v : Nat) : Nat :=
    (l.getD (1025 * k + v / 4) 0 * (4 - v % 4) + l.getD (1025 * k + v / 4 + 1) 0 * (v % 4) + 2) / 4
  (one 0 p.1, one 1 p.2.1, one 2 p.2.2)

/-- R271: a conversion set: IN, LUT A, MID, LUT B, OUT. -/
def applyConv (s : ConvSet) (p : Nat × Nat × Nat) : Nat × Nat × Nat :=
  applyMatrix s.mout (applyLut s.lutB (applyMatrix s.mmid (applyLut s.lutA (applyMatrix s.min p))))

/-! ### Layers and blending (R272–R274) -/

/-- R272: acc = (A × L + (256 − A) × acc + 128) >> 8 of one component. -/
def blend1 (a l acc : Nat) : Nat := (a * l + (256 - a) * acc + 128) / 256

/-- R272: a pixel blended over the accumulator. -/
def blend (a : Nat) (l acc : Nat × Nat × Nat) : Nat × Nat × Nat :=
  (blend1 a l.1 acc.1, blend1 a l.2.1 acc.2.1, blend1 a l.2.2 acc.2.2)

/-- The index of video layer v or graphic layer g of output o in the layer register arrays (R280, R282). -/
def layIx (o v : Nat) : Nat := 32 * o + v

/-- A colour register as a 12-bit pixel: its 10-bit components shifted left by 2 (R272). -/
def Chip.colour12 (c : Chip) (y cb cr : Fld) (o : Nat) : Nat × Nat × Nat := (4 * c.get y o, 4 * c.get cb o, 4 * c.get cr o)

/-- R281: whether video layer v of output o is composed. -/
def Chip.layerOn (c : Chip) (o v : Nat) : Bool :=
  c.on R.CMP_LAYCFG_EN (layIx o v) && decide (c.get R.CMP_LAYCFG_SRCTYPE (layIx o v) < 3)

/-- R263, R265: the view that video layer v of output o shows: the crop of its source, scaled to the destination where the
sizes differ by the scaler it names. -/
def Chip.layerView (c : Chip) (o v : Nat) : View :=
  let i := layIx o v
  let src : PicSrc := { kind := c.get R.CMP_LAYCFG_SRCTYPE i, num := c.get R.CMP_LAYCFG_SRC i }
  let cw := c.get R.CMP_CROPWH_W i
  let chh := c.get R.CMP_CROPWH_H i
  let dw := c.get R.CMP_DSTWH_W i
  let dh := c.get R.CMP_DSTWH_H i
  let view := (c.srcView src (c.get R.CMP_OUTCFG_PLANE o)).crop (c.get R.CMP_CROPXY_X i) (c.get R.CMP_CROPXY_Y i) cw chh
  let k := c.get R.CMP_LAYCFG_SCALER i
  if cw = dw ∧ chh = dh ∨ 24 ≤ k then view
  else view.scale (c.sclCoef k) dw dh (if view.ch = view.h then dh else dh / 2)

/-- R270–R272, R275: video layer v of output o blended over a line; whether its window includes a failed line. -/
def Chip.blendLayer (c : Chip) (o v line : Nat) (ecc : Bool) (acc : List (Nat × Nat × Nat)) :
    List (Nat × Nat × Nat) × Bool :=
  let i := layIx o v
  let dx := c.get R.CMP_DSTXY_X i
  let dy := c.get R.CMP_DSTXY_Y i
  let dw := c.get R.CMP_DSTWH_W i
  if !c.layerOn o v || decide (line < dy) || decide (dy + c.get R.CMP_DSTWH_H i ≤ line) then (acc, false)
  else
    let view := c.layerView o v
    let failed := ecc || view.bad (line - dy)
    let conv := c.get R.CMP_LAYCFG_CONV i
    let row := if failed then List.replicate dw (c.colour12 R.CMP_ERRFILL_Y R.CMP_ERRFILL_CB R.CMP_ERRFILL_CR o)
      else (view.row444 (line - dy)).map (fun p =>
        if conv < 4 then applyConv (tget {} c.tables.convs (4 * o + conv)) p else p)
    let a := if failed then 256 else min 256 (c.get R.CMP_LAYCFG_ALPHA i)
    (acc.mapIdx (fun x p => if dx ≤ x ∧ x < dx + dw then blend a (row.getD (x - dx) p) p else p), failed)

/-- R272, R273: graphic layer g of output o blended over a line. -/
def Chip.blendGraphic (c : Chip) (o g line : Nat) (acc : List (Nat × Nat × Nat)) : List (Nat × Nat × Nat) :=
  let i := layIx o g
  let dx := c.get R.CMP_GFXXY_X i
  let dy := c.get R.CMP_GFXXY_Y i
  let dw := c.get R.CMP_GFXWH_W i
  if !c.on R.CMP_GFXSTAT_VISIBLE i || decide (line < dy) || decide (dy + c.get R.CMP_GFXWH_H i ≤ line) then acc
  else
    let s := tget {} c.tables.surfaces (c.get R.CMP_SURFACE i)
    let word (l : List Byte) (k : Nat) : Nat := leAt l (4 * k) 4
    let pixel (x : Nat) : Nat :=
      let k := (line - dy) * s.width + x
      if c.on R.CMP_GFXCFG_FMT i then word s.palette (leAt s.pixels k 1) else word s.pixels k
    acc.mapIdx (fun x p =>
      if dx ≤ x ∧ x < dx + dw then
        let q := pixel (x - dx)
        let al := bits q 31 24
        blend (al + al / 128) (16 * bits q 23 16, 16 * bits q 15 8, 16 * bits q 7 0) p
      else p)

/-- R274: a 12-bit sample rounded to 10 bits and clipped. -/
def outSample (full luma : Bool) (v : Nat) : Nat :=
  let r := (v + 2) / 4
  if full then min 1023 r else max 64 (min (if luma then 940 else 960) r)

/-- R274: the output stage: chroma reduced to cosited 4:2:2, samples rounded and clipped, packed as a 4:2:2 line. -/
def outputLine (full : Bool) (acc : List (Nat × Nat × Nat)) : List Byte :=
  let red (f : Nat × Nat × Nat → Nat) (i : Nat) : Nat :=
    let b := f (acc.getD (2 * i) (0, 0, 0))
    let a := if i = 0 then b else f (acc.getD (2 * i - 1) (0, 0, 0))
    let d := f (acc.getD (2 * i + 1) (acc.getD (2 * i) (0, 0, 0)))
    tap121 a b d
  (List.range (acc.length / 2)).flatMap (fun i =>
    pack10 (outSample full false (red (·.2.1) i)) (outSample full true (acc.getD (2 * i) (0, 0, 0)).1)
      (outSample full false (red (·.2.2) i)) (outSample full true (acc.getD (2 * i + 1) (0, 0, 0)).1))

/-- R279: whether output o is composed: 8K is not on a plane above 60 Hz. -/
def Chip.outOn (c : Chip) (o : Nat) : Bool :=
  let r := c.rateOf (c.get R.CMP_OUTCFG_PLANE o)
  c.on R.CMP_OUTCFG_EN o && !(c.get R.CMP_OUTCFG_RASTER o == 3 && decide (60 * r.2 < r.1))

/-- A stored line put into the newest picture of a ring, which starts at the first line of a Turn. -/
def ringLine (depth n : Nat) (ring : List WrPic) (line : Nat) (o : LineOut) : List WrPic :=
  match ring with
  | p :: t =>
    if p.turn = some n then { p with lines := tset {} p.lines line o } :: t
    else ({ turn := some n, lines := tset {} [] line o } :: p :: t).take depth
  | [] => [{ turn := some n, lines := tset {} [] line o }]

/-- R262, R272–R276: line `line` of output o for the present Turn is blended from its layers and written with its mark.
`ecc` names the video layers whose window an uncorrectable error falls in. -/
def Chip.composeLine (c : Chip) (o line : Nat) (ecc : List Nat) : Chip :=
  if !c.outOn o then c
  else
    let p := c.get R.CMP_OUTCFG_PLANE o
    let n := c.turn p
    let (w, h) := rasterSize (c.get R.CMP_OUTCFG_RASTER o)
    if h ≤ line then c
    else
      let bg := List.replicate w (c.colour12 R.CMP_BGCOLOUR_Y R.CMP_BGCOLOUR_CB R.CMP_BGCOLOUR_CR o)
      let (acc, failed) := (List.range 16).foldl (fun (a : List (Nat × Nat × Nat) × List Nat) v =>
        let (l, f) := c.blendLayer o v line (decide (v ∈ ecc)) a.1
        (l, if f then a.2 ++ [v] else a.2)) (bg, [])
      let acc := (List.range 8).foldl (fun a g => c.blendGraphic o g line a) acc
      let bytes := outputLine (c.on R.CMP_OUTCFG_RANGE o) acc
      let f := c.get R.CMP_OUTCFG_FLOW o
      let out : LineOut := { bytes := bytes, mark := lineMark f line (n % 2 ^ 32) bytes }
      let c := { c with cmp := { c.cmp with outs := tset [] c.cmp.outs o (ringLine 3 n (tget [] c.cmp.outs o) line out) } }
      let c := c.set R.CMP_OUTSTAT_RUNNING o 1
      let c := c.each (List.range 16) (fun c v => c.setB R.CMP_LAYSTAT_SHOWN (layIx o v) (c.layerOn o v))
      let c := c.each failed (fun c v => c.bump R.CMP_LAYSTAT_FILLED (layIx o v))
      c.when (!failed.isEmpty) (fun c => ((c.set R.CMP_OUTSTAT_MARKFLT o 1).bump R.CMP_OUTSTAT_MARKLINES o).fault 1 1 18 blkCmp
        (if failed.any (fun v => decide (v ∈ ecc)) then 0x02 else 0x01) o (some p))

/-- R273: whether the visibility source of graphic layer g of output o shows it. -/
def Chip.visible (c : Chip) (o g : Nat) : Bool :=
  let i := layIx o g
  let a := c.get R.CMP_GFXCFG_VISARG i
  let pin := bit (c.get R.SVC_EVIN (a / 32 % 3)) (a % 32)
  c.on R.CMP_GFXCFG_EN i && (match c.get R.CMP_GFXCFG_VISSRC i with
    | 0 => true
    | 2 => pin
    | 3 => !pin
    | 4 => !c.on R.ING_FLOWSTAT_JOINED a
    | 5 => c.on R.DEC_DSSTAT_CONCEALING (a % 16)
    | _ => false)

/-- R273: at a Turn boundary of plane p the visibility of its outputs' graphic layers is sampled. -/
def Chip.sampleVisibility (c : Chip) (p : Nat) : Chip :=
  c.each ((List.range 4).filter (fun o => c.outOn o && c.get R.CMP_OUTCFG_PLANE o == p)) (fun c o =>
    c.each (List.range 8) (fun c g => c.setB R.CMP_GFXSTAT_VISIBLE (layIx o g) (c.visible o g)))

/-! ### Scale jobs (R265, R268, R269) -/

/-- A line of a view packed as R96 packs it: a 4:2:2 line, or the pair of a 4:2:0 raster. -/
def View.packLine (v : View) (line : Nat) : List Byte :=
  if v.ch = v.h then
    let y := v.y line
    let cb := v.cb line
    let cr := v.cr line
    (List.range (v.w / 2)).flatMap (fun i => pack10 (cb.getD i 0) (y.getD (2 * i) 0) (cr.getD i 0) (y.getD (2 * i + 1) 0))
  else
    let y := v.y line
    let z := v.y (line + 1)
    let cb := v.cb (line / 2)
    let cr := v.cr (line / 2)
    let s := (List.range (v.w / 2)).flatMap (fun i =>
      [y.getD (2 * i) 0, y.getD (2 * i + 1) 0, z.getD (2 * i) 0, z.getD (2 * i + 1) 0, cb.getD i 0, cr.getD i 0])
    packSamples s.length s

/-- R265, R266, R269, R275: scaler k produces line `line` (the even line of a 4:2:0 pair) of its job in the present Turn. A
layer's scaled lines are taken by the compositor as it blends; a rendition's lines are marked, written and analysed. -/
def Chip.scaleLine (c : Chip) (k line : Nat) (ecc : Bool) : Chip :=
  if !c.on R.CMP_SCLCFG_EN k then c
  else
    let p := c.get R.CMP_SCLCFG_PLANE k
    let n := c.turn p
    let fail (c : Chip) : Chip := (c.set R.CMP_SCLSTAT_MARKFLT k 1).fault 1 1 18 blkCmp (if ecc then 0x02 else 0x01) k (some p)
    if !c.on R.CMP_SCLCFG_USE k then
      -- a layer job: the layer that names this scaler
      match ((List.range 4).flatMap (fun o => (List.range 16).map (fun v => (o, v)))).find? (fun e =>
          c.layerOn e.1 e.2 && c.get R.CMP_LAYCFG_SCALER (layIx e.1 e.2) == k) with
      | none => c
      | some (o, v) =>
        let last := decide (c.get R.CMP_DSTWH_H (layIx o v) ≤ line + 1)
        let c := c.when ecc fail
        let c := c.setB R.CMP_SCLSTAT_BUSY k (!last)
        c.when last (·.bump R.CMP_JOBCNT k)
    else
      let r := c.get R.CMP_SCLCFG_RND k
      let d := tget {} c.tables.rends r
      let is422 := c.on R.CMP_SCLCFG_OUT422 k
      let view := (c.srcView d.src p).scale (c.sclCoef k) d.width d.height (if is422 then d.height else d.height / 2)
      let bad := ecc || view.bad line || (!is422 && view.bad (line + 1))
      let black := blackLine is422 false (if is422 then d.width * 5 / 2 else d.width * 15 / 4)
      let bytes := if bad then black else view.packLine line
      let o : LineOut := { bytes := bytes, mark := lineMark (0x0400 + r) line (n % 2 ^ 32) bytes, subst := bad, black := bad }
      let ring := ringLine 3 n (tget [] c.cmp.rends r) line o
      let ring := match ring with
        | q :: t => analyseLine is422 d.width d.height (c.get R.ING_PASCN_RATIO p) (c.get R.ING_PASCN_SCFLOOR p)
            (c.get R.ING_PASCN_SCMIN p) ((t.head?).getD {}) q line :: t
        | [] => []
      let c := ({ c with cmp := { c.cmp with rends := tset [] c.cmp.rends r ring } }).storeLine d.store is422 d.width d.height n line
        ((ring.head?).getD {})
      let last := decide (d.height ≤ line + (if is422 then 1 else 2))
      let c := c.setB R.CMP_SCLSTAT_BUSY k (!last)
      let c := c.when bad fail
      c.when last (·.bump R.CMP_JOBCNT k)

/-- R268: a variant delta stages the coefficient set of scaler k into its shadow bank. -/
def Chip.stageCoef (c : Chip) (k : Nat) (coef : List Int) : Chip :=
  let b := 1 - c.get R.CMP_SCLSTAT_BANK k
  ({ c with cmp := { c.cmp with banks := tset [] c.cmp.banks (2 * k + b) coef } }).set R.CMP_SCLSTAT_SHADOWRDY k 1

/-- R268: at the pointer swap the bank of a scaler whose shadow is ready flips. -/
def Chip.flipBank (c : Chip) (k : Nat) : Chip :=
  if c.on R.CMP_SCLSTAT_SHADOWRDY k then
    (c.set R.CMP_SCLSTAT_BANK k (1 - c.get R.CMP_SCLSTAT_BANK k)).set R.CMP_SCLSTAT_SHADOWRDY k 0
  else c

end Sys2Proof.Machine
end

