-- ==== Sys2Proof/Machine/Lane.lean ====
section
/-! DEFINITION. Encode lanes: channel slots and picture structures, the four row stages, the guard candidate and the caps,
self-checking reconstruction, bitstream marks, lane faults and refresh pictures (Encode Lanes). A slot belongs to a plan column: its
configuration stands in the block of the lane of that number, and what it reports in the block of the lane that serves the column. A
slot's register block is counted as 0x800 × lane + slot in strides of 0x20. -/

namespace Sys2Proof.Machine

/-! ### Channel slots (R124, R157, R163, R169) -/

/-- The index of channel slot k of lane n in the slot register arrays (R168). -/
def slotIx (n k : Nat) : Nat := 0x800 * n + k

/-- The run of channel slot k of plan column pc. -/
def Chip.laneSlot (c : Chip) (pc k : Nat) : SlotRun := tget {} c.lanes.slots (16 * pc + k)

/-- The run of a channel slot replaced. -/
def Chip.setLaneSlot (c : Chip) (pc k : Nat) (v : SlotRun) : Chip :=
  { c with lanes := { c.lanes with slots := tset {} c.lanes.slots (16 * pc + k) v } }

/-- R163: whether the lane of plan column pc carries work: enabled, and not disabled by the reserved SHAREMODE. -/
def Chip.laneOn (c : Chip) (pc : Nat) : Bool := c.on R.LANE_LANECFG_EN pc && decide (c.get R.LANE_LANECFG_SHAREMODE pc ≠ 3)

/-- R169: whether slot k of plan column pc codes a channel; reserved CODEC and PROFILE codes keep it disabled. -/
def Chip.slotOn (c : Chip) (pc k : Nat) : Bool :=
  let i := slotIx pc k
  let codec := c.get R.LANE_CHCFG_CODEC i
  let prof := c.get R.LANE_CHCFG_PROFILE i
  c.laneOn pc && c.on R.LANE_CHCFG_EN i && ((codec == 0 && decide (prof < 3)) || (codec == 1 && decide (prof < 2)))

/-- R169: encode channel context of a slot. -/
def Chip.slotChan (c : Chip) (pc k : Nat) : Nat := c.get R.LANE_CHCFG_CHID (slotIx pc k)

/-- R169: whether a slot's codec is VVC. -/
def Chip.slotVvc (c : Chip) (pc k : Nat) : Bool := c.get R.LANE_CHCFG_CODEC (slotIx pc k) == 1

/-- Every slot that codes a channel, as (plan column, slot): each share of it (R162). -/
def Chip.slotsOf (c : Chip) (ch : Nat) : List (Nat × Nat) :=
  ((List.range 16).flatMap (fun pc => (List.range 16).map (fun k => (pc, k)))).filter
    (fun (pc, k) => c.slotOn pc k && c.slotChan pc k == ch)

/-- R180: the slot that leads a channel: its share in the lowest-numbered column. -/
def Chip.leadSlot (c : Chip) (ch : Nat) : Nat × Nat := ((c.slotsOf ch).head?).getD (0, 0)

/-- R553: plan column pc is shed. -/
def Chip.pcShed (c : Chip) (pc : Nat) : Bool := bit (c.get R.SAF_SHEDSTAT) pc

/-- R157, R169: the channels of which plan column pc holds a share. -/
def Chip.planChans (c : Chip) (pc : Nat) : List Nat :=
  if c.loaded pc then
    ((List.range 16).filter (fun k => c.on R.LANE_CHCFG_EN (slotIx pc k))).map (fun k => c.slotChan pc k)
  else []

/-- R553: a channel stops while a plan column that holds a share of it is shed. -/
def Chip.chanShed (c : Chip) (ch : Nat) : Bool :=
  c.get R.SAF_SHEDSTAT != 0 && (List.range 16).any (fun pc => c.pcShed pc && (c.planChans pc).contains ch)

/-- R553: the units of plan column pc run idle: it is shed, or it holds a share of a channel that has stopped. -/
def Chip.pcIdle (c : Chip) (pc : Nat) : Bool :=
  c.pcShed pc || (c.get R.SAF_SHEDSTAT != 0 && (c.planChans pc).any c.chanShed)

/-- The settings of an encode channel context (R172). -/
def Chip.chanDef (c : Chip) (ch : Nat) : ChanDef := tget {} c.tables.chans ch

/-! ### Shares and slices (R125–R127) -/

/-- R169: coded luma size of a slot's channel. -/
def Chip.slotSize (c : Chip) (pc k : Nat) : Nat × Nat := rasterSize (c.get R.LANE_CHCFG_RASTER (slotIx pc k))

/-- R125: CTU size of a slot's channel. -/
def Chip.slotCtu (c : Chip) (pc k : Nat) : Nat := ctuSize (c.slotVvc pc k)

/-- CTU columns and rows of a slot's picture. -/
def Chip.slotGrid (c : Chip) (pc k : Nat) : Nat × Nat :=
  (ceilDiv (c.slotSize pc k).1 (c.slotCtu pc k), ceilDiv (c.slotSize pc k).2 (c.slotCtu pc k))

/-- R126, R163: shares of the channel on plan column pc; a lane of whole channels or row shares has each row whole. -/
def Chip.shareCols (c : Chip) (pc k : Nat) : List Nat :=
  if c.get R.LANE_LANECFG_SHAREMODE pc = 1 then shareWidths (c.slotGrid pc k).1 (c.get R.LANE_LANECFG_SHARES pc + 1)
  else [(c.slotGrid pc k).1]

/-- R126: which of those shares plan column pc codes. -/
def Chip.sharePos (c : Chip) (pc : Nat) : Nat :=
  if c.get R.LANE_LANECFG_SHAREMODE pc = 1 then c.get R.LANE_LANECFG_SHAREIDX pc else 0

/-- R152, R163: the share index of plan column pc. -/
def Chip.shareIdx (c : Chip) (pc : Nat) : Nat :=
  if c.get R.LANE_LANECFG_SHAREMODE pc = 0 then 0 else c.get R.LANE_LANECFG_SHAREIDX pc

/-- CTUs in the slice of a row of the lane's share of a channel (R125, R126). -/
def Chip.sliceCtus (c : Chip) (pc k : Nat) : Nat := (c.shareCols pc k).getD (c.sharePos pc) 0

/-- R126: CTU columns of the picture left of the share. -/
def Chip.shareLeft (c : Chip) (pc k : Nat) : Nat := ((c.shareCols pc k).take (c.sharePos pc)).sum

/-- R127: whether plan column pc codes CTU row r of its slot's channel. -/
def Chip.ownsRow (c : Chip) (pc k r : Nat) : Bool :=
  let rows := (c.slotGrid pc k).2
  if c.get R.LANE_LANECFG_SHAREMODE pc = 2 then
    (shareRows rows (c.get R.LANE_LANECFG_SHARES pc + 1) (c.get R.LANE_LANECFG_SHAREIDX pc)).contains r
  else decide (r < rows)

/-- R145: luma samples that a CTU of the share holds, and those of a full CTU. -/
def Chip.ctuSamples (c : Chip) (pc k r x : Nat) : Nat × Nat :=
  let (w, h) := c.slotSize pc k
  let n := c.slotCtu pc k
  (min n (w - n * (c.shareLeft pc k + x)) * min n (h - n * r), n * n)

/-- CTU rows of a channel's picture (R171). -/
def Chip.chanRows (c : Chip) (ch : Nat) : Nat := let (pc, k) := c.leadSlot ch; (c.slotGrid pc k).2

/-- Whether a channel's codec is VVC. -/
def Chip.chanVvc (c : Chip) (ch : Nat) : Bool := let (pc, k) := c.leadSlot ch; c.slotVvc pc k

/-- R126: CTUs of each slice of a row of a channel. -/
def Chip.chanShares (c : Chip) (ch : Nat) : List Nat := let (pc, k) := c.leadSlot ch; c.shareCols pc k

/-! ### Refresh pictures (R162) -/

/-- R162: a refresh picture is ordered for a channel, in every share, for a cause of Turn t. -/
def Chip.orderRefreshAt (c : Chip) (ch t : Nat) : Chip :=
  c.each (c.slotsOf ch) (fun c (pc, k) =>
    let s := c.laneSlot pc k
    c.setLaneSlot pc k { s with refresh := if t ∈ s.refresh then s.refresh else s.refresh ++ [t] })

/-- R162: a refresh picture is ordered for a cause that arises in the present Turn. -/
def Chip.orderRefresh (c : Chip) (ch : Nat) : Chip := c.orderRefreshAt ch (c.turn (c.chanDef ch).plane)

/-- R162: a refresh picture is ordered at a boundary, for the Turn that begins. -/
def Chip.orderRefreshNow (c : Chip) (ch : Nat) : Chip :=
  c.orderRefreshAt ch ((c.turn (c.chanDef ch).plane + (2 ^ 40 - 1)) % 2 ^ 40)

/-! ### Faults (R159, R165, R166) -/

/-- R164: the status bit of a lane fault's cause. -/
def laneFaultBit : Nat → Fld
  | 1 => R.LANE_LANESTAT_DIVFLT
  | 2 => R.LANE_LANESTAT_DUPFLT
  | 3 => R.LANE_LANESTAT_INMARK
  | 4 => R.LANE_LANESTAT_REFMARK
  | _ => R.LANE_LANESTAT_ECCFLT

/-- R165: the record of lane n takes a fault. CTUX of a fault that no one CTU shows (a whole line's mark) is recorded as 0 (log entry
126). -/
def Chip.laneRecord (c : Chip) (n pc cause slot row ctux cyc : Nat) : Chip :=
  let c := (c.set R.LANE_FAULTREC_VALID n 1).set R.LANE_FAULTREC_CAUSE n cause
  let c := (c.set R.LANE_FAULTREC_CHAN n slot).set R.LANE_FAULTREC_ROW n row
  let c := (c.set R.LANE_FAULTREC_CTUX n ctux).set R.LANE_FAULTREC_TURNLSB n (c.turn (c.get R.LANE_LANECFG_PLANE pc))
  { c with lanes := { c.lanes with recAt := tset 0 c.lanes.recAt n cyc } }

/-- R165, R166: the record is held while VALID is 1, and later faults set MORE; of two faults of one ENG cycle it takes the lower
cause. -/
def Chip.laneRecordFault (c : Chip) (n pc cause slot row ctux cyc : Nat) : Chip :=
  if c.on R.LANE_FAULTREC_VALID n then
    let lower := tget 0 c.lanes.recAt n == cyc && decide (cause < c.get R.LANE_FAULTREC_CAUSE n)
    (c.when lower (·.laneRecord n pc cause slot row ctux cyc)).set R.LANE_FAULTREC_MORE n 1
  else c.laneRecord n pc cause slot row ctux cyc

/-- R159, R164–R166: a lane fault detected in an ENG cycle: its status bit, the record, and its report, level 2 where it makes the
column faulty and 1 otherwise. -/
def Chip.laneFault (c : Chip) (n pc cause slot row ctux cyc : Nat) : Chip :=
  let c := c.set (laneFaultBit cause) n 1
  let c := c.laneRecordFault n pc cause slot row ctux cyc
  let faulty := cause == 1 || cause == 2 || cause == 5
  c.fault (if faulty then 2 else 1) (if cause == 5 then 3 else 1) n blkLane cause n (some (c.get R.LANE_LANECFG_PLANE pc))

/-! ### Pictures (R139–R143, R156, R162) -/

/-- R139, R156: whether picture j since the start of the last period, in a period of `period` pictures, starts the next. The spec gives no
period for REFRESH or IRAPINT 0; they act as 1 (log entry 127). -/
def periodEnds (period since : Nat) : Bool := decide (max period 1 ≤ since + 1)

/-- R139: the type the picture structure gives the next picture, and whether it is an IRAP picture or starts a GDR period. GOP 3 acts
as 1 (R169). -/
def nextPicture (gop refresh irapint : Nat) (vvc : Bool) (r : SlotRun) : PicType × Bool :=
  if !r.begun then (.idr, true)
  else match gop with
    | 0 => if periodEnds refresh r.since then ((if vvc then .gdr else .trail), true) else (.trail, false)
    | 2 => (.cra, true)
    | _ => if periodEnds irapint r.since then (.cra, true) else (.trail, false)

/-- R162: a refresh picture follows a cause of an earlier Turn. -/
def SlotRun.refreshDue (r : SlotRun) (now : Nat) : Bool := r.refresh.any (· != now)

/-- R160, R162: the type of a slot's next picture, of type `ty` in its structure: a refresh picture is a CRA, and one that falls on a
scheduled IRAP is that IRAP. -/
def SlotRun.nextType (r : SlotRun) (now : Nat) (ty : PicType) : PicType :=
  if r.refreshDue now ∧ ty.intra = false then PicType.cra else ty

/-- R137, R140: the reference picture that a picture will be. -/
def SlotPic.asRef (q : SlotPic) (gop cols period : Nat) : RefPic :=
  { turn := q.turn, poc := q.poc, irap := q.ptype.intra, period := q.poc - q.gdrIdx,
    clean := if q.ptype.intra ∨ gop ≠ 0 ∨ period = 0 then cols else (refreshColumns q.gdrIdx cols period).2 }

/-- R128, R139, R162: a slot with a picture of type `ty` of Turn `now` in P1; a refresh picture moves no period. The
first picture of a slot is picture `first` of its period. -/
def SlotRun.start (r : SlotRun) (now : Nat) (ty : PicType) (starts : Bool) (first : Nat := 0) : SlotRun :=
  let isRef := r.refreshDue now
  let ty' := r.nextType now ty
  let since := if !r.begun then first else if starts then 0 else r.since + 1
  let pic : SlotPic := { turn := now, ptype := ty', starts := starts, gdrIdx := since, poc := if ty' = .idr then 0 else r.cur.poc + 1,
                         isRefresh := isRef, guard := r.cur.guard && !isRef }
  { r with begun := true, since := since, refresh := r.refresh.filter (· == now), cur := pic, old := r.cur,
           sinceBp := if ty'.intra || starts || isRef then 0 else r.sinceBp + 1,
           rowP1 := none, oldP3 := r.begun, oldP4 := r.begun }

/-- R156: the place in its period of a picture that a slot codes first: the channels of a ladder group start their periods on the same
source picture, so one that starts while another of its group runs joins that one's periods. -/
def Chip.ladderSince (c : Chip) (pc k now : Nat) : Nat :=
  let i := slotIx pc k
  let g := c.get R.LANE_CHGOP_LADDER i
  let gop := c.get R.LANE_CHCFG_GOP i
  let period := max 1 (if gop = 0 then c.get R.LANE_CHGOP_REFRESH i else if gop = 2 then 1 else c.get R.LANE_CHGOP_IRAPINT i)
  let other := ((List.range 16).flatMap (fun p => (List.range 16).map (fun j => (p, j)))).find? (fun (p, j) =>
    c.slotOn p j && c.get R.LANE_CHGOP_LADDER (slotIx p j) == g && c.slotChan p j != c.slotChan pc k && (c.laneSlot p j).begun)
  match other with
  | some (p, j) =>
    let r := c.laneSlot p j
    let (a, b) := c.rateOf (c.get R.LANE_LANECFG_PLANE p)
    let (x, y) := c.rateOf (c.get R.LANE_LANECFG_PLANE pc)
    let start := ceilDiv ((r.cur.turn - r.since) * x * b) (max 1 (a * y))
    if g = 0 ∨ now < start then 0 else (now - start) % period
  | none => 0

/-- R113, R143: the ancillary packets stored for a channel's alignment group and a Turn. -/
def Chip.chanAnc (c : Chip) (ch turn : Nat) : List AncPacket :=
  match (c.chanDef ch).group with
  | none => []
  | some g => ((List.range 1024).filter (fun f => c.flowOn f && c.flowIsAnc f && c.get R.ING_FLOWCFG_GROUP f == g)).flatMap
      (fun f => (c.flow f).ancOf turn)

/-- R137: references of the search profile of plan column pc, and its ranges. -/
def Chip.laneSearch (c : Chip) (pc : Nat) : Nat × Nat × Nat := searchProfile (c.get R.LANE_LANECFG_SPROF pc)

/-- R140: the GDR period of a slot; none under another structure. -/
def Chip.gdrPeriod (c : Chip) (pc k : Nat) : Option Nat :=
  let period := c.get R.LANE_CHGOP_REFRESH (slotIx pc k)
  if c.get R.LANE_CHCFG_GOP (slotIx pc k) ≠ 0 ∨ period = 0 then none else some period

/-- R140: the CTU columns of the share that a picture codes as intra: first, and one past the last. -/
def Chip.refreshCols (c : Chip) (pc k : Nat) (q : SlotPic) : Nat × Nat :=
  match c.gdrPeriod pc k with
  | some period => if q.ptype.intra then (0, 0) else refreshColumns q.gdrIdx (c.sliceCtus pc k) period
  | none => (0, 0)

/-- R137, R140: what a picture of a slot says of itself: in GDR the recovery point of the picture that starts a period and, in VVC, a
virtual boundary at the right edge of each share's refresh columns. -/
def Chip.picHead (c : Chip) (pc k : Nat) (q : SlotPic) (refs : List RefPic) : PicHead :=
  let vvc := c.slotVvc pc k
  let shares := c.shareCols pc k
  let gdr := c.gdrPeriod pc k
  { ptype := q.ptype, poc := q.poc,
    recovery := match gdr with
      | some p => if vvc && q.ptype = .gdr then some (p - 1) else none
      | none => none,
    boundaries := match gdr with
      | some p => if !vvc || q.ptype.intra then []
          else (List.range shares.length).map (fun j => c.slotCtu pc k * ((shares.take j).sum + (refreshColumns q.gdrIdx (shares.getD j 0) p).2))
      | none => [],
    refs := refs.map (·.poc), collocated := (refs.head?).map (·.poc) }

/-- R99: the colour description of a source, from the flow context or the Skein's channel, as codes of H.273, and its range. -/
def Chip.chanColour (c : Chip) (ch : Nat) : (Nat × Nat × Nat) × Bool :=
  let d := c.chanDef ch
  match d.src.kind with
  | 0 => let f : FlowDef := tget {} c.tables.flows d.src.num; (colourCodes f.colour, f.fullRange)
  | _ => (colourCodes d.colour, d.fullRange)

/-- R51, R99, R126, R127, R132–R136, R155: the parameter sets of a slot's channel, with the HRD of R190. -/
def Chip.paramSet (c : Chip) (pc k : Nat) (hrd : HrdSet) : ParamSet :=
  let i := slotIx pc k
  let vvc := c.slotVvc pc k
  let (w, h) := c.slotSize pc k
  let is422 := c.on R.LANE_CHCFG_CHROMA i
  let (colour, full) := c.chanColour (c.slotChan pc k)
  { vvc := vvc, profile := c.get R.LANE_CHCFG_PROFILE i, level := c.get R.LANE_CHCFG_LEVELIDC i, tier := c.on R.LANE_CHCFG_TIER i,
    width := w, height := h, is422 := is422, bits := if c.on R.LANE_CHCFG_EIGHTBIT i then 8 else 10, ctu := ctuSize vvc,
    tools := toolsOf vvc, subpics := if vvc then c.shareCols pc k else [],
    treatedAsPic := true, filterSubpics := false,
    filterSlices := !(c.get R.LANE_LANECFG_SHAREMODE pc == 2), colour := colour, fullRange := full,
    chromaLoc := if c.on R.LANE_CHCFG_IN422 i && !is422 then some 0 else none, hrd := hrd }

/-- R142, R143, R190: the NAL units that precede the first slice of a picture: access unit delimiter, parameter sets ahead of every IRAP
picture and GDR period, prefix SEI messages, and the picture header of VVC. The removal delay of a buffering period is known when DU 0
is ready (R191), and stands here as 0. -/
def Chip.headNals (c : Chip) (pc k : Nat) (r : SlotRun) (q : SlotPic) (h : PicHead) (p : ParamSet) : List HeadNal :=
  let vvc := c.slotVvc pc k
  let ch := c.slotChan pc k
  let d := c.chanDef ch
  let irap := q.ptype.intra || q.starts
  let anc := c.chanAnc ch q.turn
  let rows := (c.slotGrid pc k).2
  let sei : List SeiMsg :=
    (if irap then [.bufferingPeriod 0 0] else []) ++ [.pictureTiming r.sinceBp 1 (rows - 1)] ++
    (match c.gdrPeriod pc k with | some n => if !vvc && q.starts && !q.ptype.intra then [.recoveryPoint n] else [] | none => []) ++
    (if irap then d.mastering.toList.map .mastering ++ d.contentLight.toList.map .contentLight else []) ++
    (if (captions anc).isEmpty then [] else [.t35 (captionT35 anc)]) ++
    (if vvc then [] else (timecodes anc).map timecodeSei)
  [.aud irap] ++ (if irap then (if vvc then [] else [.vps p]) ++ [.sps p, .pps p] else []) ++ sei.map .sei ++
    (if vvc then [.pictureHeader h] else [])

/-- R137, R139, R142, R157, R160, R162: slot k of plan column pc, served by lane n, starts a picture in P1. The slot of share 0 writes the
NAL units that precede its slices. -/
def Chip.lanePicture (c : Chip) (n pc k : Nat) (hrd : HrdSet) : Chip :=
  let i := slotIx pc k
  let r := c.laneSlot pc k
  let now := c.turn (c.get R.LANE_LANECFG_PLANE pc)
  let (ty, starts) := nextPicture (c.get R.LANE_CHCFG_GOP i) (c.get R.LANE_CHGOP_REFRESH i)
    (c.get R.LANE_CHGOP_IRAPINT i) (c.slotVvc pc k) r
  let s := r.start now ty starts (c.ladderSince pc k now)
  let q := s.cur
  let refs := if q.ptype.intra then [] else refsOf (c.laneSearch pc).1 r.refs
  let p := c.paramSet pc k hrd
  let irap := q.ptype.intra || starts
  let head := if c.shareIdx pc = 0 then c.headNals pc k s q (c.picHead pc k q refs) p else []
  let me := q.asRef (c.get R.LANE_CHCFG_GOP i) (c.sliceCtus pc k) (c.get R.LANE_CHGOP_REFRESH i)
  let s := { s with cur := { q with head := head }, params := if irap then some p else s.params, refs := (me :: r.refs).take 4 }
  let c := c.setLaneSlot pc k s
  let c := c.when q.isRefresh (fun c => (c.set R.LANE_LANESTAT_REFRESH n 1).bump R.LANE_FAULTCNT_REFR (slotIx n k))
  -- R626: flows of the channel that a warm standby held back start with this picture
  c.when irap (fun c =>
    let eg := c.net.eg.map (fun e =>
      if (tget {} c.tables.egs e.1).src = .chan (c.slotChan pc k) ∧ e.2.hold = some 0 then
        (e.1, { e.2 with hold := some (c.turn (c.chanDef (c.slotChan pc k)).plane + 1) }) else e)
    { c with net := { c.net with eg := eg } })

/-! ### The pictures in the row stages (R128, R157) -/

/-- The picture of a slot that is in P1, or the one before it. -/
def SlotRun.pic (s : SlotRun) (old : Bool) : SlotPic := if old then s.old else s.cur

/-- That picture replaced. -/
def SlotRun.setPic (s : SlotRun) (old : Bool) (q : SlotPic) : SlotRun := if old then { s with old := q } else { s with cur := q }

/-- Whether the picture of Turn t is the one before the picture in P1. -/
def SlotRun.isOld (s : SlotRun) (t : Nat) : Bool := s.old.turn == t && s.cur.turn != t

/-- R157: each row passes a stage once, in ascending order: whether a row may enter a stage whose last row was `last`, on the picture
before (`old`) or the one in P1; and whether it then belongs to the picture before. -/
def enterStage (last : Option Nat) (old : Bool) (row : Nat) : Option Bool := match last with
  | none => some old
  | some l => if l < row then some old else if old then some false else none

/-- A row of a picture. -/
def SlotPic.row (q : SlotPic) (r : Nat) : RowRun := tget {} q.rows r

/-- A row of a picture replaced. -/
def SlotPic.setRow (q : SlotPic) (r : Nat) (v : RowRun) : SlotPic := { q with rows := tset {} q.rows r v }

/-- A row of the picture in P1 of a slot, or of the one before it, replaced. -/
def Chip.setRow (c : Chip) (pc k : Nat) (old : Bool) (r : Nat) (f : RowRun → RowRun) : Chip :=
  let s := c.laneSlot pc k
  let q := s.pic old
  c.setLaneSlot pc k (s.setPic old (q.setRow r (f (q.row r))))

/-- R147: a row is to be a guard row; `intra`: of intra guard candidates (R185). -/
def Chip.guardRow (c : Chip) (pc k : Nat) (old : Bool) (r : Nat) (intra : Bool := false) : Chip :=
  c.setRow pc k old r (fun v => { v with guard := true, intra := v.intra || intra })

/-- R147, R168: a guard row is counted once, when it is coded. -/
def Chip.countGuardRow (c : Chip) (n pc k : Nat) (old : Bool) (r : Nat) : Chip :=
  let q := (c.laneSlot pc k).pic old
  let v := q.row r
  if (v.guard || q.guard) && !v.counted then
    (c.setRow pc k old r (fun v => { v with counted := true })).bump R.LANE_GUARDROWS (slotIx n k)
  else c

/-- The stricter of two codings of a CTU (R160). -/
def stricter : RowMode → RowMode → RowMode
  | .intraGuard, _ => .intraGuard
  | _, .intraGuard => .intraGuard
  | .guardRow, _ => .guardRow
  | _, .guardRow => .guardRow
  | .normal, .normal => .normal

/-- R147, R159–R161, R185: how CTU x of row r of a picture is coded, before its caps. -/
def SlotPic.mode (q : SlotPic) (r x : Nat) : RowMode :=
  let v := q.row r
  let row : RowMode := if v.guard || q.guard then (if v.intra then .intraGuard else .guardRow) else .normal
  if v.cols.any (fun e => decide (e.1 ≤ x) && decide (x < e.2)) then stricter row .intraGuard else row

/-! ### P1: fetch and windows (R128, R129, R138, R153, R155, R159) -/

/-- The written picture that a channel codes for Turn t: of an ingest flow, a decode stream or a rendition raster, each with its own
records (R99, R154, R252). -/
def Chip.codedPic (c : Chip) (ch t : Nat) : WrPic := c.srcPic (c.chanDef ch).src t

/-- R109, R153: the context under which the lines of a source are marked. -/
def srcMarkId (s : PicSrc) : Nat := match s.kind with
  | 0 => s.num
  | 1 => decMarkId s.num
  | _ => 0x0400 + s.num

/-- Stored lines, or line pairs, of a picture that the luma lines from `lo` to `hi` − 1 stand in. -/
def lineUnits (is422 : Bool) (lo hi : Nat) : List Nat :=
  (range' lo hi).filter (fun l => is422 || l % 2 == 0)

/-- A picture with lines as they arrive in the lane: those of `upset` in place of what is stored, the marks as stored. -/
def arrived (pic : WrPic) (upset : List (Nat × List Byte)) : WrPic :=
  { pic with lines := upset.foldl (fun t e => tset {} t e.1 { tget ({} : LineOut) t e.1 with bytes := e.2 }) pic.lines }

/-- R153: the input lines of luma lines lo to hi − 1 whose mark fails as they arrive: a line that was never written fails. -/
def badInput (is422 : Bool) (id turn : Nat) (pic : WrPic) (lo hi : Nat) : List Nat :=
  (lineUnits is422 lo hi).filter (fun l =>
    let o := tget ({} : LineOut) pic.lines l
    o.bytes.isEmpty || decide (o.mark ≠ lineMark id l (turn % 2 ^ 32) o.bytes))

/-- R155, R169: the source samples of luma lines lo to hi − 1 and columns x to x + w − 1 as they are coded: a 4:2:2 input to a 4:2:0
coding is converted, and samples are rounded to 8 bits where EIGHTBIT says so. -/
def sourceRow (v : View) (in422 to420 eight : Bool) (lo hi x w : Nat) : SrcRow :=
  let cut (x w : Nat) (l : List Nat) : List Nat := ((l.drop x).take w).map (fun s => if eight then to8 s else s)
  let chroma (f : Nat → List Nat) : List (List Nat) :=
    if in422 && to420 then (range' (lo / 2) (ceilDiv hi 2)).map (fun y => cut (x / 2) (w / 2) (chromaLine v.ch f y))
    else if in422 then (range' lo hi).map (fun y => cut (x / 2) (w / 2) (f y))
    else (range' (lo / 2) (ceilDiv hi 2)).map (fun y => cut (x / 2) (w / 2) (f y))
  { luma := (range' lo hi).map (fun y => cut x w (v.y y)), cb := chroma v.cb, cr := chroma v.cr }

/-- R138: the luma lines of a reference picture that the window of row r holds: the row, SRV and 8 lines more on either side, inside the
picture. -/
def refRows (height ctu srv r : Nat) : Nat × Nat := (ctu * r - (srv + 8), min height (ctu * (r + 1) + srv + 8))

/-- R138: the lines that enter a window which holds `held`: a row share loads its windows afresh. -/
def windowLoads (afresh : Bool) (held : Option (Nat × Nat)) (lo hi : Nat) : List Nat :=
  (range' lo hi).filter (fun l => match held with
    | some (a, b) => afresh || decide (l < a) || decide (b ≤ l)
    | none => true)

/-- R153: the lines of a reference picture that fail their marks when they are loaded. -/
def badRefLines (ch : Nat) (upset : List (Nat × Nat × List Byte)) (j : Nat) (r : RefPic) (ls : List Nat) : List Nat :=
  ls.filter (fun l =>
    let o := tget ({} : LineOut) r.lines l
    let b := ((upset.find? (fun e => e.1 == j && e.2.1 == l)).map (·.2.2)).getD o.bytes
    !o.bytes.isEmpty && decide (o.mark ≠ lineMark ch l (r.turn % 2 ^ 32) b))

/-- R159: the CTU columns whose windows hold luma column x of the share, within SRH and 8 samples. -/
def windowCols (ctu srh cols x : Nat) : Nat × Nat := ((x - (srh + 8)) / ctu, min cols ((x + srh + 8) / ctu + 1))

/-- R159: CTU columns of a row are to be coded as the intra guard candidate. -/
def Chip.guardCols (c : Chip) (pc k : Nat) (old : Bool) (r : Nat) (e : Nat × Nat) : Chip :=
  c.setRow pc k old r (fun v => { v with cols := v.cols ++ [e] })

/-- R159: a window line that fails, of mark (cause 4) or of ECC (cause 5): the CTUs whose windows hold it are intra guard candidates, and
the channel codes a refresh picture. -/
def Chip.windowFault (c : Chip) (n pc k : Nat) (old : Bool) (r cause ctux cyc : Nat) (e : Nat × Nat) : Chip :=
  ((c.laneFault n pc cause k r ctux cyc).guardCols pc k old r e).orderRefresh (c.slotChan pc k)

/-- R128, R138, R153, R155: what P1 makes of a CTU row: the slot with the source lines, converted, and the window lines; whether a
source line failed its mark check, and whether a window line failed its own. -/
def Chip.fetchedRow (c : Chip) (pc : Nat) (w : FetchWork) : SlotRun × Bool × Bool :=
  let k := w.slot.val
  let s := c.laneSlot pc k
  let i := slotIx pc k
  let ch := c.slotChan pc k
  let (width, height) := c.slotSize pc k
  let n0 := c.slotCtu pc k
  let lo := n0 * w.row
  let hi := min height (lo + n0)
  let in422 := c.on R.LANE_CHCFG_IN422 i
  let pic := arrived (c.codedPic ch s.cur.turn) w.upset
  let id := srcMarkId (c.chanDef ch).src
  let bad := badInput in422 id s.cur.turn pic lo hi
  let x := n0 * c.shareLeft pc k
  let src := sourceRow (viewOf in422 width height id pic) in422 (!c.on R.LANE_CHCFG_CHROMA i) (c.on R.LANE_CHCFG_EIGHTBIT i) lo hi x
    (min (width - x) (n0 * c.sliceCtus pc k))
  let (nrefs, _, srv) := c.laneSearch pc
  let refs := if s.cur.ptype.intra then [] else refsOf nrefs (s.refs.drop 1)
  let (wlo, whi) := refRows height n0 srv w.row
  let afresh := c.get R.LANE_LANECFG_SHAREMODE pc == 2
  let held (r : RefPic) : Option (Nat × Nat) := (s.window.find? (fun e => e.1 == r.turn)).map (·.2)
  let badRefs := refs.zipIdx.flatMap (fun (r, j) => badRefLines ch w.refUpset j r (windowLoads afresh (held r) wlo whi))
  ({ s with rowP1 := some w.row, window := refs.map (fun r => (r.turn, wlo, whi)),
            cur := s.cur.setRow w.row { s.cur.row w.row with src := src } }, !bad.isEmpty, !badRefs.isEmpty)

/-- R159: the faults that P1 finds in a CTU row: in a source line, in a window line, and of ECC in either. -/
def Chip.fetchFaults (c : Chip) (n pc : Nat) (w : FetchWork) (badLine badRef : Bool) : Chip :=
  let k := w.slot.val
  let ctus := c.sliceCtus pc k
  let n0 := c.slotCtu pc k
  let srh := (c.laneSearch pc).2.1
  let c := c.when badLine (fun c => (c.laneFault n pc 3 k w.row 0 w.at_).guardRow pc k false w.row)
  let c := c.when badRef (·.windowFault n pc k false w.row 4 0 w.at_ (0, ctus))
  let c := match w.ecc with
    | some ctux => (c.laneFault n pc 5 k w.row ctux w.at_).guardRow pc k false w.row
    | none => c
  match w.eccWindow with
  | some col => c.windowFault n pc k false w.row 5 (col / n0) w.at_ (windowCols n0 srh ctus col)
  | none => c

/-- R128, R159: P1 of a CTU row, and the faults found in it. The row of the kernel's substitute is a guard row (R147). -/
def Chip.laneFetch (c : Chip) (n pc : Nat) (w : FetchWork) (subst : Bool) : Chip :=
  let k := w.slot.val
  if !c.ownsRow pc k w.row || (enterStage (c.laneSlot pc k).rowP1 false w.row).isNone then c
  else
    let (s, badLine, badRef) := c.fetchedRow pc w
    ((c.setLaneSlot pc k s).when subst (·.guardRow pc k false w.row)).fetchFaults n pc w badLine badRef

/-- R114, R128, R129: what P1 hands to the Spindles for the row that it fetched last of a slot: the coarse search on the
quarter-resolution pictures of the source and of each reference, and the intra analysis. -/
def Chip.rowResults (c : Chip) (pc k : Nat) : List (List (Int × Int)) × List Nat :=
  let s := c.laneSlot pc k
  match s.rowP1 with
  | none => ([], [])
  | some r =>
    let ch := c.slotChan pc k
    let (nrefs, srh, srv) := c.laneSearch pc
    let rows (t : Nat) : List (List Nat) := ((c.codedPic ch t).quarter).map Prod.snd
    let refs := if s.cur.ptype.intra then [] else refsOf nrefs (s.refs.drop 1)
    let n0 := c.slotCtu pc k
    let blocks := (range' (r * n0 / 32) ((r + 1) * n0 / 32)).flatMap (fun y => (List.range (c.sliceCtus pc k * n0 / 32)).map (fun x =>
      (x + n0 * c.shareLeft pc k / 32, y)))
    (refs.flatMap (fun q => blocks.map (fun b => coarseSearch srh srv (rows s.cur.turn) (rows q.turn) b.1 b.2)),
     intraAnalysis (c.slotVvc pc k) (s.cur.row r).src.luma)

/-- R128: the bytes of plan column pc's lane as a transfer to the Spindles reads them. -/
def Chip.laneBytes (c : Chip) (pc len : Nat) : List Byte :=
  let l := ((List.range 16).filter (fun k => c.slotOn pc k)).map (c.rowResults pc)
  (List.range len).map (Config.laneResults (l.flatMap Prod.fst) (l.flatMap Prod.snd))

/-! ### P3: CTUs (R133–R137, R141, R144–R150, R176–R178) -/

/-- R146: whether the guard candidate of a CTU is the intra one: an intra slice, a GDR refresh column, or no merge candidate that R141
allows. -/
def guardIntra (ty : PicType) (refreshCol anyMerge : Bool) : Bool := ty.intra || refreshCol || !anyMerge

/-- R140: whether CTU column x of the share is a GDR refresh column of a picture. -/
def Chip.inRefreshCols (c : Chip) (pc k : Nat) (q : SlotPic) (x : Nat) : Bool :=
  decide ((c.refreshCols pc k q).1 ≤ x) && decide (x < (c.refreshCols pc k q).2)

/-- What the coding of a CTU is held to: its slice's codec, picture and references, the search ranges, its place and size. -/
structure CtuSite where
  vvc : Bool
  intraSlice : Bool
  refreshCol : Bool
  cleanCol : Bool
  period : Nat
  refs : List RefPic
  srh : Nat
  srv : Nat
  ctu : Nat
  width : Nat
  height : Nat
  x : Nat

/-- The site of CTU x of row r of a picture of slot k. -/
def Chip.ctuSite (c : Chip) (pc k : Nat) (q : SlotPic) (refs : List RefPic) (r x : Nat) : CtuSite :=
  let (w, h) := c.slotSize pc k
  let n := c.slotCtu pc k
  let (_, srh, srv) := c.laneSearch pc
  { vvc := c.slotVvc pc k, intraSlice := q.ptype.intra, refreshCol := c.inRefreshCols pc k q x,
    cleanCol := (c.gdrPeriod pc k).isSome && !q.ptype.intra && decide (x < (c.refreshCols pc k q).1),
    period := q.poc - q.gdrIdx, refs := refs, srh := srh, srv := srv, ctu := n,
    width := min n (w - n * (c.shareLeft pc k + x)), height := min n (h - n * r), x := x }

/-- R137, R141: the motion of a block of a CTU whose right edge lies `right` luma samples from the CTU's left edge. -/
def CtuSite.motionOk (t : CtuSite) (right : Nat) (l : List MotionRef) : Bool :=
  l.all (Machine.motionOk t.vvc t.refs t.srh t.srv t.ctu t.period t.cleanCol (t.ctu * t.x + right))

/-- R133–R135, R137, R140, R141: a coding of a CTU is one that the device codes. -/
def CtuSite.allowed (t : CtuSite) (k : CtuCode) : Bool :=
  treeOk t.vvc t.intraSlice t.width t.height (fun u x _ w h =>
    unitShape t.vvc u w h && (u.intra || (!t.intraSlice && !t.refreshCol && t.motionOk (x + w) u.motion))) k.tree 0 0 t.ctu t.ctu 0

/-- R141, R146: the merge candidates that a CTU may take: those that R141 does not drop, with their SAD against the source. -/
def CtuSite.merges (t : CtuSite) (src : List Nat) (l : List MergeCand) : List (Nat × Nat) :=
  (l.zipIdx.filter (fun (m, j) => decide (j < if t.vvc then 6 else 5) && !m.motion.isEmpty && t.motionOk t.width m.motion)).map
    (fun (m, j) => (j, sadOf m.luma src))

/-- R146, R177: the guard candidate of a CTU: its partition, whether it is intra, and its bins, never more than the table allows. -/
def CtuSite.guardOf (t : CtuSite) (src : List Nat) (forceIntra : Bool) (w : CtuWork) : CodeTree × Bool × List Bin :=
  let m := lowestIx (t.merges src w.merges)
  let intra := forceIntra || guardIntra (if t.intraSlice then .idr else .trail) t.refreshCol m.isSome
  let tree := guardTree t.vvc (if intra then none else m.map (fun j => (j, (w.merges.getD j {}).motion)))
  (tree, intra, w.guardBins.take (guardBins t.vvc !intra))

/-- The luma samples of CTU x of a fetched row. -/
def SrcRow.ctuLuma (s : SrcRow) (ctu x : Nat) : List Nat := s.luma.flatMap (fun l => (l.drop (ctu * x)).take ctu)

/-- R136, R182, R184: the QPs of the quantisation groups of CTU x of the picture: those of its records, or the highest QP in a floor row. -/
def Chip.ctuQps (c : Chip) (ch turn r cols x : Nat) (vvc : Bool) : List Nat :=
  match (tget ({} : ChanRate) c.rate ch).dus.find? (fun d => d.turn == turn && d.row == r) with
  | none => []
  | some d => if d.floor then [maxQp vvc]
    else if vvc then [d.groups.getD (2 * x) d.q, d.groups.getD (2 * x + 1) d.q, d.groups.getD (2 * cols + 2 * x) d.q,
                      d.groups.getD (2 * cols + 2 * x + 1) d.q]
    else [d.groups.getD x d.q]

/-- R150: the reconstruction mark of a CTU: channel context, address, Turn count, samples as 16-bit words. -/
def reconMark (ch addr turn : Nat) (samples : List Nat) : Word :=
  crc32c (leBytes 2 ch ++ leBytes 4 addr ++ leBytes 4 turn ++ samples.flatMap (leBytes 2))

/-- R152: the bitstream Thread mark of a slice NAL unit of the picture of a Turn. -/
def nalMark (ch row turn share : Nat) (bytes : List Byte) : Word :=
  crc32c (leBytes 2 ch ++ leBytes 2 row ++ leBytes 4 turn ++ leBytes 1 share ++ bytes)

/-- R145: BINCAP of a CTU, in proportion to the samples that it holds. -/
def ctuBinCap (bincap : Nat) (samples : Nat × Nat) : Nat := bincap * samples.1 / max samples.2 1

/-- R178: whether committing `bits` for a CTU breaks its slice's cap: used + bits + g × CTUs after it ≤ qcap, g that of the CTU's own guard
candidate (log entry 128). Where rate control does not run there is no cap. -/
def overCap (qcap : Option Nat) (used bits g after : Nat) : Bool := match qcap with
  | some q => decide (q < used + bits + g * after)
  | none => false

/-- The slice in P3: the coder's state, payload bits used with Hs, and the CTUs committed, newest first. -/
structure SliceRun where
  coder : Coder := {}
  used : Nat := sliceAllowance
  done : List CodedCtu := []

/-- R176: the coder after a CTU's bins; in HEVC an end_of_slice flag of 0 follows every CTU but the last. -/
def sliceBins (vvc last : Bool) (l : List Bin) : List Bin := if vvc || last then l else l ++ [{ kind := .terminate, val := false }]

/-- R125–R127, R137: the slice header of row r of a picture. -/
def Chip.sliceHead (c : Chip) (pc k : Nat) (q : SlotPic) (refs : List RefPic) (r : Nat) : SliceHead :=
  { pic := c.picHead pc k q refs, row := r, share := c.shareIdx pc, ctus := c.sliceCtus pc k, intra := q.ptype.intra,
    qp := (c.ctuQps (c.slotChan pc k) q.turn r (c.slotGrid pc k).1 (c.shareLeft pc k) (c.slotVvc pc k)).headD 0 }

/-- R137: the lines of the reference pictures of a slice. -/
def refBytes (refs : List RefPic) : List (List (List Byte)) := refs.map (fun r => r.lines.map (fun e => e.2.bytes))

/-- R149: the samples that a syntax describes in a slice, after the CTUs committed so far. -/
def rebuildOf (vvc : Bool) (h : SliceHead) (refs : List RefPic) (done : List CodedCtu) (bins : List Bin) (qps : List Nat) : List Nat :=
  Config.rebuild vvc h (done.reverse.map (·.bins)) bins qps (refBytes refs)

/-- R144–R146, R160, R176–R178, R227: how a CTU is committed: whether each cap replaces it, and the CTU as committed. -/
structure Commit where
  overBin : Bool
  overCap : Bool
  ctu : CodedCtu
  run : SliceRun

/-- R144–R146, R148, R160, R176–R178, R227: the commit of one CTU of a slice. `mode` is how it is coded before its caps; a coding that the
device does not code is never committed (log entry 129). `czw` gives the bits of the cabac_zero_words that committing a number of bins
and of payload bits would need. -/
def commitCtu (t : CtuSite) (intraQp : Bool × Nat) (mode : RowMode) (cap : Nat) (qcap : Option Nat) (after : Nat) (czw : Nat → Nat → Nat)
    (src : List Nat) (rebuild : List Bin → List Nat) (w : CtuWork) (s : SliceRun) : Commit :=
  let (gtree, gintra, gbins) := t.guardOf src (mode == .intraGuard) w
  let run (l : List Bin) : Coder := Coder.run t.vvc intraQp.1 intraQp.2 s.coder (sliceBins t.vvc (after == 0) l)
  let chosen := run w.code.bins
  let guard := run gbins
  let bits := chosen.bits - s.coder.bits
  let gbits := min (guard.bits - s.coder.bits) (guardBits t.vvc !gintra)
  let overBin := decide (cap < w.code.bins.length)
  let overCap := overCap qcap s.used (bits + czw w.code.bins.length bits) (guardBits t.vvc !gintra) after
  let useGuard := mode != .normal || overBin || overCap || w.void || !t.allowed w.code
  let ctu : CodedCtu :=
    if useGuard then { tree := gtree, bins := gbins, payload := gbits, guard := true, recon := rebuild gbins }
    else { tree := w.code.tree, bins := w.code.bins, payload := bits, guard := false, recon := rebuild w.code.bins }
  { overBin := overBin, overCap := overCap, ctu := ctu,
    run := { coder := if useGuard then guard else chosen, used := s.used + ctu.payload, done := ctu :: s.done } }

/-- R149, R150: the diverse reconstruction of a committed CTU: a mismatch of the two marks is cause 1. -/
def Chip.diverseCheck (c : Chip) (n pc k : Nat) (q : SlotPic) (r x : Nat) (w : CtuWork) (recon : List Nat) : Chip :=
  let ch := c.slotChan pc k
  let addr := r * (c.slotGrid pc k).1 + c.shareLeft pc k + x
  let mark (l : List Nat) : Word := reconMark ch addr (q.turn % 2 ^ 32) l
  c.when (decide (mark (w.primUpset.getD recon) ≠ mark (w.divUpset.getD recon))) (fun c =>
    ((c.laneFault n pc 1 k r x w.at_).bump R.LANE_FAULTCNT_DIV (slotIx n k)).orderRefresh ch)

/-- R148: bits of the cabac_zero_words that a picture needs in its last row; 0 in every other row. -/
def Chip.zeroWordBits (c : Chip) (pc k : Nat) (q : SlotPic) (r bins bytes : Nat) : Nat :=
  let i := slotIx pc k
  let (w, h) := c.slotSize pc k
  if r + 1 = (c.slotGrid pc k).2 then
    24 * zeroWords (c.on R.LANE_CHCFG_CHROMA i) (if c.on R.LANE_CHCFG_EIGHTBIT i then 8 else 10) w h (q.bins + bins) (q.nalBytes + bytes)
  else 0

/-- R144–R150, R159, R160, R178, R227: CTU x of a row in P3. -/
def Chip.laneCtu (c : Chip) (n pc k r : Nat) (old : Bool) (refs : List RefPic) (x : Nat) (w : CtuWork) (s : SliceRun) :
    Chip × SliceRun :=
  let ch := c.slotChan pc k
  -- checks of the cache first: they may make the CTU, or the row, stricter
  let c := match w.eccWindow with
    | some col => c.windowFault n pc k old r 5 x w.at_ (windowCols (c.slotCtu pc k) (c.laneSearch pc).2.1 (c.sliceCtus pc k) col)
    | none => c
  let c := c.when w.eccOther (fun c => (c.laneFault n pc 5 k r x w.at_).guardRow pc k old r)
  let q := (c.laneSlot pc k).pic old
  let mode := q.mode r x
  let t := c.ctuSite pc k q refs r x
  let head := c.sliceHead pc k q refs r
  let qps := if mode = .normal then c.ctuQps ch q.turn r (c.slotGrid pc k).1 (c.shareLeft pc k + x) t.vvc
    else (c.ctuQps ch q.turn r (c.slotGrid pc k).1 (c.shareLeft pc k + x) t.vvc).take 1
  let v := q.row r
  let m := commitCtu t (q.ptype.intra, head.qp) mode (ctuBinCap (c.get R.LANE_CHBIN_BINCAP (slotIx pc k)) (c.ctuSamples pc k r x)) v.qcap
    (c.sliceCtus pc k - x - 1)
    (fun bins bits => c.zeroWordBits pc k q r ((s.done.map (fun e => e.bins.length)).sum + bins) ((s.used + bits) / 8))
    (v.src.ctuLuma (c.slotCtu pc k) x) (fun l => rebuildOf t.vvc head refs s.done l qps) w s
  let normal := decide (mode = .normal)
  let c := c.setLaneSlot pc k ((c.laneSlot pc k).setPic old { q with peak := max q.peak w.code.bins.length, bins := q.bins + m.ctu.bins.length })
  let c := c.when (normal && m.overBin) (·.bump R.LANE_GUARDCTU (slotIx n k))
  let c := c.when (normal && m.overCap) (fun c => (c.bump R.RATE_CAPCTU ch).set R.RATE_RCSTAT_CAPHIT ch 1)
  (c.diverseCheck n pc k q r x w m.ctu.recon, m.run)

/-- R125, R128, R144–R150: the CTUs of a row in P3, from the left. -/
def Chip.laneCtus (c : Chip) (n pc k r : Nat) (old : Bool) (refs : List RefPic) (ws : List CtuWork) : Chip × SliceRun :=
  (List.range (c.sliceCtus pc k)).foldl (fun (a : Chip × SliceRun) x =>
    a.1.laneCtu n pc k r old refs x (ws.getD x { void := true }) a.2) (c, {})

/-- R137: the reference pictures of a picture of a slot. -/
def Chip.slotRefs (c : Chip) (pc k : Nat) (q : SlotPic) : List RefPic :=
  let s := c.laneSlot pc k
  if q.ptype.intra then [] else refsOf (c.laneSearch pc).1 ((s.refs.dropWhile (fun r => r.turn != q.turn)).drop 1)

/-- R128, R144–R150, R159, R160: P3 of a CTU row. Under a substitute, it is a guard row (R147). -/
def Chip.lanePredict (c : Chip) (n pc : Nat) (w : PredictWork) (subst : Bool) : Chip :=
  let k := w.slot.val
  let s := c.laneSlot pc k
  match enterStage s.rowP3 s.oldP3 w.row, c.ownsRow pc k w.row with
  | some old, true =>
    let c := c.setLaneSlot pc k { s with rowP3 := some w.row, oldP3 := old }
    let c := c.when subst (·.guardRow pc k old w.row)
    let (c, m) := c.laneCtus n pc k w.row old (c.slotRefs pc k (s.pic old)) w.ctus
    let c := c.setRow pc k old w.row (fun v => { v with coded := m.done.reverse })
    let q := (c.laneSlot pc k).pic old
    (c.setB R.LANE_LANESTAT_GUARDROW n ((q.row w.row).guard || q.guard)).countGuardRow n pc k old w.row
  | _, _ => c

/-! ### P4: filters, coder and output (R131, R148, R151–R153) -/

/-- R131: the CTU row before row r in the lane: in a row share the rows lie k apart (R127). -/
def Chip.rowBefore (c : Chip) (pc r : Nat) : Option Nat :=
  let step := if c.get R.LANE_LANECFG_SHAREMODE pc = 2 then c.get R.LANE_LANECFG_SHARES pc + 1 else 1
  if step ≤ r then some (r - step) else none

/-- R131: the bottom 8 luma lines of row r of a picture of a height. -/
def bottomLines (height ctu r : Nat) : Nat × Nat := (min height (ctu * (r + 1)) - 8, min height (ctu * (r + 1)))

/-- R131: luma lines `lo` to `hi` − 1 of a picture as filtered, from the reconstruction of the row above and of their own, with their marks
(R153). -/
def Chip.filterLines (c : Chip) (pc k : Nat) (q : SlotPic) (above own lo hi : Nat) : List (Nat × LineOut) :=
  let ch := c.slotChan pc k
  let rec_ (j : Nat) : List (List Nat) := (q.row j).coded.map (·.recon)
  (lineUnits (c.on R.LANE_CHCFG_CHROMA (slotIx pc k)) lo hi).map (fun l =>
    let b := Config.filteredLine (c.slotVvc pc k) (rec_ above) (rec_ own) l
    (l, { bytes := b, mark := lineMark ch l (q.turn % 2 ^ 32) b }))

/-- R131, R153: the lines that P4 of row r completes: all of the row but its bottom 8, and the bottom 8 of the row before. -/
def Chip.filterRow (c : Chip) (pc k : Nat) (q : SlotPic) (r : Nat) : List (Nat × LineOut) :=
  let h := (c.slotSize pc k).2
  let n := c.slotCtu pc k
  let own := c.filterLines pc k q (r - 1) r (n * r) (bottomLines h n r).1
  match c.rowBefore pc r with
  | some j => c.filterLines pc k q j r (bottomLines h n j).1 (bottomLines h n j).2 ++ own
  | none => own

/-- R131, R153: filtered lines are written to the reference picture of a Turn: of the share, or, in a row share, of every column of the
channel (R138). -/
def Chip.writeRefLines (c : Chip) (pc k turn : Nat) (l : List (Nat × LineOut)) : Chip :=
  let to_ := if c.get R.LANE_LANECFG_SHAREMODE pc = 2 then c.slotsOf (c.slotChan pc k) else [(pc, k)]
  c.each to_ (fun c e =>
    let s := c.laneSlot e.1 e.2
    c.setLaneSlot e.1 e.2 { s with refs := s.refs.map (fun r =>
      if r.turn == turn then { r with lines := l.foldl (fun t e => tset {} t e.1 e.2) r.lines } else r) })

/-- R151: whether the two filter copies disagree: a line mark of the second copy differs. -/
def filtersDiffer (ch turn : Nat) (l : List (Nat × LineOut)) (upset : List (Nat × List Byte)) : Bool :=
  l.any (fun e => match upset.find? (fun u => u.1 == e.1) with
    | some u => decide (lineMark ch e.1 (turn % 2 ^ 32) u.2 ≠ e.2.mark)
    | none => false)

/-- R128: the bins of a coded row through the arithmetic coder. -/
def codeRow (vvc intra : Bool) (qp : Nat) (l : List CodedCtu) : List Byte :=
  (l.zipIdx.foldl (fun k (e, j) => Coder.run vvc intra qp k (sliceBins vvc (j + 1 == l.length) e.bins)) ({} : Coder)).bytes

/-- R146, R147: a row coded anew as a guard row, in P4. -/
def Chip.guardCtus (c : Chip) (pc k : Nat) (q : SlotPic) (refs : List RefPic) (r : Nat) (ws : List CtuWork) : List CodedCtu :=
  let head := c.sliceHead pc k q refs r
  ((List.range (c.sliceCtus pc k)).foldl (fun (s : SliceRun) x =>
    let t := c.ctuSite pc k q refs r x
    (commitCtu t (q.ptype.intra, head.qp) (stricter (q.mode r x) .guardRow) 0 none (c.sliceCtus pc k - x - 1) (fun _ _ => 0)
      ((q.row r).src.ctuLuma (c.slotCtu pc k) x)
      (fun l => rebuildOf t.vvc head refs s.done l ((c.ctuQps (c.slotChan pc k) q.turn r (c.slotGrid pc k).1 (c.shareLeft pc k + x) t.vvc).take 1))
      (ws.getD x {}) s).run) ({} : SliceRun)).done.reverse

/-- R148, R152: the slice NAL unit of a coded row. -/
def Chip.rowNal (c : Chip) (pc k : Nat) (q : SlotPic) (refs : List RefPic) (r czw : Nat) (l : List CodedCtu) : NalUnit :=
  let ch := c.slotChan pc k
  let vvc := c.slotVvc pc k
  let head := c.sliceHead pc k q refs r
  let share := c.shareIdx pc
  let turn := q.turn % 2 ^ 32
  let b := sliceNal vvc head (codeRow vvc q.ptype.intra head.qp l) czw
  { chan := ch, row := r, turn := turn, share := share, bytes := b, mark := nalMark ch r turn share b }

/-- R128, R131, R147, R148, R151–R153, R159: P4 of a CTU row: the filters, whose lines become those of the reference picture; the
arithmetic coder; and the NAL unit with its mark. The substitute, a row that has not passed P3 and one with an uncorrectable error
code the row as a guard row. A disagreement of the copies is a duplicate fault. BINPEAK shows the largest count of the picture modulo
2¹⁷ (log entry 130). -/
def Chip.laneRow (c : Chip) (n pc : Nat) (w : RowOut) (subst : Bool) : Chip :=
  let k := w.slot.val
  let s := c.laneSlot pc k
  match enterStage s.rowP4 s.oldP4 w.row, c.ownsRow pc k w.row with
  | some old, true =>
    let ch := c.slotChan pc k
    let c := c.setLaneSlot pc k { s with rowP4 := some w.row, oldP4 := old }
    let c := c.when w.ecc (fun c => (c.laneFault n pc 5 k w.row w.ctux w.at_).guardRow pc k old w.row)
    let anew := subst || w.ecc || ((s.pic old).row w.row).coded.isEmpty
    let c := c.when (subst || ((s.pic old).row w.row).coded.isEmpty) (·.guardRow pc k old w.row)
    let q := (c.laneSlot pc k).pic old
    let refs := c.slotRefs pc k q
    let coded := if anew then c.guardCtus pc k q refs w.row w.guards else (q.row w.row).coded
    let c := (c.setRow pc k old w.row (fun v => { v with coded := coded })).countGuardRow n pc k old w.row
    let q := (c.laneSlot pc k).pic old
    let lines := c.filterRow pc k q w.row
    let c := c.writeRefLines pc k q.turn lines
    let plain := c.rowNal pc k q refs w.row 0 coded
    let czw := c.zeroWordBits pc k q w.row 0 plain.bytes.length / 24
    let u := c.rowNal pc k q refs w.row czw coded
    let c := { c with lanes := { c.lanes with parts := tset [] c.lanes.parts ch (tget [] c.lanes.parts ch ++ [u]) } }
    let s := c.laneSlot pc k
    let c := c.setLaneSlot pc k (s.setPic old { s.pic old with nalBytes := q.nalBytes + u.bytes.length, czw := czw })
    let coder := codeRow (c.slotVvc pc k) q.ptype.intra (c.sliceHead pc k q refs w.row).qp coded
    let c := c.when (filtersDiffer ch q.turn lines w.filterUpset || decide (w.coderUpset.getD coder ≠ coder)) (fun c =>
      (c.laneFault n pc 2 k w.row w.ctux w.at_).orderRefresh ch)
    c.when (decide (w.row + 1 = (c.slotGrid pc k).2)) (fun c => c.set R.LANE_BINPEAK (slotIx n k) q.peak)
  | _, _ => c

/-- R131: the row period after the last row that the lane codes of a picture: its bottom lines are completed. -/
def Chip.laneTail (c : Chip) (pc k : Nat) : Chip :=
  let s := c.laneSlot pc k
  let q := s.pic s.oldP4
  let h := (c.slotSize pc k).2
  match s.rowP4 with
  | some r =>
    if (range' (r + 1) (c.slotGrid pc k).2).any (c.ownsRow pc k) then c
    else
      let e := bottomLines h (c.slotCtu pc k) r
      c.writeRefLines pc k q.turn (c.filterLines pc k q r r e.1 e.2)
  | none => c

/-! ### Registers (R164, R167) -/

/-- R164: RUNNING of lane n, from the plan column that it serves and that column's plane. -/
def Chip.laneRunning (c : Chip) (n : Nat) : Chip :=
  c.setB R.LANE_LANESTAT_RUNNING n (match c.planCol n with
    | some pc => c.laneOn pc && c.running (c.get R.LANE_LANECFG_PLANE pc)
    | none => false)

/-- R167: a CNTCLR write on lane n clears the counters of a channel slot: GUARDCTU, GUARDROWS and FAULTCNT. -/
def execLaneCntclr (n : Fin 16) (v : Word) (s : State) : Host.Outcome State Fault Refusal :=
  onChip (fun c =>
    if bit v.toNat 31 then
      let i := slotIx n.val (bits v.toNat 3 0)
      let c := (c.set R.LANE_GUARDCTU i 0).set R.LANE_GUARDROWS i 0
      (c.set R.LANE_FAULTCNT_DIV i 0).set R.LANE_FAULTCNT_REFR i 0
    else c) s

end Sys2Proof.Machine
end

