-- ==== Sys2Proof/Machine/Rate.lean ====
section
/-! DEFINITION. Rate control, the HRD and statistical multiplex (Rate Control, HRD and Latency). Bits are counted exactly;
where a rule divides, the quotient is rounded down unless the rule says otherwise. -/

namespace Sys2Proof.Machine

/-- The rate-control state of an encode channel context. -/
def Chip.chan (c : Chip) (ch : Nat) : ChanRate := tget {} c.rate ch

/-- The rate-control state of a channel replaced. -/
def Chip.setChan (c : Chip) (ch : Nat) (v : ChanRate) : Chip := { c with rate := tset {} c.rate ch v }

/-- R196: rate mode; 3 acts as 0. -/
def Chip.rateMode (c : Chip) (ch : Nat) : Nat :=
  let m := c.get R.RATE_RCCFG_MODE ch
  if m = 3 then 0 else m

/-- R173, R195: the drain in force, kb/s: the current rate, the cap, or the member's allocation. -/
def Chip.drainKb (c : Chip) (ch : Nat) : Nat := c.get R.RATE_CURKB ch

/-! ### Times (R171, R172, R174) -/

/-- Frame period of a channel's plane in ns, as a fraction. -/
def Chip.framePeriod (c : Chip) (ch : Nat) : Nat × Nat :=
  let r := c.rateOf (c.chanDef ch).plane
  (1000000000 * r.2, max r.1 1)

/-- The row period p of a channel in ns, as a fraction. -/
def Chip.rowPeriod (c : Chip) (ch : Nat) : Nat × Nat :=
  let (a, b) := c.framePeriod ch
  (a, b * max (c.chanRows ch) 1)

/-- R130: the pipeline depth D of a channel, as its lanes hold it. -/
def Chip.chanDepth (c : Chip) (ch : Nat) : Nat := c.get R.LANE_LANECFG_DEPTH (c.leadSlot ch).1

/-- R172, R617: the agreement delay a in ns: PATHDLY plus 2 Twists in a paired image, 0 in a solo image. -/
def Chip.agreeNs (c : Chip) : Nat := if c.plyOn then c.get R.PLY_PLYCFG_PATHDLY + 640 else 0

/-- R174, R321: the egress window W of the flow that carries a channel, ns. -/
def Chip.chanWindow (c : Chip) (ch : Nat) : Nat :=
  match (c.tables.egs.find? (fun e => e.2.src == .chan ch && c.on R.NET_EGCFG_EN e.1)) with
  | some e => c.get R.NET_EGWIN_W e.1
  | none => 0

/-- R173: a channel goes out in a TS. -/
def Chip.chanTs (c : Chip) (ch : Nat) : Bool :=
  c.tables.egs.any (fun e => e.2.src == .chan ch && c.on R.NET_EGCFG_EN e.1 && c.get R.NET_EGCFG_FORM e.1 == 1)

/-- R172: e(r), ns after the Turn boundary, as a fraction of the row period's denominator; `back` counts rows back from r. -/
def Chip.readyBack (c : Chip) (ch r back : Nat) : Nat × Nat :=
  let d := c.chanDef ch
  let (pa, pb) := c.rowPeriod ch
  ((d.startNs + c.agreeNs + 20000) * pb + (1 + c.chanDepth ch + r - back) * pa, pb)

/-- R172: e(r), ns after the Turn boundary. -/
def Chip.readyAt (c : Chip) (ch r : Nat) : Nat × Nat := c.readyBack ch r 0

/-- R172: u(r), ns after the Turn boundary: e(r) plus the CPB delay. -/
def Chip.removalAt (c : Chip) (ch r : Nat) : Nat × Nat :=
  let (a, b) := c.readyAt ch r
  (a + (c.chanDef ch).cpbNs * b, b)

/-! ### The drain (R173, R174, R179, R192) -/

/-- Bits that `kb` kb/s send in a time of a / b ns, rounded down. -/
def bitsIn (kb : Nat) (t : Nat × Nat) : Nat := kb * t.1 / (1000000 * t.2)

/-- R10, R192: a trim put in the order of the effective Turns. -/
def insertTrim (turn : Nat) (x : Nat × Nat) : List (Nat × Nat) → List (Nat × Nat)
  | [] => [x]
  | y :: l => if sdiff 40 x.1 turn < sdiff 40 y.1 turn then x :: y :: l else y :: insertTrim turn x l

/-- R192: the accepted trims of a channel: effective Turn and rate in kb/s, soonest first. -/
def Chip.trims (c : Chip) (ch : Nat) : List (Nat × Nat) :=
  let turn := c.turn (c.chanDef ch).plane
  c.svc.cmds.foldl (fun l p => match p.arg with
    | .trim (.chan x) kb => if x = ch then insertTrim turn (p.eff, kb) l else l
    | _ => l) []

/-- R192: the accepted trims of a statmux group: effective Turn and rate in kb/s, soonest first. -/
def Chip.groupTrims (c : Chip) (g : Nat) : List (Nat × Nat) :=
  let turn := c.turn (c.get R.RATE_SMCFG_PLANE g)
  c.svc.cmds.foldl (fun l p => match p.arg with
    | .trim (.group x) kb => if x = g then insertTrim turn (p.eff, kb) l else l
    | _ => l) []

/-- R174, R192: the rate at which the drain is guaranteed in Turn m of the channel's plane, kb/s: in the present Turn, the rate in force;
beyond it a statmux member's MINKB, and otherwise the lower of that rate and those of the accepted trims. -/
def Chip.kbIn (c : Chip) (ch m : Nat) : Nat :=
  let now := c.turn (c.chanDef ch).plane
  let cur := c.drainKb ch
  if sdiff 40 m now ≤ 0 then cur
  else if c.rateMode ch = 2 then min cur (c.get R.RATE_MINKB ch)
  else ((c.trims ch).filter (fun x => decide (sdiff 40 x.1 now ≤ sdiff 40 m now))).foldl (fun k x => min k x.2) cur

/-- R174, R179: bits that the drain is guaranteed to send from `a` to `b`, in units of 1 / (9 × row-period denominator) ns after the
boundary of Turn t. -/
def Chip.drainIn (c : Chip) (ch t a b : Nat) : Nat :=
  let (pa, pb) := c.rowPeriod ch
  let frame := 9 * pa * max (c.chanRows ch) 1
  ((List.range (b / max frame 1 + 1)).map (fun k =>
    c.kbIn ch ((t + k) % 2 ^ 40) * (min b ((k + 1) * frame) - max a (k * frame)))).sum / (9 * pb * 1000000)

/-- R174: the hard bound B(r) of a picture of Turn t: what the drain is guaranteed to send in C − W − τ from e(r), τ = 100,000 / 9 ns. -/
def Chip.hardBound (c : Chip) (ch t r : Nat) : Nat :=
  let (e, pb) := c.readyAt ch r
  c.drainIn ch t (9 * e) (9 * e + (9 * ((c.chanDef ch).cpbNs - c.chanWindow ch) - 100000) * pb)

/-- R179: bits that the drain is guaranteed to send in the row period that ends at e of the row `back` rows before row r. -/
def Chip.drainRow (c : Chip) (ch t r back : Nat) : Nat :=
  c.drainIn ch t (9 * (c.readyBack ch r (back + 1)).1) (9 * (c.readyBack ch r back).1)

/-! ### Picture kernel and carry (R181) -/

/-- R181: base of a picture for a drain of d bits per picture: the IRAP and the TRAIL form under low-delay IRAP. -/
def pictureBase (gop irap wi d : Nat) (isIrap : Bool) : Nat :=
  if gop = 0 ∨ gop = 2 then d
  else
    -- w = WI / 4, values below 4 act as 4; both forms over 4
    let w4 := max wi 4
    let n := max irap 1
    if isIrap then d * n * w4 / (w4 + 4 * n - 4) else d * n * 4 / (w4 + 4 * n - 4)

/-- R181, R182: the bits of a picture of Turn t, its rows in flight at their targets. -/
def ChanRate.picBits (x : ChanRate) (t : Nat) : Nat :=
  ((x.dus.filter (fun d => d.turn == t)).map (fun d => d.bits.getD d.target)).sum

/-- R181: the picture kernel at the P2 of row 0: base, target T = base + clamp(K, −base/2, +base/4) + boost. A refresh picture that falls
on a scheduled IRAP is that IRAP (R160). A substitute sets T = base and leaves K (R228). -/
def Chip.pictureKernel (c : Chip) (ch : Nat) (subst : Bool) : Chip :=
  let (pc, k) := c.leadSlot ch
  let i := slotIx pc k
  let s := (c.laneSlot pc k).cur
  let gop := c.get R.LANE_CHCFG_GOP i
  let d := bitsIn (c.drainKb ch) (c.framePeriod ch)
  let irap := c.get R.LANE_CHGOP_IRAPINT i
  let wi := c.get R.RATE_RCCFG_WI ch
  let base := pictureBase gop irap wi d s.starts
  let boost := if s.isRefresh ∧ s.starts = false ∧ gop ≠ 0 ∧ gop ≠ 2 then pictureBase gop irap wi d true - pictureBase gop irap wi d false else 0
  let x := c.chan ch
  -- the carry, with the rows in flight of a picture that has not ended at their targets
  let k : Int := if x.cur.ended then x.k else x.k + x.cur.base - (x.picBits x.cur.turn : Nat)
  let a := clampI k (-((base : Int) / 2)) ((base : Int) / 4)
  let t : Int := if subst then base else base + a + boost
  let c := c.setChan ch { x with old := x.cur,
                                 cur := { turn := s.turn, intra := s.ptype.intra, base := base, target := t, ended := false } }
  c.set R.RATE_RCSTAT_FLOOR ch 0

/-- R181: the end-of-picture update, for the oldest picture not yet ended: K becomes K + base − S, clamped above at B / 2. -/
def Chip.endOfPicture (c : Chip) (ch : Nat) : Chip :=
  let x := c.chan ch
  let q := if x.old.ended then x.cur else x.old
  if q.ended then c
  else
    let k := min (x.k + q.base - (x.picBits q.turn : Nat)) ((c.get R.RATE_HARDBITS ch : Int) / 2)
    let q := { q with ended := true }
    let c := c.setChan ch (if x.old.ended then { x with k := k, cur := q } else { x with k := k, old := q })
    c.set R.RATE_CARRY ch (toField 32 (satI 32 k))

/-! ### Row kernel (R179, R182, R183) -/

/-- R179: the payload caps of a row's slices: the largest total shared out in proportion to width whose NAL bits fit the
room. The search halves an interval `fuel` times. -/
def shareCaps (widths : List Nat) (q : Nat) : List Nat := widths.map (fun w => q * w / max widths.sum 1)

/-- R179: the NAL bits of the slices of a row under its payload caps. -/
def capNalBits (caps : List Nat) : Nat := (caps.map nalBits).sum

/-- R179: the largest total q in [lo, hi) with capNalBits ≤ room. -/
def largestCap (widths : List Nat) (room : Nat) : Nat → Nat → Nat → Nat
  | 0, lo, _ => lo
  | n + 1, lo, hi =>
    let m := (lo + hi) / 2
    if m ≤ lo then lo
    else if capNalBits (shareCaps widths m) ≤ room then largestCap widths room n m hi
    else largestCap widths room n lo m

/-- R182: complexity of CTU row r of a channel from its source's records: ΣTSAD, or ΣACT for an intra picture and from
the row at which SCP latches; 0 counts as 1. None where preanalysis has not reached the row. -/
def rowComplexity (vvc intra : Bool) (pic : WrPic) (r : Nat) : Option Nat :=
  let rows := if vvc then [2 * r, 2 * r + 1] else [r]
  let recs := rows.flatMap (fun j => tget [] pic.records j)
  if recs.isEmpty then none
  else
    let act := intra || recs.any (·.scp)
    some (max 1 ((recs.map (fun x => if act then x.act else x.tsad)).sum))

/-- R182: offset of a quantisation group: clamp(round(3 × log₂(ACT / mean ACT of the row)), ±AQMAX). -/
def groupOffset (act meanAct aqmax : Nat) : Int :=
  clampI (log2Thirds (max act 1) (max meanAct 1)) (-(aqmax : Int)) aqmax

/-- R178, R183: the least payload cap of each slice of a row of a picture: Hs and g for each CTU, the intra g for intra slices and GDR
refresh columns and the inter g otherwise. -/
def Chip.floorPayloads (c : Chip) (ch : Nat) (q : SlotPic) : List Nat :=
  let (pc, k) := c.leadSlot ch
  let vvc := c.slotVvc pc k
  (c.chanShares ch).map (fun w =>
    let intra := if q.ptype.intra then w
      else match c.gdrPeriod pc k with
        | some period => let (a, b) := refreshColumns q.gdrIdx w period; b - a
        | none => 0
    sliceAllowance + intra * guardBits vvc false + (w - intra) * guardBits vvc true)

/-- The picture of Turn t of a channel in its lead slot. -/
def Chip.chanPic (c : Chip) (ch t : Nat) : SlotPic :=
  let (pc, k) := c.leadSlot ch
  (c.laneSlot pc k).pic ((c.laneSlot pc k).isOld t)

/-- R179: the occupancy that the row kernel counts on before row r: the exact one after row r − 3, then the two rows in flight at their
caps, then the drain of row r's period. -/
def Chip.occBefore (c : Chip) (ch t r : Nat) : Nat :=
  let x := c.chan ch
  let start := match x.dus[2]? with
    | some d => if d.bits.isSome then d.occ else x.occ
    | none => if x.dus = [] then x.occ else 0
  let two := match x.dus[1]? with
    | some d => (start - c.drainRow ch t r 2) + d.capNal
    | none => start
  let one := match x.dus[0]? with
    | some d => (two - c.drainRow ch t r 1) + d.capNal
    | none => two
  one - c.drainRow ch t r 0

/-- R182: bits spent before row r of a picture of Turn t: those of the rows to r − 3, and the targets of the two rows in flight. -/
def ChanRate.spent (x : ChanRate) (t r : Nat) : Nat :=
  ((x.dus.filter (fun d => d.turn == t && decide (d.row < r))).map (fun d =>
    if d.row + 3 ≤ r then d.bits.getD d.target else d.target)).sum

/-- R182: what the row kernel of row r works out: complexity, target, q before floor mode, and the bits left. -/
structure RowPlan where
  cx : Nat
  caps : List Nat
  bound : Nat
  target : Nat
  left : Int
  q : Nat
  groups : List Nat

/-- R179, R182: caps, target, q and the QPs of the quantisation groups of row r of the picture in P2. -/
def Chip.rowPlan (c : Chip) (ch r : Nat) : RowPlan :=
  let x := c.chan ch
  let y := x.cur
  let rows := c.chanRows ch
  let vvc := c.chanVvc ch
  let b := c.hardBound ch y.turn r
  let room := b - c.occBefore ch y.turn r - (if r = 0 then (c.chanDef ch).ovh else 0)
  let widths := c.chanShares ch
  let least := c.floorPayloads ch (c.chanPic ch y.turn)
  let caps := (shareCaps widths (largestCap widths room 48 0 (room + 1))).zipWith max least
  let pic := c.codedPic ch y.turn
  let cxAt (j : Nat) : Nat := (rowComplexity vvc y.intra pic j).getD (max 1 (tget 1 x.cx j))
  let left : Int := y.target - (x.spent y.turn r : Nat)
  let sumCx := max 1 ((range' r rows).map cxAt).sum
  let target : Nat := min (left.toNat * cxAt r / sumCx) caps.sum
  let beta := if y.intra then x.betaIntra else x.betaInter
  let qprev : Int := if y.intra then x.qIntra else x.qInter
  let step : Int := max 1 (c.get R.RATE_RCCFG_ROWSTEP ch)
  let lo : Int := c.get R.RATE_RCCFG_QPMIN ch
  -- R136: the QP of HEVC ends at 51
  let hi : Int := min (c.get R.RATE_RCCFG_QPMAX ch) (maxQp vvc)
  let q0 : Int := 30 + log2Sixths (beta * cxAt r) (max 1 target * 65536)
  let q := clampI (clampI q0 (qprev - step) (qprev + step)) lo hi
  let recs := (if vvc then [2 * r, 2 * r + 1] else [r]).flatMap (fun j => tget [] pic.records j)
  let meanAct := if recs.isEmpty then 1 else (recs.map (·.act)).sum / recs.length
  { cx := cxAt r, caps := caps, bound := b, target := target, left := left, q := q.toNat,
    groups := recs.map (fun e => (clampI (q + groupOffset e.act meanAct (c.get R.RATE_RCCFG_AQMAX ch)) lo hi).toNat) }

/-- R180: the copy of a channel's rate-control state in DRAM takes its state at the end of a P2. -/
def Chip.saveRate (c : Chip) (ch : Nat) : Chip := { c with rateCopy := tset {} c.rateCopy ch (c.chan ch) }

/-- R179, R182–R185, R227, R228: the row kernel of row r at P2. A substitute, or a void record, makes the row a floor row; a floor row of
a refresh picture, a scheduled IRAP or a GDR picture is made of intra guard candidates. QPROW shows q as R182 computes it (R197), and the
qprev of the next row is the q of the last row that was no floor row (log entry 124). -/
def Chip.rowKernel (c : Chip) (ch r : Nat) (subst : Bool) : Chip :=
  let x := c.chan ch
  let y := x.cur
  let vvc := c.chanVvc ch
  let pic := c.chanPic ch y.turn
  let m := c.rowPlan ch r
  let floorBound := ((c.floorPayloads ch pic).map nalBits).sum
  let floorNow := y.floor || decide (m.left < (floorBound * (c.chanRows ch - r) : Nat))
  let isFloor := floorNow || subst
  let began := floorNow && !y.floor
  let qUse := if isFloor then maxQp vvc else m.q
  let du : RowRate := { turn := y.turn, row := r, target := m.target, q := qUse, groups := if isFloor then [] else m.groups,
                        capNal := capNalBits m.caps, floor := isFloor }
  let x' := { x with
    cur := { y with qSum := (y.qSum.1 + qUse, y.qSum.2 + 1), floor := floorNow },
    dus := (du :: x.dus).take (2 * c.chanRows ch + 3), cx := tset 1 x.cx r m.cx,
    qIntra := if y.intra ∧ isFloor = false then m.q else x.qIntra,
    qInter := if y.intra ∨ isFloor = true then x.qInter else m.q }
  let c := c.setChan ch x'
  let c := (c.set R.RATE_HARDBITS ch m.bound).set R.RATE_RCSTAT_QPROW ch m.q
  let c := c.setB R.RATE_RCSTAT_FLOOR ch isFloor
  let c := c.when began (fun c => (c.set R.RATE_RCSTAT_FLOORSEEN ch 1).bump R.RATE_FLOORCNT_PICS ch)
  let c := c.when isFloor (·.bump R.RATE_FLOORCNT_ROWS ch)
  -- the caps and the mode reach every share's lane
  let c := c.each (c.slotsOf ch) (fun c (pc, k) =>
    let old := (c.laneSlot pc k).isOld y.turn
    let c := c.setRow pc k old r (fun v => { v with qcap := some (m.caps.getD (c.sharePos pc) 0) })
    c.when isFloor (·.guardRow pc k old r (pic.isRefresh || pic.starts)))
  c.saveRate ch

/-- 2^(x / 1,024) with 16 fraction bits, from the program's 1,024-entry table T1 (R230), x any integer. -/
def Chip.exp2 (c : Chip) (x : Int) : Nat :=
  let m := (tget (0 : Word) c.tables.consts (1024 + (x % 1024).toNat)).toNat
  if 0 ≤ x then m * 2 ^ (x / 1024).toNat else m / 2 ^ (-(x / 1024)).toNat

/-- R179, R181, R182: row r of the picture of Turn t of a channel has left P4 with `nal` bits of its NAL units, and `fill` bits of filler
ahead of it (R191): the DU joins the output buffer after a row period's drain, and beta follows. The last row tells the picture's size
(R189). -/
def Chip.rowDone (c : Chip) (ch t r nal fill : Nat) : Chip :=
  let x := c.chan ch
  let occ := (x.occ - c.drainRow ch t r 0) + nal + fill
  let du := (x.dus.find? (fun d => d.turn == t && d.row == r)).getD {}
  let intra := if x.old.turn == t && x.cur.turn != t then x.old.intra else x.cur.intra
  let upd (beta : Nat) : Nat := (3 * beta + nal * c.exp2 (((du.q : Int) - 30) * 1024 / 6) / max 1 (tget 1 x.cx r)) / 4
  let dus := x.dus.map (fun d => if d.turn == t && d.row == r then { d with bits := some nal, occ := occ } else d)
  let last := decide (r + 1 = c.chanRows ch)
  let x' := { x with
    occ := occ, dus := dus,
    betaIntra := if intra then upd x.betaIntra else x.betaIntra,
    betaInter := if intra then x.betaInter else upd x.betaInter }
  let x' := if last then
      { x' with lastBits := x'.picBits t, lastQ := if x.old.turn == t && x.cur.turn != t then x.old.qSum else x.cur.qSum }
    else x'
  let c := c.setChan ch x'
  let c := c.set R.RATE_OCC ch (min occ (2 ^ 32 - 1))
  c.set R.RATE_OCCPEAK ch (max (c.get R.RATE_OCCPEAK ch) (c.get R.RATE_OCC ch))

/-! ### Statistical multiplex (R189) -/

/-- R553, R189: the members of a statmux group that are not shed, ascending. -/
def Chip.smMembers (c : Chip) (g : Nat) : List Nat :=
  (List.range 96).filter (fun ch =>
    c.on R.RATE_RCCFG_EN ch && c.get R.RATE_RCCFG_MODE ch == 2 && c.get R.RATE_RCCFG_SMGROUP ch == g && !c.chanShed ch)

/-- R189: allocations clamped to their bands with the rest shared in proportion to need until no member changes; a member
is (need, min, max, held), rates in kb/s × 2¹⁶. `fuel` is the number of members plus one. -/
def smClamp (g : Nat) : Nat → List (Nat × Nat × Nat × Option Nat) → List Nat
  | 0, l => l.map (fun m => m.2.2.2.getD m.2.1)
  | n + 1, l =>
    let held := (l.map (fun m => m.2.2.2.getD 0)).sum
    let free := (l.filter (fun m => m.2.2.2.isNone)).map (·.1)
    let share (need : Nat) : Nat := (g - held) * need / max 1 free.sum
    let l' := l.map (fun (need, lo, hi, h) => match h with
      | some v => (need, lo, hi, some v)
      | none =>
        let a := share need
        if a < lo then (need, lo, hi, some lo) else if hi < a then (need, lo, hi, some hi) else (need, lo, hi, none))
    if l' = l then l.map (fun m => m.2.2.2.getD (share m.1)) else smClamp g n l'

/-- R189: the remainder of G is given in ascending order, 8 kb/s each, up to MAXKB, in rounds until nothing more fits (log entry 131);
`fuel` bounds the rounds. -/
def smRemainder : Nat → Nat → List (Nat × Nat) → List Nat
  | 0, _, l => l.map (·.1)
  | n + 1, rest, l =>
    let (rest', l') := l.foldl (fun (r, acc) (a, hi) =>
      if 8 ≤ r ∧ a + 8 ≤ hi then (r - 8, acc ++ [(a + 8, hi)]) else (r, acc ++ [(a, hi)])) (rest, [])
    if rest' = rest then l'.map (·.1) else smRemainder n rest' l'

/-- R188, R189, R192: the group rate G in force in the next Turn: the present one, or that of the last trim that takes effect by then. -/
def Chip.groupNext (c : Chip) (g : Nat) : Nat :=
  let now := c.turn (c.get R.RATE_SMCFG_PLANE g)
  let ms := (List.range 96).filter (fun ch =>
    c.on R.RATE_RCCFG_EN ch && c.get R.RATE_RCCFG_MODE ch == 2 && c.get R.RATE_RCCFG_SMGROUP ch == g)
  let lo := (ms.map (fun ch => c.get R.RATE_MINKB ch)).sum
  let hi := (ms.map (fun ch => c.get R.RATE_MAXKB ch)).sum
  ((c.groupTrims g).filter (fun x => decide (sdiff 40 x.1 now ≤ 1))).foldl (fun _ x => max lo (min x.2 hi)) (c.get R.RATE_SMCURKB g)

/-- R189: the allocation of group g for the next Turn. The mean QP of a picture is that of its row QPs, and SMQBAR shows qbar rounded to
the nearest integer and held at 63 (log entry 131). A substitute keeps the allocations of the Turn before (R228). -/
def Chip.statmux (c : Chip) (g : Nat) (subst : Bool) : Chip :=
  if subst then c
  else
    let ms := c.smMembers g
    let w (ch : Nat) : Nat := max 1 (c.get R.RATE_RCWEIGHT_SMWEIGHT ch)
    -- mean QP of the last picture × 1,024
    let qm (ch : Nat) : Nat := let q := (c.chan ch).lastQ; q.1 * 1024 / max 1 q.2
    let wsum := max 1 (ms.map w).sum
    let qbar := (ms.map (fun ch => w ch * qm ch)).sum / wsum
    let need (ch : Nat) : Nat := w ch * (c.chan ch).lastBits * c.exp2 (((qm ch : Int) - qbar) / 6) / 65536
    let gkb := c.groupNext g
    let a := smClamp (gkb * 65536) (ms.length + 1)
      (ms.map (fun ch => (need ch, c.get R.RATE_MINKB ch * 65536, c.get R.RATE_MAXKB ch * 65536, none)))
    let a8 := a.map (fun v => v / 65536 / 8 * 8)
    let rest := gkb - a8.sum
    let fin := smRemainder (ms.length + rest) rest (a8.zip (ms.map (fun ch => c.get R.RATE_MAXKB ch)))
    let c := c.each (ms.zip fin) (fun c (ch, kb) => c.setChan ch { c.chan ch with alloc := some kb })
    c.set R.RATE_SMQBAR g (min 63 ((qbar + 512) / 1024))

/-! ### Boundaries (R189, R192) -/

/-- R189: at a boundary of plane p the allocations of statmux members come into force. -/
def Chip.rateBoundary (c : Chip) (p : Nat) : Chip :=
  c.each ((List.range 96).filter (fun ch => c.on R.RATE_RCCFG_EN ch && (c.chanDef ch).plane == p)) (fun c ch =>
    let x := c.chan ch
    match x.alloc with
    | some kb => if c.rateMode ch = 2 then (c.setChan ch { x with alloc := none }).set R.RATE_CURKB ch kb else c
    | none => c)

/-- R189, R192: the band of a channel, or of a statmux group, whose rates lie between the sums of its members' (R188). -/
def Chip.trimBand (c : Chip) : RateTarget → Nat × Nat
  | .chan ch => (c.get R.RATE_MINKB ch, c.get R.RATE_MAXKB ch)
  | .group g =>
    let ms := (List.range 96).filter (fun ch =>
      c.on R.RATE_RCCFG_EN ch && c.get R.RATE_RCCFG_MODE ch == 2 && c.get R.RATE_RCCFG_SMGROUP ch == g)
    ((ms.map (fun ch => c.get R.RATE_MINKB ch)).sum, (ms.map (fun ch => c.get R.RATE_MAXKB ch)).sum)

/-- R192: a trim takes effect, clamped into the band in force. -/
def Chip.applyTrim (c : Chip) (t : RateTarget) (kb : Nat) : Chip :=
  let (lo, hi) := c.trimBand t
  let kb := max lo (min kb hi)
  match t with
  | .chan ch => c.set R.RATE_CURKB ch kb
  | .group g => c.set R.RATE_SMCURKB g kb

/-- R196: TRIMPEND of a channel. -/
def Chip.trimShown (c : Chip) (ch : Nat) : Chip := c.setB R.RATE_RCSTAT_TRIMPEND ch (!(c.trims ch).isEmpty)

/-- R173, R195: the drain with which a channel starts: NOMKB, or the cap of capped VBR. -/
def Chip.startKb (c : Chip) (ch : Nat) : Nat := if c.rateMode ch = 1 then c.get R.RATE_MAXKB ch else c.get R.RATE_NOMKB ch

/-- R195, R182: at a plane start the drain of each channel of the plane is its starting rate, and beta and K start afresh. -/
def Chip.rateStart (c : Chip) (p : Nat) : Chip :=
  let c := c.each ((List.range 96).filter (fun ch => c.on R.RATE_RCCFG_EN ch && (c.chanDef ch).plane == p)) (fun c ch =>
    let d := c.chanDef ch
    let c := c.setChan ch { betaIntra := d.betaIntra, betaInter := d.betaInter }
    (c.set R.RATE_CURKB ch (c.startKb ch)).set R.RATE_CARRY ch 0)
  c.each ((List.range 32).filter (fun g => c.on R.RATE_SMCFG_EN g && c.get R.RATE_SMCFG_PLANE g == p)) (fun c g =>
    c.set R.RATE_SMCURKB g (c.get R.RATE_SMKB g))

/-! ### HRD (R175, R190, R191) -/

/-- R175: whether a DU whose last bit is nominally sent at `sent` ns after the boundary makes u(r) − W − τ. -/
def Chip.hrdOk (c : Chip) (ch r sent : Nat) : Bool :=
  let (u, b) := c.removalAt ch r
  let w := c.chanWindow ch
  decide (9 * b * (sent + w) + 100000 * b ≤ 9 * u)

/-- R175: an HRD fault of a channel. -/
def Chip.hrdFault (c : Chip) (ch : Nat) : Chip :=
  let p := (c.chanDef ch).plane
  (c.set R.RATE_RCSTAT_HRDFLT ch 1).fault 3 2 20 blkRate 0x04 ch (some p)

/-- R190: bit_rate_value_minus1 and cpb_size_value_minus1 for R_hrd kb/s and a CPB delay in ns. -/
def hrdValues (kb cpbNs : Nat) : Nat × Nat := (kb * 1000 / 64 - 1, ceilDiv (kb * cpbNs) (16 * 1000000) - 1)

/-- R173: R_hrd signalled and cbr_flag, which is 0 in TS transport. -/
def Chip.hrdRate (c : Chip) (ch : Nat) : Nat × Bool :=
  if c.rateMode ch = 0 ∧ c.get R.RATE_MINKB ch = c.get R.RATE_MAXKB ch then (c.get R.RATE_CURKB ch, !c.chanTs ch)
  else (c.get R.RATE_MAXKB ch, false)

/-- R190: the HRD syntax of a channel. -/
def Chip.hrdSet (c : Chip) (ch : Nat) : HrdSet :=
  let r := c.rateOf (c.chanDef ch).plane
  let (kb, cbr) := c.hrdRate ch
  let (rate, size) := hrdValues kb (c.chanDef ch).cpbNs
  { units := r.2, scale := r.1, divisor := c.chanRows ch - 2, bitRate := rate, cpbSize := size, cbr := cbr }

/-- R191: the initial removal delay written, in 90 kHz units, for u(0) − t₁ of a / b ns, and the filler bytes that cut the
fraction at `kb` kb/s, rounded up to a whole byte. -/
def initialDelay (kb : Nat) (t : Nat × Nat) : Nat × Nat :=
  let v := t.1 * 9 / (t.2 * 100000)
  -- ns cut × 9 × b
  let cut := 9 * t.1 - v * 100000 * t.2
  (v, ceilDiv (kb * cut) (8 * 9 * 1000000 * t.2))

/-! ### Decoding units (R142, R171, R190, R191) -/

/-- R191: u(0) − t₁ of the picture of Turn t, with DU 0 ready behind `occ` bits, as a fraction of ns: the CPB delay less the time in which
the drain sends those bits. -/
def Chip.firstBitSpan (c : Chip) (ch occ : Nat) : Nat × Nat :=
  let kb := max 1 (c.drainKb ch)
  ((c.chanDef ch).cpbNs * kb - occ * 1000000, kb)

/-- The filtered lines of a picture of Turn t in a slot, those that the next row period completes included (R131). -/
def Chip.decodedLines (c : Chip) (pc k t : Nat) : Tab LineOut :=
  let s := c.laneSlot pc k
  let q := s.pic (s.isOld t)
  let rows := (List.range (c.slotGrid pc k).2).filter (c.ownsRow pc k)
  let e := rows.getLast?.getD 0
  let b := bottomLines (c.slotSize pc k).2 (c.slotCtu pc k) e
  ((s.refs.find? (fun r => r.turn == t)).getD {}).lines ++ c.filterLines pc k q e e b.1 b.2

/-- R142: the CRCs of the luma, Cb and Cr of the decoded picture of Turn t of a channel, its shares side by side. -/
def Chip.decodedCrcs (c : Chip) (ch t : Nat) : List Nat :=
  let slots := c.slotsOf ch
  let (pc0, k0) := c.leadSlot ch
  let i := slotIx pc0 k0
  let is422 := c.on R.LANE_CHCFG_CHROMA i
  let (w, h) := c.slotSize pc0 k0
  let depth := if c.on R.LANE_CHCFG_EIGHTBIT i then 8 else 10
  let slots := if c.get R.LANE_LANECFG_SHAREMODE pc0 = 2 then slots.take 1 else slots
  let views := slots.map (fun (pc, k) =>
    viewOf is422 (min (w - c.slotCtu pc k * c.shareLeft pc k) (c.slotCtu pc k * c.sliceCtus pc k)) h ch { lines := c.decodedLines pc k t })
  let ch2 := if is422 then h else h / 2
  [pictureCrc depth ((List.range h).flatMap (fun l => views.flatMap (·.y l))),
   pictureCrc depth ((List.range ch2).flatMap (fun l => views.flatMap (·.cb l))),
   pictureCrc depth ((List.range ch2).flatMap (fun l => views.flatMap (·.cr l)))]

/-- R171, R191: the NAL units ahead of DU 0, the removal delay of a buffering period filled in, and the filler bytes that go before them. -/
def Chip.duHead (c : Chip) (ch occ : Nat) (head : List HeadNal) : Nat × List HeadNal :=
  let (delay, fill) := initialDelay (c.drainKb ch) (c.firstBitSpan ch occ)
  let bp := head.any (fun n => match n with | .sei (.bufferingPeriod _ _) => true | _ => false)
  (if bp then fill else 0, head.map (fun n => match n with | .sei (.bufferingPeriod _ o) => .sei (.bufferingPeriod delay o) | n => n))

/-- R142, R171, R190: the NAL units of DU r of a picture around its slices, and the filler bytes ahead of them: those of the picture before
DU 0, a DU information message before every other DU, and the picture hash after the last. -/
def Chip.duParts (c : Chip) (ch t r : Nat) : Nat × List HeadNal × List HeadNal :=
  let (pc, k) := c.leadSlot ch
  let occ := (c.chan ch).occ - c.drainRow ch t r 0
  let pre := if r = 0 then c.duHead ch occ (c.chanPic ch t).head else (0, [.sei (.unitInfo 1)])
  let hash := decide (r + 1 = c.chanRows ch) && c.on R.LANE_CHGOP_HASH (slotIx pc k)
  (pre.1, pre.2, if hash then [.sei (.pictureHash (c.decodedCrcs ch t))] else [])

/-- Slices of a DU in the order of their shares (R126). -/
def byShare : List NalUnit → List NalUnit
  | [] => []
  | u :: l => let s := byShare l; s.takeWhile (fun v => decide (v.share < u.share)) ++ [u] ++ s.dropWhile (fun v => decide (v.share < u.share))

/-- The last NAL unit of a list is the last of its DU. -/
def markLast : List NalUnit → List NalUnit
  | [] => []
  | [u] => [{ u with lastOfDu := true }]
  | u :: l => u :: markLast l

/-- R127: slices that make up a DU of a channel: one for each share, and one in a channel of row shares. -/
def Chip.duSlices (c : Chip) (ch : Nat) : Nat :=
  if (c.slotsOf ch).any (fun s => c.get R.LANE_LANECFG_SHAREMODE s.1 == 2) then 1 else (c.slotsOf ch).length

/-- R126, R142, R171, R179, R182, R190, R191: row r of the picture of Turn t of channel ch has left P4 in a share: once every share has
coded it, its DU is ready: its NAL units go to the bitstream buffer, and rate control counts them. -/
def Chip.rowLeft (c : Chip) (ch t r : Nat) : Chip :=
  let mine (u : NalUnit) : Bool := u.row == r && u.turn == t % 2 ^ 32
  let l := (tget [] c.lanes.parts ch).filter mine
  if l.length < c.duSlices ch then c
  else
    let vvc := c.chanVvc ch
    let (fill, pre, post) := c.duParts ch t r
    let unit (n : HeadNal) : NalUnit := { chan := ch, row := r, turn := t % 2 ^ 32, bytes := headNalBytes vvc n, slice := false }
    let filler : List NalUnit := if fill = 0 then [] else [{ unit (.filler (max 3 fill)) with filler := true }]
    let du := pre.map unit ++ byShare l ++ post.map unit
    let c := { c with lanes := { c.lanes with
      parts := tset [] c.lanes.parts ch ((tget [] c.lanes.parts ch).filter (fun u => !mine u)),
      nals := tset [] c.lanes.nals ch (tget [] c.lanes.nals ch ++ filler ++ markLast du) } }
    c.when (c.on R.RATE_RCCFG_EN ch) (·.rowDone ch t r (8 * (du.map (fun u => u.bytes.length)).sum)
      (8 * (filler.map (fun u => u.bytes.length)).sum))

/-- R194: a CNTCLR write clears OCCPEAK, FLOORCNT and CAPCTU of a channel context. -/
def execRateCntclr (v : Word) (s : State) : Host.Outcome State Fault Refusal :=
  onChip (fun c =>
    if bit v.toNat 31 then
      let ch := bits v.toNat 6 0
      if ch < 96 then
        let c := (c.set R.RATE_OCCPEAK ch 0).set R.RATE_FLOORCNT_PICS ch 0
        (c.set R.RATE_FLOORCNT_ROWS ch 0).set R.RATE_CAPCTU ch 0
      else c
    else c) s

end Sys2Proof.Machine
end

