-- ==== Sys2Proof/Machine/Spindle.lean ====
section
/-! DEFINITION. Spindle engines: register files, bundles, the operations and their latencies, running a kernel, engine faults,
fabric moves and commits (Spindle Engines). An engine's time is the ENG cycle count of its RUN; a command that issues an
operation names the cycle, and the operation is that of the bundle the engine's control flow has reached. -/

namespace Sys2Proof.Machine

/-! ### Engines -/

/-- Engine n. -/
def Chip.engine (c : Chip) (n : Nat) : Engine := tget {} c.spn.eng n

/-- Engine n replaced. -/
def Chip.setEngine (c : Chip) (n : Nat) (e : Engine) : Chip := { c with spn := { c.spn with eng := tset {} c.spn.eng n e } }

/-- R199: index of engine n's register pair j of its arrival counters, in strides of 4. -/
def acIx (n a : Nat) : Nat := 0x400 * n + a / 2

/-- R201: arrival counter a of engine n. -/
def Chip.acGet (c : Chip) (n a : Nat) : Nat :=
  if a % 2 = 0 then c.get R.SPN_ACPAIR_LO (acIx n a) else c.get R.SPN_ACPAIR_HI (acIx n a)

/-- R222: arrival counter a of engine n replaced, 16 bits. -/
def Chip.acSet (c : Chip) (n a v : Nat) : Chip :=
  if a % 2 = 0 then c.set R.SPN_ACPAIR_LO (acIx n a) v else c.set R.SPN_ACPAIR_HI (acIx n a) v

/-- R222, R225: an arrival counter rises by 1. -/
def Chip.acRise (c : Chip) (n a : Nat) : Chip := c.acSet n a ((c.acGet n a + 1) % 65536)

/-- R200: the plan engine that physical engine n serves, if any. -/
def Chip.planEngine (c : Chip) (n : Nat) : Option Nat := (c.planCol (n / 12)).map (fun pc => 12 * pc + n % 12)

/-- R200: the physical engine that serves plan engine m, if any. -/
def Chip.physEngine (c : Chip) (m : Nat) : Option Nat := (c.physCol (m / 12)).map (fun x => 12 * x + m % 12)

/-- The plane of an engine's plan column (R668). -/
def Chip.enginePlane (c : Chip) (n : Nat) : Option Nat := (c.planCol (n / 12)).bind c.colPlane

/-! ### Register files (R201) -/

/-- R201: scalar register; S0 reads 0. -/
def sread (e : Engine) (r : Nat) : Word := if r = 0 then 0 else tget 0 e.sreg r

/-- R201: mask register; VM0 reads all ones. -/
def mread (e : Engine) (r : Nat) : BitVec 64 := if r = 0 then BitVec.allOnes 64 else tget 0 e.vmask r

/-- R201: a register written; writes to S0 and VM0 are ignored. -/
def regWrite (e : Engine) (d : SpnDest) (v : BitVec 512) : Engine :=
  match d with
  | .sreg r => if r = 0 then e else { e with sreg := tset 0 e.sreg r (v.setWidth 32) }
  | .vreg r => { e with vreg := tset 0 e.vreg r v }
  | .vmask r => if r = 0 then e else { e with vmask := tset 0 e.vmask r (v.setWidth 64) }

/-- A result put into the list of results in flight, in order of the cycle it is due. -/
def insertResult (x : SpnResult) : List SpnResult → List SpnResult
  | [] => [x]
  | y :: t => if x.due < y.due then x :: y :: t else y :: insertResult x t

/-- Whether two results for one register fall due in one cycle before `cyc` (R214, cause 0x3). -/
def doubleWrite (cyc : Nat) : List SpnResult → Bool
  | [] => false
  | x :: t => (decide (x.due < cyc) && t.any (fun y => decide (y.due = x.due) && decide (y.dest = x.dest))) || doubleWrite cyc t

/-- R219: a store put into the stores of its cycle in the order arriving beat, vector store, scalar store. -/
def insertStore (x : SpnStore) : List SpnStore → List SpnStore
  | [] => [x]
  | y :: t => if x.cyc < y.cyc ∨ (x.cyc = y.cyc ∧ x.prio < y.prio) then x :: y :: t else y :: insertStore x t

/-- Bytes written to a scratchpad from an address. -/
def padWrite (e : Engine) (a : Nat) (bs : List Byte) : Engine :=
  { e with pad := (bs.zip (List.range bs.length)).foldl (fun t (b, j) => tset 0 t (a + j) b) e.pad }

/-- R220: a write clears double-bit errors of the words it rewrites whole; a whole line clears the line's poison. -/
def padStore (e : Engine) (s : SpnStore) : Engine :=
  let e := padWrite e s.addr s.bytes
  if s.bytes.length = 64 then
    let ws := (List.range 8).map (· + s.addr / 8)
    { e with poison := tset false e.poison (s.addr / 64) s.poisoned,
             dbl := ws.foldl (fun t w => tset false t w false) e.dbl, sgl := ws.foldl (fun t w => tset false t w false) e.sgl }
  else e

/-- R202, R219: everything due before ENG cycle `cyc` is written: results at the end of their latency, and stores of earlier
cycles in their order. -/
def settle (e : Engine) (cyc : Nat) : Engine :=
  let e := (e.results.filter (fun r => decide (r.due < cyc))).foldl (fun e r => regWrite e r.dest r.val) e
  let e := { e with results := e.results.filter (fun r => decide (¬ r.due < cyc)) }
  let e := (e.stores.filter (fun s => decide (s.cyc < cyc))).foldl padStore e
  { e with stores := e.stores.filter (fun s => decide (¬ s.cyc < cyc)) }

/-! ### Bundles (R204–R206) -/

/-- R204: bundle at an index of the library. -/
def Chip.bundle (c : Chip) (pc : Nat) : Nat := (tget (0 : BitVec 128) c.spn.lib pc).toNat

/-- R204: END. -/
def bEnd (b : Nat) : Bool := bit b 127
/-- R205: SOP. -/
def bSop (b : Nat) : Nat := bits b 119 112
/-- R205: SD. -/
def bSd (b : Nat) : Nat := bits b 111 107
/-- R205: SA. -/
def bSa (b : Nat) : Nat := bits b 106 102
/-- R205: SB. -/
def bSb (b : Nat) : Nat := bits b 101 97
/-- R205: IMMSEL. -/
def bImmsel (b : Nat) : Bool := bit b 96
/-- R205: scalar IMM. -/
def bSimm (b : Nat) : Nat := bits b 95 80
/-- R205: VOP. -/
def bVop (b : Nat) : Nat := bits b 79 72
/-- R205: LW. -/
def bLw (b : Nat) : Nat := bits b 71 70
/-- R205: VD. -/
def bVd (b : Nat) : Nat := bits b 69 65
/-- R205: VA. -/
def bVa (b : Nat) : Nat := bits b 64 60
/-- R205: VB. -/
def bVb (b : Nat) : Nat := bits b 59 55
/-- R205: VMSEL. -/
def bVmsel (b : Nat) : Nat := bits b 54 52
/-- R205: SADR. -/
def bSadr (b : Nat) : Nat := bits b 51 47
/-- R205: vector IMM. -/
def bVimm (b : Nat) : Nat := bits b 46 32
/-- R205: MOP. -/
def bMop (b : Nat) : Nat := bits b 31 26
/-- R205: MS. -/
def bMs (b : Nat) : Nat := bits b 25 21
/-- R205: MV. -/
def bMv (b : Nat) : Nat := bits b 20 16
/-- R205: ACN. -/
def bAcn (b : Nat) : Nat := bits b 15 12
/-- R205: move IMM. -/
def bMimm (b : Nat) : Nat := bits b 11 0

/-- R207: whether a scalar opcode is listed. -/
def sopListed (o : Nat) : Bool :=
  decide (1 ≤ o ∧ o ≤ 0x27) || decide (0x30 ≤ o ∧ o ≤ 0x38) || decide (0x40 ≤ o ∧ o ≤ 0x47) || o == 0x50 || o == 0x58

/-- R207: whether a vector opcode is listed. -/
def vopListed (o : Nat) : Bool :=
  decide (1 ≤ o ∧ o ≤ 0x53) || decide (0x58 ≤ o ∧ o ≤ 0x67) || decide (0x70 ≤ o ∧ o ≤ 0x73)

/-- R207: whether a move opcode is listed. -/
def mopListed (o : Nat) : Bool := decide (1 ≤ o ∧ o ≤ 7) || o == 0x10 || o == 0x11 || o == 0x18

/-- R206, R224: a bundle with a non-zero reserved bit, a reserved opcode, LW 3, or an ACHK with an operand field that must
be 0, is a control violation. A slot is a NOP only when it is all zero (R204). -/
def bundleBad (b : Nat) : Bool :=
  decide (bits b 126 120 ≠ 0) ||
  (decide (bits b 119 80 ≠ 0) && !sopListed (bSop b)) ||
  (decide (bits b 79 32 ≠ 0) && (!vopListed (bVop b) || bLw b == 3)) ||
  (decide (bits b 31 0 ≠ 0) && !mopListed (bMop b)) ||
  (bSop b == 0x50 && (decide (16 ≤ bSa b) || decide (bSd b ≠ 0) || decide (bSb b ≠ 0) || bImmsel b))

/-! ### Control flow (R208) -/

/-- R208: the engine after one ENG cycle: a pending transfer counts its delay bundles and takes effect; at the end bundle
of the innermost loop the body repeats or the loop ends. -/
def tick (e : Engine) : Engine :=
  let e := { e with cyc := e.cyc + 1, slots := e.slots - 1 }
  match e.jump with
  | some (0, t) => { e with pc := t, jump := none, bubble := false }
  | some (k + 1, t) => if e.bubble then { e with jump := some (k, t) } else { e with pc := e.pc + 1, jump := some (k, t) }
  | none =>
    match e.loops with
    | l :: rest =>
      if e.pc = l.stop then
        if 1 < l.left then { e with pc := l.start, loops := { l with left := l.left - 1 } :: rest }
        else { e with pc := e.pc + 1, loops := rest }
      else { e with pc := e.pc + 1 }
    | [] => { e with pc := e.pc + 1 }

/-! ### Engine faults (R214–R216, R241) -/

/-- R214: the causes that make the column faulty. -/
def spnFaulty (cause : Nat) : Bool := cause != 7

/-- R215, R241: an engine fault is recorded (the lower code when two meet in a cycle, MORE after the first) and reported. -/
def Chip.spnRecord (c : Chip) (n cause kernel pc : Nat) : Chip :=
  let c := if cause = 7 then c.set R.SPN_SPNSTAT_LATE n 1 else c.set R.SPN_SPNSTAT_FLT n 1
  let c :=
    if c.on R.SPN_FAULTREC_VALID n then c.set R.SPN_FAULTREC_MORE n 1
    else
      let c := (c.set R.SPN_FAULTREC_VALID n 1).set R.SPN_FAULTREC_CAUSE n cause
      let c := (c.set R.SPN_FAULTREC_KERNEL n kernel).set R.SPN_FAULTREC_PC n pc
      c.set R.SPN_FAULTTURN n (match c.enginePlane n with | some p => c.turn p % 2 ^ 32 | none => 0)
  c.fault (if spnFaulty cause then 2 else 1) 3 (n / 12) blkSpn cause n (c.enginePlane n)

/-- R202, R215: an engine whose kernel stops in ENG cycle t: results due in earlier cycles have been written, those in flight are not; the
stores that it has made remain. -/
def stopped (e : Engine) (t : Nat) : Engine := { settle e t with results := [] }

/-- R215, R216: an engine fault that aborts the kernel, in the present ENG cycle: issue stops, no result in flight is written, the divider
is cancelled, and stores already made remain. Two results for one register that fall due in that cycle are a second cause: the lower
code is recorded and MORE set. A cause of the same cycle that is found later is noted. The target completes when the abort does, with
its marks. -/
def Chip.engineFault (c : Chip) (n cause : Nat) : Chip :=
  let e := c.engine n
  match e.run with
  | none => c
  | some r =>
    if r.stop.isSome then c.setEngine n { e with run := some { r with again := some cause } }
    else
      let two := decide (cause ≠ 3) && doubleWrite (e.cyc + 1) e.results
      let c := c.spnRecord n (if two then min cause 3 else cause) r.kernel (e.pc % 4096)
      let c := c.when two (·.set R.SPN_FAULTREC_MORE n 1)
      let c := c.setEngine n { stopped e e.cyc with run := some { r with stop := some e.cyc } }
      let c := (c.set R.SPN_SPNSTAT_ABORTING n 1).bump R.SPN_SUBCNT_ABORTS n
      match c.planEngine n with
      | some m => let k := targetKey 2 m; c.setTarget k { c.target k with aborting := true, work := .idle }
      | none => c

/-- R216: a second cause of the ENG cycle in which engine n's kernel stopped: the record, and the report that has not
reached the collector, take the lower code, and MORE is set. -/
def Chip.engineAgain (c : Chip) (n cause : Nat) : Chip :=
  let was := c.get R.SPN_FAULTREC_CAUSE n
  let c := c.set R.SPN_FAULTREC_MORE n 1
  if cause < was then
    let lower (m : FaultMsg) : FaultMsg := if m.block = blkSpn ∧ m.unit = n ∧ m.cause = was then { m with cause := cause } else m
    ({ c with saf := { c.saf with inbox := c.saf.inbox.map lower } }).set R.SPN_FAULTREC_CAUSE n cause
  else c

/-- R46, R216: the sequencer aborts an engine: nothing is recorded by the engine. -/
def Chip.engineAbort (c : Chip) (n : Nat) : Chip :=
  let e := c.engine n
  let c := c.setEngine n { settle (stopped e e.cyc) (e.cyc + 1) with run := none, divFree := 0, jump := none, loops := [], slots := 0 }
  c.set R.SPN_SPNSTAT_ABORTING n 1

/-! ### Issue -/

/-- R206, R209, R220: the bundle that issues in the present ENG cycle is fetched and checked, once: issue at bundle 4,096, a damaged
bundle, or a control violation of its fields. -/
def Chip.fetchCheck (c : Chip) (n : Nat) : Chip :=
  let e := c.engine n
  match e.run with
  | none => c
  | some r =>
    if r.stop.isSome ∨ r.ended ∨ e.bubble ∨ r.fetched = e.cyc + 1 then c
    else
      let c := c.setEngine n { e with run := some { r with fetched := e.cyc + 1 } }
      if 4096 ≤ e.pc then c.engineFault n 5
      else if tget false e.istDbl e.pc then c.engineFault n 2
      else
        let c := c.when (tget false e.istSgl e.pc) (·.bump R.SPN_ECCCNT_IST n)
        if bundleBad (c.bundle e.pc) then c.engineFault n 5 else c

/-- R202, R204, R210, R214: engine n passes one ENG cycle: its bundle is checked, what is due is written (two results for one register are
cause 0x3), and its control flow moves on, until the END bundle has issued. -/
def Chip.engineCycle (c : Chip) (n : Nat) : Chip :=
  let c := c.fetchCheck n
  let e := c.engine n
  match e.run with
  | none => c
  | some r =>
    if r.stop.isSome then c
    else if doubleWrite (e.cyc + 1) e.results then c.engineFault n 3
    else
      let e := settle e (e.cyc + 1)
      if r.ended then c.setEngine n { e with cyc := e.cyc + 1 }
      else if bEnd (c.bundle e.pc) && !e.bubble then
        c.setEngine n { e with cyc := e.cyc + 1, run := some { r with ended := true, endCyc := e.cyc } }
      else c.setEngine n (tick e)

/-- R210: whether engine n still moves: it runs a kernel that has not stopped, is not halted, and has not drained. -/
def engineMoves (e : Engine) : Bool := match e.run with
  | none => false
  | some r => !e.halted && r.stop.isNone && !(r.ended && decide (r.endCyc + 25 ≤ e.cyc))

/-- R210: engine n brought to ENG cycle `cyc` of its RUN, one bundle a cycle. `fuel` bounds the cycles. -/
def Chip.runTo (c : Chip) (n cyc : Nat) : Nat → Chip
  | 0 => c
  | fuel + 1 =>
    if engineMoves (c.engine n) && decide ((c.engine n).cyc < cyc) then (c.engineCycle n).runTo n cyc fuel else c

/-- R210: the ENG cycle of a RUN at a fabric cycle: its first bundle issues 4 ENG cycles after its arrival. -/
def SpnRun.engAt (r : SpnRun) (fab : Nat) : Nat := 2 * (fab - r.start) - 4

/-- R210: engine n brought to a fabric cycle. -/
def Chip.runUntil (c : Chip) (n fab : Nat) : Chip :=
  match (c.engine n).run with
  | none => c
  | some r => c.runTo n (r.engAt fab) (r.engAt fab - (c.engine n).cyc)

/-- The engine at the ENG cycle of an operation, and the bundle it has fetched. None where nothing issues: no RUN, halted, past END, a
bubble, or a cycle that has passed. -/
def Chip.fetch (c : Chip) (n cyc : Nat) : Chip × Option (Engine × Nat) :=
  let c := c.runTo n cyc (cyc - (c.engine n).cyc)
  let c := c.when (decide ((c.engine n).cyc = cyc) && !(c.engine n).halted) (·.fetchCheck n)
  let e := c.engine n
  match e.run with
  | none => (c, none)
  | some r =>
    if e.halted ∨ e.cyc ≠ cyc ∨ r.ended ∨ e.bubble ∨ 4096 ≤ e.pc ∨ tget false e.istDbl e.pc ∨ bundleBad (c.bundle e.pc) then (c, none)
    else (c, some (e, c.bundle e.pc))

/-- R216: an operation of the bundle at ENG cycle `cyc` whose opcode the bundle holds is carried out; where another slot's has stopped the
kernel in that cycle, it has no effect but the cause that it meets. -/
def Chip.issue (c : Chip) (n cyc : Nat) (holds : Nat → Bool) (f : Chip → Engine → Nat → Chip) : Chip :=
  match c.fetch n cyc with
  | (c, some (e, b)) =>
    if !holds b then c
    else match (e.run.getD {}).stop with
      | none => f c e b
      | some _ => match ((f c e b).engine n).run.bind (·.again) with
        | some cause => c.engineAgain n cause
        | none => c
  | (c, none) => c

/-- R202: a result with latency l is due at the end of cycle t + l − 1. -/
def Chip.result (c : Chip) (n : Nat) (d : SpnDest) (v : BitVec 512) (l : Nat) : Chip :=
  let e := c.engine n
  c.setEngine n { e with results := insertResult ⟨d, v, e.cyc + l - 1⟩ e.results }

/-- A scalar result. -/
def Chip.sresult (c : Chip) (n r : Nat) (v : Word) (l : Nat) : Chip := c.result n (.sreg r) (v.setWidth 512) l

/-- R205: the second scalar operand: SB, or IMM sign-extended when IMMSEL is 1. -/
def scalarB (e : Engine) (b : Nat) : Word :=
  if bImmsel b then (BitVec.ofNat 16 (bSimm b)).signExtend 32 else sread e (bSb b)

/-- Division of 32-bit words under the divide-by-zero rules of R203: quotient and remainder, unsigned. -/
def divU (a d : Word) : Word × Word := if d = 0 then (0xFFFFFFFF, a) else (a / d, a % d)

/-- Division of 32-bit words under R203, signed, rounding toward 0: by zero, and 0x8000_0000 / −1, as the rule gives. -/
def divS (a d : Word) : Word × Word :=
  if d = 0 then ((if a.slt 0 then 0x80000000 else 0x7FFFFFFF), a)
  else if a = 0x80000000 ∧ d = 0xFFFFFFFF then (0x80000000, 0)
  else (a.sdiv d, a.srem d)

/-- R207: a scalar ALU result; none where the manual does not state it (shift counts of 32 or more, clamp, select). -/
def saluVal (op : SaluOp) (a b : Word) : Option Word :=
  let t (x : Bool) : Word := if x then 1 else 0
  match op with
  | .add => some (a + b) | .sub => some (a - b) | .and => some (a &&& b) | .or => some (a ||| b) | .xor => some (a ^^^ b)
  | .shl => if b.toNat < 32 then some (a <<< b.toNat) else none
  | .shr => if b.toNat < 32 then some (a >>> b.toNat) else none
  | .sar => if b.toNat < 32 then some (a.sshiftRight b.toNat) else none
  | .eq => some (t (a == b)) | .ne => some (t (a != b)) | .lt => some (t (a.slt b)) | .ltu => some (t (a.ult b))
  | .le => some (t (a.sle b)) | .leu => some (t (a.ule b))
  | .min => some (if a.slt b then a else b) | .minu => some (if a.ult b then a else b)
  | .max => some (if a.slt b then b else a) | .maxu => some (if a.ult b then b else a)
  | .clamp => none | .select => none

/-- R203, R207: SALU on engine n at ENG cycle cyc: latency 1. A result the manual does not state is a free value. -/
def execSalu (n : Fin 192) (cyc : Nat) (op : SaluOp) (s : State) : Host.Outcome State Fault Refusal :=
  onChip (fun c => c.issue n.val cyc (fun b => decide (1 ≤ bSop b ∧ bSop b ≤ 0x1F)) (fun c e b =>
    match saluVal op (sread e (bSa b)) (scalarB e b) with
    | some v => c.sresult n.val (bSd b) v 1
    | none => let (v, c) := c.draw; c.sresult n.val (bSd b) (v.setWidth 32) 1)) s

/-- R207: SMUL: low or high word of a 32 × 32 product, latency 3. -/
def execSmul (n : Fin 192) (cyc : Nat) (op : SmulOp) (s : State) : Host.Outcome State Fault Refusal :=
  onChip (fun c => c.issue n.val cyc (fun b => decide (0x20 ≤ bSop b ∧ bSop b ≤ 0x23)) (fun c e b =>
    let x := sread e (bSa b)
    let y := scalarB e b
    let v : Word := match op with
      | .low => x * y
      | .highU => ((x.setWidth 64 * y.setWidth 64) >>> 32).setWidth 32
      | .highS => ((x.signExtend 64 * y.signExtend 64) >>> 32).setWidth 32
    c.sresult n.val (bSd b) v 3)) s

/-- R203, R207, R214: SDIV: latency 20; issued while the divider is busy it is cause 0x4. -/
def execSdiv (n : Fin 192) (cyc : Nat) (op : SdivOp) (s : State) : Host.Outcome State Fault Refusal :=
  onChip (fun c => c.issue n.val cyc (fun b => decide (0x24 ≤ bSop b ∧ bSop b ≤ 0x27)) (fun c e b =>
    if cyc < e.divFree then c.engineFault n.val 4
    else
      let x := sread e (bSa b)
      let y := scalarB e b
      let v := match op with
        | .quotS => (divS x y).1 | .quotU => (divU x y).1 | .remS => (divS x y).2 | .remU => (divU x y).2
      let c := c.setEngine n.val { e with divFree := cyc + 20 }
      c.sresult n.val (bSd b) v 20)) s

/-! ### Scratchpad (R217–R220) -/

/-- R231: the 16 bytes of a kernel descriptor. -/
def descBytes (k : KernelDesc) : List Byte :=
  leBytes 2 k.entry ++ leBytes 2 k.subst ++ leBytes 4 k.wmax ++ leBytes 2 k.param ++
    leBytes 2 (b2n k.valid + 2 * b2n k.isSubst) ++ leBytes 2 k.outwin ++ leBytes 2 0

/-- R217: a byte of an engine's scratchpad; descriptors and constants are loaded alike into every engine. -/
def Chip.padByte (c : Chip) (e : Engine) (a : Nat) : Byte :=
  if a < 0x74000 then tget 0 e.pad a
  else if a < 0x78000 then (descBytes (tget {} c.tables.kernels ((a - 0x74000) / 16))).getD (a % 16) 0
  else ((tget (0 : Word) c.tables.consts ((a - 0x78000) / 4)) >>> (8 * (a % 4))).setWidth 8

/-- Bytes of a scratchpad from an address. -/
def Chip.padBytes (c : Chip) (e : Engine) (a n : Nat) : List Byte := (List.range n).map (fun j => c.padByte e (a + j))

/-- R220: whether a read of n bytes meets a poisoned line or a double-bit error. -/
def padBad (e : Engine) (a n : Nat) : Bool :=
  (range' (a / 64) ((a + n - 1) / 64 + 1)).any (fun l => tget false e.poison l) ||
    (range' (a / 8) ((a + n - 1) / 8 + 1)).any (fun w => tget false e.dbl w)

/-- R220: single-bit errors met by a read, which ECCCNT counts. -/
def padSgl (e : Engine) (a n : Nat) : Nat :=
  ((range' (a / 8) ((a + n - 1) / 8 + 1)).filter (fun w => tget false e.sgl w)).length

/-- R218: an address register value with any of bits [31:19] set is an address violation. -/
def addrBad (a : Word) : Bool := decide (2 ^ 19 ≤ a.toNat)

/-- R220: a read of n bytes by a kernel: the bytes, or cause 0x1. -/
def Chip.padRead (c : Chip) (n a len : Nat) : Chip × Option (List Byte) :=
  let e := c.engine n
  if padBad e a len then (c.engineFault n 1, none)
  else (c.bump R.SPN_ECCCNT_PAD n (padSgl e a len), some (c.padBytes e a len))

/-- Bytes that an SMEM operation moves. -/
def smemWidth : SmemOp → Nat
  | .load8 => 1 | .load8s => 1 | .store8 => 1 | .load16 => 2 | .load16s => 2 | .store16 => 2 | .load32 => 4 | .store32 => 4

/-- R207, R218, R220: SMEM at address S[SA]: a load has latency 4; a store of SB (or IMM) is visible from the next cycle. -/
def execSmem (n : Fin 192) (cyc : Nat) (op : SmemOp) (s : State) : Host.Outcome State Fault Refusal :=
  onChip (fun c => c.issue n.val cyc (fun b => decide (0x30 ≤ bSop b ∧ bSop b ≤ 0x37)) (fun c e b =>
    let a := sread e (bSa b)
    let w := smemWidth op
    let isStore := op == .store8 || op == .store16 || op == .store32
    if addrBad a || decide (a.toNat % w ≠ 0) || (isStore && decide (0x68000 ≤ a.toNat)) then c.engineFault n.val 6
    else if isStore then
      c.setEngine n.val { e with stores := insertStore ⟨2, a.toNat, leBytes w (scalarB e b).toNat, cyc, false⟩ e.stores }
    else match c.padRead n.val a.toNat w with
      | (c, some bs) =>
        let v := ofLe bs
        let r : Word := match op with
          | .load8s => (BitVec.ofNat 8 v).signExtend 32
          | .load16s => (BitVec.ofNat 16 v).signExtend 32
          | _ => BitVec.ofNat 32 v
        c.sresult n.val (bSd b) r 4
      | (c, none) => c)) s

/-- R207: STAB: entry S[SA][9:0] of constant table IMM[2:0], latency 4. -/
def execStab (n : Fin 192) (cyc : Nat) (s : State) : Host.Outcome State Fault Refusal :=
  onChip (fun c => c.issue n.val cyc (fun b => bSop b == 0x38) (fun c e b =>
    let a := 0x78000 + 4 * (1024 * (bSimm b % 8) + (sread e (bSa b)).toNat % 1024)
    match c.padRead n.val a 4 with
    | (c, some bs) => c.sresult n.val (bSd b) (BitVec.ofNat 32 (ofLe bs)) 4
    | (c, none) => c)) s

/-! ### Control (R208, R209) -/

/-- R209: whether a control transfer is a violation: in a delay slot; or to a target outside the innermost loop body. -/
def jumpBad (e : Engine) (target : Nat) : Bool :=
  e.jump.isSome || decide (0 < e.slots) || (match e.loops.head? with
    | some l => decide (target < l.start) || decide (l.stop < target)
    | none => false)

/-- R208: CTRL: branches and jumps to IMM[11:0] take effect after two delay bundles; a LOOP's body runs from the next
bundle to the end bundle IMM[11:0], S[SA] times clamped to 2^IMM[15:12]; a count of 0 skips it. -/
def execCtrl (n : Fin 192) (cyc : Nat) (op : CtrlOp) (s : State) : Host.Outcome State Fault Refusal :=
  onChip (fun c => c.issue n.val cyc (fun b => decide (0x40 ≤ bSop b ∧ bSop b ≤ 0x47)) (fun c e b =>
    let t := bSimm b % 4096
    let a := sread e (bSa b)
    match op with
    | .loop =>
      let cnt := min a.toNat (2 ^ (bSimm b / 4096))
      if e.jump.isSome || decide (0 < e.slots) || decide (2 ≤ e.loops.length) || e.loops.any (fun l => l.stop == t) then c.engineFault n.val 5
      else if cnt = 0 then c.setEngine n.val { e with jump := some (1, t + 1), bubble := true }
      else c.setEngine n.val { e with loops := ⟨cnt, e.pc + 1, t⟩ :: e.loops, slots := 3 }
    | _ =>
      if jumpBad e t then c.engineFault n.val 5
      else
        let take := match op with
          | .branchZero => a == 0
          | .branchNonZero => a != 0
          | _ => true
        c.setEngine n.val { e with jump := if take then some (2, t) else none, slots := 3 })) s

/-- R224: ACHK: AC[n] − ACBASE[n], signed over 16 bits, is at least IMM, or cause 0x7. -/
def execAchk (n : Fin 192) (cyc : Nat) (s : State) : Host.Outcome State Fault Refusal :=
  onChip (fun c => c.issue n.val cyc (fun b => bSop b == 0x50) (fun c e b =>
    let a := bSa b % 16
    if (bSimm b : Int) ≤ sdiff 16 (c.acGet n.val a) (tget 0 e.acbase a) then c else c.engineFault n.val 7)) s

/-- R207: CSR: RCYC, PTURN, PCOL, KIDX, KERNEL or SUBST by IMM[2:0], latency 1; selectors 6 and 7 read a free value. -/
def execCsr (n : Fin 192) (cyc : Nat) (s : State) : Host.Outcome State Fault Refusal :=
  onChip (fun c => c.issue n.val cyc (fun b => bSop b == 0x58) (fun c e b =>
    let r := e.run.getD {}
    let v : Option Nat := match bSimm b % 8 with
      | 0 => some (cyc + 4)
      | 1 => some (match c.enginePlane n.val with | some p => c.turn p % 2 ^ 32 | none => 0)
      | 2 => some ((c.planCol (n.val / 12)).getD 0)
      | 3 => some (n.val % 12)
      | 4 => some r.kernel
      | 5 => some (b2n r.subst)
      | _ => none
    match v with
    | some v => c.sresult n.val (bSd b) (BitVec.ofNat 32 v) 1
    | none => let (v, c) := c.draw; c.sresult n.val (bSd b) (v.setWidth 32) 1)) s

/-! ### Vectors (R201, R207) -/

/-- Bits of a lane of width code LW. -/
def laneBits (lw : Nat) : Nat := 8 * 2 ^ lw

/-- The lanes of a vector register, lowest first. -/
def lanes (lw : Nat) (v : BitVec 512) : List Nat :=
  (List.range (64 / 2 ^ lw)).map (fun i => v.toNat / 2 ^ (laneBits lw * i) % 2 ^ laneBits lw)

/-- A vector register from its lanes. -/
def ofLanes (lw : Nat) (l : List Nat) : BitVec 512 :=
  BitVec.ofNat 512 (l.foldr (fun x a => x % 2 ^ laneBits lw + 2 ^ laneBits lw * a) 0)

/-- R201: whether lane i of width LW is governed by a set bit of a mask. -/
def laneOn (lw : Nat) (m : BitVec 64) (i : Nat) : Bool := m.getLsbD (i * 2 ^ lw)

/-- Lanes of a result where the mask governs, of the register's old value elsewhere. -/
def masked (lw : Nat) (m : BitVec 64) (old new : List Nat) : List Nat :=
  (List.range new.length).map (fun i => if laneOn lw m i then new.getD i 0 else old.getD i 0)

/-- A lane-wise signed result saturated to the lane (R203). -/
def satS (w : Nat) (x : Int) : Nat := toField w (satI w x)

/-- R203, R207: one lane of a vector ALU operation; wraps modulo the lane width except in the saturating forms. -/
def valuLane (op : ValuOp) (w sh : Nat) (m : Bool) (a b : Nat) : Nat :=
  let sa := ofField w a
  let sb := ofField w b
  match op with
  | .add => (a + b) % 2 ^ w
  | .sub => toField w ((a : Int) - b)
  | .addSatU => min (2 ^ w - 1) (a + b)
  | .addSatS => satS w (sa + sb)
  | .subSatU => a - b
  | .subSatS => satS w (sa - sb)
  | .absDiff => natAbsDiff a b
  | .minU => min a b
  | .minS => if sa < sb then a else b
  | .maxU => max a b
  | .maxS => if sa < sb then b else a
  | .and => Nat.land a b
  | .or => Nat.lor a b
  | .xor => Nat.xor a b
  | .shl => a * 2 ^ sh % 2 ^ w
  | .shr => a / 2 ^ sh
  | .sar => toField w (sa / 2 ^ sh)
  | .select => if m then a else b

/-- R207: VALU: latency 2. A shift count of the lane width or more gives a free value. -/
def execValu (n : Fin 192) (cyc : Nat) (op : ValuOp) (s : State) : Host.Outcome State Fault Refusal :=
  onChip (fun c => c.issue n.val cyc (fun b => decide (1 ≤ bVop b ∧ bVop b ≤ 0x3F)) (fun c e b =>
    let lw := bLw b
    let w := laneBits lw
    let m := mread e (bVmsel b)
    let a := lanes lw (tget 0 e.vreg (bVa b))
    let d := lanes lw (tget 0 e.vreg (bVb b))
    let old := lanes lw (tget 0 e.vreg (bVd b))
    let isShift := op == .shl || op == .shr || op == .sar
    if isShift ∧ w ≤ bVimm b then
      let (v, c) := c.draw
      let (v', c) := c.draw
      let f := lanes lw (v.setWidth 512 ||| (v'.setWidth 512 <<< 256))
      c.result n.val (.vreg (bVd b)) (ofLanes lw (masked lw m old f)) 2
    else
      let r := (List.range a.length).map (fun i => valuLane op w (bVimm b) (laneOn lw m i) (a.getD i 0) (d.getD i 0))
      let r := if op = .select then r else masked lw m old r
      c.result n.val (.vreg (bVd b)) (ofLanes lw r) 2)) s

/-- The mask bits of the lanes for which a test holds, every byte of such a lane set. -/
def maskOf (lw : Nat) (l : List Bool) : Nat :=
  ((l.zip (List.range l.length)).map (fun (x, i) => if x then (2 ^ 2 ^ lw - 1) * 2 ^ (i * 2 ^ lw) else 0)).sum

/-- R207: VCMP: a lane compare into mask register VD[2:0], latency 2; lanes that VMSEL does not govern compare false. -/
def execVcmp (n : Fin 192) (cyc : Nat) (op : VcmpOp) (s : State) : Host.Outcome State Fault Refusal :=
  onChip (fun c => c.issue n.val cyc (fun b => decide (0x40 ≤ bVop b ∧ bVop b ≤ 0x47)) (fun c e b =>
    let lw := bLw b
    let w := laneBits lw
    let m := mread e (bVmsel b)
    let a := lanes lw (tget 0 e.vreg (bVa b))
    let d := lanes lw (tget 0 e.vreg (bVb b))
    let t (x y : Nat) : Bool := match op with
      | .eq => x == y | .ne => x != y | .ltU => decide (x < y) | .ltS => decide (ofField w x < ofField w y)
    let l := (List.range a.length).map (fun i => laneOn lw m i && t (a.getD i 0) (d.getD i 0))
    c.result n.val (.vmask (bVd b % 8)) (BitVec.ofNat 512 (maskOf lw l)) 2)) s

/-- R207: VMUL: latency 4: multiply and multiply-accumulate per lane; the lanes of a widening multiply are not stated, and
are a free value. -/
def execVmul (n : Fin 192) (cyc : Nat) (op : VmulOp) (s : State) : Host.Outcome State Fault Refusal :=
  onChip (fun c => c.issue n.val cyc (fun b => decide (0x48 ≤ bVop b ∧ bVop b ≤ 0x4F)) (fun c e b =>
    let lw := bLw b
    let m := mread e (bVmsel b)
    let a := lanes lw (tget 0 e.vreg (bVa b))
    let d := lanes lw (tget 0 e.vreg (bVb b))
    let old := lanes lw (tget 0 e.vreg (bVd b))
    match op with
    | .mul => c.result n.val (.vreg (bVd b)) (ofLanes lw (masked lw m old (List.zipWith (· * ·) a d))) 4
    | .mac =>
      c.result n.val (.vreg (bVd b)) (ofLanes lw (masked lw m old (List.zipWith (· + ·) old (List.zipWith (· * ·) a d)))) 4
    | _ =>
      let (v, c) := c.draw
      let (v', c) := c.draw
      c.result n.val (.vreg (bVd b)) (v.setWidth 512 ||| (v'.setWidth 512 <<< 256)) 4)) s

/-- R207: VSAD: sums of absolute differences of the lanes in each 32-bit lane, latency 4. -/
def execVsad (n : Fin 192) (cyc : Nat) (s : State) : Host.Outcome State Fault Refusal :=
  onChip (fun c => c.issue n.val cyc (fun b => decide (0x50 ≤ bVop b ∧ bVop b ≤ 0x53)) (fun c e b =>
    let lw := bLw b
    let m := mread e (bVmsel b)
    let a := lanes lw (tget 0 e.vreg (bVa b))
    let d := lanes lw (tget 0 e.vreg (bVb b))
    let k := 4 / 2 ^ lw
    let r := (List.range 16).map (fun j => ((List.range k).map (fun i =>
      if laneOn lw m (k * j + i) then natAbsDiff (a.getD (k * j + i) 0) (d.getD (k * j + i) 0) else 0)).sum)
    c.result n.val (.vreg (bVd b)) (ofLanes 2 r) 4)) s

/-- The first position of the best element under an order. -/
def argBest (better : Nat → Nat → Bool) : List (Nat × Nat) → Option (Nat × Nat)
  | [] => none
  | x :: t => match argBest better t with
    | none => some x
    | some y => if better y.1 x.1 then some y else some x

/-- R207: VRED: sum, min, max or argmin over the lanes that VMSEL governs, into scalar register VD, latency 6. -/
def execVred (n : Fin 192) (cyc : Nat) (op : VredOp) (s : State) : Host.Outcome State Fault Refusal :=
  onChip (fun c => c.issue n.val cyc (fun b => decide (0x58 ≤ bVop b ∧ bVop b ≤ 0x5F)) (fun c e b =>
    let lw := bLw b
    let w := laneBits lw
    let m := mread e (bVmsel b)
    let a := lanes lw (tget 0 e.vreg (bVa b))
    let l := (a.zip (List.range a.length)).filter (fun x => laneOn lw m x.2)
    let lt (x y : Nat) : Bool := decide (x < y)
    let lts (x y : Nat) : Bool := decide (ofField w x < ofField w y)
    let v : Option Nat := match op with
      | .sum => some ((l.map (·.1)).sum % 2 ^ 32)
      | .minU => (argBest lt l).map (·.1)
      | .maxU => (argBest (fun x y => lt y x) l).map (·.1)
      | .argminU => (argBest lt l).map (·.2)
      | .minS => (argBest lts l).map (fun x => toField 32 (ofField w x.1))
      | .maxS => (argBest (fun x y => lts y x) l).map (fun x => toField 32 (ofField w x.1))
      | .argminS => (argBest lts l).map (·.2)
    match v with
    | some v => c.sresult n.val (bVd b) (BitVec.ofNat 32 v) 6
    | none => let (v, c) := c.draw; c.sresult n.val (bVd b) (v.setWidth 32) 6)) s

/-- R207: VPERM: shuffle by the indices in VB, rotate by IMM lanes, or broadcast of S[SADR], latency 3. -/
def execVperm (n : Fin 192) (cyc : Nat) (op : VpermOp) (s : State) : Host.Outcome State Fault Refusal :=
  onChip (fun c => c.issue n.val cyc (fun b => decide (0x60 ≤ bVop b ∧ bVop b ≤ 0x67)) (fun c e b =>
    let lw := bLw b
    let m := mread e (bVmsel b)
    let a := lanes lw (tget 0 e.vreg (bVa b))
    let d := lanes lw (tget 0 e.vreg (bVb b))
    let old := lanes lw (tget 0 e.vreg (bVd b))
    let k := a.length
    let r := match op with
      | .shuffle => d.map (fun j => a.getD (j % k) 0)
      | .rotate => (List.range k).map (fun i => a.getD ((i + bVimm b) % k) 0)
      | .broadcast => List.replicate k ((sread e (bSadr b)).toNat % 2 ^ laneBits lw)
    c.result n.val (.vreg (bVd b)) (ofLanes lw (masked lw m old r)) 3)) s

/-- R207, R218: VMEM: a 64-byte load (latency 5) or store at S[SADR] + 64 × IMM, bits [5:0] ignored. -/
def execVmem (n : Fin 192) (cyc : Nat) (op : VmemOp) (s : State) : Host.Outcome State Fault Refusal :=
  onChip (fun c => c.issue n.val cyc (fun b => decide (0x70 ≤ bVop b ∧ bVop b ≤ 0x73)) (fun c e b =>
    let base := sread e (bSadr b)
    let a := (base.toNat + 64 * bVimm b) / 64 * 64
    if addrBad base || decide (2 ^ 19 ≤ a) || (op == .store && decide (0x68000 ≤ a)) then c.engineFault n.val 6
    else match op with
      | .store =>
        let bs := leBytes 64 (tget (0 : BitVec 512) e.vreg (bVd b)).toNat
        c.setEngine n.val { e with stores := insertStore ⟨1, a, bs, cyc, false⟩ e.stores }
      | .load => match c.padRead n.val a 64 with
        | (c, some bs) => c.result n.val (.vreg (bVd b)) (BitVec.ofNat 512 (ofLe bs)) 5
        | (c, none) => c)) s

/-- R207: MOVS: scalar to vector lane, lane to scalar, scalar to mask, mask to scalar, latency 1. -/
def execMovs (n : Fin 192) (cyc : Nat) (op : MovsOp) (s : State) : Host.Outcome State Fault Refusal :=
  onChip (fun c => c.issue n.val cyc (fun b => decide (1 ≤ bMop b ∧ bMop b ≤ 7)) (fun c e b =>
    let v : BitVec 512 := tget 0 e.vreg (bMv b)
    let x := (sread e (bMs b)).toNat
    let m := mread e (bMv b % 8)
    match op with
    | .toLane lw =>
      let l := lanes lw.val v
      let i := bMimm b % 64 % l.length
      c.result n.val (.vreg (bMv b)) (ofLanes lw.val (listSet l i x)) 1
    | .fromLane lw =>
      let l := lanes lw.val v
      c.sresult n.val (bMs b) (BitVec.ofNat 32 (l.getD (bMimm b % 64 % l.length) 0)) 1
    | .toMaskLow => c.result n.val (.vmask (bMv b % 8)) (BitVec.ofNat 512 (m.toNat / 2 ^ 32 * 2 ^ 32 + x)) 1
    | .toMaskHigh => c.result n.val (.vmask (bMv b % 8)) (BitVec.ofNat 512 (m.toNat % 2 ^ 32 + 2 ^ 32 * x)) 1
    | .fromMaskLow => c.sresult n.val (bMs b) (BitVec.ofNat 32 (m.toNat % 2 ^ 32)) 1
    | .fromMaskHigh => c.sresult n.val (bMs b) (BitVec.ofNat 32 (m.toNat / 2 ^ 32)) 1)) s

/-! ### Sends and commits (R221–R226) -/

/-- R217: base address of a parameter bank. -/
def bankBase (bank : Nat) : Nat := if bank = 0 then 0x68000 else 0x6E000

/-- R221: a route entry's destination (plan column, unit, line), or none for an address violation. -/
def routeDest (entry myCol off : Nat) : Option (Nat × Nat × Nat) :=
  let unit := bits entry 25 22
  let line := bits entry 12 0 + off
  if bit entry 31 = false ∨ 0xD ≤ unit ∨ (unit < 0xC ∧ 6656 ≤ line) ∨ (unit = 0xC ∧ 1024 ≤ line) then none
  else some ((if bit entry 30 then myCol else bits entry 29 26), unit, line)

/-- R221: a line leaves engine n along the route of the bundle, with the bank latched for the RUN. -/
def Chip.sendLine (c : Chip) (n : Nat) (b : Nat) (data : List Byte) : Chip :=
  let e := c.engine n
  let r := e.run.getD {}
  match c.padRead n (bankBase r.bank + 4 * (bMimm b % 256)) 4 with
  | (c, none) => c
  | (c, some bs) =>
    match routeDest (ofLe bs) ((c.planCol (n / 12)).getD 0) (bMimm b / 256) with
    | none => c.engineFault n 6
    | some (pc, u, l) =>
      { c with spn := { c.spn with flight := c.spn.flight ++ [⟨n, pc, u, l, bAcn b, data, 2 * r.start + 4 + e.cyc + 144⟩] } }

/-- R221: SEND: V[MV] along a route. -/
def execSend (n : Fin 192) (cyc : Nat) (s : State) : Host.Outcome State Fault Refusal :=
  onChip (fun c => c.issue n.val cyc (fun b => bMop b == 0x10) (fun c e b =>
    c.sendLine n.val b (leBytes 64 (tget (0 : BitVec 512) e.vreg (bMv b)).toNat))) s

/-- R221, R218, R220: SENDL: the scratchpad line at S[MS] along a route. -/
def execSendl (n : Fin 192) (cyc : Nat) (s : State) : Host.Outcome State Fault Refusal :=
  onChip (fun c => c.issue n.val cyc (fun b => bMop b == 0x11) (fun c e b =>
    let a := sread e (bMs b)
    if addrBad a then c.engineFault n.val 6
    else match c.padRead n.val (a.toNat / 64 * 64) 64 with
      | (c, some bs) => c.sendLine n.val b bs
      | (c, none) => c)) s

/-- R226: the commit word of a Turn and a tag. -/
def commitWord (turn tag : Nat) : Word := BitVec.ofNat 32 (2 ^ 31 + turn % 2 ^ 15 * 2 ^ 16 + tag % 2 ^ 16)

/-- R226: COMMIT: word IMM[3:0] of the kernel's commit line. -/
def execCommit (n : Fin 192) (cyc : Nat) (s : State) : Host.Outcome State Fault Refusal :=
  onChip (fun c => c.issue n.val cyc (fun b => bMop b == 0x18) (fun c e b =>
    let t := match c.enginePlane n.val with | some p => c.turn p | none => 0
    let w := commitWord t ((sread e (bMs b)).toNat)
    let a := 64 * (e.run.getD {}).outwin + 4 * (bMimm b % 16)
    c.setEngine n.val { e with stores := insertStore ⟨2, a, leBytes 4 w.toNat, cyc, false⟩ e.stores })) s

/-- R227: whether an output window is committed for a Turn and tag. -/
def windowCommitted (w : Word) (turn tag : Nat) : Bool := w == commitWord turn tag

/-- R202, R214: RESULT_WRITEBACK at the end of ENG cycle cyc: the results then due are written; two for one register are
cause 0x3. -/
def execResultWriteback (n : Fin 192) (cyc : Nat) (s : State) : Host.Outcome State Fault Refusal :=
  onChip (fun c => c.runTo n.val (cyc + 1) (cyc + 1 - (c.engine n.val).cyc)) s

/-- R219, R222: a beat that arrives at engine d is a store of the ENG cycle before the first that sees it; an engine that runs no kernel
takes it at once. -/
def Chip.beatStore (c : Chip) (d : Nat) (b : Beat) (poisoned : Bool) : Chip :=
  let c := c.runUntil d (b.due / 2)
  let e := c.engine d
  match e.run with
  | some r =>
    let at_ := b.due - (2 * r.start + 4)
    if r.stop.isNone && decide (e.cyc < at_) then
      c.setEngine d { e with stores := insertStore ⟨0, 64 * b.line, b.data, at_ - 1, poisoned⟩ e.stores }
    else c.setEngine d (padStore e ⟨0, 64 * b.line, b.data, e.cyc, poisoned⟩)
  | none => c.setEngine d (padStore e ⟨0, 64 * b.line, b.data, e.cyc, poisoned⟩)

/-- R222: the earliest beat in flight, and the others. -/
def firstBeat : List Beat → Option (Beat × List Beat)
  | [] => none
  | b :: l => match firstBeat l with
    | none => some (b, [])
    | some (x, rest) => if x.due < b.due then some (x, b :: rest) else some (b, x :: rest)

/-- R222, R223, R538: SEND_ARRIVAL: the earliest beat in flight reaches its destination, 144 ENG cycles after its SEND; before that time
nothing arrives. A collided beat is discarded, its destination line poisoned and its source charged with cause 0x8; a beat that fails
its hop CRC is delivered poisoned and reported. -/
def execSendArrival (collided crcFail : Bool) (s : State) : Host.Outcome State Fault Refusal :=
  onChip (fun c =>
    match firstBeat c.spn.flight with
    | none => c
    | some (b, rest) =>
      if 2 * (c.sched.cyc + 256) ≤ b.due then c
      else
        let c := { c with spn := { c.spn with flight := rest } }
        let c := if collided then c.spnRecord b.src 8 0 0
          else c.when crcFail (·.fault 1 3 21 blkSeq 0x01 0 none)
        if b.unit = 0xC then
          match c.physCol b.pcol with
          | none => c
          | some x =>
            if collided then c
            else { c with spn := { c.spn with decision := (b.data.zip (List.range 64)).foldl (fun t (v, j) =>
              tset 0 t (65536 * x + 64 * b.line + j) v) c.spn.decision } }
        else match c.physEngine (12 * b.pcol + b.unit) with
          | none => c
          | some d =>
            if collided then let e := c.engine d; c.setEngine d { e with poison := tset false e.poison b.line true }
            else (c.beatStore d b crcFail).acRise d b.acn) s

/-! ### Running a kernel (R210–R212) -/

/-- R210: the target of engine n runs kernel k. -/
def Chip.runTarget (c : Chip) (n : Nat) (a : RunArrival) (k : Nat) (sub : Bool) : Chip :=
  match c.planEngine n with
  | some m => c.setTarget (targetKey 2 m)
      { work := .run, stream := a.stream, slot := a.slot, kernel := k, deadline := a.issued + 32 + a.budget, subst := sub,
        marks := a.marks, job := a.job, turn := a.turn, overran := a.overran }
  | none => c

/-- R45, R210, R212: what a RUN that starts on engine n finds: its kernel, whether it is a substitute, the engine with the bank latched,
the commit line cleared, S31 loaded and the budget counter started, and the cause that it meets: an invalid descriptor, or a KERNEL that
has none, is 0x9, and a damaged one, of the kernel or of its substitute, 0x1. -/
def Chip.runStart (c : Chip) (n : Nat) (a : RunArrival) : Nat × Bool × Engine × Option Nat :=
  let e := c.engine n
  let sub := a.subst || decide (0 < e.awaitParams)
  let d0 : KernelDesc := tget {} c.tables.kernels a.kernel
  let k := if sub ∧ a.kernel < 1024 ∧ d0.valid = true then d0.subst else a.kernel
  let d : KernelDesc := tget {} c.tables.kernels k
  let bank := c.get R.SPN_SPNSTAT_BANK n
  let damaged (j : Nat) : Bool := decide (j < 1024) && padBad e (0x74000 + 16 * j) 16
  let r : SpnRun := { kernel := k, subst := sub, bank := bank, outwin := d.outwin, start := a.issued + 32, budget := a.budget }
  let e1 : Engine := { e with run := some r, cyc := 0, pc := d.entry, loops := [], jump := none, bubble := false, slots := 0,
                              results := [], divFree := 0 }
  let s31 : Word := BitVec.ofNat 32 (bankBase bank + 64 * d.param)
  if damaged a.kernel || damaged k then (k, sub, e1, some 1)
  else if 1024 ≤ k then (k, sub, e1, some 9)
  else (k, sub, padWrite { e1 with sreg := tset 0 e.sreg 31 s31 } (64 * d.outwin) (List.replicate 64 0), if d.valid then none else some 9)

/-- R210, R212, R240: a RUN starts on engine n. -/
def Chip.startRun (c : Chip) (n : Nat) (a : RunArrival) : Chip :=
  let (k, sub, e, cause) := c.runStart n a
  let c := (c.set R.SPN_SPNSTAT_BUSY n 1).set R.SPN_SPNSTAT_KERNEL n k
  let c := (c.setB R.SPN_SPNSTAT_SUBST n sub).when sub (·.bump R.SPN_SUBCNT_SUBS n)
  let c := (c.runTarget n a k sub).setEngine n e
  match cause with
  | some x => c.engineFault n x
  | none => c

/-- R210, R45, R46: RUN_ARRIVAL: the oldest RUN on its way reaches engine n 32 cycles after its issue. A busy engine is
aborted as an overrun, and the new RUN starts as its substitute once the unit has stopped. -/
def execRunArrival (n : Fin 192) (s : State) : Host.Outcome State Fault Refusal :=
  onChip (fun c =>
    let e := c.engine n.val
    match e.arrivals with
    | [] => c
    | a :: rest =>
      if c.sched.cyc + 256 ≤ a.issued + 32 then c
      else
        let c := (c.setEngine n.val { e with arrivals := rest }).runUntil n.val (a.issued + 32)
        match c.planEngine n.val with
        | none => c
        | some m =>
          let k := targetKey 2 m
          let t := c.target k
          if t.work = .idle ∧ t.aborting = false then c.startRun n.val a
          else
            let c := c.streamFault 2 1 a.stream a.slot 2 m (a.issued + 32)
            let c := if t.aborting then c else (c.abortTarget k).engineAbort n.val
            c.setTarget k { c.target k with after := some { a with subst := true, overran := true } }) s

/-- R211: the work W of a RUN that issues E bundles, in fabric cycles. -/
def runWork (bundles : Nat) : Nat := ceilDiv (bundles + 28) 2

/-- R224: at the first owned Twist of a body each engine of the plane copies its arrival counters into ACBASE. -/
def Chip.acSnapshot (c : Chip) (p : Nat) : Chip :=
  c.each ((List.range 192).filter (fun n => c.enginePlane n == some p)) (fun c n =>
    let e := c.engine n
    c.setEngine n { e with acbase := (List.range 16).foldl (fun t a => tset 0 t a (c.acGet n a)) e.acbase })

/-- R234: a unit reset of an engine: registers, loops, counters, commit lines and divider are cleared; the scratchpad and
the instruction store stay. -/
def Chip.engineReset (c : Chip) (n : Nat) : Chip :=
  let e := c.engine n
  let e := { e with sreg := [], vreg := [], vmask := [], loops := [], acbase := [], results := [], stores := [], run := none,
                    cyc := 0, pc := 0, jump := none, bubble := false, slots := 0, divFree := 0, arrivals := [] }
  let ows := (c.tables.kernels.map (fun k => k.2.outwin))
  let e := ows.foldl (fun e o => padWrite e (64 * o) (List.replicate 64 0)) e
  let c := c.setEngine n e
  let c := c.each (List.range 16) (fun c a => c.acSet n a 0)
  (c.set R.SPN_SPNSTAT_BUSY n 0).set R.SPN_SPNSTAT_ABORTING n 0

/-- R238: clear ECCCNT, SUBCNT and SLACKMIN of an engine. -/
def Chip.spnClear (c : Chip) (n : Nat) : Chip :=
  let c := (c.set R.SPN_ECCCNT_PAD n 0).set R.SPN_ECCCNT_IST n 0
  let c := (c.set R.SPN_SUBCNT_SUBS n 0).set R.SPN_SUBCNT_ABORTS n 0
  c.set R.SPN_SLACKMIN n 0xFFFFF

/-- R238: SPN_CNTCLR: one engine, or every engine if ALL is 1. -/
def execSpnCntclr (v : Word) (s : State) : Host.Outcome State Fault Refusal :=
  onChip (fun c =>
    if bit v.toNat 31 then
      if bit v.toNat 30 then c.each (List.range 192) (fun c n => c.spnClear n)
      else if bits v.toNat 7 0 < 192 then c.spnClear (bits v.toNat 7 0) else c
    else c) s

end Sys2Proof.Machine
end

