-- ==== Sys2Proof/Machine/Interrupts.lean ====
section
/-! DEFINITION. Interrupt sources and their delivery, event pins, the task scheduler and the service cores' entry and exit of
fast handlers (Service Cores, Interrupts, Commands and the Reel, R486–R502; Register Map, R666). -/

namespace Sys2Proof.Machine

/-- Source s. -/
def Chip.src (c : Chip) (s : Nat) : SrcRun := tget {} c.svc.srcs s
/-- Source s replaced. -/
def Chip.setSrc (c : Chip) (s : Nat) (x : SrcRun) : Chip := { c with svc := { c.svc with srcs := tset {} c.svc.srcs s x } }
/-- Service core k. -/
def Chip.core (c : Chip) (k : Nat) : CoreRun := tget {} c.svc.cores k
/-- Service core k replaced; STACK shows its in-service stack (R523). -/
def Chip.setCore (c : Chip) (k : Nat) (x : CoreRun) : Chip :=
  let c := { c with svc := { c.svc with cores := tset {} c.svc.cores k x } }
  (c.set R.SVC_STACK_DEPTH k x.stack.length).set R.SVC_STACK_TOP k (x.stack.headD 0)
/-- Queue q. -/
def Chip.queue (c : Chip) (q : Nat) : QueueRun := tget {} c.svc.queues q
/-- Queue q replaced; WQSTAT.COUNT shows its items. -/
def Chip.setQueue (c : Chip) (q : Nat) (x : QueueRun) : Chip :=
  ({ c with svc := { c.svc with queues := tset {} c.svc.queues q x } }).set R.SVC_WQSTAT_COUNT q x.items.length

/-! ### Inputs (R666) -/

/-- Whether any bit of a mask is set in the register at an address. -/
def Chip.anyBit (c : Chip) (a mask : Nat) : Bool := decide ((c.rd a).toNat &&& mask ≠ 0)

/-- R666: whether the flags that drive source s are asserted. Sources not listed never assert; pulse sources are held apart. -/
def Chip.srcFlag (c : Chip) (s : Nat) : Bool :=
  let any (n : Nat) (f : Nat → Bool) : Bool := (List.range n).any f
  if s < 96 then bit (c.get R.SVC_EVIN (s / 32)) (s % 32)
  else if s < 100 then c.on R.SEQ_PLANESTAT_TFAULT (s - 96)
  else if s = 100 then c.on R.SEQ_SFSTAT_VALID
  else if s = 101 then c.on R.GLB_BOOTSTAT_LATE
  else if s < 106 then c.on R.GLB_VARIANT_MISSED (s - 102)
  else if s < 160 then false
  else if s < 224 then
    let n := (s - 160) / 4
    if s % 4 = 0 then c.on R.LANE_LANESTAT_DIVFLT n || c.on R.LANE_LANESTAT_DUPFLT n
    else if s % 4 = 1 then c.on R.LANE_LANESTAT_INMARK n || c.on R.LANE_LANESTAT_REFMARK n || c.on R.LANE_LANESTAT_ECCFLT n
    else if s % 4 = 2 then c.on R.LANE_LANESTAT_REFRESH n
    else c.on R.LANE_FAULTREC_VALID n
  else if s < 256 then
    let col := (s - 224) / 2
    if s % 2 = 0 then any 12 (fun e => c.on R.SPN_FAULTREC_VALID (12 * col + e) || c.on R.SPN_SPNSTAT_FLT (12 * col + e))
    else any 12 (fun e => c.on R.SPN_SPNSTAT_LATE (12 * col + e))
  else if s < 320 then
    any 16 (fun i => c.anyBit (R.ING_FLOWSTAT_LEGFLT.at (16 * (s - 256) + i)) 0x1E000000)
  else if s < 336 then
    let x := s - 320
    c.on R.DEC_DSSTAT_HASHFLT x || c.on R.DEC_DSSTAT_PARSEOVR x || c.on R.DEC_DSSTAT_LOSS x ||
      c.on R.DEC_DLSTAT_ECCFLT (c.get R.DEC_DSCFG_LANE x) || c.on R.DEC_DLSTAT_BOUNDFLT (c.get R.DEC_DSCFG_LANE x)
  else if s < 340 then c.on R.CMP_OUTSTAT_MARKFLT (s - 336)
  else if s < 346 then any 4 (fun i => c.on R.CMP_SCLSTAT_MARKFLT (4 * (s - 340) + i))
  else if s < 352 then false
  else if s < 400 then
    c.anyBit (R.AUD_PORTSTAT_JOINED.at (s - 352)) 0x02F00000
  else if s = 400 then any 48 (fun n => c.on R.AUD_PORTSTAT_RATECHG n)
  else if s < 416 then false
  else if s < 448 then
    let n := (s - 416) / 2
    if s % 2 = 0 then
      c.on R.NET_LANESTAT_DOWNEV n || c.on R.NET_LANESTAT_PAUSERX n || c.on R.NET_LANESTAT_OLDQUERIER n
    else any 1024 (fun f =>
      c.get R.NET_EGCFG_PORT f == n && (c.on R.NET_EGSTAT_MARKFLT f || c.on R.NET_EGSTAT_LATE f))
  else if s < 464 then c.on R.NET_TSQSTAT_OVFEV (s - 448)
  else if s < 480 then c.on R.NET_TBSTAT_STEPPED (s - 464) || c.on R.NET_TBSTAT_INVEV (s - 464)
  else if s < 508 then
    let k := s - 480
    c.on R.CLK_REFSTAT_LOSSEV k || c.on R.CLK_REFSTAT_GLITCHEV k || c.on R.CLK_REFSTAT_FREQEV k || c.on R.CLK_REFSTAT_QUALEV k
  else if s = 508 then decide (c.get R.CLK_SUPSTAT_WARNEV ≠ 0)
  else if s = 509 then c.on R.CLK_SUPSTAT_TEMPWARN
  else if s = 510 then
    c.on R.CLK_DPLLSTAT_DISAGREE || c.on R.CLK_DPLLSTAT_SWEV || c.on R.CLK_DPLLSTAT_HOEV || c.on R.CLK_DPLLSTAT_OOSEV ||
      c.on R.CLK_DPLLSTAT_XTALSPEC
  else if s = 511 then decide (c.get R.CLK_SWSTAT_SWWD ≠ 0)
  else if s < 528 then
    let k := s - 512
    c.on R.DRAM_CHSTAT_HOT k || c.on R.DRAM_CHSTAT_DRIFT k || c.on R.DRAM_CHSTAT_STATSNAG k || c.on R.DRAM_CHSTAT_BLOCKED k
  else if s = 528 then c.on R.DRAM_FAULTREC_VALID
  else if s < 537 then c.on R.DRAM_PPSTAT_UNDER (s - 529)
  else if s < 544 then false
  else if s = 544 then c.on R.NAND_FAULTREC_VALID
  else if s < 555 then c.on R.NAND_PARTSTAT_RETIREEV (s - 545) || c.on R.NAND_PARTSTAT_REFRESHEV (s - 545)
  else if s < 560 then false
  else if s < 624 then
    c.anyBit (R.STR_GRPSTAT_STATE.at (s - 560)) 0x01F00000
  else if s < 673 then false
  else if s = 673 then c.on R.REEL_RDSTAT_NOTFOUND || c.on R.REEL_RDSTAT_COLLIDE
  else if s < 704 then false
  else if s = 704 then any 1024 (fun x => c.on R.SVC_SRCSTAT_STORM x)
  else if s = 706 then any 256 (fun q => c.on R.SVC_WQSTAT_REJECT q)
  else if s = 707 then c.on R.GLB_ABORTINFO_VALID
  else if s < 720 then false
  else if s < 736 then (c.core (s - 720)).offer.isSome
  else if s < 752 then
    let k := s - 736
    c.on R.SVC_CORESTAT_OOO k || c.on R.SVC_CORESTAT_OVERRUN k || c.on R.SVC_CORESTAT_CORERST k
  else if s < 768 then false
  else decide ((c.queue (s - 768)).items ≠ [])

/-! ### Delivery (R487, R490–R493) -/

/-- R521: whether the TARGET of a source lies in the range of its kind. -/
def Chip.targetOk (c : Chip) (s : Nat) : Bool :=
  let t := c.get R.SVC_SRCCFG_TARGET s
  match c.get R.SVC_SRCCFG_KIND s with
  | 1 => true
  | 2 => decide (1 ≤ t ∧ t ≤ 63)
  | _ => decide (t < 16)

/-- R490: a source is in use: enabled, of PRIO not 0, with a target in range. -/
def Chip.srcOn (c : Chip) (s : Nat) : Bool :=
  c.on R.SVC_SRCCFG_EN s && decide (c.get R.SVC_SRCCFG_PRIO s ≠ 0) && c.targetOk s

/-- R490: a source goes to a core. -/
def Chip.toCore (c : Chip) (s : Nat) : Bool := let k := c.get R.SVC_SRCCFG_KIND s; k == 0 || k == 3

/-- R489, R494: a source is masked, by software or by the storm guard. -/
def Chip.masked (c : Chip) (s : Nat) : Bool := c.on R.SVC_SRCCFG_MASK s || c.on R.SVC_SRCSTAT_STORM s

/-- R490: priority of a source; a fast source that does not go to a core is delivered as normal at 15. -/
def Chip.srcPrio (c : Chip) (s : Nat) : Nat :=
  if c.on R.SVC_SRCCFG_FAST s && !c.toCore s then 15 else c.get R.SVC_SRCCFG_PRIO s

/-- R493: an edge source has accumulated what makes it deliverable. Level sources do not coalesce. -/
def Chip.coalesced (c : Chip) (s : Nat) : Bool :=
  c.get R.SVC_SRCCFG_SENSE s == 0 || decide (max 1 (c.get R.SVC_COALCFG_COALCNT s) ≤ (c.src s).accum) || (c.src s).timed

/-- R489–R493: a source may be delivered now. -/
def Chip.deliverable (c : Chip) (s : Nat) : Bool :=
  c.srcOn s && c.on R.SVC_SRCSTAT_PEND s && !c.masked s && c.coalesced s && !c.on R.SVC_ICGLOBAL_DIS

/-- R489, R493: a source stops being pending: it has been claimed, enqueued or acknowledged. -/
def Chip.unpend (c : Chip) (s : Nat) : Chip :=
  (c.set R.SVC_SRCSTAT_PEND s 0).setSrc s { c.src s with accum := 0, accumAt := none, timed := false, sent := false }

/-- R502: an MSI-X message; a vector masked in the table is held in the pending-bit array. -/
def Chip.sendMsix (c : Chip) (v : Nat) : Chip :=
  if bit (c.get R.SVC_MSIXTAB (4 * v + 3)) 0 then c.set ⟨R.SVC_MSIXPBA.addr, 4, v % 32, v % 32⟩ (v / 32) 1
  else { c with svc := { c.svc with msix := c.svc.msix ++ [v] } }

/-- R498: items of all queues. -/
def Chip.poolUsed (c : Chip) : Nat := (c.svc.queues.map (fun q => q.2.items.length)).sum

/-- R498: whether queue q has room: its depth, and the pool of 16,384. -/
def Chip.queueRoom (c : Chip) (q : Nat) : Bool :=
  c.on R.SVC_WQCFG_EN q && decide ((c.queue q).items.length < c.get R.SVC_WQCFG_DEPTH q + 1) && decide (c.poolUsed < 16384)

/-- R498: an item joins a queue that has room. -/
def Chip.enqueue (c : Chip) (q : Nat) (w : WorkItem) : Chip :=
  c.setQueue q { c.queue q with items := (c.queue q).items ++ [w] }

/-- R487: the 16 integer registers that a fast entry swaps. -/
def fastRegs : List Nat := [1, 5, 6, 7, 10, 11, 12, 13, 14, 15, 16, 17, 28, 29, 30, 31]

/-- R487: the two copies of the swapped registers change places. -/
def swapBank (x : CoreRun) : CoreRun :=
  { x with x := fastRegs.foldl (fun t r => tset 0 t r (tget 0 x.alt r)) x.x,
           alt := fastRegs.foldl (fun t r => tset 0 t r (tget 0 x.x r)) x.alt }

/-- R487, R491: fast entry of source s on core k. -/
def Chip.fastEntry (c : Chip) (k s : Nat) : Chip :=
  let x := swapBank (c.core k)
  let x := { x with fxepc := x.pc, fxsrc := s, pc := x.fxtvec, stack := s :: x.stack, fastAt := c.sched.cyc }
  ((c.unpend s).set R.SVC_SRCSTAT_INSVC s 1).setCore k x |>.set R.SVC_CORESTAT_INFAST k 1

/-- R487, R490, R501: a deliverable source is delivered as far as its target allows. -/
def Chip.deliver (c : Chip) (s : Nat) : Chip :=
  if c.deliverable s then
    let t := c.get R.SVC_SRCCFG_TARGET s
    match c.get R.SVC_SRCCFG_KIND s with
    | 1 => if c.queueRoom t then (c.enqueue t ⟨0, 0, s, 0⟩).unpend s else c
    | 2 => if (c.src s).sent then c else (c.sendMsix t).setSrc s { c.src s with sent := true }
    | _ =>
      let x := c.core t
      if c.on R.SVC_SRCCFG_FAST s ∧ x.fie ∧ c.on R.SVC_CORESTAT_INFAST t = false ∧ x.stack.length < 8 then c.fastEntry t s
      else c
  else c

/-- R491: the sources in use and pending, highest priority first, ties to the lower number. -/
def Chip.pendingSrcs (c : Chip) : List Nat :=
  let l := (List.range 1024).filter (fun s => c.srcOn s && c.on R.SVC_SRCSTAT_PEND s)
  let rank (s : Nat) : Nat := if c.on R.SVC_SRCCFG_FAST s && c.toCore s then 16 else c.srcPrio s
  ((List.range 17).reverse).flatMap (fun p => l.filter (fun s => rank s == p))

/-! ### The scheduler (R498–R500) -/

/-- R499: a core is idle: no item, no offer, an empty in-service stack, READY, and no overrun that awaits its DONE. -/
def Chip.coreIdle (c : Chip) (k : Nat) : Bool :=
  let x := c.core k
  c.on R.SVC_CORESTAT_READY k && !c.on R.SVC_CORESTAT_HOLDING k && x.stack.isEmpty && x.offer.isNone && !x.late

/-- Items of a queue that no core has been offered. -/
def Chip.unoffered (c : Chip) (q : Nat) : Nat :=
  (c.queue q).items.length - ((List.range 16).filter (fun k => (c.core k).offer == some q)).length

/-- R499: the core that a queue's next item is offered to; none while it waits for its last core or no core is idle. -/
def Chip.offerTo (c : Chip) (q : Nat) : Option Nat :=
  let set := c.get R.SVC_WQCFG_CORES q
  let idle := (List.range 16).filter (fun k => bit set k && c.coreIdle k)
  match (c.queue q).last with
  | some k =>
    if idle.contains k then some k
    else if bit set k && !(c.queue q).waited then none
    else idle.head?
  | none => idle.head?

/-- R499: one offer, of the highest-priority queue that can make one, starting after the queue served last. -/
def Chip.offerOne (c : Chip) : Chip :=
  let order := (List.range 256).map (fun i => (c.svc.lastQ + 1 + i) % 256)
  let can := order.filter (fun q => c.on R.SVC_WQCFG_EN q && decide (0 < c.unoffered q) && (c.offerTo q).isSome)
  let top := can.foldl (fun m q => max m (c.get R.SVC_WQCFG_PRIO q)) 0
  match can.find? (fun q => c.get R.SVC_WQCFG_PRIO q == top) with
  | none => c
  | some q =>
    match c.offerTo q with
    | none => c
    | some k =>
      let c := c.setCore k { c.core k with offer := some q }
      let c := c.setQueue q { c.queue q with waitFrom := none, waited := false }
      { c with svc := { c.svc with lastQ := q } }

/-- R499: every offer that can be made is made; a queue whose item waits for its last core begins to wait. -/
def Chip.dispatch (c : Chip) : Chip :=
  let c := c.each (List.range 16) (fun c _ => c.offerOne)
  c.each ((List.range 256).filter (fun q => c.on R.SVC_WQCFG_EN q && decide (0 < c.unoffered q))) (fun c q =>
    match (c.queue q).last with
    | some k =>
      if bit (c.get R.SVC_WQCFG_CORES q) k ∧ (c.queue q).waitFrom = none ∧ (c.queue q).waited = false then
        c.setQueue q { c.queue q with waitFrom := some c.sched.cyc }
      else c
    | none => c)

/-- R490–R493, R499: every pending source is delivered as far as it can be, and items are offered. -/
def Chip.deliverAll (c : Chip) : Chip := (c.each c.pendingSrcs Chip.deliver).dispatch

/-! ### Sensing (R489, R494) -/

/-- R494: the storm guard masks a source. -/
def Chip.storm (c : Chip) (s : Nat) : Chip :=
  let c := c.set R.SVC_SRCSTAT_STORM s 1
  let (f, c) := c.draw
  c.fault 0 7 24 blkSvc (f.toNat % 64) s none

/-- R494: an assertion of a source is counted in its window, and a count beyond EDGEMAX masks the source. -/
def Chip.assertion (c : Chip) (s : Nat) : Chip :=
  let x := c.src s
  let c := c.setSrc s { x with winCount := x.winCount + 1 }
  let m := c.get R.SVC_STORMCFG_EDGEMAX s
  if m ≠ 0 ∧ m < x.winCount + 1 ∧ c.on R.SVC_SRCSTAT_STORM s = false then c.storm s else c

/-- R489, R493, R496: a sensed edge. -/
def Chip.sensedEdge (c : Chip) (s : Nat) : Chip :=
  let c := if c.get R.SVC_SRCSTAT_EDGECNT s = 0xFFFF then c.set R.SVC_SRCSTAT_LOST s 1 else c.bump R.SVC_SRCSTAT_EDGECNT s
  let x := c.src s
  let c := c.setSrc s { x with accum := x.accum + 1, accumAt := some (x.accumAt.getD c.sched.cyc) }
  (c.set R.SVC_SRCSTAT_PEND s 1).assertion s

/-- R489: a source senses a level of its input, after INV. -/
def Chip.senseLevel (c : Chip) (s : Nat) (lvl : Bool) : Chip :=
  let old := c.on R.SVC_SRCSTAT_LEVEL s
  let c := c.setB R.SVC_SRCSTAT_LEVEL s lvl
  if c.on R.SVC_SRCCFG_EN s = false then c
  else match c.get R.SVC_SRCCFG_SENSE s with
    | 0 =>
      if lvl && !old then
        let c := (c.setSrc s { c.src s with heldFrom := c.sched.cyc }).assertion s
        c.setB R.SVC_SRCSTAT_PEND s (!c.masked s)
      else if !lvl then (c.set R.SVC_SRCSTAT_PEND s 0).setSrc s { c.src s with sent := false }
      else c
    | 1 => if lvl && !old then c.sensedEdge s else c
    | 2 => if !lvl && old then c.sensedEdge s else c
    | _ => if lvl != old then c.sensedEdge s else c

/-- R489, R666: the input of source s is sensed: a pulse as both of its edges, a flag as its level. -/
def Chip.sense (c : Chip) (s : Nat) : Chip :=
  let inv := c.on R.SVC_SRCCFG_INV s
  if tget false c.svc.pulses s then
    let c := { c with svc := { c.svc with pulses := tset false c.svc.pulses s false } }
    ((c.senseLevel s (true != inv)).senseLevel s (c.srcFlag s != inv)).deliverAll
  else (c.senseLevel s (c.srcFlag s != inv)).deliverAll

/-- R489, R491, R494: a level source that is asserted and not masked is pending again. -/
def Chip.repend (c : Chip) (s : Nat) : Chip :=
  if c.get R.SVC_SRCCFG_SENSE s = 0 ∧ c.on R.SVC_SRCCFG_EN s ∧ c.on R.SVC_SRCSTAT_LEVEL s ∧ c.masked s = false ∧
      c.on R.SVC_SRCSTAT_INSVC s = false then c.set R.SVC_SRCSTAT_PEND s 1
  else c

/-- R487: what firmware has put into the CSRs of a core. -/
def Chip.firmware (c : Chip) (k : Nat) (w : FwCore) : Chip :=
  c.setCore k { c.core k with fie := w.fie, fxtvec := w.tvec, pc := w.pc, mtvec := w.mtvec, mie := w.mie }

/-- R487, R489: INTERRUPT_SENSE. `fw` is what the firmware of the source's target core has put into its CSRs. -/
def execInterruptSense (src : Fin 1024) (fw : FwCore) (s : State) : Host.Outcome State Fault Refusal :=
  onChip (fun c =>
    let t := c.get R.SVC_SRCCFG_TARGET src.val
    let c := if c.toCore src.val ∧ t < 16 ∧ c.on R.SVC_CORESTAT_INFAST t = false then c.firmware t fw else c
    c.sense src.val) s

/-- R493: COALESCE_TIMEOUT. A COALUS of 0 acts as 1,000 where COALCNT is above 1, and otherwise disables the time rule. -/
def execCoalesceTimeout (src : Fin 1024) (s : State) : Host.Outcome State Fault Refusal :=
  onChip (fun c =>
    let n := src.val
    let us := c.get R.SVC_COALCFG_COALUS n
    let us := if us = 0 ∧ 1 < c.get R.SVC_COALCFG_COALCNT n then 1000 else us
    match (c.src n).accumAt with
    | some t =>
      if us ≠ 0 ∧ t + us * 800 ≤ c.sched.cyc then (c.setSrc n { c.src n with timed := true }).deliverAll else c
    | none => c) s

/-- R494: STORM_WINDOW: a window of STORMWIN milliseconds ends; 0 acts as 1. -/
def execStormWindow (src : Fin 1024) (s : State) : Host.Outcome State Fault Refusal :=
  onChip (fun c =>
    let n := src.val
    let len := max 1 (c.get R.SVC_ICGLOBAL_STORMWIN) * 800000
    let x := c.src n
    if x.winFrom + len ≤ c.sched.cyc then
      let m := c.get R.SVC_STORMCFG_EDGEMAX n
      let c := c.when (decide (m ≠ 0 ∧ m < x.winCount) && !c.on R.SVC_SRCSTAT_STORM n) (·.storm n)
      c.setSrc n { c.src n with winCount := 0, winFrom := c.sched.cyc }
    else c) s

/-- R494: LEVELMAX_EXPIRY. -/
def execLevelmaxExpiry (src : Fin 1024) (s : State) : Host.Outcome State Fault Refusal :=
  onChip (fun c =>
    let n := src.val
    let m := c.get R.SVC_STORMCFG_LEVELMAX n
    if c.on R.SVC_SRCCFG_EN n ∧ c.get R.SVC_SRCCFG_SENSE n = 0 ∧ c.on R.SVC_SRCSTAT_LEVEL n ∧ m ≠ 0 ∧
        (c.src n).heldFrom + m * 800000 < c.sched.cyc ∧ c.on R.SVC_SRCSTAT_STORM n = false then
      (c.storm n).set R.SVC_SRCSTAT_PEND n 0
    else c) s

/-- R494: software clears STORM: the source is unmasked and its window starts again. -/
def Chip.stormCleared (c : Chip) (s : Nat) : Chip :=
  ((c.setSrc s { c.src s with winCount := 0, winFrom := c.sched.cyc, heldFrom := c.sched.cyc }).repend s).deliverAll

/-! ### Cores (R487, R491, R500) -/

/-- R491: the source that a claim by core k returns. -/
def Chip.claimable (c : Chip) (k : Nat) : Option Nat :=
  let x := c.core k
  if c.on R.SVC_CORESTAT_INFAST k ∨ 8 ≤ x.stack.length then none
  else
    let lim := max (c.get R.SVC_THRESH k) (match x.stack with
      | t :: _ => c.srcPrio t
      | [] => 0)
    c.pendingSrcs.find? (fun s => c.deliverable s && c.toCore s && c.get R.SVC_SRCCFG_TARGET s == k &&
      !c.on R.SVC_SRCCFG_FAST s && decide (lim < c.srcPrio s))

/-- R491: CLAIM. What the read returns stands in CORE[k].CLAIM. -/
def execClaim (k : Fin 16) (s : State) : Host.Outcome State Fault Refusal :=
  onChip (fun c =>
    match c.claimable k.val with
    | some n =>
      let c := (c.unpend n).set R.SVC_SRCSTAT_INSVC n 1
      let c := c.setCore k.val { c.core k.val with stack := n :: (c.core k.val).stack }
      (c.set R.SVC_CLAIM_VALID k.val 1).set R.SVC_CLAIM_SOURCE k.val n
    | none => (c.set R.SVC_CLAIM_VALID k.val 0).set R.SVC_CLAIM_SOURCE k.val 0) s

/-- R491: the top of a core's stack is popped; a level source that is still asserted becomes pending again. -/
def Chip.popStack (c : Chip) (k : Nat) : Chip :=
  match (c.core k).stack with
  | n :: t => (((c.setCore k { c.core k with stack := t }).set R.SVC_SRCSTAT_INSVC n 0).repend n)
  | [] => c

/-- R491: a service fault of core k. Its cause code is not stated. -/
def Chip.serviceFault (c : Chip) (k : Nat) : Chip :=
  let (f, c) := c.draw
  c.fault 0 6 24 blkSvc (f.toNat % 64) k none

/-- R491, R499: COMPLETE. -/
def execComplete (k : Fin 16) (v : Word) (s : State) : Host.Outcome State Fault Refusal :=
  onChip (fun c =>
    if (c.core k.val).stack.head? = some (bits v.toNat 9 0) then (c.popStack k.val).deliverAll
    else (c.set R.SVC_CORESTAT_OOO k.val 1).serviceFault k.val) s

/-- R487: FRET. Outside a fast handler it raises an illegal-instruction exception in the core: mcause 2, mepc the FRET, machine
mode, pc at mtvec. -/
def execFret (k : Fin 16) (fw : FwCore) (s : State) : Host.Outcome State Fault Refusal :=
  onChip (fun c =>
    let k := k.val
    if c.on R.SVC_CORESTAT_INFAST k then
      let x := swapBank (c.core k)
      let c := (c.setCore k { x with pc := x.fxepc }).set R.SVC_CORESTAT_INFAST k 0
      (c.popStack k).deliverAll
    else
      let x := { c.core k with pc := fw.pc, mtvec := fw.mtvec, mie := fw.mie }
      c.setCore k { x with mepc := x.pc, mcause := 2, pc := x.mtvec &&& ~~~ 3#64, mpie := x.mie, mie := false }) s

/-- R490: HOSTACK. -/
def execHostack (v : Word) (s : State) : Host.Outcome State Fault Refusal :=
  onChip (fun c =>
    let n := bits v.toNat 9 0
    if c.get R.SVC_SRCCFG_KIND n = 2 then c.unpend n else c) s

/-- R492: ICGLOBAL_WRITE. -/
def execIcglobalWrite (v : Word) (s : State) : Host.Outcome State Fault Refusal :=
  onChip (fun c =>
    let n := v.toNat
    let c := (c.set R.SVC_ICGLOBAL_DIS 0 (bits n 31 31)).set R.SVC_ICGLOBAL_STORMWIN 0 (bits n 15 0)
    if bit n 31 then c else c.deliverAll) s

/-- R498, R501: ENQUEUE: a write to ENQ3 enqueues the four words, or is ignored with REJECT. -/
def execEnqueue (q : Fin 256) (v : Word) (s : State) : Host.Outcome State Fault Refusal :=
  onChip (fun c =>
    let e := (c.queue q.val).enq
    if c.queueRoom q.val then
      (c.enqueue q.val ⟨e.1 + 2 ^ 32 * e.2.1, e.2.2, v.toNat % 65536, v.toNat / 65536⟩).dispatch
    else c.set R.SVC_WQSTAT_REJECT q.val 1) s

/-- R501: a received frame becomes an item of a queue, or is discarded and counted. -/
def Chip.enqueueFrame (c : Chip) (q : Nat) (w : WorkItem) : Chip :=
  if c.queueRoom q then (c.enqueue q w).dispatch else c.bump R.SVC_WQSTAT_DISCARD q

/-- R499: AFFWAIT_EXPIRY. -/
def execAffwaitExpiry (q : Fin 256) (s : State) : Host.Outcome State Fault Refusal :=
  onChip (fun c =>
    let x := c.queue q.val
    match x.waitFrom with
    | some t =>
      if t + c.get R.SVC_WQTIME_AFFWAIT q.val * 800 ≤ c.sched.cyc then
        (c.setQueue q.val { x with waitFrom := none, waited := true }).dispatch
      else c
    | none => c) s

/-- R500, R523: TAKE. -/
def execTake (k : Fin 16) (s : State) : Host.Outcome State Fault Refusal :=
  onChip (fun c =>
    let k := k.val
    let x := c.core k
    match x.offer with
    | none => (c.set R.SVC_TAKE_VALID k 0).set R.SVC_TAKE_QUEUE k 0
    | some q =>
      match (c.queue q).items with
      | [] => (c.setCore k { x with offer := none }).set R.SVC_TAKE_VALID k 0
      | w :: t =>
        let c := c.setQueue q { c.queue q with items := t, last := some k }
        let c := c.setCore k { x with offer := none, item := some w, takenAt := c.sched.cyc, late := false }
        let c := ((c.set R.SVC_CORESTAT_HOLDING k 1).set R.SVC_CORESTAT_LASTQ k q).set R.SVC_WQSTAT_LASTCORE q k
        ((c.set R.SVC_TAKE_VALID k 1).set R.SVC_TAKE_QUEUE k q).deliverAll) s

/-- R500: DONE. -/
def execDone (k : Fin 16) (v : Word) (s : State) : Host.Outcome State Fault Refusal :=
  onChip (fun c =>
    if bit v.toNat 31 ∧ c.on R.SVC_CORESTAT_HOLDING k.val then
      let c := c.setCore k.val { c.core k.val with item := none, late := false }
      let c := { c with svc := { c.svc with doneAt := c.sched.cyc } }
      (c.set R.SVC_CORESTAT_HOLDING k.val 0).dispatch
    else c) s

/-- R525: ITEMUS of a queue, µs; 0 acts as 1,000. -/
def Chip.itemUs (c : Chip) (q : Nat) : Nat := let u := c.get R.SVC_WQTIME_ITEMUS q; if u = 0 then 1000 else u

/-- R500: ITEM_OVERRUN. -/
def execItemOverrun (k : Fin 16) (s : State) : Host.Outcome State Fault Refusal :=
  onChip (fun c =>
    let k := k.val
    let x := c.core k
    if c.on R.SVC_CORESTAT_HOLDING k ∧ x.late = false ∧
        x.takenAt + c.itemUs (c.get R.SVC_CORESTAT_LASTQ k) * 800 ≤ c.sched.cyc then
      ((c.setCore k { x with late := true }).set R.SVC_CORESTAT_OVERRUN k 1).serviceFault k
    else c) s

/-- R500: a core alone is reset: its item is discarded and counted, its stack is emptied, and it takes no items until READY. -/
def Chip.resetCore (c : Chip) (k : Nat) : Chip :=
  let x := c.core k
  let c := if x.item.isSome then c.bump R.SVC_WQSTAT_DISCARD (c.get R.SVC_CORESTAT_LASTQ k) else c
  let c := c.each x.stack (fun c n => (c.set R.SVC_SRCSTAT_INSVC n 0).repend n)
  let c := c.setCore k {}
  let c := (c.set R.SVC_CORESTAT_HOLDING k 0).set R.SVC_CORESTAT_INFAST k 0
  ((c.set R.SVC_CORESTAT_READY k 0).set R.SVC_CORESTAT_CORERST k 1).deliverAll

/-- R500: CORE_RESET, a further 1 s after an overrun. -/
def execCoreReset (k : Fin 16) (s : State) : Host.Outcome State Fault Refusal :=
  onChip (fun c =>
    let k := k.val
    let x := c.core k
    if x.late ∧ x.takenAt + c.itemUs (c.get R.SVC_CORESTAT_LASTQ k) * 800 + 800000000 ≤ c.sched.cyc then c.resetCore k
    else c) s

/-- R500: FAST_HANDLER_TIMEOUT, 1 ms after a fast entry. -/
def execFastHandlerTimeout (k : Fin 16) (s : State) : Host.Outcome State Fault Refusal :=
  onChip (fun c =>
    if c.on R.SVC_CORESTAT_INFAST k.val ∧ (c.core k.val).fastAt + 800000 ≤ c.sched.cyc then c.resetCore k.val else c) s

/-! ### Event pins (R495–R497) -/

/-- The level of event pin n as EVIN shows it. -/
def Chip.evin (c : Chip) (n : Nat) : Bool := bit (c.get R.SVC_EVIN (n / 32)) (n % 32)

/-- The debounced level of event pin n changes, and its source senses it. -/
def Chip.pinLevel (c : Chip) (n : Nat) (high : Bool) : Chip :=
  let c := c.setB ⟨R.SVC_EVIN.addr, 4, n % 32, n % 32⟩ (n / 32) high
  c.senseLevel n (high != c.on R.SVC_SRCCFG_INV n)

/-- R495: EVENT_PIN_EDGE: the debounced level of an input pin changes. -/
def execEventPinEdge (n : Fin 96) (high : Bool) (s : State) : Host.Outcome State Fault Refusal :=
  onChip (fun c => if c.on R.SVC_EVCFG_DIR n.val then c else (c.pinLevel n.val high).deliverAll) s

/-- R497: OSRC of pin n; codes 0x5 to 0x7 act as 0x0. -/
def Chip.pinSource (c : Chip) (n : Nat) : Nat := let o := c.get R.SVC_EVCFG_OSRC n; if 4 < o then 0 else o

/-- R497: output pins of one source take the level that a function gives. -/
def Chip.drivePins (c : Chip) (osrc : Nat) (level : Nat → Bool) : Chip :=
  c.each ((List.range 96).filter (fun n => c.on R.SVC_EVCFG_DIR n && c.pinSource n == osrc)) (fun c n =>
    if c.evin n = level n then c else c.pinLevel n (level n))

/-- R497: EVOUT_WRITE. -/
def execEvoutWrite (i : Fin 3) (v : Word) (s : State) : Host.Outcome State Fault Refusal :=
  onChip (fun c =>
    let c := c.set R.SVC_EVOUT i.val v.toNat
    (c.drivePins 0 (fun n => bit (c.get R.SVC_EVOUT (n / 32)) (n % 32))).deliverAll) s

/-- R497: the output pins that show the ACTIVE output follow it. -/
def Chip.driveActive (c : Chip) : Chip := c.drivePins 2 (fun _ => c.ply.active)

/-- R497: at a Turn boundary of plane p the tally pins of the plane go high, and low again after 1 µs; the pins that show an ingest
flow or a decode context of the plane are sampled. -/
def Chip.boundaryPins (c : Chip) (p : Nat) : Chip :=
  let tally := (List.range 96).filter (fun n =>
    c.on R.SVC_EVCFG_DIR n && c.pinSource n == 1 && c.get R.SVC_EVCFG_PLANE n == p)
  let c := c.each tally (fun c n => (c.pinLevel n true).pinLevel n false)
  let c := c.each ((List.range 96).filter (fun n => c.on R.SVC_EVCFG_DIR n && c.pinSource n == 3 &&
      (let f := c.get R.SVC_EVCFG_ARG n; c.on R.ING_FLOWCFG_EN f && c.get R.ING_FLOWCFG_PLANE f == p))) (fun c n =>
    let under := !c.on R.ING_FLOWSTAT_JOINED (c.get R.SVC_EVCFG_ARG n)
    if c.evin n = under then c else c.pinLevel n under)
  let c := c.each ((List.range 96).filter (fun n => c.on R.SVC_EVCFG_DIR n && c.pinSource n == 4 &&
      (let x := c.get R.SVC_EVCFG_ARG n; decide (x < 16) && c.get R.DEC_DSCFG_PLANE x == p))) (fun c n =>
    let bad := c.on R.DEC_DSSTAT_CONCEALING (c.get R.SVC_EVCFG_ARG n)
    if c.evin n = bad then c else c.pinLevel n bad)
  c.deliverAll

/-! ### Counters (R519) -/

/-- R519: SVC_CNTCLR_SOURCE: EDGECNT of one source or of all; LOST stays (R496). -/
def execSvcCntclrSource (v : Word) (s : State) : Host.Outcome State Fault Refusal :=
  onChip (fun c =>
    let n := v.toNat
    if bit n 31 && !bit n 29 then
      c.each (if bit n 30 then List.range 1024 else [bits n 9 0]) (fun c x => c.set R.SVC_SRCSTAT_EDGECNT x 0)
    else c) s

/-- R519: SVC_CNTCLR_QUEUE: DISCARD of one queue or of all. -/
def execSvcCntclrQueue (v : Word) (s : State) : Host.Outcome State Fault Refusal :=
  onChip (fun c =>
    let n := v.toNat
    if bit n 31 && bit n 29 then
      c.each (if bit n 30 then List.range 256 else [bits n 9 0]) (fun c q => if q < 256 then c.set R.SVC_WQSTAT_DISCARD q 0 else c)
    else c) s

end Sys2Proof.Machine
end

