-- ==== Sys2Proof/Machine/Nand.lean ====
section
/-! DEFINITION. The NAND store: anchors, directory, codewords, bad blocks and wear, scrub and refresh, tokens and the event log
(NAND Storage, R429–R453). -/

namespace Sys2Proof.Machine

/-! ### Blocks and partitions -/

/-- R433: the channel that a MAP entry names. -/
def nandChannel (b : Nat) : Nat := bits b 31 31
/-- R433: the target that a MAP entry names. -/
def nandTarget (b : Nat) : Nat := bits b 30 29
/-- R433: the LUN that a MAP entry names. -/
def nandLun (b : Nat) : Nat := bits b 28 28
/-- R433: the block that a MAP entry names. -/
def nandBlockNo (b : Nat) : Nat := bits b 27 0

/-- Partition indices of R431. -/
def partReel : Nat := 6
def partLog : Nat := 7
def partCal : Nat := 8
def partDir : Nat := 9

/-- The state of a physical block. -/
def Chip.nandBlock (c : Chip) (b : Nat) : NandBlock := tget {} c.nand.blocks b

/-- The state of a physical block replaced. -/
def Chip.setNandBlock (c : Chip) (b : Nat) (x : NandBlock) : Chip :=
  { c with nand := { c.nand with blocks := tset {} c.nand.blocks b x } }

/-- The directory in SRAM replaced. -/
def Chip.setDir (c : Chip) (d : DirRec) : Chip := { c with nand := { c.nand with dir := d } }

/-- R430: the anchor in use: the first whose CRC passed. -/
def Chip.anchor (c : Chip) : AnchorRec := (c.nand.anchors.1.or c.nand.anchors.2).getD {}

/-- R430, R431: the blocks of a partition; the anchor names those of the directory until a record has been read. -/
def Chip.partMap (c : Chip) (i : Nat) : PartMap :=
  let m := tget {} c.nand.dir.map i
  if i = partDir ∧ m = {} then c.anchor.dir else m

/-- R432: where logical page p lies: the place of its block among the logical blocks of its partition, and the page in that block.
Page p is on channel p mod 2, and consecutive pages of a channel rotate over its targets and LUNs. -/
def pagePlace (a : AnchorRec) (p : Nat) : Nat × Nat :=
  let ways := max 1 (a.targets * a.luns)
  let pages := max 1 a.blockPages
  let row := p / 2 / ways
  ((row / pages * ways + p / 2 % ways) * 2 + p % 2, row % pages)

/-- R431: where page p of a copy of the directory lies: copy 0 takes the first half of the partition's blocks. -/
def Chip.dirPlace (c : Chip) (copy : Bool) (p : Nat) : Nat × Nat :=
  let pages := max 1 c.anchor.blockPages
  (b2n copy * ((c.partMap partDir).blocks.length / 2) + p / pages, p % pages)

/-- R430–R432: the physical block that a read is of, and the page in it. -/
def Chip.readPlace (c : Chip) (r : NandRead) : Nat × Nat :=
  match r.data with
  | .anchor ch _ => (b2n ch * 2 ^ 31, 0)
  | .directory copy =>
    let (i, k) := c.dirPlace copy r.page
    ((c.partMap partDir).blocks.getD i 0xFFFFFFFF, k)
  | .page =>
    let (i, k) := pagePlace c.anchor r.page
    ((c.partMap r.part).blocks.getD i 0xFFFFFFFF, k)

/-- R452: ERASEMAX, RDMAX and SPARES of a partition follow its blocks. -/
def Chip.partFigures (c : Chip) (i : Nat) : Chip :=
  let m := c.partMap i
  let all := (m.blocks ++ m.spares).map c.nandBlock
  let c := c.set R.NAND_ERASEMAX i (all.foldl (fun a b => max a b.erases) 0)
  let c := c.set R.NAND_RDMAX i (max (c.get R.NAND_RDMAX i) (all.foldl (fun a b => max a b.reads) 0))
  c.set R.NAND_PARTSTAT_SPARES i (min 0xFF m.spares.length)

/-! ### Storage faults (R450, R542) -/

/-- R450: a storage fault is recorded and goes to the collector at level 0. -/
def Chip.nandFault (c : Chip) (cause block part : Nat) : Chip :=
  let c :=
    if c.on R.NAND_FAULTREC_VALID then c.set R.NAND_FAULTREC_MORE 0 1
    else
      let c := (c.set R.NAND_FAULTREC_VALID 0 1).set R.NAND_FAULTREC_CAUSE 0 cause
      let c := (c.set R.NAND_FAULTREC_CHAN 0 (nandChannel block)).set R.NAND_FAULTREC_TARGET 0 (nandTarget block)
      let c := (c.set R.NAND_FAULTREC_LUN 0 (nandLun block)).set R.NAND_FAULTREC_PART 0 part
      c.set R.NAND_FAULTREC_BLOCK 0 (nandBlockNo block)
  c.fault 0 5 23 blkNand cause (nandChannel block) none

/-! ### The directory (R433–R435) -/

/-- R449: which directory copies hold the valid record. -/
def Chip.dirShown (c : Chip) : Chip :=
  let holds (x : Option DirRec) : Bool := match x with
    | some r => r.seq == c.nand.dir.seq
    | none => false
  let c := (c.setB R.NAND_STORESTAT_DIR0 0 (holds c.nand.copies.1)).setB R.NAND_STORESTAT_DIR1 0 (holds c.nand.copies.2)
  let c := (c.set R.NAND_STORESTAT_INSTTOK 0 c.nand.dir.insttok).set R.NAND_STORESTAT_GOLDTOK 0 c.nand.dir.goldtok
  c.set R.NAND_STORESTAT_SCRUBPASS 0 (c.nand.dir.scrubpass % 65536)

/-- R434, R446: a new record, with SEQ + 1, is programmed to copy 0 and then to copy 1; a worn copy takes none. -/
def Chip.writeDir (c : Chip) : Chip :=
  let d := { c.nand.dir with seq := (c.nand.dir.seq + 1) % 2 ^ 32 }
  let a := if c.nand.dirWorn.1 then c.nand.copies.1 else some d
  let b := if c.nand.dirWorn.2 then c.nand.copies.2 else some d
  ({ c with nand := { c.nand with dir := d, copies := (a, b) } }).dirShown

/-- R434: the valid record: the greatest SEQ by signed difference among those that passed. -/
def validDir : Option DirRec × Option DirRec → Option DirRec
  | (some a, some b) => some (if later 32 b.seq a.seq then b else a)
  | (some a, none) => some a
  | (none, b) => b

/-- R434, R435, R446, R449: the directory as the copies give it; without a record, or with both copies worn, attempt counting is off. -/
def Chip.loadDir (c : Chip) : Chip :=
  match if c.nand.dirWorn = (true, true) then none else validDir c.nand.copies with
  | some d => ({ c with nand := { c.nand with dir := d, noCount := false } }).dirShown
  | none => ({ c with nand := { c.nand with noCount := true } }).dirShown

/-- R434: DIRECTORY_REPAIR: the valid record is rewritten to the copy that lacks it. -/
def execDirectoryRepair (s : State) : Host.Outcome State Fault Refusal :=
  onChip (fun c =>
    match validDir c.nand.copies with
    | some d =>
      let a := if c.nand.dirWorn.1 then c.nand.copies.1 else some d
      let b := if c.nand.dirWorn.2 then c.nand.copies.2 else some d
      ({ c with nand := { c.nand with copies := (a, b) } }).dirShown
    | none => c) s

/-- R433: the state of partition i, 0 to 5, replaced in the directory. -/
def Chip.setPstate (c : Chip) (i : Nat) (v : Nat × Nat) : Chip :=
  c.setDir { c.nand.dir with pstate := listSet c.nand.dir.pstate i v }

/-! ### Wear (R438–R440, R446) -/

/-- R446: a partition needs a block and has no spare left. -/
def Chip.partWorn (c : Chip) (i block : Nat) : Chip :=
  let c := (c.set R.NAND_PARTSTAT_WORN i 1).nandFault 4 block i
  if i < 6 then (c.setPstate i (3, 0)).writeDir
  else if i = partReel then
    if (c.partMap i).blocks.length < 16 then
      (c.set R.REEL_REELSTAT_MIRROR 0 0).when (c.on R.REEL_REELSTAT_MIRROR) (·.pulse 674)
    else c
  else if i = partLog then
    if (c.partMap i).blocks.length < 16 then { c with nand := { c.nand with logStopped := true } } else c
  else if i = partCal then { c with nand := { c.nand with calWorn := true } }
  else
    let w := c.nand.dirWorn
    let w := if nandChannel block = 0 then (true, w.2) else (w.1, true)
    ({ c with nand := { c.nand with dirWorn := w } }).dirShown

/-- R438: a block is never used: it is retired, in the factory table, or block 0 of target 0. -/
def Chip.blockBarred (c : Chip) (b : Nat) : Bool :=
  (c.nandBlock b).retired || c.anchor.bad.contains b || (nandTarget b == 0 && nandLun b == 0 && nandBlockNo b == 0)

/-- R432, R439: the spare that takes the place of a block: on its channel, the one with the lowest erase count, ties to the lower map
entry. -/
def Chip.bestSpare (c : Chip) (i old : Nat) : Option Nat :=
  ((c.partMap i).spares.filter (fun x => nandChannel x == nandChannel old && !c.blockBarred x)).foldl (fun b x => match b with
    | none => some x
    | some y => if (c.nandBlock x).erases < (c.nandBlock y).erases then some x else some y) none

/-- R442, R438: a block of a partition's map is replaced by a spare; with `keep` the old block becomes a spare. -/
def Chip.replaceBlock (c : Chip) (i old new : Nat) (keep : Bool) : Chip :=
  let m := c.partMap i
  let m := { blocks := m.blocks.map (fun x => if x = old then new else x),
             spares := m.spares.filter (· != new) ++ if keep then [old] else [] : PartMap }
  c.setDir { c.nand.dir with map := tset {} c.nand.dir.map i m }

/-- R446: a ring shrinks by a block that cannot be replaced. -/
def Chip.dropBlock (c : Chip) (i old : Nat) : Chip :=
  let m := c.partMap i
  let m := { blocks := m.blocks.filter (· != old), spares := m.spares.filter (· != old) : PartMap }
  c.setDir { c.nand.dir with map := tset {} c.nand.dir.map i m }

/-- R438: a block is retired; the pages already written to it go to a spare and the map is updated. -/
def Chip.retireBlock (c : Chip) (i b : Nat) : Chip :=
  let x := c.nandBlock b
  if x.retired then c
  else
    let c := c.setNandBlock b { x with retired := true }
    let c := (c.set R.NAND_PARTSTAT_RETIREEV i 1).bump R.NAND_PARTSTAT_RETIRED i
    let c :=
      if (c.partMap i).spares.contains b then (c.dropBlock i b).writeDir
      else match c.bestSpare i b with
        | some n =>
          let c := c.setNandBlock n { c.nandBlock n with pages := x.pages }
          (c.replaceBlock i b n false).writeDir
        | none => ((c.dropBlock i b).partWorn i b).writeDir
    c.partFigures i

/-- R438: NAND_PROGRAM_DONE. A failure retires the block. -/
def execNandProgramDone (block : Nat) (part : Fin 10) (ok : Bool) (s : State) : Host.Outcome State Fault Refusal :=
  onChip (fun c =>
    let c := c.set R.NAND_PARTSTAT_WRITING part.val 0
    if ok then
      let x := c.nandBlock block
      c.setNandBlock block { x with pages := x.pages + 1 }
    else (c.nandFault 2 block part.val).retireBlock part.val block) s

/-- R438, R439, R440: NAND_ERASE_DONE. A failure, or an erase of a block whose count has reached ENDLIM, retires the block. -/
def execNandEraseDone (block : Nat) (part : Fin 10) (ok : Bool) (s : State) : Host.Outcome State Fault Refusal :=
  onChip (fun c =>
    let x := c.nandBlock block
    if ok = false then (c.nandFault 3 block part.val).retireBlock part.val block
    else
      let c := c.setNandBlock block { x with erases := min 0xFFFF (x.erases + 1), counted := true, reads := 0, pages := 0 }
      if c.anchor.endlim ≤ x.erases then c.retireBlock part.val block else c.partFigures part.val) s

/-- R450: NAND_BUSY_TIMEOUT. -/
def execNandBusyTimeout (ch : Fin 2) (target : Fin 4) (s : State) : Host.Outcome State Fault Refusal :=
  onChip (fun c => c.nandFault 6 (ch.val * 2 ^ 31 + target.val * 2 ^ 29) 0) s

/-! ### Reading (R437, R440) -/

/-- A block is queued for refresh, once (R447). -/
def Chip.queueRefresh (c : Chip) (b : Nat) : Chip :=
  if b ∈ c.nand.refresh then c else { c with nand := { c.nand with refresh := c.nand.refresh ++ [b] } }

/-- R437: a codeword with at most 8 zero bits is erased. -/
def cwErased (w : CwRead) : Bool := decide (w.zeros ≤ 8)

/-- R436, R437: decoded bytes are codeword k of a logical page of a partition: CWCRC and what the metadata names. -/
def cwPasses (part page k : Nat) (b : List Byte) : Bool :=
  b.length == 2064 && leAt b 2060 4 == (crc32c (b.take 2060)).toNat && leAt b 2048 1 == part && leAt b 2049 1 == k && leAt b 2052 4 == page

/-- R431: the logical page that the metadata of a read name; a copy of the directory has 1,024 pages. -/
def readLogical (r : NandRead) : Nat := match r.data with
  | .directory true => 1024 + r.page
  | _ => r.page

/-- R437: the first level from `l` on at which codeword k passes, with its bytes and the bits corrected. -/
def cwPassFrom (part page k : Nat) : Nat → List (Option CwTry) → Option (Nat × CwTry)
  | _, [] => none
  | l, some t :: ts => if cwPasses part page k t.bytes then some (l, t) else cwPassFrom part page k (l + 1) ts
  | l, none :: ts => cwPassFrom part page k (l + 1) ts

/-- R437: the level at which codeword k of a read passes, up to RETRYMAX. -/
def Chip.cwPass (c : Chip) (r : NandRead) (k : Nat) (w : CwRead) : Option (Nat × CwTry) :=
  cwPassFrom r.part (readLogical r) k 0 (w.tries.take (c.anchor.retryMax + 1))

/-- R437: one codeword of a page read. -/
def Chip.codeword (c : Chip) (r : NandRead) (k : Nat) (w : CwRead) : Chip :=
  let b := (c.readPlace r).1
  let ch := nandChannel b
  if cwErased w then c
  else
    match c.cwPass r k w with
    | some (l, t) =>
      let c := if l = 0 then c.when (decide (0 < t.corrected)) (·.bump R.NAND_CORRCNT ch) else c.bump R.NAND_RETRYCNT ch
      if 0 < l ∨ c.anchor.refth ≤ t.corrected then c.queueRefresh b else c
    | none => (c.bump R.NAND_UNCCNT ch).nandFault 1 b r.part

/-- R437: a page read is uncorrectable where one of its codewords fails at every level. -/
def Chip.readFails (c : Chip) (r : NandRead) : Bool := r.cws.zipIdx.any (fun (w, k) => !cwErased w && (c.cwPass r k w).isNone)

/-- R436: the data bytes of a page read. -/
def Chip.pageBytes (c : Chip) (r : NandRead) : List Byte :=
  r.cws.zipIdx.flatMap (fun (w, k) => match if cwErased w then none else c.cwPass r k w with
    | some (_, t) => t.bytes.take 2048
    | none => List.replicate 2048 0xFF#8)

/-- R439: the first page of a block tells its erase count; a block found erased, with no count, takes the highest of its partition. -/
def Chip.countRead (c : Chip) (r : NandRead) : Chip :=
  let (b, page) := c.readPlace r
  let x := c.nandBlock b
  if page ≠ 0 ∨ x.counted = true then c
  else match r.cws with
    | w :: _ =>
      if cwErased w then
        let m := c.partMap r.part
        let top := (m.blocks ++ m.spares).foldl (fun a n => max a (c.nandBlock n).erases) 0
        c.setNandBlock b { x with erases := top, counted := true }
      else match c.cwPass r 0 w with
        | some (_, t) => c.setNandBlock b { x with erases := leAt t.bytes 2050 2, counted := true }
        | none => c
    | [] => c

/-- R437, R440: a page has been read: its codewords, and the counts of its block. -/
def Chip.pageRead (c : Chip) (r : NandRead) : Chip :=
  let c := (c.each r.cws.zipIdx (fun c w => c.codeword r w.2 w.1)).countRead r
  let b := (c.readPlace r).1
  let x := c.nandBlock b
  let c := c.setNandBlock b { x with reads := x.reads + 1 }
  let c := c.when (decide (c.anchor.rdlim ≤ x.reads + 1)) (·.queueRefresh b)
  if r.part < 10 then c.partFigures r.part else c

/-- R430, R449: an anchor has been read on a channel. The channel uses NV-DDR3 unless the SVC group runs on RC (R386). -/
def Chip.anchorRead (c : Chip) (ch : Nat) (a : Option AnchorRec) : Chip :=
  let n := c.nand
  let n := if ch = 0 then { n with anchors := (a, n.anchors.2), anchorsRead := (true, n.anchorsRead.2) }
    else { n with anchors := (n.anchors.1, a), anchorsRead := (n.anchorsRead.1, true) }
  let c := { c with nand := n }
  let c := c.setB (if ch = 0 then R.NAND_STORESTAT_ANCHOR0 else R.NAND_STORESTAT_ANCHOR1) 0 a.isSome
  let c := c.setB R.NAND_CHSTAT_DDR3 ch (a.isSome && !c.on R.CLK_ROOTSTAT_ONRC)
  let c := (c.set R.NAND_CHSTAT_UP ch 1).set R.NAND_CHSTAT_TARGETS ch ((c.anchor.targets - 1) % 4)
  if a.isNone then c.nandFault 5 (ch * 2 ^ 31) 0 else c

/-- R430: both anchors have been read and neither passed. -/
def Chip.noAnchor (c : Chip) : Bool :=
  c.nand.anchorsRead == (true, true) && c.nand.anchors.1.isNone && c.nand.anchors.2.isNone

/-! ### The bytes of a directory record (R431, R433) -/

/-- R431: logical pages of partition i. -/
def partPages (i : Nat) : Nat := if i < 6 then 16384 else if i = partReel then 65536 else if i = partLog then 16384 else if i = partCal then 1024 else 2048

/-- R431: logical blocks and spares of partition i. -/
def partSize (a : AnchorRec) (i : Nat) : Nat × Nat :=
  let n := ceilDiv (partPages i) (max 1 a.blockPages)
  (n, max 4 (ceilDiv n 16))

/-- R433: the little-endian words of a map. -/
def mapWords : List Byte → List Nat
  | a :: b :: c :: d :: l => ofLe [a, b, c, d] :: mapWords l
  | _ => []

/-- R433: the partitions of a map, from partition i on. -/
def mapParts (a : AnchorRec) (i : Nat) (l : List Nat) : Nat → Tab PartMap → Tab PartMap
  | 0, t => t
  | n + 1, t =>
    let (k, s) := partSize a i
    let used (l : List Nat) : List Nat := l.filter (· != 0xFFFFFFFF)
    mapParts a (i + 1) (l.drop (k + s)) n (tset {} t i { blocks := used (l.take k), spares := used ((l.drop k).take s) })

/-- R433, R434: the record in a page of the directory; none where MAGIC or its CRC fails. -/
def dirParse (a : AnchorRec) (b : List Byte) : Option DirRec :=
  if b.length = 16384 ∧ leAt b 0 4 = 0x44495221 ∧ leAt b 0x3FFC 4 = (crc32c (b.take 0x3FFC)).toNat then
    some { seq := leAt b 4 4, slots := [leAt b 8 1, leAt b 9 1, leAt b 10 1],
           pstate := (List.range 6).map (fun i => (leAt b (0x0C + 4 * i) 1 % 4, leAt b (0x0D + 4 * i) 1)),
           pgen := (List.range 6).map (fun i => leAt b (0x24 + 8 * i) 8), scrubpass := leAt b 0x54 4,
           insttok := leAt b 0x58 1, goldtok := leAt b 0x59 1, map := mapParts a 0 (mapWords (slice b 0x100 16124)) 10 [] }
  else none

/-- R434: a directory copy has been read. -/
def Chip.dirRead (c : Chip) (copy : Bool) (r : Option DirRec) : Chip :=
  let k := if copy then (c.nand.copies.1, r) else (r, c.nand.copies.2)
  let c := ({ c with nand := { c.nand with copies := k } }).loadDir
  let c := c.each (List.range 10) (fun c i =>
    let m : PartMap := tget {} c.nand.dir.map i
    let (n, s) := partSize c.anchor i
    (c.partFigures i).set R.NAND_PARTSTAT_RETIRED i (if m = ({} : PartMap) then 0 else min 0xFFFF (n + s - m.blocks.length - m.spares.length)))
  if r.isNone then c.nandFault 5 (b2n copy * 2 ^ 31) partDir else c

/-- R433, R434: the record that a read of a directory copy finds. -/
def Chip.dirFound (c : Chip) (r : NandRead) : Option DirRec := if c.readFails r then none else dirParse c.anchor (c.pageBytes r)

/-! ### Scrub and refresh (R441, R442) -/

/-- R441: SCRUB_PASS_START. -/
def execScrubPassStart (s : State) : Host.Outcome State Fault Refusal :=
  onChip (fun c =>
    if c.on R.NAND_STORESTAT_SCRUBRUN then c
    else ({ c with nand := { c.nand with scrubbed := 0, scrubFrom := c.sched.cyc } }).set R.NAND_STORESTAT_SCRUBRUN 0 1) s

/-- R441: NAND_SCRUB_PAGE: the pass reads its next written page, no more than 64 a second; a partition that an install is writing is
skipped. The last page ends the pass, and SCRUBPASS is written. -/
def execNandScrubPage (r : NandRead) (last : Bool) (s : State) : Host.Outcome State Fault Refusal :=
  onChip (fun c =>
    if c.on R.NAND_STORESTAT_SCRUBRUN = false ∨ c.sched.cyc < c.nand.scrubFrom + c.nand.scrubbed * 12500000 then c
    else
      let c := if r.part < 10 ∧ c.on R.NAND_PARTSTAT_WRITING r.part then c else c.pageRead r
      let c := { c with nand := { c.nand with scrubbed := c.nand.scrubbed + 1 } }
      if last then
        let c := (c.setDir { c.nand.dir with scrubpass := c.nand.dir.scrubpass + 1 }).writeDir
        c.set R.NAND_STORESTAT_SCRUBRUN 0 0
      else c) s

/-- The partition that holds a physical block. -/
def Chip.partOf (c : Chip) (b : Nat) : Option Nat :=
  (List.range 10).find? (fun i => (c.partMap i).blocks.contains b || (c.partMap i).spares.contains b)

/-- R440, R441, R442: block `block` of partition i is copied to the spare n, which takes its place, and erased; a block that fails its
erase or is at its limit of erases, and a copy that needed too many corrections, is retired. -/
def Chip.refreshTo (c : Chip) (i block n corrected : Nat) (eraseOk : Bool) : Chip :=
  let old := c.nandBlock block
  let c := c.setNandBlock n { c.nandBlock n with pages := old.pages }
  let c := (c.replaceBlock i block n true).writeDir
  let c := c.setNandBlock block { old with erases := min 0xFFFF (old.erases + 1), counted := true, reads := 0, pages := 0 }
  let c :=
    if eraseOk = false then (c.nandFault 3 block i).retireBlock i block
    else if c.anchor.endlim ≤ old.erases then c.retireBlock i block
    else c
  let c := if c.anchor.refth ≤ corrected then c.retireBlock i n else c
  ((c.bump R.NAND_REFRESHCNT i).set R.NAND_PARTSTAT_REFRESHEV i 1).partFigures i

/-- R442: BLOCK_REFRESH of a queued block: `corrected` is the most bits corrected in a codeword of the fresh copy, `readable` that
every page of the old block could be read. It waits while its partition is being installed; an uncorrectable page in an image stops it
(R447). -/
def execBlockRefresh (block : Nat) (corrected : Nat) (readable eraseOk : Bool) (s : State) :
    Host.Outcome State Fault Refusal :=
  onChip (fun c =>
    match (if block ∈ c.nand.refresh then c.partOf block else none) with
    | none => c
    | some i =>
      if c.on R.NAND_PARTSTAT_WRITING i then c
      else
        let c := { c with nand := { c.nand with refresh := c.nand.refresh.filter (· != block) } }
        if i < 6 ∧ readable = false then c
        else match c.bestSpare i block with
          | none => (c.partWorn i block).partFigures i
          | some n => c.refreshTo i block n corrected eraseOk) s

/-! ### Write rates (R443) -/

/-- R443: INSTALL_TOKEN_ACCRUE: one in 6 h of operating time, up to 16. -/
def execInstallTokenAccrue (s : State) : Host.Outcome State Fault Refusal :=
  onChip (fun c =>
    if c.sched.cyc < c.nand.tokDue then c
    else
      let c := { c with nand := { c.nand with tokDue := c.sched.cyc + 17280000000000 } }
      (c.setDir { c.nand.dir with insttok := min 16 (c.nand.dir.insttok + 1) }).dirShown) s

/-- R443: GOLDEN_TOKEN_ACCRUE: one in 30 days of operating time, up to 2. -/
def execGoldenTokenAccrue (s : State) : Host.Outcome State Fault Refusal :=
  onChip (fun c =>
    if c.sched.cyc < c.nand.goldDue then c
    else
      let c := { c with nand := { c.nand with goldDue := c.sched.cyc + 2073600000000000 } }
      (c.setDir { c.nand.dir with goldtok := min 2 (c.nand.dir.goldtok + 1) }).dirShown) s

/-- R443, R446: an event-log entry is stored in the SRAM page, or counted in LOGLOST. -/
def Chip.logEvent (c : Chip) (e : LogEntry) : Chip :=
  if c.nand.logStopped ∨ 256 ≤ c.nand.logPage.length then c.bump R.NAND_LOGLOST partLog
  else { c with nand := { c.nand with logPage := c.nand.logPage ++ [e] } }

/-- R443: LOG_PAGE_PROGRAM, at most one page in 10 s. -/
def execLogPageProgram (s : State) : Host.Outcome State Fault Refusal :=
  onChip (fun c =>
    let due : Bool := match c.nand.logAt with
      | some t => decide (t + 8000000000 ≤ c.sched.cyc)
      | none => true
    if due ∧ c.nand.logPage ≠ [] ∧ c.nand.logStopped = false then
      { c with nand := { c.nand with log := (c.nand.logPage :: c.nand.log).take 16384, logPage := [],
                                     logAt := some c.sched.cyc } }
    else c) s

/-- R448: NAND_CNTCLR: every RO counter of the block: codeword counts, refreshes, lost log entries. -/
def execNandCntclr (v : Word) (s : State) : Host.Outcome State Fault Refusal :=
  onChip (fun c =>
    if bit v.toNat 31 then
      let c := c.each [0, 1] (fun c n => ((c.set R.NAND_CORRCNT n 0).set R.NAND_RETRYCNT n 0).set R.NAND_UNCCNT n 0)
      c.each (List.range 10) (fun c i => (c.set R.NAND_REFRESHCNT i 0).set R.NAND_LOGLOST i 0)
    else c) s

end Sys2Proof.Machine
end

