-- ==== Sys2Proof/Machine/Reel.lean ====
section
/-! DEFINITION. The Reel and the completion ring: journaling, results, NAND images, reads and searches, and the host's
rings (R502, R503, R505, R510, R513–R518, R527). -/

namespace Sys2Proof.Machine

/-! ### Entries (R513, R514) -/

/-- The newest sequence. -/
def Chip.reelHead (c : Chip) : Nat := c.get2 R.REEL_HEADLO R.REEL_HEADHI
/-- R527: the newest sequence whose acceptance image is in NAND. -/
def Chip.reelFlushed (c : Chip) : Nat := c.get2 R.REEL_FLUSHLO R.REEL_FLUSHHI
/-- R527: the NAND mirror runs. -/
def Chip.mirror (c : Chip) : Bool := c.on R.REEL_REELSTAT_MIRROR

/-- The on-chip entry of a sequence. -/
def Chip.reelEntry (c : Chip) (seq : Nat) : Option ReelEntry := c.svc.reel.find? (fun e => e.seq == seq)

/-- R527: the registers that follow the on-chip Reel and the pending table. -/
def Chip.reelShown (c : Chip) : Chip :=
  let c := c.set2 R.REEL_OLDLO R.REEL_OLDHI 0 ((c.svc.reel.getLast?.map (·.seq)).getD 0)
  c.set R.REEL_REELSTAT_PENDING 0 (c.svc.cmds.filter (fun p => !p.atOnce)).length

/-- R514: an image waits for a page, while the NAND mirror runs. -/
def Chip.imageWaits (c : Chip) (e : ReelEntry) (complete : Bool) : Chip :=
  if c.mirror then
    if complete then { c with svc := { c.svc with doneImgs := c.svc.doneImgs ++ [e] } }
    else { c with svc := { c.svc with accImgs := c.svc.accImgs ++ [e] } }
  else c

/-- R513, R514: an entry is written with a sequence of its own; the newest 4,096 stay on chip. -/
def Chip.reelWrite (c : Chip) (e : ReelEntry) : Chip :=
  let c := { c with svc := { c.svc with reel := (e :: c.svc.reel).take 4096 } }
  let c := c.set2 R.REEL_HEADLO R.REEL_HEADHI 0 e.seq
  (c.imageWaits e false).reelShown

/-- R513: an entry is journaled under the next sequence. -/
def Chip.reelPush (c : Chip) (e : ReelEntry) : Chip × Nat :=
  let seq := (c.reelHead + 1) % 2 ^ 48
  (c.reelWrite { e with seq := seq }, seq)

/-- R513: ARGDIG of a message: the first 16 bytes of the SHA-384 of it followed by its argument. -/
def argDigest (l : List Byte) : Nat := ofLe ((sha384 l).take 16)

/-- R513: a device entry, final with result 0x00, which digests the bytes given. -/
def Chip.reelDevice (c : Chip) (code : Nat) (plane turn : Nat) (bytes : List Byte) : Chip :=
  (c.reelPush { turn := turn, plane := plane, code := code, eff := turn, final := true, argdig := argDigest bytes }).1

/-- R513: the bytes of an entry. -/
def ReelEntry.bytes (e : ReelEntry) : List Byte :=
  let body := leBytes 6 e.seq ++ leBytes 5 e.turn ++ leBytes 1 e.plane ++ leBytes 2 e.code ++ leBytes 1 e.origin
    ++ leBytes 1 e.result ++ leBytes 8 e.token ++ leBytes 5 e.eff ++ leBytes 1 (b2n e.durable + 2 * b2n e.final)
    ++ leBytes 2 0 ++ leBytes 16 e.argdig ++ leBytes 8 e.statedig ++ leBytes 4 0
  body ++ leBytes 4 (crc32c body).toNat

/-- R621: the state digest of plane p: the first 8 bytes, little-endian, of the SHA-384 of its last state image; 0 where no
image has been taken. -/
def Chip.stateDigest (c : Chip) (p : Nat) : Nat :=
  match tget (0, []) c.ply.images p with
  | (_, []) => 0
  | (_, l) => ofLe ((sha384 l).take 8)

/-! ### Completions (R503, R505) -/

/-- R503: entries of each ring. -/
def Chip.ringSize (c : Chip) : Nat := 2 ^ c.get R.SVC_RINGCFG_LOG2

/-- R503: the rings are active: EN, with a size in range. -/
def Chip.ringsOn (c : Chip) : Bool :=
  let l := c.get R.SVC_RINGCFG_LOG2
  c.on R.SVC_RINGCFG_EN && decide (4 ≤ l ∧ l ≤ 12)

/-- R503: completions that the host has not freed. -/
def Chip.ringHeld (c : Chip) : Nat := (c.svc.cqNext + c.ringSize - c.svc.cqHead) % c.ringSize

/-- R503: the completion ring has room. -/
def Chip.ringRoom (c : Chip) : Bool := decide (c.ringHeld + 1 < c.ringSize)

/-- R503, R505: one completion into the ring, under the PHASE of this pass, with vector 0. -/
def Chip.ringPut (c : Chip) (x : Completion) : Chip :=
  let next := (c.svc.cqNext + 1) % c.ringSize
  let x := { x with phase := c.svc.cqPhase }
  let phase := if next = 0 then !c.svc.cqPhase else c.svc.cqPhase
  ({ c with svc := { c.svc with ring := c.svc.ring ++ [x], cqNext := next, cqPhase := phase } }).sendMsix 0

/-- R503: completions that wait go into the ring as room allows, oldest first. -/
def Chip.ringPump (c : Chip) : List Completion → Chip
  | [] => { c with svc := { c.svc with posts := [] } }
  | x :: l => if c.ringRoom then (c.ringPut x).ringPump l else { c with svc := { c.svc with posts := x :: l } }

/-- R505: the bytes of a completion. -/
def Completion.bytes (x : Completion) : List Byte :=
  leBytes 6 x.seq ++ leBytes 1 x.result ++ leBytes 1 (b2n x.dup + 2 * b2n x.flushed + 4 * b2n x.final + 128 * b2n x.phase) ++
    leBytes 8 x.token ++ leBytes 8 x.eff ++ leBytes 2 x.sqidx ++ leBytes 2 x.code ++ leBytes 4 0

/-- R507, R572: the tag of in-band bytes under the management key of a slot. -/
def Chip.mgmtTag (c : Chip) (slot : Nat) (l : List Byte) : List Byte := hmac sha256 ((tget {} c.sec.slots slot : KeySlot).key.take 32) l

/-- R505, R507: a completion goes to whoever sent the command. At 2.x its TOKEN reads 0 (R506). -/
def Chip.answer (c : Chip) (d : Answer) (x : Completion) : Chip :=
  let x := { x with flushed := x.seq != 0 && decide (x.seq ≤ c.reelFlushed) }
  match d with
  | .host i =>
    if c.ringsOn then
      let x := { x with sqidx := i }
      let x := if c.get R.SVC_HOSTVER_MAJOR < 3 then { x with token := 0 } else x
      c.ringPump (c.svc.posts ++ [x])
    else c
  | .mgmt slot source =>
    let b := { x with sqidx := 0 }.bytes
    { c with svc := { c.svc with mgmtOut := c.svc.mgmtOut ++ [(source, b ++ c.mgmtTag slot b)] } }
  | .nobody => c

/-- R505: the completion that an entry gives. -/
def ReelEntry.completion (e : ReelEntry) (dup : Bool) : Completion :=
  { seq := e.seq, result := e.result, dup := dup, final := e.final, token := e.token, eff := e.eff, code := e.code }

/-! ### Results (R510, R511) -/

/-- R510, R514, R515: the entry of a sequence takes its final RESULT and the state digest of its boundary; its completion
image waits; with NOTIFY a second completion is posted. An entry that is final already stays as it is (R624). -/
def Chip.finish (c : Chip) (p : PendCmd) (result : Nat) : Chip :=
  let dig := if p.atOnce then 0 else c.stateDigest p.plane
  let upd (e : ReelEntry) : ReelEntry :=
    if e.seq = p.seq then { e with result := result, final := true, statedig := dig } else e
  let open_ := (c.svc.reel.find? (fun e => e.seq == p.seq && !e.final)).map upd
  let c := { c with svc := { c.svc with cmds := c.svc.cmds.filter (fun q => q.seq != p.seq) } }
  match open_ with
  | some e =>
    let c := ({ c with svc := { c.svc with reel := c.svc.reel.map upd } }).reelShown
    let c := c.imageWaits e true
    if p.notify then c.answer p.answer (e.completion false) else c
  | none => c.reelShown

/-- The pending command of a sequence. -/
def Chip.pendCmd (c : Chip) (seq : Nat) : Option PendCmd := c.svc.cmds.find? (fun p => p.seq == seq)

/-- R510: the command of a sequence receives its final result, if it is not final. -/
def Chip.finishSeq (c : Chip) (seq : Option Nat) (result : Nat) : Chip :=
  match seq.bind c.pendCmd with
  | some p => c.finish p result
  | none => c

/-! ### Pages (R443, R514, R515) -/

/-- R431, R446: pages of the REEL partition now. -/
def Chip.reelPages (c : Chip) : Nat :=
  match (c.partMap partReel).blocks with
  | [] => 65536
  | l => l.length * c.anchor.blockPages

/-- R515: the acknowledgements whose acceptance images are in NAND. -/
def Chip.durableAcks (c : Chip) : Chip :=
  let go := c.svc.durable.filter (fun d => decide (d.1 ≤ c.reelFlushed))
  let rest := c.svc.durable.filter (fun d => !decide (d.1 ≤ c.reelFlushed))
  ({ c with svc := { c.svc with durable := rest } }).each go (fun c d => c.answer d.2.dest d.2.comp)

/-- R514: one page of up to 128 acceptance images in sequence order and 128 completion images is programmed. -/
def Chip.programReel (c : Chip) : Chip :=
  let acc := c.svc.accImgs.take 128
  let done := c.svc.doneImgs.take 128
  let pseq := match c.nand.reel with
    | p :: _ => (p.pseq + 1) % 2 ^ 32
    | [] => 0
  let c := { c with
    svc := { c.svc with accImgs := c.svc.accImgs.drop 128, doneImgs := c.svc.doneImgs.drop 128 },
    nand := { c.nand with reel := ({ pseq := pseq, accept := acc, complete := done : ReelPage } :: c.nand.reel).take c.reelPages, reelAt := some c.sched.cyc } }
  let c := match acc.getLast? with
    | some e => c.set2 R.REEL_FLUSHLO R.REEL_FLUSHHI 0 e.seq
    | none => c
  c.durableAcks

/-- R514: whether images wait for a page. -/
def Chip.imagesWait (c : Chip) : Bool := c.mirror && (!c.svc.accImgs.isEmpty || !c.svc.doneImgs.isEmpty)

/-- R443, R78: a flush programs at once as many pages as the waiting images fill. -/
def Chip.flushReel (c : Chip) : Nat → Chip
  | 0 => c
  | n + 1 => if c.imagesWait then c.programReel.flushReel n else c

/-- R443, R514: REEL_PAGE_PROGRAM: a page of waiting images, 1 s at least after the previous program. -/
def execReelPageProgram (s : State) : Host.Outcome State Fault Refusal :=
  onChip (fun c =>
    let due : Bool := match c.nand.reelAt with
      | some t => decide (t + 800000000 ≤ c.sched.cyc)
      | none => true
    if due && c.imagesWait then c.programReel else c) s

/-! ### The rebuild (R517) -/

/-- R517: an image taken for its sequence: a final one in preference, else the one met first, in the page programmed last. -/
def takeImage (t : Tab (Option ReelEntry)) (e : ReelEntry) : Tab (Option ReelEntry) :=
  match tget none t e.seq with
  | none => tset none t e.seq (some e)
  | some old => if e.final && !old.final then tset none t e.seq (some e) else t

/-- R517: the images of the ring, one for each sequence; pages newest first. -/
def Chip.reelImages (c : Chip) : Tab (Option ReelEntry) :=
  c.nand.reel.foldl (fun t p => (p.complete ++ p.accept).foldl takeImage t) []

/-- R517 steps 1 and 2: the Reel is rebuilt from NAND; every entry that is not final becomes final with 0x22. -/
def Chip.reelRebuild (c : Chip) : Chip :=
  let found := ((c.reelImages.filterMap (·.2)).reverse).take 4096
  let c := c.set R.REEL_REELSTAT_MIRROR 0 (b2n (decide (16 ≤ (c.partMap partReel).blocks.length)
    || (c.partMap partReel).blocks.isEmpty))
  let reel := found.map (fun e => if e.final then e else { e with final := true, result := 0x22 })
  let c := { c with svc := { c.svc with reel := reel, cmds := [], accImgs := [], doneImgs := [], durable := [] } }
  let c := c.each (found.filter (fun e => !e.final)).reverse (fun c e =>
    c.imageWaits { e with final := true, result := 0x22 } true)
  let head := (found.head?.map (·.seq)).getD 0
  let c := c.set2 R.REEL_HEADLO R.REEL_HEADHI 0 head
  (c.set2 R.REEL_FLUSHLO R.REEL_FLUSHHI 0 head).reelShown

/-- R517 step 3: the BOOT entry continues the sequences above every one that may have been used. -/
def Chip.reelBoot (c : Chip) (generation : Nat) : Chip :=
  let h := c.reelHead
  c.reelWrite { seq := h / 65536 * 65536 + 131072, plane := 4, code := 1, final := true,
                argdig := generation % 2 ^ 64 }

/-! ### Reads and searches (R518, R527) -/

/-- R518: the entry read, in ENTRY0–ENTRY15, and the end of the read. -/
def Chip.reelShow (c : Chip) (e : Option ReelEntry) (nand : Bool) : Chip :=
  let c := (c.pulse 672).set R.REEL_RDSTAT_BUSY 0 0
  match e with
  | some e =>
    let b := e.bytes
    let c := c.each (List.range 16) (fun c w => c.set R.REEL_ENTRY w (leAt b (4 * w) 4))
    (c.set R.REEL_RDSTAT_VALID 0 1).setB R.REEL_RDSTAT_NAND 0 nand
  | none => ((c.set R.REEL_RDSTAT_VALID 0 0).set R.REEL_RDSTAT_NAND 0 0).set R.REEL_RDSTAT_NOTFOUND 0 1

/-- R518: the sequence in RDSEQ. -/
def Chip.reelRdseq (c : Chip) : Nat := c.get2 R.REEL_RDSEQLO R.REEL_RDSEQHI

/-- R518: a read or a search goes on to the NAND ring. -/
def Chip.reelFetch (c : Chip) (search : Bool) : Chip :=
  let c := { c with svc := { c.svc with fetch := some search } }
  ((c.set R.REEL_RDSTAT_BUSY 0 1).set R.REEL_RDSTAT_VALID 0 0).set R.REEL_RDSTAT_NAND 0 0

/-- R518: REEL_READ: a write to RDSEQHI starts the read of a sequence; an on-chip one is served at once. -/
def execReelRead (v : Word) (s : State) : Host.Outcome State Fault Refusal :=
  onChip (fun c =>
    if c.on R.REEL_RDSTAT_BUSY then c.set R.REEL_RDSTAT_COLLIDE 0 1
    else
      let c := c.set R.REEL_RDSEQHI 0 v.toNat
      let q := c.reelRdseq
      match c.reelEntry q with
      | some e => c.reelShow (some e) false
      | none => if q < c.get2 R.REEL_OLDLO R.REEL_OLDHI ∧ q ≠ 0 then c.reelFetch false else c.reelShow none false) s

/-- R518: REEL_TOKEN_QUERY: GO searches the on-chip Reel, then the NAND ring, newest first. -/
def execReelTokenQuery (v : Word) (s : State) : Host.Outcome State Fault Refusal :=
  onChip (fun c =>
    if bit v.toNat 31 then
      if c.on R.REEL_RDSTAT_BUSY then c.set R.REEL_RDSTAT_COLLIDE 0 1
      else
        let token := c.get2 R.REEL_TOKLO R.REEL_TOKHI
        let origin := v.toNat % 256
        match c.svc.reel.find? (fun e => e.token == token && e.origin == origin) with
        | some e => (c.set2 R.REEL_RDSEQLO R.REEL_RDSEQHI 0 e.seq).reelShow (some e) false
        | none => ({ c with svc := { c.svc with query := (token, origin) } }).reelFetch true
    else c) s

/-- R518: REEL_NAND_FETCH_DONE: the read or search that reached the NAND ring ends. -/
def execReelNandFetchDone (s : State) : Host.Outcome State Fault Refusal :=
  onChip (fun c =>
    match c.svc.fetch with
    | none => c
    | some search =>
      let all := (c.reelImages.filterMap (·.2)).reverse
      let (token, origin) := c.svc.query
      let found := if search then all.find? (fun e => e.token == token && e.origin == origin)
        else all.find? (fun e => e.seq == c.reelRdseq)
      let c := { c with svc := { c.svc with fetch := none } }
      match found with
      | some e => (if search then c.set2 R.REEL_RDSEQLO R.REEL_RDSEQHI 0 e.seq else c).reelShow (some e) true
      | none => c.reelShow none false) s

/-! ### The rings (R502, R503) -/

/-- R502, R503: the ring registers, and the negotiated version, cleared. -/
def Chip.ringsClear (c : Chip) : Chip :=
  let c := (c.set R.SVC_RINGCFG_EN 0 0).set R.SVC_RINGCFG_LOG2 0 0
  let c := c.set R.SVC_SQHEAD 0 0
  let c := ((c.set R.SVC_SQBASELO 0 0).set R.SVC_SQBASEHI 0 0)
  let c := ((c.set R.SVC_CQBASELO 0 0).set R.SVC_CQBASEHI 0 0)
  let c := (c.set R.SVC_HOSTVER_MAJOR 0 0).set R.SVC_HOSTVER_MINOR 0 0
  let c := c.set R.SVC_HOSTVER_CAPS 0 0
  { c with svc := { c.svc with sqTail := 0, cqHead := 0, cqNext := 0, cqPhase := true, ring := [], posts := [],
                               hello := false } }

/-- R503, R506: RING_ENABLE: RINGCFG is written; EN, with a size in range, activates the rings from their first slots. -/
def execRingEnable (v : Word) (s : State) : Host.Outcome State Fault Refusal :=
  onChip (fun c =>
    let was := c.ringsOn
    let c := (c.set R.SVC_RINGCFG_LOG2 0 (v.toNat % 16)).setB R.SVC_RINGCFG_EN 0 (bit v.toNat 31)
    if c.ringsOn && !was then
      let c := c.set R.SVC_SQHEAD 0 0
      { c with svc := { c.svc with sqTail := 0, cqHead := 0, cqNext := 0, cqPhase := true, ring := [], posts := [],
                                   hello := false } }
    else c) s

/-- R503: SQ_DOORBELL: the new submission tail. -/
def execSqDoorbell (v : Word) (s : State) : Host.Outcome State Fault Refusal :=
  onChip (fun c =>
    if c.ringsOn then { c with svc := { c.svc with sqTail := v.toNat % 4096 % c.ringSize } } else c) s

/-- R503: CQ_HEAD_WRITE: completion slots are freed, and completions that wait are posted. -/
def execCqHeadWrite (v : Word) (s : State) : Host.Outcome State Fault Refusal :=
  onChip (fun c =>
    if c.ringsOn then
      let h := v.toNat % 4096 % c.ringSize
      let freed := (h + c.ringSize - c.svc.cqHead) % c.ringSize
      if freed ≤ c.ringHeld then
        let c := { c with svc := { c.svc with cqHead := h, ring := c.svc.ring.drop freed } }
        c.ringPump c.svc.posts
      else c
    else c) s

/-- R502, R78: PCIE_HOT_RESET: the endpoint alone is reset; commands already accepted, and the Reel, stay. -/
def execPcieHotReset (s : State) : Host.Outcome State Fault Refusal :=
  onChip (fun c =>
    let c := c.ringsClear
    { c with svc := { c.svc with linkUp := false } }) s

end Sys2Proof.Machine
end

