-- ==== Sys2Proof/Machine/Dram.lean ====
section
/-! DEFINITION. The DRAM space and its controllers: the mapping, the memory, dynamic requests, error handling, the Snag guard,
calibration, panic ports and DRAM faults (DRAM Controller, R397–R428). -/

namespace Sys2Proof.Machine

/-! ### The mapping (R398–R400) -/

/-- Where a DRAM address lies in the parts. -/
structure DramLoc where
  ch : Nat
  bank : Nat
  row : Nat
  col : Nat
  deriving DecidableEq, Repr

/-- R397: bytes of one channel: 1 GiB or 2 GiB. -/
def Chip.channelBytes (c : Chip) : Nat := if c.on R.DRAM_MAPCFG_DENS then 2 ^ 31 else 2 ^ 30

/-- R398: bytes of the DRAM space. -/
def Chip.dramBytes (c : Chip) : Nat := 16 * c.channelBytes

/-- R398: log₂ of the interleave grain. -/
def Chip.grainLog (c : Chip) : Nat := 8 + min 8 (c.get R.DRAM_MAPCFG_GRAIN)

/-- R398: the channel of a DRAM address. -/
def Chip.dramChannel (c : Chip) (a : Nat) : Nat :=
  let g := c.grainLog
  if c.on R.DRAM_MAPCFG_CHXOR then bits a (g + 3) g ^^^ bits a (g + 7) (g + 4) else bits a (g + 3) g

/-- R398: the channel-local address of a DRAM address. -/
def Chip.dramLocal (c : Chip) (a : Nat) : Nat :=
  let g := c.grainLog
  a / 2 ^ (g + 4) * 2 ^ g + a % 2 ^ g

/-- R398: the place of a DRAM address. -/
def Chip.dramLoc (c : Chip) (a : Nat) : DramLoc :=
  let l := c.dramLocal a
  let b := bits l 14 11
  { ch := c.dramChannel a
    bank := if c.on R.DRAM_MAPCFG_BXOR then b ^^^ bits l 18 15 else b
    row := if c.on R.DRAM_MAPCFG_DENS then bits l 30 15 else bits l 29 15
    col := bits l 10 6 }

/-- R399, R425: whether an address lies in a region with inline ECC. -/
def Chip.eccRegion (c : Chip) (a : Nat) : Bool :=
  (List.range 16).any (fun i =>
    c.on R.DRAM_REGIONLO_EN i && c.on R.DRAM_REGIONLO_ECC i &&
    decide (c.get R.DRAM_REGIONLO_BASE i * 65536 ≤ a ∧ a < c.get R.DRAM_REGIONHI_LIMIT i * 65536))

/-- R399: the first row reserved for check bytes. -/
def Chip.firstCheckRow (c : Chip) : Nat := if c.on R.DRAM_MAPCFG_DENS then 0xE000 else 0x7000

/-- R400: bank and row of the check bytes of a line, and the byte offset in that row. -/
def Chip.checkLoc (c : Chip) (p : DramLoc) : Nat × Nat × Nat :=
  (p.bank ^^^ 8, c.firstCheckRow + p.row / 8, (p.row % 8 * 32 + p.col) * 8)

/-- R409: whether a bank pair is refreshed in the Twist at ring position j: pairs 2j mod 8 and (2j + 1) mod 8. -/
def pairRefreshed (j pair : Nat) : Bool := pair == 2 * j % 8 || pair == (2 * j + 1) % 8

/-- R409: whether a bank may take commands in the present Twist. -/
def Chip.bankFree (c : Chip) (bank : Nat) : Bool := !pairRefreshed c.ringPos (bank % 8)

/-! ### DRAM faults (R402, R420, R542) -/

/-- R420, R542, R668: a DRAM fault is recorded and goes to the collector, in domain 22 and with no plane. -/
def Chip.dramFault (c : Chip) (cause ch bank row : Nat) : Chip :=
  let c :=
    if c.on R.DRAM_FAULTREC_VALID then c.set R.DRAM_FAULTREC_MORE 0 1
    else
      let c := (c.set R.DRAM_FAULTREC_VALID 0 1).set R.DRAM_FAULTREC_CAUSE 0 cause
      let c := (c.set R.DRAM_FAULTREC_CHAN 0 ch).set R.DRAM_FAULTREC_BANK 0 bank
      c.set R.DRAM_FAULTREC_ROW 0 row
  let level := if cause ≤ 4 then 1 else if cause = 5 then 3 else if cause ≤ 7 then 0 else 4
  c.fault level 3 22 blkDram cause ch none

/-- R402: what a read meets on one line: the counters, the faults, and whether the line is poisoned. Array errors are found in
protected lines only. -/
def Chip.lineError (c : Chip) (a : Nat) (e : LineErr) : Chip × Bool :=
  let p := c.dramLoc a
  let prot := c.eccRegion a
  match e with
  | .none => (c, false)
  | .linkCorrected => (c.bump R.DRAM_LINKCNT_COR p.ch, false)
  | .linkUncorrectable => ((c.bump R.DRAM_LINKCNT_UNC p.ch).dramFault 1 p.ch p.bank p.row, true)
  | .arrayCorrected => if prot then (c.bump R.DRAM_ECCCNT_COR p.ch, false) else (c, false)
  | .arrayUncorrectable => if prot then ((c.bump R.DRAM_ECCCNT_UNC p.ch).dramFault 2 p.ch p.bank p.row, true) else (c, false)
  | .addressSyndrome => if prot then ((c.bump R.DRAM_ECCCNT_UNC p.ch).dramFault 3 p.ch p.bank p.row, true) else (c, false)

/-- R402: the lines of a read of `n` bytes from `a`, in order; the poison flag of each. -/
def Chip.lineErrors (c : Chip) (a n : Nat) (errs : List LineErr) : Chip × List Bool :=
  (List.range (ceilDiv n 64)).foldl (fun (q : Chip × List Bool) i =>
    let (c, b) := q.1.lineError (a + 64 * i) (errs.getD i .none)
    (c, q.2 ++ [b])) (c, [])

/-! ### The Snag guard (R412, R413) -/

/-- The entry of a Snag table that an activation of a row counts in: the row's own, or the first with the lowest count. -/
def snagIndex (t : List (Nat × Nat)) (row : Nat) : Nat :=
  match t.findIdx? (fun e => e.1 == row + 1) with
  | some i => i
  | none =>
    let low := t.foldl (fun m e => min m e.2) (t.headD (0, 0)).2
    (t.findIdx? (fun e => e.2 == low)).getD 0

/-- R412: the Snag table of a bank. -/
def Chip.snagTable (c : Chip) (key : Nat) : List (Nat × Nat) :=
  let t := tget [] c.dram.snag key
  if t.isEmpty then List.replicate 32 (0, 0) else t

/-- R412, R413: an activation of a row of a bank (16 × channel + bank), by a dynamic requester or by a static access. -/
def Chip.activate (c : Chip) (key row : Nat) (who : Option Nat) : Chip :=
  let t := c.snagTable key
  let i := snagIndex t row
  let n := (t.getD i (0, 0)).2 + 1
  let hit := n == c.get R.DRAM_SNAGCFG_SNAGTH
  let t := listSet t i (row + 1, if hit then 0 else n)
  let c := { c with dram := { c.dram with snag := tset [] c.dram.snag key t } }
  if hit then
    let pair := (key / 16, key % 8)
    let c := if pair ∈ c.dram.rfm then c else { c with dram := { c.dram with rfm := c.dram.rfm ++ [pair] } }
    match who with
    | some w => { c with dram := { c.dram with holds := c.dram.holds ++ [(w, key, c.sched.cyc)] } }
    | none => (c.set R.DRAM_CHSTAT_STATSNAG (key / 16) 1).dramFault 5 (key / 16) (key % 16) row
  else c

/-- R400, R412: the activations of an access to `n` bytes from `a`: each row once for each run of lines in it, and the row of the
check line in a protected region. -/
def Chip.activations (c : Chip) (a n : Nat) (who : Option Nat) : Chip :=
  ((List.range (ceilDiv n 64)).foldl (fun (q : Chip × Option (Nat × Nat)) i =>
    let x := a + 64 * i
    let p := q.1.dramLoc x
    let key := 16 * p.ch + p.bank
    if q.2 = some (key, p.row) then q
    else
      let c := q.1.activate key p.row who
      let (cb, cr, _) := c.checkLoc p
      let c := if c.eccRegion x then c.activate (16 * p.ch + cb) cr who else c
      (c, some (key, p.row))) (c, none)).1

/-- R412: every Snag table is cleared. -/
def Chip.clearSnag (c : Chip) : Chip := { c with dram := { c.dram with snag := [] } }

/-! ### Dynamic requests (R408) -/

/-- R413: whether a requester's activations of a bank are held back. -/
def Chip.snagHeld (c : Chip) (who key : Nat) : Bool := c.dram.holds.any (fun h => h.1 == who && h.2.1 == key)

/-- Bytes that a dynamic request moves. -/
def dynSize (r : DynReq) : Nat := if r.write then r.data.length else r.count

/-- R404: the MEM cycles of a channel in Twist k: the edges from the first at or after fabric cycle 256 × k; division 3 or 6 of 3.2 GHz
against the fabric's 4. -/
def memCycles (div6 : Bool) (k : Nat) : Nat :=
  let d := if div6 then 6 else 3
  ceilDiv (1024 * (k + 1)) d - ceilDiv (1024 * k) d

/-- R404: 64-byte data slots of one channel in a Twist: a slot takes 4 MEM cycles, and every Twist is planned with the shorter length. -/
def Chip.dataSlots (c : Chip) : Nat := ((List.range 3).map (memCycles (c.on R.DRAM_FREQSTAT_DIV6))).foldl min 1024 / 4

/-- R404, R408, R409, R413, R417: whether a request can begin in the present Twist: it lies in the open pool, no seam is in progress,
the bank takes commands and is not held, and the access ends within the run. -/
def Chip.dynFits (c : Chip) (r : DynReq) : Bool :=
  let p := c.dramLoc r.addr
  c.openTwist && !c.on R.DRAM_FREQSTAT_SEAM && c.bankFree p.bank && !c.snagHeld r.who (16 * p.ch + p.bank) &&
    decide (ceilDiv (dynSize r) 64 ≤ 16 * c.dataSlots * c.openRun ∧
      max c.sched.cyc (tget 0 c.dram.busy p.ch) + r.cycles ≤ c.sched.cyc + 256 * c.openRun)

/-- R402, R408: a dynamic request is served. -/
def Chip.serveDyn (c : Chip) (r : DynReq) : Chip :=
  let p := c.dramLoc r.addr
  let c := c.activations r.addr (dynSize r) (some r.who)
  let until_ := max c.sched.cyc (tget 0 c.dram.busy p.ch) + r.cycles
  let c := { c with dram := { c.dram with busy := tset 0 c.dram.busy p.ch until_ } }
  if r.write then c.dramWrite r.addr r.data
  else
    let (c, poison) := c.lineErrors r.addr r.count r.errs
    let data := c.dramRead r.addr r.count
    { c with dram := { c.dram with reply := tset ([], false) c.dram.reply r.who (data, poison.any id) } }

/-- R408: the waiting requests that can begin in the present Twist are served: parse reads first, then in the order in which they
arrived; a request that has to wait keeps those behind it on its channel waiting, unless it is held by the Snag guard. -/
def Chip.serveDram (c : Chip) : Chip :=
  let q := c.dram.queue.filter (·.parse) ++ c.dram.queue.filter (fun r => !r.parse)
  let go := fun (x : Chip × List DynReq × List Nat) (r : DynReq) =>
    let p := x.1.dramLoc r.addr
    if !x.2.2.contains p.ch && x.1.dynFits r then (x.1.serveDyn r, x.2.1, x.2.2)
    else (x.1, x.2.1 ++ [r], if x.1.snagHeld r.who (16 * p.ch + p.bank) then x.2.2 else p.ch :: x.2.2)
  let x := q.foldl go (c, [], [])
  { x.1 with dram := { x.1.dram with queue := x.2.1 } }

/-- R398: an access outside the DRAM space. -/
def Chip.outsideDram (c : Chip) (a n : Nat) : Bool := decide (c.dramBytes < a + n)

/-- R408: DRAM_DYNAMIC_REQUEST. -/
def execDramDynamicRequest (r : DynReq) (s : State) : Host.Outcome State Fault Refusal :=
  if s.chip.outsideDram r.addr (dynSize r) then .fault .noSuchDramAddress
  else onChip (fun c =>
    if c.on R.DRAM_MAPCFG_EN then
      ({ c with dram := { c.dram with queue := c.dram.queue ++ [r] } }).serveDram
    else c) s

/-! ### Upkeep (R403, R410, R411, R413) -/

/-- R426: a channel is in use. -/
def Chip.chanOn (c : Chip) (ch : Nat) : Bool := c.on R.DRAM_MAPCFG_EN && c.on R.DRAM_CHCFG_EN ch

/-- R408, R417: whether the controllers' own work may use the present Twist. -/
def Chip.dramOpen (c : Chip) : Bool := c.openTwist && !c.on R.DRAM_FREQSTAT_SEAM

/-- R410: MR4_POLL: the value read, and whether the part asks for more than 2× refresh or reports a temperature beyond its range. -/
def execMr4Poll (ch : Fin 16) (v : Byte) (hot : Bool) (s : State) : Host.Outcome State Fault Refusal :=
  onChip (fun c =>
    if c.chanOn ch.val ∧ c.dramOpen then
      let c := c.set R.DRAM_MR4 ch.val v.toNat
      if hot then (c.set R.DRAM_CHSTAT_HOT ch.val 1).dramFault 6 ch.val 0 0 else c
    else c) s

/-- R411: ZQ_CALIBRATION: a calibration latch is issued. -/
def execZqCalibration (ch : Fin 16) (s : State) : Host.Outcome State Fault Refusal :=
  onChip (fun c =>
    if c.chanOn ch.val ∧ c.dramOpen then
      { c with dram := { c.dram with zq := tset 0 c.dram.zq ch.val c.sched.cyc } }
    else c) s

/-- R411: a delay line moves by at most one step toward where its drift calls it, and is held within 8 steps of its trained
value. -/
def stepDelay (now want : Int) : Int := clampI (now + clampI (want - now) (-1) 1) (-8) 8

/-- R411: DQ_OSCILLATOR_READ: for each delay line, the offset from its trained value that its drift calls for. -/
def execDqOscillatorRead (ch : Fin 16) (drift : List Int) (s : State) : Host.Outcome State Fault Refusal :=
  onChip (fun c =>
    if c.chanOn ch.val ∧ c.dramOpen then
      let old := tget [] c.dram.delays ch.val
      let new := (List.range drift.length).map (fun i => stepDelay (old.getD i 0) (drift.getD i 0))
      let c := { c with dram := { c.dram with delays := tset [] c.dram.delays ch.val new } }
      let c := c.set R.DRAM_DRIFTMAX ch.val (new.foldl (fun m x => max m x.natAbs) 0)
      let beyond := (List.range drift.length).any (fun i =>
        decide (old.getD i 0 = 8 ∧ 8 < drift.getD i 0 ∨ old.getD i 0 = -8 ∧ drift.getD i 0 < -8))
      if beyond then (c.set R.DRAM_CHSTAT_DRIFT ch.val 1).dramFault 7 ch.val 0 0 else c
    else c) s

/-- R413: RFM_ISSUE. -/
def execRfmIssue (ch : Fin 16) (pair : Fin 8) (s : State) : Host.Outcome State Fault Refusal :=
  onChip (fun c =>
    if (ch.val, pair.val) ∈ c.dram.rfm ∧ c.dramOpen ∧ pairRefreshed c.ringPos pair.val = false then
      ({ c with dram := { c.dram with rfm := c.dram.rfm.filter (fun e => e != (ch.val, pair.val)) } }).bump R.DRAM_SNAGCNT ch.val
    else c) s

/-- R413, R423: SNAG_HOLD_EXPIRY, SNAGHOLD revolutions of 16,384 fabric cycles after the hold began; 0 acts as 1. -/
def execSnagHoldExpiry (who : Nat) (ch bank : Fin 16) (s : State) : Host.Outcome State Fault Refusal :=
  onChip (fun c =>
    let len := 16384 * max 1 (c.get R.DRAM_SNAGCFG_SNAGHOLD)
    let key := 16 * ch.val + bank.val
    let left := c.dram.holds.filter (fun h => !(h.1 == who && h.2.1 == key && decide (h.2.2 + len ≤ c.sched.cyc)))
    ({ c with dram := { c.dram with holds := left } }).serveDram) s

/-- R403: SCRUB_LINE. A correctable array error is written back; an uncorrectable line is counted, reported and left. -/
def execScrubLine (addr : Nat) (e : LineErr) (s : State) : Host.Outcome State Fault Refusal :=
  if s.chip.outsideDram addr 64 then .fault .noSuchDramAddress
  else onChip (fun c =>
    if c.on R.DRAM_MAPCFG_EN ∧ c.dramOpen ∧ c.eccRegion addr ∧ c.bankFree (c.dramLoc addr).bank then
      ((c.activations addr 64 (some 1024)).lineError addr e).1
    else c) s

/-! ### Panic ports (R415, R416) -/

/-- R415: the panic port bound to a raster egress flow. -/
def Chip.panicOf (c : Chip) (flow : Nat) : Option Nat :=
  (List.range 8).find? (fun k => c.on R.DRAM_PPCFG_EN k && c.get R.DRAM_PPCFG_FLOW k == flow)

/-- R415, R416: a static read of a flow's line returned a poisoned line. An uncorrectable link error is read again. -/
def Chip.egressPoison (c : Chip) (flow line : Nat) (e : LineErr) : Chip :=
  let c := { c with dram := { c.dram with poisoned := c.dram.poisoned ++ [(flow, line)] } }
  match c.panicOf flow with
  | some k =>
    if e = .linkUncorrectable ∧ tget none c.dram.panics k = none then
      ({ c with dram := { c.dram with panics := tset none c.dram.panics k (some (line, 0)) } }).set R.DRAM_PPSTAT_RETRY k 1
    else c
  | none => c

/-- R415, R416: PANIC_RETRY. A clean line replaces the poisoned one; a link error leaves the next attempt, up to PANICTRY; any
other error ends the retries. -/
def execPanicRetry (k : Fin 8) (e : LineErr) (s : State) : Host.Outcome State Fault Refusal :=
  onChip (fun c =>
    match tget none c.dram.panics k.val with
    | none => c
    | some (line, n) =>
      if c.dramOpen = false then c
      else
        let flow := c.get R.DRAM_PPCFG_FLOW k.val
        let done (c : Chip) := ({ c with dram := { c.dram with panics := tset none c.dram.panics k.val none } }).set R.DRAM_PPSTAT_RETRY k.val 0
        match e with
        | .none | .linkCorrected | .arrayCorrected =>
          let c := (done c).bump R.DRAM_PPCNT_RECOV k.val
          { c with dram := { c.dram with poisoned := c.dram.poisoned.filter (fun x => x != (flow, line)) } }
        | .linkUncorrectable =>
          if max 1 (c.get R.DRAM_PPCFG_PANICTRY k.val) ≤ n + 1 then done c
          else { c with dram := { c.dram with panics := tset none c.dram.panics k.val (some (line, n + 1)) } }
        | .arrayUncorrectable | .addressSyndrome => done c) s

/-- R416: a flow's line goes out: whether it is poisoned, and UNDER and PPCNT of its panic port if so. -/
def Chip.linePoisoned (c : Chip) (flow line : Nat) : Bool := c.dram.poisoned.contains (flow, line)

/-- R416: a line of a flow has been sent, black if it was not clean. -/
def Chip.lineSent (c : Chip) (flow line : Nat) (black : Bool) : Chip :=
  let c := { c with dram := { c.dram with poisoned := c.dram.poisoned.filter (fun x => x != (flow, line)) } }
  match c.panicOf flow with
  | some k =>
    let gone : Bool := match tget none c.dram.panics k with
      | some (l, _) => l == line
      | none => false
    let c := if gone then
        ({ c with dram := { c.dram with panics := tset none c.dram.panics k none } }).set R.DRAM_PPSTAT_RETRY k 0
      else c
    if black then (c.set R.DRAM_PPSTAT_UNDER k 1).bump R.DRAM_PPCNT_BLACK k else c
  | none => c

/-- R421: DRAM_CNTCLR. -/
def execDramCntclr (v : Word) (s : State) : Host.Outcome State Fault Refusal :=
  onChip (fun c =>
    let n := v.toNat
    if bit n 31 then
      c.each (if bit n 30 then List.range 16 else [bits n 3 0]) (fun c ch =>
        let c := (c.set R.DRAM_LINKCNT_UNC ch 0).set R.DRAM_LINKCNT_COR ch 0
        let c := (c.set R.DRAM_ECCCNT_UNC ch 0).set R.DRAM_ECCCNT_COR ch 0
        c.set R.DRAM_SNAGCNT ch 0)
    else c) s

end Sys2Proof.Machine
end

