-- ==== Sys2Proof/Machine/Frames.lean ====
section
/-! DEFINITION. The bytes of frames: Ethernet, IP and UDP headers (R316, R319), RTP (R325), the PTP messages of IEEE 1588 (R338, R339),
group membership (IGMP, MLD: R317), ARP and NDP (R318), and what a received frame holds. Network order is big-endian, as the
standards fix it (R7). -/

namespace Sys2Proof.Machine

/-- Fields of bits as bytes, most significant bit first; the last byte is filled with 1s (RFC 8331, ST 2038) or 0s. -/
def packBits (fill : Nat) (l : List (Nat × Nat)) : List Byte :=
  let (v, n) := l.foldl (fun (a : Nat × Nat) e => (a.1 * 2 ^ e.2 + e.1 % 2 ^ e.2, a.2 + e.2)) (0, 0)
  let pad := (8 - n % 8) % 8
  beBytes ((n + pad) / 8) (v * 2 ^ pad + (if fill = 1 then 2 ^ pad - 1 else 0))

/-- The field of `n` bits at bit `off` of a byte string, most significant bit first. -/
def bitsAt (l : List Byte) (off n : Nat) : Nat :=
  let k := ceilDiv (off % 8 + n) 8
  beAt l (off / 8) k / 2 ^ (8 * k - off % 8 - n) % 2 ^ n

/-! ### Ethernet (R313, R315, R318) -/

/-- One bit of the reflected CRC-32 of IEEE 802.3. -/
def crc32Bit (c : BitVec 32) : BitVec 32 := if c.getLsbD 0 then (c >>> 1) ^^^ 0xEDB88320#32 else c >>> 1

/-- R313: the FCS of a frame: CRC-32, least significant byte first. -/
def fcs (l : List Byte) : List Byte :=
  leBytes 4 (l.foldl (fun c b => (List.range 8).foldl (fun c _ => crc32Bit c) (c ^^^ b.setWidth 32)) 0xFFFFFFFF#32 ^^^ 0xFFFFFFFF#32).toNat

/-- RFC 1112, RFC 2464 (R318): the MAC address of a multicast address. -/
def groupMac (v6 : Bool) (a : Nat) : Nat := if v6 then 0x333300000000 + a % 2 ^ 32 else 0x01005E000000 + a % 2 ^ 23

/-- An IP address is a multicast address. -/
def isGroup (v6 : Bool) (a : Nat) : Bool := if v6 then a / 2 ^ 120 == 0xFF else a / 2 ^ 28 == 0xE

/-- A frame without its FCS, padded to the shortest that R313 allows. -/
def ethFrame (dst src : Nat) (vlan : Option Nat) (type : Nat) (data : List Byte) : List Byte :=
  let tag := match vlan with
    | some v => beBytes 2 0x8100 ++ beBytes 2 (v % 4096)
    | none => []
  let l := beBytes 6 dst ++ beBytes 6 src ++ tag ++ beBytes 2 type ++ data
  l ++ List.replicate (60 - l.length) 0#8

/-! ### IP and UDP (R316, R319) -/

/-- The sum of the big-endian 16-bit words of a byte string, an odd last byte being followed by 0. -/
def wordSum : List Byte → Nat
  | [] => 0
  | [a] => a.toNat * 256
  | a :: b :: t => a.toNat * 256 + b.toNat + wordSum t

/-- The Internet checksum: the complement of the ones' complement sum. -/
def inetSum (l : List Byte) : Nat :=
  let fold (n : Nat) : Nat := n / 65536 + n % 65536
  65535 - fold (fold (wordSum l))

/-- R319: an IP header for a payload of `len` bytes of a protocol: IPv4 with IHL 5, identification 0 and DF 1, or IPv6; ECN is 0. -/
def ipHeader (v6 : Bool) (h : NetHead) (proto len : Nat) : List Byte :=
  if v6 then packBits 0 [(6, 4), (4 * h.dscp, 8), (h.label, 20), (len, 16), (proto, 8), (h.ttl, 8), (h.src, 128), (h.dst, 128)]
  else
    let make (sum : Nat) : List Byte := packBits 0 [(4, 4), (5, 4), (4 * h.dscp, 8), (20 + len, 16), (0, 16), (0, 1), (1, 1), (0, 14),
      (h.ttl, 8), (proto, 8), (sum, 16), (h.src, 32), (h.dst, 32)]
    make (inetSum (make 0))

/-- The pseudo-header of a checksum over a payload of `len` bytes of a protocol. -/
def pseudoHeader (v6 : Bool) (src dst proto len : Nat) : List Byte :=
  if v6 then beBytes 16 src ++ beBytes 16 dst ++ beBytes 4 len ++ beBytes 4 proto
  else beBytes 4 src ++ beBytes 4 dst ++ beBytes 2 proto ++ beBytes 2 len

/-- R319: an IP packet of a protocol. -/
def ipPacket (v6 : Bool) (h : NetHead) (proto : Nat) (data : List Byte) : List Byte := ipHeader v6 h proto data.length ++ data

/-- R319: a UDP packet, whose checksum is computed; one that comes to 0 is sent as 0xFFFF (RFC 768). -/
def udpPacket (v6 : Bool) (h : NetHead) (src dst : Nat) (data : List Byte) : List Byte :=
  let len := 8 + data.length
  let make (sum : Nat) : List Byte := beBytes 2 src ++ beBytes 2 dst ++ beBytes 2 len ++ beBytes 2 sum ++ data
  let sum := inetSum (pseudoHeader v6 h.src h.dst 17 len ++ make 0)
  ipPacket v6 h 17 (make (if sum = 0 then 0xFFFF else sum))

/-- An ICMPv6 message with its checksum; `data` has 0 in its place. -/
def icmpv6 (h : NetHead) (data : List Byte) : List Byte :=
  data.take 2 ++ beBytes 2 (inetSum (pseudoHeader true h.src h.dst 58 data.length ++ data)) ++ data.drop 4

/-- The Ethertype of an IP version. -/
def ipType (v6 : Bool) : Nat := if v6 then 0x86DD else 0x0800

/-! ### Reception (R316) -/

/-- R316: a received frame: destination and source addresses, VLAN ID, Ethertype, and what follows. -/
structure FrameIn where
  dst : Nat
  src : Nat
  vlan : Option Nat
  type : Nat
  data : List Byte

/-- R316: the parts of a frame without its FCS. -/
def frameParts (l : List Byte) : FrameIn :=
  let t := beAt l 12 2
  if t = 0x8100 then { dst := beAt l 0 6, src := beAt l 6 6, vlan := some (beAt l 14 2 % 4096), type := beAt l 16 2, data := l.drop 18 }
  else { dst := beAt l 0 6, src := beAt l 6 6, vlan := none, type := t, data := l.drop 14 }

/-- R316: a received IP packet: its protocol, addresses and payload, and whether step 4 passes. -/
structure IpIn where
  ok : Bool
  src : Nat
  dst : Nat
  proto : Nat
  data : List Byte

/-- R316 step 4: the payload of an IPv6 packet past its extension headers, with its protocol; a fragment header fails. -/
def ipv6Payload : Nat → Nat → List Byte → Bool × Nat × List Byte
  | 0, p, l => (false, p, l)
  | n + 1, p, l =>
    if p = 44 then (false, p, l)
    else if p = 0 ∨ p = 43 ∨ p = 60 then ipv6Payload n (beAt l 0 1) (l.drop (8 * (beAt l 1 1 + 1)))
    else (true, p, l)

/-- R316 step 4: IP version, IPv4 header checksum and no fragment. -/
def ipParts (v6 : Bool) (l : List Byte) : IpIn :=
  if v6 then
    let (ok, p, data) := ipv6Payload 8 (beAt l 6 1) ((l.drop 40).take (beAt l 4 2))
    { ok := ok && bitsAt l 0 4 == 6, src := beAt l 8 16, dst := beAt l 24 16, proto := p, data := data }
  else
    let n := 4 * bitsAt l 4 4
    { ok := bitsAt l 0 4 == 4 && decide (20 ≤ n) && inetSum (l.take n) == 0 && bitsAt l 50 14 == 0,
      src := beAt l 12 4, dst := beAt l 16 4, proto := beAt l 9 1, data := (l.take (beAt l 2 2)).drop n }

/-- R316 step 5: the UDP checksum is correct if it is not 0; 0 over IPv6 fails. -/
def udpOk (v6 : Bool) (p : IpIn) : Bool :=
  let n := beAt p.data 4 2
  if beAt p.data 6 2 = 0 then !v6
  else decide (8 ≤ n) && inetSum (pseudoHeader v6 p.src p.dst 17 n ++ p.data.take n) == 0

/-! ### RTP (R97, R112, R302, R325) -/

/-- R325: an RTP header: V 2, P 0, X 0, CC 0. -/
def rtpHeader (marker : Bool) (pt seq stamp ssrc : Nat) : List Byte :=
  packBits 0 [(2, 2), (0, 6), (b2n marker, 1), (pt, 7), (seq, 16), (stamp, 32), (ssrc, 32)]

/-- Bytes of the header of a received RTP packet: its contributing sources and its extension included. -/
def rtpHeadLen (l : List Byte) : Nat :=
  let n := 12 + 4 * bitsAt l 4 4
  if bitsAt l 3 1 = 1 then n + 4 + 4 * beAt l (n + 2) 2 else n

/-- The payload of a received RTP packet, without its padding. -/
def rtpPayload (l : List Byte) : List Byte :=
  let d := l.drop (rtpHeadLen l)
  if bitsAt l 2 1 = 1 then d.take (d.length - ((d.getLast?).getD 0).toNat) else d

/-- R97: the sample row data of an ST 2110-20 payload: up to three headers of (length, line, offset), then their bytes. -/
def rowSegs (l : List Byte) : List LineSeg :=
  let head (i : Nat) : Nat × Nat × Nat := (beAt l (2 + 6 * i) 2, beAt l (4 + 6 * i) 2 % 32768, beAt l (6 + 6 * i) 2 % 32768)
  let more (i : Nat) : Bool := decide (32768 ≤ beAt l (6 + 6 * i) 2)
  let n := if more 0 then (if more 1 then 3 else 2) else 1
  ((List.range n).foldl (fun (a : Nat × List LineSeg) i =>
    let (len, line, off) := head i
    (a.1 + len, a.2 ++ [{ line := line, off := off, data := (l.drop a.1).take len }])) (2 + 6 * n, [])).2

/-- R112: the ST 291 packets of an RFC 8331 payload, `n` of them from bit `at_` on. -/
def ancParts (l : List Byte) : Nat → Nat → List AncPacket
  | 0, _ => []
  | n + 1, at_ =>
    let w (i : Nat) : Nat := bitsAt l (at_ + 32 + 10 * i) 10
    let dc := w 2 % 256
    let used := 32 + 10 * (4 + dc)
    { line := bitsAt l (at_ + 1) 11, hoff := bitsAt l (at_ + 12) 12, did := w 0, sdid := w 1,
      words := (List.range dc).map (fun i => w (3 + i)), checksum := w (3 + dc) } ::
        ancParts l n (at_ + ceilDiv used 32 * 32)

/-- R302, R304: the frames of samples of an audio payload: of AES3 subframes, the 24 bits of audio. -/
def audioFrames (bytes : Nat) (aes : Bool) (chans : Nat) (l : List Byte) : List (List Nat) :=
  let one := if aes then 4 else bytes
  (List.range (l.length / max 1 (one * chans))).map (fun i => (List.range chans).map (fun s =>
    let v := beAt l ((i * chans + s) * one) one
    if aes then v % 2 ^ 24 else v))

/-! ### PTP (R338, R339) -/

/-- A signed big-endian field. -/
def sbeAt (l : List Byte) (off n : Nat) : Int := ofField (8 * n) (beAt l off n)

/-- A PTP timestamp in 2⁻¹⁶ ns: 48 bits of seconds and 32 of nanoseconds. -/
def ptpTime (l : List Byte) (off : Nat) : Int := ((beAt l off 6 * 1000000000 + beAt l (off + 6) 4) * 65536 : Nat)

/-- R339: a PTP message. The dataset of an Announce is in the order of comparison: priority1, class, accuracy, variance, priority2,
identity, steps removed, and the sender. -/
def ptpParts (l : List Byte) : PtpMsg :=
  { type := bitsAt l 4 4, domain := beAt l 4 1, seq := beAt l 30 2, corr := sbeAt l 8 8, twoStep := bitsAt l 54 1 == 1,
    sender := beAt l 20 10, logInt := sbeAt l 33 1, time := ptpTime l 34,
    dataset := if bitsAt l 4 4 = 0xB then
        [beAt l 47 1, beAt l 48 1, beAt l 49 1, beAt l 50 2, beAt l 52 1, beAt l 53 8, beAt l 61 2, beAt l 20 10] else [],
    requester := beAt l 44 10 }

/-- R338: a Delay_Req of 44 bytes of a port identity: version 2, no correction, an origin timestamp of 0. -/
def delayReq (domain ident seq : Nat) : List Byte :=
  [0x01#8, 0x02#8] ++ beBytes 2 44 ++ beBytes 1 domain ++ List.replicate 15 0#8 ++ beBytes 10 ident ++ beBytes 2 seq ++
    [0x01#8, 0x7F#8] ++ List.replicate 10 0#8

/-- R347: a PTP message with a time in 2⁻¹⁶ ns added to its correctionField. -/
def addCorrection (l : List Byte) (t : Int) : List Byte := l.take 8 ++ beBytes 8 (toField 64 (sbeAt l 8 8 + t)) ++ l.drop 16

/-! ### Group membership (R317) -/

/-- R317: a group record of IGMPv3 or MLDv2: its type, its group, and a source that it names. -/
def groupRecord (v6 : Bool) (type dst : Nat) (src : Option Nat) : List Byte :=
  let n := if v6 then 16 else 4
  [BitVec.ofNat 8 type, 0#8] ++ beBytes 2 (b2n src.isSome) ++ beBytes n dst ++ (match src with | some a => beBytes n a | none => [])

/-- R317: the record type of a report: in answer to a query, a present mode (1 INCLUDE, 2 EXCLUDE); on a join or a leave, a change of
sources (5, 6) or of filter mode (4, 3). -/
def recordType (answer leave : Bool) (src : Option Nat) : Nat :=
  match answer, leave, src with
  | true, _, some _ => 1
  | true, _, none => 2
  | false, false, some _ => 5
  | false, false, none => 4
  | false, true, some _ => 6
  | false, true, none => 3

/-- R317, R319: the IP packet of an IGMPv3 or MLDv2 report, which goes to 224.0.0.22 or FF02::16. -/
def reportPacket (v6 : Bool) (h : NetHead) (record : List Byte) : List Byte :=
  if v6 then
    let h := { h with dst := 0xFF020000000000000000000000000016 }
    let m := icmpv6 h ([143#8, 0#8, 0#8, 0#8, 0#8, 0#8, 0#8, 1#8] ++ record)
    -- RFC 3810: a Hop-by-Hop header with the Router Alert option
    ipPacket true h 0 ([58#8, 0#8, 5#8, 2#8, 0#8, 0#8, 1#8, 0#8] ++ m)
  else
    let m (sum : Nat) : List Byte := [0x22#8, 0#8] ++ beBytes 2 sum ++ [0#8, 0#8, 0#8, 1#8] ++ record
    ipPacket false { h with dst := 0xE0000016 } 2 (m (inetSum (m 0)))

/-- R317: the IP packet of a report, or a leave, in host compatibility mode: IGMPv1, IGMPv2 or MLDv1, for the whole group. -/
def oldReport (v6 : Bool) (version : Nat) (h : NetHead) (dst : Nat) (leave : Bool) : List Byte :=
  if v6 then
    let h := { h with dst := if leave then 0xFF020000000000000000000000000002 else dst }
    let m := icmpv6 h ([if leave then 132#8 else 131#8, 0#8, 0#8, 0#8, 0#8, 0#8, 0#8, 0#8] ++ beBytes 16 dst)
    ipPacket true h 0 ([58#8, 0#8, 5#8, 2#8, 0#8, 0#8, 1#8, 0#8] ++ m)
  else
    let type := if leave then 0x17 else if version = 1 then 0x12 else 0x16
    let m (sum : Nat) : List Byte := [BitVec.ofNat 8 type, 0#8] ++ beBytes 2 sum ++ beBytes 4 dst
    ipPacket false { h with dst := if leave then 0xE0000002 else dst } 2 (m (inetSum (m 0)))

/-- R317: what a received IGMP or MLD message asks for: the version of its querier (1, 2 or 3 of IGMP; 1 or 2 of MLD) and its group, 0
being every group; none where it is no query. -/
def groupQuery (v6 : Bool) (l : List Byte) : Option (Nat × Nat) :=
  if v6 then (if beAt l 0 1 = 130 then some (if l.length < 28 then 1 else 2, beAt l 8 16) else none)
  else if beAt l 0 1 = 0x11 then some (if 12 ≤ l.length then 3 else if beAt l 1 1 = 0 then 1 else 2, beAt l 4 4)
  else none

/-! ### ARP and NDP (R318) -/

/-- R318: an ARP request of a host (MAC, IPv4 address) for an address. -/
def arpRequest (mac src dst : Nat) : List Byte :=
  beBytes 2 1 ++ beBytes 2 0x0800 ++ [6#8, 4#8] ++ beBytes 2 1 ++ beBytes 6 mac ++ beBytes 4 src ++ beBytes 6 0 ++ beBytes 4 dst

/-- R318, R319: an NDP neighbour solicitation of a host (MAC and head) for an address, to its solicited-node group. -/
def ndpSolicit (mac : Nat) (h : NetHead) (dst : Nat) : List Byte :=
  let h := { h with dst := 0xFF0200000000000000000001FF000000 + dst % 2 ^ 24 }
  ipPacket true h 58 (icmpv6 h ([135#8, 0#8, 0#8, 0#8, 0#8, 0#8, 0#8, 0#8] ++ beBytes 16 dst ++ [1#8, 1#8] ++ beBytes 6 mac))

/-- R318: what a received ARP reply says: the MAC address of an IPv4 address. -/
def arpAnswer (l : List Byte) : Option (Nat × Nat) := if beAt l 6 2 = 2 then some (beAt l 14 4, beAt l 8 6) else none

/-- R318: what a received NDP neighbour advertisement says: the MAC address, a target link-layer option, of an IPv6 address. -/
def ndpAnswer (l : List Byte) : Option (Nat × Nat) :=
  if beAt l 0 1 = 136 ∧ beAt l 24 1 = 2 then some (beAt l 8 16, beAt l 26 6) else none

end Sys2Proof.Machine
end

