-- ==== Sys2Proof/Machine/Packets.lean ====
section
/-! DEFINITION. The bytes of packets: RTP stamps, fragmentation of NAL units, PES packets, tables and TS packets, audio and
ancillary payloads, splice sections (Ethernet, Packetising and Network Time, R325–R337). -/

namespace Sys2Proof.Machine

/-- One bit of CRC-32 as MPEG-2 sections use it (polynomial 0x04C1_1DB7, most significant bit first). -/
def crcMpegBit (c : BitVec 32) : BitVec 32 := if c.getLsbD 31 then (c <<< 1) ^^^ 0x04C11DB7#32 else c <<< 1

/-- CRC_32 of a section (R335): initial value 0xFFFF_FFFF, no final exclusive-or. -/
def crcMpeg (l : List Byte) : Word :=
  l.foldl (fun c b => (List.range 8).foldl (fun c _ => crcMpegBit c) (c ^^^ ((b.setWidth 32 : Word) <<< (24 : Nat)))) 0xFFFFFFFF#32

/-- R326: the RTP timestamp of the picture for Turn n: ⌊Hₙ × 90,000⌋ mod 2³². -/
def rtpStamp (rate : Nat × Nat) (n : Nat) : Nat := n * 90000 * rate.2 / rate.1 % 2 ^ 32

/-- A time in ns, as a fraction, in 90 kHz units rounded to the nearest, mod 2³³ (R330). -/
def ticks90 (t : Nat × Nat) : Nat := (roundDiv (t.1 * 9 : Nat) (100000 * max 1 t.2)).toNat % 2 ^ 33

/-! ### NAL units (R324, R325) -/

/-- R325: the payload header and FU header of a fragment of a NAL unit (RFC 7798, RFC 9328). -/
def fuHeader (vvc : Bool) (nal : List Byte) (s e last : Bool) : List Byte :=
  let b0 := (nal.getD 0 0).toNat
  let b1 := (nal.getD 1 0).toNat
  if vvc then
    [BitVec.ofNat 8 b0, BitVec.ofNat 8 (29 * 8 + b1 % 8),
     BitVec.ofNat 8 (b2n s * 128 + b2n e * 64 + b2n (e && last) * 32 + b1 / 8)]
  else
    [BitVec.ofNat 8 (b0 / 128 * 128 + 49 * 2 + b0 % 2), BitVec.ofNat 8 b1,
     BitVec.ofNat 8 (b2n s * 128 + b2n e * 64 + b0 / 2 % 64)]

/-- R325: the packet payload of a NAL unit from byte `off` of what follows its header, and the offset after it; none when it
ends the NAL unit. -/
def nalPacket (vvc : Bool) (pmax : Nat) (nal : List Byte) (off : Nat) (last : Bool) : List Byte × Option Nat :=
  if nal.length ≤ pmax then (nal, none)
  else
    let body := nal.drop 2
    let data := (body.drop off).take (pmax - 3)
    let e := decide (body.length ≤ off + (pmax - 3))
    (fuHeader vvc nal (off == 0) e last ++ data, if e then none else some (off + (pmax - 3)))

/-! ### PES and TS packets (R327–R330) -/

/-- A 33-bit time stamp of a PES header with its 4-bit prefix. -/
def pesStamp (pre t : Nat) : List Byte :=
  packBits 0 [(pre, 4), (t / 2 ^ 30, 3), (1, 1), (t / 2 ^ 15, 15), (1, 1), (t, 15), (1, 1)]

/-- R330: the PES header of an access unit: length 0, data_alignment_indicator 1, PTS and DTS. -/
def videoPes (pts dts : Nat) : List Byte :=
  [0x00#8, 0x00#8, 0x01#8, 0xE0#8, 0x00#8, 0x00#8, 0x84#8, 0xC0#8, 0x0A#8] ++ pesStamp 3 pts ++ pesStamp 1 dts

/-- R328: a PES packet of stream_id 0xBD. -/
def privatePes (pts : Nat) (data : List Byte) : List Byte :=
  [0x00#8, 0x00#8, 0x01#8, 0xBD#8] ++ beBytes 2 (data.length + 8) ++ [0x84#8, 0x80#8, 0x05#8] ++ pesStamp 2 pts ++ data

/-- A section with its CRC_32 after a pointer_field of 0. -/
def section_ (body : List Byte) : List Byte := [0x00#8] ++ body ++ beBytes 4 (crcMpeg body).toNat

/-- R328: the PAT of a TS with one program. -/
def patSection (d : TsDef) : List Byte :=
  section_ (packBits 0 [(0, 8), (0xB, 4), (13, 12), (d.tsid, 16), (3, 2), (0, 5), (1, 1), (0, 8), (0, 8), (d.program, 16),
    (7, 3), (d.pmtPid, 13)])

/-- A registration descriptor of four characters. -/
def regDesc (n : Nat) : List Byte := [0x05#8, 0x04#8] ++ beBytes 4 n

/-- R328: the PMT: video, ST 302M audio, ST 2038 and SCTE 35, with 'CUEI' in the program loop. -/
def pmtSection (d : TsDef) : List Byte :=
  let es (ty pid : Nat) (desc : List Byte) : List Byte :=
    packBits 0 [(ty, 8), (7, 3), (pid, 13), (0xF, 4), (desc.length, 12)] ++ desc
  let prog := match d.sctePid with
    | some _ => regDesc 0x43554549
    | none => []
  let streams := es d.videoType d.videoPid [] ++ d.audioPids.flatMap (fun a => es 0x06 a.1 (regDesc 0x42535344)) ++
    (match d.vancPid with | some p => es 0x06 p (regDesc 0x56414E43) | none => []) ++
    (match d.sctePid with | some p => es 0x86 p [] | none => [])
  let body := prog ++ streams
  section_ (packBits 0 [(2, 8), (0xB, 4), (body.length + 13, 12), (d.program, 16), (3, 2), (0, 5), (1, 1), (0, 8), (0, 8),
    (7, 3), (d.videoPid, 13), (0xF, 4), (prog.length, 12)] ++ body)

/-- A TS packet of 188 bytes: PID, payload unit start, continuity counter, adaptation flags and fields, payload. A payload
shorter than the room left is preceded by stuffing in the adaptation field. -/
def tsPacket (pid : Nat) (start : Bool) (cc : Nat) (disc : Bool) (pcr : Option Nat) (payload : List Byte) : List Byte :=
  let fields := match pcr with
    | some p => packBits 0 [(p / 300, 33), (0x3F, 6), (p % 300, 9)]
    | none => []
  let flags : List Byte := [BitVec.ofNat 8 (b2n disc * 128 + b2n pcr.isSome * 16)]
  let plain := !disc && pcr.isNone
  let room := 184 - payload.length
  let adapt : List Byte :=
    if plain && room == 0 then []
    else if plain && room == 1 then [0x00#8]
    else
      let a := flags ++ fields
      beBytes 1 (room - 1) ++ a ++ List.replicate (room - 1 - a.length) 0xFF#8
  let afc := 2 * b2n (!adapt.isEmpty) + b2n (!payload.isEmpty)
  packBits 0 [(0x47, 8), (0, 1), (b2n start, 1), (0, 1), (pid, 13), (0, 2), (afc, 2), (cc, 4)] ++ adapt ++ payload

/-- R329: a null packet. -/
def nullPacket : List Byte := packBits 0 [(0x47, 8), (0x1FFF, 16), (1, 4), (0, 4)] ++ List.replicate 184 0xFF#8

/-! ### Audio (R303–R305) -/

/-- The samples of channel `slot` of a block of port n, w bits each; none when its mark fails. -/
def blockSamples (w : Nat) (b : ABlock) (slot : Nat) : List Nat :=
  let chans := leAt b.header 10 1
  let pack := leAt b.header 11 1
  if chans ≤ slot then [] else
    (List.range (b.data.length / max 1 (chans * pack))).map (fun i =>
      leAt b.data ((i * chans + slot) * pack) pack / 2 ^ (8 * pack - w))

/-- R303: the payload of an ST 2110-30 packet: frames of interleaved samples, most significant byte first. -/
def pcmPayload (bytes : Nat) (chans : List (List Nat)) : List Byte :=
  let n := ((chans.map List.length).max?).getD 0
  (List.range n).flatMap (fun i => chans.flatMap (fun s => beBytes bytes (s.getD i 0)))

/-- R304: an AES3 subframe of ST 2110-31: V, U = 0, a channel status bit and P over a 24-bit sample. -/
def aesSubframe (blockStart first : Bool) (v c sample : Nat) : List Byte :=
  let low := v * 2 ^ 24 + c * 2 ^ 26 + sample
  let ones := ((List.range 27).map (fun i => bits low i i)).sum
  beBytes 4 (b2n blockStart * 2 ^ 29 + b2n first * 2 ^ 28 + (ones % 2) * 2 ^ 27 + low)

/-- R304: a sample of ST 302M with its V, U, C and F bits, least significant bit first. -/
def s302Bits (w sample v f : Nat) : List (Nat × Nat) :=
  (List.range w).map (fun i => (bits sample i i, 1)) ++ [(v, 1), (0, 1), (0, 1), (f, 1)]

/-- R303, R304: the payload of an ST 302M PES: header, then the channels in pairs. `chans` is padded to an even number. -/
def s302Payload (w : Nat) (sub : Bool) (first : Nat) (chans : List (List Nat)) : List Byte :=
  let chans := if chans.length % 2 = 1 then chans ++ [List.replicate ((chans.headD []).length) 0] else chans
  let n := ((chans.map List.length).max?).getD 0
  let body := (List.range n).flatMap (fun i => (List.range (chans.length / 2)).flatMap (fun p =>
    packBits 0 (s302Bits w ((chans.getD (2 * p) []).getD i 0) (b2n sub) (b2n ((first + i) % 192 == 0)) ++
      s302Bits w ((chans.getD (2 * p + 1) []).getD i 0) (b2n sub) 0)))
  packBits 0 [(body.length, 16), (chans.length / 2 - 1, 2), (0, 8), ((w - 16) / 4, 2), (0, 4)] ++ body

/-! ### Ancillary data and splices (R335, R337) -/

/-- The 10-bit words of an ST 291 packet as it is carried: DID, SDID, data count with its parity, user words, checksum. -/
def ancFields (a : AncPacket) : List (Nat × Nat) :=
  ([a.did, a.sdid, parity10 a.words.length] ++ a.words ++ [a.checksum]).map (fun w => (w, 10))

/-- R337: the ST 2038 PES data of ancillary packets. -/
def st2038Payload (l : List AncPacket) : List Byte :=
  l.flatMap (fun a => packBits 1 ([(0, 6), (0, 1), (a.line, 11), (a.hoff, 12)] ++ ancFields a))

/-- R337: the RFC 8331 payload of ancillary packets, each aligned to 32 bits. -/
def st291Payload (seqHi : Nat) (l : List AncPacket) : List Byte :=
  let one (a : AncPacket) : List Byte :=
    let b := packBits 0 ([(0, 1), (a.line, 11), (a.hoff, 12), (0, 8)] ++ ancFields a)
    b ++ List.replicate ((4 - b.length % 4) % 4) 0x00#8
  let body := l.flatMap one
  packBits 0 [(seqHi, 16), (body.length, 16), (l.length, 8), (0, 2), (0, 22)] ++ body

/-- R335: the splice_info_section of a splice with a pts_time. -/
def spliceSection (s : Splice) (pts : Nat) : List Byte :=
  let cmd := s.pre ++ packBits 0 [(1, 1), (0x3F, 6), (pts, 33)] ++ s.post
  section_ (packBits 0 [(0xFC, 8), (0, 1), (0, 1), (3, 2), (cmd.length + s.descs.length + 17, 12), (0, 8), (0, 1), (0, 6),
    (0, 33), (0, 8), (0xFFF, 12), (cmd.length, 12), (s.ctype, 8)] ++ cmd ++ beBytes 2 s.descs.length ++ s.descs)

end Sys2Proof.Machine
end

