-- ==== Sys2Proof/Machine/Egress.lean ====
section
/-! DEFINITION. Egress: send flows, their packets and send times, mark checks, mutes, lateness and the HRD check, splices
(Ethernet, Packetising and Network Time, R314, R318–R337; R604). -/

namespace Sys2Proof.Machine

/-- The state of a send flow. -/
def Chip.eg (c : Chip) (f : Nat) : EgFlow := tget {} c.net.eg f

/-- The state of a send flow replaced. -/
def Chip.setEg (c : Chip) (f : Nat) (v : EgFlow) : Chip := { c with net := { c.net with eg := tset {} c.net.eg f v } }

/-- The settings of a send flow. -/
def Chip.egDef (c : Chip) (f : Nat) : EgDef := tget {} c.tables.egs f

/-- R333, R358: whether f is leg A of an ST 2022-7 pair. -/
def Chip.egDual (c : Chip) (f : Nat) : Bool := c.on R.NET_EGCFG_DUAL f && f % 2 == 0

/-- R333: the context whose state serves flow f: leg A's for a leg B. -/
def Chip.egLead (c : Chip) (f : Nat) : Nat :=
  if f % 2 = 1 ∧ c.egDual (f - 1) ∧ c.on R.NET_EGCFG_EN (f - 1) then f - 1 else f

/-- R358: whether flow f is sent: reserved FORM codes keep it disabled. -/
def Chip.egOn (c : Chip) (f : Nat) : Bool := c.on R.NET_EGCFG_EN f && decide (c.get R.NET_EGCFG_FORM f < 6)

/-- The contexts of the legs of flow f. -/
def Chip.egLegs (c : Chip) (f : Nat) : List Nat := if c.egDual f then [f, f + 1] else [f]

/-- R572: whether an SRTP flow has its key. -/
def Chip.keyLoaded (c : Chip) (slot : Nat) : Bool := c.on R.SEC_KSSTAT_LOADED slot && c.get R.SEC_KSSTAT_TYPE slot == 1

/-- R51, R334, R553, R572, R609, R619: whether flow f is muted: by command, by shedding, on a fenced device, or on SRTP with no key or with one
that does not match the partner's. -/
def Chip.egMuted (c : Chip) (f : Nat) : Bool :=
  (c.eg f).cmdMuted || c.get R.PLY_PLYSTAT_ROLE == 3 ||
    (match (c.egDef f).src with | .chan ch => c.chanShed ch | _ => false) ||
    (c.on R.NET_EGCFG_SRTP f && (!c.keyLoaded (c.egDef f).keySlot || c.ply.keyMute.contains (c.egDef f).keySlot))

/-- The settings of a port (R315). -/
def Chip.netDef (c : Chip) (n : Nat) : NetPortDef := tget {} c.tables.netPorts n

/-- R318: the next hop of leg l is unresolved. -/
def Chip.egUnres (c : Chip) (l : Nat) : Bool := (c.egDef l).resolve && (c.eg l).hopMac.isNone

/-- R359: MUTED, UNRES and LINKDN of every leg of flow f. -/
def Chip.egStatus (c : Chip) (f : Nat) : Chip :=
  c.each (c.egLegs f) (fun c l =>
    let c := c.setB R.NET_EGSTAT_MUTED l (c.egMuted f)
    let c := c.setB R.NET_EGSTAT_UNRES l (c.egUnres l)
    c.setB R.NET_EGSTAT_LINKDN l (!c.on R.NET_LANESTAT_UP (c.get R.NET_EGCFG_PORT l)))

/-- The send flows by leg A context that satisfy a condition. -/
def Chip.egFlows (c : Chip) (q : Nat → Bool) : List Nat :=
  (List.range 1024).filter (fun f => c.egOn f && c.egLead f == f && q f)

/-- R604, R610, R612: whether the device sends a leg of flow f for a packet with a nominal send time in ns. -/
def Chip.egSends (c : Chip) (f : Nat) (legB : Bool) (due : Nat) : Bool :=
  let t := tget {} c.ply.tx (c.get R.NET_EGCFG_PLANE f)
  let mode := t.next.foldl (fun m e => if e.2 ≤ due then e.1 else m) t.mode
  let own := c.on R.PLY_PLYCFG_PRIMARY != legB
  match mode with
  | 1 => true
  | 2 => !c.egDual f || own
  | 3 => c.egDual f && own
  | _ => false

/-! ### Content of a packet (R324–R331, R337) -/

/-- What a packet of a flow holds: payload, RTP timestamp, M, nominal send time in ns (rounded up). -/
structure Draft where
  payload : List Byte
  stamp : Nat
  marker : Bool
  due : Nat

/-- R324, R540: a unit of flow f fails its mark check. -/
def Chip.egMarkFault (c : Chip) (f : Nat) : Chip :=
  let c := c.each (c.egLegs f) (fun c l => (c.set R.NET_EGSTAT_MARKFLT l 1).bump R.NET_EGDROP_MARKF l)
  c.fault 1 1 20 blkNet 0x01 f (some (c.get R.NET_EGCFG_PLANE f))

/-- Hₙ in ns as a fraction. -/
def housePulse (rate : Nat × Nat) (n : Nat) : Nat × Nat := (n * 1000000000 * rate.2, max 1 rate.1)

/-- The full Turn count nearest the plane's that has the given low 32 bits. -/
def Chip.fullTurn (c : Chip) (p low : Nat) : Nat :=
  let t := c.turn p
  ((t : Int) + sdiff 32 low t).toNat

/-- R325: whether a NAL unit is the last of its access unit. -/
def Chip.lastOfAu (c : Chip) (u : NalUnit) : Bool := u.lastOfDu && u.row + 1 == c.chanRows u.chan

/-- R320, R173: the drain of flow f comes to DU r of Turn n of channel ch: not before e(r). Units of 2⁻¹⁶ ns. -/
def Chip.drainTo (c : Chip) (ch n r drain : Nat) : Nat :=
  let (h, hd) := housePulse (c.rateOf (c.chanDef ch).plane) n
  let (e, ed) := c.readyAt ch r
  max drain (h * 65536 / hd + e * 65536 / ed)

/-- R173: the drain after a number of bytes at the channel's drain rate. -/
def Chip.drainPast (c : Chip) (ch bytes drain : Nat) : Nat := drain + 8 * bytes * 1000000 * 65536 / max 1 (c.drainKb ch)

/-- R152, R324: the bytes of a NAL unit as the egress sends them, and whether its mark holds; only a slice has one. -/
def Chip.checkNal (c : Chip) (u : NalUnit) : List Byte × Bool :=
  if u.slice = false ∨ nalMark u.chan u.row u.turn u.share u.bytes = u.mark then (u.bytes, true)
  else (fillerNal (c.chanVvc u.chan) u.bytes.length, false)

/-- R175: the HRD check at the end of a DU, whose last bit is nominally sent at `drain`. -/
def Chip.hrdCheck (c : Chip) (u : NalUnit) (n drain : Nat) : Chip :=
  let (h, hd) := housePulse (c.rateOf (c.chanDef u.chan).plane) n
  c.when (u.lastOfDu && !c.hrdOk u.chan u.row (drain / 65536 - h / hd)) (·.hrdFault u.chan)

/-- R173: when the next DU of a channel is ready, from a position of its drain on: DUs follow one another at the row period. -/
def Chip.nextReady (c : Chip) (ch drain : Nat) : Nat :=
  let (pa, pb) := c.rowPeriod ch
  let first := c.drainTo ch (c.turn (c.chanDef ch).plane - 2) 0 0
  first + ceilDiv ((drain - first) * pb) (pa * 65536) * (pa * 65536) / pb

/-- R173: the bytes of filler that a CBR drain sends between a position and the next DU: none from a buffer that holds bits, before the
first DU has been sent, or where less than the shortest NAL unit fits (log entry 134). -/
def Chip.fillBytes (c : Chip) (ch pmax drain ready : Nat) : Nat :=
  let n := (ready - drain) * c.drainKb ch / (8 * 1000000 * 65536)
  if c.rateMode ch = 0 ∧ drain ≠ 0 ∧ 3 ≤ n then min pmax n else 0

/-- R173, R325, R326: a filler data NAL unit of a native flow whose output buffer is empty. -/
def Chip.fillPacket (c : Chip) (f ch n : Nat) : Chip × Draft :=
  let x := c.eg f
  (c.setEg f { x with drain := c.drainPast ch n x.drain },
   ⟨fillerNal (c.chanVvc ch) n, rtpStamp (c.rateOf (c.chanDef ch).plane) x.turn, false, ceilDiv x.drain 65536⟩)

/-- R324: what follows of a NAL unit whose mark fails. -/
def Chip.nalBad (c : Chip) (f ch : Nat) : Chip := (c.egMarkFault f).orderRefresh ch

/-- A channel's bitstream buffer in DRAM replaced. -/
def Chip.setNals (c : Chip) (ch : Nat) (l : List NalUnit) : Chip := { c with lanes := { c.lanes with nals := tset [] c.lanes.nals ch l } }

/-- R320, R324–R326, R175: the next packet of the first NAL unit in a native flow's buffer. -/
def Chip.nalOut (c : Chip) (f ch : Nat) (u : NalUnit) (rest : List NalUnit) : Chip × Draft :=
  let x := c.eg f
  let n := c.fullTurn (c.chanDef ch).plane u.turn
  let fresh := x.nal.isNone
  let (bytes, ok) := match x.nal with
    | some b => (b, true)
    | none => c.checkNal u
  let drain := if fresh then c.drainTo ch n u.row x.drain else x.drain
  let last := c.lastOfAu u
  let (pay, off) := nalPacket (c.chanVvc ch) (c.egDef f).pmax bytes x.off last
  let after := c.drainPast ch pay.length drain
  let start := if fresh ∧ x.turn ≠ n then ceilDiv drain 65536 else x.start
  let c := c.when (fresh && !ok) (·.nalBad f ch)
  let c := c.setEg f { x with nal := if off.isNone then none else some bytes, off := off.getD 0, drain := after, turn := n, start := start }
  let c := c.when off.isNone (fun c => (c.setNals ch rest).hrdCheck u n after)
  let stamp := rtpStamp (c.rateOf (c.chanDef ch).plane) n
  (c.decTap f n stamp (off.isNone && last) pay, ⟨pay, stamp, off.isNone && last, ceilDiv drain 65536⟩)

/-- R320, R324–R326, R173, R175: the next packet of a native RTP video flow: of the first NAL unit queued, or filler of a CBR flow while
no bits are ready; none where there is neither. -/
def Chip.nativePacket (c : Chip) (f ch : Nat) : Chip × Option Draft :=
  let x := c.eg f
  let pmax := (c.egDef f).pmax
  match tget [] c.lanes.nals ch with
  | [] =>
    let n := c.fillBytes ch pmax x.drain (c.nextReady ch x.drain)
    if n = 0 then (c, none) else let (c, d) := c.fillPacket f ch n; (c, some d)
  | u :: rest =>
    let n := if x.nal.isSome then 0
      else c.fillBytes ch pmax x.drain (c.drainTo ch (c.fullTurn (c.chanDef ch).plane u.turn) u.row 0)
    if n = 0 then let (c, d) := c.nalOut f ch u rest; (c, some d) else let (c, d) := c.fillPacket f ch n; (c, some d)

/-- The queue of a PID of a TS flow. -/
def EgFlow.pid (x : EgFlow) (pid : Nat) : TsQueue := tget {} x.pids pid

/-- Bytes appended to a PID's queue: a new unit, or the end of its last unit. -/
def EgFlow.push (x : EgFlow) (pid : Nat) (newUnit : Bool) (b : List Byte) : EgFlow :=
  let q := x.pid pid
  let units := if newUnit then q.units ++ [b] else q.units.dropLast ++ [(q.units.getLast?).getD [] ++ b]
  { x with pids := tset {} x.pids pid { q with units := units } }

/-- R626: flow f is held back, in warm standby, for the picture of Turn n. -/
def Chip.egHeld (c : Chip) (f n : Nat) : Bool := match (c.eg f).hold with
  | none => false
  | some 0 => true
  | some (m + 1) => decide (sdiff 40 n m < 0)

/-- R337: the ancillary packets of a Turn that pass a flow's filter. -/
def Chip.ancOut (c : Chip) (f src n : Nat) : List AncPacket :=
  ((c.flow src).ancOf n).filter (fun k => (c.egDef f).filter.contains (k.did % 256, k.sdid % 256))

/-- R335: PTS of the picture for Turn n of channel ch. -/
def Chip.picturePts (c : Chip) (ch n : Nat) : Nat :=
  let (h, hd) := housePulse (c.rateOf (c.chanDef ch).plane) n
  let (ua, ub) := c.removalAt ch 0
  let (pa, pb) := c.framePeriod ch
  ticks90 ((h * ub + ua * hd) * pb + pa * (hd * ub), hd * ub * pb)

/-- R330: DTS of the picture for Turn n of channel ch: u(0). -/
def Chip.pictureDts (c : Chip) (ch n : Nat) : Nat :=
  let (h, hd) := housePulse (c.rateOf (c.chanDef ch).plane) n
  let (ua, ub) := c.removalAt ch 0
  ticks90 (h * ub + ua * hd, hd * ub)

/-- R337: the ancillary packets of the picture of Turn n join the ST 2038 queue of a TS flow, in one PES with its PTS. -/
def Chip.vancPush (c : Chip) (f n pts : Nat) (x : EgFlow) : EgFlow :=
  let d := (c.egDef f).ts
  match d.vancPid with
  | some pid =>
    let l := c.ancOut f d.vancSrc n
    if l.isEmpty then x else x.push pid true (privatePes pts (st2038Payload l))
  | none => x

/-- R171, R324, R330, R337, R626: a NAL unit of the picture of Turn n joins the video PES of its access unit; filler, one whose mark fails and
one of a flow that is held back are left out, so that null packets stand in their place. The first one of a picture brings its
ancillary packets, unless their stored ECC fails. -/
def Chip.pushNal (c : Chip) (f ch n : Nat) (u : NalUnit) (ok ecc : Bool) : EgFlow :=
  let x := c.eg f
  let newAu := x.auTurn != some n
  let pts := c.picturePts ch n
  let x := if newAu && ecc then c.vancPush f n pts x else x
  let head := if newAu then videoPes pts (c.pictureDts ch n) else []
  if u.filler then x
  else { x.push (c.egDef f).ts.videoPid newAu (if c.egHeld f n then [] else head ++ (if ok then u.bytes else [])) with
         auTurn := if c.lastOfAu u then none else some n }

/-- R329, R330: NAL units whose last byte the drain has delivered by `now` join the video PES of their access unit. -/
def Chip.gatherNals (c : Chip) (f ch now : Nat) (ecc : Bool) : List NalUnit → Chip
  | [] => c
  | u :: rest =>
    let n := c.fullTurn (c.chanDef ch).plane u.turn
    let drain := c.drainPast ch u.bytes.length (c.drainTo ch n u.row (c.eg f).drain)
    if now < ceilDiv drain 65536 then c
    else
      let (_, ok) := c.checkNal u
      let first := (c.eg f).auTurn != some n && !u.filler
      let c := (c.setEg f { c.pushNal f ch n u ok ecc with drain := drain }).setNals ch rest
      let c := (c.when (!ok) (·.nalBad f ch)).when (first && !ecc && (c.egDef f).ts.vancPid.isSome) (·.egMarkFault f)
      (c.hrdCheck u n drain).gatherNals f ch now ecc rest

/-- The block of index j of port n whose mark holds; none where it is not there. The Bool says that its mark fails. -/
def Chip.audioBlock (c : Chip) (n j : Nat) : Option ABlock × Bool :=
  match (c.port n).blocks.find? (fun b => b.index == j) with
  | none => (none, false)
  | some b =>
    if b.mark = blockMark (tget {} c.tables.ports n).flow b.index b.header b.data then (some b, false) else (none, true)

/-- R304, R305, R324: the samples of the channels of a flow in block j, each with whether its block is a substitute or is
sent as silence, and whether any mark fails. -/
def Chip.audioChans (c : Chip) (w j : Nat) (chans : List (Nat × Nat)) : List (List Nat × Bool) × Bool :=
  (chans.map (fun (n, s) =>
      let ws := c.sampleWidth n
      match (c.audioBlock n j).1 with
      | some b =>
        let raw := blockSamples ws b s
        (if w = 16 then raw.map (toL16 ws) else raw.map (fun v => v * 2 ^ (w - ws)), b.sub)
      | none => (List.replicate (c.get R.AUD_BLKCFG_BLKLEN n) 0, true)),
   chans.any (fun (n, _) => (c.audioBlock n j).2))

/-- R329, R303, R306: audio blocks due by `now` join their PES queues, at most `fuel` of them. -/
def Chip.gatherAudio (c : Chip) (f now : Nat) : Nat → Chip
  | 0 => c
  | fuel + 1 =>
    let x := c.eg f
    let d := c.egDef f
    let n0 := ((d.chans.head?).map Prod.fst).getD 0
    if d.chans.isEmpty || d.ts.audioPids.isEmpty || decide (now < c.slotTime n0 x.j + d.delayNs) then c
    else
      let w := c.sampleWidth n0
      let starts := d.ts.audioPids
      let (all, bad) := c.audioChans w x.j d.chans
      let x' := (List.range starts.length).foldl (fun x i =>
        let (pid, a) := starts.getD i (0, 0)
        let b := ((starts[i + 1]?).map Prod.snd).getD all.length
        let part := (all.drop a).take (b - a)
        x.push pid true (privatePes (c.audioPts n0 x.j)
          (s302Payload w (part.any Prod.snd) (x.j * c.get R.AUD_BLKCFG_BLKLEN n0) (part.map Prod.fst)))) x
      let c := (c.setEg f { x' with j := x.j + 1 }).when bad (·.egMarkFault f)
      c.gatherAudio f now fuel

/-- R328–R330: one TS packet of PID `pid` from its queue, with a PCR where one is due. `isOpen` says that the last unit still
grows. -/
def EgFlow.take (x : EgFlow) (pid : Nat) (isOpen : Bool) (pcr : Option Nat) : EgFlow × List Byte :=
  let q := x.pid pid
  let unit := q.units.headD []
  let disc := !q.begun
  let room := if pcr.isSome then 176 else if disc then 182 else 184
  let data := (unit.drop q.sent).take room
  let start := q.sent == 0 && !unit.isEmpty
  let ended := decide (unit.length ≤ q.sent + room) && !(isOpen && q.units.length == 1)
  let q' := { q with units := if ended then q.units.drop 1 else q.units, sent := if ended then 0 else q.sent + data.length,
                     cc := if data.isEmpty then q.cc else (q.cc + 1) % 16, begun := true }
  ({ x with pids := tset {} x.pids pid q' }, tsPacket pid start q.cc disc pcr data)

/-- R329: whether a PID has a packet ready: a full payload, or the end of a unit that no longer grows. -/
def EgFlow.ready (x : EgFlow) (pid : Nat) (isOpen : Bool) : Bool :=
  let q := x.pid pid
  match q.units with
  | [] => false
  | u :: t => decide (184 ≤ u.length - q.sent) || !(isOpen && t.isEmpty)

/-- R327, R329: the TS packet of position `pos` of a flow. -/
def Chip.tsAt (c : Chip) (f pos due : Nat) (x : EgFlow) : EgFlow × List Byte :=
  let d := (c.egDef f).ts
  let q := pos % max 1 d.period
  let video := x.auTurn.isSome
  -- R329: the byte with the last bit of program_clock_reference_base is the eleventh of the packet
  let pcr := if q ∈ d.pcrAt then some (due * 27 / 1000 + 80 * 27000 / max 1 d.kb) else none
  if q ∈ d.patAt then (x.push 0 true (patSection d)).take 0 false none
  else if q ∈ d.pmtAt then (x.push d.pmtPid true (pmtSection d)).take d.pmtPid false none
  else if pcr.isSome then x.take d.videoPid video pcr
  else
    let order := (d.sctePid.toList) ++ d.audioPids.map Prod.fst ++ [d.videoPid] ++ d.vancPid.toList
    match order.find? (fun p => x.ready p (video && p == d.videoPid)) with
    | some p => x.take p (video && p == d.videoPid) none
    | none => (x, nullPacket)

/-- R335: splice sections of the channel whose send Turn has begun join the SCTE 35 queue of a TS flow. -/
def Chip.gatherSplices (c : Chip) (f ch now : Nat) : Chip :=
  match (c.egDef f).ts.sctePid with
  | none => c
  | some pid =>
    c.net.splices.zipIdx.foldl (fun c (s, i) =>
      if s.chan = ch ∧ s.lastNs = none ∧ later 40 s.sendTurn (c.turn (c.chanDef ch).plane) = false then
        let c := c.setEg f ((c.eg f).push pid true (spliceSection s (c.picturePts ch s.spliceTurn)))
        { c with net := { c.net with splices := listSet c.net.splices i { s with lastNs := some now } } }
      else c) c

/-- R327–R330: the next packet of a TS flow of a channel: 7 TS packets. -/
def Chip.tsFlowPacket (c : Chip) (f ch : Nat) (ecc : Bool) : Chip × Option Draft :=
  let d := (c.egDef f).ts
  let p := (c.chanDef ch).plane
  let x := c.eg f
  let t0 := match x.pos0 with
    | some t => t
    | none => pulseNs (c.rateOf p) (c.turn p)
  let at_ (i : Nat) : Nat := t0 + ceilDiv ((x.pos + i) * 1504 * 1000000) (max 1 d.kb)
  let due := at_ 0
  let c := c.setEg f { x with pos0 := some t0 }
  let c := c.gatherNals f ch due ecc (tget [] c.lanes.nals ch)
  let c := c.gatherAudio f due 16
  let c := c.gatherSplices f ch due
  let (x, pay) := (List.range 7).foldl (fun (a : EgFlow × List Byte) i =>
    let (y, b) := c.tsAt f (a.1.pos + i) (at_ i) a.1
    (y, a.2 ++ b)) (c.eg f, [])
  (c.setEg f { x with pos := x.pos + 7 }, some ⟨pay, due * 9 / 100000 % 2 ^ 32, false, due⟩)

/-- R331, R324, R274, R416: the next packet of an ST 2110-20 flow of output o. -/
def Chip.rasterPacket (c : Chip) (f o : Nat) (clean : Bool) : Chip × Option Draft :=
  let x := c.eg f
  let d := c.egDef f
  let p := c.get R.CMP_OUTCFG_PLANE o
  let rate := c.rateOf p
  let (w, h) := rasterSize (c.get R.CMP_OUTCFG_RASTER o)
  let per := max 1 d.linePkts
  let total := h * per
  let (hn, hd) := housePulse rate x.turn
  let due := ceilDiv (hn * 25 * total + (24 * 1000000000 * rate.2 * x.k)) (hd * 25 * total) + c.get R.CMP_OUTDELAY o * 320
  let line := x.k / per
  let part := x.k % per
  let pic := (tget [] c.cmp.outs o).find? (fun q => q.turn == some x.turn)
  let out := ((pic.map (fun q => tget {} q.lines line))).getD {}
  let dirty := !clean || c.linePoisoned f line
  let bad := dirty || out.bytes.isEmpty ||
    decide (out.mark ≠ lineMark (c.get R.CMP_OUTCFG_FLOW o) line (x.turn % 2 ^ 32) out.bytes)
  let len := w * 5 / 2
  let bytes := if bad then blackLine true (c.on R.CMP_OUTCFG_RANGE o) len else out.bytes
  let n := len / per
  let pay := packBits 0 [(x.seq / 65536, 16), (n, 16), (0, 1), (line, 15), (0, 1), (part * (w / per), 15)] ++
    (bytes.drop (part * n)).take n
  let c := c.setEg f { x with k := if x.k + 1 = total then 0 else x.k + 1, turn := if x.k + 1 = total then (x.turn + 1) % 2 ^ 40 else x.turn }
  let c := c.when (bad && part == 0) (·.egMarkFault f)
  let c := c.when (part + 1 == per) (·.lineSent f line dirty)
  (c, some ⟨pay, rtpStamp rate x.turn, x.k + 1 == total, due⟩)

/-- R303–R306, R320, R324: the next packet of an ST 2110-30 (or, with `aes`, -31) flow. -/
def Chip.pcmPacket (c : Chip) (f : Nat) (aes : Bool) : Chip × Option Draft :=
  let x := c.eg f
  let d := c.egDef f
  match d.chans.head? with
  | none => (c, none)
  | some (n0, _) =>
    let data := d.chans.any (fun (n, s) => c.dataSlot n s)
    let w := if d.l16 ∧ !data ∧ !aes then 16 else 24
    let (all, bad) := c.audioChans w x.j d.chans
    let len := c.get R.AUD_BLKCFG_BLKLEN n0
    let pay := if aes then
        let all := if all.length % 2 = 1 then all ++ [(List.replicate len 0, false)] else all
        (List.range len).flatMap (fun i => (List.range all.length).flatMap (fun s =>
          let (l, sub) := all.getD s ([], true)
          let fr := (x.j * len + i) % 192
          aesSubframe (fr == 0) (s % 2 == 0) (b2n sub) (b2n (bit (d.status.getD (fr / 8) 0).toNat (fr % 8))) (l.getD i 0)))
      else pcmPayload (w / 8) (all.map Prod.fst)
    let due := c.slotTime n0 x.j + d.delayNs
    let c := (c.setEg f { x with j := x.j + 1 }).when bad (·.egMarkFault f)
    (c, some ⟨pay, c.audioTimestamp n0 x.j, false, due⟩)

/-- R320, R324, R326, R337: the packet of an ST 2110-40 flow for the next Turn; none when it has no ancillary packet. -/
def Chip.ancPacketOut (c : Chip) (f src : Nat) (ecc : Bool) : Chip × Option Draft :=
  let x := c.eg f
  let p := c.get R.NET_EGCFG_PLANE f
  let n := c.turn p
  let l := c.ancOut f src n
  let c := c.when (!ecc) (·.egMarkFault f)
  let v := c.eg (c.egDef f).video
  if l.isEmpty || !ecc || x.turn == n + 1 then (c, none)
  else (c.setEg f { x with turn := n + 1 }, some ⟨st291Payload (x.seq / 65536) l, rtpStamp (c.rateOf p) n, true, v.start⟩)

/-- R320: the next packet of flow f by its form. -/
def Chip.draft (c : Chip) (f : Nat) (k : SendInfo) : Chip × Option Draft :=
  match c.get R.NET_EGCFG_FORM f, (c.egDef f).src with
  | 0, .chan ch => c.nativePacket f ch
  | 1, .chan ch => c.tsFlowPacket f ch k.ancEcc
  | 2, .output o => c.rasterPacket f o k.lineClean
  | 3, _ => c.pcmPacket f false
  | 4, _ => c.pcmPacket f true
  | 5, .anc a => c.ancPacketOut f a k.ancEcc
  | _, _ => (c, none)

/-! ### Sending (R314, R318, R321–R323, R332–R334) -/

/-- R333, R314, R318, R321, R323: a packet leaves on leg `l` of a flow at t ns, or is discarded there. Returns whether it left. -/
def Chip.sendLeg (c : Chip) (l due t : Nat) : Chip × Bool :=
  if !c.on R.NET_LANESTAT_UP (c.get R.NET_EGCFG_PORT l) || c.egUnres l then (c.bump R.NET_EGDROP_DISC l, false)
  else
    let late := decide (due + c.get R.NET_EGWIN_W l < t)
    let c := c.count2 R.NET_EGPKTLO R.NET_EGPKTHI l
    let c := c.when late (fun c => ((c.set R.NET_EGSTAT_LATE l 1).bump R.NET_EGLATE l).fault 3 2 20 blkNet 0x05 l
      (some (c.get R.NET_EGCFG_PLANE l)))
    (c, true)

/-- R318, R319, R333: the frame of leg l that carries an RTP packet: each leg has its own Ethernet, IP and UDP headers. -/
def Chip.legFrame (c : Chip) (l : Nat) (rtp : List Byte) : List Byte :=
  let d := c.egDef l
  let v6 := c.on R.NET_EGCFG_IPV6 l
  let mac := if isGroup v6 d.head.dst then groupMac v6 d.head.dst else (c.eg l).hopMac.getD d.hopMac
  let e := ethFrame mac (c.netDef (c.get R.NET_EGCFG_PORT l)).mac d.vlan (ipType v6) (udpPacket v6 d.head d.srcPort d.dstPort rtp)
  e ++ fcs e

/-- R325, R332: the RTP packet of a draft with the flow's present sequence number, and its SRTP packet index where SRTP is on. -/
def Chip.rtpPacket (c : Chip) (f : Nat) (d : Draft) : List Byte × Option Nat :=
  let x := c.eg f
  let e := c.egDef f
  let head := rtpHeader d.marker (if c.get R.NET_EGCFG_FORM f = 1 then 33 else e.pt) (x.seq % 65536) d.stamp e.ssrc
  if c.on R.NET_EGCFG_SRTP f then
    let key := (tget {} c.sec.slots e.keySlot).key
    let i := x.roc * 65536 + x.seq % 65536
    let l := head ++ srtpCrypt key e.ssrc i d.payload
    (l ++ srtpTag key x.roc l, some i)
  else (head ++ d.payload, none)

/-- R325, R332: the flow's sequence number and rollover counter after a packet. -/
def EgFlow.counted (x : EgFlow) : EgFlow :=
  { x with seq := (x.seq + 1) % 2 ^ 32, roc := if (x.seq + 1) % 65536 = 0 then (x.roc + 1) % 2 ^ 32 else x.roc }

/-- R321, R332, R333, R626: a packet of flow f that is due leaves on the legs that the device sends; one that the two SRTP copies disagree
on, or of a flow that is held back, does not. -/
def Chip.sendDraft (c : Chip) (f : Nat) (k : SendInfo) (d : Draft) : Chip :=
  let x := c.eg f
  if x.hold == some 0 || (c.get R.NET_EGCFG_FORM f == 0 && c.egHeld f x.turn) then c
  else
    let (rtp, index) := c.rtpPacket f d
    let c := c.setEg f x.counted
    if c.on R.NET_EGCFG_SRTP f && !k.srtpAgree then c.fault 3 1 20 blkNet 0x06 f (some (c.get R.NET_EGCFG_PLANE f))
    else
      let (c, a) := if c.egSends f false d.due then c.sendLeg f d.due k.at_ else (c, false)
      let (c, b) := if c.egDual f ∧ c.egSends f true d.due then c.sendLeg (f + 1) d.due k.atB else (c, false)
      let pkt : EgPacket := { rtp := rtp, srtp := index, due := d.due,
                              legs := (if a then some (k.at_, c.legFrame f rtp) else none,
                                       if b then some (k.atB, c.legFrame (f + 1) rtp) else none) }
      c.setEg f { c.eg f with last := some pkt }

/-- R45, R46: the ring checker of egress queue f blocks a static access that breaks ownership: the packet slot sends nothing. -/
def Chip.egBreach (c : Chip) (f cause : Nat) : Chip :=
  let k := targetKey 7 f
  let t := c.target k
  (c.schedFault 4 cause (c.get R.NET_EGCFG_PLANE f) t.stream t.slot 7 f c.sched.cyc).setTarget k { t with breach := true }

/-- R51, R334, R388, R587: flow f sends at all: it is on and not muted, its plane runs, and the device is in P0 or P1. -/
def Chip.egLive (c : Chip) (f : Nat) : Bool :=
  c.egOn f && !c.egMuted f && !c.clk.dead && c.running (c.get R.NET_EGCFG_PLANE f) && decide (c.get R.PWR_PWRSTAT_STATE 0 < 2)

/-- R43, R45, R321–R334: a media packet of flow f leaves, in an owned Twist of its plane, no earlier than its nominal send time; a muted flow
sends nothing and none of its counters advances. -/
def Chip.mediaSend (c : Chip) (f : Nat) (k : SendInfo) : Chip :=
  if c.egLive f = false then c
  else match c.accessCause (c.get R.NET_EGCFG_PLANE f) 0 with
    | some cause => c.egBreach f cause
    | none => match c.draft f k with
      | (c', none) => c'
      | (c', some d) => if k.at_ < d.due then c else c'.sendDraft f k d

/-- R321: MEDIA_PACKET_SEND. A command that names leg B names the pair (R333). -/
def execMediaPacketSend (f : Fin 1024) (k : SendInfo) (s : State) : Host.Outcome State Fault Refusal :=
  onChip (fun c => c.mediaSend (c.egLead f.val) k) s

/-- R335: the splice section numbered e.2 is sent again on flow f of channel ch at t ns, if one is left and 100 ms have passed since the last. -/
def Chip.scteAgain (c : Chip) (f ch pid t : Nat) (e : Splice × Nat) : Chip :=
  match e.1.lastNs with
  | some u =>
    if e.1.chan = ch ∧ 0 < e.1.left ∧ u + 100000000 ≤ t then
      let c := c.setEg f ((c.eg f).push pid true (spliceSection e.1 (c.picturePts ch e.1.spliceTurn)))
      { c with net := { c.net with splices := listSet c.net.splices e.2 { e.1 with left := e.1.left - 1, lastNs := some t } } }
    else c
  | none => c

/-- R335: SCTE35_REPEAT at t ns. Each splice section of the flow's channel is sent again 100 ms after it was sent last. -/
def execScte35Repeat (f : Fin 1024) (t : Nat) (s : State) : Host.Outcome State Fault Refusal :=
  onChip (fun c =>
    let f := c.egLead f.val
    match (c.egDef f).src, (c.egDef f).ts.sctePid with
    | .chan ch, some pid =>
      let c := c.net.splices.zipIdx.foldl (fun c e => c.scteAgain f ch pid t e) c
      { c with net := { c.net with splices := c.net.splices.filter (fun s => !(s.chan == ch && s.lastNs.isSome && s.left == 0)) } }
    | _, _ => c) s

/-- R333, R334: MUTED of a flow by command: both legs of a pair. -/
def Chip.muteFlow (c : Chip) (f : Nat) (on : Bool) : Chip :=
  let f := c.egLead f
  (c.setEg f { c.eg f with cmdMuted := on }).egStatus f

/-- R330, R331: at a start of plane p its send flows start: the first packet of every PID carries discontinuity_indicator 1. -/
def Chip.egStart (c : Chip) (p : Nat) : Chip :=
  c.each (c.egFlows (fun f => c.get R.NET_EGCFG_PLANE f == p)) (fun c f =>
    let x := c.eg f
    let n := c.turn p
    let j := match (c.egDef f).chans.head? with
      | some (a, _) => c.gridFrame a (pulseNs (c.rateOf p) n) / max 1 (c.get R.AUD_BLKCFG_BLKLEN a)
      | none => 0
    (c.setEg f { x with turn := n, k := 0, j := j, nal := none, off := 0, auTurn := none, pos := 0, pos0 := none,
                        drain := 0, pids := x.pids.map (fun e => (e.1, { e.2 with begun := false, units := [], sent := 0 })) }).egStatus f)

/-- R350: NET.CNTCLR with KIND 1 clears the egress counters of a flow context. -/
def execNetCntclrFlow (v : Word) (s : State) : Host.Outcome State Fault Refusal :=
  onChip (fun c =>
    let f := bits v.toNat 9 0
    if bit v.toNat 31 ∧ bit v.toNat 30 then
      let c := (c.set2 R.NET_EGPKTLO R.NET_EGPKTHI f 0).set R.NET_EGLATE f 0
      (c.set R.NET_EGDROP_DISC f 0).set R.NET_EGDROP_MARKF f 0
    else c) s

end Sys2Proof.Machine
end

