-- ==== Sys2Proof/Machine/Strand.lean ====
section
/-! DEFINITION. Strand lanes and groups: training, negotiation, markers, retrain, frames received and sent, electrical idle (Strand
Lanes and Link Protocol, R454–R485; R98, R99). -/

namespace Sys2Proof.Machine

/-- Lane n of the links. -/
def Chip.strLane (c : Chip) (n : Nat) : StrLane := tget {} c.str.lanes n
/-- A lane replaced. -/
def Chip.setStrLane (c : Chip) (n : Nat) (x : StrLane) : Chip := { c with str := { c.str with lanes := tset {} c.str.lanes n x } }
/-- The group whose first lane is g. -/
def Chip.grp (c : Chip) (g : Nat) : StrGroup := tget {} c.str.groups g
/-- A group replaced. -/
def Chip.setGrp (c : Chip) (g : Nat) (x : StrGroup) : Chip := { c with str := { c.str with groups := tset {} c.str.groups g x } }

/-- R482: lanes of a group. -/
def Chip.grpWidth (c : Chip) (g : Nat) : Nat := c.get R.STR_GRPCFG_WIDTH g + 1

/-- R482: a group is in use: enabled, of a ROLE that is not reserved, and within SL63. -/
def Chip.grpOn (c : Chip) (g : Nat) : Bool :=
  c.on R.STR_GRPCFG_EN g && decide (c.get R.STR_GRPCFG_ROLE g ≠ 3) && decide (g + c.grpWidth g ≤ 64)

/-- The lanes of a group. -/
def Chip.grpLanes (c : Chip) (g : Nat) : List Nat := range' g (g + c.grpWidth g)

/-- The group in use that holds lane n. -/
def Chip.grpOf (c : Chip) (n : Nat) : Option Nat :=
  (List.range 64).find? (fun g => c.grpOn g && decide (g ≤ n ∧ n < g + c.grpWidth g))

/-- GRPSTAT.STATE codes of R483. -/
def strDetect : Nat := 0
def strLock : Nat := 1
def strExchange : Nat := 2
def strStepUp : Nat := 3
def strTaps : Nat := 4
def strDeskew : Nat := 5
def strActive : Nat := 6
def strIdle : Nat := 7

/-- The state of a group. -/
def Chip.grpState (c : Chip) (g : Nat) : Nat := c.get R.STR_GRPSTAT_STATE g
/-- The state of a group set. -/
def Chip.setGrpState (c : Chip) (g v : Nat) : Chip := c.set R.STR_GRPSTAT_STATE g v
/-- R465: a group is up: ACTIVE, or ACTIVE with its transmitter in electrical idle. -/
def Chip.grpUp (c : Chip) (g : Nat) : Bool := c.grpState g == strActive || c.grpState g == strIdle

/-- R456: the symbols of IDLE, SOF, EOF, ERR and AM; bit [8] marks a K symbol. -/
def symIdle : List Nat := [0x1BC, 0x050]
def symSof : Nat := 0x1FB
def symEof : Nat := 0x1FD
def symErr : Nat := 0x1FE
def symAm : Nat := 0x17C
/-- R456: EIE and the exit burst. -/
def symEie : List Nat := [0x1BC, 0x1FC, 0x1FC, 0x1FC]
def symExit : List Nat := List.replicate 128 0x1FC

/-- R457, R467, R470: the symbols of a frame on each of w lanes: symbol i on lane i mod w, SOF on lane 0, IDLE on what is left of the last
column and two IDLE symbols after it. -/
def frameSymbols (w : Nat) (bytes : List Byte) (poisoned : Bool) : List (List Nat) :=
  let l := [symSof] ++ bytes.map (·.toNat) ++ (if poisoned then [symErr] else []) ++ [symEof]
  let cols := ceilDiv l.length (max 1 w)
  (List.range w).map (fun i =>
    let own := (List.range cols).filterMap (fun r => l[r * w + i]?)
    own ++ (List.range (cols + 2 - own.length)).map (fun k => symIdle.getD (k % 2) 0))

/-- R456: a marker on each of w lanes: AM with the count and the lane number, and two IDLE symbols. -/
def markerSymbols (w count : Nat) : List (List Nat) := (List.range w).map (fun i => [symAm, count * 16 + i] ++ symIdle)

/-- Lock and counts of training sets of a group's lanes are lost. -/
def Chip.unlockLanes (c : Chip) (g : Nat) : Chip :=
  c.each (c.grpLanes g) (fun c n => (c.setStrLane n {}).set R.STR_LANESTAT_SYMLOCK n 0)

/-- R462: a group starts from step 1. -/
def Chip.grpRestart (c : Chip) (g : Nat) : Chip :=
  let c := (c.unlockLanes g).each (c.grpLanes g) (fun c n => c.set R.STR_LANESTAT_RXDET n 0)
  (c.setGrp g { c.grp g with retrain := false, fails := 0, failAt := none, cfgFail := false, amRun := 0, waitAm := false, retrainAfter := false }).setGrpState g strDetect

/-- R465: a retrain starts at step 2 at the negotiated rate and version, with the present taps. -/
def Chip.grpRetrain (c : Chip) (g : Nat) : Chip :=
  let c := (c.unlockLanes g).bump R.STR_RETRAINS_RETR g
  (c.setGrp g { c.grp g with retrain := true, from0 := c.sched.cyc, amRun := 0, waitAm := false, retrainAfter := false }).setGrpState g strLock

/-- R465: a group goes down. -/
def Chip.grpDown (c : Chip) (g : Nat) : Chip := (c.set R.STR_GRPSTAT_DOWNEV g 1).grpRetrain g

/-! ### Bring-up (R460–R464) -/

/-- R482: the lowest version a group serves, coded as VERMIN. -/
def Chip.grpVerMin (c : Chip) (g : Nat) : Nat := match c.get R.STR_GRPCFG_VERFLOOR g with
  | 0 => 0x10 | 1 => 0x20 | _ => 0x21

/-- R460, R480: the training set that lane n of group g sends in the present step. -/
def Chip.trainingSet (c : Chip) (g n : Nat) : List Byte :=
  let x := c.strLane n
  let st := c.grpState g
  let change := st == strStepUp && x.run == 0
  let kind := if change || st == strExchange && decide (0 < x.sent) then 0xB2 else 0xA1
  let b : List Nat :=
    [kind, (c.grpWidth g - 1) * 16 + (n - g), c.grpVerMin g, 0x21, 2 ^ (c.get R.STR_GRPCFG_MAXRATE g + 1) - 1, 0x1F,
     if change then 0x80 + c.get R.STR_GRPSTAT_RATE g else 0, x.ask + 64 * b2n x.over_, x.tapstat, c.get R.STR_TXTAP_PRE n,
     c.get R.STR_TXTAP_POST n, 0x92, 0x21, c.get R.STR_TXTAP_MAIN n]
  let l := b.map (BitVec.ofNat 8)
  [0xBC#8] ++ l ++ [l.foldl (· ^^^ ·) 0]

/-- R460: the training sets that the lanes of a group send follow its state. -/
def Chip.setsOut (c : Chip) (g : Nat) : Chip :=
  c.each (c.grpLanes g) (fun c n => c.setStrLane n { c.strLane n with tx := c.trainingSet g n })

/-- R460, R461: every lane of group g has a receiver: the taps start at their presets, and the lock step begins at the lowest rate. -/
def Chip.lockBegin (c : Chip) (g : Nat) : Chip :=
  let c := c.each (c.grpLanes g) (fun c m =>
    let c := (c.set R.STR_TXTAP_MAIN m (c.get R.STR_TXPRESET_MAIN m)).set R.STR_TXTAP_POST m (c.get R.STR_TXPRESET_POST m)
    (c.set R.STR_TXTAP_PRE m (c.get R.STR_TXPRESET_PRE m)).set R.STR_LANESTAT_SIGDET m 1)
  let c := (c.setGrp g { c.grp g with from0 := c.sched.cyc }).set R.STR_GRPSTAT_RATE g 0
  ((c.unlockLanes g).setGrpState g strLock).setsOut g

/-- R462: RECEIVER_DETECT: a lane tests for a far-end termination. Once every lane of the group has found one, step 2 begins. -/
def execReceiverDetect (n : Fin 64) (found : Bool) (s : State) : Host.Outcome State Fault Refusal :=
  onChip (fun c =>
    match c.grpOf n.val with
    | none => c
    | some g =>
      if c.grpState g ≠ strDetect ∨ c.clk.dead then c
      else
        let c := c.setB R.STR_LANESTAT_RXDET n.val found
        if (c.grpLanes g).all (fun m => c.on R.STR_LANESTAT_RXDET m) then c.lockBegin g
        else c) s

/-- A byte of a training set. -/
def tsByte (ts : List Byte) (i : Nat) : Nat := (ts.getD i 0).toNat

/-- R460: a training set is valid: 16 symbols, of KIND TSA or TSB, with CHECK the exclusive-or of bytes 1 to 14. -/
def tsValid (ts : List Byte) : Bool :=
  ts.length == 16 && (tsByte ts 1 == 0xA1 || tsByte ts 1 == 0xB2) &&
    ((ts.drop 1).take 14).foldl (· ^^^ ·) 0 == ts.getD 15 0

/-- R461: the version two ends take: the lower VERMAX, if it is at least the higher VERMIN, as the code of GRPSTAT.VER. -/
def strVersion (minA maxA minB maxB : Nat) : Option Nat :=
  let v := min maxA maxB
  if max minA minB ≤ v then some (if v < 0x20 then 0 else if v < 0x21 then 1 else 2) else none

/-- R462 step 3: the exchange of a group is complete; the version, and width and lane numbers, are judged. -/
def Chip.exchangeDone (c : Chip) (g : Nat) : Chip :=
  let sets := (c.grpLanes g).map (fun n => (c.strLane n).last)
  let t := sets.headD []
  let w := c.grpWidth g
  let c := (c.set R.STR_PARTNER_DEVID g (tsByte t 12 + 256 * tsByte t 13)).set R.STR_PARTNER_VERMAX g (tsByte t 4)
  let c := c.set R.STR_PARTNER_VERMIN g (tsByte t 3)
  let ver := strVersion (c.grpVerMin g) 0x21 (tsByte t 3) (tsByte t 4)
  let lanes := sets.map (fun x => tsByte x 2 % 16)
  let same := sets.all (fun x => tsByte x 2 / 16 == w - 1) && (List.range w).all (fun i => lanes.contains i)
  let wide := ver == some 0 && decide (8 < w)
  let cfg := !same || wide
  let c := (c.when ver.isNone (·.set R.STR_GRPSTAT_VERFAIL g 1)).when cfg (·.set R.STR_GRPSTAT_CFGFAIL g 1)
  match ver with
  | some v =>
    if cfg then c.setGrp g { c.grp g with failAt := some c.sched.cyc, cfgFail := true }
    else
      let top := min (c.get R.STR_GRPCFG_MAXRATE g) (if v = 0 then 2 else 3)
      let common := (List.range (top + 1)).filter (fun r => bit (tsByte t 5) r)
      let rate := common.foldl max 0
      let c := (c.set R.STR_GRPSTAT_VER g v).set R.STR_GRPSTAT_RATE g rate
      let c := c.setGrp g { c.grp g with rates := tsByte t 5, caps := tsByte t 6, rateFrom := c.sched.cyc }
      (c.unlockLanes g).setGrpState g strStepUp
  | none => c.setGrp g { c.grp g with failAt := some c.sched.cyc, cfgFail := cfg }

/-- R463: one tap moved by a request within its limits and the limit on the sum: its new value and its TAPSTAT code. -/
def moveTap (v req lo hi sum : Nat) : Nat × Nat :=
  match req with
  | 1 => if v < hi ∧ sum < 48 then (v + 1, 1) else (v, 3)
  | 2 => if lo < v then (v - 1, 1) else (v, 2)
  | _ => (v, 0)

/-- R463: the tap request of a training set, on the transmitter of a lane. -/
def Chip.tapRequest (c : Chip) (n req : Nat) : Chip :=
  let pre := c.get R.STR_TXTAP_PRE n
  let main := c.get R.STR_TXTAP_MAIN n
  let post := c.get R.STR_TXTAP_POST n
  let (pre', a) := moveTap pre (bits req 1 0) 0 8 (pre + main + post)
  let (main', b) := moveTap main (bits req 3 2) 24 48 (pre' + main + post)
  let (post', d) := moveTap post (bits req 5 4) 0 16 (pre' + main' + post)
  let c := ((c.set R.STR_TXTAP_PRE n pre').set R.STR_TXTAP_MAIN n main').set R.STR_TXTAP_POST n post'
  c.setStrLane n { c.strLane n with tapstat := a + 4 * b + 16 * d, done := (c.strLane n).done || bit req 6 }

/-- R462 step 6 begins. -/
def Chip.startDeskew (c : Chip) (g : Nat) : Chip :=
  (c.setGrp g { c.grp g with amRun := 0 }).setGrpState g strDeskew

/-- R460, R462: a training set in the lock step: once every lane has locked, the exchange begins, or a retrain goes on to deskew. -/
def Chip.tsLock (c : Chip) (g : Nat) (locked : Bool) : Chip :=
  if locked then
    if (c.grp g).retrain then c.startDeskew g
    else
      let c := c.each (c.grpLanes g) (fun c m => c.setStrLane m { c.strLane m with same := 0, tsb := 0, sent := 0 })
      c.setGrpState g strExchange
  else c

/-- R461: a training set in the exchange on lane n, whose run is x. -/
def Chip.tsExchange (c : Chip) (g n : Nat) (ts : List Byte) (x : StrLane) : Chip :=
  if (c.grp g).failAt.isSome then c
  else
    let isB := tsByte ts 1 == 0xB2
    let ack := decide (8 ≤ x.same) || decide (0 < x.sent) || isB
    let x := if ack then { x with sent := x.sent + 1, tsb := if isB then x.tsb + 1 else x.tsb } else x
    let c := c.setStrLane n x
    if (c.grpLanes g).all (fun m => decide (8 ≤ (c.strLane m).tsb ∧ 8 ≤ (c.strLane m).sent)) then c.exchangeDone g else c

/-- R462: a training set at the stepped-up rate: once every lane has locked, tap adjustment or, for version 2.0, deskew begins. -/
def Chip.tsStepUp (c : Chip) (g : Nat) (locked : Bool) : Chip :=
  if locked then
    let c := c.when (decide (c.get R.STR_GRPSTAT_RATE g < c.get R.STR_GRPCFG_MAXRATE g)) (·.set R.STR_GRPSTAT_FALLBACK g 1)
    if c.get R.STR_GRPSTAT_VER g = 0 then c.startDeskew g
    else
      let c := c.each (c.grpLanes g) (fun c m =>
        c.setStrLane m { c.strLane m with req := 0, ask := 0, requests := 0, over_ := !c.on R.STR_GRPCFG_TAPREQ g })
      (c.setGrp g { c.grp g with tapFrom := c.sched.cyc }).setGrpState g strTaps
  else c

/-- R463, R464: what a lane asks of its partner's transmitter after a training set whose TAPSTAT is `status`: a new request only once the
status of the last has come, at most 256 in all, and then DONE. -/
def strNextRequest (x : StrLane) (status : Nat) (call : Option (Fin 6)) : StrLane :=
  let waits : Bool := x.req != 0 && (List.range 3).any (fun t => x.req / 4 ^ t % 4 != 0 && status / 4 ^ t % 4 == 0)
  if x.over_ then { x with req := 0, ask := 0 }
  else if waits then { x with ask := 0 }
  else match (if x.requests < 256 then call else none) with
    | some k =>
      let r := (k.val % 2 + 1) * 4 ^ (k.val / 2)
      { x with req := r, ask := r, requests := x.requests + 1 }
    | none => { x with req := 0, ask := 0, over_ := true }

/-- R463: a training set while taps are adjusted. The step ends when each end has sent DONE and seen DONE. -/
def Chip.tsTaps (c : Chip) (g n : Nat) (ts : List Byte) (call : Option (Fin 6)) : Chip :=
  let c := c.tapRequest n (tsByte ts 8)
  let c := c.setStrLane n (strNextRequest (c.strLane n) (tsByte ts 9) call)
  if (c.grpLanes g).all (fun m => (c.strLane m).over_ && (c.strLane m).done) then c.startDeskew g else c

/-- R460: a lane of group g takes a training set in bring-up. -/
def Chip.tsHeard (c : Chip) (g n : Nat) (ts : List Byte) (inverted : Bool) (call : Option (Fin 6)) : Chip :=
  let x := c.strLane n
  let x := { x with last := ts, run := x.run + 1, same := if x.last = ts then x.same + 1 else 1 }
  let c := c.setStrLane n x
  let c := if 8 ≤ x.run then
      ((c.set R.STR_LANESTAT_SYMLOCK n 1).setB R.STR_LANESTAT_POLINV n inverted).set R.STR_LANESTAT_LANENUM n (tsByte ts 2 % 16)
    else c
  let locked := (c.grpLanes g).all (fun m => c.on R.STR_LANESTAT_SYMLOCK m)
  let st := c.grpState g
  let c :=
    if st = strLock then c.tsLock g locked
    else if st = strExchange then c.tsExchange g n ts x
    else if st = strStepUp then c.tsStepUp g locked
    else if st = strTaps then c.tsTaps g n ts call
    else c
  c.setsOut g

/-- R457, R460–R465, R478: TRAINING_SET_RX. `inverted` is the polarity found on K28.5; `call` the step
of one tap that the lane's eye monitor calls for: tap k / 2 of pre, main and post, up for an even k and down for an odd one; none where it
finds no wider eye. -/
def execTrainingSetRx (n : Fin 64) (ts : List Byte) (inverted : Bool) (call : Option (Fin 6)) (s : State) :
    Host.Outcome State Fault Refusal :=
  onChip (fun c =>
    match c.grpOf n.val with
    | none => c
    | some g =>
      if tsValid ts = false ∨ c.grpState g = strDetect then c
      else if c.grpState g = strActive then c.grpDown g
      else if c.grpState g = strIdle then c.setGrp g { c.grp g with retrainAfter := true }
      else c.tsHeard g n.val ts inverted call) s

/-- R462: maximum time of the present step, in fabric cycles after step 1, or after a retrain began. -/
def Chip.stepLimit (c : Chip) (g : Nat) : Nat :=
  if (c.grp g).retrain then 1600000
  else match c.grpState g with
    | 1 => 800000 | 2 => 1600000 | 3 => 26400000 | 4 => 426400000 | _ => 427200000

/-- R462, R465: BRINGUP_STEP_TIMEOUT. A retrain that fails is tried again; after 3 in a row the group starts from step 1. -/
def execBringupStepTimeout (g : Fin 64) (s : State) : Host.Outcome State Fault Refusal :=
  onChip (fun c =>
    let g := g.val
    let st := c.grpState g
    let q := c.grp g
    if c.grpOn g = false ∨ st = strDetect ∨ c.grpUp g ∨ q.failAt.isSome ∨ c.sched.cyc < q.from0 + c.stepLimit g then c
    else if q.retrain ∧ q.fails < 2 then (c.setGrp g { q with fails := q.fails + 1 }).grpRetrain g
    else (c.bump R.STR_RETRAINS_FULL g).grpRestart g) s

/-- R462 step 4: RATE_LOCK_TIMEOUT, 10 ms after a rate change: both ends move to the next lower common rate. -/
def execRateLockTimeout (g : Fin 64) (s : State) : Host.Outcome State Fault Refusal :=
  onChip (fun c =>
    let g := g.val
    let r := c.get R.STR_GRPSTAT_RATE g
    if c.grpOn g ∧ c.grpState g = strStepUp ∧ (c.grp g).rateFrom + 8000000 ≤ c.sched.cyc ∧ 0 < r then
      let lower := ((List.range r).filter (fun x => bit (c.grp g).rates x)).foldl max 0
      ((c.unlockLanes g).set R.STR_GRPSTAT_RATE g lower).setGrp g { c.grp g with rateFrom := c.sched.cyc }
    else c) s

/-- R463: TAP_ADJUST_TIMEOUT, 500 ms after tap adjustment began. -/
def execTapAdjustTimeout (g : Fin 64) (s : State) : Host.Outcome State Fault Refusal :=
  onChip (fun c =>
    if c.grpOn g.val ∧ c.grpState g.val = strTaps ∧ (c.grp g.val).tapFrom + 400000000 ≤ c.sched.cyc then c.startDeskew g.val
    else c) s

/-- R461, R462, R478: EXCHANGE_RETRY, 1 s after a failed exchange: it is retried, or after CFGFAIL the group returns to step 1. -/
def execExchangeRetry (g : Fin 64) (s : State) : Host.Outcome State Fault Refusal :=
  onChip (fun c =>
    let g := g.val
    match (c.grp g).failAt with
    | some t =>
      if t + 800000000 ≤ c.sched.cyc then
        if (c.grp g).cfgFail then c.grpRestart g
        else
          let c := c.each (c.grpLanes g) (fun c m => c.setStrLane m { c.strLane m with same := 0, tsb := 0, sent := 0 })
          c.setGrp g { c.grp g with failAt := none, from0 := c.sched.cyc }
      else c
    | none => c) s

/-! ### Markers, lock and electrical idle (R458, R462, R465, R476, R477) -/

/-- R458: ALIGNMENT_MARKER_SEND. -/
def execAlignmentMarkerSend (g : Fin 64) (s : State) : Host.Outcome State Fault Refusal :=
  onChip (fun c =>
    let q := c.grp g.val
    if c.grpOn g.val ∧ (c.grpState g.val = strDeskew ∨ c.grpState g.val = strActive) ∧ c.clk.dead = false then
      c.setGrp g.val { q with amTx := (q.amTx + 1) % 16, wire := markerSymbols (c.grpWidth g.val) q.amTx }
    else c) s

/-- R458, R462 step 6, R468, R476: ALIGNMENT_MARKER_RX: markers of all lanes, with the skew of each against the earliest. A group whose
skew exceeds 128 symbols never leaves deskew. -/
def execAlignmentMarkerRx (g : Fin 64) (skews : List Nat) (s : State) : Host.Outcome State Fault Refusal :=
  onChip (fun c =>
    let g := g.val
    let st := c.grpState g
    if c.grpOn g = false ∨ (st ≠ strDeskew ∧ c.grpUp g = false) then c
    else
      let ls := c.grpLanes g
      let c := c.each (List.range ls.length) (fun c i => c.set R.STR_LANESTAT_SKEW (g + i) (min 128 (skews.getD i 0)))
      let ok := skews.all (fun x => decide (x ≤ 128))
      let q := c.grp g
      if st = strDeskew then
        let n := if ok then q.amRun + 1 else 0
        let c := c.setGrp g { q with amRun := n, amAt := c.sched.cyc }
        if 4 ≤ n then
          (c.setGrp g { c.grp g with txSeq := 0, rxSeq := 0, retrain := false, fails := 0, remote := none,
                                     lastTx := c.sched.cyc }).setGrpState g strActive
        else c
      else c.setGrp g { q with amAt := c.sched.cyc, waitAm := false }) s

/-- R465, R466, R477: LOSS_OF_LOCK. A loss of signal after an EIE is no loss of lock. -/
def execLossOfLock (n : Fin 64) (how : LockLoss) (errors : Nat) (s : State) : Host.Outcome State Fault Refusal :=
  onChip (fun c =>
    let n := n.val
    let c := c.bump R.STR_CODEERR n errors
    if how = .signal ∧ c.on R.STR_LANESTAT_EI n then c
    else
      let c := c.set R.STR_LANESTAT_SYMLOCK n 0
      let c := if how = .signal then c.set R.STR_LANESTAT_SIGDET n 0 else c
      let c := c.setStrLane n { c.strLane n with run := 0, same := 0 }
      match c.grpOf n with
      | some g =>
        if c.grpState g = strIdle ∧ (c.grp g).retrainAfter then c
        else if c.grpUp g then c.grpDown g
        else c
      | none => c) s

/-- R476: ELECTRICAL_IDLE_ENTRY: on a 2.1 link that allows it on both ends, when no frame has been due for EIWAIT Twists. -/
def execElectricalIdleEntry (g : Fin 64) (s : State) : Host.Outcome State Fault Refusal :=
  onChip (fun c =>
    let g := g.val
    let w := c.get R.STR_GRPCFG_EIWAIT g
    let q := c.grp g
    if c.grpOn g ∧ c.grpState g = strActive ∧ c.get R.STR_GRPSTAT_VER g = 2 ∧ c.on R.STR_GRPCFG_EIALLOW g ∧ bit q.caps 1 ∧
        q.lastTx + 256 * (if w = 0 then 16 else w) ≤ c.sched.cyc then
      (c.setGrp g { q with wire := List.replicate (c.grpWidth g) symEie }).setGrpState g strIdle
    else c) s

/-- R476, R478: ELECTRICAL_IDLE_EXIT: the exit burst, followed by an AM; a training set met meanwhile is answered by a retrain. -/
def execElectricalIdleExit (g : Fin 64) (s : State) : Host.Outcome State Fault Refusal :=
  onChip (fun c =>
    let g := g.val
    if c.grpOn g ∧ c.grpState g = strIdle then
      let q := c.grp g
      let out := (markerSymbols (c.grpWidth g) q.amTx).map (symExit ++ ·)
      let c := (c.setGrp g { q with amTx := (q.amTx + 1) % 16, lastTx := c.sched.cyc, wire := out }).setGrpState g strActive
      if q.retrainAfter then c.grpDown g else c
    else c) s

/-- R477: EIE_RECEIVED: EIE, and then loss of signal. -/
def execEieReceived (n : Fin 64) (s : State) : Host.Outcome State Fault Refusal :=
  onChip (fun c =>
    match c.grpOf n.val with
    | some g => if c.grpUp g then (c.set R.STR_LANESTAT_EI n.val 1).set R.STR_LANESTAT_SIGDET n.val 0 else c
    | none => c) s

/-- R476: EXIT_BURST_RECEIVED: the receiver relocks; frames wait for the first AM after the burst. -/
def execExitBurstReceived (n : Fin 64) (s : State) : Host.Outcome State Fault Refusal :=
  onChip (fun c =>
    match c.grpOf n.val with
    | some g =>
      if c.on R.STR_LANESTAT_EI n.val then
        let c := ((c.set R.STR_LANESTAT_EI n.val 0).set R.STR_LANESTAT_SIGDET n.val 1).set R.STR_LANESTAT_SYMLOCK n.val 1
        c.setGrp g { c.grp g with waitAm := true }
      else c
    | none => c) s

/-! ### Frames (R467–R475) -/

/-- R468: CRC of a frame: the link sequence, except on a 1.0 link, and the bytes before the CRC. -/
def strandCrc (v1 : Bool) (seq : Nat) (bytes : List Byte) : Word :=
  crc32c ((if v1 then [] else leBytes 4 seq) ++ bytes)

/-- R468: a 16-bit SEQ extended to the 32-bit value nearest to the one expected. -/
def extendSeq (want seq : Nat) : Nat := (((want : Int) + sdiff 16 seq want) % (2 ^ 32 : Int)).toNat

/-- R461, R469: whether a TYPE is allowed for the version and role of a group. -/
def Chip.typeAllowed (c : Chip) (g type : Nat) : Bool :=
  let v := c.get R.STR_GRPSTAT_VER g
  let role := match c.get R.STR_GRPCFG_ROLE g with
    | 0 => type == 1 || type == 2
    | 1 => type == 8 || type == 9 || type == 10
    | _ => type == 0x10
  if v = 0 then (type == 1 || type == 2) && role else if v = 1 then role else role || type == 0x3E

/-- R472, R501: completions of the expansion ring become items while their queue has room. -/
def Chip.pumpExpansion (c : Chip) : Chip :=
  c.each c.str.ring (fun c p =>
    if c.queueRoom c.tables.svc.expQ then
      let c := { c with str := { c.str with ring := c.str.ring.drop 1 } }
      (c.enqueue c.tables.svc.expQ ⟨0, p.length, 0x10, 0⟩).dispatch
    else c)

/-- R98, R102: a raster segment of a Strand flow arrives at time `at_`. In ARRIVAL mode a picture's stamp is the arrival time of its
first segment. -/
def Chip.strandSegment (c : Chip) (f at_ : Nat) (pay : List Byte) : Chip :=
  let line := leAt pay 0 2 % 8192
  let soff := leAt pay 2 2
  let stamp := leAt pay 4 4
  let x := c.flow f
  let sameP := x.newest.isSome && x.newestStamp == stamp && decide (x.newestLine ≤ line)
  let st := if c.on R.ING_FLOWCFG_ALIGN f then (if sameP then x.arrStamp else at_ % 2 ^ 32) else stamp
  let c := c.legHeard f false at_
  -- after the last segment of the last line, the next segment begins another picture
  let after := if bit (leAt pay 0 2) 13 && bit (leAt pay 0 2) 14 then 8192 else line
  let c := c.setFlow f { c.flow f with newest := some 0, newestStamp := stamp, newestLine := after, arrStamp := st }
  let seg : LineSeg := { line := line, off := soff, data := pay.drop 8 }
  c.takeSegs f st [seg] (x.newest.isSome && !sameP)

/-- R471: the packets of an ancillary payload, as far as they lie within it; the number that do not. -/
def ancParse : Nat → List Byte → List AncPacket → List AncPacket × Nat
  | 0, _, acc => (acc, 0)
  | n + 1, l, acc =>
    let dc := leAt l 6 1
    let len := 8 + 2 * dc + 2
    if l.length < len then (acc, n + 1)
    else
      let p : AncPacket := { line := leAt l 0 2, hoff := leAt l 2 2, did := parity10 (leAt l 4 1), sdid := parity10 (leAt l 5 1),
                             words := (List.range dc).map (fun i => leAt l (8 + 2 * i) 2 % 1024), checksum := leAt l (8 + 2 * dc) 2 % 1024 }
      ancParse n (l.drop len) (acc ++ [p])

/-- R112, R471: an ancillary frame of a Strand flow. -/
def Chip.strandAnc (c : Chip) (f at_ : Nat) (pay : List Byte) : Chip :=
  let (ps, lost) := ancParse (min 64 (leAt pay 0 2)) (pay.drop 8) []
  let stamp := if c.on R.ING_FLOWCFG_ALIGN f then at_ % 2 ^ 32 else leAt pay 4 4
  let c := (c.each ps (fun c p => c.ancPacket f stamp p)).ancEnd f stamp
  if lost = 0 then c
  else (c.setFlow f { c.flow f with ancDrops := (c.flow f).ancDrops + lost }).set R.ING_FLOWSTAT_ANCDROP f 1

/-- R473: a remote status frame: REMERR where either count has risen. -/
def Chip.remoteStatus (c : Chip) (g : Nat) (pay : List Byte) : Chip :=
  let now := (leAt pay 0 4, leAt pay 4 4)
  let c := match (c.grp g).remote with
    | some (a, b) => c.when (decide (a < now.1 ∨ b < now.2)) (·.set R.STR_GRPSTAT_REMERR g 1)
    | none => c
  c.setGrp g { c.grp g with remote := some now }

/-- R469: a frame that passed is delivered by its type. Two-ply frames reach the pair through their own commands. -/
def Chip.strandDeliver (c : Chip) (g type f at_ : Nat) (pay : List Byte) : Chip :=
  match type with
  | 0x01 => c.strandSegment f at_ pay
  | 0x02 => c.strandAnc f at_ pay
  | 0x10 =>
    if c.str.ring.length < 256 then ({ c with str := { c.str with ring := c.str.ring ++ [pay] } }).pumpExpansion
    else c.bump R.STR_DROPFRM g
  | 0x3E => c.remoteStatus g pay
  | _ => c

/-- R469, check 5: whether a flow is bound to a group for receive. -/
def Chip.flowBound (c : Chip) (g type f : Nat) : Bool :=
  c.flowOn f && (tget {} c.tables.flows f).group == some g &&
    c.get R.ING_FLOWCFG_SRC f == (if type = 1 then 0 else 3)

/-- R466, R469: STRAND_FRAME_RX. -/
def execStrandFrameRx (g : Fin 64) (f : StrandFrame) (s : State) : Host.Outcome State Fault Refusal :=
  onChip (fun c =>
    let g := g.val
    let c := c.each f.errLanes (fun c n => if n < 64 then c.bump R.STR_CODEERR n else c)
    let q := c.grp g
    if c.grpOn g = false ∨ c.grpUp g = false ∨ q.waitAm then c
    else if f.err then c.bump R.STR_ABORTFRM_RX g
    else if f.codeError ∨ f.timely = false then c.bump R.STR_CRCERR g
    else
      let len := leAt f.bytes 4 2 % 8192
      let ext := extendSeq q.rxSeq (leAt f.bytes 2 2)
      let v1 := c.get R.STR_GRPSTAT_VER g == 0
      let type := leAt f.bytes 0 2 / 1024
      let flow := leAt f.bytes 0 2 % 1024
      if f.bytes.length ≠ 10 + len then c.bump R.STR_CRCERR g
      else if (strandCrc v1 ext (f.bytes.take (6 + len))).toNat ≠ leAt f.bytes (6 + len) 4 ∨ later 32 q.rxSeq ext then
        c.bump R.STR_CRCERR g
      else if c.typeAllowed g type = false then c.bump R.STR_DROPFRM g
      else if (type = 1 ∨ type = 2) ∧ c.flowBound g type flow = false then c.bump R.STR_DROPFRM g
      else
        let gap := (sdiff 32 ext q.rxSeq).toNat
        let c := (c.bump R.STR_SEQGAP g gap).setGrp g { q with rxSeq := (ext + 1) % 2 ^ 32 }
        (c.count2 R.STR_FRMRXLO R.STR_FRMRXHI g).strandDeliver g type flow f.at_ ((f.bytes.drop 6).take len)) s

/-- R467, R468, R470: a frame leaves a group: its bytes, and the link sequence. A poisoned one ends in ERR. -/
def Chip.strandSend (c : Chip) (g type flow : Nat) (pay : List Byte) (poisoned : Bool) : Chip :=
  let q := c.grp g
  let head := leBytes 2 (type * 1024 + flow) ++ leBytes 2 (q.txSeq % 65536) ++ leBytes 2 pay.length ++ pay
  let crc := strandCrc (c.get R.STR_GRPSTAT_VER g == 0) q.txSeq head
  let bytes := head ++ leBytes 4 crc.toNat
  let c := c.setGrp g { q with txSeq := (q.txSeq + 1) % 2 ^ 32, lastTx := c.sched.cyc, sent := bytes,
                               wire := frameSymbols (c.grpWidth g) bytes poisoned }
  c.when poisoned (·.bump R.STR_ABORTFRM_TX g)

/-- R98, R324, R416: the payload of a segment of a line of output o. The line's mark is checked before its first segment is sent. -/
def Chip.rasterSegment (c : Chip) (g o turn line soff pixels : Nat) (clean : Bool) : Chip × List Byte :=
  let f := c.get R.CMP_OUTCFG_FLOW o
  let (w, h) := rasterSize (c.get R.CMP_OUTCFG_RASTER o)
  let len := w * 5 / 2
  let out := (((tget [] c.cmp.outs o).find? (fun q => q.turn == some turn)).map (fun q => tget {} q.lines line)).getD {}
  let dirty := !clean || c.linePoisoned f line
  let bad : Bool := dirty || out.bytes.isEmpty || decide (out.mark ≠ lineMark f line (turn % 2 ^ 32) out.bytes)
  let c := if soff = 0 then
      (((c.setGrp g { c.grp g with black := bad }).when bad (·.egMarkFault f)).lineSent f line dirty)
    else c
  let bytes := if (c.grp g).black then blackLine true (c.on R.CMP_OUTCFG_RANGE o) len else out.bytes
  let last := decide (w ≤ soff + pixels)
  let head := line + 8192 * b2n last + 16384 * b2n (line + 1 == h && last)
  let stamp := if c.get R.STR_GRPSTAT_VER g = 0 then 0 else pulseNs (c.rateOf (c.get R.CMP_OUTCFG_PLANE o)) turn % 2 ^ 32
  (c, leBytes 2 head ++ leBytes 2 soff ++ leBytes 4 stamp ++ (bytes.drop (soff * 5 / 2)).take (pixels * 5 / 2))

/-- R471: the payload of an ancillary frame of flow f for a Turn. -/
def Chip.ancPayload (c : Chip) (g f turn : Nat) : List Byte :=
  let ps := (c.flow f).ancOf turn
  let p := c.get R.ING_FLOWCFG_PLANE f
  let stamp := if c.get R.STR_GRPSTAT_VER g = 0 then 0 else pulseNs (c.rateOf p) (c.pulseIndex p turn) % 2 ^ 32
  leBytes 2 ps.length ++ [0, 0] ++ leBytes 4 stamp ++ ps.flatMap (fun p =>
    leBytes 2 p.line ++ leBytes 2 p.hoff ++ [BitVec.ofNat 8 p.did, BitVec.ofNat 8 p.sdid, BitVec.ofNat 8 p.words.length, 0] ++
      p.words.flatMap (leBytes 2) ++ leBytes 2 p.checksum)

/-- R474: frames of types 0x10 and 0x3E are dynamic work. -/
def strandDynamic : StrandSend → Bool
  | .other type _ _ => type == 0x10 || type == 0x3E
  | _ => false

/-- R466, R470, R474, R475: STRAND_FRAME_SEND: a frame is due. A static one of a group that is down, or that does not fit the rate the group
came up at, is discarded in its slot; a dynamic one waits until it fits. -/
def execStrandFrameSend (g : Fin 64) (f : StrandSend) (fits : Bool) (s : State) : Host.Outcome State Fault Refusal :=
  onChip (fun c =>
    let g := g.val
    if c.grpOn g = false then c
    else if c.grpState g ≠ strActive ∨ fits = false ∨ c.clk.dead then c.when (!strandDynamic f) (·.bump R.STR_DROPFRM g)
    else match f with
      | .raster o turn line soff pixels clean =>
        let (c, pay) := c.rasterSegment g o turn line soff pixels clean
        c.strandSend g 0x01 (c.get R.CMP_OUTCFG_FLOW o) pay false
      | .anc flow turn => c.strandSend g 0x02 flow (c.ancPayload g flow turn) false
      | .other type pay poisoned => c.strandSend g type 0 pay (poisoned && (type == 0x09 || type == 0x10))) s

/-- R473: REMOTE_STATUS_SEND. -/
def execRemoteStatusSend (g : Fin 64) (s : State) : Host.Outcome State Fault Refusal :=
  onChip (fun c =>
    let g := g.val
    if c.grpOn g ∧ c.grpState g = strActive ∧ c.get R.STR_GRPSTAT_VER g = 2 ∧ bit (c.grp g).caps 4 ∧ c.clk.dead = false then
      c.strandSend g 0x3E 0 (leBytes 4 (c.get R.STR_CRCERR g) ++ leBytes 4 (c.get R.STR_SEQGAP g)) false
    else c) s

/-- R479: STR_CNTCLR. -/
def execStrCntclr (v : Word) (s : State) : Host.Outcome State Fault Refusal :=
  onChip (fun c =>
    let n := v.toNat
    if bit n 31 then
      c.each (if bit n 30 then List.range 64 else [bits n 5 0]) (fun c g =>
        let c := ((c.set R.STR_CRCERR g 0).set R.STR_SEQGAP g 0).set R.STR_DROPFRM g 0
        let c := (c.set R.STR_ABORTFRM_RX g 0).set R.STR_ABORTFRM_TX g 0
        let c := (c.set2 R.STR_FRMRXLO R.STR_FRMRXHI g 0).set R.STR_RETRAINS_FULL g 0
        let c := c.set R.STR_RETRAINS_RETR g 0
        c.each (c.grpLanes g) (fun c n => if n < 64 then c.set R.STR_CODEERR n 0 else c))
    else c) s

end Sys2Proof.Machine
end

