-- ==== Sys2Proof/Machine/TwoPly.lean ====
section
/-! DEFINITION. Two-ply redundancy: heartbeats and words, silence, the Bobbin and its lease, transfers, legs, joining and
the state copy (R603–R633). -/

namespace Sys2Proof.Machine

/-! ### Roles (R604, R624, R631) -/

def roleResolving : Nat := 0
def roleHolder : Nat := 1
def roleOther : Nat := 2
def roleFenced : Nat := 3
def roleSolo : Nat := 4

/-- R631: ROLE. -/
def Chip.role (c : Chip) : Nat := c.get R.PLY_PLYSTAT_ROLE

/-- R630: dual-leg mode. -/
def Chip.dualLeg (c : Chip) : Bool := c.get R.PLY_PLYCFG_MODE == 2

/-- R630: the reference plane. -/
def Chip.refPlane (c : Chip) : Nat := c.get R.PLY_PLYCFG_REFPLANE

/-- R616: nanoseconds of the reference plane's steady base. -/
def Chip.refNs (c : Chip) : Nat := c.ns (c.baseOf c.refPlane)

/-- R28: nanoseconds of house frame pulse n of the reference plane, near which its boundary n falls. -/
def Chip.refTime (c : Chip) (n : Nat) : Nat := pulseNs (c.rateOf c.refPlane) n

/-- R633: a two-ply fault. -/
def Chip.plyFault (c : Chip) (level cause : Nat) : Chip := c.fault level 8 27 blkPly cause 0 none

/-- R605: the highest reaction level that runs (R541). -/
def Chip.reactionLevel (c : Chip) : Nat := (List.range 28).foldl (fun m d => max m (c.get R.SAF_DOMSTAT_LEVEL d)) 0

/-- The planes that run. -/
def Chip.runningPlanes (c : Chip) : List Nat := (List.range 4).filter c.running

/-- R609: LEASE and ACTIVE. -/
def Chip.setLease (c : Chip) (b : Bool) : Chip :=
  let c := c.setB R.PLY_PLYSTAT_LEASE 0 b
  ({ c with ply := { c.ply with active := b } }).driveActive

/-- R604: what a device in a role sends of its flows, by the codes of `PlyTx.mode`. -/
def Chip.plyMode (c : Chip) (role : Nat) : Nat :=
  let legs := c.dualLeg && c.ply.legOut && !c.on R.PLY_PLYSTAT_WARM
  if role = roleHolder then (if legs then 2 else 1)
  else if role = roleOther then (if legs && c.on R.PLY_PLYSTAT_INSTEP then 3 else 0)
  else if role = roleSolo then 1
  else 0

/-- R610, R612, R623: what is sent of plane p changes for packets with nominal send times from `at_` ns on. -/
def Chip.setTx (c : Chip) (p mode at_ : Nat) : Chip :=
  let t : PlyTx := tget {} c.ply.tx p
  let now := t.next.foldl (fun m e => if e.2 + 1000000000 ≤ at_ then e.1 else m) t.mode
  let keep := t.next.filter (fun e => decide (at_ < e.2 + 1000000000 ∧ e.2 < at_))
  { c with ply := { c.ply with tx := tset {} c.ply.tx p { mode := now, next := keep ++ [(mode, at_)] } } }

/-- R604: what is sent of every plane, at once. -/
def Chip.setTxAll (c : Chip) (mode : Nat) : Chip :=
  c.each (List.range 4) (fun c p => { c with ply := { c.ply with tx := tset {} c.ply.tx p { mode := mode } } })

/-- R334, R359: the status of every send flow follows the role. -/
def Chip.flowsShown (c : Chip) : Chip := c.each (c.egFlows (fun _ => true)) (fun c f => c.egStatus f)

/-- R624: a change of role, with its cause, writes a ROLE entry. -/
def Chip.setRole (c : Chip) (new cause : Nat) : Chip :=
  let old := c.role
  if old = new then c
  else
    let c := c.set R.PLY_PLYSTAT_ROLE 0 new
    let p := c.refPlane
    let c := c.reelDevice 4 (4 + p) (c.turn p) (leBytes 1 old ++ leBytes 1 new ++ leBytes 1 cause
      ++ leBytes 1 (c.get R.PLY_PLYSTAT_PARTNER))
    let c := c.when (old == roleHolder) (·.pulse 658)
    (c.when (new == roleHolder) (·.pulse 657)).flowsShown

/-- R608: the holder raises SERIAL; the lease runs from this instant. -/
def Chip.renew (c : Chip) : Chip :=
  let s := (c.ply.serial + 1) % 2 ^ 32
  let sent := ((s, c.sched.cyc) :: c.ply.sent).take 5
  { c with ply := { c.ply with serial := s, sent := sent } }.set R.PLY_LEASEAGE 0 0

/-- R626: in warm standby, each channel of a new holder starts at its next IRAP picture or GDR period. -/
def Chip.warmStart (c : Chip) : Chip :=
  c.when (c.on R.PLY_PLYSTAT_WARM) (fun c => c.each (c.egFlows (fun _ => true)) (fun c f =>
    match (c.egDef f).src with
    | .chan _ => c.setEg f { c.eg f with hold := some 0 }
    | _ => c))

/-- R610, R612: this device becomes the holder. -/
def Chip.becomeHolder (c : Chip) (cause : Nat) : Chip :=
  let c := (c.set R.PLY_PLYSTAT_TAKEEV 0 1).bump R.PLY_PLYCNT_TAKES 0
  let c := { c with ply := { c.ply with serial := c.ply.seen.getD c.ply.serial, sent := [], echo := none } }
  let c := { c with boot := { c.boot with roleOk := true } }
  (c.renew.setLease true).warmStart.setRole roleHolder cause

/-- R604, R610, R614: this device takes the Bobbin. Each flow starts with its first packet due after the take, except that a
partner's leg starts from the next Turn boundary of its plane. -/
def Chip.takeBobbin (c : Chip) (cause : Nat) : Chip :=
  let c := c.becomeHolder cause
  let legs := c.dualLeg && c.ply.legOut
  let c := c.each (List.range 4) (fun c p =>
    let now := c.ns (c.baseOf p) + 1
    if legs && c.running p then (c.setTx p 2 now).setTx p 1 (max (now + 1) (pulseNs (c.rateOf p) (c.turn p + 1)))
    else c.setTx p 1 now)
  { c with ply := { c.ply with legOut := false, legs := none, transfer := none, moved := [], failover := false } }

/-- R609: the device fences: LEASE and ACTIVE low, every send flow muted, FENCEEV, a fault at level 2. -/
def Chip.plyFence (c : Chip) (cause : Nat) (faulty : Bool) : Chip :=
  let c := (c.setLease false).set R.PLY_PLYSTAT_FENCEEV 0 1
  let c := (c.setTxAll 0).setRole roleFenced cause
  let c := c.when faulty (·.plyFault 2 4)
  { c with ply := { c.ply with transfer := none, moved := [], fenceAfter := false, want := false, join := [], joining := false,
                               legOut := false, legs := none, forward := [] } }.pulse 659

/-- R614, R615: this device becomes non-holder; it is not in step until its copies match. -/
def Chip.becomeOther (c : Chip) (cause : Nat) : Chip :=
  let c := (c.setLease false).setRole roleOther cause
  let c := c.setTxAll 0
  { c with ply := { c.ply with inStep := [], join := [], joining := false, legOut := false, legs := none },
           boot := { c.boot with roleOk := true } }.set R.PLY_PLYSTAT_INSTEP 0 0

/-- R631: INSTEP, with source 662 on a change. -/
def Chip.setInstep (c : Chip) (b : Bool) : Chip :=
  if c.on R.PLY_PLYSTAT_INSTEP = b then c else (c.setB R.PLY_PLYSTAT_INSTEP 0 b).pulse 662

/-- R618, R622: the non-holder is in step as a pair when it is in step on every running plane; never while path A is silent. -/
def Chip.stepShown (c : Chip) : Chip :=
  if c.role = roleOther then
    c.setInstep (c.on R.PLY_PLYSTAT_PATHA && !c.on R.PLY_PLYSTAT_WARM &&
      c.runningPlanes.all (fun p => tget false c.ply.inStep p && !tget false c.ply.pending p))
  else c

/-- R631: PARTNER. -/
def Chip.partnerShown (c : Chip) : Chip :=
  c.setB R.PLY_PLYSTAT_PARTNER 0 (c.on R.PLY_PLYSTAT_PATHA || c.on R.PLY_PLYSTAT_PATHB)

/-! ### Frames on path A (R605, R613) -/

/-- R605: the path A group. -/
def Chip.pathGroup (c : Chip) : Nat := c.get R.PLY_PLYCFG_GROUP

/-- R605, R613: a heartbeat or control frame leaves on path A, while the group is up. -/
def Chip.plySend (c : Chip) (type : Nat) (pay : List Byte) : Chip :=
  if c.grpUp c.pathGroup && !c.clk.dead then c.strandSend c.pathGroup type 0 pay false else c

/-- R612: RELEASE in heartbeats and words: from the release or its acknowledgement until X. -/
def Chip.releaseFlag (c : Chip) : Bool := c.ply.transfer.isSome && !c.ply.moved.contains c.refPlane

/-- R605: FLAGS of a heartbeat. -/
def Chip.plyFlags (c : Chip) : Nat :=
  let other := c.role != roleHolder
  b2n (!other) + 2 * b2n (other && c.ply.seen.isSome) + 4 * b2n (c.role == roleFenced)
    + 8 * c.get R.PLY_PLYCFG_PRIMARY + 16 * b2n (other && c.on R.PLY_PLYSTAT_INSTEP) + 32 * b2n c.releaseFlag

/-- R605, R608: SERIAL of a heartbeat: the lease serial of the holder, else the newest seen. -/
def Chip.plySerial (c : Chip) : Nat := if c.role = roleHolder then c.ply.serial else c.ply.seen.getD 0

/-- R605: HEARTBEAT_SEND. -/
def execHeartbeatSend (s : State) : Host.Outcome State Fault Refusal :=
  onChip (fun c =>
    if c.plyOn && c.role != roleSolo && c.grpUp c.pathGroup && !c.clk.dead then
      let pay := leBytes 4 c.ply.hbcnt ++ leBytes 1 c.plyFlags ++ leBytes 1 c.reactionLevel ++ leBytes 2 0
        ++ leBytes 4 c.plySerial ++ leBytes 4 (c.refNs % 2 ^ 32)
      (c.plySend 0x08 pay).when true (fun c => { c with ply := { c.ply with hbcnt := (c.ply.hbcnt + 1) % 2 ^ 32 } })
    else c) s

/-- One bit of the CRC-8 of R606. -/
def crc8Bit (c : BitVec 8) : BitVec 8 := if c.getLsbD 7 then (c <<< 1) ^^^ 0x07#8 else c <<< 1

/-- R606: CRC-8 with polynomial 0x07 and initial value 0. -/
def crc8 (l : List Byte) : Byte :=
  l.foldl (fun c b => crc8Bit (crc8Bit (crc8Bit (crc8Bit (crc8Bit (crc8Bit (crc8Bit (crc8Bit (c ^^^ b))))))))) 0#8

/-- R606: a path B word over its upper 24 bits. -/
def pathWord (top : Nat) : Word := BitVec.ofNat 32 (top * 256 + (crc8 (beBytes 3 top)).toNat)

/-- R606: PATHB_WORD_SEND. -/
def execPathbWordSend (s : State) : Host.Outcome State Fault Refusal :=
  onChip (fun c =>
    if c.plyOn && c.role != roleSolo && !c.clk.dead then
      let f := c.plyFlags
      let top := c.ply.word % 256 * 65536 + b2n (bit f 0) * 32768 + b2n (bit f 1) * 16384 + b2n (bit f 2) * 8192
        + b2n (bit f 5) * 4096 + c.plySerial % 16 * 256
      { c with ply := { c.ply with word := (c.ply.word + 1) % 256, wordOut := pathWord top } }
    else c) s

/-! ### The partner as heard (R605–R608, R611, R612, R614) -/

/-- R613, R614: the HELLO frame of this device. -/
def Chip.helloPayload (c : Chip) : List Byte :=
  let h := c.boot.header
  let signed := h ++ c.boot.table.flatten
  let signed := signed ++ List.replicate (leAt h 0x30 4 - signed.length) 0
  [0x01, 0x10, 0x11] ++ leBytes 4 0x1F ++ slice h 0x0A 2 ++ slice h 0x10 8 ++ (sha384 signed).take 16
    ++ leBytes 8 (c.get2 R.SEC_DEVSNLO R.SEC_DEVSNHI)

/-- R608: the non-holder sees the holder's serial; a new one restarts its wait. -/
def Chip.serialSeen (c : Chip) (s : Nat) : Chip :=
  if c.ply.seen = some s then c
  else { c with ply := { c.ply with seen := some s, seenAt := c.sched.cyc } }.set R.PLY_LEASEAGE 0 0

/-- R608: the partner echoes a serial that this holder sent within the last 20 ms. -/
def Chip.serialEcho (c : Chip) (q : Nat → Bool) : Chip :=
  match c.ply.sent.find? (fun e => q e.1 && decide (c.sched.cyc < e.2 + 16000000)) with
  | some e => { c with ply := { c.ply with echo := some e.1 } }
  | none => c

/-- R612: the partner's RELEASE: the holder takes it as the acknowledgement; a non-holder that has acknowledged cancels where it
clears before X. -/
def Chip.releaseHeard (c : Chip) (on : Bool) : Chip :=
  match c.ply.transfer with
  | some (x, ack) =>
    if c.ply.moved.contains c.refPlane then c
    else if c.role = roleHolder then c.when (on && !ack) (fun c => { c with ply := { c.ply with transfer := some (x, true) } })
    else c.when (!on) (fun c => { c with ply := { c.ply with transfer := none, moved := [] } })
  | none => c

/-- R611: a holder meets a second holder: each raises a fault at level 3, and the secondary fences. -/
def Chip.secondHolder (c : Chip) (was : Bool) : Chip :=
  let c := c.when (!was) (·.plyFault 3 6)
  c.when (!c.on R.PLY_PLYCFG_PRIMARY) (·.plyFence 3 true)

/-- R614: role resolution by what the partner says. -/
def Chip.resolveHeard (c : Chip) (holder fenced : Bool) : Chip :=
  if holder then c.becomeOther 0
  else if !fenced && c.on R.PLY_PLYCFG_PRIMARY then c.takeBobbin 0
  else c

/-- R605–R614: what both paths do with a valid heartbeat or word: the flags heard, whether its path has just come up, and how its
serial is matched. -/
def Chip.partnerHeard (c : Chip) (holder ack fenced release cameUp : Bool) (serial : Nat) (q : Nat → Bool) : Chip :=
  let was := bit c.ply.pflags 0
  let c := { c with ply := { c.ply with failover := c.ply.failover && !cameUp } }
  let c := if holder then c.when (c.role != roleHolder) (·.serialSeen serial) else c.when ack (·.serialEcho q)
  let c :=
    if c.role = roleResolving ∧ c.ply.resolveAt.isSome then c.resolveHeard holder fenced
    else if c.role = roleHolder ∧ holder = true ∧ ¬ c.ply.transfer.isSome then c.secondHolder was
    else if c.role = roleFenced ∧ holder = true ∧ cameUp = true then c.becomeOther 3
    else c
  c.releaseHeard release

/-- R605, R607, R616, R622: HEARTBEAT_RX. -/
def execHeartbeatRx (h : Heartbeat) (s : State) : Host.Outcome State Fault Refusal :=
  onChip (fun c =>
    if !c.plyOn || c.role == roleSolo then c
    else
      let b := h.payload
      let flags := leAt b 4 1
      let first := c.ply.runA == 0
      let c := { c with ply := { c.ply with lastA := c.sched.cyc, runA := min 3 (c.ply.runA + 1) } }
      let up := c.ply.runA == 3 && !c.on R.PLY_PLYSTAT_PATHA
      let c := c.when up (fun c => ({ c with ply := { c.ply with silentA := false } }.set R.PLY_PLYSTAT_PATHA 0 1).partnerShown)
      -- R614: HELLO is exchanged on the first valid heartbeat
      let c := c.when first (fun c => c.plySend 0x0A c.helloPayload)
      -- R616: skew to the partner
      let skew := sdiff 32 (leAt b 12 4 + c.get R.PLY_PLYCFG_PATHDLY) (h.at_ % 2 ^ 32)
      let bad := decide (5000 < skew.natAbs)
      let c := c.set R.PLY_SKEW 0 (toField 32 skew)
      let c := c.when (bad && !c.ply.skewBad) (fun c => ((c.set R.PLY_PLYSTAT_SKEWFLT 0 1).plyFault 0 3).pulse 663)
      let c := { c with ply := { c.ply with skewBad := bad } }
      let serial := leAt b 8 4
      let c := c.partnerHeard (bit flags 0) (bit flags 1) (bit flags 2) (bit flags 5) up serial (fun x => x == serial)
      let c := { c with ply := { c.ply with pflags := flags, plevel := leAt b 5 1 % 8 } }
      if c.role = roleHolder then c.setInstep (bit flags 4) else c.stepShown) s

/-- R606: whether a word is valid after the last one. -/
def Chip.wordValid (c : Chip) (w : Word) (badCell : Bool) : Bool :=
  !badCell && pathWord (w.toNat / 256) == w && (match c.ply.wordRx with
    | some n => w.toNat / 2 ^ 24 == (n + 1) % 256
    | none => true)

/-- R606, R607: PATHB_WORD_RX. -/
def execPathbWordRx (w : Word) (badCell : Bool) (s : State) : Host.Outcome State Fault Refusal :=
  onChip (fun c =>
    if !c.plyOn || c.role == roleSolo then c
    else
      let valid := c.wordValid w badCell
      let n := w.toNat
      let c := { c with ply := { c.ply with wordRx := if badCell then c.ply.wordRx else some (n / 2 ^ 24) } }
      if !valid then { c with ply := { c.ply with runB := 0 } }
      else
        let c := { c with ply := { c.ply with lastB := c.sched.cyc, runB := min 3 (c.ply.runB + 1) } }
        let up := c.ply.runB == 3 && !c.on R.PLY_PLYSTAT_PATHB
        let c := c.when up (fun c => ({ c with ply := { c.ply with silentB := false } }.set R.PLY_PLYSTAT_PATHB 0 1).partnerShown)
        let low := bits n 19 16
        let serial := match c.ply.seen with
          | some s0 => (s0 + (low + 16 - s0 % 16) % 16) % 2 ^ 32
          | none => low
        let c := c.partnerHeard (bit n 23) (bit n 22) (bit n 21) (bit n 20) up serial (fun x => x % 16 == low)
        let f := c.ply.pflags
        let f := f / 64 * 64 + bits f 4 3 * 8 + b2n (bit n 23) + 2 * b2n (bit n 22) + 4 * b2n (bit n 21) + 32 * b2n (bit n 20)
        { c with ply := { c.ply with pflags := f } }) s

/-- R607: a silent path goes down: a path fault while the other is up, and fail-over when none is. -/
def Chip.pathDown (c : Chip) (pathB : Bool) : Chip :=
  let c := if pathB then { c with ply := { c.ply with silentB := true, runB := 0, wordRx := none } }.set R.PLY_PLYSTAT_PATHB 0 0
    else { c with ply := { c.ply with silentA := true, runA := 0 } }.set R.PLY_PLYSTAT_PATHA 0 0
  let c := c.partnerShown.stepShown
  if c.on R.PLY_PLYSTAT_PARTNER then ((c.set R.PLY_PLYSTAT_PATHFLT 0 1).plyFault 0 1).pulse 660
  else
    let c := { c with ply := { c.ply with failover := true, pflags := 0, plevel := 0 } }
    ((c.set R.PLY_PLYSTAT_FAILEV 0 1).pulse 656).when (c.role == roleHolder) (·.setInstep false)

/-- R607: PATH_SILENCE: 300 µs without a valid heartbeat or word. -/
def execPathSilence (pathB : Bool) (s : State) : Host.Outcome State Fault Refusal :=
  onChip (fun c =>
    let up := if pathB then c.on R.PLY_PLYSTAT_PATHB else c.on R.PLY_PLYSTAT_PATHA
    let last := if pathB then c.ply.lastB else c.ply.lastA
    if !c.plyOn || !up || decide (c.sched.cyc < last + 240000) then c
    else c.pathDown pathB) s

/-! ### The lease (R608–R610, R614) -/

/-- R608: the holder is healthy: each running plane has passed a boundary within its last 2 Turns, the service watchdog has not
expired, and no level-4 reaction runs. -/
def Chip.healthy (c : Chip) : Bool :=
  c.runningPlanes.all (fun p =>
    let (a, b) := nominalTurn (c.rateOf p)
    decide (c.sched.cyc ≤ (c.plane p).t + 2 * a / max 1 b + 640)) &&
  c.boot.warmAfterFlush != some 2 && !c.clk.dead && decide (c.reactionLevel < 4)

/-- R608: LEASE_RENEW: every 5 ms while the holder is healthy. -/
def execLeaseRenew (s : State) : Host.Outcome State Fault Refusal :=
  onChip (fun c =>
    let due : Bool := match c.ply.sent with
      | e :: _ => decide (e.2 + 4000000 ≤ c.sched.cyc)
      | [] => true
    if c.plyOn && c.role == roleHolder && due && c.healthy then c.renew else c) s

/-- R609: LEASE_EXPIRY: 20 ms after the most recent renewal the holder fences. -/
def execLeaseExpiry (s : State) : Host.Outcome State Fault Refusal :=
  onChip (fun c =>
    let due : Bool := match c.ply.sent with
      | e :: _ => decide (e.2 + 16000000 ≤ c.sched.cyc)
      | [] => true
    if c.plyOn && c.role == roleHolder && due then c.plyFence 3 true else c) s

/-- R610: BOBBIN_TAKE: fail-over, not fenced, and 22 ms since the last renewal seen. -/
def execBobbinTake (s : State) : Host.Outcome State Fault Refusal :=
  onChip (fun c =>
    if c.plyOn && c.role == roleOther && c.ply.failover && decide (c.ply.seenAt + 17600000 ≤ c.sched.cyc) then c.takeBobbin 1
    else c) s

/-- R614 step 5: ROLE_RESOLVE_TIMEOUT. -/
def execRoleResolveTimeout (s : State) : Host.Outcome State Fault Refusal :=
  onChip (fun c =>
    let due : Bool := match c.ply.resolveAt with
      | some t => decide (t + 17600000 ≤ c.sched.cyc)
      | none => false
    let silent := c.ply.runA == 0 && c.ply.runB == 0
    if c.plyOn && c.role == roleResolving && due && silent then c.takeBobbin 0 else c) s

/-! ### HELLO (R625, R626) -/

/-- R626: the pair begins, or ends, warm standby. -/
def Chip.setWarm (c : Chip) (b : Bool) : Chip :=
  let c := c.when (b && !c.on R.PLY_PLYSTAT_WARM) (·.pulse 664)
  (c.setB R.PLY_PLYSTAT_WARM 0 b).stepShown

/-- R612, R625, R626: PLY_HELLO: the partner's HELLO: version, capabilities and image identity. -/
def execPlyHello (payload : List Byte) (s : State) : Host.Outcome State Fault Refusal :=
  onChip (fun c =>
    if !c.plyOn || leAt payload 0 1 != 1 then c
    else
      let lo := leAt payload 1 1
      let hi := leAt payload 2 1
      let caps := leAt payload 3 4
      let v := min hi 0x11
      let common := decide (max lo 0x10 ≤ v)
      let mine := c.helloPayload
      let same := slice payload 7 2 == slice mine 7 2 && slice payload 17 16 == slice mine 17 16
      let both := caps &&& (if v = 0x10 then 0x17 else 0x1F)
      let warm := !common || !same || !bit both 1 || (!bit both 3 && c.tables.pair.decFeeds)
      let c := c.when (!common) (·.set R.PLY_PLYSTAT_VERFAIL 0 1)
      let c := (c.set R.PLY_PARTINFO_MAJOR 0 (if common then v / 16 else 0)).set R.PLY_PARTINFO_MINOR 0 (if common then v % 16 else 0)
      let c := (c.set R.PLY_PARTINFO_DETCLASS 0 (leAt payload 7 2)).set2 R.PLY_PARTGENLO R.PLY_PARTGENHI 0 (leAt payload 9 8)
      let c := { c with ply := { c.ply with hello := if common then some (v, both) else none, caps := caps } }
      c.setWarm warm) s

/-! ### Transfers (R612, R628, R629) -/

/-- R608, R612, R626: the holder may transfer: the partner is in step, not fenced, and echoes a serial of this lease; in warm
standby, it is heard and not fenced. -/
def Chip.mayTransfer (c : Chip) : Bool :=
  c.role == roleHolder && c.on R.PLY_PLYSTAT_PARTNER && !bit c.ply.pflags 2 && c.ply.transfer.isNone &&
    (c.on R.PLY_PLYSTAT_WARM || (c.on R.PLY_PLYSTAT_INSTEP && c.ply.echo.isSome))

/-- R28, R612: the first boundary of the reference plane at least `ahead` ns from now, from Turn n on. -/
def Chip.refBoundary (c : Chip) (ahead : Nat) : Nat → Nat → Nat
  | 0, n => n
  | k + 1, n => if c.refNs + ahead ≤ c.refTime n then n else c.refBoundary ahead k (n + 1)

/-- R612: PLY_RELEASE: the holder that is to transfer names X; or the partner receives the frame and acknowledges it if it came
500 µs before X. -/
def execPlyRelease (rx : Option (BitVec 40)) (s : State) : Host.Outcome State Fault Refusal :=
  onChip (fun c =>
    match rx with
    | none =>
      if !c.ply.want then c
      else
        let c := { c with ply := { c.ply with want := false } }
        if c.plyOn && c.mayTransfer then
          let x := c.refBoundary 1000000 16 (c.turn c.refPlane + 1)
          ({ c with ply := { c.ply with transfer := some (x, false), moved := [] } }).plySend 0x0A ([0x02] ++ leBytes 5 x)
        else if c.ply.fenceAfter then c.plyFence 4 false
        else c
    | some x =>
      let n := ((c.turn c.refPlane : Int) + sdiff 40 x.toNat (c.turn c.refPlane)).toNat
      if c.plyOn && c.role == roleOther && c.ply.transfer.isNone && decide (c.refNs + 500000 ≤ c.refTime n) then
        { c with ply := { c.ply with transfer := some (n, true), moved := [], acked := some n } }
      else c) s

/-- R612 step 3: RELEASE_ACK_DEADLINE: 500 µs before X without an acknowledgement the holder cancels. -/
def execReleaseAckDeadline (s : State) : Host.Outcome State Fault Refusal :=
  onChip (fun c =>
    match c.ply.transfer with
    | some (x, false) =>
      if c.role = roleHolder ∧ c.refTime x ≤ c.refNs + 500000 then
        let c := { c with ply := { c.ply with transfer := none, moved := [] } }
        c.when c.ply.fenceAfter (·.plyFence 4 false)
      else c
    | _ => c) s

/-- R612: the Turn whose boundary is plane p's transfer instant: the first at or after X. -/
def Chip.transferTurn (c : Chip) (p x : Nat) : Nat :=
  if p = c.refPlane then x
  else
    let r := c.rateOf p
    ceilDiv (c.refTime x * r.1) (1000000000 * max 1 r.2)

/-- R612 steps 4 to 7: TRANSFER_INSTANT of plane p: packets due from Xₚ on are sent by the new holder; at X the Bobbin moves. -/
def execTransferInstant (p : Fin 4) (s : State) : Host.Outcome State Fault Refusal :=
  onChip (fun c =>
    match c.ply.transfer with
    | some (x, true) =>
      let n := c.transferTurn p.val x
      if c.ply.moved.contains p.val ∨ sdiff 40 (c.turn p.val) n < 0 ∨ !c.plyOn then c
      else
        let swapped := c.ply.moved.contains c.refPlane
        let wasHolder := (c.role == roleHolder) != swapped
        let c := { c with ply := { c.ply with moved := p.val :: c.ply.moved } }
        let c :=
          if p.val = c.refPlane then
            if wasHolder then
              let c := (c.setLease false).setRole roleOther 2
              { c with ply := { c.ply with inStep := c.runningPlanes.map (fun q => (q, true)), seen := some c.ply.serial,
                                           seenAt := c.sched.cyc } }
            else (c.becomeHolder 2).setInstep true
          else c
        let c := c.setTx p.val (c.plyMode (if wasHolder then roleOther else roleHolder)) (pulseNs (c.rateOf p.val) n)
        if c.runningPlanes.all (fun q => c.ply.moved.contains q) then
          let c := { c with ply := { c.ply with transfer := none, moved := [], acked := none } }
          c.when (c.ply.fenceAfter && wasHolder) (·.plyFence 4 false)
        else c
    | _ => c) s

/-- R628, R629: PLY_TAKEREQ: the primary-designate asks for the Bobbin; the holder answers with RELEASE. -/
def execPlyTakereq (rx : Bool) (s : State) : Host.Outcome State Fault Refusal :=
  onChip (fun c =>
    if rx then
      if c.plyOn && c.role == roleHolder && c.ply.transfer.isNone && !c.on R.PLY_PLYSTAT_WARM then
        { c with ply := { c.ply with want := true } }
      else c
    else if c.plyOn && c.on R.PLY_PLYCFG_PRIMARY && c.role == roleOther && c.on R.PLY_PLYCFG_REVERT && !c.ply.hold
        && decide (120 ≤ c.get R.PLY_PLYSTAT_CLEAN) && !c.on R.PLY_PLYSTAT_WARM then c.plySend 0x0A [0x07]
    else c) s

/-- R615, R623: the first boundary of plane p at least 2 Turns from now. -/
def Chip.twoAhead (c : Chip) (p : Nat) : Nat := (c.turn p + (if c.sched.cyc = (c.plane p).t then 2 else 3)) % 2 ^ 40

/-! ### Legs (R623) -/

/-- R623: PLY_LEGS: the holder names the reference boundary at which a leg moves; or the frame is received. -/
def execPlyLegs (rx : Option (BitVec 40 × Bool)) (s : State) : Host.Outcome State Fault Refusal :=
  onChip (fun c =>
    match rx with
    | none =>
      let now := match c.ply.legs with
        | some (_, b) => b
        | none => c.ply.legOut
      let want := c.on R.PLY_PLYSTAT_INSTEP
      if c.plyOn && c.dualLeg && c.role == roleHolder && now != want then
        let n := c.twoAhead c.refPlane
        ({ c with ply := { c.ply with legs := some (n, want) } }).plySend 0x0A ([0x03] ++ leBytes 5 n ++ leBytes 1 (b2n want))
      else c
    | some (x, b) =>
      if c.plyOn && c.dualLeg && c.role == roleOther then
        { c with ply := { c.ply with legs := some (((c.turn c.refPlane : Int) + sdiff 40 x.toNat (c.turn c.refPlane)).toNat, b) } }
      else c) s

/-- R623: whether plane p has reached the boundary at or after reference Turn x. -/
def Chip.legReached (c : Chip) (x p : Nat) : Bool := decide (0 ≤ sdiff 40 (c.turn p) (c.transferTurn p x))

/-- R623: legs at a boundary of plane p: a non-holder that has left step stops its leg; a named boundary moves it. -/
def Chip.legBoundary (c : Chip) (p : Nat) : Chip :=
  let here := pulseNs (c.rateOf p) (c.turn p)
  let c := c.when (c.role == roleOther && !c.on R.PLY_PLYSTAT_INSTEP) (·.setTx p 0 here)
  match c.ply.legs with
  | some (x, b) =>
    if c.legReached x p then
      let mode := { c with ply := { c.ply with legOut := b } }.plyMode c.role
      let c := c.setTx p mode here
      if c.runningPlanes.all (c.legReached x) then { c with ply := { c.ply with legOut := b, legs := none } } else c
    else c
  | none => c

/-! ### Joining (R614, R615) -/

/-- R614, R615: PLY_JOIN: a non-holder whose planes have started sends a request; the holder grants one; or the grant arrives. -/
def execPlyJoin (rx : Option JoinMsg) (s : State) : Host.Outcome State Fault Refusal :=
  onChip (fun c =>
    if !c.plyOn then c
    else match rx with
      | none =>
        let started := (List.range 4).all (fun p => !c.on R.SEQ_PLANECFG_EN p || c.running p)
        if c.role = roleOther ∧ c.ply.joining = false ∧ started = true ∧ c.on R.PLY_PLYSTAT_PATHA = true then
          ({ c with ply := { c.ply with joining := true } }).plySend 0x0A [0x06, 0x00]
        else c
      | some .request =>
        if c.role = roleHolder then
          let ts := (List.range 4).map (fun p => if c.running p then c.twoAhead p else 0)
          ({ c with ply := { c.ply with join := ts } }).plySend 0x0A ([0x06, 0x01] ++ ts.flatMap (leBytes 5))
        else c
      | some (.grant ts) =>
        let c := c.when (c.role == roleFenced) (·.becomeOther 3)
        if c.role = roleOther then { c with ply := { c.ply with join := ts, joining := true } } else c) s

/-- R615: at a refresh Turn both devices code a refresh picture on every channel of the plane. -/
def Chip.joinBoundary (c : Chip) (p : Nat) : Chip :=
  if c.plyOn && c.ply.join.getD p 0 == c.turn p && c.turn p != 0 then
    c.each ((List.range 96).filter (fun ch => (c.chanDef ch).plane == p)) (fun c ch => c.orderRefreshNow ch)
  else c

/-- R622, R628: a boundary of the reference plane counts as clean, or ends the run of clean Turns. -/
def Chip.cleanBoundary (c : Chip) : Chip :=
  let clean := c.on R.PLY_PLYSTAT_INSTEP && !c.on R.PLY_PLYSTAT_WARM && !c.ply.skewBad && decide (c.reactionLevel < 2)
    && decide (c.ply.plevel < 2)
  if clean then c.bump R.PLY_PLYSTAT_CLEAN 0 else c.set R.PLY_PLYSTAT_CLEAN 0 0

/-- R615, R622, R623: what a boundary of plane p does to the pair. -/
def Chip.plyBoundary (c : Chip) (p : Nat) : Chip :=
  if c.plyOn then
    let c := (c.joinBoundary p).legBoundary p
    c.when (p == c.refPlane) (·.cleanBoundary)
  else c

/-! ### Agreement and state copy (R617, R619–R622) -/

/-- R617: the 12 bytes of an agreement record. -/
def agreeBytes (r : AgreeRec) : List Byte :=
  leBytes 2 (r.kind * 4096 + r.ctx) ++ leBytes 2 r.line ++ leBytes 4 r.turn ++ leBytes 4 r.crc.toNat

/-- R613, R617: PLY_AGREE: the records that wait leave, oldest first, in frames of up to 340; or the partner's records are received. -/
def execPlyAgree (rx : Option (List AgreeRec)) (s : State) : Host.Outcome State Fault Refusal :=
  onChip (fun c =>
    match rx with
    | none =>
      let l := c.ply.mine.reverse
      if c.plyOn && !l.isEmpty then
        ({ c with ply := { c.ply with mine := (l.drop 340).reverse } }).plySend 0x0A ([0x05] ++ (l.take 340).flatMap agreeBytes)
      else c
    | some l => if c.plyOn then { c with ply := { c.ply with agree := (l ++ c.ply.agree).take 65536 } } else c) s

/-- R619: the state image of plane p is written in the snapshot slot of its body, at its place in DRAM; the holder sends it. -/
def Chip.snapshot (c : Chip) (p : Nat) (image : List Byte) : Chip :=
  let c := match c.tables.pair.snap[p]? with
    | some a => c.dramWrite a image
    | none => c
  let c := { c with ply := { c.ply with images := tset (0, []) c.ply.images p (c.turn p, image) } }
  if c.plyOn && c.role == roleHolder then { c with ply := { c.ply with copyOut := tset 0 c.ply.copyOut p 1 } } else c

/-- R532, R620: the sequence-fold mark of a copy frame's data from the context that section 0x0F names, and the context's sequence number
one on. -/
def Chip.copyMark (c : Chip) (turn : Nat) (data : List Byte) : Word × Chip :=
  let n := c.tables.pair.cvu
  let v := c.cvu n
  (cvuMark n { v with seqFold := true } 0 turn data, c.setCvu n { v with seq := (v.seq + 1) % 2 ^ 32 })

/-- R620: STATE_COPY_FRAME: the holder sends the next frame of an image; or a frame is received, whose CRC (`ok`) and mark are checked. -/
def execStateCopyFrame (rx : Option (List Byte × Bool)) (s : State) : Host.Outcome State Fault Refusal :=
  onChip (fun c =>
    match rx with
    | none =>
      match (List.range 4).find? (fun p => decide (0 < tget 0 c.ply.copyOut p)) with
      | some p =>
        if c.plyOn && c.role == roleHolder then
          let off := tget 0 c.ply.copyOut p - 1
          let (turn, image) := tget (0, []) c.ply.images p
          let data := (image.drop off).take 4032
          let (v, c) := c.copyMark (turn % 2 ^ 32) data
          let pay := leBytes 1 p ++ leBytes 3 0 ++ leBytes 4 turn ++ leBytes 4 off ++ leBytes 4 image.length ++ data
            ++ leBytes 4 v.toNat
          let next := if image.length ≤ off + 4032 then 0 else off + 4033
          ({ c with ply := { c.ply with copyOut := tset 0 c.ply.copyOut p next } }).plySend 0x09 pay
        else c
      | none => c
    | some (pay, ok) =>
      if c.plyOn && c.role == roleOther then
        let p := leAt pay 0 1 % 4
        let turn := leAt pay 4 4
        let data := (pay.drop 16).take (pay.length - 20)
        let (v, c) := c.copyMark turn data
        let x : CopyIn := tget {} c.ply.copies p
        let x := if x.turn = turn then x else { turn := turn }
        let good := ok && leAt pay (pay.length - 4) 4 == v.toNat
        let x := { x with parts := x.parts ++ [(leAt pay 8 4, data)], total := leAt pay 12 4, bad := x.bad || !good }
        { c with ply := { c.ply with copies := tset {} c.ply.copies p x } }
      else c) s

/-- R620: the bytes of a copy whose frames are all there, in order. -/
def copyBytes (x : CopyIn) : Option (List Byte) :=
  let all := x.parts.foldl (fun (a : Option (List Byte)) e => a.bind (fun l => if e.1 = l.length then some (l ++ e.2) else none)) (some [])
  if x.bad then none else all.filter (fun l => l.length == x.total && !l.isEmpty)

/-- R619: the records of an image: KIND and ID, and the bytes. `fuel` bounds their number. -/
def imageRecs : Nat → List Byte → List ((Nat × Nat) × List Byte)
  | 0, _ => []
  | n + 1, l =>
    if l.length < 8 then []
    else
      let len := leAt l 4 4
      ((leAt l 0 1, leAt l 2 2), (l.drop 8).take len) :: imageRecs n (l.drop (8 + len))

/-- R621: KIND and ID of the records in which two images differ, or that one of them lacks. -/
def copyDiffers (a b : List Byte) : List (Nat × Nat) :=
  let x := imageRecs a.length a
  let y := imageRecs b.length b
  ((x ++ y).map (·.1)).eraseDups.filter (fun k => decide (x.lookup k ≠ y.lookup k))

/-- R621: an adopted kind of a copy's record is taken. -/
def Chip.adopt (c : Chip) : CopyData → Chip
  | .rate ch k bi bp qi qp =>
    (c.setChan ch { c.chan ch with k := k, betaIntra := bi, betaInter := bp, qIntra := qi, qInter := qp }).set R.RATE_CARRY ch
      (toField 32 (satI 32 k))
  | .statmux l => c.each l (fun c e => c.setChan e.1 { c.chan e.1 with alloc := some e.2 })
  | .spindle addr bytes => c.dramWrite addr bytes
  | .lane n k poc since gdr refresh =>
    let s := c.laneSlot n k
    let ch := c.slotChan n k
    let c := c.setLaneSlot n k { s with since := since, refresh := [], cur := { s.cur with poc := poc, gdrIdx := gdr } }
    c.when refresh (·.orderRefreshNow ch)
  | .egress f seq roc ccs muted =>
    let x := c.eg f
    let x := ccs.foldl (fun (x : EgFlow) e => { x with pids := tset {} x.pids e.1 { x.pid e.1 with cc := e.2 } }) x
    (c.setEg f { x with seq := seq, roc := roc, cmdMuted := muted }).egStatus f
  | .member f joined run => (c.setB R.ING_FLOWSTAT_JOINED f joined).set R.ING_FLOWSTAT_REPEATRUN f run
  | .audio n joined run => (c.setB R.AUD_PORTSTAT_JOINED n joined).set R.AUD_PORTSTAT_HOLDRUN n run
  | .cvu ctx state => c.dramWrite (tget {} c.tables.cvus ctx).save state

/-- R619, R621: a record of plane p that differs: it is counted and raises a fault; a repeat source, a DPB or a forwarded command keeps
the plane out of step. -/
def Chip.recDiffers (c : Chip) (p : Nat) (k : Nat × Nat) : Chip :=
  let c := (((c.set R.PLY_PLYSTAT_DIGFLT 0 1).bump R.PLY_PLYCNT_MISM 0).plyFault 1 2).pulse 661
  if k.1 = 0x08 ∨ k.1 = 0x0B then { c with ply := { c.ply with pending := tset false c.ply.pending p true } } else c

/-- R619–R622: a usable copy of plane p against the device's own image: its adopted kinds are taken as `recs` reads them; each record that
differs is recorded; the SRTP flows of key slots that differ are muted. -/
def Chip.takeCopy (c : Chip) (p : Nat) (own copy : List Byte) (recs : List CopyRec) : Chip :=
  let diff := copyDiffers own copy
  let c := c.each (recs.filter (fun r => ((imageRecs copy.length copy).lookup (r.kind, r.id)).isSome)) (fun c r => c.adopt r.data)
  let c := c.each diff (fun c k => c.recDiffers p k)
  { c with ply := { c.ply with inStep := tset false c.ply.inStep p diff.isEmpty,
                               keyMute := (diff.filter (fun k => k.1 == 0x0A)).map (·.2) } }

/-- R620–R622: STATE_COPY_COMPLETE on plane p: a usable copy of the Turn of the device's own last image is adopted and compared; another
is not used. -/
def execStateCopyComplete (p : Fin 4) (recs : List CopyRec) (s : State) : Host.Outcome State Fault Refusal :=
  onChip (fun c =>
    if !c.plyOn || c.role != roleOther || c.on R.PLY_PLYSTAT_WARM then c
    else
      let p := p.val
      let x : CopyIn := tget {} c.ply.copies p
      let (turn, own) := tget (0, []) c.ply.images p
      let got := if x.turn = turn % 2 ^ 32 then copyBytes x else none
      let c := { c with ply := { c.ply with copies := tset {} c.ply.copies p {}, pending := tset false c.ply.pending p false } }
      match got with
      | none => ({ c with ply := { c.ply with inStep := tset false c.ply.inStep p false } }.plyFault 0 5).stepShown
      | some copy => (c.takeCopy p own copy recs).flowsShown.stepShown) s

end Sys2Proof.Machine
end

