-- ==== Sys2Proof/Machine/Collector.lean ====
section
/-! DEFINITION. The fault collector, its pins and records, reactions, targeted self-tests, column handovers, shedding and the
proof-test rotation (R539–R563). -/

namespace Sys2Proof.Machine

/-! ### Records (R539, R559) -/

/-- R559: word 0 of the record of a fault at the level applied. -/
def recWord0 (m : FaultMsg) (level : Nat) : Nat :=
  2 ^ 31 + level * 2 ^ 28 + m.cls % 16 * 2 ^ 24 + m.domain % 32 * 2 ^ 19 + m.block % 32 * 2 ^ 14 + m.cause % 64 * 2 ^ 8 +
    b2n m.plane.isSome * 4 + (m.plane.getD 0) % 4

/-- Address of word w of record i: 0 the first record, 1 the second (R559). -/
def recAddr (i w : Nat) : Nat := 0x1400100 + 0x10 * i + 4 * w

/-- R539: whether record i is held and names the BLOCK, UNIT, CAUSE and TCLASS of a fault. -/
def Chip.recSame (c : Chip) (i : Nat) (m : FaultMsg) : Bool :=
  let w0 := (c.rd (recAddr i 0)).toNat
  let w1 := (c.rd (recAddr i 1)).toNat
  let w3 := (c.rd (recAddr i 3)).toNat
  bit w0 31 && bits w0 18 14 == m.block % 32 && bits w0 13 8 == m.cause % 64 && bits w1 11 0 == m.unit % 4096 &&
    bits w3 27 24 == m.tclass % 16

/-- R539: whether record i is held. -/
def Chip.recHeld (c : Chip) (i : Nat) : Bool := bit (c.rd (recAddr i 0)).toNat 31

/-- R559: record i takes a fault. -/
def Chip.recPut (c : Chip) (i : Nat) (m : FaultMsg) (level : Nat) (esc : Bool) : Chip :=
  let c := c.wr (recAddr i 0) (BitVec.ofNat 32 (recWord0 m level))
  let turn := if m.plane.isSome then m.turn % 65536 else 0
  let c := c.wr (recAddr i 1) (BitVec.ofNat 32 (turn * 65536 + m.unit % 4096))
  let c := c.wr (recAddr i 2) (BitVec.ofNat 32 m.ns)
  c.wr (recAddr i 3) (BitVec.ofNat 32 (b2n esc * 2 ^ 31 + m.tclass % 16 * 2 ^ 24))

/-- R539, R564: a fault at level 1 or above is latched, counted as a repeat of a latched record, or counted in FURTHER. -/
def Chip.record (c : Chip) (m : FaultMsg) (level : Nat) (esc : Bool) : Chip :=
  if c.recSame 0 m then c.bump R.SAF_FIRSTREC3_REPEAT 0
  else if c.recSame 1 m then c.bump R.SAF_SECONDREC3_REPEAT 0
  else if !c.recHeld 0 then (c.recPut 0 m level esc).pulse 128
  else if !c.recHeld 1 then (c.recPut 1 m level esc).pulse 129
  else c.bump R.SAF_FURTHER 0

/-- R539: FIRSTREC_CLEAR: VALID of the first record is cleared, and the second record moves into its place. -/
def Chip.firstrecClear (c : Chip) : Chip :=
  c.each (List.range 4) (fun c w => (c.wr (recAddr 0 w) (c.rd (recAddr 1 w))).wr (recAddr 1 w) 0)

/-- R539: FIRSTREC_CLEAR. -/
def execFirstrecClear (s : State) : Host.Outcome State Fault Refusal := onChip (·.firstrecClear) s

/-- R558: SAF_CNTCLR clears FURTHER and L0CNT. -/
def execSafCntclr (v : Word) (s : State) : Host.Outcome State Fault Refusal :=
  onChip (fun c => if bit v.toNat 31 then (c.set R.SAF_FURTHER 0 0).set R.SAF_L0CNT 0 0 else c) s

/-! ### Reactions and pins (R541, R543, R560) -/

/-- R544: the reaction that runs in a domain: the one of highest level, and of those the latest. -/
def Chip.topReact (c : Chip) (d : Nat) : Option Reaction :=
  (c.saf.reacts.filter (fun r => r.dom == d)).foldl (fun best r =>
    match best with
    | some b => if b.level ≤ r.level then some r else some b
    | none => some r) none

/-- R558: the highest level of a reaction that runs. -/
def Chip.safLevel (c : Chip) : Nat := c.saf.reacts.foldl (fun m r => max m r.level) 0

/-- R558, R560: DOMSTAT of a domain and PINSTAT.LEVEL follow the reactions that run. -/
def Chip.domShown (c : Chip) (d : Nat) : Chip :=
  let (l, b, k, n) := match c.topReact d with
    | some r => (r.level, r.block, r.cause, r.repeats)
    | none => (0, 0, 0, 0)
  let c := (c.set R.SAF_DOMSTAT_LEVEL d l).set R.SAF_DOMSTAT_BLOCK d b
  let c := (c.set R.SAF_DOMSTAT_CAUSE d k).set R.SAF_DOMSTAT_REPEATS d (min 65535 n)
  c.set R.SAF_PINSTAT_LEVEL 0 c.safLevel

/-- R541: the reactions that satisfy a condition end. -/
def Chip.endReacts (c : Chip) (q : Reaction → Bool) : Chip :=
  let gone := c.saf.reacts.filter q
  ({ c with saf := { c.saf with reacts := c.saf.reacts.filter (fun r => !q r) } }).each gone (fun c r => c.domShown r.dom)

/-- R541: reactions of 1 ms that are over at the present cycle end. -/
def Chip.reactTick (c : Chip) : Chip :=
  if c.saf.reacts.any (fun r => r.ends == .ms) then
    c.endReacts (fun r => r.ends == .ms && decide (r.endAt ≤ c.sched.cyc))
  else c

/-- R543: whether timing reactions may release: every running plane lies within 640 cycles with a valid base. -/
def Chip.timingOk (c : Chip) : Bool :=
  c.runningPlanes.all (fun p => !errExceeds (c.plane p).err && c.on R.NET_TBSTAT_VALID (c.baseOf p))

/-- R543: timing reactions release once every plane is in time. -/
def Chip.timingRelease (c : Chip) : Chip :=
  if c.saf.reacts.any (fun r => r.ends == .release && r.cls == 2) && c.timingOk then
    c.endReacts (fun r => r.ends == .release && r.cls == 2)
  else c

/-- R543: SAFEREL: level-3 reactions release, a timing reaction only while every plane is in time; SAFE_STATE returns low once none
runs at level 3 or 4. Ignored until the first plane has started. -/
def Chip.saferel (c : Chip) : Chip :=
  if c.on R.GLB_BOOTSTAT_INAIR then
    let ok := c.timingOk
    let c := c.endReacts (fun r => r.ends == .release && (r.cls != 2 || ok))
    c.when (decide (c.safLevel < 3)) (·.set R.SAF_PINSTAT_SAFE_STATE 0 0)
  else c

/-- R543: FAULTACK: FAULT_N returns high, while no reaction at level 3 or 4 runs. Ignored until the first plane has started. -/
def Chip.faultack (c : Chip) : Chip :=
  c.when (c.on R.GLB_BOOTSTAT_INAIR && decide (c.safLevel < 3)) (·.set R.SAF_PINSTAT_FAULT_N 0 1)

/-- R543: SAFEREL. -/
def execSaferel (s : State) : Host.Outcome State Fault Refusal := onChip (·.saferel) s

/-- R543: FAULTACK. -/
def execFaultack (s : State) : Host.Outcome State Fault Refusal := onChip (·.faultack) s

/-- R79 step 14, R543: at the first plane start the pins that no running reaction holds are released. -/
def Chip.pinsRelease (c : Chip) : Chip :=
  let l := c.safLevel
  let c := c.when (decide (l < 2)) (·.set R.SAF_PINSTAT_FAULT_N 0 1)
  c.when (decide (l < 3)) (·.set R.SAF_PINSTAT_SAFE_STATE 0 0)

/-- R541, R543, R564, R612: a reaction begins: the pins, the interrupts, and in a pair the call for a transfer; level 4 halts as
steps 2 to 5 of R388 say, with RSTCAUSE 0x3. -/
def Chip.react (c : Chip) (r : Reaction) : Chip :=
  let c := ({ c with saf := { c.saf with reacts := c.saf.reacts ++ [r] } }).domShown r.dom
  let c := c.when (decide (2 ≤ r.level)) (fun c => (c.set R.SAF_PINSTAT_FAULT_N 0 0).pulse 130)
  let c := c.when (decide (3 ≤ r.level)) (·.set R.SAF_PINSTAT_SAFE_STATE 0 1)
  let c := c.when (r.level == 3) (·.pulse 131)
  let c := c.when (r.level == 3 && c.plyOn && c.role == roleHolder && decide (c.ply.plevel < 3)) (fun c =>
    { c with ply := { c.ply with want := true } })
  c.when (r.level == 4 && !c.clk.dead) (fun c =>
    let c := c.rootPins.requestSwitch 0 1 (c.glitchFree 0)
    { c with boot := { c.boot with warmAfterFlush := some 3 } })

/-! ### The columns in service (R236, R546, R562) -/

/-- The loaded plan column that physical column x serves. -/
def Chip.serves (c : Chip) (x : Nat) : Option Nat := (c.planCol x).filter c.loaded

/-- R561: physical column x is retired. -/
def Chip.colRetired (c : Chip) (x : Nat) : Bool := bit (c.get R.SAF_RETIRED) x

/-- R550: physical column x is in an overlap. -/
def Chip.inOverlap (c : Chip) (x : Nat) : Bool := c.saf.overlaps.any (fun o => o.2.1 == x || o.2.2 == x)

/-- A test of physical column x is queued, running or waiting for a place. -/
def Chip.hasTest (c : Chip) (x : Nat) : Bool := (c.saf.tests ++ c.saf.waiting).any (fun t => t.col == x)

/-- Physical column x is chosen as the destination of a move at a coming boundary. -/
def Chip.promised (c : Chip) (x : Nat) : Bool := c.saf.moves.any (fun e => e.2.any (fun m => m.dest == some x))

/-- R552: physical column x is in service and serves no work. -/
def Chip.colFree (c : Chip) (x : Nat) : Bool :=
  !c.colRetired x && (c.serves x).isNone && !c.hasTest x && !c.inOverlap x && !c.saf.leaving.contains x && !c.promised x

/-- R21, R552: the lowest-numbered free spare, of C14 and C15. -/
def Chip.freeSpare (c : Chip) : Option Nat := [14, 15].find? c.colFree

/-- R561: shed rank of plan column pc. -/
def Chip.shedRank (c : Chip) (pc : Nat) : Nat := bits (c.get R.SAF_SHEDRANK (pc / 8)) (4 * (pc % 8) + 3) (4 * (pc % 8))

/-- R552: plan columns in descending rank, and among equal ranks the lower first. -/
def Chip.byRank (c : Chip) (l : List Nat) : List Nat :=
  (List.range 16).reverse.flatMap (fun k => (List.range 16).filter (fun pc => c.shedRank pc == k && l.contains pc))

/-- R546: the plane of physical column x. -/
def Chip.testPlane (c : Chip) (x : Nat) : Option Nat :=
  match (c.serves x).bind c.colPlane with
  | some p => some p
  | none => match (tget none c.saf.served x).bind c.colPlane with
    | some p => some p
    | none => c.runningPlanes.head?

/-- R562: STATE of physical column x. -/
def Chip.colState (c : Chip) (x : Nat) : Nat :=
  let t := c.saf.tests.find? (fun t => t.col == x && t.running)
  if c.colRetired x then 6
  else match t with
    | some t => if t.kind = .proof then 3 else 5
    | none =>
      if c.inOverlap x then 7
      else if (c.saf.tests ++ c.saf.waiting).any (fun t => t.col == x && t.kind != .proof) then 4
      else match c.serves x with
        | some pc => if pc = x then 0 else 2
        | none => if 14 ≤ x then 1 else 0

/-- R561, R562: COLSTAT and STQ follow the columns and the queue. -/
def Chip.colsShown (c : Chip) : Chip :=
  let c := c.each (List.range 16) (fun c x =>
    let s := c.serves x
    let c := (c.set R.SAF_COLSTAT_STATE x (c.colState x)).setB R.SAF_COLSTAT_PVALID x s.isSome
    c.set R.SAF_COLSTAT_PCOL x (s.getD 0))
  let run := c.saf.tests.find? (fun t => t.running)
  let c := (c.set R.SAF_STQ_COUNT 0 c.saf.tests.length).setB R.SAF_STQ_RUNNING 0 run.isSome
  c.set R.SAF_STQ_COL 0 ((run.map (·.col)).getD 0)

/-! ### Targeted self-tests (R546–R548) -/

/-- R547: the patterns that a cause calls for. -/
def testSet (m : FaultMsg) : TestSet :=
  if m.block = blkLane then (if m.cause = 1 ∨ m.cause = 2 then .laneBist else if m.cause = 5 then .laneMarch else .full)
  else if m.block = blkSpn then
    match m.cause with
    | 1 => .padMarch
    | 2 => .storeMarch
    | 3 | 4 | 5 | 6 | 9 => .engineBist
    | 8 => .loopback
    | _ => .full
  else if m.block = blkSeq then (if m.tclass = 1 then .laneBist else if m.tclass = 2 then .engineBist else .full)
  else .full

/-- R545: a test runs the union of the patterns of its causes. -/
def SelfTest.join (t : SelfTest) (k : TestSet) : SelfTest :=
  { t with kind := .fault, sets := if t.sets.contains k then t.sets else t.sets ++ [k] }

/-- R541, R545, R546: a faulty column is to leave service, once, and its test is queued; false where the queue is full. -/
def Chip.withdraw (c : Chip) (x : Nat) (k : TestSet) : Chip × Bool :=
  let leaving := if (c.serves x).isSome ∧ ¬ c.saf.leaving.contains x then c.saf.leaving ++ [x] else c.saf.leaving
  let c := { c with saf := { c.saf with leaving := leaving } }
  let upd (t : SelfTest) : SelfTest := if t.col = x then t.join k else t
  if c.hasTest x then
    ({ c with saf := { c.saf with tests := c.saf.tests.map upd, waiting := c.saf.waiting.map upd } }, true)
  else
    let t : SelfTest := { col := x, kind := .fault, sets := [k] }
    if c.saf.tests.length < 8 then ({ c with saf := { c.saf with tests := c.saf.tests ++ [t] } }, true)
    else (({ c with saf := { c.saf with waiting := c.saf.waiting ++ [t] } }).bump R.SAF_STQ_ESCAL 0, false)

/-- R546: tests that wait for a place enter the queue as places free. -/
def Chip.refill (c : Chip) : Chip :=
  let n := 8 - c.saf.tests.length
  { c with saf := { c.saf with tests := c.saf.tests ++ c.saf.waiting.take n, waiting := c.saf.waiting.drop n } }

/-- R546: a SELFTEST at its effective Turn queues the test of the column that serves plan column pc; its RESULT. -/
def Chip.queueSelftest (c : Chip) (pc : Nat) : Chip × Nat :=
  match c.physCol pc with
  | none => (c, 0x24)
  | some x =>
    if 8 ≤ c.saf.tests.length then (c, 0x14)
    else
      (({ c with saf := { c.saf with tests := c.saf.tests ++ [({ col := x, kind := .command, sets := [.full] } : SelfTest)] } }).colsShown, 0)

/-- R545, R547: SELFTEST_PATTERNS_END: the patterns of the running test end. -/
def execSelftestPatternsEnd (fail : Bool) (s : State) : Host.Outcome State Fault Refusal :=
  onChip (fun c =>
    let upd (t : SelfTest) : SelfTest := if t.running then { t with ended := true, failed := t.failed || fail } else t
    { c with saf := { c.saf with tests := c.saf.tests.map upd } }) s

/-- R548, R236: physical column x is retired, until power-on reset. -/
def Chip.retire (c : Chip) (x : Nat) : Chip :=
  let c := c.setB ⟨R.SAF_RETIRED.addr, 0, x, x⟩ 0 true
  let c := c.when (c.physCol x == some x) (·.setPhysCol x none)
  c.pulse 133

/-- R548, R557: the verdict of a test: a fail retires the column; the pass of a fault's test is a transient, and the ninth in 24 h
retires it; the pass of a proof test starts PTAGE afresh. -/
def Chip.verdict (c : Chip) (t : SelfTest) : Chip :=
  let x := t.col
  let c := { c with saf := { c.saf with tests := c.saf.tests.filter (fun u => !u.running) } }
  let c := (c.set R.SAF_COLSTAT_LASTV x (if t.failed then 2 else 1)).pulse 132
  let c :=
    if t.failed then c.retire x
    else if t.kind = .fault then
      let c := c.bump R.SAF_COLSTAT_TRANS24 x
      c.when (decide (9 ≤ c.get R.SAF_COLSTAT_TRANS24 x)) (·.retire x)
    else if t.kind = .proof then c.set R.SAF_COLSTAT_PTAGE x 0
    else c
  let c := c.when (t.kind == .proof) (·.bump R.SAF_PTSTAT_VISITS 0)
  let c := match t.spare with
    | some (pc, _) => c.when (pc != x && !c.colRetired x) (fun c =>
        { c with saf := { c.saf with returns := c.saf.returns ++ [(pc, x)] } })
    | none => c
  (c.endReacts (fun r => r.dom == x && r.ends == .verdict)).refill

/-- R548: TRANSIENT_AGE_OUT: a transient of column x is 24 h old. -/
def execTransientAgeOut (col : Fin 16) (s : State) : Host.Outcome State Fault Refusal :=
  onChip (fun c => c.drop R.SAF_COLSTAT_TRANS24 col.val) s

/-! ### Collecting (R539, R541, R544) -/

/-- R541, R584: when a reaction at a level ends; that of a D2 or D3 grant ends with the warm reset that closes the session. -/
def Chip.reactEnd (c : Chip) (m : FaultMsg) (level : Nat) : ReactEnd :=
  if level = 4 ∨ (m.block = blkSec ∧ m.cause = 7) then .reset
  else if level = 3 then .release
  else if level = 2 ∧ m.domain < 16 ∧ c.hasTest m.domain = true then .verdict
  else match m.plane with
    | some p => if c.running p then .turn else .ms
    | none => .ms

/-- R443, R59: a fault that the collector takes is logged and traced. -/
def Chip.faultNoted (c : Chip) (m : FaultMsg) (level : Nat) : Chip :=
  let w0 := recWord0 m level
  let c := c.trace 5 (m.plane.getD 0) 0 w0
  c.logEvent { kind := 1, words := [w0, m.turn, m.unit, m.ns, m.tclass] }

/-- R539, R541, R544–R546: one fault reaches the collector. -/
def Chip.collect (c : Chip) (m : FaultMsg) : Chip :=
  if m.level = 0 then (c.bump R.SAF_L0CNT 0).faultNoted m 0
  else if c.saf.tests.any (fun t => t.running && t.col == m.domain) then
    let upd (t : SelfTest) : SelfTest := if t.running then { t with failed := true } else t
    { c with saf := { c.saf with tests := c.saf.tests.map upd } }
  else
    let top := c.topReact m.domain
    if top.any (fun r => r.block == m.block && r.cause == m.cause) then
      -- a repeat of the running reaction
      let upd (r : Reaction) : Reaction := if top = some r then { r with repeats := r.repeats + 1 } else r
      let c := ({ c with saf := { c.saf with reacts := c.saf.reacts.map upd } }).domShown m.domain
      (c.record m m.level false).faultNoted m m.level
    else
      let esc := top.isSome
      let level := match top with
        | some r => min 4 (max m.level (r.level + 1))
        | none => m.level
      let leaves := decide (2 ≤ level) && decide (m.domain < 16) && !c.colRetired m.domain
      let (c, queued) := if leaves then c.withdraw m.domain (testSet m) else (c, true)
      let level := if queued then level else min 4 (level + 1)
      let c := (c.record m level (esc || !queued)).faultNoted m level
      let r : Reaction := { dom := m.domain, level := level, cls := m.cls, block := m.block, cause := m.cause, plane := m.plane,
                            ends := c.reactEnd m level, endAt := c.sched.cyc + 800000 }
      c.react r

/-- R539: FAULT_COLLECT: the oldest fault on its way reaches the collector. -/
def execFaultCollect (s : State) : Host.Outcome State Fault Refusal :=
  onChip (fun c =>
    match c.saf.inbox with
    | [] => c
    | m :: rest => (({ c with saf := { c.saf with inbox := rest } }).collect m).colsShown) s

/-! ### The tables of a variant (R16, R86, R90) -/

/-- R86: tables with those of a delta written over them. -/
def mergeTables (b d : SkeinTables) : SkeinTables :=
  { sk := d.sk.foldl (fun t e => tabSet regReset t e.1 e.2) b.sk,
    streams := toverlay {} b.streams d.streams,
    flows := toverlay {} b.flows d.flows,
    chans := toverlay {} b.chans d.chans,
    kernels := toverlay {} b.kernels d.kernels,
    lib := toverlay 0 b.lib d.lib,
    consts := toverlay 0 b.consts d.consts,
    params := b.params.filter (fun x => !d.params.any (fun y => y.engine == x.engine)) ++ d.params,
    decs := toverlay {} b.decs d.decs,
    rends := toverlay {} b.rends d.rends,
    coefs := toverlay [] b.coefs d.coefs,
    convs := toverlay {} b.convs d.convs,
    surfaces := toverlay {} b.surfaces d.surfaces,
    ports := toverlay {} b.ports d.ports,
    tbs := toverlay {} b.tbs d.tbs,
    egs := toverlay {} b.egs d.egs,
    rxs := toverlay {} b.rxs d.rxs,
    ptps := toverlay {} b.ptps d.ptps,
    netPorts := toverlay {} b.netPorts d.netPorts,
    svc := if d.svc = {} then b.svc else d.svc,
    moves := toverlay {} b.moves d.moves,
    cvus := toverlay {} b.cvus d.cvus,
    rethread := toverlay [] b.rethread d.rethread,
    tests := toverlay {} b.tests d.tests,
    mgmtSlots := if d.mgmtSlots = [] then b.mgmtSlots else d.mgmtSlots,
    mgmtPorts := if d.mgmtPorts = [] then b.mgmtPorts else d.mgmtPorts,
    pair := if d.pair = {} then b.pair else d.pair,
    pmic := if d.pmic = {} then b.pmic else d.pmic,
    div6 := b.div6 || d.div6 }

/-- R94: the variant that plane p runs. -/
def Chip.variantOf (c : Chip) (p : Nat) : Nat := c.get R.GLB_VARIANT_CURRENT p

/-- R86: the delta of variant v for plane p; of the base image there is none. -/
def Chip.delta (c : Chip) (p v : Nat) : SkeinTables := if v = 0 then {} else tget {} c.variants (4 * v + p)

/-- R86: the tables of the base image with the delta of variant v for plane p. -/
def Chip.tablesAs (c : Chip) (p v : Nat) : SkeinTables := mergeTables (tget {} c.variants 0) (c.delta p v)

/-- R90: the tables of the variant that plane p runs once the present boundary has taken effect. -/
def Chip.tablesDue (c : Chip) (p : Nat) : SkeinTables :=
  let v : VarPend := tget {} c.varPend p
  if v.swapped ∧ v.turn = c.turn p then c.tablesAs p v.variant else c.tables

/-! ### Moving work between columns (R234, R549–R555) -/

/-- R90, R234: the words with which the plane's streams begin the first body on a column newly serving plan column pc, those of the
variant then in force, and the parameter MOVEs that its engines then await. A delta staged for a later boundary is not yet in the
shadow banks of these engines (R233). -/
def Chip.rethreadWords (c : Chip) (pc x : Nat) : Chip :=
  let p := (c.colPlane pc).getD 0
  let t := c.tablesDue p
  let l := tget [] t.rethread pc
  let c := c.each l (fun c (st, ws) =>
    let r := c.stream st
    c.setStream st { r with extra := r.extra ++ ws })
  let dst (w : DWord) : Option Nat := if slotOp w = 2 then
      (match (tget {} t.moves (slotArg w)).dst with
        | .pad e _ _ => some e
        | _ => none) else none
  let ends := (l.flatMap Prod.snd).filterMap dst
  let v : VarPend := tget {} c.varPend p
  let c := c.when (v.staged && !v.swapped) (fun c => { c with varPend := tset {} c.varPend p { v with staged := false } })
  c.each (List.range 12) (fun c k =>
    let n := 12 * x + k
    let e := c.engine n
    c.setEngine n { e with awaitParams := (ends.filter (· == 12 * pc + k)).length })

/-- R48, R234: the engines of physical column x receive a unit reset, and the targets of plan column pc stand idle, with no word on its way
to them. -/
def Chip.columnReset (c : Chip) (x pc : Nat) : Chip :=
  let c := c.each (List.range 12) (fun c k => (c.engineReset (12 * x + k)).setTarget (targetKey 2 (12 * pc + k)) {})
  let mine (k : Nat) : Bool := k == targetKey 1 pc || (k / 4096 == 2 && k % 4096 / 12 == pc)
  let c := { c with sched := { c.sched with arrivals := c.sched.arrivals.filter (fun e => !mine e.1) } }
  c.setTarget (targetKey 1 pc) {}

/-- R240: PLANE, PCOL and PVALID of the engines of physical column x. -/
def Chip.columnShown (c : Chip) (x : Nat) : Chip :=
  let s := c.serves x
  let p := (s.bind c.colPlane).getD 0
  c.each (List.range 12) (fun c k =>
    let c := (c.set R.SPN_SPNSTAT_PLANE (12 * x + k) p).set R.SPN_SPNSTAT_PCOL (12 * x + k) (s.getD 0)
    c.setB R.SPN_SPNSTAT_PVALID (12 * x + k) s.isSome)

/-- R236, R546: plan column pc goes from physical column a to b; the maps of spares show whether they serve. -/
def Chip.remap (c : Chip) (pc : Nat) (a b : Option Nat) : Chip :=
  let c := c.setPhysCol pc b
  let c := match a with
    | some x => ((c.when (decide (14 ≤ x) && !c.colRetired x) (·.setPhysCol x (some x))).columnShown x).laneRunning x
    | none => c
  match b with
  | some x =>
    let c := c.when (decide (14 ≤ x)) (·.setPhysCol x none)
    let c := { c with saf := { c.saf with served := tset none c.saf.served x (some pc) } }
    (c.columnShown x).laneRunning x
  | none => c

/-- R555: the digest bytes of a move; 0xFF for a column that is not there. -/
def moveBytes (a b : Option Nat) (pc kind : Nat) : List Byte :=
  leBytes 1 (a.getD 0xFF) ++ leBytes 1 (b.getD 0xFF) ++ leBytes 1 pc ++ leBytes 1 kind

/-- R555, R59, R564: a move is journaled and traced; KIND 2 and 3 are a shedding and a restoration. -/
def Chip.moveNoted (c : Chip) (pc : Nat) (a b : Option Nat) (kind : Nat) : Chip :=
  let p := (c.colPlane pc).getD 0
  let shed := kind == 2 || kind == 3
  let c := c.trace 4 p (a.getD 0xFF + 256 * b.getD 0xFF) 0
  let c := c.reelDevice (if shed then 3 else 2) p (c.turn p) (moveBytes a b pc kind)
  c.pulse (if shed then 134 else 135)

/-- R180: a channel that plan column pc leads resumes from the rate-control copy in DRAM, that of the last P2 that was completed. -/
def Chip.resumeRate (c : Chip) (pc ch : Nat) : Chip :=
  c.when ((c.leadSlot ch).1 == pc && c.rateCopy.any (fun e => e.1 == ch)) (fun c =>
    let k : ChanRate := tget {} c.rateCopy ch
    c.setChan ch { k with occ := (c.chan ch).occ })

/-- R161, R162, R180, R549: column x takes plan column pc over at once: guard rows until each channel's refresh picture, windows that are
still to be loaded, and rate control from its copy. -/
def Chip.takeOver (c : Chip) (pc a x : Nat) : Chip :=
  let c := (c.columnReset x pc).remap pc (some a) (some x)
  let c := c.each ((List.range 16).filter (fun k => c.slotOn pc k)) (fun c k =>
    let s := c.laneSlot pc k
    c.setLaneSlot pc k { s with cur := { s.cur with guard := true }, old := { s.old with guard := true }, window := [] })
  let c := c.each (c.planChans pc) (fun c ch => (c.resumeRate pc ch).orderRefreshNow ch)
  c.rethreadWords pc x

/-- R107, R139, R157, R182: a channel stands as at a plane start: its slots, its bitstream buffer and its rate-control state. -/
def Chip.chanReset (c : Chip) (ch : Nat) : Chip :=
  let c := c.each (c.slotsOf ch) (fun c s => c.setLaneSlot s.1 s.2 {})
  let c := { c with lanes := { c.lanes with nals := tset [] c.lanes.nals ch [], parts := tset [] c.lanes.parts ch [] } }
  let d := c.chanDef ch
  let c := c.setChan ch { betaIntra := d.betaIntra, betaInter := d.betaInter }
  { c with rateCopy := tset {} c.rateCopy ch {} }

/-- R553, R554: a restored channel starts as after a plane start, once none of its shares is shed. -/
def Chip.restartChan (c : Chip) (ch : Nat) : Chip :=
  if c.chanShed ch then c
  else
    let c := c.chanReset ch
    (c.set R.RATE_CURKB ch (c.startKb ch)).set R.RATE_CARRY ch 0

/-- R553: SHEDSTAT of plan column pc. -/
def Chip.setShed (c : Chip) (pc : Nat) (b : Bool) : Chip := c.setB ⟨R.SAF_SHEDSTAT.addr, 0, pc, pc⟩ 0 b

/-- R549–R554: a chosen move takes effect at the boundary. -/
def Chip.applyMove (c : Chip) (m : ColMove) : Chip :=
  let c := match m.from_ with
    | some a => { c with saf := { c.saf with leaving := c.saf.leaving.filter (· != a) } }
    | none => c
  let c := { c with saf := { c.saf with returns := c.saf.returns.filter (fun r => r.1 != m.pc) } }
  match m.kind, m.from_, m.dest with
  | .fault, some a, some x => (c.takeOver m.pc a x).moveNoted m.pc (some a) (some x) 0
  | .planned, some a, some x =>
    let c := ((c.columnReset x m.pc).remap m.pc (some a) (some x))
    let c := { c with saf := { c.saf with overlaps := c.saf.overlaps ++ [(m.pc, a, x)] } }
    (c.rethreadWords m.pc x).moveNoted m.pc (some a) (some x) 1
  | .shed, some a, _ =>
    let c := ((c.remap m.pc (some a) none).setShed m.pc true).moveNoted m.pc (some a) none 2
    c.flowsShown
  | .restore, _, some x =>
    let c := ((c.columnReset x m.pc).remap m.pc none (some x)).setShed m.pc false
    let c := (c.rethreadWords m.pc x).each (c.planChans m.pc) (·.restartChan)
    (c.moveNoted m.pc none (some x) 3).flowsShown
  | .back, some a, some x =>
    let c := { c with saf := { c.saf with tests := c.saf.tests.filter (fun t => !(t.col == x && t.kind == TestKind.proof)) } }
    let c := { c with saf := { c.saf with overlaps := c.saf.overlaps.filter (fun o => o.1 != m.pc) } }
    (c.takeOver m.pc a x).moveNoted m.pc (some a) (some x) 4
  | _, _, _ => c

/-- R552: a choice is added to those of plane p's next boundary. -/
def Chip.choose (c : Chip) (p : Nat) (m : ColMove) : Chip :=
  { c with saf := { c.saf with moves := tset [] c.saf.moves p (tget [] c.saf.moves p ++ [m]) } }

/-- R552 step 2: a proof test whose work a spare holds, that spare not promised to another: the test, plan column and spare. -/
def Chip.heldSpare (c : Chip) : Option (SelfTest × Nat × Nat) :=
  c.saf.tests.findSome? (fun t => match t.kind, t.spare with
    | .proof, some (pc, sp) => if c.physCol pc = some sp ∧ c.promised sp = false then some (t, pc, sp) else none
    | _, _ => none)

/-- R552 step 3: the plan column of lowest rank that a spare serves, ties to the higher number, if its rank is below that of pc. -/
def Chip.rankVictim (c : Chip) (pc : Nat) : Option (Nat × Nat) :=
  let l := c.byRank ((List.range 16).filter (fun v => v != pc && c.loaded v &&
    (match c.physCol v with
      | some x => decide (14 ≤ x) && !c.promised x && !c.saf.leaving.contains x
      | none => false)))
  match l.getLast? with
  | some v => if c.shedRank v < c.shedRank pc then (c.physCol v).map (fun x => (v, x)) else none
  | none => none

/-- R552: the choice for plan column pc, which physical column a leaves. -/
def Chip.chooseFor (c : Chip) (p pc a : Nat) : Chip :=
  match c.freeSpare with
  | some x => c.choose p ⟨pc, some a, some x, .fault⟩
  | none => match c.heldSpare with
    | some (t, pc', x) => (c.choose p ⟨pc', some x, some t.col, .back⟩).choose p ⟨pc, some a, some x, .fault⟩
    | none => match c.rankVictim pc with
      | some (v, x) => (c.choose p ⟨v, some x, none, .shed⟩).choose p ⟨pc, some a, some x, .fault⟩
      | none => c.choose p ⟨pc, some a, none, .shed⟩

/-- The loaded plan columns of plane p. -/
def Chip.planColsOf (c : Chip) (p : Nat) : List Nat := (List.range 16).filter (fun pc => c.colPlane pc == some p)

/-- R546, R550: where plan column pc goes back to: its own column once that is in service again, or a spare that has passed a
test. -/
def Chip.backTo (c : Chip) (pc : Nat) : Option Nat :=
  if c.colFree pc then some pc
  else (c.saf.returns.find? (fun r => r.1 == pc && c.colFree r.2)).map Prod.snd

/-- R550: plan columns of plane p go back by planned handover. -/
def Chip.chooseBack (c : Chip) (p : Nat) : Chip :=
  c.each (c.planColsOf p) (fun c pc =>
    match c.physCol pc, c.backTo pc with
    | some x, some y =>
      if x ≠ pc ∧ c.inOverlap x = false ∧ c.saf.leaving.contains x = false ∧
          (tget [] c.saf.moves p).all (fun m => m.pc != pc) = true then c.choose p ⟨pc, some x, some y, .planned⟩
      else c
    | _, _ => c)

/-- R546, R550, R556: with no test running, the first test whose column serves work of plane p gives that work to a free spare; a
visit for which none is free is skipped. -/
def Chip.chooseTest (c : Chip) (p : Nat) : Chip :=
  if c.saf.tests.any (fun t => t.running) then c
  else match c.saf.tests.find? (fun t => t.kind != TestKind.fault && t.spare.isNone && ((c.serves t.col).bind c.colPlane) == some p
      && !c.saf.leaving.contains t.col && !c.inOverlap t.col) with
    | none => c
    | some t => match c.serves t.col, c.freeSpare with
      | some pc, some x =>
        let upd (u : SelfTest) : SelfTest := if u = t then { u with spare := some (pc, x) } else u
        ({ c with saf := { c.saf with tests := c.saf.tests.map upd } }).choose p ⟨pc, some t.col, some x, .planned⟩
      | _, _ =>
        if t.kind = .proof then { c with saf := { c.saf with tests := c.saf.tests.filter (· != t) } } else c

/-- R554: shed plan columns of plane p are restored on their own column or a free spare. -/
def Chip.chooseRestore (c : Chip) (p : Nat) : Chip :=
  c.each (c.byRank ((c.planColsOf p).filter c.pcShed)) (fun c pc =>
    let own := if c.colFree pc then some pc else none
    match own.orElse (fun _ => c.freeSpare) with
    | some x => c.choose p ⟨pc, none, some x, .restore⟩
    | none => c)

/-- R549, R552: the choices at the start of the tail before plane p's next boundary. -/
def Chip.columnChoice (c : Chip) (p : Nat) : Chip :=
  let c := { c with saf := { c.saf with moves := tset [] c.saf.moves p [] } }
  let need := (c.planColsOf p).filter (fun pc => match c.physCol pc with
    | some x => c.saf.leaving.contains x
    | none => false)
  let c := c.each (c.byRank need) (fun c pc => match c.physCol pc with
    | some x => c.chooseFor p pc x
    | none => c)
  (((c.chooseBack p).chooseTest p).chooseRestore p).colsShown

/-- R546: a test that has not started may start now at a boundary of plane p. -/
def Chip.testReady (c : Chip) (p : Nat) (t : SelfTest) : Bool :=
  !t.running && (c.serves t.col).isNone && !c.inOverlap t.col && c.testPlane t.col == some p

/-- R546: with none running, the first test of the queue that can start at a boundary of plane p starts. -/
def Chip.testStart (c : Chip) (p : Nat) : Chip :=
  if c.saf.tests.any (fun t => t.running) then c
  else match c.saf.tests.findIdx? (c.testReady p) with
    | some i =>
      let t := c.saf.tests.getD i {}
      { c with saf := { c.saf with tests := listSet c.saf.tests i { t with running := true } } }
    | none => c

/-- R548: the verdict of a test whose patterns have ended, at a boundary of its plane. -/
def Chip.testVerdict (c : Chip) (p : Nat) : Chip :=
  match c.saf.tests.find? (fun t => t.running && t.ended) with
  | some t => if c.testPlane t.col = some p then c.verdict t else c
  | none => c

/-- R541, R543, R546, R548, R549: what a boundary of plane p does in the collector and to its columns. -/
def Chip.safBoundary (c : Chip) (p : Nat) : Chip :=
  let c := c.each (c.streamsOf p) (fun c st =>
    let r := c.stream st
    if r.extra.isEmpty then c else c.setStream st { r with extra := [] })
  let c := c.each (tget [] c.saf.moves p) (·.applyMove)
  let c := { c with saf := { c.saf with moves := tset [] c.saf.moves p [] } }
  let c := c.when (c.saf.reacts.any (fun r => r.ends == .turn && r.plane == some p)) (fun c =>
    c.endReacts (fun r => r.ends == .turn && r.plane == some p))
  (((c.timingRelease.testVerdict p).testStart p)).colsShown

/-- R550: OVERLAP_END: the last row of plan column pc leaves P4 of the outgoing column, which leaves service. -/
def execOverlapEnd (pc : Fin 16) (s : State) : Host.Outcome State Fault Refusal :=
  onChip (fun c =>
    ({ c with saf := { c.saf with overlaps := c.saf.overlaps.filter (fun o => o.1 != pc.val) } }).colsShown) s

/-! ### Proof-test rotation (R556, R557) -/

/-- R556: PROOF_TEST_VISIT: the visit that is due begins, or is skipped. -/
def execProofTestVisit (s : State) : Host.Outcome State Fault Refusal :=
  onChip (fun c =>
    match c.saf.visitAt with
    | none => c
    | some t =>
      if c.sched.cyc < t ∨ c.on R.SAF_PTSTAT_PAUSED = true then c
      else
        let x := c.get R.SAF_PTSTAT_NEXT
        let c := { c with saf := { c.saf with visitAt := some (t + 60000000000) } }
        let c := c.set R.SAF_PTSTAT_NEXT 0 ((x + 1) % 16)
        let busy := !c.saf.tests.isEmpty || c.colRetired x || c.inOverlap x || c.saf.leaving.contains x
        if busy || ((c.serves x).isSome && c.freeSpare.isNone) then c
        else ({ c with saf := { c.saf with tests := [({ col := x, kind := .proof, sets := [.full] } : SelfTest)] } }).colsShown) s

/-- R557: PTAGE_MINUTE: PTAGE counts a minute; OVERDUE is set once it has reached 40 for a column in service. -/
def execPtageMinute (s : State) : Host.Outcome State Fault Refusal :=
  onChip (fun c =>
    if c.sched.cyc < c.saf.minuteAt then c
    else
      let c := { c with saf := { c.saf with minuteAt := c.saf.minuteAt + 48000000000 } }
      let c := c.each (List.range 16) (fun c x => c.bump R.SAF_COLSTAT_PTAGE x)
      let late := (List.range 16).any (fun x =>
        let a := c.get R.SAF_COLSTAT_PTAGE x
        !c.colRetired x && decide (40 ≤ a ∧ a < 65535))
      c.when (late && !c.on R.SAF_PTSTAT_OVERDUE) (fun c => (c.set R.SAF_PTSTAT_OVERDUE 0 1).pulse 136)) s

end Sys2Proof.Machine
end

