-- ==== Sys2Proof/Machine/Variant.lean ====
section
/-! DEFINITION. The Skein's tables in force: SK registers, the base image and its variants, Spindle parameter banks, and the
clock gates that follow from them (R16, R86–R90, R232, R233, R387). -/

namespace Sys2Proof.Machine

/-! ### Tables (R16, R86) -/

/-- R16: the SK fields of a register take their bits of a word; no other field of it changes. -/
def Chip.putSk (c : Chip) (a : Nat) (w : Word) : Chip :=
  match regRowAt a with
  | some r =>
    let m := BitVec.ofNat 32 r.sk
    if r.sk = 0 then c else c.wr a ((c.rd a &&& ~~~m) ||| (w &&& m))
  | none => c

/-- R71, R232: tables of sections that have passed come into force. -/
def Chip.loadTables (c : Chip) (t : SkeinTables) : Chip :=
  let c := { c with tables := mergeTables c.tables t, variants := tset {} c.variants 0 (mergeTables (tget {} c.variants 0) t) }
  let c := { c with spn := { c.spn with lib := toverlay 0 c.spn.lib t.lib } }
  c.each t.sk (fun c e => c.putSk e.1 e.2)

/-- R240: PLANE, PCOL and PVALID of every engine. -/
def Chip.enginesShown (c : Chip) : Chip := c.each (List.range 16) (fun c x => c.columnShown x)

/-! ### Spindle parameters (R232, R233) -/

/-- R232, R233: parameter blocks of the engines of a plane, or of all, are written into a bank of the engines that serve them. -/
def Chip.writeParams (c : Chip) (l : List ParamBlock) (plane : Option Nat) (bank : Nat → Nat) : Chip :=
  c.each l (fun c b =>
    match c.physCol (b.engine / 12) with
    | some x =>
      let n := 12 * x + b.engine % 12
      if plane.isSome ∧ c.enginePlane n ≠ plane then c
      else c.setEngine n (padWrite (c.engine n) (bankBase (bank n)) b.bytes)
    | none => c)

/-- R233: the bank that is not active. -/
def Chip.shadowBank (c : Chip) (n : Nat) : Nat := 1 - c.get R.SPN_SPNSTAT_BANK n

/-- The engines that serve plane p. -/
def Chip.enginesOf (c : Chip) (p : Nat) : List Nat := (List.range 192).filter (fun n => c.enginePlane n == some p)

/-! ### Variants (R86–R90) -/

/-- R86, R588: the image holds a delta of variant v for plane p. -/
def Chip.hasDelta (c : Chip) (p v : Nat) : Bool := v != 0 && decide (c.delta p v ≠ {})

/-- R86: the tables of the base image with the deltas that the planes run. -/
def Chip.tablesNow (c : Chip) : SkeinTables :=
  (List.range 4).foldl (fun t p => mergeTables t (c.delta p (c.variantOf p))) (tget {} c.variants 0)

/-- R268: the coefficients that scaler k takes from a set of tables. -/
def coefOf (t : SkeinTables) (k : Nat) : List Int :=
  tget [] t.coefs (R.CMP_SCLCFG_COEF.read (tabGet regReset t.sk (R.CMP_SCLCFG_COEF.at k)))

/-- The enabled scalers of plane p. -/
def Chip.scalersOf (c : Chip) (p : Nat) : List Nat :=
  (List.range 24).filter (fun k => c.on R.CMP_SCLCFG_EN k && c.get R.CMP_SCLCFG_PLANE k == p)

/-- R268: the banks of plane p's scalers whose shadows are ready flip. -/
def Chip.flipCoefs (c : Chip) (p : Nat) : Chip := c.each (c.scalersOf p) (fun c k => c.flipBank k)

/-- R268: with the image loaded, every scaler's coefficients stand in its bank 0. -/
def Chip.loadCoefs (c : Chip) : Chip :=
  c.each ((List.range 24).filter (fun k => c.on R.CMP_SCLCFG_EN k)) (fun c k =>
    { c with cmp := { c.cmp with banks := tset [] c.cmp.banks (2 * k) (coefOf c.tables k) } })

/-- R16, R86, R233: plane p runs variant v from this instant: its tables, its SK fields and its parameter banks. -/
def Chip.setVariant (c : Chip) (p v : Nat) : Chip :=
  let old := (c.delta p (c.variantOf p)).sk.map Prod.fst
  let c := c.set R.GLB_VARIANT_CURRENT p v
  let new := (c.delta p v).sk.map Prod.fst
  let c := { c with tables := c.tablesNow }
  let c := c.each (old ++ new) (fun c a => c.putSk a (tabGet regReset c.tables.sk a))
  let c := c.each (c.enginesOf p) (fun c n =>
    if c.on R.SPN_SPNSTAT_SHADOWRDY n then
      (c.set R.SPN_SPNSTAT_BANK n (c.shadowBank n)).set R.SPN_SPNSTAT_SHADOWRDY n 0
    else c)
  ((c.flipCoefs p).trace 3 p v 0).enginesShown

/-- R233, R268: the blocks of variant v of plane p stand in the shadow banks of its engines, and the coefficients that it changes in
the shadow banks of its scalers. -/
def Chip.stageVariant (c : Chip) (p v : Nat) : Chip :=
  let l := if v = 0 then (tget {} c.variants 0).params else (c.delta p v).params
  let c := c.writeParams l (some p) c.shadowBank
  let c := c.each (c.enginesOf p) (fun c n => c.set R.SPN_SPNSTAT_SHADOWRDY n 1)
  let t := c.tablesAs p v
  c.each ((c.scalersOf p).filter (fun k => coefOf t k != c.sclCoef k)) (fun c k => c.stageCoef k (coefOf t k))

/-- R87, R233: VARIANT_STAGING_DONE: the delta of the pending switch of plane p stands in the shadow tables and banks. -/
def execVariantStagingDone (p : Fin 4) (s : State) : Host.Outcome State Fault Refusal :=
  onChip (fun c =>
    let v : VarPend := tget {} c.varPend p.val
    if c.on R.GLB_VARIANT_PENDVALID p.val ∧ v.staged = false then
      (c.stageVariant p.val v.variant) |> fun c =>
        { c with varPend := tset {} c.varPend p.val { v with staged := true } }
    else c) s

/-! ### Clock gates (R387, R587) -/

/-- R387: a decode lane serves an enabled context: a context that names it. -/
def Chip.dlUsed (c : Chip) (l : Nat) : Bool := (List.range 16).any (fun x => c.on R.DEC_DSCFG_EN x && c.get R.DEC_DSCFG_LANE x == l)

/-- R387: the units that GATE0 gates in a power state, one bit each. -/
def Chip.gate0 (c : Chip) (state : Nat) : Nat :=
  let off := decide (2 ≤ state)
  let col (x : Nat) : Bool := off || (state == 1 && (c.serves x).isNone)
  let cols := (List.range 16).foldl (fun g x => g + b2n (col x) * 2 ^ x) 0
  let dls := (List.range 4).foldl (fun g l => g + b2n (off || !c.dlUsed l) * 2 ^ (16 + l)) 0
  let cmp := (List.range 4).any (fun o => c.on R.CMP_OUTCFG_EN o) || (List.range 24).any (fun o => c.on R.CMP_SCLCFG_EN o)
  let aud := (List.range 48).any (fun n => c.on R.AUD_PORTCFG_EN n)
  let quads := (List.range 4).foldl (fun g q => g + b2n (state == 3 || !c.on R.NET_QUADCFG_EN q) * 2 ^ (22 + q)) 0
  cols + dls + b2n (off || !cmp) * 2 ^ 20 + b2n (off || !aud) * 2 ^ 21 + quads

/-- R387: the units that GATE1 gates in a power state. -/
def Chip.gate1 (c : Chip) (state : Nat) : Nat :=
  let strs := (List.range 16).foldl (fun g i =>
    g + b2n (state == 3 || !((List.range 4).any (fun k => c.on R.STR_GRPCFG_EN (4 * i + k)))) * 2 ^ i) 0
  (List.range 16).foldl (fun g i => g + b2n (state == 3 || !c.on R.DRAM_CHCFG_EN i) * 2 ^ (16 + i)) strs

/-- R387: the gates that a debug session has opened stay open. -/
def openGates (word lo : Nat) (l : List Nat) : Nat :=
  (List.range 32).foldl (fun g i => if l.contains (lo + i) then g else g + b2n (bit word i) * 2 ^ i) 0

/-- R387, R587: the gates follow the Skein and the power state, once an image has been loaded. -/
def Chip.gatesShown (c : Chip) : Chip :=
  if c.boot.complete then
    let s := c.get R.PWR_PWRSTAT_STATE
    (c.set R.CLK_GATE0 0 (openGates (c.gate0 s) 0 c.sec.gates)).set R.CLK_GATE1 0 (openGates (c.gate1 s) 32 c.sec.gates)
  else c

end Sys2Proof.Machine
end

