-- ==== Sys2Proof/Machine/Security.lean ====
section
/-! DEFINITION. Security: the key store, lifecycle states and fuses, debug sessions, and the debug port's test access
(R565–R584, R594–R602). -/

namespace Sys2Proof.Machine

/-! ### The key store (R572–R577) -/

/-- R599: PEND of a slot: a KEYLOAD or KEYCLEAR awaits its boundary. -/
def Chip.slotPend (c : Chip) (s : Nat) : Chip :=
  let waits := c.svc.cmds.any (fun p => match p.arg with
    | .keyClear k => k == s
    | .keyLoad => c.sec.pend.any (fun q => q.seq == p.seq && q.slot == s)
    | _ => false)
  c.setB R.SEC_KSSTAT_PEND s waits

/-- R334, R359: flows of a key slot show whether they are muted. -/
def Chip.slotFlows (c : Chip) (s : Nat) : Chip :=
  c.each (c.egFlows (fun f => c.on R.NET_EGCFG_SRTP f && (c.egDef f).keySlot == s)) (fun c f => c.egStatus f)

/-- R575: the content of a slot is zeroised; its generation stays. -/
def Chip.clearSlot (c : Chip) (s : Nat) : Chip :=
  let c := { c with sec := { c.sec with slots := tset {} c.sec.slots s {} } }
  ((c.set R.SEC_KSSTAT_TYPE s 0).set R.SEC_KSSTAT_LOADED s 0).slotFlows s

/-- R576, R577: a slot, its pending key and its generation are lost; a KEYLOAD that waits completes with 0x23 (R593). -/
def Chip.loseSlot (c : Chip) (s : Nat) : Chip :=
  let lost := c.sec.pend.filter (fun q => q.slot == s)
  let c := { c with sec := { c.sec with pend := c.sec.pend.filter (fun q => q.slot != s) } }
  let c := (c.clearSlot s).set R.SEC_KSGEN s 0
  let c := c.each lost (fun c q => c.finishSeq (some q.seq) 0x23)
  c.slotPend s

/-- The slots that hold, or wait for, anything. -/
def Chip.usedSlots (c : Chip) : List Nat :=
  (List.range 256).filter (fun s => c.on R.SEC_KSSTAT_LOADED s || c.get R.SEC_KSGEN s != 0 || c.on R.SEC_KSSTAT_PEND s)

/-- R576: every slot is zeroised, with ZEROISED and source 626. -/
def Chip.zeroise (c : Chip) : Chip :=
  ((c.each c.usedSlots (·.loseSlot)).set R.SEC_DBGSTAT_ZEROISED 0 1).pulse 626

/-- R575: a KEYLOAD writes its slot at its effective boundary; its RESULT. -/
def Chip.applyKeyload (c : Chip) (seq : Nat) : Chip × Nat :=
  match c.sec.pend.find? (fun q => q.seq == seq) with
  | some q =>
    let c := { c with sec := { c.sec with pend := c.sec.pend.filter (fun r => r.seq != seq),
                                          slots := tset {} c.sec.slots q.slot { key := q.key } } }
    let c := (c.set R.SEC_KSSTAT_TYPE q.slot q.type).set R.SEC_KSSTAT_LOADED q.slot 1
    (((c.set R.SEC_KSGEN q.slot q.gen).slotFlows q.slot).pulse 626, 0)
  | none => (c, 0x23)

/-- R577: KEY_STORE_CHECK: slots one of whose copies fails its check are zeroised, and a fault is sent. -/
def execKeyStoreCheck (bad : List (Fin 256)) (s : State) : Host.Outcome State Fault Refusal :=
  onChip (fun c => c.each bad (fun c k =>
    (((c.loseSlot k.val).set R.SEC_KSSTAT_KSFLT k.val 1).fault 3 4 26 blkSec 0x02 k.val none).pulse 627)) s

/-! ### Keys and fuses (R565, R567, R582) -/

/-- R594: the lifecycle state: 0 BLANK, 1 PROVISIONED, 2 DEPLOYED, 3 RMA. -/
def Chip.lcs (c : Chip) : Nat := c.get R.SEC_LCSTAT_LCS

/-- R595: the bytes of fuse row KHk. -/
def Chip.keyHash (c : Chip) (k : Nat) : List Byte := (List.range 12).flatMap (fun w => leBytes 4 (c.get R.SEC_KHASH (0x10 * k + w)))

/-- R567: KHk is programmed and not revoked. -/
def Chip.keyLive (c : Chip) (k : Nat) : Bool :=
  decide (k < 8) && bit (c.get R.SEC_LCSTAT_KVALID) k && !bit (c.get R.SEC_LCSTAT_KREVOKE) k

/-- R565: KHk holds role r: 0 image signing, 1 key packages, 2 debug tokens, 3 lifecycle requests. -/
def Chip.keyRole (c : Chip) (k r : Nat) : Bool := bit (c.get R.SEC_KROLE) (4 * k + r)

/-- R64, R565: a public key hashes to KHk, and KHk serves a role. -/
def Chip.keyOk (c : Chip) (k r : Nat) (pubkey : List Byte) : Bool :=
  c.keyLive k && c.keyRole k r && sha384 (slice pubkey 0 96) == c.keyHash k

/-- R595: DEVSN. -/
def Chip.devsn (c : Chip) : Nat := c.get2 R.SEC_DEVSNLO R.SEC_DEVSNHI

/-- R598: the bytes of the nonce. -/
def Chip.nonce (c : Chip) : List Byte := (List.range 8).flatMap (fun w => leBytes 4 (c.get R.SEC_NONCE w))

/-- R582: a nonce was read within the last 60 s. -/
def Chip.nonceFresh (c : Chip) : Bool := match c.sec.nonceAt with
  | some t => decide (c.sched.cyc ≤ t + 48000000000)
  | none => false

/-- R582: NONCE_READ: reading word 0 of the nonce window draws a fresh nonce. -/
def execNonceRead (s : State) : Host.Outcome State Fault Refusal :=
  onChip (fun c =>
    let (v, c) := c.draw
    let c := c.each (List.range 8) (fun c w => c.set R.SEC_NONCE w (v.toNat / 2 ^ (32 * w)))
    { c with sec := { c.sec with nonceAt := some c.sched.cyc } }) s

/-- R569, R582: a token or a request names this device and its nonce. -/
def Chip.headerOk (c : Chip) (t : List Byte) : Bool :=
  leAt t 0x08 8 == c.devsn && slice t 0x10 32 == c.nonce && c.nonceFresh

/-- R582, R585: the signature that stands after a public key at an offset verifies over bytes 0x00 to 0x8F. -/
def headerSigned (t : List Byte) (at_ : Nat) : Bool := ecdsaOk (slice t at_ 96) (slice t (at_ + 96) 96) (t.take 0x90)

/-- R597, R602: AUTHFAIL and its source. -/
def Chip.authFail (c : Chip) : Chip := (c.set R.SEC_DBGSTAT_AUTHFAIL 0 1).pulse 625

/-! ### Lifecycle (R569–R571) -/

/-- R565, R585: IK0–IK2 and KWK as PROVISION blows them. -/
def Chip.blowSecrets (c : Chip) (b : List Byte) : Chip :=
  let ik := (List.range 3).map (fun i => c.sec.ik.getD i 0 ||| leAt b (0x284 + 32 * i) 32)
  { c with sec := { c.sec with ik := ik, kwk := c.sec.kwk ||| leAt b 0x2E4 32 } }

/-- R570: IK0–IK2 and KWK blown to all ones. -/
def Chip.burnSecrets (c : Chip) : Chip :=
  { c with sec := { c.sec with ik := [2 ^ 256 - 1, 2 ^ 256 - 1, 2 ^ 256 - 1], kwk := 2 ^ 256 - 1 } }

/-- R570, R585: the fuse rows of PROVISION. -/
def Chip.blowProvision (c : Chip) (b : List Byte) : Chip :=
  let c := c.each (range' 1 8) (fun c k =>
    let h := slice b (0x100 + 48 * (k - 1)) 48
    let c := c.each (List.range 12) (fun c w => c.set R.SEC_KHASH (0x10 * k + w) (c.get R.SEC_KHASH (0x10 * k + w) ||| leAt h (4 * w) 4))
    c.when (h.any (· ≠ 0)) (fun c => c.setB ⟨R.SEC_LCSTAT_KVALID.addr, 0, 8 + k, 8 + k⟩ 0 true))
  (c.set R.SEC_KROLE 0 (c.get R.SEC_KROLE ||| leAt b 0x280 4)).blowSecrets b

/-- R570 steps 2 to 5: the Reel is flushed, RMA destroys the secrets, the fuse rows are blown, the LCS bit last, and a warm reset
with RSTCAUSE 0x4 follows. -/
def Chip.lcCarry (c : Chip) (q : LcRequest) : Chip :=
  let c := c.flushReel 9
  let c := match q with
    | .provision b => (c.blowProvision b).set R.SEC_LCSTAT_LCS 0 1
    | .deploy => c.set R.SEC_LCSTAT_LCS 0 2
    | .rma => c.zeroise.burnSecrets.set R.SEC_LCSTAT_LCS 0 3
  { c with sec := { c.sec with lc := none }, boot := { c.boot with warmAfterFlush := some 4 } }

/-! ### Sessions (R580, R582, R583) -/

/-- R597: the level granted. -/
def Chip.dbgLevel (c : Chip) : Nat := c.get R.SEC_DBGSTAT_LEVEL

/-- R597: REMAIN. -/
def Chip.remainShown (c : Chip) : Chip :=
  if c.dbgLevel = 0 then c else c.set R.SEC_DBGSTAT_REMAIN 0 (min 0x1FFFF (ceilDiv (c.sec.endAt - c.sched.cyc) 800000000))

/-- R580, R584: a level is granted for its duration. -/
def Chip.grantLevel (c : Chip) (level : Nat) : Chip :=
  let c := { c with sec := { c.sec with endAt := c.sched.cyc + c.sec.dur * 800000000 } }
  let c := (c.set R.SEC_DBGSTAT_LEVEL 0 level).set R.SEC_DBGSTAT_PENDING 0 0
  ((c.set R.SEC_DBGSTAT_PENDLVL 0 0).remainShown).pulse 624

/-- R583: the session ends: D1 returns to D0 at once; D2 and D3 end with a warm reset with RSTCAUSE 0x4. -/
def Chip.endSession (c : Chip) : Chip :=
  if c.dbgLevel = 0 ∧ c.on R.SEC_DBGSTAT_PENDING = false then c
  else
    let deep := decide (2 ≤ c.dbgLevel) || c.on R.SEC_DBGSTAT_PENDING
    let c := (c.set R.SEC_DBGSTAT_LEVEL 0 0).set R.SEC_DBGSTAT_REMAIN 0 0
    let c := ((c.set R.SEC_DBGSTAT_PENDING 0 0).set R.SEC_DBGSTAT_PENDLVL 0 0).pulse 624
    c.when deep (fun c => { c with boot := { c.boot with warmAfterFlush := some 4 } })

/-- R583: SESSION_EXPIRY: DURATION has elapsed. -/
def execSessionExpiry (s : State) : Host.Outcome State Fault Refusal :=
  onChip (fun c => if c.dbgLevel ≠ 0 ∧ c.sec.endAt ≤ c.sched.cyc then c.endSession else c) s

/-- R583: DEBUG_RELEASE. -/
def execDebugRelease (s : State) : Host.Outcome State Fault Refusal := onChip (·.endSession) s

/-- R582: LOCKOUT_EXPIRY: 60 s after it was set. -/
def execLockoutExpiry (s : State) : Host.Outcome State Fault Refusal :=
  onChip (fun c =>
    if c.on R.SEC_DBGSTAT_LOCKOUT ∧ c.sec.lockAt + 48000000000 ≤ c.sched.cyc then c.set R.SEC_DBGSTAT_LOCKOUT 0 0 else c) s

/-- R582: a token fails in cycle `now`; the third within 60 s sets LOCKOUT. -/
def Chip.tokenFail (c : Chip) (now : Nat) : Chip :=
  let fails := now :: c.sec.fails.filter (fun t => decide (now ≤ t + 48000000000))
  let lock := decide (3 ≤ fails.length)
  let c := { c with sec := { c.sec with fails := if lock then [] else fails, lockAt := if lock then now else c.sec.lockAt } }
  (c.when lock (·.set R.SEC_DBGSTAT_LOCKOUT 0 1)).authFail

/-- R582, R592, R598: DEBUG_TOKEN: the write of the last word submits a token; during a lockout, and in P3, it is refused. -/
def execDebugToken (t : List Byte) (s : State) : Host.Outcome State Fault Refusal :=
  onChip (fun c =>
    if c.on R.SEC_DBGSTAT_LOCKOUT ∨ c.get R.PWR_PWRSTAT_STATE = 3 then c.authFail
    else { c with sec := { c.sec with token := some t, tokenAt := c.sched.cyc } }) s

/-- R580, R582, R596: whether a token is accepted for the level it asks. In BLANK no token is needed: what is submitted names the
level and the duration alone. -/
def Chip.tokenOk (c : Chip) (t : List Byte) : Bool :=
  let level := leAt t 0 1
  let k := leAt t 1 1
  let dur := leAt t 4 4
  let cap := min 2 (c.get R.SEC_POLICY_DBGCAP)
  decide (1 ≤ level ∧ level ≤ 3) && decide (1 ≤ dur ∧ dur ≤ 86400) &&
    match c.lcs with
    | 0 => true
    | 3 => c.headerOk t && k == 0 && c.keyOk k 2 (slice t 0x30 96) && headerSigned t 0x30
    | l => decide (level < 3) && (l == 1 || decide (level < 2) || decide (level ≤ cap)) &&
        c.headerOk t && k != 0 && c.keyOk k 2 (slice t 0x30 96) && headerSigned t 0x30

/-! ### The test access port (R579) -/

/-- R662: the bits of IDCODE, bit 0 first. -/
def Chip.idcodeBits (c : Chip) : List Bool := (List.range 32).map (fun i => bit (c.rd 0).toNat i)

/-- R579: an instruction of the test access port that a level permits, what it shifts out, and the boundary cells it leaves. A level
that does not permit it leaves the port alone. -/
def Chip.jtag (c : Chip) (need : Nat) (ir : JtagIr) (out cells : List Bool) : Chip :=
  if c.dbgLevel < need then c else { c with sec := { c.sec with ir := ir, shifted := out, cells := cells } }

/-- R579: JTAG_IDCODE. -/
def execJtagIdcode (s : State) : Host.Outcome State Fault Refusal := onChip (fun c => c.jtag 0 .idcode c.idcodeBits c.sec.cells) s
/-- R579: JTAG_BYPASS: one bit, 0. -/
def execJtagBypass (s : State) : Host.Outcome State Fault Refusal := onChip (fun c => c.jtag 0 .bypass [false] c.sec.cells) s
/-- R579: SAMPLE_PRELOAD: the pins are sampled, and the boundary cells loaded. -/
def execSamplePreload (pins cells : List Bool) (s : State) : Host.Outcome State Fault Refusal :=
  onChip (fun c => c.jtag 1 .sample pins cells) s
/-- R579: EXTEST: the cells drive the pins, and the pins are captured. -/
def execExtest (pins cells : List Bool) (s : State) : Host.Outcome State Fault Refusal :=
  onChip (fun c => c.jtag 3 .extest pins cells) s
/-- R579: CLAMP: the cells drive the pins, with the bypass register between the ports. -/
def execClamp (s : State) : Host.Outcome State Fault Refusal := onChip (fun c => c.jtag 3 .clamp [false] c.sec.cells) s
/-- R579: HIGHZ: the pins are released, with the bypass register between the ports. -/
def execHighz (s : State) : Host.Outcome State Fault Refusal := onChip (fun c => c.jtag 3 .highz [false] c.sec.cells) s
/-- R579: INTEST: the cells drive the core, and its outputs are captured. -/
def execIntest (cells outs : List Bool) (s : State) : Host.Outcome State Fault Refusal :=
  onChip (fun c => c.jtag 3 .intest outs cells) s
/-- R579: SCAN_DUMP: the scan chains are shifted out. -/
def execScanDump (chain : List Bool) (s : State) : Host.Outcome State Fault Refusal :=
  onChip (fun c => c.jtag 3 .scanDump chain c.sec.cells) s
/-- R579: MEMORY_BIST_CONTROL: a control word goes in, and the result comes out. -/
def execMemoryBistControl (control result : List Bool) (s : State) : Host.Outcome State Fault Refusal :=
  onChip (fun c =>
    (c.jtag 3 .bist result c.sec.cells).when (decide (3 ≤ c.dbgLevel)) (fun c =>
      { c with sec := { c.sec with bist := control } })) s

/-! ### Debug control (R579, R584) -/

/-- R579: DEBUG_HALT: at D2 or D3 a Spindle or a service core is halted. -/
def execDebugHalt (u : DbgUnit) (s : State) : Host.Outcome State Fault Refusal :=
  onChip (fun c =>
    if c.dbgLevel < 2 then c
    else match u with
      | .spindle n =>
        let c := c.setEngine n.val { c.engine n.val with halted := true }
        { c with sec := { c.sec with haltedSpn := if c.sec.haltedSpn.contains n.val then c.sec.haltedSpn else n.val :: c.sec.haltedSpn } }
      | .core k => c.setCore k.val { c.core k.val with halted := true }) s

/-- R579, R584: DEBUG_STEP: a halted Spindle issues the next bundle of its kernel, and a halted core its next instruction. No
plane runs at D2 and D3, so a Spindle has no kernel; and the instructions of a service core are not steps of this model. The
unit stays halted. -/
def execDebugStep (_u : DbgUnit) (s : State) : Host.Outcome State Fault Refusal := onChip (fun c => c) s

/-- R579: DEBUG_RESUME. -/
def execDebugResume (u : DbgUnit) (s : State) : Host.Outcome State Fault Refusal :=
  onChip (fun c =>
    if c.dbgLevel < 2 then c
    else match u with
      | .spindle n =>
        let c := c.setEngine n.val { c.engine n.val with halted := false }
        { c with sec := { c.sec with haltedSpn := c.sec.haltedSpn.filter (· != n.val) } }
      | .core k => c.setCore k.val { c.core k.val with halted := false }) s

/-- R579, R387: DEBUG_GATE_OPEN: the gate of a unit, bit g of GATE0 and then GATE1, opens. -/
def execDebugGateOpen (g : Fin 64) (s : State) : Host.Outcome State Fault Refusal :=
  onChip (fun c =>
    if c.dbgLevel < 2 then c
    else
      let c := { c with sec := { c.sec with gates := if c.sec.gates.contains g.val then c.sec.gates else g.val :: c.sec.gates } }
      c.setB ⟨R.CLK_GATE0.addr + 4 * (g.val / 32), 0, g.val % 32, g.val % 32⟩ 0 false) s

end Sys2Proof.Machine
end

