-- ==== Sys2Proof/Machine/Image.lean ====
section
/-! DEFINITION. The checks of a Skein image, from its bytes (R61–R69, R83). -/

namespace Sys2Proof.Machine

/-- Codes of the section types of R66. -/
def sectionKnown (t : Nat) : Bool := decide (1 ≤ t ∧ t ≤ 0x11)

/-- R66: types that every image holds exactly once. -/
def sectionMandatory : List Nat := [0x01, 0x02, 0x03, 0x04, 0x05, 0x06, 0x07, 0x08, 0x09, 0x0C, 0x0E, 0x10, 0x11]

/-- R67: the early sections, in their order. -/
def sectionEarly : List Nat := [0x01, 0x02, 0x03, 0x09, 0x0E]

/-- R63: TYPE of a table entry. -/
def entryType (e : List Byte) : Nat := leAt e 0x00 1
/-- R63: INDEX of a table entry. -/
def entryIndex (e : List Byte) : Nat := leAt e 0x01 1
/-- R63: FLAGS of a table entry. -/
def entryFlags (e : List Byte) : Nat := leAt e 0x02 2
/-- R63: KEYID of a table entry. -/
def entryKeyid (e : List Byte) : Nat := leAt e 0x04 2
/-- R63: OFFSET of a table entry. -/
def entryOffset (e : List Byte) : Nat := leAt e 0x08 4
/-- R63: STORED_LEN of a table entry. -/
def entryStored (e : List Byte) : Nat := leAt e 0x0C 4
/-- R63: PLAIN_LEN of a table entry. -/
def entryPlain (e : List Byte) : Nat := leAt e 0x10 4
/-- R63: DIGEST of a table entry. -/
def entryDigest (e : List Byte) : List Byte := slice e 0x30 48

/-- Every byte is 0. -/
def allZero (l : List Byte) : Bool := l.all (· == 0#8)

/-- R63: an entry of the table keeps its rules: a section stands on a 4 KiB boundary after the signature block and within the image; its
INDEX, lengths, KEYID and IV fit its type and its encryption; and what is reserved is 0. -/
def entryPlaced (sig len : Nat) (e : List Byte) : Bool :=
  let v := entryIndex e
  let lengths := if bit (entryFlags e) 0 then entryPlain e + 16 == entryStored e
    else entryPlain e == entryStored e && entryKeyid e == 0 && allZero (slice e 0x18 12)
  e.length == 96 && entryOffset e % 4096 == 0 && decide (sig + 256 ≤ entryOffset e) &&
    decide (entryOffset e + entryStored e ≤ len) && lengths &&
    (if entryType e = 0x0D then decide (1 ≤ v ∧ v ≤ 15) else v == 0) && decide (entryFlags e < 4) && leAt e 0x06 2 == 0 &&
    leAt e 0x14 4 == 0 && allZero (slice e 0x24 12)

/-- R63: no two sections overlap. -/
def entriesApart (t : List (List Byte)) : Bool :=
  (List.range t.length).all (fun i => (List.range t.length).all (fun j =>
    let a := t.getD i []
    let b := t.getD j []
    decide (i ≤ j) || decide (entryOffset a + entryStored a ≤ entryOffset b) ||
      decide (entryOffset b + entryStored b ≤ entryOffset a)))

/-- R67: the early sections lead the table and the image, in their order. -/
def earlyLeads (t : List (List Byte)) : Bool :=
  (t.take 5).map entryType == sectionEarly &&
    (List.range 5).all (fun i => (t.drop (i + 1)).all (fun e => decide (entryOffset (t.getD i []) ≤ entryOffset e)))

/-- R61: the header of an image, from its bytes. -/
def imageHeader (b : List Byte) : List Byte := b.take 64
/-- R61: SECT_COUNT. -/
def headSections (h : List Byte) : Nat := leAt h 0x08 2
/-- R61: SIG_OFFSET. -/
def headSig (h : List Byte) : Nat := leAt h 0x30 4
/-- R61: the golden flag. -/
def headGolden (h : List Byte) : Bool := bit (leAt h 0x0C 4) 0

/-- R63: the section table of an image, from its bytes. -/
def imageTable (b : List Byte) : List (List Byte) :=
  (List.range (headSections (imageHeader b))).map (fun i => slice b (0x40 + 96 * i) 96)

/-- R64: the signature block of an image, from its bytes. -/
def imageSigBlock (b : List Byte) : List Byte := slice b (headSig (imageHeader b)) 256

/-- R61, R63, R67, R69, R73: check 4: the layout of an image found in a golden slot or not, as far as its first `size` bytes are there. -/
def layoutOk (size : Nat) (h : List Byte) (t : List (List Byte)) (goldenSlot : Bool) : Bool :=
  let n := headSections h
  let sig := headSig h
  let len := leAt h 0x20 8
  let flags := leAt h 0x0C 4
  decide (13 ≤ n ∧ n ≤ 32) && t.length == n && leAt h 0x34 4 == 0x40 && sig == ceilDiv (0x40 + 96 * n) 64 * 64 &&
    decide (len ≤ 268435456) && decide (sig + 256 ≤ len) && decide (sig + 256 ≤ size) && decide (flags < 4) &&
    (bit flags 0 == goldenSlot) && (bit flags 1 == t.any (fun e => bit (entryFlags e) 0)) && decide (leAt h 0x2C 4 < 256) &&
    leAt h 0x3C 4 == 0 && t.all (entryPlaced sig len) && entriesApart t && earlyLeads t

/-- R62: check 5: the compatibility ID. -/
def Chip.compatOk (c : Chip) (h : List Byte) : Bool :=
  let id := leAt h 0x18 8
  let step := c.get R.GLB_IDCODE_STEP
  bits id 63 48 == 0x2192 && decide (bits id 47 40 ≤ step ∧ step ≤ bits id 39 32) &&
    (bits id 31 0 &&& c.get R.GLB_FEATURES) == bits id 31 0

/-- R64, R69, R567: check 6: the key that KEYSEL names. -/
def Chip.imageKeyOk (c : Chip) (b : List Byte) : Bool :=
  let k := leAt b 0x2C 1
  let own := c.lcs == 0 || c.lcs == 3
  (own == (k == 0)) && c.keyOk k 0 (slice (imageSigBlock b) 0 96)

/-- R64: check 7: the signature over the bytes before the signature block. -/
def imageSigned (b : List Byte) : Bool :=
  let s := imageSigBlock b
  ecdsaOk (slice s 0 96) (slice s 0x60 96) (b.take (headSig (imageHeader b)))

/-- R69: the code of the first of checks 1 to 5 that fails; 0 where all pass. -/
def Chip.headCheck5 (c : Chip) (b : List Byte) (goldenSlot : Bool) : Nat :=
  let h := imageHeader b
  if h.length ≠ 64 ∨ leAt h 0x38 4 ≠ (crc32c (h.take 56)).toNat then 0x01
  else if leAt h 0x00 4 ≠ 0x534B4E21 ∨ leAt h 0x06 2 ≠ 64 then 0x02
  else if leAt h 0x05 1 ≠ 4 then 0x03
  else if layoutOk b.length h (imageTable b) goldenSlot = false then 0x04
  else if c.compatOk h = false then 0x05
  else 0

/-- R69: the code of the first of checks 1 to 7 that fails; 0 where all pass. -/
def Chip.headCheck7 (c : Chip) (b : List Byte) (goldenSlot : Bool) : Nat :=
  let code := c.headCheck5 b goldenSlot
  if code ≠ 0 then code
  else if c.imageKeyOk b = false then 0x06
  else if imageSigned b = false then 0x07
  else 0

/-- R69: the code of the first of checks 1 to 8 that fails; 0 where all pass. A debug boot skips checks 6 to 8 (R579). -/
def Chip.headCheck (c : Chip) (debug : Bool) (b : List Byte) (goldenSlot : Bool) : Nat :=
  if debug then c.headCheck5 b goldenSlot
  else
    let code := c.headCheck7 b goldenSlot
    if code ≠ 0 then code
    else if leAt b 0x28 4 < c.get R.SEC_LCSTAT_FUSEDVER then 0x08
    else 0

/-- R65, R568: the bytes of the key row that a KEYID selects; none where this lifecycle state, or the row, has none. -/
def Chip.imageKey (c : Chip) (k : Nat) : Option (List Byte) :=
  let row := c.sec.ik.getD (k - 1) 0
  if (c.lcs = 1 ∨ c.lcs = 2) ∧ 1 ≤ k ∧ k ≤ 3 ∧ row ≠ 0 ∧ row ≠ 2 ^ 256 - 1 then some (leBytes 32 row) else none

/-- R65: check 10: a section is not encrypted, or its KEYID selects a key under which its tag verifies, over the header and the entry
before its digest. -/
def Chip.tagCheck (c : Chip) (h e stored : List Byte) : Bool :=
  if bit (entryFlags e) 0 then match c.imageKey (entryKeyid e) with
    | some key => gcmTag key (slice e 0x18 12) (h ++ e.take 0x30) (stored.take (stored.length - 16)) == stored.drop (stored.length - 16)
    | none => false
  else true

/-- R65: the bytes of a section after decryption. -/
def Chip.plainBytes (c : Chip) (e stored : List Byte) : List Byte :=
  if bit (entryFlags e) 0 then match c.imageKey (entryKeyid e) with
    | some key => gcmCrypt key (slice e 0x18 12) (stored.take (stored.length - 16))
    | none => []
  else stored

/-- R69: the code of the first of checks 9 to 12 that a section fails as it streams in; 0 where it passes. -/
def Chip.sectionCheck (c : Chip) (h e stored : List Byte) (parses : Bool) : Nat :=
  let t := entryType e
  if stored.length ≠ entryStored e ∨ sha384 stored ≠ entryDigest e then 0x09
  else if c.tagCheck h e stored = false then 0x0A
  else if sectionKnown t = false then (if bit (entryFlags e) 1 then 0 else 0x0B)
  else if parses = false ∨ payloadOk h t (c.plainBytes e stored) = false then 0x0E
  else 0

/-- R66, R69: check 11: every mandatory type appears once, every optional one at most once, type 0x0D once for each variant. -/
def typesOk (t : List (List Byte)) : Bool :=
  sectionMandatory.all (fun k => (t.filter (fun e => entryType e == k)).length == 1) &&
    [0x0A, 0x0B, 0x0F].all (fun k => decide ((t.filter (fun e => entryType e == k)).length ≤ 1)) &&
    (List.range 16).all (fun v => decide ((t.filter (fun e => entryType e == 0x0D && entryIndex e == v)).length ≤ 1))

/-- R69, R71: the code of the first of checks 9 to 12 that a whole image fails; 0 where all pass. `unparsed` are the sections whose
payload does not parse within its limits. -/
def Chip.bodyCheck (c : Chip) (b : List Byte) (unparsed : List Nat) : Nat :=
  let h := imageHeader b
  let t := imageTable b
  let code := (t.zipIdx.map (fun (e, i) =>
    c.sectionCheck h e (slice (b.take (leAt h 0x20 8)) (entryOffset e) (entryStored e)) (!unparsed.contains i))).find? (· != 0)
  match code with
  | some k => k
  | none => if typesOk t then 0 else 0x0B

/-- R69, R77: the code of the first check that a whole image fails; 0 where all pass. -/
def Chip.imageCheck (c : Chip) (b : List Byte) (golden : Bool) (unparsed : List Nat) : Nat :=
  let code := c.headCheck false b golden
  if code ≠ 0 then code else c.bodyCheck b unparsed

end Sys2Proof.Machine
end

