-- ==== Sys2Proof/Machine/NetRx.lean ====
section
/-! DEFINITION. Ethernet ports, received frames, dynamic frames, membership and next hops, transmit time stamps, and the Precision Time
Protocol (R312–R318, R322, R338–R340, R345–R348, R350, R502). -/

namespace Sys2Proof.Machine

/-! ### Ports (R312, R314) -/

/-- The state of a port. -/
def Chip.netPort (c : Chip) (n : Nat) : NetPort := tget {} c.net.ports n
/-- The state of a port replaced. -/
def Chip.setNetPort (c : Chip) (n : Nat) (x : NetPort) : Chip := { c with net := { c.net with ports := tset {} c.net.ports n x } }

/-- R312: a quad runs as one 100GBASE-R port. -/
def Chip.quad100 (c : Chip) (n : Nat) : Bool := c.on R.NET_QUADCFG_MODE (n / 4)

/-- R312: lane n is an enabled port. -/
def Chip.portThere (c : Chip) (n : Nat) : Bool :=
  c.on R.NET_QUADCFG_EN (n / 4) &&
    if c.quad100 n then n % 4 == 0 else bit (c.get R.NET_QUADCFG_LANEEN (n / 4)) (n % 4)

/-- R314: port n is up. -/
def Chip.portUp (c : Chip) (n : Nat) : Bool := c.on R.NET_LANESTAT_UP n

/-- R317: flows joined on port n: receive flows with a multicast destination. -/
def Chip.joinedFlows (c : Chip) (n : Nat) : List (Nat × RxDef) := c.tables.rxs.filter (fun e => e.2.multicast && e.2.port == n)

/-- R317: two unsolicited reports, 1 s apart, of a flow that joins or leaves its group. -/
def Chip.report (c : Chip) (d : RxDef) (leave : Bool) (n : Nat) : Chip :=
  let x := c.netPort n
  c.setNetPort n { x with reports := x.reports.filter (fun r => r.1 != d) ++ [(d, leave, 2)] }

/-- R359: the flows of a port show whether it is up. -/
def Chip.portFlows (c : Chip) (n : Nat) : Chip :=
  c.each (c.egFlows (fun f => (c.egLegs f).any (fun l => c.get R.NET_EGCFG_PORT l == n))) (fun c f => c.egStatus f)

/-- R314, R345, R353: port n is seen with a physical state: it comes up, or goes down; frames that have not left never do. -/
def Chip.portSeen (c : Chip) (n : Nat) (phy : PortPhy) : Chip :=
  if !c.portThere n then c
  else
    let fec := c.quad100 n || bit (c.get R.NET_QUADCFG_FEC108 (n / 4)) (n % 4)
    let fecLk := phy.fecLk || !fec
    let align := phy.alignLk || !c.quad100 n
    let up := phy.blockLk && fecLk && align && !phy.lfault && !phy.rfault
    let was := c.portUp n
    let c := ((c.setB R.NET_LANESTAT_BLOCKLK n phy.blockLk).setB R.NET_LANESTAT_FECLK n fecLk).setB R.NET_LANESTAT_ALIGNLK n align
    let c := ((c.setB R.NET_LANESTAT_LFAULT n phy.lfault).setB R.NET_LANESTAT_RFAULT n phy.rfault).setB R.NET_LANESTAT_UP n up
    let c := c.when (was && !up) (fun c =>
      (c.setNetPort n { c.netPort n with queue := [], reports := [] }).set R.NET_LANESTAT_DOWNEV n 1)
    let c := c.when (up && !was) (fun c => c.each (c.joinedFlows n) (fun c e => c.report e.2 false n))
    c.portFlows n

/-- R314: PORT_UP. -/
def execPortUp (n : Fin 16) (phy : PortPhy) (s : State) : Host.Outcome State Fault Refusal := onChip (·.portSeen n.val phy) s
/-- R314: PORT_DOWN. -/
def execPortDown (n : Fin 16) (phy : PortPhy) (s : State) : Host.Outcome State Fault Refusal := onChip (·.portSeen n.val phy) s

/-! ### Dynamic frames (R317, R318, R322, R345) -/

/-- R322: a dynamic frame waits on a port that is up; one of a port that is down is lost. -/
def Chip.queueFrame (c : Chip) (n : Nat) (f : DynFrame) : Chip :=
  if c.portUp n then c.setNetPort n { c.netPort n with queue := (c.netPort n).queue ++ [f] } else c

/-- R315, R319: the IP head of a port's own frames to an address. -/
def Chip.ownHead (c : Chip) (n : Nat) (v6 : Bool) (dst : Nat) : NetHead :=
  let d := c.netDef n
  { src := (if v6 then d.addrs6 else d.addrs4).headD 0, dst := dst, dscp := d.dscp, ttl := d.ttl, label := d.label }

/-- R315, R318: a port's own IP packet in its frame: to the group of a multicast address. -/
def Chip.ownFrame (c : Chip) (n : Nat) (v6 : Bool) (mac : Nat) (packet : List Byte) : List Byte :=
  let d := c.netDef n
  ethFrame mac d.mac (if d.untagged then none else d.vlans.head?) (ipType v6) packet

/-- R352: the stamping base of a port: 12 to 15 act as 0. -/
def Chip.stampBase (c : Chip) (n : Nat) : Nat := if c.get R.NET_STAMPTB n < 12 then c.get R.NET_STAMPTB n else 0

/-- Seconds of a port's stamping base (R352). -/
def Chip.portSec (c : Chip) (n : Nat) : Nat := c.ns (c.stampBase n) / 1000000000

/-- R317: the version of the membership protocol that port n speaks: 3 of IGMP and 2 of MLD, or an older one in host compatibility
mode. -/
def Chip.memberVersion (c : Chip) (n : Nat) (v6 : Bool) : Nat :=
  let x := c.netPort n
  let t := c.portSec n
  if v6 then (if t < x.mld1 then 1 else 2) else if t < x.igmp1 then 1 else if t < x.igmp2 then 2 else 3

/-- R317, R319: the report of a receive flow of port n: that it joins or leaves its group, or what it holds in answer to a query. In
compatibility mode the whole group is joined, and IGMPv1 knows no leave. -/
def Chip.reportFrame (c : Chip) (n : Nat) (d : RxDef) (answer leave : Bool) : Option (List Byte) :=
  let v6 := d.v6
  let v := c.memberVersion n v6
  let h := c.ownHead n v6 0
  if v = (if v6 then 2 else 3) then
    some (c.ownFrame n v6 (groupMac v6 (if v6 then 0x16 else 0xE0000016))
      (reportPacket v6 h (groupRecord v6 (recordType answer leave d.src) d.dst d.src)))
  else if leave ∧ v6 = false ∧ v = 1 then none
  else
    let to_ := if leave then (if v6 then 2 else 0xE0000002) else d.dst
    some (c.ownFrame n v6 (groupMac v6 to_) (oldReport v6 v h d.dst leave))

/-- R317: the report of a flow is queued on port n. -/
def Chip.queueReport (c : Chip) (n : Nat) (d : RxDef) (answer leave : Bool) : Chip := match c.reportFrame n d answer leave with
  | some l => c.queueFrame n { kind := 1, data := l }
  | none => c

/-- R317: MEMBERSHIP_REPORT: the next report of a port is sent, for the first time or again 1 s later. -/
def execMembershipReport (n : Fin 16) (s : State) : Host.Outcome State Fault Refusal :=
  onChip (fun c =>
    let x := c.netPort n.val
    match x.reports with
    | (d, leave, left) :: l =>
      if c.portUp n.val then
        (c.setNetPort n.val { x with reports := l ++ (if 1 < left then [(d, leave, left - 1)] else []) }).queueReport n.val d false leave
      else c
    | [] => c) s

/-- R318, R319: the ARP request, or the NDP neighbour solicitation, for the next hop of leg l on port n. -/
def Chip.hopFrame (c : Chip) (n l : Nat) : List Byte :=
  let d := c.netDef n
  let hop := (c.egDef l).hop
  let vlan := if d.untagged then none else d.vlans.head?
  if c.on R.NET_EGCFG_IPV6 l then
    ethFrame (0x3333FF000000 + hop % 2 ^ 24) d.mac vlan (ipType true) (ndpSolicit d.mac (c.ownHead n true 0) hop)
  else ethFrame 0xFFFFFFFFFFFF d.mac vlan 0x0806 (arpRequest d.mac (c.ownHead n false 0).src hop)

/-- R318: ARP_REFRESH: the next hop of a leg that resolves its own is asked for. -/
def execArpRefresh (n : Fin 16) (flow : Fin 1024) (s : State) : Host.Outcome State Fault Refusal :=
  onChip (fun c =>
    let f := flow.val
    if c.egOn (c.egLead f) ∧ (c.egDef f).resolve = true ∧ c.get R.NET_EGCFG_PORT f = n.val ∧ c.portUp n.val = true then
      let x := c.netPort n.val
      let c := c.setNetPort n.val { x with refresh := f :: x.refresh.filter (· != f) }
      c.queueFrame n.val { kind := 3, data := c.hopFrame n.val f }
    else c) s

/-- R318: an ARP or NDP answer resolves the next hops of the legs of port n that go by its address. -/
def Chip.nextHop (c : Chip) (n : Nat) (v6 : Bool) (a mac : Nat) : Chip :=
  let l := (List.range 1024).filter (fun f => (c.egDef f).resolve && c.get R.NET_EGCFG_PORT f == n &&
    c.on R.NET_EGCFG_IPV6 f == v6 && (c.egDef f).hop == a)
  let x := c.netPort n
  let c := c.setNetPort n { x with refresh := x.refresh.filter (fun f => !l.contains f) }
  c.each l (fun c f => (c.setEg f { c.eg f with hopMac := some mac }).egStatus (c.egLead f))

/-- R313, R322: Twists that a frame takes, with its preamble and gap of 20 bytes: 320 ns each, at 25 or 100 Gb/s. -/
def Chip.frameTwists (c : Chip) (n bytes : Nat) : Nat := ceilDiv ((bytes + 20) * (if c.quad100 n then 8 else 32)) 32000

/-- R345, R346: a transmit stamp joins the queue of port n, or is dropped and counted. -/
def Chip.pushStamp (c : Chip) (n id t40 : Nat) : Chip :=
  let x := c.netPort n
  if x.tsq.length < 16 then
    (c.setNetPort n { x with tsq := x.tsq ++ [{ id := id, t40 := t40 }] }).set R.NET_TSQSTAT_COUNT n (x.tsq.length + 1)
  else (c.bump R.NET_TSQSTAT_OVFCNT n).set R.NET_TSQSTAT_OVFEV n 1

/-- R347: where the PTP message of a forwarded frame begins, past its headers. -/
def ptpOffset (l : List Byte) : Nat :=
  let o := if beAt l 12 2 = 0x8100 then 18 else 14
  if beAt l (o - 2) 2 = 0x88F7 then o else o + 4 * bitsAt l (8 * o + 4) 4 + 8

/-- R347: a forwarded PTP frame as it leaves: an event message's correctionField gains its residence time, and the UDP checksum of IPv4 is 0. -/
def forwarded (l : List Byte) (residence : Option Int) : List Byte :=
  let k := ptpOffset l
  let m := match residence with
    | some t => addCorrection (l.drop k) t
    | none => l.drop k
  if beAt l (if beAt l 12 2 = 0x8100 then 16 else 12) 2 = 0x88F7 then l.take k ++ m
  else l.take (k - 2) ++ [0#8, 0#8] ++ m

/-- R313, R347: the bytes of a dynamic frame that leaves at t, in units of 2⁻⁴⁰ ns, its FCS included. -/
def DynFrame.wire (f : DynFrame) (t : Nat) : List Byte :=
  let l := if f.kind = 4 then forwarded f.data (f.ingress.map (fun u => ((t / 2 ^ 24 : Nat) : Int) - u)) else f.data
  l ++ fcs l

/-- R322, R345: DYNAMIC_FRAME_SEND: the oldest frame of a port starts only if it ends within the present run of open-pool Twists.
It leaves at t, in units of 2⁻⁴⁰ ns on the port's stamping base. -/
def execDynamicFrameSend (n : Fin 16) (t : Nat) (s : State) : Host.Outcome State Fault Refusal :=
  onChip (fun c =>
    let x := c.netPort n.val
    match x.queue with
    | f :: l =>
      if c.portUp n.val ∧ c.frameTwists n.val (f.data.length + 4) ≤ c.openRun then
        let c := c.setNetPort n.val { x with queue := l, sent := f.wire t }
        match f.stampId with
        | some id => c.pushStamp n.val id t
        | none => c
      else c
    | [] => c) s

/-! ### The Precision Time Protocol (R338–R340) -/

/-- The state of a PTP instance. -/
def Chip.ptp (c : Chip) (i : Nat) : PtpInst := tget {} c.net.ptp i
/-- The state of a PTP instance replaced. -/
def Chip.setPtp (c : Chip) (i : Nat) (x : PtpInst) : Chip := { c with net := { c.net with ptp := tset {} c.net.ptp i x } }
/-- The settings of a PTP instance. -/
def Chip.ptpDef (c : Chip) (i : Nat) : PtpDef := tget {} c.tables.ptps i

/-- R342, R355: the bases that a PTP instance corrects. -/
def Chip.ptpBases (c : Chip) (i : Nat) : List Nat :=
  (List.range 12).filter (fun b => c.on R.NET_TBCFG_EN b && c.tbSrcType b == 1 && c.get R.NET_TBCFG_SRC b == i)

/-- R339: datasets compared in order: whether the first is better. -/
def betterData : List Nat → List Nat → Bool
  | x :: l, y :: m => if x < y then true else if y < x then false else betterData l m
  | _, _ => false

/-- R339: the better of two qualified senders; of equal ones, the one on the lower lane. -/
def betterLeader (a b : PtpLeader) : PtpLeader :=
  if betterData a.key b.key then a
  else if betterData b.key a.key then b
  else if b.port < a.port then b else a

/-- R339, R344: the instance chooses its leader; a new leader starts the exchange afresh; without one its bases are in holdover. -/
def Chip.chooseLeader (c : Chip) (i : Nat) : Chip :=
  let x := c.ptp i
  let best := match x.heard.filter (fun l => decide (2 ≤ l.count)) with
    | [] => none
    | l :: ls => some (ls.foldl betterLeader l)
  let same : Bool := match x.leader, best with
    | some a, some b => a.sender == b.sender && a.port == b.port
    | none, none => true
    | _, _ => false
  let c := c.setPtp i (if same then { x with leader := best }
    else { x with leader := best, sync := none, lastSync := none, exch := none, path := none })
  if best.isNone ∧ x.leader.isSome then
    (c.ptpBases i).foldl (fun c b => if c.on R.NET_TBSTAT_HOLDOVER b then c else c.enterHoldover b) c
  else c

/-- R338, R339: an Announce of a sender on a port. -/
def Chip.announce (c : Chip) (i n : Nat) (m : PtpMsg) (addr : Nat × Nat) : Chip :=
  let x := c.ptp i
  if -3 ≤ m.logInt ∧ m.logInt ≤ 1 then
    let old := (x.heard.find? (fun l => l.sender == m.sender && l.port == n)).getD { sender := m.sender, port := n }
    let l : PtpLeader := { old with key := m.dataset, addr := addr, count := min 2 (old.count + 1) }
    (c.setPtp i { x with heard := l :: x.heard.filter (fun l => !(l.sender == m.sender && l.port == n)) }).chooseLeader i
  else c

/-- R338: ANNOUNCE_TIMEOUT: three Announce intervals have passed without one of a sender. -/
def execAnnounceTimeout (i : Fin 4) (sender : Nat) (s : State) : Host.Outcome State Fault Refusal :=
  onChip (fun c =>
    let x := c.ptp i.val
    (c.setPtp i.val { x with heard := x.heard.filter (fun l => l.sender != sender) }).chooseLeader i.val) s

/-- R339, R342: the offset of the last complete Sync reaches each base of the instance: arrival less origin, mean path delay, corrections
and the port's asymmetry, in ns, rounded to the nearest. -/
def Chip.ptpEstimate (c : Chip) (i n : Nat) : Chip :=
  let x := c.ptp i
  match x.lastSync, x.path with
  | some (t1, t2, corr), some d =>
    let o := t2 - t1 - d - corr - (c.ptpDef i).asym
    c.each (c.ptpBases i) (fun c b =>
      let apart := ((c.base b).t40 : Int) - ((c.base (c.stampBase n)).t40 : Int)
      c.estimate b (roundDiv (o * 2 ^ 24 + apart) (2 ^ 40)))
  | _, _ => c

/-- R339: the delay exchange is complete once t₃ and t₄ are known: the mean path delay, with the last complete Sync. -/
def Chip.ptpPath (c : Chip) (i : Nat) : Chip :=
  let x := c.ptp i
  match x.lastSync, x.exch with
  | some (t1, t2, corr), some (_, some t3, some (t4, corr4)) =>
    c.setPtp i { x with exch := none, path := some (roundDiv ((t2 - t3) + (t4 - t1) - corr - corr4) 2) }
  | _, _ => c

/-- R339: a complete Sync of the leader gives one estimate. -/
def Chip.syncDone (c : Chip) (i n : Nat) (t1 t2 corr : Int) : Chip :=
  let x := c.ptp i
  ((c.setPtp i { x with sync := none, lastSync := some (t1, t2, corr) }).ptpEstimate i n).ptpPath i

/-- R340: a picosecond delay of TXDLY or RXDLY in units of 2⁻¹⁶ ns. -/
def delay16 (v : Nat) : Int := roundDiv (ofField 32 v * 65536) 1000

/-- R338, R339: logSyncInterval is one that the profile accepts. -/
def syncRateOk (d : PtpDef) (l : Int) : Bool := decide (-7 ≤ l ∧ l ≤ (if d.st2059 then -1 else 1))

/-- R338: the identity of an instance on a port: its clock identity and the number of the port, from 1. -/
def ptpIdent (d : PtpDef) (n : Nat) : Nat := d.clockId * 65536 + d.ports.idxOf n + 1

/-- R339: a message of the leader, on the port on which it is heard, that arrived at `t`. -/
def Chip.leaderMsg (c : Chip) (i n : Nat) (m : PtpMsg) (t : Int) : Chip :=
  let x := c.ptp i
  if m.type = 0 then
    if syncRateOk (c.ptpDef i) m.logInt then
      let c := c.setPtp i { x with leader := x.leader.map (fun l => { l with logSync := m.logInt }) }
      if m.twoStep then c.setPtp i { c.ptp i with sync := some (m.seq, t, m.corr) } else c.syncDone i n m.time t m.corr
    else c
  else if m.type = 8 then
    match x.sync with
    | some (q, t2, corr) => if q = m.seq then c.syncDone i n m.time t2 (corr + m.corr) else c
    | none => c
  else if m.type = 9 ∧ m.requester = ptpIdent (c.ptpDef i) n then
    let c := c.setPtp i { x with leader := x.leader.map (fun l => { l with logDelay := m.logInt }) }
    match x.exch with
    | some (q, t3, _) =>
      if q = m.seq then (c.setPtp i { c.ptp i with exch := some (q, t3, some (m.time, m.corr)) }).ptpPath i else c
    | none => c
  else c

/-- R338, R339: a PTP message received on port n, from a MAC and an IP address, reaches the port's instances. Peer delay is not supported. -/
def Chip.ptpMsg (c : Chip) (n : Nat) (m : PtpMsg) (l2 : Bool) (addr : Nat × Nat) (at_ : Int) : Chip :=
  c.each (List.range 4) (fun c i =>
    let d := c.ptpDef i
    if !d.ports.contains n || d.domain != m.domain || (l2 && d.st2059) then c
    else if m.type = 0xB then c.announce i n m addr
    else match (c.ptp i).leader with
      | some l =>
        if l.sender = m.sender ∧ l.port = n then c.leaderMsg i n m (at_ - delay16 (c.get R.NET_RXDLY n)) else c
      | none => c)

/-- R338, R319: the frame of a Delay_Req of an instance to its leader: to the leader alone, or to the PTP group of its transport. -/
def Chip.reqFrame (c : Chip) (i : Nat) (l : PtpLeader) (seq : Nat) : List Byte :=
  let d := c.ptpDef i
  let m := delayReq d.domain (ptpIdent d l.port) seq
  let one := d.unicast && d.st2059
  if d.transport = 2 then ethFrame 0x011B19000000 (c.netDef l.port).mac none 0x88F7 m
  else
    let v6 := d.transport == 1
    let dst := if one then l.addr.2 else if v6 then 0xFF0E0000000000000000000000000181 else 0xE0000181
    c.ownFrame l.port v6 (if one then l.addr.1 else groupMac v6 dst) (udpPacket v6 (c.ownHead l.port v6 dst) 319 319 m)

/-- R338, R345: DELAY_REQ_SEND: an instance with a leader begins a delay request-response exchange; the frame asks for its stamp under its
sequenceId. -/
def execDelayReqSend (i : Fin 4) (s : State) : Host.Outcome State Fault Refusal :=
  onChip (fun c =>
    let x := c.ptp i.val
    match x.leader with
    | some l =>
      let c := c.setPtp i.val { x with reqSeq := (x.reqSeq + 1) % 65536, exch := some (x.reqSeq, none, none) }
      c.queueFrame l.port { kind := 2, data := c.reqFrame i.val l x.reqSeq, stampId := some x.reqSeq }
    | none => c) s

/-- R346: TSQ_POP: the oldest stamp moves into TSQ0–TSQ3. A stamp of a Delay_Req of the exchange in progress is its t₃ (R339, R340). -/
def execTsqPop (n : Fin 16) (v : Word) (s : State) : Host.Outcome State Fault Refusal :=
  onChip (fun c =>
    let n := n.val
    let x := c.netPort n
    if !bit v.toNat 31 then c
    else match x.tsq with
      | [] => c.set R.NET_TSQ0_VALID n 0
      | e :: l =>
        let ns := e.t40 / 2 ^ 40
        let sec := ns / 1000000000
        let c := (c.setNetPort n { x with tsq := l }).set R.NET_TSQSTAT_COUNT n l.length
        let c := (c.set R.NET_TSQ0_VALID n 1).set R.NET_TSQ0_FRAMEID n e.id
        let c := (c.set R.NET_TSQ1 n sec).set R.NET_TSQ2_SECHI n (sec / 2 ^ 32)
        let c := (c.set R.NET_TSQ2_FRAC n (e.t40 % 2 ^ 40 / 2 ^ 24)).set R.NET_TSQ3 n (ns % 1000000000)
        c.each (List.range 4) (fun c i =>
          let y := c.ptp i
          match y.leader, y.exch with
          | some l, some (q, none, r) =>
            if l.port = n ∧ q = e.id then
              (c.setPtp i { y with exch := some (q, some ((e.t40 / 2 ^ 24 : Nat) + delay16 (c.get R.NET_TXDLY n)), r) }).ptpPath i
            else c
          | _, _ => c)) s

/-! ### The transparent clock (R347, R348) -/

/-- R347: the lane that lane n is paired with, if the pair runs as a transparent clock. -/
def Chip.tcPeer (c : Chip) (n : Nat) : Option Nat :=
  if !c.quad100 n && bit (c.get R.NET_QUADCFG_TCPAIR (n / 4)) (n % 4 / 2) then some (n + 1 - 2 * (n % 2)) else none

/-- R347, R348: a PTP frame received on a lane of a pair is forwarded to the other, at most 1,024 in a second each way; `l` is the frame
without its FCS. -/
def Chip.tcForward (c : Chip) (n : Nat) (l : List Byte) (m : PtpMsg) (v6 : Bool) (at_ : Int) : Chip :=
  match c.tcPeer n with
  | none => c
  | some q =>
    if v6 then c
    else if m.type = 2 ∨ m.type = 3 ∨ m.type = 0xA then c.bump R.NET_TCFWD_DISC n
    else
      let sec := c.portSec n
      let x := c.netPort n
      let x := if x.fwdSec = sec then x else { x with fwdSec := sec, fwdN := 0 }
      if 1024 ≤ x.fwdN then (c.setNetPort n x).bump R.NET_TCFWD_DISC n
      else
        let c := (c.setNetPort n { x with fwdN := x.fwdN + 1 }).bump R.NET_TCFWD_FWD n
        c.queueFrame q { kind := 4, data := l, ingress := if m.type < 2 then some at_ else none }

/-! ### Reception (R313, R315–R317, R332) -/

/-- R316, R317: the group addresses of port n: joined groups, the groups that every host belongs to and its solicited-node groups. -/
def Chip.groupMacs (c : Chip) (n : Nat) : List Nat :=
  (c.joinedFlows n).map (fun e => groupMac e.2.v6 e.2.dst) ++ [0x01005E000001, 0x333300000001] ++
    ((c.netDef n).addrs6.map (fun a => 0x3333FF000000 + a % 2 ^ 24))

/-- R316: the PTP multicast addresses: of IEEE 802.3, UDP over IPv4 and UDP over IPv6, and the peer-delay ones. -/
def ptpMacs : List Nat := [0x011B19000000, 0x0180C200000E, 0x01005E000181, 0x01005E00006B, 0x333300000181, 0x33330000006B]

/-- R316 steps 2 and 3: the destination address and the VLAN ID of a frame. -/
def Chip.frameOk (c : Chip) (n : Nat) (k : FrameIn) : Bool :=
  let d := c.netDef n
  let macOk := k.dst == d.mac || k.dst == 0xFFFFFFFFFFFF || (c.groupMacs n).contains k.dst || ptpMacs.contains k.dst
  let vlanOk := match k.vlan with
    | some v => d.vlans.contains v
    | none => d.untagged
  macOk && vlanOk

/-- R316 step 6: the receive flow that a packet matches: one that names its source first. -/
def Chip.rxFlow (c : Chip) (n : Nat) (v6 : Bool) (src dst port : Nat) : Option (Nat × RxDef) :=
  let fits := c.tables.rxs.filter (fun e => e.2.port == n && e.2.v6 == v6 && e.2.dst == dst && e.2.udp == port)
  (fits.find? (fun e => e.2.src == some src)).or (fits.find? (fun e => e.2.src == none))

/-- RFC 3711: the packet index of a sequence number: the one nearest the newest index taken. -/
def srtpIndex (newest : Option Nat) (seq : Nat) : Nat := match newest with
  | none => seq
  | some i => ((i : Int) + sdiff 16 seq i).toNat

/-- R332: an SRTP packet that authenticates under its flow's key, and its RTP packet with the payload deciphered; the tag is its last 10
bytes. -/
def srtpOpen (key : List Byte) (index : Nat) (l : List Byte) : Option (List Byte) :=
  let body := l.take (l.length - 10)
  if srtpTag key (index / 65536) body = l.drop (l.length - 10) then
    let n := rtpHeadLen body
    some (body.take n ++ srtpCrypt key (beAt l 8 4) index (body.drop n))
  else none

/-- R332, R572: the RTP packet of a receive flow, SRTP removed. One that fails authentication, is a replay, or lies 128 or more behind the
newest, is discarded and counted; without a key every packet is discarded. -/
def Chip.srtpIn (c : Chip) (f : Nat) (d : RxDef) (l : List Byte) : Chip × Option (List Byte) :=
  if !d.srtp then (c, some l)
  else if !c.keyLoaded d.keySlot then (c, none)
  else
    let seen := tget [] c.net.replay f
    let i := srtpIndex (seen.max?) (beAt l 2 2)
    let newest := seen.foldl max 0
    match (if seen.contains i ∨ i + 128 ≤ newest then none else srtpOpen (tget {} c.sec.slots d.keySlot).key i l) with
    | some p =>
      let seen := (i :: seen).filter (fun j => decide (max newest i < j + 128))
      ({ c with net := { c.net with replay := tset [] c.net.replay f seen } }, some p)
    | none => ({ c with net := { c.net with srtpFails := tset 0 c.net.srtpFails f (tget 0 c.net.srtpFails f + 1) } }, none)

/-- R302, R304: an audio packet becomes a block of its flow, with the index that its timestamp gives on the grid of the port that plays it;
the second leg's copy of a block is discarded. -/
def Chip.depacketise (c : Chip) (f n stamp width : Nat) (frames : List (List Nat)) : Chip :=
  let len := max 1 (c.get R.AUD_BLKCFG_BLKLEN n)
  let j0 := c.gridFrame n (c.ns (c.baseOf (c.get R.AUD_PORTCFG_PLANE n))) / len
  let j := ((j0 : Int) + roundDiv (sdiff 32 stamp (c.audioTimestamp n j0)) len).toNat
  let old := tget [] c.aud.rx f
  if old.any (fun b => b.index == j) then c
  else
    let pack := ceilDiv width 8
    let header := blockHeader stamp j false false false false false ((frames.headD []).length) pack
    let data := frames.flatMap (fun x => x.flatMap (sampleBytes pack width))
    let b : ABlock := { index := j, header := header, data := data, mark := blockMark f j header data }
    { c with aud := { c.aud with rx := tset [] c.aud.rx f ((b :: old).take 16) } }

/-- R340: an arrival stamp on port n, in 2⁻¹⁶ ns of its stamping base, as ns of base b. -/
def Chip.arrivalNs (c : Chip) (n b : Nat) (at_ : Int) : Nat :=
  let apart := ((c.base b).t40 : Int) - ((c.base (c.stampBase n)).t40 : Int)
  ((at_ * 2 ^ 24 + apart) / 2 ^ 40).toNat

/-- R97, R100, R112, R245, R302: the RTP packet `l` of a receive flow goes to ingest, decode or an audio port. -/
def Chip.mediaIn (c : Chip) (n : Nat) (f : Fin 1024) (d : RxDef) (k : EthFrame) (l : List Byte) : Chip :=
  let pay := rtpPayload l
  let stamp : Word := BitVec.ofNat 32 (beAt l 4 4)
  match d.media with
  | .video =>
    let p := c.get R.ING_FLOWCFG_PLANE (c.legA f.val)
    if c.get R.ING_FLOWCFG_SRC (c.legA f.val) = 1 then
      c.mergePacket { flow := f, seq := BitVec.ofNat 32 (beAt pay 0 2 * 65536 + beAt l 2 2), stamp := stamp, segs := rowSegs pay,
                      at_ := c.arrivalNs n (c.baseOf p) k.at_ }
    else c
  | .anc =>
    if c.flowOn f.val ∧ c.flowIsAnc f.val then
      (c.each (ancParts pay (beAt pay 4 1) 64) (fun c a => c.ancPacket f.val stamp.toNat a)).when (bit (leAt l 1 1) 7)
        (·.ancEnd f.val stamp.toNat)
    else c
  | .dec ctx =>
    let a := c.legA f.val
    c.decPacket ctx.val a (decide (f.val ≠ a)) (beAt l 2 2) stamp.toNat (c.arrivalNs n (c.baseOf (c.decPlane ctx.val)) k.at_)
      (bit (leAt l 1 1) 7) pay
  | .audio port bytes aes chans =>
    c.depacketise (c.legA f.val) port.val stamp.toNat (if aes then 24 else 8 * bytes) (audioFrames bytes aes chans pay)

/-- R501: a frame that goes to the service cores becomes an item of a queue, whose content the manual does not give. -/
def Chip.toCores (c : Chip) (q bytes : Nat) : Chip :=
  let (v, c) := c.draw
  c.enqueueFrame q ⟨v.toNat % 2 ^ 64, bytes, v.toNat / 2 ^ 64 % 2 ^ 16, v.toNat / 2 ^ 80 % 2 ^ 16⟩

/-- R316 step 7, R347, R501: a PTP message `l`: to the other lane of a transparent-clock pair, and to the port's own instance. -/
def Chip.ptpIn (c : Chip) (k : EthFrame) (l2 v6 : Bool) (addr : Nat × Nat) (l : List Byte) : Chip :=
  let n := k.lane.val
  let m := ptpParts l
  let c := c.tcForward n (k.bytes.take (k.bytes.length - 4)) m v6 k.at_
  let q := c.tables.svc.ptpQ
  let room := c.queueRoom q
  let c := c.toCores q k.bytes.length
  c.when room (fun c => c.ptpMsg n m l2 addr k.at_)

/-- R316 step 7, R501: a frame for the service cores, and what they make of it. -/
def Chip.coreFrame (c : Chip) (k : EthFrame) (f : Chip → Chip) : Chip :=
  let q := c.tables.svc.frameQ
  let room := c.queueRoom q
  (c.toCores q k.bytes.length).when room f

/-- R317: an IGMP or MLD message: an older querier puts the port in host compatibility mode, for the 260 s of RFC 3376 and RFC 3810 at
their default intervals, and a query is answered for the groups it asks for. -/
def Chip.groupMsg (c : Chip) (n : Nat) (v6 : Bool) (l : List Byte) : Chip :=
  match groupQuery v6 l with
  | none => c
  | some (v, g) =>
    let x := c.netPort n
    let t := c.portSec n + 260
    let c := if v6 then c.when (v == 1) (·.setNetPort n { x with mld1 := t })
      else if v = 1 then c.setNetPort n { x with igmp1 := t }
      else c.when (v == 2) (·.setNetPort n { x with igmp2 := t })
    let c := c.when (decide (v < if v6 then 2 else 3)) (·.set R.NET_LANESTAT_OLDQUERIER n 1)
    c.each ((c.joinedFlows n).filter (fun e => e.2.v6 == v6 && (g == 0 || g == e.2.dst))) (fun c e => c.queueReport n e.2 true false)

/-- R316 step 7: an IP packet that matches no receive flow and is not UDP: ICMP, ICMPv6, IGMP, MLD and NDP go to the service cores. -/
def Chip.ipOther (c : Chip) (k : EthFrame) (v6 : Bool) (p : IpIn) : Chip :=
  let n := k.lane.val
  if v6 ∧ p.proto = 58 then
    c.coreFrame k (fun c => match ndpAnswer p.data with
      | some (a, mac) => c.nextHop n true a mac
      | none => c.groupMsg n true p.data)
  else if v6 = false ∧ p.proto = 2 then c.coreFrame k (·.groupMsg n false p.data)
  else if v6 = false ∧ p.proto = 1 then c.coreFrame k id
  else c.bump R.NET_RXDROP n

/-- R316 steps 5 to 7: a UDP packet. -/
def Chip.udpIn (c : Chip) (k : EthFrame) (e : FrameIn) (v6 : Bool) (p : IpIn) : Chip :=
  let n := k.lane.val
  let port := beAt p.data 2 2
  let data := (p.data.take (beAt p.data 4 2)).drop 8
  if udpOk v6 p = false then c.bump R.NET_RXDROP n
  else match c.rxFlow n v6 p.src p.dst port with
    | some (f, d) =>
      let (c, l) := c.srtpIn f d data
      match l with
      | some l => if h : f < 1024 then c.mediaIn n ⟨f, h⟩ d k l else c
      | none => c
    | none =>
      if port = 319 ∨ port = 320 then c.ptpIn k false v6 (e.src, p.src) data
      else if port = c.tables.svc.mgmtPort ∧ c.tables.mgmtPorts.contains n then c.toCores c.tables.svc.mgmtQ k.bytes.length
      else c.bump R.NET_RXDROP n

/-- R316 steps 4 to 7. -/
def Chip.frameKind (c : Chip) (k : EthFrame) (e : FrameIn) : Chip :=
  let n := k.lane.val
  if e.type = 0x0800 ∨ e.type = 0x86DD then
    let v6 := e.type == 0x86DD
    let p := ipParts v6 e.data
    if p.ok = false then c.bump R.NET_RXDROP n
    else if p.proto = 17 then c.udpIn k e v6 p
    else c.ipOther k v6 p
  else if e.type = 0x88F7 then c.ptpIn k true false (e.src, 0) e.data
  else if e.type = 0x0806 then
    c.coreFrame k (fun c => match arpAnswer e.data with
      | some (a, mac) => c.nextHop n false a mac
      | none => c)
  else c.bump R.NET_RXDROP n

/-- R313, R316: ETH_FRAME_RX on a port that is up. -/
def execEthFrameRx (k : EthFrame) (s : State) : Host.Outcome State Fault Refusal :=
  onChip (fun c =>
    let n := k.lane.val
    let l := k.bytes.take (k.bytes.length - 4)
    let e := frameParts l
    if !c.portUp n then c
    else if fcs l ≠ k.bytes.drop (k.bytes.length - 4) then (c.bump R.NET_FCSERR n).bump R.NET_RXDROP n
    else if k.bytes.length < 64 ∨ 9022 < k.bytes.length then c.bump R.NET_RXDROP n
    else if e.type = 0x8808 then (c.set R.NET_LANESTAT_PAUSERX n 1).bump R.NET_RXDROP n
    else if !c.frameOk n e then c.bump R.NET_RXDROP n
    else c.frameKind k e) s

/-! ### Counters, and the host link (R350, R502) -/

/-- R350: NET.CNTCLR with KIND 0 clears the counters of a lane. -/
def execNetCntclrLane (v : Word) (s : State) : Host.Outcome State Fault Refusal :=
  onChip (fun c =>
    let n := bits v.toNat 9 0
    if bit v.toNat 31 ∧ bit v.toNat 30 = false ∧ n < 16 then
      let c := ((c.set R.NET_TSQSTAT_OVFCNT n 0).set R.NET_RXDROP n 0).set R.NET_FCSERR n 0
      let c := (c.set R.NET_FECCNT_UNC n 0).set R.NET_FECCNT_COR n 0
      (c.set R.NET_TCFWD_DISC n 0).set R.NET_TCFWD_FWD n 0
    else c) s

/-- R502, R587: PCIE_LINK_UP: the link to the host comes up; in P3 it is down. -/
def execPcieLinkUp (s : State) : Host.Outcome State Fault Refusal :=
  onChip (fun c => if c.get R.PWR_PWRSTAT_STATE < 3 then { c with svc := { c.svc with linkUp := true } } else c) s

end Sys2Proof.Machine
end

