-- ==== Sys2Proof/Machine/Pending.lean ====
section
/-! DEFINITION. Commands that await their effective Turns: what the registers show of them, how they end, and the variant switches
among them (R87–R89, R192, R510–R512, R593). -/

namespace Sys2Proof.Machine

/-- R10, R512: the pending commands of plane p, soonest first. -/
def insertCmd (turn : Nat) (x : PendCmd) : List PendCmd → List PendCmd
  | [] => [x]
  | y :: l => if sdiff 40 x.eff turn < sdiff 40 y.eff turn then x :: y :: l else y :: insertCmd turn x l

/-- R87: the pending switches of plane p, soonest first, with their variants. -/
def Chip.switches (c : Chip) (p : Nat) : List (PendCmd × Nat) :=
  let l := c.svc.cmds.filter (fun q => q.plane == p && match q.arg with | .variant _ => true | _ => false)
  (l.foldl (fun l q => insertCmd (c.turn p) q l) []).filterMap (fun q => match q.arg with
    | .variant v => some (q, v)
    | _ => none)

/-- R87, R94: PENDING and PENDVALID of plane p follow the switch that comes first, which is the one that is staged. -/
def Chip.varShown (c : Chip) (p : Nat) : Chip :=
  match c.switches p with
  | [] => ({ c with varPend := tset {} c.varPend p {} }.set R.GLB_VARIANT_PENDVALID p 0).set R.GLB_VARIANT_PENDING p 0
  | (q, v) :: _ =>
    let c := (c.set R.GLB_VARIANT_PENDVALID p 1).set R.GLB_VARIANT_PENDING p v
    if (tget {} c.varPend p).seq = q.seq then c
    else { c with varPend := tset {} c.varPend p { variant := v, turn := q.eff, seq := q.seq } }

/-- R87, R192, R599: what the registers show of a pending command, once it is added or taken away. -/
def Chip.cmdShown (c : Chip) (q : PendCmd) (slot : Nat) : Chip :=
  match q.arg with
  | .variant _ => c.varShown q.plane
  | .trim (.chan ch) _ => c.trimShown ch
  | .keyLoad => c.slotPend slot
  | .keyClear k => c.slotPend k
  | _ => c

/-- R574: the slot that a pending KEYLOAD names. -/
def Chip.pendSlot (c : Chip) (seq : Nat) : Nat :=
  ((c.sec.pend.find? (fun k => k.seq == seq)).map (·.slot)).getD 0

/-- R510: a pending command ends with a result. A key that waits for it is zeroised (R593). -/
def Chip.endCmd (c : Chip) (q : PendCmd) (result : Nat) : Chip :=
  let slot := c.pendSlot q.seq
  let c := { c with sec := { c.sec with pend := c.sec.pend.filter (fun k => k.seq != q.seq) } }
  (c.finish q result).cmdShown q slot

/-- R593: every command pending on plane p for a boundary from Turn n on is cancelled, as the plane stops; a POWER for that very
boundary is not. -/
def Chip.cancelPlane (c : Chip) (p n : Nat) (keepPower : Bool) : Chip :=
  let l := c.svc.cmds.filter (fun q => q.plane == p && !q.atOnce && decide (0 ≤ sdiff 40 q.eff n) &&
    match q.arg with
    | .power _ => !(keepPower && q.eff == n)
    | _ => true)
  c.each l (fun c q => c.endCmd q 0x23)

/-- R88: the tail before Turn n of plane p begins: a switch named for that boundary is swapped in if its staging has finished, and
is dropped with 0x20 otherwise. -/
def Chip.variantTail (c : Chip) (p : Nat) : Chip :=
  match c.switches p with
  | (q, _) :: _ =>
    let v : VarPend := tget {} c.varPend p
    if q.eff ≠ (c.turn p + 1) % 2 ^ 40 then c
    else if v.staged ∧ v.seq = q.seq then ({ c with varPend := tset {} c.varPend p { v with swapped := true } }).flipCoefs p
    else (c.endCmd q 0x20).set R.GLB_VARIANT_MISSED p 1
  | [] => c

/-- R107, R123, R256, R295: the members that a switch adds to plane p begin in UNDERRUN, and those that it removes are counted no
longer. -/
def Chip.membersSwitched (was c : Chip) (p : Nat) : Chip :=
  let group (c : Chip) (f : Nat) := c.get R.ING_FLOWCFG_GROUP f
  let c := c.each ((c.videoFlows p).filter (fun f => !(was.videoFlows p).contains f)) (fun c f =>
    ((c.set R.ING_FLOWSTAT_JOINED f 0).memberRestart f).count R.ING_GROUPSTAT_UNDER (group c f))
  let c := c.each ((was.videoFlows p).filter (fun f => !(c.videoFlows p).contains f)) (fun c f =>
    if c.on R.ING_FLOWSTAT_JOINED f then c.set R.ING_FLOWSTAT_JOINED f 0 else c.drop R.ING_GROUPSTAT_UNDER (group was f))
  let c := c.each ((c.inputPorts p).filter (fun n => !(was.inputPorts p).contains n)) (fun c n =>
    (c.portRestart n).count R.ING_GROUPSTAT_UNDER (c.get R.AUD_PORTCFG_GROUP n))
  let c := c.each ((was.inputPorts p).filter (fun n => !(c.inputPorts p).contains n)) (fun c n =>
    if c.on R.AUD_PORTSTAT_JOINED n then c.set R.AUD_PORTSTAT_JOINED n 0 else c.drop R.ING_GROUPSTAT_UNDER (was.get R.AUD_PORTCFG_GROUP n))
  c.each ((List.range 16).filter (fun k => c.on R.DEC_DSCFG_EN k && !was.on R.DEC_DSCFG_EN k)) (fun c k => c.decRestart k)

/-- R301, R308: the slot masks that a switch changes on plane p: that of a port in use is committed for the first grid frame at or after the
boundary, and that of a port that the switch adds is its active mask. -/
def Chip.masksSwitched (was c : Chip) (p : Nat) : Chip :=
  let mask (c : Chip) (n : Nat) : Nat := (tget {} c.tables.ports n : PortDef).mask
  c.each ((List.range 48).filter (fun n => c.portOn n && c.get R.AUD_PORTCFG_PLANE n == p)) (fun c n =>
    if !was.portOn n then c.set R.AUD_MASKSTAT_ACTIVE n (mask c n)
    else if mask was n = mask c n then c
    else c.commitMask n (mask c n) 0 (some (pulseNs (c.rateOf p) (c.turn p))))

/-- R87, R195: plane p runs variant v. The drain of a channel whose rates the switch changes is its NOMKB, or its current rate clamped
into the new band; a channel that it adds starts afresh. Flows that it adds are joined, and flows that it removes are left (R317). -/
def Chip.switchVariant (c : Chip) (p v : Nat) : Chip :=
  let was := c
  let c := Chip.masksSwitched was (Chip.membersSwitched was (c.setVariant p v) p) p
  let c := c.each ((List.range 96).filter (fun ch => c.on R.RATE_RCCFG_EN ch && (c.chanDef ch).plane == p)) (fun c ch =>
    let d := c.chanDef ch
    let c := c.when (!was.on R.RATE_RCCFG_EN ch) (fun c =>
      (c.setChan ch { betaIntra := d.betaIntra, betaInter := d.betaInter }).set R.RATE_CARRY ch 0)
    if was.get R.RATE_NOMKB ch ≠ c.get R.RATE_NOMKB ch then c.set R.RATE_CURKB ch (c.get R.RATE_NOMKB ch)
    else if c.get R.RATE_RCCFG_MODE ch = 2 then c
    else c.applyTrim (.chan ch) (c.get R.RATE_CURKB ch))
  let c := c.each (List.range 16) (fun c n =>
    let old := (was.joinedFlows n).map (·.2)
    let new := (c.joinedFlows n).map (·.2)
    let c := c.each (new.filter (fun f => !old.contains f)) (fun c f => c.report f false n)
    c.each (old.filter (fun f => !new.contains f)) (fun c f => c.report f true n))
  c.each ((List.range 32).filter (fun g => c.on R.RATE_SMCFG_EN g && c.get R.RATE_SMCFG_PLANE g == p)) (fun c g =>
    if was.get R.RATE_SMKB g ≠ c.get R.RATE_SMKB g then c.set R.RATE_SMCURKB g (c.get R.RATE_SMKB g) else c)

end Sys2Proof.Machine
end

