-- ==== Sys2Proof/Machine/Power.lean ====
section
/-! DEFINITION. Plane stops and power states: draining, moves between P0 and P4, the seam of the DRAM clock, and the debug grants and
lifecycle requests that wait for the planes to stop (R418, R419, R569–R593). -/

namespace Sys2Proof.Machine

/-- R600: the power state. -/
def Chip.pwrState (c : Chip) : Nat := c.get R.PWR_PWRSTAT_STATE
/-- R600: the state being entered. -/
def Chip.pwrTarget (c : Chip) : Nat := c.get R.PWR_PWRSTAT_TARGET
/-- R600: a move is in progress. -/
def Chip.pwrBusy (c : Chip) : Bool := c.on R.PWR_PWRSTAT_BUSY

/-! ### Stops (R581) -/

/-- R581: every running plane stops at its first boundary from this instant on. -/
def Chip.stopPlanes (c : Chip) : Chip :=
  let run := c.runningPlanes
  let c := c.each run (fun c p => c.setPlane p { c.plane p with stopReq := true })
  { c with pwr := { c.pwr with stopping := true, restart := if c.pwr.restart.isEmpty then run else c.pwr.restart } }

/-- R83: word w of the contract sheet. -/
def Chip.sheetWord (c : Chip) (w : Nat) : Nat := c.get R.GLB_SHEET w

/-- R581: L_max of plane p in fabric cycles: its channels' LATENCY, its audio delays, and its composition delays. -/
def Chip.lmax (c : Chip) (p : Nat) : Nat :=
  let recs := c.sheetWord 0 / 65536
  let lat := (List.range (min 96 recs)).map (fun i =>
    if bits (c.sheetWord (4 + 8 * i)) 15 8 = p then 256 * c.sheetWord (5 + 8 * i) else 0)
  let aud := (c.egFlows (fun f => c.get R.NET_EGCFG_PLANE f == p)).map (fun f => ceilDiv ((c.egDef f).delayNs * 4) 5)
  let outs := (List.range 4).map (fun o => if c.get R.CMP_OUTCFG_PLANE o = p ∧ c.on R.CMP_OUTCFG_EN o then 256 * c.get R.CMP_OUTDELAY o else 0)
  (lat ++ aud ++ outs).foldl max 0

/-- R581: the boundary now met is plane p's stop boundary, if it is to stop. -/
def Chip.stopBoundary (c : Chip) (p : Nat) : Chip :=
  let r := c.plane p
  if r.stopReq ∧ r.stopTurn = none then
    c.setPlane p { r with stopTurn := some (c.turn p), drainAt := r.t + c.lmax p }
  else c

/-- R581: plane p takes no new input in its present Turn. -/
def Chip.drained (c : Chip) (p : Nat) : Bool := match (c.plane p).stopTurn with
  | some n => decide (0 ≤ sdiff 40 (c.turn p) n)
  | none => false

/-! ### The seam (R418, R419) -/

/-- R418: the division changes in a seam once no plane runs. -/
def Chip.callSeam (c : Chip) (div6 : Bool) : Chip := { c with pwr := { c.pwr with seam := some div6 } }

/-- R418: SEAM_START: at a Twist boundary once the planes have drained. -/
def execSeamStart (s : State) : Host.Outcome State Fault Refusal :=
  onChip (fun c =>
    if c.pwr.seam.isSome ∧ c.runningPlanes = [] ∧ c.on R.DRAM_FREQSTAT_SEAM = false then
      { c with dram := { c.dram with seamFrom := c.sched.cyc } }.set R.DRAM_FREQSTAT_SEAM 0 1
    else c) s

/-- R418, R424: the seam is over: FREQSTAT. -/
def Chip.seamOver (c : Chip) : Chip :=
  let us := ceilDiv (c.sched.cyc - c.dram.seamFrom) 800
  let c := (c.set R.DRAM_FREQSTAT_SEAM 0 0).setB R.DRAM_FREQSTAT_DIV6 0 (c.pwr.seam.getD (c.on R.DRAM_FREQSTAT_DIV6))
  let c := (c.set R.DRAM_FREQSTAT_SEAMUS 0 (min 255 us)).bump R.DRAM_FREQSTAT_SEAMS 0
  { c with pwr := { c.pwr with seam := none } }

/-! ### Moves (R587–R591) -/

/-- R588, R589: what a move to P0 or P1 ends with: the state, the gates, the variant of each plane, the rotation, and the planes'
restarts from 64 cycles on. The move ends with the last restart. -/
def Chip.arrive (c : Chip) (t : Nat) : Chip :=
  let was := c.pwr.before
  let v := c.get R.PWR_P1CFG_VARIANT
  let c := (c.set R.PWR_PWRSTAT_STATE 0 t).setB R.SAF_PTSTAT_PAUSED 0 (t == 1)
  let c :=
    if t = 1 then
      let c := { c with pwr := { c.pwr with before := if was = [] then (List.range 4).map (fun p => (p, c.variantOf p)) else was } }
      c.each ((List.range 4).filter (fun p => c.hasDelta p v && c.variantOf p != v)) (fun c p => (c.stageVariant p v).setVariant p v)
    else
      let c := { c with pwr := { c.pwr with before := [] } }
      c.each (was.filter (fun e => c.variantOf e.1 != e.2)) (fun c e => (c.stageVariant e.1 e.2).setVariant e.1 e.2)
  let c := c.when (t == 0) (fun c => { c with saf := { c.saf with visitAt := c.saf.visitAt.map (max (c.sched.cyc + 60000000000)) } })
  let c := { c with pwr := { c.pwr with holdUntil := c.sched.cyc + 64 } }
  let c := c.gatesShown
  c.when c.pwr.restart.isEmpty (fun c => (c.set R.PWR_PWRSTAT_BUSY 0 0).pulse 640)

/-- R418, R419: SEAM_END: every channel has read back its calibration line; a failure is cause 0x8. -/
def execSeamEnd (fail : List (Fin 16)) (s : State) : Host.Outcome State Fault Refusal :=
  onChip (fun c =>
    if c.on R.DRAM_FREQSTAT_SEAM then
      let c := c.seamOver
      match fail with
      | [] => if c.pwrBusy then c.arrive c.pwrTarget else c
      | k :: l => c.dramFault 8 (l.foldl (fun m j => min m j.val) k.val) 0 0
    else c) s

/-- R419: SEAM_TIMEOUT: 64 µs without step 7. -/
def execSeamTimeout (s : State) : Host.Outcome State Fault Refusal :=
  onChip (fun c =>
    if c.on R.DRAM_FREQSTAT_SEAM ∧ c.dram.seamFrom + 51200 ≤ c.sched.cyc then c.seamOver.dramFault 8 0 0 0 else c) s

/-- R589: from P2 to P3, and on toward P4: the Reel is flushed, links and PCIe go down, DRAM loses its contents, and the crystal and
root PLL stop. A D1 session ends (R583). -/
def Chip.enterP3 (c : Chip) (t : Nat) : Chip :=
  let c := c.flushReel 9
  let c := c.when (c.dbgLevel == 1) (·.endSession)
  let c := c.each ((List.range 64).filter c.grpOn) (fun c g =>
    if c.on R.STR_GRPCFG_EIALLOW g ∧ c.grpUp g then c.setGrpState g strIdle else c.setGrpState g strDetect)
  let c := c.each (List.range 16) (fun c n => c.set R.NET_LANESTAT_UP n 0)
  let c := c.ringsClear
  let c := { c with svc := { c.svc with linkUp := false }, dram := { c.dram with mem := [], tags := [] } }
  let c := (c.set R.CLK_ROOTSTAT_XTALOK 0 0).set R.CLK_ROOTSTAT_PLLLOCK 0 0
  let c := (c.set R.PWR_PWRSTAT_STATE 0 3).gatesShown
  if t = 4 then { c with pwr := { c.pwr with ms0 := c.tables.pmic.off } }
  else (c.set R.PWR_PWRSTAT_BUSY 0 0).pulse 640

/-- R589: no plane runs: P2 is entered, and the move goes on or ends. -/
def Chip.enterP2 (c : Chip) : Chip :=
  let c := (c.set R.PWR_PWRSTAT_STATE 0 2).gatesShown
  let t := c.pwrTarget
  if 3 ≤ t then c.enterP3 t else (c.set R.PWR_PWRSTAT_BUSY 0 0).pulse 640

/-- R570, R584, R589: every plane has stopped: a lifecycle request is carried out, or the power move goes on. -/
def Chip.planesStopped (c : Chip) : Chip :=
  if c.pwr.stopping = false ∨ c.runningPlanes ≠ [] then c
  else
    let c := { c with pwr := { c.pwr with stopping := false } }
    match c.sec.lc with
    | some q => c.lcCarry q
    | none =>
      if 2 ≤ c.pwrTarget then c.enterP2
      else if c.pwrBusy then c.callSeam (c.pwrTarget == 1)
      else c

/-- R581: PLANE_DRAINED: plane p has drained at this boundary, and stops. -/
def execPlaneDrained (p : Fin 4) (s : State) : Host.Outcome State Fault Refusal :=
  onChip (fun c =>
    let r := c.plane p.val
    if r.stopTurn.isSome ∧ r.drainAt ≤ r.t ∧ r.phase ≠ .stopped then
      let c := c.setPlane p.val {}
      let c := c.set R.SEQ_PLANESTAT_LOCKED p.val 0
      let c := c.each (c.streamsOf p.val) (fun c st => c.setStream st {})
      let c := c.each (List.range 16) (fun c n => c.laneRunning n)
      let c := c.endReacts (fun x => x.ends == .turn && x.plane == some p.val)
      let c := c.cancelPlane p.val (c.turn p.val) false
      c.planesStopped
    else c) s

/-- R589: a move to state t begins. -/
def Chip.beginMove (c : Chip) (t : Nat) : Chip :=
  let c := (c.set R.PWR_PWRSTAT_TARGET 0 t).set R.PWR_PWRSTAT_BUSY 0 1
  if c.pwrState = 2 then
    if 3 ≤ t then c.enterP3 t
    else if t = 2 then (c.set R.PWR_PWRSTAT_BUSY 0 0).pulse 640
    else
      -- gates open and units are reset; the tables of the running variant are loaded
      let c := c.each (List.range 192) (·.engineReset)
      if c.on R.DRAM_FREQSTAT_DIV6 = (t == 1) then c.arrive t else c.callSeam (t == 1)
  else (c.stopPlanes).planesStopped

/-- R589: P4_OFF_TIMEOUT: 1 s after the off sequence the supplies are still present. -/
def execP4OffTimeout (s : State) : Host.Outcome State Fault Refusal :=
  onChip (fun c =>
    if c.pwrState = 3 ∧ c.pwrTarget = 4 ∧ c.pwrBusy = true then
      let c := (c.set R.PWR_PWRSTAT_P4FAIL 0 1).set R.PWR_PWRSTAT_TARGET 0 3
      ((c.set R.PWR_PWRSTAT_BUSY 0 0).pulse 640).pulse 641
    else c) s

/-! ### Grants and requests that stop the planes (R569, R570, R582, R584) -/

/-- R584 step 3: the planes of a running chip stop, on the way to P2. -/
def Chip.deepStop (c : Chip) : Chip :=
  if c.pwrState < 2 then (((c.set R.PWR_PWRSTAT_TARGET 0 2).set R.PWR_PWRSTAT_BUSY 0 1).stopPlanes).planesStopped else c

/-- R584 steps 1 and 2: the keys are zeroised, the entry is written and the reaction begins. -/
def Chip.deepOpen (c : Chip) (level : Nat) : Chip :=
  (c.zeroise.reelDevice 5 4 0 (leBytes 1 level)).fault 3 4 26 blkSec 0x07 0 none

/-- R584 steps 1 to 3: a D2 or D3 token is verified: the keys are zeroised, the entry is written, the reaction begins and P2 is
entered. -/
def Chip.deepGrant (c : Chip) (level dur : Nat) : Chip :=
  let c := ((c.deepOpen level).set R.SEC_DBGSTAT_PENDING 0 1).set R.SEC_DBGSTAT_PENDLVL 0 level
  { c with sec := { c.sec with dur := dur } }.deepStop

/-- R582: TOKEN_VERDICT: `ms` after its submission, at most 20 ms, the token is accepted or refused. One that asks a lower level ends the session (R583). -/
def execTokenVerdict (ms : Fin 21) (s : State) : Host.Outcome State Fault Refusal :=
  onChip (fun c =>
    match c.sec.token with
    | none => c
    | some t =>
      let c := { c with sec := { c.sec with token := none } }
      let level := leAt t 0 1
      let dur := leAt t 4 4
      let now := c.sec.tokenAt + ms.val * 800000
      if c.tokenOk t = false then c.tokenFail now
      else if level < c.dbgLevel then c.endSession
      else if level = 1 then { c with sec := { c.sec with dur := dur } }.grantLevel 1
      else if level = c.dbgLevel then { c with sec := { c.sec with endAt := now + dur * 800000000 } }.remainShown
      else c.deepGrant level dur) s

/-- R584 step 4: DEBUG_GRANT: the last plane has drained and P2 is reached. -/
def execDebugGrant (s : State) : Host.Outcome State Fault Refusal :=
  onChip (fun c =>
    if c.on R.SEC_DBGSTAT_PENDING ∧ c.pwrState = 2 ∧ c.runningPlanes = [] then c.grantLevel (c.get R.SEC_DBGSTAT_PENDLVL) else c) s

/-- R569: a lifecycle request is rejected: the state stays, with AUTHFAIL and source 629. -/
def Chip.lcReject (c : Chip) : Chip := c.authFail.pulse 629

/-- R570: an accepted request: every running plane stops first. -/
def Chip.lcAccept (c : Chip) (q : LcRequest) : Chip :=
  (({ c with sec := { c.sec with lc := some q } }).stopPlanes).planesStopped

/-- R569, R585: PROVISION: in BLANK at D3, naming the device and its nonce. -/
def execProvision (r : List Byte) (s : State) : Host.Outcome State Fault Refusal :=
  onChip (fun c =>
    if c.lcs = 0 ∧ c.dbgLevel = 3 ∧ c.sec.lc = none ∧ leAt r 0 1 = 0x11 ∧ c.headerOk r = true then c.lcAccept (.provision r)
    else c.lcReject) s

/-- R569, R585: DEPLOY, with its header to 0x8F and what follows it: in PROVISIONED, signed by a key among KH1–KH7 with the lifecycle role. -/
def execDeploy (r sig : List Byte) (s : State) : Host.Outcome State Fault Refusal :=
  onChip (fun c =>
    let r := r ++ sig
    let k := leAt r 1 1
    if c.lcs = 1 ∧ c.sec.lc = none ∧ leAt r 0 1 = 0x12 ∧ c.headerOk r = true ∧ k ≠ 0 ∧ c.keyOk k 3 (slice r 0x30 96) = true ∧
        headerSigned r 0x30 = true then c.lcAccept .deploy
    else c.lcReject) s

/-- R569, R585: RMA, with its header to 0x8F, the first signature to 0xFF and the customer key and signature: in PROVISIONED or DEPLOYED, signed by KH0 and by a customer key with the lifecycle role. -/
def execRma (r sig cust : List Byte) (s : State) : Host.Outcome State Fault Refusal :=
  onChip (fun c =>
    let r := r ++ sig ++ cust
    let cust := (range' 1 8).any (fun k => c.keyOk k 3 (slice r 0x100 96))
    if (c.lcs = 1 ∨ c.lcs = 2) ∧ c.sec.lc = none ∧ leAt r 0 1 = 0x13 ∧ c.headerOk r = true ∧ c.keyOk 0 3 (slice r 0x30 96) = true ∧
        cust = true ∧ headerSigned r 0x30 = true ∧ headerSigned r 0x100 = true then c.lcAccept .rma
    else c.lcReject) s

end Sys2Proof.Machine
end

