-- ==== Sys2Proof/Machine/Commands.lean ====
section
/-! DEFINITION. Commands from the host, in-band management and the partner: the order of their checks, journaling, acceptance, and
their effects at their boundaries or at once (R504–R512, R515, R516, R573–R575, R589, R590, R624). -/

namespace Sys2Proof.Machine

/-! ### Messages (R504, R506, R509) -/

/-- R504: CODE. -/
def msgCode (m : CmdMsg) : Nat := leAt m.head 0 2
/-- R504: the byte of PLANE. -/
def msgPlane (m : CmdMsg) : Nat := leAt m.head 2 1
/-- R504: the byte of FLAGS. -/
def msgFlags (m : CmdMsg) : Nat := leAt m.head 3 1
/-- R504: ARGLEN. -/
def msgArglen (m : CmdMsg) : Nat := leAt m.head 4 4
/-- R504: TOKEN. -/
def msgToken (m : CmdMsg) : Nat := leAt m.head 8 8
/-- R504: EFFTURN. -/
def msgEff (m : CmdMsg) : Nat := leAt m.head 0x10 8

/-- R509: the code of a command; none for a code outside the table, or one that only the device writes. -/
def cmdCode : CmdArg → Option Nat
  | .hello => some 0x0000
  | .variant _ => some 0x0101
  | .trim _ _ => some 0x0102
  | .mute _ => some 0x0103
  | .unmute _ => some 0x0104
  | .forceSub _ => some 0x0105
  | .release _ => some 0x0106
  | .splice _ => some 0x0107
  | .keyLoad => some 0x0201
  | .keyClear _ => some 0x0202
  | .selfTest _ => some 0x0301
  | .ply _ => some 0x0401
  | .power _ => some 0x0501
  | .installBegin _ _ => some 0x0601
  | .installData _ _ => some 0x0602
  | .installCommit _ => some 0x0603
  | .installAbort => some 0x0604
  | .logRead _ _ _ => some 0x0701
  | .unknown => none

/-- R509: the codes of the table that a sender may use. -/
def sentCodes : List Nat :=
  [0x0000, 0x0101, 0x0102, 0x0103, 0x0104, 0x0105, 0x0106, 0x0107, 0x0201, 0x0202, 0x0301, 0x0401, 0x0501, 0x0601, 0x0602, 0x0603,
   0x0604, 0x0701]

/-- R509: the message's code is that of what it asks. -/
def codeFits (m : CmdMsg) (a : CmdArg) : Bool := match cmdCode a with
  | some k => msgCode m == k
  | none => !sentCodes.contains (msgCode m)

/-- R509: the commands without an effective Turn. -/
def atOnce : CmdArg → Bool
  | .installBegin _ _ | .installData _ _ | .installCommit _ | .installAbort | .logRead _ _ _ => true
  | _ => false

/-- R509: the commands that are not journaled. -/
def unjournaled : CmdArg → Bool
  | .installData _ _ | .logRead _ _ _ => true
  | _ => false

/-- R510: the commands that act on the whole device; an install is one too. -/
def deviceWide : CmdArg → Bool
  | .keyLoad | .keyClear _ | .ply _ | .power _ | .installBegin _ _ | .installCommit _ | .installAbort => true
  | _ => false

/-- R624: the commands that a non-holder rejects and a holder forwards. -/
def pairedCmd : CmdArg → Bool
  | .variant _ | .trim _ _ | .mute _ | .unmute _ | .forceSub _ | .release _ | .splice _ => true
  | _ => false

/-- R506: the capability bit that a command needs. -/
def needCap : CmdArg → Option Nat
  | .splice _ => some 4
  | .ply _ => some 5
  | .keyLoad | .keyClear _ => some 6
  | .installBegin _ _ | .installData _ _ | .installCommit _ | .installAbort => some 7
  | _ => none

/-- R506: the host runs at 2.x, where TOKEN and FLAGS are taken as 0. -/
def Chip.oldHost (c : Chip) (origin : Nat) : Bool := origin == 1 && decide (c.get R.SVC_HOSTVER_MAJOR < 3)

/-- R506: capabilities in force; in-band messages run at 3.1 with all of them. -/
def Chip.capsOf (c : Chip) (origin : Nat) : Nat := if origin = 1 then c.get R.SVC_HOSTVER_CAPS else 0xFF

/-- R504, R506: TOKEN as taken. -/
def Chip.tokenOf (c : Chip) (origin : Nat) (m : CmdMsg) : Nat := if c.oldHost origin then 0 else msgToken m
/-- R504, R506: FLAGS as taken. -/
def Chip.flagsOf (c : Chip) (origin : Nat) (m : CmdMsg) : Nat := if c.oldHost origin then 0 else msgFlags m

/-- R504: the fields of a message keep their limits. -/
def msgOk (m : CmdMsg) (flags : Nat) (a : CmdArg) : Bool :=
  let most := match a with
    | .installData _ _ => 1048576
    | _ => 4096
  decide (msgPlane m < 4) && decide (flags < 8) && decide (msgEff m < 2 ^ 40) && decide (msgArglen m ≤ most)

/-- R508 step 1, R506, R76: what ends a message before it is handled. Without a running image only HELLO, the INSTALL commands and
LOGREAD are served. -/
def Chip.step1 (c : Chip) (origin : Nat) (m : CmdMsg) (a : CmdArg) : Option Nat :=
  let flags := c.flagsOf origin m
  let caps := c.capsOf origin
  let lacks (k : Nat) : Bool := !bit caps k
  if origin = 1 ∧ c.svc.hello = false then some 0x10
  else if cmdCode a = none ∨ a = .hello then some 0x10
  else if (needCap a).any lacks ∨ (bit flags 0 ∧ lacks 0) ∨ (bit flags 2 ∧ lacks 1) then some 0x10
  else if msgOk m flags a = false then some 0x10
  else if c.boot.complete = false ∧ atOnce a = false then some 0x14
  else none

/-! ### Validation (R508 step 4, R510, R512) -/

/-- R512: what a command is for, as its code group, a kind and an index. -/
def cmdTarget (slot : Nat) : CmdArg → Nat × Nat × Nat
  | .variant _ => (1, 0, 0)
  | .trim (.chan x) _ => (2, 0, x)
  | .trim (.group x) _ => (2, 1, x)
  | .mute (.flow x) | .unmute (.flow x) => (3, 0, x)
  | .mute (.port x _) | .unmute (.port x _) => (3, 1, x)
  | .forceSub (.flow x) | .release (.flow x) => (4, 0, x)
  | .forceSub (.dec x) | .release (.dec x) => (4, 1, x)
  | .splice x => (5, 0, x.chan)
  | .selfTest x => (6, 0, x)
  | .keyLoad => (7, 0, slot)
  | .keyClear x => (7, 1, x)
  | .ply _ => (8, 0, 0)
  | .power _ => (9, 0, 0)
  | _ => (10, 0, 0)

/-- R512: a second command of a code for one target and one effective Turn. -/
def Chip.conflicts (c : Chip) (plane eff slot : Nat) (a : CmdArg) : Bool :=
  c.svc.cmds.any (fun q => !q.atOnce && q.plane == plane && q.eff == eff && cmdTarget (c.pendSlot q.seq) q.arg == cmdTarget slot a)

/-- R192: the tables in force on plane p at Turn `eff`, once the switches pending by then have applied. -/
def Chip.tablesAt (c : Chip) (p eff : Nat) : SkeinTables :=
  match ((c.switches p).filter (fun q => decide (0 ≤ sdiff 40 eff q.1.eff))).getLast? with
  | some (_, v) => (List.range 4).foldl (fun t q => mergeTables t (c.delta q (if q = p then v else c.variantOf q))) (tget {} c.variants 0)
  | none => c.tables

/-- A field of an SK register as given tables have it. -/
def skIn (t : SkeinTables) (f : Fld) (i : Nat) : Nat := f.read (tabGet regReset t.sk (f.at i))

/-- R192: Turns that a trim needs: max(2, ⌈C / P⌉ + 1); for a statmux group, the most that a member needs. -/
def Chip.trimTurns (c : Chip) (t : RateTarget) : Nat :=
  let need (ch : Nat) : Nat :=
    let (a, b) := c.framePeriod ch
    max 2 (ceilDiv ((c.chanDef ch).cpbNs * b) (max 1 a) + 1)
  match t with
  | .chan ch => need ch
  | .group g => ((c.smMembers g).map need).foldl max 2

/-- R188, R192: whether a trim is admitted: its target exists on the plane and the rate lies within the band in force at that Turn. -/
def Chip.trimOk (c : Chip) (p eff : Nat) (t : RateTarget) (kb : Nat) : Bool :=
  let tb := c.tablesAt p eff
  match t with
  | .chan ch =>
    decide (ch < 96) && skIn tb R.RATE_RCCFG_EN ch == 1 && skIn tb R.RATE_RCCFG_MODE ch != 2 && (tget {} tb.chans ch).plane == p &&
      decide (skIn tb R.RATE_MINKB ch ≤ kb ∧ kb ≤ skIn tb R.RATE_MAXKB ch)
  | .group g =>
    let ms := (List.range 96).filter (fun ch => skIn tb R.RATE_RCCFG_EN ch == 1 && skIn tb R.RATE_RCCFG_MODE ch == 2 &&
      skIn tb R.RATE_RCCFG_SMGROUP ch == g)
    decide (g < 32) && skIn tb R.RATE_SMCFG_EN g == 1 && skIn tb R.RATE_SMCFG_PLANE g == p &&
      decide ((ms.map (skIn tb R.RATE_MINKB)).sum ≤ kb ∧ kb ≤ (ms.map (skIn tb R.RATE_MAXKB)).sum)

/-- R512: whether what a command names exists. -/
def Chip.targetIs (c : Chip) (p : Nat) : CmdArg → Bool
  | .trim (.chan x) _ => decide (x < 96) && c.on R.RATE_RCCFG_EN x && (c.chanDef x).plane == p
  | .trim (.group x) _ => decide (x < 32) && c.on R.RATE_SMCFG_EN x
  | .mute (.flow x) | .unmute (.flow x) => decide (x < 1024) && c.on R.NET_EGCFG_EN x
  | .mute (.port x _) | .unmute (.port x _) => decide (x < 48) && c.on R.AUD_PORTCFG_EN x
  | .forceSub (.flow x) | .release (.flow x) => decide (x < 1024) && c.on R.ING_FLOWCFG_EN x
  | .forceSub (.dec x) | .release (.dec x) => decide (x < 16) && c.on R.DEC_DSCFG_EN x
  | .splice x => decide (x.chan < 96) && c.on R.RATE_RCCFG_EN x.chan && (c.chanDef x.chan).plane == p
  | .selfTest x => decide (x < 16) && c.loaded x
  | _ => true

/-- R573, R574: the tag of a key package verifies under KWK. -/
def Chip.packageTag (c : Chip) (b : List Byte) : Bool :=
  gcmTag (leBytes 32 c.sec.kwk) (slice b 0x18 12) (b.take 0x24) (slice b 0x24 64) == slice b 0x64 16

/-- R572, R573: the key bytes of a package, unwrapped under KWK. -/
def Chip.unwrapKey (c : Chip) (b : List Byte) : List Byte :=
  (gcmCrypt (leBytes 32 c.sec.kwk) (slice b 0x18 12) (slice b 0x24 64)).take (if leAt b 7 1 = 1 then 46 else 32)

/-- R574: step 4 of R508 for a KEYLOAD package. -/
def Chip.keyloadCheck (c : Chip) (m : CmdMsg) : Nat :=
  let b := m.arg
  let slot := leAt b 6 1
  let type := leAt b 7 1
  let gen := leAt b 0x10 4
  let k := leAt b 0x14 1
  let newest := ((c.sec.pend.filter (fun q => q.slot == slot)).getLast?.map (·.gen)).getD (c.get R.SEC_KSGEN slot)
  if c.lcs = 0 ∨ c.lcs = 3 then 0x14
  else if leAt b 0 4 ≠ 0x4B455921 ∨ leAt b 4 2 ≠ 1 ∨ msgArglen m ≠ 320 ∨ b.length ≠ 320 ∨ (type ≠ 1 ∧ type ≠ 2) ∨
      leAt b 8 8 ≠ c.devsn then 0x10
  else if k = 0 ∨ c.keyOk k 1 (slice b 0x80 96) = false then 0x10
  else if ecdsaOk (slice b 0x80 96) (slice b 0xE0 96) (b.take 0xE0) = false ∨ c.packageTag b = false then 0x10
  else if later 32 gen newest then 0x01 else 0x11

/-- R589–R592: what is made of a POWER command. -/
def Chip.powerCheck (c : Chip) (t : Nat) : Nat :=
  if 4 < t then 0x10
  else if 2 ≤ c.dbgLevel ∧ (t = 0 ∨ t = 1 ∨ t = 3) then 0x14
  else if t = 1 ∧ c.on R.PWR_P1CFG_EN = false then 0x11
  else if c.pwrState = 2 ∧ c.pwrBusy then 0x14
  else 0x01

/-- R77, R443, R446: partitions that an install writes: for a golden one, every copy that is not retired; else slot C's, or, where
that is retired, another that remains, one that no slot names first. -/
def Chip.installParts (c : Chip) (golden : Bool) : List Nat :=
  let live (i : Nat) : Bool := ((c.nand.dir.pstate.getD i (0, 0)).1 != 3)
  if golden then [3, 4, 5].filter live
  else
    let slots := c.nand.dir.slots
    let free := [0, 1, 2].filter (fun i => !slots.contains i)
    ((free ++ slots.reverse.filter (fun i => decide (i < 3))).filter live).take 1

/-- R443, R590: what is made of an INSTALL command. -/
def Chip.installCheck (c : Chip) : CmdArg → Nat
  | .installBegin golden len =>
    let tokens := if golden then c.nand.dir.goldtok else c.nand.dir.insttok
    if len = 0 ∨ 268435456 < len then 0x10
    else if c.pwrState = 2 ∨ c.svc.install.isSome ∨ tokens = 0 ∨ c.installParts golden = [] then 0x14
    else 0x01
  | _ => if c.svc.install = none ∨ c.pwrState = 2 then 0x14 else 0x01

/-- R508 step 4: the admission of a command that has passed the rules on planes and Turns. -/
def Chip.admission (c : Chip) (p eff : Nat) (m : CmdMsg) (a : CmdArg) : Nat :=
  match a with
  | .variant v => if c.pwrState = 1 then 0x14 else if v = 0 ∨ c.hasDelta p v then 0x01 else 0x11
  | .trim t kb => if c.trimOk p eff t kb then 0x01 else 0x11
  | .splice x =>
    if 7 < x.repeats then 0x10
    else if c.targetIs p a = false then 0x11
    else if sdiff 40 x.spliceTurn eff < 0 then 0x12
    else 0x01
  | .keyLoad => c.keyloadCheck m
  | .ply k =>
    if k = 0 ∨ 6 < k then 0x10
    else if c.plyOn = false then 0x14
    else if k = 6 ∧ (c.role ≠ roleFenced ∨ c.on R.PLY_PLYSTAT_PARTNER = true) then 0x14
    else 0x01
  | .power t => c.powerCheck t
  | .installBegin _ _ | .installCommit _ | .installAbort => c.installCheck a
  | _ => if c.targetIs p a then 0x01 else 0x11

/-- R508 step 4: whether the role, the plane and the Turn let a command through, with its effective Turn (R510, R624, R626). -/
def Chip.turnCheck (c : Chip) (origin : Nat) (m : CmdMsg) (a : CmdArg) : Nat × Nat :=
  let p := msgPlane m
  let turn := c.turn p
  let least := match a with
    | .trim t _ => c.trimTurns t
    | _ => 2
  let power := match a with
    | .power _ => true
    | _ => false
  let early := bit (c.flagsOf origin m) 1
  let eff := if early then (turn + least) % 2 ^ 40 else msgEff m
  let d := sdiff 40 eff turn
  if atOnce a then (0x01, turn)
  else if power = true ∧ c.pwrState = 2 then (0x01, turn)
  else if pairedCmd a ∧ c.plyOn ∧ c.role ≠ roleHolder ∧ c.on R.PLY_PLYSTAT_WARM = false then (0x14, eff)
  else if c.running p = false then (0x14, eff)
  else if d < least ∨ 2 ^ 24 < d then (0x12, eff)
  else (0x01, eff)

/-- R508 step 4: RESULT (0x01 where it is accepted) and effective Turn of a command. -/
def Chip.validate (c : Chip) (origin : Nat) (m : CmdMsg) (a : CmdArg) : Nat × Nat :=
  let (r, eff) := c.turnCheck origin m a
  if r ≠ 0x01 then (r, eff)
  else
    let r := c.admission (msgPlane m) eff m a
    if r ≠ 0x01 then (r, eff)
    else if atOnce a = false ∧ c.conflicts (msgPlane m) eff (leAt m.arg 6 1) a = true then (0x13, eff)
    else if atOnce a = false ∧ 1024 ≤ (c.svc.cmds.filter (fun q => !q.atOnce)).length then (0x16, eff)
    else if bit (c.flagsOf origin m) 0 ∧ c.mirror = false then (0x17, eff)
    else (0x01, eff)

/-! ### Effects at once (R77, R443, R509) -/

/-- R441, R452: WRITING of the partitions of an install. -/
def Chip.writingShown (c : Chip) (l : List Nat) (b : Bool) : Chip := c.each l (fun c i => c.setB R.NAND_PARTSTAT_WRITING i b)

/-- R443: INSTALL_BEGIN consumes a token. -/
def Chip.installBegin (c : Chip) (golden : Bool) (len seq : Nat) : Chip :=
  let d := c.nand.dir
  let parts := c.installParts golden
  let c := c.setDir (if golden then { d with goldtok := d.goldtok - 1 } else { d with insttok := d.insttok - 1 })
  let c := { c with svc := { c.svc with install := some { golden := golden, len := len, seq := seq, parts := parts } } }
  c.dirShown.writingShown parts true

/-- R77: an install ends. -/
def Chip.installEnd (c : Chip) : Chip :=
  match c.svc.install with
  | some x => { c with svc := { c.svc with install := none } }.writingShown x.parts false
  | none => c

/-- R77: bytes of the image received. -/
def Install.image (x : Install) : List Byte := (List.range x.len).map (fun i => tget 0 x.data i)

/-- R77: one write to the slot directory renames the slots: the new image becomes A, the old A becomes B and the old B becomes C. -/
def Chip.installRename (c : Chip) (x : Install) (gen : Nat) : Chip :=
  let d := c.nand.dir
  let put (d : DirRec) (i : Nat) : DirRec :=
    { d with pstate := listSet d.pstate i (if x.golden then (2, 0) else (1, 0)), pgen := listSet d.pgen i gen }
  let d := x.parts.foldl put d
  let d := if x.golden then d else { d with slots := ((x.parts ++ d.slots.filter (fun i => !x.parts.contains i)) ++ [0xFF, 0xFF]).take 3 }
  (c.setDir d).writeDir

/-- R77: the image as partition i reads it back. -/
def backImage (v : InstallBack) (i : Nat) (b : List Byte) : List Byte :=
  v.diffs.foldl (fun b d => if d.1 = i then listSet b d.2.1 d.2.2 else b) b

/-- R69, R73, R77, R443: the image is written to its partitions in turn, each read back and checked again, up to the first that
fails. -/
def Chip.installWrite (c : Chip) (golden : Bool) (b : List Byte) (v : InstallBack) : List Nat → Chip × Bool
  | [] => (c, true)
  | i :: l =>
    let back := backImage v i b
    let c := { c with nand := { c.nand with images := tset [] c.nand.images i back } }
    if v.unread.contains i = false ∧ c.imageCheck back golden v.unparsed = 0 then c.installWrite golden b v l else (c, false)

/-- R69, R73, R77: INSTALL_COMMIT: the image is checked, written to its partition, read back and checked again, and the slots are
renamed; its RESULT. An image that fails ends the install. -/
def Chip.installCommit (c : Chip) (v : InstallBack) : Chip × Nat :=
  match c.svc.install with
  | none => (c, 0x14)
  | some x =>
    let b := x.image
    if c.imageCheck b x.golden v.unparsed ≠ 0 then (c.installEnd, 0x10)
    else
      let (c, ok) := c.installWrite x.golden b v x.parts
      if ok then ((c.installRename x (leAt b 0x10 8)).installEnd, 0x00) else (c.installEnd, 0x10)

/-- R509: INSTALL_DATA: bytes at an offset of the image. -/
def Chip.installData (c : Chip) (off : Nat) (bytes : List Byte) : Chip × Nat :=
  match c.svc.install with
  | none => (c, 0x14)
  | some x =>
    if x.len < off + bytes.length then (c, 0x10)
    else if c.pwrState = 2 then (c, 0x14)
    else
      let data := bytes.zipIdx.foldl (fun t (b, i) => tset 0 t (off + i) b) x.data
      ({ c with svc := { c.svc with install := some { x with data := data } } }, 0x00)

/-- R443, R509: LOGREAD: entries of the event log, oldest first, are copied to the host. -/
def Chip.logRead (c : Chip) (addr first count : Nat) : Chip × Nat :=
  let all := c.nand.log.reverse.flatten ++ c.nand.logPage
  ({ c with svc := { c.svc with logOut := some (addr, (all.drop first).take count) } }, 0x00)

/-! ### Effects at a boundary (R510, R512) -/

/-- R301: a mute of audio slots commits a mask for the first grid frame at or after the boundary. -/
def Chip.mutePort (c : Chip) (p n mask : Nat) (on : Bool) : Chip :=
  let cur := if c.on R.AUD_PORTSTAT_MASKPEND n then c.get R.AUD_MASKSTAT_PEND n else c.get R.AUD_MASKSTAT_ACTIVE n
  let m := mask % 65536
  c.commitMask n (if on then cur &&& (65535 - m) else cur ||| m) 0 (some (pulseNs (c.rateOf p) (c.turn p)))

/-- R335, R336: a splice: the section waits for its opportunity on the channel's TS flows, or is counted as dropped where the channel
is sent as native RTP alone; the picture of the splice Turn is to be a refresh picture. -/
def Chip.applySplice (c : Chip) (x : SpliceArg) : Chip :=
  let flows := c.egFlows (fun f => match (c.egDef f).src with
    | .chan ch => ch == x.chan
    | _ => false)
  let ts := flows.any (fun f => (c.egDef f).ts.sctePid.isSome)
  let p := (c.chanDef x.chan).plane
  let c := { c with net := { c.net with spliceTurns := c.net.spliceTurns ++ [(x.chan, x.spliceTurn)] } }
  if ts then
    let s : Splice := { chan := x.chan, sendTurn := c.turn p, spliceTurn := x.spliceTurn, ctype := x.ctype, pre := x.pre,
                        post := x.post, descs := x.descs, left := x.repeats }
    { c with net := { c.net with splices := c.net.splices ++ [s] } }
  else c.each (flows.filter (fun f => c.egLead f == f)) (fun c f => c.setEg f { c.eg f with spliceDrops := (c.eg f).spliceDrops + 1 })

/-- R335: at the boundary of a splice Turn its picture is ordered as a refresh picture. -/
def Chip.spliceBoundary (c : Chip) (p : Nat) : Chip :=
  let now := c.net.spliceTurns.filter (fun x => (c.chanDef x.1).plane == p && x.2 == c.turn p)
  let rest := c.net.spliceTurns.filter (fun x => !((c.chanDef x.1).plane == p && decide (sdiff 40 x.2 (c.turn p) ≤ 0)))
  ({ c with net := { c.net with spliceTurns := rest } }).each now (fun c x => c.orderRefreshNow x.1)

/-- R509: a member is forced to substitute, or released. -/
def Chip.forceMember (c : Chip) (x : Member) (on : Bool) : Chip :=
  match x with
  | .flow f => c.setFlow f { c.flow f with forced := on }
  | .dec s => c.setDec s { c.dec s with forced := on }

/-- R624: a PLY action at its boundary, and its RESULT. -/
def Chip.plyAction (c : Chip) (k : Nat) : Chip × Nat :=
  match k with
  | 1 => if c.mayTransfer then ({ c with ply := { c.ply with want := true } }, 0) else (c, 0x14)
  | 2 => ({ c with ply := { c.ply with hold := true } }, 0)
  | 3 => ({ c with ply := { c.ply with hold := false } }, 0)
  | 4 =>
    if c.role = roleFenced then (c, 0)
    else if c.mayTransfer then ({ c with ply := { c.ply with want := true, fenceAfter := true } }, 0)
    else (c.plyFence 4 false, 0)
  | 5 =>
    if c.role = roleFenced ∧ c.on R.PLY_PLYSTAT_PARTNER = true then
      (({ c with ply := { c.ply with joining := true } }).plySend 0x0A [0x06, 0x00], 0)
    else (c, 0x14)
  | _ => if c.role = roleFenced ∧ c.on R.PLY_PLYSTAT_PARTNER = false then (c.takeBobbin 4, 0) else (c, 0x14)

/-- R589: POWER takes effect; a state that the device is in already is kept. -/
def Chip.applyPower (c : Chip) (t : Nat) : Chip := if t = c.pwrState ∧ c.pwrBusy = false then c else c.beginMove t

/-- R510, R512: the effect of a pending command at its boundary, and its RESULT. -/
def Chip.applyCmd (c : Chip) (q : PendCmd) : Chip × Nat :=
  let p := q.plane
  if c.targetIs p q.arg = false then (c, 0x24)
  else match q.arg with
    | .variant v => if (tget {} c.varPend p).swapped then (c.switchVariant p v, 0) else (c.set R.GLB_VARIANT_MISSED p 1, 0x20)
    | .trim t kb => (c.applyTrim t kb, 0)
    | .mute (.flow f) => (c.muteFlow f true, 0)
    | .unmute (.flow f) => (c.muteFlow f false, 0)
    | .mute (.port n m) => (c.mutePort p n m true, 0)
    | .unmute (.port n m) => (c.mutePort p n m false, 0)
    | .forceSub x => (c.forceMember x true, 0)
    | .release x => (c.forceMember x false, 0)
    | .splice x => (c.applySplice x, 0)
    | .keyLoad => c.applyKeyload q.seq
    | .keyClear k => ((c.clearSlot k).pulse 626, 0)
    | .selfTest x => c.queueSelftest x
    | .ply k => c.plyAction k
    | .power t => (c.applyPower t, 0)
    | _ => (c, 0)

/-- R512: the order of the codes at one boundary. -/
def cmdOrder : CmdArg → Nat
  | .variant _ => 0 | .trim _ _ => 1 | .mute _ | .unmute _ => 2 | .forceSub _ | .release _ => 3 | .splice _ => 4 | .selfTest _ => 5
  | .keyLoad | .keyClear _ => 6 | .ply _ => 7 | .power _ => 8 | _ => 9

/-- R59, R510, R512: pending commands take effect; the results follow once all have. -/
def Chip.applyCmds (c : Chip) (l : List PendCmd) : Chip :=
  let due := (List.range 10).flatMap (fun k => l.filter (fun q => cmdOrder q.arg == k))
  let (c, done) := due.foldl (fun (c, done) q =>
    let slot := c.pendSlot q.seq
    let (c, r) := c.applyCmd q
    (c.trace 6 q.plane 0 q.seq, done ++ [(q, r, slot)])) (c, ([] : List (PendCmd × Nat × Nat)))
  c.each done (fun c x => (c.finish x.1 x.2.1).cmdShown x.1 x.2.2)

/-- R589, R593: a POWER command that moves the device is due on plane p. -/
def Chip.powerDue (c : Chip) (due : List PendCmd) : Bool := due.any (fun q => match q.arg with
  | .power t => t != c.pwrState || c.pwrBusy
  | _ => false)

/-- R512, R593: the commands due at this boundary of plane p. Where the boundary is one at which the plane stops, a POWER due at
it takes effect and every other command of the plane from this boundary on completes with 0x23. -/
def Chip.commandsBoundary (c : Chip) (p : Nat) : Chip :=
  let n := c.turn p
  let due := c.svc.cmds.filter (fun q => q.plane == p && q.eff == n && !q.atOnce)
  let r := c.plane p
  if r.stopTurn.isSome then c.cancelPlane p n false
  else if r.stopReq || c.powerDue due then
    let c := c.cancelPlane p n true
    c.applyCmds (due.filter (fun q => cmdOrder q.arg == 8))
  else c.applyCmds due

/-! ### Acceptance (R508 steps 2 to 5, R515, R624) -/

/-- R624: a journaled command is forwarded: one of a pair's holder, or a POWER, to a partner that takes forwards. -/
def Chip.forwards (c : Chip) (a : CmdArg) : Bool :=
  let power := match a with
    | .power _ => true
    | _ => false
  let heard := c.plyOn && c.on R.PLY_PLYSTAT_PARTNER && c.ply.hello.isSome && bit c.ply.caps 2
  heard && (power || (pairedCmd a && c.role == roleHolder && !c.on R.PLY_PLYSTAT_WARM))

/-- R624: the message that is forwarded, with the TOKEN and the EFFTURN journaled. -/
def forwardMsg (m : CmdMsg) (token eff : Nat) : CmdMsg :=
  { m with head := m.head.take 8 ++ leBytes 8 token ++ leBytes 8 eff ++ m.head.drop 0x18 }

/-- R510: the action of a command without an effective Turn, and of a POWER in P2 (R590), with its final RESULT. -/
def Chip.actAtOnce (c : Chip) (q : PendCmd) : Chip :=
  match q.arg with
  | .installBegin golden len => (c.installBegin golden len q.seq).finish q 0x00
  | .installCommit v =>
    let (c, r) := c.installCommit v
    c.finish q r
  | .installAbort => c.installEnd.finish q 0x00
  | .power t => (c.finish q 0x00).applyPower t
  | _ => c

/-- R574: the key of an accepted KEYLOAD waits in the key store. -/
def Chip.holdKey (c : Chip) (seq : Nat) (m : CmdMsg) (a : CmdArg) : Chip :=
  match a with
  | .keyLoad =>
    let k : PendKey := { seq := seq, slot := leAt m.arg 6 1, type := leAt m.arg 7 1, gen := leAt m.arg 0x10 4, key := c.unwrapKey m.arg }
    { c with sec := { c.sec with pend := c.sec.pend ++ [k] } }
  | _ => c

/-- R515: a journaled command is acknowledged: a DURABLE one once its acceptance image is in NAND. -/
def Chip.acknowledge (c : Chip) (e : ReelEntry) (dest : Answer) (code : Nat) : Chip :=
  let x := { e.completion false with code := code }
  if e.durable ∧ c.mirror then { c with svc := { c.svc with durable := c.svc.durable ++ [(e.seq, ⟨dest, x⟩)] } } else c.answer dest x

/-- R510: a command accepted under a sequence awaits its boundary, or acts at once. -/
def Chip.hold (c : Chip) (q : PendCmd) (m : CmdMsg) : Chip :=
  let slot := leAt m.arg 6 1
  let c := { c with svc := { c.svc with cmds := c.svc.cmds ++ [q] } }
  let c := (c.holdKey q.seq m q.arg).reelShown
  let c := c.cmdShown q slot
  c.when (c.forwards q.arg) (fun c =>
    { c with ply := { c.ply with forward := c.ply.forward ++ [(q.seq, forwardMsg m q.token q.eff, q.arg)] } })

/-- R508 steps 4 and 5: a command is validated, journaled, acknowledged and, where it acts at once, carried out. -/
def Chip.journal (c : Chip) (origin : Nat) (dest : Answer) (m : CmdMsg) (a : CmdArg) : Chip :=
  let p := msgPlane m
  let flags := c.flagsOf origin m
  let (r, eff) := c.validate origin m a
  let e : ReelEntry := { turn := c.turn p, plane := p + 4 * b2n (deviceWide a), code := msgCode m, origin := origin, result := r,
                         token := c.tokenOf origin m, eff := eff, durable := bit flags 0, final := r != 0x01,
                         argdig := argDigest (m.head ++ m.arg) }
  let (c, seq) := c.reelPush e
  let recent := c.svc.accepted.filter (fun t => decide (c.sched.cyc < t + 800000000))
  let c := { c with svc := { c.svc with accepted := c.sched.cyc :: recent } }
  let e := { e with seq := seq }
  if r ≠ 0x01 then c.acknowledge e dest e.code
  else
    let now := atOnce a || (c.pwrState == 2 && decide (cmdOrder a = 8))
    let q : PendCmd := { seq := seq, plane := p, eff := eff, origin := origin, arg := a, notify := bit flags 2, token := e.token,
                         answer := dest, atOnce := now }
    let c := (c.hold q m).acknowledge e dest e.code
    if now then c.actAtOnce q else c

/-- R505: a completion of a command that is not journaled. -/
def Chip.reply (c : Chip) (dest : Answer) (origin : Nat) (m : CmdMsg) (result : Nat) : Chip :=
  c.answer dest { result := result, final := true, token := c.tokenOf origin m, eff := msgEff m % 2 ^ 40, code := msgCode m }

/-- R508: a message is handled in the order of its steps, and stops at the first that ends it. -/
def Chip.submit (c : Chip) (origin : Nat) (dest : Answer) (m : CmdMsg) (a : CmdArg) : Chip :=
  match c.step1 origin m a with
  | some r => c.reply dest origin m r
  | none =>
    let token := c.tokenOf origin m
    let recent := c.svc.accepted.filter (fun t => decide (c.sched.cyc < t + 800000000))
    if 128 ≤ recent.length then c.reply dest origin m 0x30
    else match if token = 0 then none else c.svc.reel.find? (fun e => e.token == token && e.origin == origin) with
      | some e => c.answer dest { e.completion true with code := msgCode m }
      | none =>
        match a with
        | .installData off bytes =>
          let (c, r) := c.installData off bytes
          c.reply dest origin m r
        | .logRead addr first count =>
          let (c, r) := c.logRead addr first count
          c.reply dest origin m r
        | _ => c.journal origin dest m a

/-! ### The rows of the table (R503, R506, R507, R509) -/

/-- R503: the device reads the next submission: a command of the host with the message of its entry. Nothing is read while the rings are
off, where no submission waits, or where the completion ring has no room; a message of another code is not this command. -/
def Chip.hostSubmit (c : Chip) (m : CmdMsg) (a : CmdArg) (f : Chip → Answer → Chip) : Chip :=
  let i := c.get R.SVC_SQHEAD
  if c.ringsOn && i != c.svc.sqTail && c.ringRoom && c.svc.posts.isEmpty && codeFits m a then
    f (c.set R.SVC_SQHEAD 0 ((i + 1) % c.ringSize)) (.host i)
  else c

/-- R508, R509: a command of the host. -/
def Chip.hostCommand (c : Chip) (m : CmdMsg) (a : CmdArg) : Chip := c.hostSubmit m a (fun c d => c.submit 1 d m a)

/-- R506: HELLO: both sides run at the lower of the two highest versions, if it is at least the higher of the two lowest. -/
def Chip.hello (c : Chip) (dest : Answer) (m : CmdMsg) : Chip :=
  let lo := max (leAt m.head 0x20 1 * 256 + leAt m.head 0x21 1) 0x0200
  let run := min (leAt m.head 0x22 1 * 256 + leAt m.head 0x23 1) 0x0301
  let ok := decide (lo ≤ run)
  let caps := if ok then leAt m.head 0x24 1 &&& c.get R.SVC_HOSTVER_DEVCAPS else 0
  let c := (c.set R.SVC_HOSTVER_MAJOR 0 (if ok then run / 256 else 0)).set R.SVC_HOSTVER_MINOR 0 (if ok then run % 256 else 0)
  let c := { c with svc := { c.svc with hello := ok } }.set R.SVC_HOSTVER_CAPS 0 caps
  c.reply dest 1 m (if ok then 0x00 else 0x10)

/-- R506: HELLO. -/
def execHello (m : CmdMsg) (s : State) : Host.Outcome State Fault Refusal :=
  onChip (fun c => c.hostSubmit m .hello (fun c d => c.hello d m)) s

/-- R507: KEYSLOT of a datagram. -/
def mgmtSlot (d : MgmtDatagram) : Nat := leAt d.bytes 0 1
/-- R507: COUNTER of a datagram. -/
def mgmtCounter (d : MgmtDatagram) : Nat := leAt d.bytes 4 8
/-- R507: the bytes of a datagram before its tag. -/
def mgmtBody (d : MgmtDatagram) : List Byte := d.bytes.take (d.bytes.length - 32)
/-- R504, R507: the message of a datagram, with its argument inline after it. -/
def mgmtMsg (d : MgmtDatagram) : CmdMsg := { head := slice (mgmtBody d) 16 64, arg := (mgmtBody d).drop 80 }

/-- R507: a datagram is taken: its tag verifies under the management key of its slot, which the policy allows, and its COUNTER is
greater than the last accepted there. -/
def Chip.mgmtTaken (c : Chip) (d : MgmtDatagram) : Bool :=
  let fresh := match tget none c.svc.mgmtCnt (mgmtSlot d) with
    | some n => decide (n < mgmtCounter d)
    | none => true
  decide (112 ≤ d.bytes.length) && decide ((mgmtMsg d).arg.length ≤ 8192) && c.tables.mgmtSlots.contains (mgmtSlot d) &&
    c.get R.SEC_KSSTAT_TYPE (mgmtSlot d) == 2 && c.mgmtTag (mgmtSlot d) (mgmtBody d) == d.bytes.drop (d.bytes.length - 32) && fresh

/-- R507: MGMT_DATAGRAM: a datagram that authenticates under a management slot with a higher COUNTER is handled as a command; any other
is discarded and counted. -/
def execMgmtDatagram (d : MgmtDatagram) (s : State) : Host.Outcome State Fault Refusal :=
  onChip (fun c =>
    if c.mgmtTaken d then
      let c := { c with svc := { c.svc with mgmtCnt := tset none c.svc.mgmtCnt (mgmtSlot d) (some (mgmtCounter d)) } }
      let a := if codeFits (mgmtMsg d) d.cmd then d.cmd else .unknown
      c.submit 2 (.mgmt (mgmtSlot d) d.source) (mgmtMsg d) a
    else c.bump R.SVC_MGMTAUTHF 0) s

/-- R87: VARIANT. -/
def execVariant (m : CmdMsg) (v : Fin 16) (s : State) : Host.Outcome State Fault Refusal := onChip (·.hostCommand m (.variant v.val)) s
/-- R192: TRIM. -/
def execTrim (m : CmdMsg) (t : RateTarget) (kb : Nat) (s : State) : Host.Outcome State Fault Refusal :=
  onChip (·.hostCommand m (.trim t kb)) s
/-- R301, R334: MUTE. -/
def execMute (m : CmdMsg) (t : MuteTarget) (s : State) : Host.Outcome State Fault Refusal := onChip (·.hostCommand m (.mute t)) s
/-- R301, R334: UNMUTE. -/
def execUnmute (m : CmdMsg) (t : MuteTarget) (s : State) : Host.Outcome State Fault Refusal := onChip (·.hostCommand m (.unmute t)) s
/-- R509: FORCESUB. -/
def execForcesub (m : CmdMsg) (t : Member) (s : State) : Host.Outcome State Fault Refusal := onChip (·.hostCommand m (.forceSub t)) s
/-- R509: RELEASE. -/
def execRelease (m : CmdMsg) (t : Member) (s : State) : Host.Outcome State Fault Refusal := onChip (·.hostCommand m (.release t)) s
/-- R335: SPLICE. -/
def execSplice (m : CmdMsg) (x : SpliceArg) (s : State) : Host.Outcome State Fault Refusal := onChip (·.hostCommand m (.splice x)) s
/-- R574: KEYLOAD, with its package. -/
def execKeyload (m : CmdMsg) (v : List Byte) (s : State) : Host.Outcome State Fault Refusal := onChip (·.hostCommand { m with arg := v } .keyLoad) s
/-- R575: KEYCLEAR. -/
def execKeyclear (m : CmdMsg) (slot : Fin 256) (s : State) : Host.Outcome State Fault Refusal :=
  onChip (·.hostCommand m (.keyClear slot.val)) s
/-- R546: SELFTEST. -/
def execSelftest (m : CmdMsg) (pc : Nat) (s : State) : Host.Outcome State Fault Refusal := onChip (·.hostCommand m (.selfTest pc)) s
/-- R624: PLY_SWITCH. -/
def execPlySwitch (m : CmdMsg) (s : State) : Host.Outcome State Fault Refusal := onChip (·.hostCommand m (.ply 1)) s
/-- R624: PLY_HOLD. -/
def execPlyHold (m : CmdMsg) (s : State) : Host.Outcome State Fault Refusal := onChip (·.hostCommand m (.ply 2)) s
/-- R624: PLY_UNHOLD. -/
def execPlyUnhold (m : CmdMsg) (s : State) : Host.Outcome State Fault Refusal := onChip (·.hostCommand m (.ply 3)) s
/-- R624: PLY_FENCE. -/
def execPlyFence (m : CmdMsg) (s : State) : Host.Outcome State Fault Refusal := onChip (·.hostCommand m (.ply 4)) s
/-- R624: PLY_REJOIN. -/
def execPlyRejoin (m : CmdMsg) (s : State) : Host.Outcome State Fault Refusal := onChip (·.hostCommand m (.ply 5)) s
/-- R624: PLY_ALONE. -/
def execPlyAlone (m : CmdMsg) (s : State) : Host.Outcome State Fault Refusal := onChip (·.hostCommand m (.ply 6)) s
/-- R589: POWER. -/
def execPower (m : CmdMsg) (target : Nat) (s : State) : Host.Outcome State Fault Refusal := onChip (·.hostCommand m (.power target)) s
/-- R509: INSTALL_BEGIN. -/
def execInstallBegin (m : CmdMsg) (golden : Bool) (len : Nat) (s : State) : Host.Outcome State Fault Refusal :=
  onChip (·.hostCommand m (.installBegin golden len)) s
/-- R509: INSTALL_DATA. -/
def execInstallData (m : CmdMsg) (off : Nat) (bytes : List Byte) (s : State) : Host.Outcome State Fault Refusal :=
  onChip (·.hostCommand m (.installData off bytes)) s
/-- R77: INSTALL_COMMIT. -/
def execInstallCommit (m : CmdMsg) (v : InstallBack) (s : State) : Host.Outcome State Fault Refusal :=
  onChip (·.hostCommand m (.installCommit v)) s
/-- R509: INSTALL_ABORT. -/
def execInstallAbort (m : CmdMsg) (s : State) : Host.Outcome State Fault Refusal := onChip (·.hostCommand m .installAbort) s
/-- R509: LOGREAD. -/
def execLogread (m : CmdMsg) (addr first count : Nat) (s : State) : Host.Outcome State Fault Refusal :=
  onChip (·.hostCommand m (.logRead addr first count)) s
/-- R509: UNKNOWN_COMMAND. -/
def execUnknownCommand (m : CmdMsg) (s : State) : Host.Outcome State Fault Refusal := onChip (·.hostCommand m .unknown) s

/-! ### Forwarded commands (R624) -/

/-- R624: a forwarded command is journaled with ORIGIN 0x03. One that comes after the tail before its boundary has begun is journaled
with 0x20 and takes effect at the earliest boundary that this device can meet; a POWER in P2 takes effect at once. -/
def Chip.takeForward (c : Chip) (m : CmdMsg) (a : CmdArg) : Chip :=
  let p := msgPlane m
  let turn := c.turn p
  let tail := decide ((c.plane p).phase = .tail)
  let d := sdiff 40 (msgEff m) turn
  let now := c.pwrState == 2 && decide (cmdOrder a = 8)
  let late := !now && (decide (d ≤ 0) || (d == 1 && tail))
  let r := if now then c.powerCheck (match a with | .power t => t | _ => 0)
    else if c.running p = false then 0x14 else c.admission p (msgEff m) m a
  let r := if r = 0x01 ∧ c.conflicts p (msgEff m) 0 a = true then 0x13 else r
  let res := if r = 0x01 ∧ late = true then 0x20 else r
  let e : ReelEntry := { turn := turn, plane := p + 4 * b2n (deviceWide a), code := msgCode m, origin := 3, result := res,
                         token := msgToken m, eff := msgEff m, final := res != 0x01, argdig := argDigest (m.head ++ m.arg) }
  let (c, seq) := c.reelPush e
  if r ≠ 0x01 then c
  else
    let eff := if late then (turn + 1 + b2n tail) % 2 ^ 40 else msgEff m
    let q : PendCmd := { seq := seq, plane := p, eff := eff, origin := 3, arg := a, token := msgToken m, atOnce := now }
    let c := { c with svc := { c.svc with cmds := c.svc.cmds ++ [q] } }
    let c := (c.reelShown).cmdShown q 0
    let c := c.when late (fun c => { c with ply := { c.ply with inStep := tset false c.ply.inStep p false } }.stepShown)
    if now then c.actAtOnce q else c

/-- R624: PLY_FORWARD: the oldest command that waits is sent in a FORWARD frame; or the partner's arrives. -/
def execPlyForward (rx : Option (CmdMsg × CmdArg)) (s : State) : Host.Outcome State Fault Refusal :=
  onChip (fun c =>
    match rx with
    | none => match c.ply.forward with
      | (seq, m, _) :: l =>
        let c := { c with ply := { c.ply with forward := l } }
        c.plySend 0x0A ([0x04] ++ leBytes 6 seq ++ m.head ++ m.arg)
      | [] => c
    | some (m, a) =>
      let power := decide (cmdOrder a = 8)
      if c.plyOn && codeFits m a && msgOk m 0 a && (power || (pairedCmd a && c.role == roleOther)) then c.takeForward m a else c) s

end Sys2Proof.Machine
end

