-- ==== Sys2Proof/Machine/Boot.lean ====
section
/-! DEFINITION. Resets, crystal qualification, the slots and the checks of an image, what its sections put into force, and the start of
the planes (Skein Images and Start-up, R61–R82, R91–R95). -/

namespace Sys2Proof.Machine

/-! ### The reset (R13, R14, R78) -/

/-- R14, R78, R565, R576, R652: the bits of a register that a reset keeps: fuses and the two causes of the always-on domain through
every reset; RWS bits and the key slots through a warm one. -/
def keptBits (warm : Bool) (a : Nat) : Nat :=
  if a = R.CLK_SUPSTAT_THERMRST.addr then 0xC0000000
  else if (0x1500100 ≤ a ∧ a < 0x1500110) ∨ (0x1500200 ≤ a ∧ a < 0x1500400) then 0xFFFFFFFF
  else if warm = false then 0
  else if 0x1501000 ≤ a ∧ a < 0x1501400 then 0xF8000000
  else if 0x1501800 ≤ a ∧ a < 0x1501C00 then 0xFFFFFFFF
  else match regRowAt a with
    | some r => r.keep
    | none => 0

/-- R14: a register word after a reset. -/
def resetWord (warm : Bool) (a : Nat) (w : Word) : Word :=
  let m := BitVec.ofNat 32 (keptBits warm a)
  (regReset a &&& ~~~m) ||| (w &&& m)

/-- R13, R14: the registers after a reset. -/
def resetRegs (warm : Bool) (t : Tab Word) : Tab Word :=
  t.foldl (fun u e => tabSet regReset u e.1 (resetWord warm e.1 e.2)) []

/-- R440, R443, R517: the NAND store after a reset, `cyc` fabric cycles after the last one: what it holds stays, what was read of it is
read again, and power-on clears the SRAM page of the log and the read counts. -/
def nandReset (n : Nand) (warm : Bool) (cyc : Nat) : Nand :=
  let blocks := if warm then n.blocks
    else n.blocks.foldl (fun t e => tset {} t e.1 { e.2 with reads := 0, counted := false }) []
  { n with anchors := (none, none), anchorsRead := (false, false), dir := {}, noCount := false, blocks := blocks,
           refresh := if warm then n.refresh else [], scrubbed := 0, logPage := if warm then n.logPage else [],
           logAt := none, reelAt := none, calDue := n.calDue - cyc, tokDue := n.tokDue - cyc, goldDue := n.goldDue - cyc }

/-- R13, R78: the device after a reset, before its boot steps. -/
def Chip.fresh (c : Chip) (warm : Bool) : Chip :=
  { regs := resetRegs warm c.regs, free := c.free, nand := nandReset c.nand warm c.sched.cyc,
    sec := { ik := c.sec.ik, kwk := c.sec.kwk, slots := if warm then c.sec.slots else [] },
    dram := { mem := if warm then c.dram.mem else [], tags := if warm then c.dram.tags else [] }, boot := { warm := warm } }

/-! ### Slots (R72–R76, R435) -/

/-- R91: slot k failed or was skipped; REASON keeps the code of the first. -/
def Chip.slotFail (c : Chip) (k code : Nat) : Chip :=
  let first := c.get R.GLB_BOOTSTAT_SLOTFAIL == 0
  let c := c.setB ⟨R.GLB_BOOTSTAT_SLOTFAIL.addr, 0, 18 + k, 18 + k⟩ 0 true
  c.when first (·.set R.GLB_BOOTSTAT_REASON 0 code)

/-- R72, R433, R435: the partition that slot k maps to. Without a directory the working slots are WORK0 to WORK2. -/
def Chip.slotPart (c : Chip) (k : Nat) : Option Nat :=
  if 3 ≤ k ∨ c.nand.noCount then some k
  else
    let i := c.nand.dir.slots.getD k 0xFF
    if i < 3 then some i else none

/-- R74: slot k is selected; the attempt count of an unproven image is written before the image is read. -/
def Chip.slotSelect (c : Chip) (k : Nat) : Chip :=
  let c := match c.slotPart k with
    | some i =>
      let (st, n) := c.nand.dir.pstate.getD i (0, 0)
      if k < 3 ∧ st = 1 ∧ c.nand.noCount = false then (c.setPstate i (1, n + 1)).writeDir else c
    | none => c
  let b := { c.boot with slot := some k, hdrOk := false, header := [], table := [], passed := [], sheet := [] }
  { c with boot := b }.set R.GLB_BOOTSTAT_STAGE 0 6

/-- R435: with no record in either directory copy, a new directory is written, every working slot unproven. -/
def Chip.newDir (c : Chip) : Chip :=
  if c.nand.noCount then
    (c.setDir { c.nand.dir with slots := [0, 1, 2], pstate := [(1, 0), (1, 0), (1, 0), (2, 0), (2, 0), (2, 0)] }).writeDir
  else c

/-- R76, R517: no slot passes. -/
def Chip.noImage (c : Chip) : Chip :=
  let c := { c with boot := { c.boot with slot := none } }
  let c := (c.set R.GLB_BOOTSTAT_NOIMAGE 0 1).set R.GLB_BOOTSTAT_SLOT 0 0xF
  c.newDir.reelBoot 0

/-- R72, R435: the order in which slots are tried: A, B, C and the golden copies; without a directory WORK0 to WORK2 in descending order
of GENERATION, ties in order, then the golden copies. -/
def Chip.slotOrder (c : Chip) : List Nat :=
  let gen (i : Nat) : Nat := leAt (tget [] c.nand.images i) 0x10 8
  let before (i j : Nat) : Bool := decide (gen j < gen i) || (gen i == gen j && decide (i < j))
  let rank (i : Nat) : Nat := ([0, 1, 2].filter (fun j => before j i)).length
  if c.nand.noCount then (List.range 3).flatMap (fun r => [0, 1, 2].filter (fun i => rank i == r)) ++ [3, 4, 5] else [0, 1, 2, 3, 4, 5]

/-- R72: the slots that come after slot k. -/
def Chip.slotsAfter (c : Chip) (k : Nat) : List Nat := (c.slotOrder.dropWhile (· != k)).drop 1

/-- R72, R446: the first slot of a list that is not skipped is selected. One that no partition serves holds no header to check, and
fails check 1. -/
def Chip.slotTry (c : Chip) : List Nat → Chip
  | [] => c.noImage
  | k :: l => match c.slotPart k with
    | none => (c.slotFail k 0x01).slotTry l
    | some i =>
      let (st, n) := c.nand.dir.pstate.getD i (0, 0)
      if c.nand.noCount then c.slotSelect k
      else if st = 3 ∨ (k < 3 ∧ st = 1 ∧ 3 ≤ n) then (c.slotFail k 0x0D).slotTry l
      else c.slotSelect k

/-- R79 steps 4 and 5: the root clock is there; the directory is read and a slot is selected. -/
def Chip.rootReady (c : Chip) : Chip :=
  let c := ((c.set R.CLK_ROOTSTAT_PLLLOCK 0 1).set R.GLB_BOOTSTAT_STAGE 0 5).switched 0 0
  let c := c.loadDir
  c.slotTry c.slotOrder

/-- R78, R95, R517: a reset with its RSTCAUSE: the Reel is rebuilt and the boot begins. A warm reset keeps the crystal and the root
PLL while the monitor finds the crystal good. -/
def Chip.restart (c : Chip) (warm : Bool) (cause : Nat) : Chip :=
  let good := warm && c.on R.CLK_ROOTSTAT_XTALOK && c.on R.CLK_ROOTSTAT_PLLLOCK
  let c := ((c.fresh warm).set R.GLB_BOOTSTAT_RSTCAUSE 0 cause).reelRebuild
  if good then (c.set R.CLK_ROOTSTAT_XTALOK 0 1).rootReady else c.set R.GLB_BOOTSTAT_STAGE 0 2

/-- R78: a warm reset: the Reel is flushed first. -/
def Chip.warmReset (c : Chip) (cause : Nat) : Chip := (c.flushReel 9).restart true cause

/-- R78, R645, R650: POWER_ON_RESET: the supplies are valid, or the ball is released. A supply trip or a thermal shutdown that still
holds keeps the reset. -/
def execPowerOnReset (s : State) : Host.Outcome State Fault Refusal :=
  onChip (fun c => if c.pwr.hot ∨ c.pwr.tripped ≠ [] then c else c.restart false 0) s

/-- R78: WARM_RESET: the warm reset asked for is performed; at D2 and D3 one that the debugger asks for has RSTCAUSE 0x4. -/
def execWarmReset (s : State) : Host.Outcome State Fault Refusal :=
  onChip (fun c =>
    let cause := match c.boot.warmAfterFlush with
      | some k => k
      | none => if 2 ≤ c.dbgLevel then 4 else 1
    if c.boot.held then c else c.warmReset cause) s

/-- R95: RESETCTL: a write with its KEY and WARM flushes the Reel and requests a warm reset. -/
def Chip.resetctl (c : Chip) (v : Word) : Chip :=
  if bits v.toNat 31 16 = 0xA5C3 ∧ bit v.toNat 0 = true then
    { c.flushReel 9 with boot := { c.boot with warmAfterFlush := some 1 } }
  else c

/-- R95: RESETCTL_WARM. -/
def execResetctlWarm (v : Word) (s : State) : Host.Outcome State Fault Refusal := onChip (·.resetctl v) s

/-- R388, R500, R570: REEL_FLUSH_DONE: the warm reset that waits for the flush follows. -/
def execReelFlushDone (s : State) : Host.Outcome State Fault Refusal :=
  onChip (fun c => match c.boot.warmAfterFlush with
    | some k => c.warmReset k
    | none => c) s

/-- R500: SERVICE_WATCHDOG: no DONE for 2 s while a queue is not empty. -/
def execServiceWatchdog (s : State) : Host.Outcome State Fault Refusal :=
  onChip (fun c =>
    if c.svc.doneAt + 1600000000 ≤ c.sched.cyc ∧ c.svc.queues.any (fun q => !q.2.items.isEmpty) = true then
      { c.flushReel 9 with boot := { c.boot with warmAfterFlush := some 2 } }
    else c) s

/-! ### Crystal and root PLL (R80, R383) -/

/-- R80: CRYSTAL_WINDOW: a window of 10,000 RC cycles, nominally 100 µs; the 1,024th passing one in a row qualifies the crystal. -/
def execCrystalWindow (edges : Nat) (s : State) : Host.Outcome State Fault Refusal :=
  onChip (fun c =>
    if c.boot.held ∨ c.on R.CLK_ROOTSTAT_XTALOK then c
    else
      let n := if 4850 ≤ edges ∧ edges ≤ 5150 then c.boot.xtalRun + 1 else 0
      let c := { c with boot := { c.boot with us := c.boot.us + 100, xtalRun := n } }
      if 1024 ≤ n then (c.set R.CLK_ROOTSTAT_XTALOK 0 1).set R.GLB_BOOTSTAT_STAGE 0 4
      else c.set R.GLB_BOOTSTAT_STAGE 0 3) s

/-- R80: CRYSTAL_QUAL_TIMEOUT: 500 ms after reset the crystal has not qualified: the device stays on RC with all domains held. -/
def execCrystalQualTimeout (s : State) : Host.Outcome State Fault Refusal :=
  onChip (fun c =>
    if c.boot.held ∨ c.on R.CLK_ROOTSTAT_XTALOK then c
    else
      let c := { c with boot := { c.boot with us := max c.boot.us 500000, held := true } }
      (c.set R.SAF_PINSTAT_FAULT_N 0 0).set R.GLB_BOOTSTAT_STAGE 0 3) s

/-- R383, R79 steps 4 and 5: ROOT_PLL_LOCK. -/
def execRootPllLock (s : State) : Host.Outcome State Fault Refusal :=
  onChip (fun c =>
    if c.boot.held ∨ c.on R.CLK_ROOTSTAT_XTALOK = false ∨ c.on R.CLK_ROOTSTAT_PLLLOCK ∨ c.clk.dead then c else c.rootReady) s

/-! ### What sections put into force (R71, R75, R79) -/

/-- R16, R75: what the image has put into the device is taken away: SK fields return to their reset values, and units to their state
after reset. -/
def Chip.unload (c : Chip) : Chip :=
  let c := c.each c.tables.sk (fun c e => c.putSk e.1 (regReset e.1))
  { c with tables := {}, variants := [], spn := {} }

/-- R71, R75: the early sections held are in force, and nothing else of an image is. -/
def Chip.reloadEarly (c : Chip) : Chip :=
  c.unload.each c.boot.early (fun c e => match e.2 with
    | some (_, t) => c.loadTables t
    | none => c)

/-- R75: the image being read fails with a code: clock plan, DRAM timing and network settings stay for the next slot, which is
selected. -/
def Chip.imageReject (c : Chip) (code : Nat) : Chip :=
  let c := { c with boot := { c.boot with hdrOk := false, header := [], table := [], passed := [], sheet := [],
                                          early := tset none (tset none c.boot.early 0x01 none) 0x0E none } }
  let c := c.reloadEarly
  match c.boot.slot with
  | some k => (c.slotFail k code).slotTry (c.slotsAfter k)
  | none => { c with boot := { c.boot with debugBoot := false } }

/-- R69: IMAGE_HEADER_READ: the bytes of an image up to the end of its signature block: checks 1 to 8 on the slot selected. -/
def execImageHeaderRead (b : List Byte) (s : State) : Host.Outcome State Fault Refusal :=
  onChip (fun c =>
    if c.boot.hdrOk ∨ c.boot.complete ∨ (c.boot.slot = none ∧ c.boot.debugBoot = false) then c
    else
      let golden := match c.boot.slot with
        | some k => decide (3 ≤ k)
        | none => headGolden b
      let code := c.headCheck c.boot.debugBoot b golden
      if code ≠ 0 then c.imageReject code
      else { c with boot := { c.boot with hdrOk := true, header := imageHeader b, table := imageTable b, passed := [] } }) s

/-- R71, R75, R79 steps 6 and 7: an early section that has passed. One of type 0x02, 0x03 or 0x09 with the digest of the one in force is
left as it is; DRAM training goes with section 0x03, and the time bases start with section 0x09. -/
def Chip.earlyPassed (c : Chip) (t : Nat) (digest : List Byte) (tables : SkeinTables) : Chip :=
  let d := ofLe digest
  let same : Bool := match tget none c.boot.early t with
    | some (d', _) => d' == d && (t == 0x02 || t == 0x03 || t == 0x09)
    | none => false
  let c := c.when (t == 0x03) (fun c => { c with boot := { c.boot with dramBegun := true } })
  if same then c
  else
    let c := { c with boot := { c.boot with early := tset none c.boot.early t (some (d, tables)) } }
    let c := c.reloadEarly
    let c := c.when (t == 0x03) (fun c =>
      { c with boot := { c.boot with dramOk := false } }.each (List.range 16) (fun c k => c.set R.DRAM_CHSTAT_TRAINED k 0))
    c.when (t == 0x09) (·.basesStart)

/-- R71, R79 step 10, R232: a later section that has passed is loaded, or staged. Every engine finds a library that LIBCRC does not match. -/
def Chip.latePassed (c : Chip) (e : List Byte) (x : SectionIn) : Chip :=
  let t := entryType e
  let v := entryIndex e
  if t = 0x0D then
    c.each (x.deltas.filter (fun d => decide (d.1 < 4))) (fun c (p, d) => { c with variants := tset {} c.variants (4 * v + p) d })
  else if t = 0x11 then { c with boot := { c.boot with sheet := sheetWords (c.plainBytes e x.stored) } }
  else
    let plain := c.plainBytes e x.stored
    let c := c.loadTables (payloadTables t plain x.tables)
    let bad := if spnLibOk plain then x.libBad.map Fin.val else List.range 192
    c.when (t == 0x06) (fun c => { c with spn := { c.spn with libBad := bad } })

/-- R236: every plan column maps to its own physical column while that is in service. -/
def Chip.mapColumns (c : Chip) : Chip :=
  let c := c.each (List.range 16) (fun c x => c.setPhysCol x (if c.colRetired x then none else some x))
  c.each (List.range 16) (fun c x => match c.physCol x with
    | some _ => { c with saf := { c.saf with served := tset none c.saf.served x (some x) } }
    | none => c)

/-- R83, R93: what the registers show of the image that runs. -/
def Chip.imageShown (c : Chip) : Chip :=
  let h := c.boot.header
  let c := c.set2 R.GLB_SKEINGENLO R.GLB_SKEINGENHI 0 (leAt h 0x10 8)
  let c := (c.set R.GLB_SKEININFO_FMTMAJOR 0 (leAt h 0x05 1)).set R.GLB_SKEININFO_FMTMINOR 0 (leAt h 0x04 1)
  let c := c.set R.GLB_SKEININFO_DETCLASS 0 (leAt h 0x0A 2)
  c.each (List.range (min 1024 c.boot.sheet.length)) (fun c w => c.set R.GLB_SHEET w ((c.boot.sheet.getD w 0).toNat))

/-- R79 step 13, R604, R614: the two-ply role: a solo device declares it; a paired one begins to resolve it. -/
def Chip.roleBegin (c : Chip) : Chip :=
  if c.plyOn then { c.setTxAll 0 with ply := { c.ply with resolveAt := some c.sched.cyc } }
  else
    let c := (c.set R.PLY_PLYSTAT_ROLE 0 roleSolo).setTxAll 1
    { c with boot := { c.boot with roleOk := true } }

/-- R214, R232: an engine whose copy of the library fails its check has cause 0x2, with no kernel running. -/
def Chip.libChecked (c : Chip) : Chip :=
  let c := c.each ((List.range 192).filter (fun n => c.spn.libBad.contains n)) (fun c n => c.spnRecord n 2 0 0)
  { c with spn := { c.spn with libBad := [] } }

/-- R232, R236, R308, R387: the units take what the image gives them: columns, libraries, parameter blocks, coefficients, masks and
gates. -/
def Chip.unitsLoaded (c : Chip) : Chip :=
  let c := c.mapColumns.enginesShown.libChecked
  let c := (c.writeParams c.tables.params none (fun _ => 0)).loadCoefs
  let c := c.each ((List.range 48).filter (fun n => c.on R.AUD_PORTCFG_EN n)) (fun c n =>
    c.set R.AUD_MASKSTAT_ACTIVE n ((tget {} c.tables.ports n : PortDef).mask))
  c.gatesShown.colsShown

/-- R71, R74, R91, R517: every section of the image has passed. -/
def Chip.imageComplete (c : Chip) : Chip :=
  let h := c.boot.header
  let part := match c.boot.slot with
    | some k => c.slotPart k
    | none => none
  let unproven := match part with
    | some i => decide (i < 3) && (c.nand.noCount || (c.nand.dir.pstate.getD i (0, 0)).1 == 1)
    | none => false
  let c := { c with boot := { c.boot with complete := true, proving := unproven, secver := leAt h 0x28 4,
                                          golden := bit (leAt h 0x0C 4) 0 } }
  let c := c.set R.GLB_BOOTSTAT_SLOT 0 (c.boot.slot.getD 0xF)
  let c := c.imageShown.unitsLoaded
  (c.newDir.reelBoot (leAt h 0x10 8)).roleBegin

/-- R71: SECTION_STREAMED: the next section of the table has streamed in; one that is not early waits for DRAM. -/
def execSectionStreamed (x : SectionIn) (s : State) : Host.Outcome State Fault Refusal :=
  onChip (fun c =>
    let e := c.boot.table.getD x.pos []
    let t := entryType e
    let isEarly := sectionEarly.contains t
    if c.boot.hdrOk = false ∨ c.boot.complete ∨ x.pos ≠ c.boot.passed.length ∨ (isEarly = false ∧ c.boot.dramOk = false) then c
    else
      let code := c.sectionCheck c.boot.header e x.stored x.parses
      if code ≠ 0 then c.imageReject code
      else
        let c :=
          if sectionKnown t = false then c
          else if isEarly then c.earlyPassed t (entryDigest e) x.tables
          else c.latePassed e x
        let c := { c with boot := { c.boot with passed := c.boot.passed ++ [x.pos] } }
        if c.boot.passed.length < c.boot.table.length then c
        else if typesOk c.boot.table then c.imageComplete
        else c.imageReject 0x0B) s

/-- R579: DEBUG_BOOT: at D3 an image in DRAM is read, and checks 6 to 8 are skipped. -/
def execDebugBoot (s : State) : Host.Outcome State Fault Refusal :=
  onChip (fun c =>
    if c.dbgLevel = 3 then
      let c := { c with boot := { c.boot with slot := none, hdrOk := false, header := [], table := [], passed := [], sheet := [],
                                              early := [], complete := false, roleOk := false, started := [], debugBoot := true } }
      c.unload
    else c) s

/-! ### Training, self-test and NAND reads of the boot (R70, R78, R79, R430, R434, R443) -/

/-- R78, R79 step 7, R424, R443: DRAM_TRAINING_DONE: `ok` says that values restored from the calibration partition were confirmed; else
the channels trained in full, and the record is stored if an hour has passed. -/
def execDramTrainingDone (ok : Bool) (s : State) : Host.Outcome State Fault Refusal :=
  onChip (fun c =>
    if c.boot.dramBegun = false ∨ c.boot.dramOk then c
    else
      let full := !(ok && c.boot.warm && c.nand.cal)
      let n := if full ∧ c.nand.calDue ≤ c.sched.cyc then
          { c.nand with cal := !c.nand.calWorn, calDue := c.sched.cyc + 2880000000000 }
        else c.nand
      let on := (List.range 16).filter (fun k => c.on R.DRAM_CHCFG_EN k)
      let c := { c with boot := { c.boot with dramOk := true }, nand := n }
      let c := c.each on (fun c k => c.set R.DRAM_CHSTAT_TRAINED k 1)
      (c.set R.DRAM_FREQSTAT_DIV6 0 0).when full (·.bump R.DRAM_FREQSTAT_SEAMS 0)) s

/-- R79 step 8, R548, R557: POST_DONE: a column that passes counts a passed proof test; one that fails is retired. -/
def execPostDone (pass : BitVec 16) (s : State) : Host.Outcome State Fault Refusal :=
  onChip (fun c =>
    if c.boot.postDone ∨ c.on R.CLK_ROOTSTAT_PLLLOCK = false then c
    else
      let c := { c with boot := { c.boot with postDone := true, postPass := pass.toNat } }
      let c := c.each (List.range 16) (fun c x =>
        if bit pass.toNat x then c.set R.SAF_COLSTAT_PTAGE x 0
        else if c.colRetired x then c
        else c.retire x)
      c.colsShown) s

/-- R430: with no anchor, nothing of the store can be read, and every slot fails. -/
def Chip.noStore (c : Chip) : Chip :=
  let c := (c.slotFail 0 0x0C).set R.GLB_BOOTSTAT_SLOTFAIL 0 0x3F
  let b := { c.boot with slot := none, hdrOk := false, header := [], table := [], passed := [], sheet := [], early := [] }
  ({ c with boot := b }.unload).noImage

/-- R70, R430, R434, R437: NAND_PAGE_READ_DONE: a page has been read: of data, an anchor or a directory copy. In the boot, an image page
that stays uncorrectable fails its slot; without an anchor no slot passes; the first directory record that passes selects a slot afresh. -/
def execNandPageReadDone (r : NandRead) (s : State) : Host.Outcome State Fault Refusal :=
  onChip (fun c =>
    let c := c.pageRead r
    let booting := c.boot.slot.isSome && !c.boot.complete
    match r.data with
    | .page =>
      if booting ∧ c.boot.slot.bind c.slotPart = some r.part ∧ c.readFails r = true then c.imageReject 0x0C else c
    | .anchor ch a =>
      let c := c.anchorRead (b2n ch) a
      if booting ∧ c.noAnchor = true then c.noStore else c
    | .directory copy =>
      let first := c.nand.noCount
      let c := c.dirRead copy (c.dirFound r)
      if booting ∧ first ∧ c.nand.noCount = false ∧ c.boot.hdrOk = false then c.slotTry c.slotOrder else c) s

/-! ### The start of a plane (R38, R81, R82) -/

/-- R53: plane p is enabled: a steady base serves it. -/
def Chip.planeEnabled (c : Chip) (p : Nat) : Bool := c.on R.SEQ_PLANECFG_EN p && decide (12 ≤ c.baseOf p)

/-- R38, R81: the first house frame pulse of plane p at least 64 fabric cycles from now. -/
def Chip.startPulse (c : Chip) (p : Nat) : Nat :=
  let b := c.base (c.baseOf p)
  let r := c.rateOf p
  let t : Int := b.t40 + 80 * ((2 ^ 40 : Int) + b.rate)
  let n := if r.1 = 0 then 0 else t.toNat * r.1 / (1000000000 * r.2 * 2 ^ 40)
  let bound : Int := ((c.sched.cyc + 64 : Nat) : Int) * 65536
  if bound ≤ c.pulseAt p n then n else if bound ≤ c.pulseAt p (n + 1) then n + 1 else n + 2

/-- R81: what plane p must wait for. -/
def Chip.planeReady (c : Chip) (p : Nat) : Bool :=
  let b := c.baseOf p
  c.boot.complete && c.boot.roleOk && c.boot.postDone && c.boot.dramOk && c.planeEnabled p &&
    (c.on R.NET_TBSTAT_LOCKED b || c.on R.NET_TBSTAT_FREESTART b) && !c.running p && decide (c.pwr.holdUntil ≤ c.sched.cyc) &&
    decide (c.pwrState < 2) && (!c.pwrBusy || c.pwrState == c.pwrTarget) && !c.pwr.stopping && !c.clk.dead &&
    decide (c.dbgLevel < 2)

/-- R81, R552, R555: at the first start of its plane a plan column whose physical column is retired or leaving goes to another,
or is shed. -/
def Chip.startMove (c : Chip) (m : ColMove) : Chip :=
  let c := match m.from_ with
    | some a => { c with saf := { c.saf with leaving := c.saf.leaving.filter (· != a) } }
    | none => c
  match m.dest with
  | some x =>
    let c := (c.columnReset x m.pc).remap m.pc (c.physCol m.pc) (some x)
    let c := c.writeParams (c.tables.params.filter (fun b => b.engine / 12 == m.pc)) none (fun _ => 0)
    c.moveNoted m.pc m.from_ (some x) 0
  | none =>
    let c := match c.physCol m.pc with
      | some x => c.remap m.pc (some x) none
      | none => c
    (c.setShed m.pc true).moveNoted m.pc m.from_ none 2

/-- R232, R552, R553: the columns of plane p at its first start. -/
def Chip.startColumns (c : Chip) (p : Nat) : Chip :=
  let need := (c.planColsOf p).filter (fun pc => !c.pcShed pc && (match c.physCol pc with
    | some a => c.saf.leaving.contains a
    | none => true))
  let c := c.each (c.byRank need) (fun c pc =>
    let c := c.chooseFor p pc ((c.physCol pc).getD pc)
    let l := tget [] c.saf.moves p
    { c with saf := { c.saf with moves := tset [] c.saf.moves p [] } }.each l (·.startMove))
  c.each (c.enginesOf p) (fun c n => c.engineReset n)

/-- R107, R139, R195, R232, R256, R295: the units of plane p start afresh. -/
def Chip.startUnits (c : Chip) (p : Nat) : Chip :=
  let chans := (List.range 96).filter (fun ch => c.on R.RATE_RCCFG_EN ch && (c.chanDef ch).plane == p)
  let c := c.each chans (fun c ch => c.chanReset ch)
  let c := ((c.rateStart p).membersStart p).portsStart p
  let c := c.each ((List.range 16).filter (fun k => c.on R.DEC_DSCFG_EN k && c.get R.DEC_DSCFG_PLANE k == p)) (·.decRestart)
  let c := c.each (c.streamsOf p) (fun c st => c.setStream st {})
  c.egStart p

/-- R79 step 14, R91, R92, R556, R589: plane p has started: INAIR, BOOTTIME and the pins with the first; the rotation; the end of a
power move with the last restart; STAGE 0xF once every enabled plane has started. -/
def Chip.planeStarted (c : Chip) (p : Nat) : Chip :=
  let c := { c with boot := { c.boot with started := if c.boot.started.contains p then c.boot.started else p :: c.boot.started } }
  let c := c.when (!c.on R.GLB_BOOTSTAT_INAIR) (fun c =>
    let c := (c.set R.GLB_BOOTSTAT_INAIR 0 1).set R.GLB_BOOTTIME 0 (c.boot.us + (c.plane p).t / 800)
    { c.pinsRelease with saf := { c.saf with visitAt := some (c.sched.cyc + 60000000000) } })
  let all := (List.range 4).all (fun q => !c.planeEnabled q || c.boot.started.contains q)
  let c := c.when all (·.set R.GLB_BOOTSTAT_STAGE 0 0xF)
  let left := c.pwr.restart.filter (· != p)
  let ends := c.pwr.restart.contains p && left.isEmpty && c.pwrBusy
  let c := { c with pwr := { c.pwr with restart := left } }
  let c := c.each (List.range 16) (fun c n => c.laneRunning n)
  c.when ends (fun c => (c.set R.PWR_PWRSTAT_BUSY 0 0).pulse 640)

/-- R81: PLANE_START. A wake with TOP2 stops in P2 here, after step 13 (R589). -/
def execPlaneStart (p : Fin 4) (s : State) : Host.Outcome State Fault Refusal :=
  onChip (fun c =>
    let p := p.val
    if c.planeReady p = false then c
    else if c.pwr.toP2 then
      let c := { c with pwr := { c.pwr with toP2 := false } }
      ((c.set R.PWR_PWRSTAT_STATE 0 2).set R.PWR_PWRSTAT_TARGET 0 2).gatesShown
    else
      let c := if c.boot.started.contains p then c.restartBase p else c.startColumns p
      let c := c.beginPlane p (c.startPulse p)
      (c.startUnits p).planeStarted p) s

/-- R82: BOOT_LATE_TIMER: a plane has not started 3.0 s after reset. -/
def execBootLateTimer (s : State) : Host.Outcome State Fault Refusal :=
  onChip (fun c =>
    if (List.range 4).any (fun p => c.planeEnabled p && !c.boot.started.contains p) ∨ c.boot.complete = false then
      c.set R.GLB_BOOTSTAT_LATE 0 1
    else c) s

/-! ### A proven image (R74, R571) -/

/-- R571: the fused version rises to the lowest of the image's SECVER, 64 and the SECVER of the golden copies that pass checks 1 to 7. -/
def Chip.secRoll (c : Chip) (golden : List (List Byte)) : Chip :=
  let old := c.get R.SEC_LCSTAT_FUSEDVER
  let vers := (golden.filter (fun b => c.headCheck7 b true == 0)).map (fun b => leAt b 0x28 4)
  let new := vers.foldl min (min c.boot.secver 64)
  if c.lcs = 2 ∧ c.on R.SEC_POLICY_AUTOROLL ∧ old < c.boot.secver ∧ old < new then
    (c.set R.SEC_LCSTAT_FUSEDVER 0 new).logEvent { kind := 2, words := [old, new] } |>.pulse 628
  else c

/-- R74: the directory marks the partition that the running image came from as proven. -/
def Chip.slotValid (c : Chip) : Chip := match c.boot.slot.bind c.slotPart with
  | some i => (c.setPstate i (2, 0)).writeDir
  | none => c

/-- R74, R571: SLOT_PROVEN: an unproven image has been on air for 60 s; `golden` are the bytes read of the golden copies, each up to the
end of its signature block. -/
def execSlotProven (golden : List (List Byte)) (s : State) : Host.Outcome State Fault Refusal :=
  onChip (fun c =>
    if c.boot.proving ∧ c.on R.GLB_BOOTSTAT_INAIR ∧ c.get R.GLB_BOOTTIME + 60000000 ≤ c.sinceReset then
      let c := c.slotValid
      { c with boot := { c.boot with proving := false } }.secRoll golden
    else c) s

/-! ### Wakes (R589, R601) -/

/-- R589: a wake from P3: the boot runs as for a warm reset with RSTCAUSE 0x1, and P3WAKE is set. -/
def Chip.wake (c : Chip) : Chip :=
  if c.pwrState = 3 ∧ c.pwrTarget = 3 then
    let c := (c.warmReset 1).set R.PWR_PWRSTAT_P3WAKE 0 1
    { c with pwr := { c.pwr with toP2 := c.on R.PWR_WAKECFG_TOP2 } }.pulse 642
  else c

/-- R601: WAKE_PIN: a rising edge on EVn that WAKECFG enables. -/
def execWakePin (n : Fin 8) (s : State) : Host.Outcome State Fault Refusal :=
  onChip (fun c => if bit (c.get R.PWR_WAKECFG_EVS) n.val then c.wake else c) s

/-- R601: WAKE_TIMER: WAKETIME has passed in P3. -/
def execWakeTimer (s : State) : Host.Outcome State Fault Refusal :=
  onChip (fun c => if c.on R.PWR_WAKECFG_TIMEREN then c.wake else c) s

end Sys2Proof.Machine
end

