-- ==== Sys2Proof/Machine/Slots.lean ====
section
/-! DEFINITION. The seven operations of slot words, what a RUN does on each kind of unit, transfers, and check-value contexts (The
Schedule Contract, R30–R32, R43–R47; Integrity, R530–R538). A slot command names the stream whose next word issues: the word itself is
the stream's. -/

namespace Sys2Proof.Machine

/-! ### Issue (R30–R32) -/

/-- R553: a unit of a column that runs idle, by target class and index. -/
def Chip.unitIdle (c : Chip) (cls idx : Nat) : Bool :=
  (cls == 1 && c.pcIdle idx) || (cls == 2 && c.pcIdle (idx / 12))

/-- R553: an end of a transfer is a unit of a column that runs idle. -/
def Chip.endIdle (c : Chip) : MoveEnd → Bool
  | .pad e _ _ => c.unitIdle 2 e
  | .unit cls idx => c.unitIdle cls idx
  | _ => false

/-- R30: whether a target is busy with a RUN or a TEST, or has not stopped after an abort. -/
def Chip.targetBusy (c : Chip) (k : Nat) : Bool := decide ((c.target k).work ≠ .idle) || (c.target k).aborting

/-- R46: the busy target of an overrun is aborted. -/
def Chip.abortBusy (c : Chip) (cls idx : Nat) : Chip :=
  let k := targetKey cls idx
  if (c.target k).aborting then c
  else
    let c := c.abortTarget k
    if cls = 2 then (match c.physEngine idx with | some n => c.engineAbort n | none => c) else c

/-- R48: the fabric cycle at which a word issued at a cycle reaches a target of a class: 32 cycles later over the tree, which reaches lanes, Spindles,
decode lanes and composition outputs; at its issue elsewhere. -/
def reachCycle (cls issued : Nat) : Nat := if 1 ≤ cls ∧ cls ≤ 4 then issued + 32 else issued

/-- R30: a RUN or a TEST step starts on a target; its budget, or its pattern, counts from the word's arrival. -/
def Chip.startTarget (c : Chip) (cls idx : Nat) (a : RunArrival) : Chip :=
  c.setTarget (targetKey cls idx)
    { work := if a.test then .test else .run, stream := a.stream, slot := a.slot, kernel := a.kernel,
      deadline := reachCycle cls a.issued + a.budget, subst := a.subst, marks := a.marks, job := a.job, turn := a.turn, overran := a.overran }

/-- R30, R45, R46: a RUN or a TEST word reaches its target. A busy one is aborted as an overrun, and a RUN is its substitute once it has
stopped. -/
def Chip.wordArrives (c : Chip) (cls idx : Nat) (a : RunArrival) : Chip :=
  let k := targetKey cls idx
  if c.targetBusy k then
    let c := (c.streamFault 2 1 a.stream a.slot cls idx (reachCycle cls a.issued)).abortBusy cls idx
    c.when (!a.test) (fun c => c.setTarget k { c.target k with after := some { a with subst := true, overran := true } })
  else c.startTarget cls idx a

/-- R48: words on their way over the tree to one target, or to every target, that arrive by a fabric cycle. -/
def Chip.arriveWords (c : Chip) (only : Option Nat) (by_ : Nat) : Chip :=
  let due (e : Nat × RunArrival) : Bool := (only.isNone || only == some e.1) && decide (reachCycle (e.1 / 4096) e.2.issued ≤ by_)
  let l := c.sched.arrivals.filter due
  { c with sched := { c.sched with arrivals := c.sched.arrivals.filter (fun e => !due e) } }.each l (fun c e =>
    c.wordArrives (e.1 / 4096) (e.1 % 4096) e.2)

/-- R47: words on their way in the order in which they were issued, those of one cycle by their streams. -/
def insertArrival (e : Nat × RunArrival) : List (Nat × RunArrival) → List (Nat × RunArrival)
  | [] => [e]
  | x :: l =>
    if e.2.issued < x.2.issued ∨ (e.2.issued = x.2.issued ∧ e.2.stream < x.2.stream) then e :: x :: l else x :: insertArrival e l

/-- R48: a RUN or a TEST word leaves for its target. -/
def Chip.sendWord (c : Chip) (cls idx : Nat) (a : RunArrival) : Chip :=
  if reachCycle cls a.issued = a.issued then c.wordArrives cls idx a
  else { c with sched := { c.sched with arrivals := insertArrival (targetKey cls idx, a) c.sched.arrivals } }

/-- R30, R45: a malformed word is skipped, as a budget breach of class 3, cause 0x2. -/
def Chip.malformed (c : Chip) (st i : Nat) (w : DWord) : Chip :=
  (c.advance st).streamFault 3 2 st i (slotClass w) (slotIndex w) (c.issueCycle st)

/-- R30: the next word of stream st issues as operation `op`, after the words that have arrived by then: a malformed word is skipped, and a
word of another operation is not this command's. -/
def Chip.slotWord (c : Chip) (st op : Nat) (f : Chip → Nat → DWord → Chip) : Chip :=
  match c.dueWord st with
  | none => c
  | some (i, w) =>
    let c := c.arriveWords none (c.issueCycle st)
    if slotMalformed w then c.malformed st i w
    else if slotOp w = op then f c i w
    else c

/-! ### The work of a RUN (R30, R43) -/

/-- R104, R46: the line slot of a substitute RUN: its line is substituted. -/
def Chip.lineSubst (c : Chip) (f n line : Nat) (ecc poison : Bool) : Chip :=
  let was := (c.flow f).forced
  let c := (c.setFlow f { c.flow f with forced := true }).lineSlot f n line ecc poison
  c.setFlow f { c.flow f with forced := was }

/-- R104, R581: the line slot of ingest flow f for the picture of Turn n. A plane that drains takes none from its stop boundary on. -/
def Chip.ingestRun (c : Chip) (p f n line : Nat) (ecc poison subst : Bool) : Chip :=
  let stopped : Bool := match (c.plane p).stopTurn with
    | some m => !later 40 m n
    | none => false
  if stopped ∨ c.flowOn f = false ∨ c.flowIsAnc f = true then c
  else if subst then c.lineSubst f n line ecc poison
  else c.lineSlot f n line ecc poison

/-- R128, R139, R145–R152, R159: the work of a RUN on plan column pc's lane, which lane n serves. The substitute of a lane kernel is the
guard candidate (R147). -/
def Chip.laneRun (c : Chip) (p n pc : Nat) (work : RunWork) (subst : Bool) : Chip :=
  match work with
  | .lanePicture k => if c.drained p ∨ c.slotOn pc k = false then c else c.lanePicture n pc k (c.hrdSet (c.slotChan pc k))
  | .laneFetch w => if c.slotOn pc w.slot.val then c.laneFetch n pc w subst else c
  | .lanePredict w => if c.slotOn pc w.slot.val then c.lanePredict n pc w subst else c
  | .laneRow w =>
    if c.slotOn pc w.slot.val then
      let c := c.laneRow n pc w subst
      let s := c.laneSlot pc w.slot.val
      c.rowLeft (c.slotChan pc w.slot.val) (s.pic s.oldP4).turn w.row
    else c
  | .laneTail k => if c.slotOn pc k then c.laneTail pc k else c
  | _ => c

/-- R196, R228, R181–R184, R189: what a rate kernel does on a Spindle: of a channel that rate control runs for, or a group in use. -/
def Chip.spindleRun (c : Chip) (work : RunWork) (subst : Bool) : Chip :=
  match work with
  | .rowKernel ch r => c.when (c.on R.RATE_RCCFG_EN ch) (·.rowKernel ch r subst)
  | .pictureKernel ch => c.when (c.on R.RATE_RCCFG_EN ch) (·.pictureKernel ch subst)
  | .endPicture ch => c.when (c.on R.RATE_RCCFG_EN ch) (·.endOfPicture ch)
  | .statmux g => c.when (c.on R.RATE_SMCFG_EN g) (·.statmux g subst)
  | _ => c

/-- R227: what follows of a rate kernel that was stopped with its windows void: a row with a void rate record is a floor row. -/
def Chip.spindleVoid (c : Chip) (work : RunWork) : Chip :=
  match work with
  | .rowKernel ch r => c.spindleRun (.rowKernel ch r) true
  | _ => c

/-- R30: the work of a RUN on a unit, by the class and index of its target, `turn` that of its plane at the issue; work of another class
is none of the unit's. -/
def Chip.unitRun (c : Chip) (p cls idx turn : Nat) (work : RunWork) (subst : Bool) : Chip :=
  match cls, work with
  | 0x1, w => match c.physCol idx with
    | some n => c.laneRun p n idx w subst
    | none => c
  | 0x2, w => c.spindleRun w subst
  | 0x3, .decRow w => if c.get R.DEC_DSCFG_LANE w.ctx.val = idx then c.decRow w subst else c
  | 0x4, .compose line ecc => c.composeLine idx line ecc
  | 0x5, .scale line ecc => c.scaleLine idx line ecc
  | 0x6, .ingestLine line late ecc poison => c.ingestRun p idx ((turn + (2 ^ 40 - b2n late)) % 2 ^ 40) line ecc poison subst
  | 0x8, .audioSlot j =>
    if c.drained p then c
    else if subst then (if c.portOn idx ∧ c.on R.AUD_PORTCFG_DIR idx = false then c.portSubst idx j else c)
    else c.audioSlot idx j
  | 0xA, .snapshot q image => if q.val = p then c.snapshot p image else c
  | _, _ => c

/-- R210: a RUN on its way to the engine that serves plan engine idx, 32 cycles over the tree. -/
def Chip.runSpindle (c : Chip) (idx : Nat) (a : RunArrival) : Chip :=
  match c.physEngine idx with
  | none => c
  | some n => let e := c.engine n; c.setEngine n { e with arrivals := e.arrivals ++ [a] }

/-- R30, R46: a RUN word of stream st leaves for its target, as a substitute where the stream's data was late. -/
def Chip.issueRun (c : Chip) (st i : Nat) (w : DWord) (work : RunWork) : Chip :=
  let cls := slotClass w
  let idx := slotIndex w
  let a : RunArrival :=
    { stream := st, slot := i, kernel := slotKernel w, budget := slotLow w, subst := c.substOn st (targetKey cls idx), issued := c.issueCycle st,
      job := work, turn := c.turn (c.streamDef st).plane }
  if cls = 2 then c.runSpindle idx a else c.sendWord cls idx a

/-- R30: RUN: kernel KERNEL starts on the target with BUDGET; what it commits has its effect when it completes (R46). A RUN of a reserved
kernel on a check-value context is a budget breach (R534); on a unit of an idle column it starts nothing (R553). -/
def execRun (st : Fin 64) (work : RunWork) (s : State) : Host.Outcome State Fault Refusal :=
  onChip (fun c => c.slotWord st.val 1 (fun c i w =>
    if c.unitIdle (slotClass w) (slotIndex w) then c.advance st.val
    else if slotClass w = 9 ∧ 3 ≤ slotKernel w then c.malformed st.val i w
    else (c.issueRun st.val i w work).advance st.val)) s

/-- R210, R211: RUN_COMPLETE of an engine's kernel: its END bundle has issued by the end of the present Twist, and its W fits BUDGET; it
drains, and the kernel's work has its effect. -/
def Chip.engineComplete (c : Chip) (idx : Nat) : Chip :=
  let k := targetKey 2 idx
  match c.physEngine idx with
  | none => c
  | some n =>
    let c := c.runUntil n (c.sched.cyc + 256)
    let e := c.engine n
    let t := c.target k
    match e.run with
    | none => c
    | some r =>
      let w := runWork (r.endCyc + 1)
      if r.ended = false ∨ r.stop.isSome ∨ r.budget < w ∨ e.cyc < r.endCyc + 25 then c
      else
        let c := c.setEngine n { settle e (r.endCyc + 25) with run := none }
        let c := (c.set R.SPN_SPNSTAT_BUSY n 0).set R.SPN_SLACKMIN n (min (c.get R.SPN_SLACKMIN n) (r.budget - w))
        (c.spindleRun t.job t.subst).completeTarget k

/-- R46, R210, R211: RUN_COMPLETE on a target, whose work then has its effect and whose pending marks are written; a check-value context
completes as it acts (R534). -/
def execRunComplete (cls : Fin 13) (idx : Nat) (s : State) : Host.Outcome State Fault Refusal :=
  onChip (fun c =>
    let k := targetKey cls.val idx
    let c := c.arriveWords (some k) (c.sched.cyc + 255)
    let t := c.target k
    if t.work ≠ .run ∨ t.aborting ∨ cls.val = 9 then c
    else if cls.val = 2 then c.engineComplete idx
    else (c.unitRun (c.streamDef t.stream).plane cls.val idx t.turn t.job t.subst).completeTarget k) s

/-- R211: whether an engine's kernel has issued END in time, or has met an engine fault, by its deadline. -/
def Chip.engineInTime (c : Chip) (n : Nat) : Bool := match (c.engine n).run with
  | none => false
  | some r => r.stop.isSome || (r.ended && decide (runWork (r.endCyc + 1) ≤ r.budget))

/-- R45, R46, R47, R211: BUDGET_EXPIRY on a target whose budget has run out: a budget breach, unless its word is recorded as an overrun; the
target is aborted without its mark. -/
def execBudgetExpiry (cls : Fin 13) (idx : Nat) (s : State) : Host.Outcome State Fault Refusal :=
  onChip (fun c =>
    let k := targetKey cls.val idx
    let c := c.arriveWords (some k) (c.sched.cyc + 255)
    let t := c.target k
    if t.work ≠ .run ∨ t.aborting ∨ c.sched.cyc + 256 ≤ t.deadline then c
    else
      let n := (c.physEngine idx).getD 0
      let c := c.when (cls.val == 2) (·.runUntil n t.deadline)
      if cls.val = 2 ∧ c.engineInTime n = true then c
      else
        let c := c.when (worstClass (3 :: if t.overran then [2] else []) == some 3)
          (·.streamFault 3 1 t.stream t.slot cls.val idx t.deadline)
        c.abortBusy cls.val idx) s

/-- R46: OWNERSHIP_ABORT at the end of a Twist in which a target's access breached ownership. -/
def execOwnershipAbort (cls : Fin 13) (idx : Nat) (s : State) : Host.Outcome State Fault Refusal :=
  onChip (fun c =>
    let k := targetKey cls.val idx
    let t := c.target k
    if t.breach = false then c
    else
      let c := c.setTarget k { t with breach := false }
      if t.work = .idle then c else c.abortBusy cls.val idx) s

/-- R215: the engine of a target has stopped: its RUN is gone, what it wrote uncommitted is void, and the RUN that waited starts. -/
def Chip.engineFreed (c : Chip) (idx : Nat) (t : TargetRun) : Chip :=
  match c.physEngine idx with
  | none => c
  | some n =>
    let e := c.engine n
    let e := { settle (stopped e e.cyc) (e.cyc + 1) with run := none, divFree := 0, jump := none, loops := [], slots := 0 }
    let c := (((c.setEngine n e).set R.SPN_SPNSTAT_ABORTING n 0).set R.SPN_SPNSTAT_BUSY n 0).spindleVoid t.job
    match t.after with
    | some a => c.startRun n a
    | none => c

/-- R46: a RUN that waited for the end of an abort starts. -/
def Chip.targetNext (c : Chip) (cls idx : Nat) : Option RunArrival → Chip
  | some a => c.startTarget cls idx a
  | none => c

/-- R46, R215, R227: ABORT_COMPLETE: an aborted unit has stopped, its output that was not committed discarded; after an engine fault its marks
are written (the sequencer's aborts have dropped them), and a RUN that waits for it starts as its substitute. -/
def execAbortComplete (cls : Fin 13) (idx : Nat) (s : State) : Host.Outcome State Fault Refusal :=
  onChip (fun c =>
    let k := targetKey cls.val idx
    let t := c.target k
    if t.aborting = false then c
    else
      let c := c.completeTarget k
      if cls.val = 2 then c.engineFreed idx t else c.targetNext cls.val idx t.after) s

/-! ### NOP, AWAIT, MARK, TEST, TURN (R30, R32) -/

/-- R30: NOP: the stream waits until WAIT further owned Twists of its plane have begun; 0 is read as 1. -/
def execNop (st : Fin 64) (s : State) : Host.Outcome State Fault Refusal :=
  onChip (fun c => c.slotWord st.val 0 (fun c _ w =>
    let c := c.advance st.val
    c.setStream st.val { c.stream st.val with paused := true, wait := max 1 (slotLow w) })) s

/-- R45, R46: AWAIT: mark MARKNO is to hold VALUE. A failure is late data: until an AWAIT of the stream on this target passes, the
stream's RUNs on it are substitutes. On a unit of an idle column it passes (R553). -/
def execAwait (st : Fin 64) (s : State) : Host.Outcome State Fault Refusal :=
  onChip (fun c => c.slotWord st.val 3 (fun c i w =>
    let k := targetKey (slotClass w) (slotIndex w)
    let m := tget none c.sched.marks (slotMark w)
    let at_ := c.issueCycle st.val
    let idle := c.unitIdle (slotClass w) (slotIndex w)
    let c := c.advance st.val
    let r := c.stream st.val
    let cleared := c.setStream st.val { r with subst := r.subst.filter (· != k) }
    if idle then cleared
    else if m = some (slotValue w) then cleared
    else
      let c := c.setStream st.val { r with subst := if r.subst.contains k then r.subst else k :: r.subst }
      c.streamFault 1 (if m = none then 1 else 2) st.val i (slotClass w) (slotIndex w) at_)) s

/-- A mark put with the last RUN of a list on its way to target k; none where there is none. -/
def markArrival (k : Nat) (m : Nat × Nat) : List (Nat × RunArrival) → Option (List (Nat × RunArrival))
  | [] => none
  | e :: l => match markArrival k m l with
    | some l' => some (e :: l')
    | none => if e.1 == k && !e.2.test then some ((e.1, { e.2 with marks := e.2.marks ++ [m] }) :: l) else none

/-- R30: a mark put with the RUN most recently issued to a target: one on its way over the tree, one that waits for an aborted unit
to stop, or the one it runs; of an idle target it is written at once. -/
def Chip.attachMark (c : Chip) (cls idx : Nat) (m : Nat × Nat) : Chip :=
  let k := targetKey cls idx
  let t := c.target k
  let n := (c.physEngine idx).getD 192
  let coming := if cls = 2 then markArrival 0 m ((c.engine n).arrivals.map (fun a => (0, a))) else markArrival k m c.sched.arrivals
  match coming with
  | some l =>
    if cls = 2 then c.setEngine n { c.engine n with arrivals := l.map Prod.snd }
    else { c with sched := { c.sched with arrivals := l } }
  | none => match t.after with
    | some a => c.setTarget k { t with after := some { a with marks := a.marks ++ [m] } }
    | none => if c.targetBusy k then c.setTarget k { t with marks := t.marks ++ [m] } else c.writeMark m.1 m.2

/-- R30: MARK: VALUE is written to mark MARKNO when the target completes the RUN most recently issued to it, or at once if it is
idle, as it is of a unit of an idle column (R553). -/
def execMark (st : Fin 64) (s : State) : Host.Outcome State Fault Refusal :=
  onChip (fun c => c.slotWord st.val 4 (fun c _ w =>
    let idle := c.unitIdle (slotClass w) (slotIndex w)
    let c := c.advance st.val
    let m := (slotMark w, slotValue w)
    if idle then c.writeMark m.1 m.2
    else c.attachMark (slotClass w) (slotIndex w) m)) s

/-- R30, R46: TEST: the target is busy with a self-test step from the word's arrival, for the length that the descriptor fixes. A target busy
with a RUN or an earlier step is an overrun, and that work is aborted. -/
def execTest (st : Fin 64) (s : State) : Host.Outcome State Fault Refusal :=
  onChip (fun c => c.slotWord st.val 5 (fun c i w =>
    if c.unitIdle (slotClass w) (slotIndex w) then c.advance st.val
    else
      let d : TestDesc := tget {} c.tables.tests (slotArg w)
      let a : RunArrival := { stream := st.val, slot := i, kernel := slotArg w, budget := d.cycles, subst := false, issued := c.issueCycle st.val,
                              test := true }
      (c.sendWord (slotClass w) (slotIndex w) a).advance st.val)) s

/-- R30: TURN: the stream's program for this body ends. -/
def execTurn (st : Fin 64) (s : State) : Host.Outcome State Fault Refusal :=
  onChip (fun c => c.slotWord st.val 6 (fun c _ _ =>
    let c := c.advance st.val
    c.setStream st.val { c.stream st.val with ended := true })) s

/-- R27: the owned Twists of plane p's body from the present one, if it is one of them, to the end of the body. -/
def Chip.ownedLeft (c : Chip) (p : Nat) : Nat :=
  let r := c.plane p
  if r.phase = .body then
    let left := (r.t + r.lead + r.body - c.sched.cyc) / 256
    let owned (j : Nat) : Bool := c.owner ((c.sched.cyc / 256 + j) % 64) == some p
    left / 64 * ((List.range 64).filter owned).length + ((List.range (left % 64)).filter owned).length
  else 0

/-- R32, R45: BODY_END_SHORT: a stream has not reached its TURN by the end of the last owned Twist of the body. It starts again at
its first word in the next body. -/
def execBodyEndShort (st : Fin 64) (s : State) : Host.Outcome State Fault Refusal :=
  onChip (fun c =>
    let d := c.streamDef st.val
    let r := c.stream st.val
    let past := decide ((c.plane d.plane).phase = .tail) ||
      (decide ((c.plane d.plane).phase = .body) && decide (c.ownedLeft d.plane ≤ b2n (c.twistPlane == some d.plane)))
    if past = false ∨ r.ended ∨ d.words = [] then c
    else (c.setStream st.val { r with ended := true }).streamFault 3 3 st.val r.next 0 0 (c.sched.cyc + 256)) s

/-- R30: TEST_STEP_END: the pattern length of a target's TEST step has passed. -/
def execTestStepEnd (cls : Fin 13) (idx : Nat) (s : State) : Host.Outcome State Fault Refusal :=
  onChip (fun c =>
    let k := targetKey cls.val idx
    let c := c.arriveWords (some k) (c.sched.cyc + 255)
    let t := c.target k
    if t.work ≠ .test ∨ t.aborting ∨ c.sched.cyc + 256 ≤ t.deadline then c else c.completeTarget k) s

/-! ### Transfers (R30, R225, R227, R405, R406, R409, R417) -/

/-- The DRAM range of an end of a transfer. -/
def dramEnd : MoveEnd → Option Nat
  | .dram a => some a
  | _ => none

/-- R398: a transfer with an end outside the DRAM space. -/
def Chip.moveOutside (c : Chip) (d : MoveDesc) : Bool :=
  [d.src, d.dst].any (fun e => match dramEnd e with
    | some a => c.outsideDram a d.len
    | none => false)

/-- R409: a planned access of one Twist to a bank that is refreshed in it. -/
def Chip.meetsRefresh (c : Chip) (d : MoveDesc) : Bool :=
  (d.plan == [0]) && [d.src, d.dst].any (fun e => match dramEnd e with
    | some a => (List.range (ceilDiv d.len 64)).any (fun i => !c.bankFree (c.dramLoc (a + 64 * i)).bank)
    | none => false)

/-- Free values as bytes: what the manual does not state. -/
def Chip.drawBytes (c : Chip) (n : Nat) : List Byte × Chip :=
  (List.range (ceilDiv n 32)).foldl (fun (q : List Byte × Chip) _ =>
    let (v, c) := q.2.draw
    (q.1 ++ (leBytes 32 v.toNat).take (n - q.1.length), c)) ([], c)

/-- R536: the DRAM lines of a range that were written poisoned. -/
def Chip.taggedLines (c : Chip) (a n : Nat) : List Bool := (List.range (ceilDiv n 64)).map (fun i => tget false c.dram.tags (a / 64 + i))

/-- Two lists of flags, either of which sets a flag. -/
def orFlags (a b : List Bool) : List Bool := (List.range (max a.length b.length)).map (fun i => a.getD i false || b.getD i false)

/-- R402, R220, R225: the bytes of a transfer as they leave its source, and the poison of their lines. A lane's are the results of its
P1 (R128); the bytes of another unit's own store are not stated and are free. -/
def Chip.moveRead (c : Chip) (d : MoveDesc) (errs : List LineErr) : List Byte × List Bool × Chip :=
  match d.src with
  | .dram a =>
    let (c, bad) := c.lineErrors a d.len errs
    (c.dramRead a d.len, orFlags bad (c.taggedLines a d.len), c)
  | .pad m off _ => match c.physEngine m with
    | some n =>
      let e := c.engine n
      (c.padBytes e (64 * off) d.len, (List.range (ceilDiv d.len 64)).map (fun i => padBad e (64 * (off + i)) 64), c)
    | none => (List.replicate d.len 0, [], c)
  | .unit 1 pc => (c.laneBytes pc d.len, [], c)
  | .egress _ _ | .unit _ _ =>
    let (l, c) := c.drawBytes d.len
    (l, [], c)

/-- R227: a conditional transfer is void unless its window is committed for the plane's Turn and its tag. -/
def Chip.moveVoid (c : Chip) (p : Nat) (d : MoveDesc) : Bool :=
  match d.window with
  | none => false
  | some (m, a, tag) => match c.physEngine m with
    | none => true
    | some n => !windowCommitted (BitVec.ofNat 32 (ofLe (c.padBytes (c.engine n) a 4))) (c.turn p) tag

/-- R400, R412: a static access activates its rows. -/
def Chip.moveActivates (c : Chip) (d : MoveDesc) : Chip :=
  c.each [d.src, d.dst] (fun c e => match dramEnd e with
    | some a => c.activations a d.len none
    | none => c)

/-- R406, R417: the DRAM fault of an access that is not issued, at its first line. -/
def Chip.moveBlocked (c : Chip) (d : MoveDesc) : Chip :=
  match (dramEnd d.src).orElse (fun _ => dramEnd d.dst) with
  | some a => let l := c.dramLoc a; c.dramFault 4 l.ch l.bank l.row
  | none => c

/-- R415, R416: a line read for a raster egress flow is poisoned: its panic port reads it again after a link error. -/
def Chip.toEgress (c : Chip) (d : MoveDesc) (m : InFlight) (errs : List LineErr) : Chip :=
  match d.dst with
  | .egress flow line =>
    if m.poisoned.any id then
      c.egressPoison flow line (if errs.contains .linkUncorrectable then .linkUncorrectable else .arrayUncorrectable)
    else c
  | _ => c

/-- R45, R46, R406: a transfer starts: it is blocked as an ownership breach where a planned access falls outside the plane's owned Twists, and
under cause 0x4 where a command breaks the timing, meets the refresh or meets a seam; the requesting unit is then aborted at the end of
the Twist. -/
def Chip.issueMove (c : Chip) (p st i : Nat) (w : DWord) (breaks : Bool) (errs : List LineErr) : Chip :=
  let d : MoveDesc := tget {} c.tables.moves (slotArg w)
  let touches := (dramEnd d.src).isSome || (dramEnd d.dst).isSome
  let late := d.plan.findSome? (c.accessCause p)
  let bad := touches && (breaks || c.meetsRefresh d || c.on R.DRAM_FREQSTAT_SEAM)
  let breach (c : Chip) := let k := targetKey (slotClass w) (slotIndex w); c.setTarget k { c.target k with breach := true }
  let isVoid := c.moveVoid p d
  if late.isSome || bad then
    let c := match late with
      | some cause => c.streamFault 4 cause st i (slotClass w) (slotIndex w) (c.issueCycle st)
      | none => c.moveBlocked d
    let (l, c) := c.drawBytes d.len
    let m : InFlight :=
      { stream := st, desc := slotArg w, plane := p, data := l, void := isVoid,
        poisoned := List.replicate (ceilDiv d.len 64) true, blocked := true }
    let c := breach c
    { c with moves := c.moves ++ [m] }.toEgress d m []
  else
    let c := match d.src with
      | .pad m _ _ => (match c.physEngine m with | some n => c.runUntil n (c.issueCycle st) | none => c)
      | _ => c
    let (l, pois, c) := (c.moveActivates d).moveRead d errs
    let m : InFlight := { stream := st, desc := slotArg w, plane := p, data := l, poisoned := pois, blocked := false, void := isVoid }
    { c with moves := c.moves ++ [m] }.toEgress d m errs

/-- R398: the next word of stream st is a MOVE with an end outside the DRAM space. -/
def Chip.moveLeaves (c : Chip) (st : Nat) : Bool := match c.dueWord st with
  | some (_, w) => slotMalformed w == false && slotOp w == 2 && c.moveOutside (tget {} c.tables.moves (slotArg w))
  | none => false

/-- R30: MOVE: the transfer of the word's descriptor starts; `breaks`: a planned command breaks the JEDEC timing; `errs`: what error
checking finds on each line. An end in a unit of an idle column starts nothing (R553). -/
def execMove (st : Fin 64) (breaks : Bool) (errs : List LineErr) (s : State) : Host.Outcome State Fault Refusal :=
  if s.chip.moveLeaves st.val then .fault .noSuchDramAddress
  else onChip (fun c => c.slotWord st.val 2 (fun c i w =>
    let d : MoveDesc := tget {} c.tables.moves (slotArg w)
    if c.endIdle d.src || c.endIdle d.dst || c.unitIdle (slotClass w) (slotIndex w) then c.advance st.val
    else (c.issueMove (c.streamDef st.val).plane st.val i w breaks errs).advance st.val)) s

/-! ### Check-value units (R531–R536) -/

/-- R533, R536: the verdict of the context that snoops a transfer, with its last beat: a generated mark is written; a stored mark that
differs is a content fault, and counts. Whether every line is to be poisoned. -/
def Chip.cvuVerdict (c : Chip) (m : InFlight) (d : MoveDesc) : Bool × Chip :=
  match d.cvu with
  | none => (false, c)
  | some (ctx, check, at_) =>
    let v := c.cvu ctx
    let addr := ((dramEnd d.src).orElse (fun _ => dramEnd d.dst)).getD v.fold
    let k := cvuMark ctx v addr (c.turn m.plane % 2 ^ 32) m.data
    let c := c.setCvu ctx { v with crc := k, seq := if v.seqFold then (v.seq + 1) % 2 ^ 32 else v.seq }
    if check then
      if ofLe (c.dramRead at_ 4) = k.toNat then (false, c)
      else (true, ((c.bump R.SAF_CVUSTAT_MISM (ctx / 64)).pulse 137).fault 1 1 21 blkSaf 0x01 ctx (some m.plane))
    else (false, if m.blocked || m.void then c else c.dramWrite at_ (leBytes 4 k.toNat))

/-- The 64-byte lines of a transfer with their poison. -/
def moveLines (m : InFlight) : List (Nat × List Byte × Bool) :=
  (List.range (ceilDiv m.data.length 64)).map (fun i => (i, (m.data.drop (64 * i)).take 64, m.poisoned.getD i false))

/-- R217, R234: the scratchpad address that a MOVE to address a writes: while an engine awaits its parameters after a re-threading, a
line of a parameter bank goes to its place in the active bank. -/
def Chip.moveAddr (c : Chip) (n a : Nat) : Nat :=
  if 0 < (c.engine n).awaitParams ∧ 0x68000 ≤ a ∧ a < 0x74000 then
    bankBase (c.get R.SPN_SPNSTAT_BANK n) + (a - 0x68000) % 0x6000
  else a

/-- R225, R227: the bytes of a transfer reach its destination. A blocked or void transfer writes nothing to the DRAM. -/
def Chip.moveWrite (c : Chip) (m : InFlight) (d : MoveDesc) : Chip :=
  match d.dst with
  | .dram a =>
    if m.blocked || m.void then c
    else
      let c := c.dramWrite a m.data
      c.each (moveLines m) (fun c l => { c with dram := { c.dram with tags := tset false c.dram.tags (a / 64 + l.1) l.2.2 } })
  | .pad e off ac => match c.physEngine e with
    | none => c
    | some n =>
      let at_ (l : Nat) : Nat := c.moveAddr n (64 * l)
      let c := c.each (moveLines m) (fun c l =>
        c.setEngine n (padStore (c.engine n) ⟨0, at_ (off + l.1), l.2.1, (c.engine n).cyc, l.2.2⟩))
      let c := c.acRise n ac
      let x := c.engine n
      c.setEngine n { x with awaitParams := x.awaitParams - 1 }
  | .egress flow line =>
    if m.poisoned.any id ∧ c.linePoisoned flow line = false then c.egressPoison flow line .arrayUncorrectable else c
  | .unit _ _ => c

/-- R536, R538: the poison of a transfer's lines as they arrive: all of them after a mark that differs, and those whose beats failed. -/
def linesPoisoned (m : InFlight) (differs : Bool) (failed : List Nat) : List Bool :=
  (List.range (ceilDiv m.data.length 64)).map (fun i => differs || failed.contains i || m.poisoned.getD i false)

/-- R225, R536, R538: MOVE_COMPLETE: the last beat of stream st's oldest transfer has been written; `failed`: the lines of the transfer
whose beats failed a hop CRC. Each is poisoned, and the fabric reports it. A mark that differs poisons every line. -/
def execMoveComplete (st : Fin 64) (failed : List Nat) (s : State) : Host.Outcome State Fault Refusal :=
  onChip (fun c =>
    match c.moves.find? (fun m => m.stream == st.val) with
    | none => c
    | some m =>
      let d : MoveDesc := tget {} c.tables.moves m.desc
      let c := { c with moves := c.moves.erase m }
      let c := c.each (failed.filter (fun i => decide (64 * i < m.data.length))) (fun c _ => c.fault 1 3 21 blkSeq 0x01 0 none)
      let (bad, c) := c.cvuVerdict m d
      c.moveWrite { m with poisoned := linesPoisoned m bad failed } d) s

/-! ### Kernels of check-value contexts (R534, R535) -/

/-- R534: context ctx runs kernel k: its action, and its completion. -/
def Chip.cvuKernel (c : Chip) (ctx k : Nat) (f : Chip → CvuDef → Chip) : Chip :=
  let key := targetKey 9 ctx
  let t := c.target key
  if t.work ≠ .run ∨ t.aborting ∨ t.kernel ≠ k then c
  else (f c (tget {} c.tables.cvus ctx)).completeTarget key

/-- The 16 bytes of a context's state: mode and seeded in byte 0, the fold address in bytes 1 to 7, the CRC and the sequence number. -/
def cvuBytes (v : CvuCtx) : List Byte :=
  leBytes 1 (b2n v.check + 2 * b2n v.seqFold + 4 * b2n v.seeded) ++ leBytes 7 v.fold ++ leBytes 4 v.crc.toNat ++ leBytes 4 v.seq

/-- The state of a context from its 16 bytes. -/
def cvuOf (l : List Byte) : CvuCtx :=
  let b := leAt l 0 1
  { check := bit b 0, seqFold := bit b 1, seeded := bit b 2, fold := leAt l 1 7, crc := BitVec.ofNat 32 (leAt l 8 4), seq := leAt l 12 4 }

/-- R534: CVU_SEED: mode and fold fields from the table, sequence number 0. -/
def execCvuSeed (ctx : Fin 2048) (s : State) : Host.Outcome State Fault Refusal :=
  onChip (fun c => c.cvuKernel ctx.val 0 (fun c d =>
    c.setCvu ctx.val { seeded := true, check := d.check, seqFold := d.seqFold, fold := d.foldAddr, crc := 0, seq := 0 })) s

/-- R534: CVU_SAVE: the 16-byte state is written to the save slot. -/
def execCvuSave (ctx : Fin 2048) (s : State) : Host.Outcome State Fault Refusal :=
  onChip (fun c => c.cvuKernel ctx.val 1 (fun c d => c.dramWrite d.save (cvuBytes (c.cvu ctx.val)))) s

/-- R534: CVU_RESTORE: the 16-byte state is loaded from the save slot. -/
def execCvuRestore (ctx : Fin 2048) (s : State) : Host.Outcome State Fault Refusal :=
  onChip (fun c => c.cvuKernel ctx.val 2 (fun c d => c.setCvu ctx.val (cvuOf (c.dramRead d.save 16)))) s

end Sys2Proof.Machine
end

