-- ==== Sys2Proof/Machine/RegAccess.lean ====
section
/-! DEFINITION. Accesses to the register map: the windows and spans, the aborts and their log, the shadows of 64-bit reads, what a read
returns, and writes by access type (How this Manual is Read, R12–R18; Register Map, R655–R661). -/

namespace Sys2Proof.Machine

/-! ### The map (R655, R656, R661) -/

/-- R656, R667: the spans of the register blocks of the index, as (first address, bytes). The trace window has the 8,192 entries of
R59. -/
def mapSpansA : List (Nat × Nat) := [
  (0x0, 0x18), (0x200, 0x14), (0x220, 0x14), (0x300, 0x8), (0x8000, 0x1000),
  (0x100200, 0x20), (0x100300, 0x10), (0x101000, 0x400), (0x100400, 0x8), (0x108000, 0x20000),
  (0x200010, 0x4), (0x200100, 0x10), (0x204000, 0x8000), (0x20C000, 0x400), (0x400000, 0x100000),
  (0x600010, 0x4), (0x601000, 0x1800), (0x604000, 0x200),
  (0x800000, 0xC0000), (0x8C0000, 0x8), (0x8C0010, 0x10), (0x8C0020, 0x4),
  (0xA00010, 0x4), (0xA00100, 0x10), (0xA01000, 0x200), (0xB01000, 0x1000), (0xB08000, 0x300),
  (0xC00010, 0x4), (0xC01000, 0xC00)]

/-- R656, R667: the spans of the blocks from NET on. -/
def mapSpansB : List (Nat × Nat) := [
  (0xD00010, 0x4), (0xD00100, 0x10), (0xD01000, 0x1000), (0xD04000, 0x400), (0xD08000, 0x8000),
  (0xE00010, 0x4), (0xE00100, 0x18), (0xE00300, 0x28), (0xE01000, 0x380), (0xE02000, 0x100),
  (0xF00010, 0x4), (0xF00100, 0xC), (0xF00200, 0x80), (0xF00300, 0x4), (0xF01000, 0x1000), (0xF04000, 0x100),
  (0x1000010, 0x4), (0x1000100, 0x4), (0x1000300, 0x4), (0x1001000, 0x200), (0x1002000, 0x140),
  (0x1100010, 0x4), (0x1100100, 0x4), (0x1101000, 0x1000), (0x1103000, 0x800)]

/-- R656, R667: the spans of the blocks from SVC on. -/
def mapSpansC : List (Nat × Nat) := [
  (0x1200010, 0x4), (0x1200100, 0x2C), (0x1200200, 0x4), (0x1200300, 0xC), (0x1200310, 0xC), (0x1201000, 0x1000),
  (0x1204000, 0x4000), (0x1208000, 0x2000), (0x120C000, 0x600), (0x120F000, 0x400), (0x120F800, 0x8),
  (0x1300100, 0x3C), (0x1301000, 0x40),
  (0x1400010, 0x4), (0x1400020, 0x8), (0x1400100, 0x28), (0x1400200, 0x80), (0x1400300, 0x24), (0x1400400, 0x40), (0x1401000, 0x80),
  (0x1500100, 0x24), (0x1500140, 0x20), (0x1500180, 0x4), (0x1500200, 0x200), (0x1500400, 0x100), (0x1500500, 0x400),
  (0x1501000, 0x400), (0x1501800, 0x400), (0x1600100, 0x10), (0x1700100, 0x20)]

/-- Whether an address lies in a span of a list. -/
def inSpans (l : List (Nat × Nat)) (a : Nat) : Bool := l.any (fun s => decide (s.1 ≤ a ∧ a < s.1 + s.2))

/-- R655, R656: whether an address is implemented; the factory registers answer only at D3. -/
def Chip.implemented (c : Chip) (a : Nat) : Bool :=
  if 0xF000 ≤ a ∧ a < 0x10000 then c.dbgLevel == 3
  else inSpans mapSpansA a || inSpans mapSpansB a || inSpans mapSpansC a

/-- R661: a range that aborts while a bit of the gates is 1. -/
def gateRange (a lo len : Nat) : Bool := decide (lo ≤ a ∧ a < lo + len)

/-- R661: whether an address lies in the range of a closed gate. -/
def Chip.gated (c : Chip) (a : Nat) : Bool :=
  let g0 := (c.rd R.CLK_GATE0.addr).toNat
  let g1 := (c.rd R.CLK_GATE1.addr).toNat
  (List.range 16).any (fun k => bit g0 k && (gateRange a (0x400000 + 0x10000 * k) 0x10000 || gateRange a (0x800000 + 0xC000 * k) 0xC000)) ||
  (bit g0 20 && (gateRange a 0xB01000 0x1000 || gateRange a 0xB08000 0x300)) ||
  (bit g0 21 && gateRange a 0xC01000 0xC00) ||
  (List.range 4).any (fun q => bit g0 (22 + q) && gateRange a (0xD01000 + 0x400 * q) 0x400) ||
  (List.range 16).any (fun i => bit g1 i && (gateRange a (0x1103000 + 0x80 * i) 0x80 || gateRange a (0x1101000 + 0x100 * i) 0x100)) ||
  (List.range 16).any (fun k => bit g1 (16 + k) && gateRange a (0xF01000 + 0x100 * k) 0x100)

/-- R655: the windows of GLB and SEC. -/
def earlyWindow (a : Nat) : Bool := decide (a < 0x100000) || decide (0x1500000 ≤ a ∧ a < 0x1600000)

/-! ### Aborts (R659, R660) -/

/-- R659: the cause for which an access aborts, the first that applies; none where it answers. Before boot step 4 only GLB and SEC
answer; the two-ply path only reads PLY (R657). -/
def Chip.abortCause (c : Chip) (x : Access) : Option Nat :=
  if c.on R.CLK_ROOTSTAT_PLLLOCK = false ∧ earlyWindow x.addr = false then some 3
  else if x.size ≠ 4 ∨ x.addr % 4 ≠ 0 then some 2
  else if x.who = .ply ∧ (x.value.isSome ∨ x.addr < 0x1700000 ∨ 0x1800000 ≤ x.addr) then some 0
  else if c.implemented x.addr = false then some 0
  else if c.gated x.addr then some 1
  else none

/-- R660: REQ of a requester. -/
def reqCode : Requester → Nat
  | .pcie => 0 | .debug => 1 | .core _ => 2 | .ply => 3

/-- R660: CORE of a requester. -/
def reqCore : Requester → Nat
  | .core k => k.val
  | _ => 0

/-- R660: an abort is logged: the first since VALID was cleared with its address; every one counts, and a later one sets MORE. -/
def Chip.logAbort (c : Chip) (x : Access) (cause : Nat) : Chip :=
  let c :=
    if c.on R.GLB_ABORTINFO_VALID then c.set R.GLB_ABORTINFO_MORE 0 1
    else
      let c := (c.set R.GLB_ABORTINFO_VALID 0 1).set R.GLB_ABORTADDR_ADDR 0 x.addr
      let c := (c.set R.GLB_ABORTINFO_CAUSE 0 cause).setB R.GLB_ABORTINFO_WRITE 0 x.value.isSome
      (c.set R.GLB_ABORTINFO_REQ 0 (reqCode x.who)).set R.GLB_ABORTINFO_CORE 0 (reqCore x.who)
  c.bump R.GLB_ABORTINFO_COUNT 0

/-- R12, R659, R660: REGISTER_ACCESS_ABORT. An access that answers is none. -/
def execRegisterAccessAbort (a : Access) (s : State) : Host.Outcome State Fault Refusal :=
  onChip (fun c => match c.abortCause a with
    | some k => c.logAbort a k
    | none => c) s

/-! ### Reads (R18, R59, R242, R586) -/

/-- R18: the low words of the 64-bit pairs: address, stride and count. -/
def pairLows : List (Nat × Nat × Nat) := [
  (0x208, 4, 1), (0x100308, 4, 1), (0x101018, 0x100, 4), (0xD04014, 0x40, 16), (0xD0800C, 0x20, 1024), (0x110101C, 0x40, 64),
  (0x1200118, 4, 1), (0x1200120, 4, 1), (0x1300100, 4, 1), (0x1300108, 4, 1), (0x1300110, 4, 1), (0x1300120, 4, 1),
  (0x1300130, 4, 1), (0x1500108, 4, 1), (0x1700118, 4, 1)]

/-- R18: whether an address is the low word of a 64-bit pair. -/
def isPairLow (a : Nat) : Bool :=
  pairLows.any (fun p => decide (p.1 ≤ a ∧ (a - p.1) % p.2.1 = 0 ∧ (a - p.1) / p.2.1 < p.2.2))

/-- R657: the key of a requester's shadow of a pair. -/
def shadowKey (w : Requester) (low : Nat) : Nat :=
  2 ^ 26 * (match w with
    | .pcie => 0
    | .debug => 1
    | .ply => 2
    | .core k => 3 + k.val) + low

/-- R119: the word that an address of the ingest flow blocks shows: leg B shows the configuration of leg A and 0 elsewhere, and a
context that is not an ingest flow shows 0. -/
def Chip.flowShown (c : Chip) (a : Nat) : Word :=
  let f := (a - 0x204000) / 0x20
  let l := c.legA f
  if c.on R.ING_FLOWCFG_EN l = false then 0
  else if l = f then c.rd a
  else if a % 0x20 < 0xC then c.rd (a - 0x20)
  else 0

/-- R168: whether a slot block of lane n is in use: the slot codes a channel on plan column n, or on the plan column that the lane serves. -/
def Chip.slotInUse (c : Chip) (i : Nat) : Bool :=
  c.on R.LANE_CHCFG_EN i ||
    (match c.planCol (i / 0x800) with | some pc => c.on R.LANE_CHCFG_EN (slotIx pc (i % 0x800)) | none => false)

/-- R168, R195, R259, R278, R308, R357, R394, R426: whether an address lies in the block of an instance that is not in use. -/
def Chip.unusedBlock (c : Chip) (a : Nat) : Bool :=
  (gateRange a 0x400000 0x100000 && gateRange (a % 0x10000) 0x100 0x200 && !c.slotInUse ((a - 0x400100) / 0x20)) ||
  (gateRange a 0x601000 0x1800 && !c.on R.RATE_RCCFG_EN ((a - 0x601000) / 0x40)) ||
  (gateRange a 0xA01000 0x200 && !c.on R.DEC_DSCFG_EN ((a - 0xA01000) / 0x20)) ||
  (gateRange a 0xB01000 0x1000 && !c.on R.CMP_OUTCFG_EN ((a - 0xB01000) / 0x400)) ||
  (gateRange a 0xC01000 0xC00 && a % 0x40 != 0x14 && !c.on R.AUD_PORTCFG_EN ((a - 0xC01000) / 0x40)) ||
  (gateRange a 0xD08000 0x8000 && !c.on R.NET_EGCFG_EN ((a - 0xD08000) / 0x20)) ||
  (gateRange a 0xE01000 0x380 && !c.on R.CLK_REFCFG_EN ((a - 0xE01000) / 0x20)) ||
  (gateRange a 0xF01000 0x1000 && !c.on R.DRAM_CHCFG_EN ((a - 0xF01000) / 0x100))

/-- R79: the boot steps 6 to 13 that are complete: the early sections are in force; DRAM is trained; the columns have been tested; the
links of the plan are up; every section has passed; each steady time base in use is locked or free; the DPLL is locked; the role is
resolved. -/
def Chip.bootSteps (c : Chip) : List (Nat × Bool) :=
  let ports := (List.range 16).all (fun n => !c.portThere n || c.portUp n)
  let groups := (List.range 64).all (fun g => !c.grpOn g || c.grpUp g)
  let bases := (range' 12 16).all (fun b => !c.on R.NET_TBCFG_EN b || c.on R.NET_TBSTAT_LOCKED b || c.on R.NET_TBSTAT_FREESTART b)
  [(6, c.boot.hdrOk && decide (5 ≤ c.boot.passed.length)), (7, c.boot.dramOk), (8, c.boot.postDone), (9, ports && groups),
   (10, c.boot.complete), (11, bases), (12, !c.on R.CLK_DPLLCFG_EN || c.get R.CLK_DPLLSTAT_STATE == 2), (13, c.boot.roleOk)]

/-- R91: STAGE: the first boot step that is not complete; held once every enabled plane has started, or no slot has passed. -/
def Chip.stage (c : Chip) : Nat :=
  let k := c.get R.GLB_BOOTSTAT_STAGE
  if k ≠ 6 ∨ c.on R.GLB_BOOTSTAT_NOIMAGE then k
  else ((c.bootSteps.find? (fun x => !x.2)).map (·.1)).getD 14

/-- The word that an address shows: that of its register, and 0 in the block of an instance that is not in use. -/
def Chip.shown (c : Chip) (a : Nat) : Word :=
  if gateRange a 0x204000 0x8000 then c.flowShown a
  else if c.unusedBlock a then 0
  else if a = R.GLB_BOOTSTAT_STAGE.addr then (c.set R.GLB_BOOTSTAT_STAGE 0 c.stage).rd a
  else c.rd a

/-- R18: LOW_WORD_READ: a read of the low word latches the high word into the requester's shadow. -/
def execLowWordRead (who : Requester) (addr : Nat) (s : State) : Host.Outcome State Fault Refusal :=
  onChip (fun c =>
    if isPairLow addr ∧ c.abortCause { who := who, addr := addr } = none then
      { c with shadows := tset 0 c.shadows (shadowKey who addr) ((c.shown (addr + 4)).toNat + 1) }
    else c) s

/-- R586: the windows that answer only the debug port. -/
def debugOnly (a : Nat) : Bool :=
  gateRange a 0x1500140 0x20 || gateRange a 0x1500180 4 || gateRange a 0x1500400 0x100 || gateRange a 0x1500500 0x400

/-- R59: the bytes of trace entry i. -/
def traceBytes (e : TraceEntry) : List Byte :=
  leBytes 1 e.kind ++ leBytes 1 e.plane ++ leBytes 2 e.aux ++ leBytes 5 e.turn ++ leBytes 3 0 ++ leBytes 4 e.data

/-- R59: the word of the trace window at an address, through the debug port at D1 and above; 0 elsewhere. -/
def Chip.traceWord (c : Chip) (who : Requester) (a : Nat) : Word :=
  if who = .debug ∧ 1 ≤ c.dbgLevel then
    let i := (a - 0x108000) / 16
    BitVec.ofNat 32 (leAt (traceBytes (tget {} c.sched.trace i)) ((a - 0x108000) % 16) 4)
  else 0

/-- R215, R242: whether engine e runs a kernel that has not stopped. -/
def engineIssues (e : Engine) : Bool := match e.run with
  | some r => r.stop.isNone
  | none => false

/-- R239, R242: a register of an engine's block, at debug level D1 and above: PCNOW, a scalar register or a word of a vector one. -/
def Chip.engineWord (c : Chip) (a : Nat) : Word :=
  let e := c.engine ((a - 0x800000) / 0x1000)
  let o := a % 0x1000
  if c.dbgLevel = 0 then 0
  else if o = 0x40 then BitVec.ofNat 32 (2 ^ 31 * b2n (engineIssues e) + (if engineIssues e then e.pc % 4096 else 0))
  else if 0x400 ≤ o ∧ o < 0x480 then sread e ((o - 0x400) / 4)
  else if 0x800 ≤ o then BitVec.ofNat 32 ((tget (0 : BitVec 512) e.vreg ((o - 0x800) / 64)).toNat / 2 ^ (8 * ((o - 0x800) % 64)))
  else 0

/-- R14, R18, R657: the word that a read of an implemented address returns to a requester. At D0 the debug port reads only its own
windows (R579). The high word of a pair is the shadow, once the low word has been read. -/
def Chip.readWord (c : Chip) (who : Requester) (a : Nat) : Word :=
  if debugOnly a then (if who = .debug ∧ a < 0x1500180 then c.rd a else 0)
  else if who = .debug ∧ c.dbgLevel = 0 then 0
  else if gateRange a 0x108000 0x20000 then c.traceWord who a
  else if gateRange a 0x800000 0xC0000 ∧ (a % 0x1000 = 0x40 ∨ 0x400 ≤ a % 0x1000) then c.engineWord a
  else if 4 ≤ a ∧ isPairLow (a - 4) then
    match tget 0 c.shadows (shadowKey who (a - 4)) with
    | 0 => c.shown a
    | n + 1 => BitVec.ofNat 32 n
  else c.shown a

/-! ### Writes (R14–R17, R657, R658) -/

/-- R14, R658: a register word after a write: RW bits take the value, W1C bits written with 1 clear, and SK bits take it at D2 and D3. -/
def Chip.writtenWord (c : Chip) (r : RegRow) (sk : Bool) (a : Nat) (v : Word) : Word :=
  let w := c.rd a
  let m := BitVec.ofNat 32 (r.rw ||| r.rws ||| (if sk then r.sk else 0))
  ((w &&& ~~~m) ||| (v &&& m)) &&& ~~~(v &&& BitVec.ofNat 32 r.w1c)

/-- R57, R165, R241, R420, R450, R660: clearing VALID of a record clears its MORE, and of the abort log its COUNT. -/
def Chip.validCleared (c : Chip) (a : Nat) : Chip :=
  let valid := bit (c.rd a).toNat 31
  let engines := gateRange a 0x800000 0xC0000 && a % 0x1000 == 8
  let lanes := gateRange a 0x400000 0x100000 && a % 0x10000 == 8
  if valid then c
  else if a = R.SEQ_SFSTAT_VALID.addr ∨ lanes ∨ engines ∨ a = R.DRAM_FAULTREC_VALID.addr ∨ a = R.NAND_FAULTREC_VALID.addr then
    c.wr a (c.rd a &&& ~~~(0x40000000 : Word))
  else if a = R.GLB_ABORTINFO_VALID.addr then (c.set R.GLB_ABORTINFO_MORE 0 0).set R.GLB_ABORTINFO_COUNT 0 0
  else c

/-- R494, R499, R502, R521: what follows a write of a service register: a source that is unmasked is sensed again, a core that becomes
ready is offered work, and a vector that is unmasked sends what is pending. -/
def Chip.svcWritten (c : Chip) (was : Chip) (a : Nat) : Chip :=
  if gateRange a 0x1204000 0x4000 then
    let s := (a - 0x1204000) / 16
    if a % 16 = 4 ∧ was.on R.SVC_SRCSTAT_STORM s ∧ c.on R.SVC_SRCSTAT_STORM s = false then c.stormCleared s
    else if a % 16 = 0 then (c.repend s).deliverAll
    else c
  else if gateRange a 0x1201000 0x1000 ∧ a % 0x100 = 0x18 then c.dispatch
  else if gateRange a 0x120F000 0x400 ∧ a % 16 = 12 then
    let v := (a - 0x120F000) / 16
    let f : Fld := ⟨R.SVC_MSIXPBA.addr, 4, v % 32, v % 32⟩
    if c.on f (v / 32) ∧ bit (c.rd a).toNat 0 = false then (c.set f (v / 32) 0).sendMsix v else c
  else c

/-- The device after another command's meaning. -/
def Chip.via (c : Chip) (f : State → Host.Outcome State Fault Refusal) : Chip := match f { chip := c, pending := [] } with
  | .next s => s.chip
  | _ => c

/-- R525: the ENQ words of a queue: 0 to 2 are held until ENQ3 enqueues them. -/
def Chip.enqWrite (c : Chip) (q w : Nat) (v : Word) : Chip :=
  let x := c.queue q
  match w with
  | 0 => c.setQueue q { x with enq := (v.toNat, x.enq.2.1, x.enq.2.2) }
  | 1 => c.setQueue q { x with enq := (x.enq.1, v.toNat, x.enq.2.2) }
  | 2 => c.setQueue q { x with enq := (x.enq.1, x.enq.2.1, v.toNat) }
  | _ => c.via (execEnqueue (Fin.ofNat 256 q) v)

/-- R14: a WO register, or a RW one whose write is a command of its own: what its write does, by address; none for a plain register.
A mask commit, whose bit clock the write does not tell, and the token and request windows are written by their own commands. -/
def Chip.actionA (c : Chip) (a : Nat) (v : Word) : Option Chip :=
  if a = R.GLB_RESETCTL_KEY.addr then some (c.resetctl v)
  else if a = R.ING_CNTCLR_GO.addr then some (c.via (execIngCntclr v))
  else if gateRange a 0x400000 0x100000 ∧ a % 0x10000 = 0xC then some (c.via (execLaneCntclr (Fin.ofNat 16 ((a - 0x400000) / 0x10000)) v))
  else if a = R.RATE_CNTCLR_GO.addr then some (c.via (execRateCntclr v))
  else if a = R.SPN_CNTCLR_GO.addr then some (c.via (execSpnCntclr v))
  else if a = R.DEC_CNTCLR_GO.addr then some (c.via (execDecCntclr v))
  else if a = R.AUD_CNTCLR_GO.addr then some (c.via (execAudCntclr v))
  else if a = R.NET_CNTCLR_GO.addr then some ((c.via (execNetCntclrLane v)).via (execNetCntclrFlow v))
  else if gateRange a 0xD01000 0x1000 ∧ a % 0x100 = 0x14 then some (c.via (execTsqPop (Fin.ofNat 16 ((a - 0xD01000) / 0x100)) v))
  else if gateRange a 0xD04000 0x400 ∧ a % 0x40 = 0x10 then some (c.via (execTbLatch (Fin.ofNat 16 ((a - 0xD04000) / 0x40)) v))
  else if a = R.CLK_CNTCLR_GO.addr then some (c.via (execClkCntclr v))
  else if gateRange a R.CLK_PHSTEP.addr 0x100 ∧ (a - R.CLK_PHSTEP.addr) % 0x20 = 0 then
    some (c.via (execPhaseStep (Fin.ofNat 8 ((a - R.CLK_PHSTEP.addr) / 0x20)) v))
  else if a = R.DRAM_CNTCLR_GO.addr then some (c.via (execDramCntclr v))
  else if a = R.NAND_CNTCLR_GO.addr then some (c.via (execNandCntclr v))
  else if a = R.STR_CNTCLR_GO.addr then some (c.via (execStrCntclr v))
  else none

/-- R14: the same for the blocks from SVC on. -/
def Chip.actionB (c : Chip) (a : Nat) (v : Word) : Option Chip :=
  if a = R.SVC_CNTCLR_GO.addr then some ((c.via (execSvcCntclrSource v)).via (execSvcCntclrQueue v))
  else if a = R.SVC_HOSTACK_SOURCE.addr then some (c.via (execHostack v))
  else if a = R.SVC_RINGCFG_EN.addr then some (c.via (execRingEnable v))
  else if a = R.SVC_SQTAIL.addr then some (c.via (execSqDoorbell v))
  else if a = R.SVC_CQHEAD.addr then some (c.via (execCqHeadWrite v))
  else if a = R.SVC_ICGLOBAL_DIS.addr then some (c.via (execIcglobalWrite v))
  else if gateRange a R.SVC_EVOUT.addr 12 then some (c.via (execEvoutWrite (Fin.ofNat 3 ((a - R.SVC_EVOUT.addr) / 4)) v))
  else if gateRange a 0x1201000 0x1000 ∧ a % 0x100 = 0x04 then some (c.via (execComplete (Fin.ofNat 16 ((a - 0x1201000) / 0x100)) v))
  else if gateRange a 0x1201000 0x1000 ∧ a % 0x100 = 0x14 then some (c.via (execDone (Fin.ofNat 16 ((a - 0x1201000) / 0x100)) v))
  else if gateRange a 0x1208000 0x2000 ∧ 8 ≤ a % 0x20 ∧ a % 0x20 < 0x18 then
    some (c.enqWrite ((a - 0x1208000) / 0x20) ((a % 0x20 - 8) / 4) v)
  else if a = R.REEL_RDSEQHI.addr then some (c.via (execReelRead v))
  else if a = R.REEL_TOKQUERY_GO.addr then some (c.via (execReelTokenQuery v))
  else if (a = R.REEL_RDSEQLO.addr ∨ a = R.REEL_TOKLO.addr ∨ a = R.REEL_TOKHI.addr) ∧ c.on R.REEL_RDSTAT_BUSY then
    some (c.set R.REEL_RDSTAT_COLLIDE 0 1)
  else if a = R.SAF_CNTCLR_GO.addr then some (c.via (execSafCntclr v))
  else if a = R.SAF_PINCTL_SAFEREL.addr then
    -- R543: SAFEREL is judged first
    some ((c.when (bit v.toNat 1) (·.saferel)).when (bit v.toNat 0) (·.faultack))
  else if a = R.SAF_FIRSTREC0_VALID.addr then some (c.when (bit v.toNat 31) (·.firstrecClear))
  else if a = R.SEC_DBGCTL_RELEASE.addr then some (c.when (bit v.toNat 0) (·.endSession))
  else none

/-- R14–R17, R658: one write. RO and reserved bits, and SK bits below D2, are ignored; so are writes of the debug port below D2 but in
its own windows (R579, R586), and those of any other requester there. -/
def Chip.writeReg (c : Chip) (who : Requester) (a : Nat) (v : Word) : Chip :=
  let dbg := 2 ≤ c.dbgLevel
  if debugOnly a ∧ who ≠ .debug then c
  else if who = .debug ∧ ¬dbg ∧ debugOnly a = false then c
  else match c.actionA a v with
    | some c' => c'
    | none => match c.actionB a v with
      | some c' => c'
      | none => match regRowAt a with
        | none => c
        | some r =>
          let sk := decide dbg && (decide (who = .pcie) || decide (who = .debug))
          ((c.wr a (c.writtenWord r sk a v)).validCleared a).svcWritten c a

/-- R657: the place of a requester's write among those of one PER cycle: service cores in ascending number, the PCIe endpoint, and the
debug port last. -/
def writerOrder : Requester → Nat
  | .core k => k.val
  | .ply => 16
  | .pcie => 17
  | .debug => 18

/-- Accesses in the order in which they apply. -/
def insertWrite (x : Access) : List Access → List Access
  | [] => [x]
  | y :: l => if writerOrder x.who < writerOrder y.who then x :: y :: l else y :: insertWrite x l

/-- R14, R657: a write of a PER cycle: an access that aborts writes nothing. -/
def Chip.writeAccess (c : Chip) (x : Access) : Chip :=
  match x.value with
  | none => c
  | some v => c.writeReg x.who x.addr v

/-- R14–R17, R657, R658: REGISTER_WRITE: the writes of one PER cycle, in the order in which they apply. An access that aborts changes
nothing but the log (R659), whose VALID and MORE win over a write of 1 in the same cycle (R15). -/
def execRegisterWrite (ws : List Access) (s : State) : Host.Outcome State Fault Refusal :=
  onChip (fun c =>
    let l := (ws.foldl (fun l x => insertWrite x l) []).filter (·.value.isSome)
    let c' := c.each (l.filter (fun x => (c.abortCause x).isNone)) (fun c x => c.writeAccess x)
    c'.each (l.filterMap (fun x => (c.abortCause x).map (fun k => (x, k)))) (fun c x => c.logAbort x.1 x.2)) s

end Sys2Proof.Machine
end

