-- ==== Sys2Proof/Machine/Supply.lean ====
section
/-! DEFINITION. The supply and temperature monitors (Limits, Ports and Electrical Data, R643–R653). -/

namespace Sys2Proof.Machine

/-! ### Supplies (R645) -/

/-- R645, R651: whether rail i is watched: every rail in P0 to P2, VDD_AON and VDD_IO18 in P3, none in P4. -/
def Chip.railWatched (c : Chip) (i : Nat) : Bool := decide (c.pwrState < 3) || (c.pwrState == 3 && (i == 2 || i == 3))

/-- R652: WARN bit of rail i. -/
def warnBit (i : Nat) : Fld := ⟨R.CLK_SUPSTAT_WARN.addr, 0, i, i⟩
/-- R652: WARNEV bit of rail i. -/
def warnEvBit (i : Nat) : Fld := ⟨R.CLK_SUPSTAT_WARNEV.addr, 0, 8 + i, 8 + i⟩

/-- A rail joined to the rails that hold the reset, in rising order. -/
def insertRail (i : Nat) : List Nat → List Nat
  | [] => [i]
  | j :: l => if i < j then i :: j :: l else if i = j then j :: l else j :: insertRail i l

/-- The device held in power-on reset by the rails and the temperature named (R645, R650, R651). -/
def Chip.heldReset (c : Chip) (tripped : List Nat) (hot : Bool) : Chip :=
  let c := c.fresh false
  { c with pwr := { c.pwr with tripped := tripped, hot := hot }, boot := { c.boot with held := true } }

/-- R645: SUPPLY_WARNING. While a trip holds the device in reset, a rail below its minimum only prolongs it. -/
def execSupplyWarning (rail : Fin 8) (s : State) : Host.Outcome State Fault Refusal :=
  onChip (fun c =>
    let i := rail.val
    if c.railWatched i = false then c
    else if c.boot.held then
      if c.pwr.tripped = [] then c else { c with pwr := { c.pwr with tripped := insertRail i c.pwr.tripped } }
    else
      let c := (c.set (warnBit i) 0 1).set (warnEvBit i) 0 1
      (c.pulse 508).fault 3 3 25 blkClk 0x07 i none) s

/-- R645: SUPPLY_WARNING_END: the rail has come back above its minimum, and after a trip has stayed there for 1 ms. -/
def execSupplyWarningEnd (rail : Fin 8) (s : State) : Host.Outcome State Fault Refusal :=
  onChip (fun c =>
    let c := c.set (warnBit rail.val) 0 0
    { c with pwr := { c.pwr with tripped := c.pwr.tripped.filter (· != rail.val) } }) s

/-- R645, R651: SUPPLY_TRIP: power-on reset at once, with no Reel flush. -/
def execSupplyTrip (rail : Fin 8) (s : State) : Host.Outcome State Fault Refusal :=
  onChip (fun c =>
    if c.railWatched rail.val then
      (c.heldReset (insertRail rail.val c.pwr.tripped) c.pwr.hot).set R.CLK_SUPSTAT_SUPRST 0 1
    else c) s

/-- R589, R644, R652: SUPPLY_LOSS: P4 from any state; with VDD_AON the two causes of the always-on domain go too. -/
def execSupplyLoss (s : State) : Host.Outcome State Fault Refusal :=
  onChip (fun c =>
    let c := c.heldReset [] false
    ((c.set R.CLK_SUPSTAT_THERMRST 0 0).set R.CLK_SUPSTAT_SUPRST 0 0).set R.PWR_PWRSTAT_STATE 0 4) s

/-! ### Temperature (R649, R650, R653) -/

/-- R1, R650: the Tj maximum of the ordering code, in 0.25 °C units. -/
def tjMax : Int := if Config.extended then 420 else 400

/-- R650: 120 °C in 0.25 °C units. -/
def tjShutdown : Int := 480

/-- R653: a sensor's reading: TJ and HOTSENS follow the hottest, TJMAX keeps the highest. -/
def Chip.reading (c : Chip) (sensor : Nat) (t : Int) : Chip :=
  let c :=
    if ofField 12 (c.get R.CLK_TEMP_TJ) ≤ t ∨ c.get R.CLK_TEMP_HOTSENS = sensor then
      (c.set R.CLK_TEMP_TJ 0 (toField 12 t)).set R.CLK_TEMP_HOTSENS 0 sensor
    else c
  c.set R.CLK_TEMP_TJMAX 0 (toField 12 (max (ofField 12 (c.get R.CLK_TEMP_TJMAX)) t))

/-- R650, R653: THERMAL_WARNING. -/
def execThermalWarning (sensor : Fin 8) (t : BitVec 12) (s : State) : Host.Outcome State Fault Refusal :=
  onChip (fun c =>
    if c.boot.held then c
    else
      let c := c.reading sensor.val t.toInt
      if tjMax < t.toInt then
        ((c.set R.CLK_SUPSTAT_TEMPWARN 0 1).pulse 509).fault 3 3 25 blkClk 0x08 sensor.val none
      else c) s

/-- R650, R651: THERMAL_SHUTDOWN: the pins and transmitters go safe, the Reel is flushed, and power-on reset is held. -/
def execThermalShutdown (sensor : Fin 8) (t : BitVec 12) (s : State) : Host.Outcome State Fault Refusal :=
  onChip (fun c =>
    if t.toInt < tjShutdown ∨ c.pwr.hot ∨ 4 ≤ c.pwrState then c
    else
      let c := ((c.reading sensor.val t.toInt).rootPins).flushReel 9
      (c.heldReset c.pwr.tripped true).set R.CLK_SUPSTAT_THERMRST 0 1) s

/-- R650, R651: THERMAL_SHUTDOWN_RELEASE: the hottest sensor reads at least 10 °C below the Tj maximum; the reset ends unless a trip
still holds it. -/
def execThermalShutdownRelease (sensor : Fin 8) (t : BitVec 12) (s : State) : Host.Outcome State Fault Refusal :=
  onChip (fun c =>
    if c.pwr.hot = false ∨ tjMax - 40 < t.toInt then c
    else
      let c := { c with pwr := { c.pwr with hot := false } }
      if c.pwr.tripped = [] then (c.restart false 0).reading sensor.val t.toInt else c) s

end Sys2Proof.Machine
end

