-- ==== Sys2Proof/Machine/Turn.lean ====
section
/-! DEFINITION. The passing of time: Twists, house frame pulses, and the parts of a Turn of each plane (The Schedule Contract,
R24–R41, R48). -/

namespace Sys2Proof.Machine

/-! ### The Twist (R24) -/

/-- R632: a heartbeat's age rises with every microsecond of 800 fabric cycles. -/
def Chip.leaseAge (c : Chip) (was : Nat) : Chip :=
  c.when c.plyOn (·.bump R.PLY_LEASEAGE 0 (c.sched.cyc / 800 - was / 800))

/-- R30, R32: the streams of the plane that owns the Twist may issue again. -/
def Chip.streamsTwist (c : Chip) : Chip :=
  match c.twistPlane with
  | some p => c.each (c.streamsOf p) (fun c st => c.setStream st (streamTwist (c.stream st)))
  | none => c

/-- R24, R341: the next 256 fabric cycles begin, and every time base has advanced by its own rate. -/
def Chip.passTwist (c : Chip) : Chip :=
  let c := { c with sched := { c.sched with cyc := c.sched.cyc + 256 } }
  c.each (List.range 16) (fun c b => c.setBase b (c.base b).twist)

/-- R24, R48, R380, R408, R412: TWIST_START. The words that have reached their targets over the tree have their effect. The fabric clock runs once the root PLL has locked; dynamic accesses that wait for the open pool are
served unless the Twist belongs to a plane in its body. -/
def execTwistStart (s : State) : Host.Outcome State Fault Refusal :=
  onChip (fun c =>
    if c.on R.CLK_ROOTSTAT_PLLLOCK = false then c
    else
      let was := c.sched.cyc
      let c := c.passTwist.holdSeconds.streamsTwist
      let c := c.arriveWords none c.sched.cyc
      let c := c.when (c.sched.cyc / 256 % 32768 == 0) (·.clearSnag)
      let c := c.when (c.on R.DRAM_MAPCFG_EN && !c.ownedAt c.sched.cyc) (·.serveDram)
      let c := c.each (List.range 8) (fun c k => c.slewPhase k)
      (c.leaseAge was).remainShown.reactTick) s

/-! ### The house frame pulse (R28, R35) -/

/-- R35, R55: eₙ of the boundary now behind plane p. -/
def Chip.setErr (c : Chip) (p : Nat) (e : Int) : Chip :=
  (c.setPlane p { c.plane p with err := e }).set R.SEQ_PLANESTAT_ERRCYC p (errField e)

/-- R28, R35: HOUSE_FRAME_PULSE. The pulse's cycle is fixed; if the Turn of that pulse has begun already, its error follows. -/
def execHouseFramePulse (p : Fin 4) (s : State) : Host.Outcome State Fault Refusal :=
  onChip (fun c =>
    let p := p.val
    let r := c.plane p
    let n := c.lastPulse p
    if c.running p = false ∨ n ≤ r.pulseIdx then c
    else
      let h := c.pulseAt p n
      let c := c.setPlane p { r with pulseIdx := n, pulseAt := h }
      if n = r.index then c.setErr p ((r.t : Int) * 65536 - h) else c) s

/-! ### The body (R32, R35) -/

/-- R35: the tail of the Turn of plane p is computed in the first owned Twist of its body. -/
def Chip.planTail (c : Chip) (p : Nat) : Chip :=
  let (l, clamp, tnext) := c.servo p
  c.setPlane p { c.plane p with phase := .body, tail := l, clamp := clamp, tnext := tnext, servoDone := true }

/-- R32, R35, R224, R247: BODY_START. The plane's first owned Twist at or after the end of its lead begins. A plane that drains releases
no access unit (R581). -/
def execBodyStart (p : Fin 4) (s : State) : Host.Outcome State Fault Refusal :=
  onChip (fun c =>
    let p := p.val
    let r := c.plane p
    if r.phase ≠ .lead ∨ c.sched.cyc < r.t + r.lead ∨ c.owner c.ringPos ≠ some p then c
    else
      let c := c.planTail p
      let c := c.each (c.streamsOf p) (fun c st => c.setStream st (streamBody (c.stream st)))
      let c := c.acSnapshot p
      c.when (!c.drained p) (fun c =>
        c.each ((List.range 16).filter (fun k => c.decOn k && c.decPlane k == p)) (fun c k => c.decRelease k))) s

/-! ### The tail (R48) -/

/-- R48, R87, R387, R552: TAIL_START. The choices and swaps for the next boundary are made, and the gates that it needs open. -/
def execTailStart (p : Fin 4) (s : State) : Host.Outcome State Fault Refusal :=
  onChip (fun c =>
    let p := p.val
    let r := c.plane p
    if r.phase ≠ .body ∨ c.sched.cyc < r.t + r.lead + r.body then c
    else
      let c := c.setPlane p { r with phase := .tail }
      ((c.columnChoice p).variantTail p).gatesShown) s

/-! ### The boundary (R26, R39, R40) -/

/-- R107, R252: the ingest members and decode streams of plane p end the Turn that is over. -/
def Chip.turnEnds (c : Chip) (p : Nat) : Chip :=
  let n := c.turn p
  if c.drained p then c
  else
    let c := c.each (c.videoFlows p) (fun c f => c.memberTurnEnd f n)
    c.each ((List.range 16).filter (fun k => c.decOn k && c.decPlane k == p)) (fun c k => c.decTurnEnd k n)

/-- R35: e of the boundary that plane p now meets, from its pulse or, before that occurs, from the pulse as the base foresees it. -/
def Chip.boundaryErr (c : Chip) (p : Nat) : Int :=
  let r := c.plane p
  let h := if r.pulseIdx = r.index + 1 then r.pulseAt else c.pulseAt p (r.index + 1)
  (r.tnext : Int) * 65536 - h

/-- R26, R39: plane p enters its next Turn. -/
def Chip.nextTurn (c : Chip) (p : Nat) (e : Int) : Chip :=
  let r := c.plane p
  let c := c.setPlane p
    { r with phase := .lead, t := r.tnext, lead := leadOf r.tnext, body := c.get R.SEQ_PLANECFG_BODYREV p * 16384, tail := 0,
             tnext := 0, servoDone := false, clamp := false, index := r.index + 1, err := e, excess := errExceeds e }
  c.set2 R.SEQ_TURNCNTLO R.SEQ_TURNCNTHI p ((r.index + 1) % 2 ^ 40)

/-- R55, R56: what the plane's registers show from the boundary on. -/
def Chip.boundaryShown (c : Chip) (p : Nat) (was : PlaneRun) : Chip :=
  let c := (c.set R.SEQ_TAILLAST_LAST p was.tail).setB R.SEQ_PLANESTAT_CLAMP p was.clamp
  let c := c.setB R.SEQ_PLANESTAT_LOCKED p (c.on R.NET_TBSTAT_VALID (c.baseOf p))
  c.set R.SEQ_PLANESTAT_ERRCYC p (errField (c.plane p).err)

/-- R512, R546, R549, R189, R335, R581, R622: what takes effect at the boundary of plane p, in the order of R512. -/
def Chip.boundaryEffects (c : Chip) (p : Nat) : Chip :=
  let c := ((c.safBoundary p).commandsBoundary p).rateBoundary p
  let c := ((c.spliceBoundary p).stopBoundary p).plyBoundary p
  ((c.sampleVisibility p).boundaryPins p).gatesShown

/-- R26, R39, R40: TURN_BOUNDARY. -/
def execTurnBoundary (p : Fin 4) (s : State) : Host.Outcome State Fault Refusal :=
  onChip (fun c =>
    let p := p.val
    let r := c.plane p
    if r.phase ≠ .tail ∨ c.sched.cyc + 256 ≤ r.tnext then c
    else
      let e := c.boundaryErr p
      let c := ((c.turnEnds p).nextTurn p e).boundaryShown p r
      let c := c.when (errExceeds e && !r.excess) (·.timingFault p)
      let c := c.trace 1 p (c.plane p).lead (r.tail * 2 ^ 16 + errField e)
      c.boundaryEffects p) s

end Sys2Proof.Machine
end

