-- ==== Sys2Proof/Machine/Dispatch.lean ====
section
/-! DEFINITION. The one dispatch of commands to their meanings. -/

namespace Sys2Proof.Machine

/-- What a command does to everything but the queue. -/
def exec (i : Instr) (s : State) : Host.Outcome State Fault Refusal :=
  match i with
  | .powerOnReset => Sys2Proof.Machine.execPowerOnReset s
  | .warmReset => Sys2Proof.Machine.execWarmReset s
  | .resetctlWarm v => Sys2Proof.Machine.execResetctlWarm v s
  | .pcieHotReset => Sys2Proof.Machine.execPcieHotReset s
  | .supplyWarning rail => Sys2Proof.Machine.execSupplyWarning rail s
  | .supplyTrip rail => Sys2Proof.Machine.execSupplyTrip rail s
  | .supplyLoss => Sys2Proof.Machine.execSupplyLoss s
  | .thermalWarning sensor t => Sys2Proof.Machine.execThermalWarning sensor t s
  | .thermalShutdown sensor t => Sys2Proof.Machine.execThermalShutdown sensor t s
  | .crystalWindow edges => Sys2Proof.Machine.execCrystalWindow edges s
  | .crystalQualTimeout => Sys2Proof.Machine.execCrystalQualTimeout s
  | .rootPllLock => Sys2Proof.Machine.execRootPllLock s
  | .imageHeaderRead h => Sys2Proof.Machine.execImageHeaderRead h s
  | .sectionStreamed x => Sys2Proof.Machine.execSectionStreamed x s
  | .directoryRepair => Sys2Proof.Machine.execDirectoryRepair s
  | .dramTrainingDone ok => Sys2Proof.Machine.execDramTrainingDone ok s
  | .postDone pass => Sys2Proof.Machine.execPostDone pass s
  | .planeStart p => Sys2Proof.Machine.execPlaneStart p s
  | .bootLateTimer => Sys2Proof.Machine.execBootLateTimer s
  | .freeStart b => Sys2Proof.Machine.execFreeStart b s
  | .slotProven golden => Sys2Proof.Machine.execSlotProven golden s
  | .twistStart => Sys2Proof.Machine.execTwistStart s
  | .bodyStart p => Sys2Proof.Machine.execBodyStart p s
  | .tailStart p => Sys2Proof.Machine.execTailStart p s
  | .turnBoundary p => Sys2Proof.Machine.execTurnBoundary p s
  | .houseFramePulse p => Sys2Proof.Machine.execHouseFramePulse p s
  | .nop st => Sys2Proof.Machine.execNop st s
  | .run st work => Sys2Proof.Machine.execRun st work s
  | .move st breaks errs => Sys2Proof.Machine.execMove st breaks errs s
  | .await st => Sys2Proof.Machine.execAwait st s
  | .mark st => Sys2Proof.Machine.execMark st s
  | .test st => Sys2Proof.Machine.execTest st s
  | .turn st => Sys2Proof.Machine.execTurn st s
  | .runArrival n => Sys2Proof.Machine.execRunArrival n s
  | .runComplete cls idx => Sys2Proof.Machine.execRunComplete cls idx s
  | .budgetExpiry cls idx => Sys2Proof.Machine.execBudgetExpiry cls idx s
  | .abortComplete cls idx => Sys2Proof.Machine.execAbortComplete cls idx s
  | .ownershipAbort cls idx => Sys2Proof.Machine.execOwnershipAbort cls idx s
  | .bodyEndShort st => Sys2Proof.Machine.execBodyEndShort st s
  | .testStepEnd cls idx => Sys2Proof.Machine.execTestStepEnd cls idx s
  | .moveComplete st failed => Sys2Proof.Machine.execMoveComplete st failed s
  | .cvuSeed ctx => Sys2Proof.Machine.execCvuSeed ctx s
  | .cvuSave ctx => Sys2Proof.Machine.execCvuSave ctx s
  | .cvuRestore ctx => Sys2Proof.Machine.execCvuRestore ctx s
  | .salu n cyc op => Sys2Proof.Machine.execSalu n cyc op s
  | .smul n cyc op => Sys2Proof.Machine.execSmul n cyc op s
  | .sdiv n cyc op => Sys2Proof.Machine.execSdiv n cyc op s
  | .smem n cyc op => Sys2Proof.Machine.execSmem n cyc op s
  | .stab n cyc => Sys2Proof.Machine.execStab n cyc s
  | .ctrl n cyc op => Sys2Proof.Machine.execCtrl n cyc op s
  | .achk n cyc => Sys2Proof.Machine.execAchk n cyc s
  | .csr n cyc => Sys2Proof.Machine.execCsr n cyc s
  | .valu n cyc op => Sys2Proof.Machine.execValu n cyc op s
  | .vcmp n cyc op => Sys2Proof.Machine.execVcmp n cyc op s
  | .vmul n cyc op => Sys2Proof.Machine.execVmul n cyc op s
  | .vsad n cyc => Sys2Proof.Machine.execVsad n cyc s
  | .vred n cyc op => Sys2Proof.Machine.execVred n cyc op s
  | .vperm n cyc op => Sys2Proof.Machine.execVperm n cyc op s
  | .vmem n cyc op => Sys2Proof.Machine.execVmem n cyc op s
  | .movs n cyc op => Sys2Proof.Machine.execMovs n cyc op s
  | .send n cyc => Sys2Proof.Machine.execSend n cyc s
  | .sendl n cyc => Sys2Proof.Machine.execSendl n cyc s
  | .commit n cyc => Sys2Proof.Machine.execCommit n cyc s
  | .resultWriteback n cyc => Sys2Proof.Machine.execResultWriteback n cyc s
  | .sendArrival collided crcFail => Sys2Proof.Machine.execSendArrival collided crcFail s
  | .variantStagingDone p => Sys2Proof.Machine.execVariantStagingDone p s
  | .st2110PacketRx k => Sys2Proof.Machine.execSt2110PacketRx k s
  | .legDown f isB t => Sys2Proof.Machine.execLegDown f isB t s
  | .ancPacketRx f stamp a => Sys2Proof.Machine.execAncPacketRx f stamp a s
  | .parseNal x => Sys2Proof.Machine.execParseNal x s
  | .audioFrameRx n k => Sys2Proof.Machine.execAudioFrameRx n k s
  | .audioClockLoss n t => Sys2Proof.Machine.execAudioClockLoss n t s
  | .rateMeterWindow n => Sys2Proof.Machine.execRateMeterWindow n s
  | .maskCommit n v t => Sys2Proof.Machine.execMaskCommit n v t s
  | .audioOutputFrame n t => Sys2Proof.Machine.execAudioOutputFrame n t s
  | .portUp n phy => Sys2Proof.Machine.execPortUp n phy s
  | .portDown n phy => Sys2Proof.Machine.execPortDown n phy s
  | .ethFrameRx k => Sys2Proof.Machine.execEthFrameRx k s
  | .steadyBaseTick b => Sys2Proof.Machine.execSteadyBaseTick b s
  | .estimateMissed b => Sys2Proof.Machine.execEstimateMissed b s
  | .announceTimeout k sender => Sys2Proof.Machine.execAnnounceTimeout k sender s
  | .holdsExpiry b => Sys2Proof.Machine.execHoldsExpiry b s
  | .membershipReport n => Sys2Proof.Machine.execMembershipReport n s
  | .arpRefresh n flow => Sys2Proof.Machine.execArpRefresh n flow s
  | .mediaPacketSend f k => Sys2Proof.Machine.execMediaPacketSend f k s
  | .scte35Repeat f t => Sys2Proof.Machine.execScte35Repeat f t s
  | .dynamicFrameSend n t => Sys2Proof.Machine.execDynamicFrameSend n t s
  | .tsqPop n v => Sys2Proof.Machine.execTsqPop n v s
  | .tbLatch b v => Sys2Proof.Machine.execTbLatch b v s
  | .refActivityLoss k => Sys2Proof.Machine.execRefActivityLoss k s
  | .refGlitch k => Sys2Proof.Machine.execRefGlitch k s
  | .refPulse k t freq phase => Sys2Proof.Machine.execRefPulse k t freq phase s
  | .refWindowEnd k w => Sys2Proof.Machine.execRefWindowEnd k w s
  | .wtrExpiry k => Sys2Proof.Machine.execWtrExpiry k s
  | .dpllSwitchComplete => Sys2Proof.Machine.execDpllSwitchComplete s
  | .holdoverSecond => Sys2Proof.Machine.execHoldoverSecond s
  | .xtalspecCheck => Sys2Proof.Machine.execXtalspecCheck s
  | .phaseStep k v => Sys2Proof.Machine.execPhaseStep k v s
  | .crystalMonitorWindow edges => Sys2Proof.Machine.execCrystalMonitorWindow edges s
  | .rootPllLoss => Sys2Proof.Machine.execRootPllLoss s
  | .domainMisalign => Sys2Proof.Machine.execDomainMisalign s
  | .reelFlushDone => Sys2Proof.Machine.execReelFlushDone s
  | .clockSwitchWatchdog pt => Sys2Proof.Machine.execClockSwitchWatchdog pt s
  | .dramDynamicRequest r => Sys2Proof.Machine.execDramDynamicRequest r s
  | .mr4Poll ch v hot => Sys2Proof.Machine.execMr4Poll ch v hot s
  | .zqCalibration ch => Sys2Proof.Machine.execZqCalibration ch s
  | .dqOscillatorRead ch drift => Sys2Proof.Machine.execDqOscillatorRead ch drift s
  | .rfmIssue ch pair => Sys2Proof.Machine.execRfmIssue ch pair s
  | .snagHoldExpiry who ch bank => Sys2Proof.Machine.execSnagHoldExpiry who ch bank s
  | .scrubLine addr e => Sys2Proof.Machine.execScrubLine addr e s
  | .panicRetry k e => Sys2Proof.Machine.execPanicRetry k e s
  | .seamStart => Sys2Proof.Machine.execSeamStart s
  | .seamEnd fail => Sys2Proof.Machine.execSeamEnd fail s
  | .seamTimeout => Sys2Proof.Machine.execSeamTimeout s
  | .nandPageReadDone r => Sys2Proof.Machine.execNandPageReadDone r s
  | .nandProgramDone block part ok => Sys2Proof.Machine.execNandProgramDone block part ok s
  | .nandEraseDone block part ok => Sys2Proof.Machine.execNandEraseDone block part ok s
  | .nandBusyTimeout ch target => Sys2Proof.Machine.execNandBusyTimeout ch target s
  | .scrubPassStart => Sys2Proof.Machine.execScrubPassStart s
  | .nandScrubPage r last => Sys2Proof.Machine.execNandScrubPage r last s
  | .blockRefresh block corrected readable eraseOk => Sys2Proof.Machine.execBlockRefresh block corrected readable eraseOk s
  | .reelPageProgram => Sys2Proof.Machine.execReelPageProgram s
  | .logPageProgram => Sys2Proof.Machine.execLogPageProgram s
  | .installTokenAccrue => Sys2Proof.Machine.execInstallTokenAccrue s
  | .goldenTokenAccrue => Sys2Proof.Machine.execGoldenTokenAccrue s
  | .receiverDetect n found => Sys2Proof.Machine.execReceiverDetect n found s
  | .trainingSetRx n ts inverted call => Sys2Proof.Machine.execTrainingSetRx n ts inverted call s
  | .bringupStepTimeout g => Sys2Proof.Machine.execBringupStepTimeout g s
  | .rateLockTimeout g => Sys2Proof.Machine.execRateLockTimeout g s
  | .tapAdjustTimeout g => Sys2Proof.Machine.execTapAdjustTimeout g s
  | .exchangeRetry g => Sys2Proof.Machine.execExchangeRetry g s
  | .alignmentMarkerSend g => Sys2Proof.Machine.execAlignmentMarkerSend g s
  | .alignmentMarkerRx g skews => Sys2Proof.Machine.execAlignmentMarkerRx g skews s
  | .lossOfLock n how errors => Sys2Proof.Machine.execLossOfLock n how errors s
  | .strandFrameRx g f => Sys2Proof.Machine.execStrandFrameRx g f s
  | .strandFrameSend g f fits => Sys2Proof.Machine.execStrandFrameSend g f fits s
  | .remoteStatusSend g => Sys2Proof.Machine.execRemoteStatusSend g s
  | .electricalIdleEntry g => Sys2Proof.Machine.execElectricalIdleEntry g s
  | .electricalIdleExit g => Sys2Proof.Machine.execElectricalIdleExit g s
  | .interruptSense src fw => Sys2Proof.Machine.execInterruptSense src fw s
  | .coalesceTimeout src => Sys2Proof.Machine.execCoalesceTimeout src s
  | .stormWindow src => Sys2Proof.Machine.execStormWindow src s
  | .levelmaxExpiry src => Sys2Proof.Machine.execLevelmaxExpiry src s
  | .claim k => Sys2Proof.Machine.execClaim k s
  | .complete k v => Sys2Proof.Machine.execComplete k v s
  | .fret k fw => Sys2Proof.Machine.execFret k fw s
  | .hostack v => Sys2Proof.Machine.execHostack v s
  | .icglobalWrite v => Sys2Proof.Machine.execIcglobalWrite v s
  | .eventPinEdge n high => Sys2Proof.Machine.execEventPinEdge n high s
  | .evoutWrite k v => Sys2Proof.Machine.execEvoutWrite k v s
  | .enqueue q v => Sys2Proof.Machine.execEnqueue q v s
  | .affwaitExpiry q => Sys2Proof.Machine.execAffwaitExpiry q s
  | .take k => Sys2Proof.Machine.execTake k s
  | .done k v => Sys2Proof.Machine.execDone k v s
  | .itemOverrun k => Sys2Proof.Machine.execItemOverrun k s
  | .coreReset k => Sys2Proof.Machine.execCoreReset k s
  | .serviceWatchdog => Sys2Proof.Machine.execServiceWatchdog s
  | .fastHandlerTimeout k => Sys2Proof.Machine.execFastHandlerTimeout k s
  | .ringEnable v => Sys2Proof.Machine.execRingEnable v s
  | .sqDoorbell v => Sys2Proof.Machine.execSqDoorbell v s
  | .cqHeadWrite v => Sys2Proof.Machine.execCqHeadWrite v s
  | .mgmtDatagram d => Sys2Proof.Machine.execMgmtDatagram d s
  | .hello m => Sys2Proof.Machine.execHello m s
  | .variant m v => Sys2Proof.Machine.execVariant m v s
  | .trim m t kb => Sys2Proof.Machine.execTrim m t kb s
  | .mute m t => Sys2Proof.Machine.execMute m t s
  | .unmute m t => Sys2Proof.Machine.execUnmute m t s
  | .forcesub m t => Sys2Proof.Machine.execForcesub m t s
  | .release m t => Sys2Proof.Machine.execRelease m t s
  | .splice m x => Sys2Proof.Machine.execSplice m x s
  | .keyload m v => Sys2Proof.Machine.execKeyload m v s
  | .keyclear m slot => Sys2Proof.Machine.execKeyclear m slot s
  | .selftest m pc => Sys2Proof.Machine.execSelftest m pc s
  | .plySwitch m => Sys2Proof.Machine.execPlySwitch m s
  | .plyHold m => Sys2Proof.Machine.execPlyHold m s
  | .plyUnhold m => Sys2Proof.Machine.execPlyUnhold m s
  | .plyFence m => Sys2Proof.Machine.execPlyFence m s
  | .plyRejoin m => Sys2Proof.Machine.execPlyRejoin m s
  | .plyAlone m => Sys2Proof.Machine.execPlyAlone m s
  | .power m target => Sys2Proof.Machine.execPower m target s
  | .installBegin m golden len => Sys2Proof.Machine.execInstallBegin m golden len s
  | .installData m off bytes => Sys2Proof.Machine.execInstallData m off bytes s
  | .installCommit m v => Sys2Proof.Machine.execInstallCommit m v s
  | .installAbort m => Sys2Proof.Machine.execInstallAbort m s
  | .logread m addr first count => Sys2Proof.Machine.execLogread m addr first count s
  | .unknownCommand m => Sys2Proof.Machine.execUnknownCommand m s
  | .reelRead v => Sys2Proof.Machine.execReelRead v s
  | .reelTokenQuery v => Sys2Proof.Machine.execReelTokenQuery v s
  | .reelNandFetchDone => Sys2Proof.Machine.execReelNandFetchDone s
  | .faultCollect => Sys2Proof.Machine.execFaultCollect s
  | .faultack => Sys2Proof.Machine.execFaultack s
  | .saferel => Sys2Proof.Machine.execSaferel s
  | .firstrecClear => Sys2Proof.Machine.execFirstrecClear s
  | .selftestPatternsEnd fail => Sys2Proof.Machine.execSelftestPatternsEnd fail s
  | .overlapEnd pc => Sys2Proof.Machine.execOverlapEnd pc s
  | .proofTestVisit => Sys2Proof.Machine.execProofTestVisit s
  | .ptageMinute => Sys2Proof.Machine.execPtageMinute s
  | .keyStoreCheck bad => Sys2Proof.Machine.execKeyStoreCheck bad s
  | .nonceRead => Sys2Proof.Machine.execNonceRead s
  | .debugToken t => Sys2Proof.Machine.execDebugToken t s
  | .tokenVerdict ms => Sys2Proof.Machine.execTokenVerdict ms s
  | .lockoutExpiry => Sys2Proof.Machine.execLockoutExpiry s
  | .debugGrant => Sys2Proof.Machine.execDebugGrant s
  | .sessionExpiry => Sys2Proof.Machine.execSessionExpiry s
  | .debugRelease => Sys2Proof.Machine.execDebugRelease s
  | .provision r => Sys2Proof.Machine.execProvision r s
  | .deploy r sig => Sys2Proof.Machine.execDeploy r sig s
  | .rma r sig cust => Sys2Proof.Machine.execRma r sig cust s
  | .planeDrained p => Sys2Proof.Machine.execPlaneDrained p s
  | .debugHalt u => Sys2Proof.Machine.execDebugHalt u s
  | .debugStep u => Sys2Proof.Machine.execDebugStep u s
  | .debugResume u => Sys2Proof.Machine.execDebugResume u s
  | .debugGateOpen g => Sys2Proof.Machine.execDebugGateOpen g s
  | .debugBoot => Sys2Proof.Machine.execDebugBoot s
  | .jtagIdcode => Sys2Proof.Machine.execJtagIdcode s
  | .jtagBypass => Sys2Proof.Machine.execJtagBypass s
  | .samplePreload pins cells => Sys2Proof.Machine.execSamplePreload pins cells s
  | .extest pins cells => Sys2Proof.Machine.execExtest pins cells s
  | .clamp => Sys2Proof.Machine.execClamp s
  | .highz => Sys2Proof.Machine.execHighz s
  | .intest cells outs => Sys2Proof.Machine.execIntest cells outs s
  | .scanDump chain => Sys2Proof.Machine.execScanDump chain s
  | .memoryBistControl control result => Sys2Proof.Machine.execMemoryBistControl control result s
  | .wakePin n => Sys2Proof.Machine.execWakePin n s
  | .wakeTimer => Sys2Proof.Machine.execWakeTimer s
  | .p4OffTimeout => Sys2Proof.Machine.execP4OffTimeout s
  | .heartbeatSend => Sys2Proof.Machine.execHeartbeatSend s
  | .heartbeatRx h => Sys2Proof.Machine.execHeartbeatRx h s
  | .pathbWordSend => Sys2Proof.Machine.execPathbWordSend s
  | .pathbWordRx w badCell => Sys2Proof.Machine.execPathbWordRx w badCell s
  | .pathSilence pathB => Sys2Proof.Machine.execPathSilence pathB s
  | .leaseRenew => Sys2Proof.Machine.execLeaseRenew s
  | .leaseExpiry => Sys2Proof.Machine.execLeaseExpiry s
  | .bobbinTake => Sys2Proof.Machine.execBobbinTake s
  | .roleResolveTimeout => Sys2Proof.Machine.execRoleResolveTimeout s
  | .plyHello payload => Sys2Proof.Machine.execPlyHello payload s
  | .plyRelease rx => Sys2Proof.Machine.execPlyRelease rx s
  | .releaseAckDeadline => Sys2Proof.Machine.execReleaseAckDeadline s
  | .transferInstant p => Sys2Proof.Machine.execTransferInstant p s
  | .plyLegs rx => Sys2Proof.Machine.execPlyLegs rx s
  | .plyForward rx => Sys2Proof.Machine.execPlyForward rx s
  | .plyAgree rx => Sys2Proof.Machine.execPlyAgree rx s
  | .plyJoin rx => Sys2Proof.Machine.execPlyJoin rx s
  | .plyTakereq rx => Sys2Proof.Machine.execPlyTakereq rx s
  | .stateCopyFrame rx => Sys2Proof.Machine.execStateCopyFrame rx s
  | .stateCopyComplete p recs => Sys2Proof.Machine.execStateCopyComplete p recs s
  | .lowWordRead who addr => Sys2Proof.Machine.execLowWordRead who addr s
  | .registerAccessAbort a => Sys2Proof.Machine.execRegisterAccessAbort a s
  | .registerWrite ws => Sys2Proof.Machine.execRegisterWrite ws s
  | .ingCntclr v => Sys2Proof.Machine.execIngCntclr v s
  | .laneCntclr n v => Sys2Proof.Machine.execLaneCntclr n v s
  | .rateCntclr v => Sys2Proof.Machine.execRateCntclr v s
  | .spnCntclr v => Sys2Proof.Machine.execSpnCntclr v s
  | .decCntclr v => Sys2Proof.Machine.execDecCntclr v s
  | .audCntclr v => Sys2Proof.Machine.execAudCntclr v s
  | .netCntclrLane v => Sys2Proof.Machine.execNetCntclrLane v s
  | .netCntclrFlow v => Sys2Proof.Machine.execNetCntclrFlow v s
  | .clkCntclr v => Sys2Proof.Machine.execClkCntclr v s
  | .dramCntclr v => Sys2Proof.Machine.execDramCntclr v s
  | .nandCntclr v => Sys2Proof.Machine.execNandCntclr v s
  | .strCntclr v => Sys2Proof.Machine.execStrCntclr v s
  | .svcCntclrSource v => Sys2Proof.Machine.execSvcCntclrSource v s
  | .svcCntclrQueue v => Sys2Proof.Machine.execSvcCntclrQueue v s
  | .safCntclr v => Sys2Proof.Machine.execSafCntclr v s
  | .delayReqSend k => Sys2Proof.Machine.execDelayReqSend k s
  | .pcieLinkUp => Sys2Proof.Machine.execPcieLinkUp s
  | .eieReceived n => Sys2Proof.Machine.execEieReceived n s
  | .exitBurstReceived n => Sys2Proof.Machine.execExitBurstReceived n s
  | .supplyWarningEnd rail => Sys2Proof.Machine.execSupplyWarningEnd rail s
  | .thermalShutdownRelease sensor t => Sys2Proof.Machine.execThermalShutdownRelease sensor t s
  | .phaseStepApplied k => Sys2Proof.Machine.execPhaseStepApplied k s
  | .clockSwitchComplete pt => Sys2Proof.Machine.execClockSwitchComplete pt s
  | .transientAgeOut col => Sys2Proof.Machine.execTransientAgeOut col s

end Sys2Proof.Machine
end

