-- ==== Sys2Proof/Safety.lean ====
section
/-! DEFINITION. What counts as a sound state and a safe step, in the terms statements use. -/

namespace Sys2Proof.Machine

/-- The register table and the DRAM are in their one canonical form, so that equal devices are equal data. -/
def Chip.Canonical (c : Chip) : Prop := tabWf regReset c.regs = true ∧ Memory.wf c.dram.mem = true

/-- R201, R206: a bundle of a running kernel of engine n issues in its ENG cycle `cyc`: the chip and the engine as its operations find them,
and the bundle. -/
def Chip.Issues (c : Chip) (n cyc : Nat) (d : Chip) (e : Engine) (b : Nat) : Prop :=
  c.fetch n cyc = (d, some (e, b)) ∧ (e.run.getD {}).stop = none

/-- R201: no bundle issues on engine n in ENG cycle `cyc`; the chip as an operation named there leaves it. -/
def Chip.Idles (c : Chip) (n cyc : Nat) (d : Chip) : Prop := c.fetch n cyc = (d, none)

/-- The invariant of the machine. -/
def State.Inv (s : State) : Prop := s.chip.Canonical

end Sys2Proof.Machine

namespace Sys2Proof

/-- The commands that may store to DRAM, lose its contents or reset the device: a CVU save, a completed transfer, a completed RUN, a dynamic write, whatever may serve waiting
dynamic writes, the commands of the host and of management (which may begin a power move), and the resets and losses of supply. -/
def Instr.mayStore : Instr → Bool
  | .cvuSave _ | .deploy _ _ | .dramDynamicRequest _ | .forcesub _ _ | .installAbort _ | .installBegin _ _ _ | .installCommit _ _
  | .installData _ _ _ | .keyclear _ _ | .keyload _ _ | .logread _ _ _ _ | .mgmtDatagram _ | .moveComplete _ _ | .mute _ _
  | .planeDrained _ | .planeStart _ | .plyAlone _ | .plyFence _ | .plyForward _ | .plyHold _ | .plyRejoin _ | .plySwitch _
  | .plyUnhold _ | .power _ _ | .powerOnReset | .provision _ | .reelFlushDone | .release _ _ | .rma _ _ _ | .runComplete _ _ | .selftest _ _
  | .snagHoldExpiry _ _ _ | .splice _ _ | .stateCopyComplete _ _ | .supplyLoss | .supplyTrip _ | .thermalShutdown _ _
  | .thermalShutdownRelease _ _ | .tokenVerdict _ | .trim _ _ _ | .turnBoundary _ | .twistStart | .unknownCommand _ | .unmute _ _
  | .variant _ _ | .wakePin _ | .wakeTimer | .warmReset => true
  | _ => false

end Sys2Proof
end

