-- ==== Sys2Proof/Certificates/Slice0/Obligations.lean ====
section
/-! DEFINITION. The statements for the provers. `exec` on a command answers `.next { s with chip := … }`: the queue is as it was. -/

open Sys2Proof Sys2Proof.Machine

/-- A step runs the command at the front of the queue with the rest of the queue behind it; with nothing waiting the state stays as it
is (DESIGN CHOICE, log entry 2: the block idles). -/
def Obligations.StepRunsFront : Prop :=
  (∀ (s : State) (c : Instr) (rest : List Instr), s.pending = c :: rest → step s = exec c { s with pending := rest }) ∧
  (∀ s : State, s.pending = [] → step s = .next s)

/-- The effect of a command is on everything but the queue (the model's form of R18's requesters: commands come from outside). -/
def Obligations.ExecKeepsQueue : Prop := ∀ (i : Instr) (s t : State), exec i s = .next t → t.pending = s.pending

/-- The state after reset meets the invariant that every step keeps. -/
def Obligations.ResetMeetsInv : Prop := State.reset.Inv

/-- The invariant of the machine is kept by every command: the register table lists no register at its reset value and no register
twice, and the DRAM lists no address twice. -/
def Obligations.StepKeepsInv : Prop := ∀ s t : State, s.Inv → step s = .next t → t.Inv

/-- The secret rows are fuses: a step may blow bits of IK0 to IK2 and KWK and never clears one, whatever the command (R565, R570). -/
def Obligations.SecretFusesOnlyGrow : Prop :=
  ∀ s t : State, step s = .next t →
    (∀ (k : Fin 3) (n : Fin 256), (s.chip.sec.ik.getD k.val 0).testBit n.val = true → (t.chip.sec.ik.getD k.val 0).testBit n.val = true) ∧
    ∀ n : Fin 256, s.chip.sec.kwk.testBit n.val = true → t.chip.sec.kwk.testBit n.val = true

/-- The frame of memory: every command outside the list leaves each byte of DRAM as it was. The list holds the commands that store to
DRAM (a CVU save, a dynamic write, a slot word's transfer and whatever may serve waiting requests), those of the host that may begin a power move, and those that
reset the device or take its power. -/
def Obligations.NonStoringKeepsDram : Prop :=
  ∀ (i : Instr) (s t : State), i.mayStore = false → exec i s = .next t → ∀ a : Nat, t.chip.dramByte a = s.chip.dramByte a

/-- Bytes written to DRAM read back at their addresses, and no other byte changes (R398). -/
def Obligations.DramWriteReadsBack : Prop :=
  ∀ (c : Chip) (a : Nat) (l : List Byte),
    (c.dramWrite a l).dramRead a l.length = l ∧
    ∀ b : Nat, b < a ∨ a + l.length ≤ b → (c.dramWrite a l).dramByte b = c.dramByte b

/-- The DRAM space of R398 ends at 16 channels' bytes: beyond it there is nothing to access. The stop is the model's own name for an
address that does not exist; within the space the first two commands complete as said here, and MOVE as TransfersAndCheckValues says. -/
def Obligations.OutsideDramFaults : Prop :=
  (∀ (s : State) (r : DynReq), exec (.dramDynamicRequest r) s = .fault .noSuchDramAddress ↔ s.chip.dramBytes < r.addr + dynSize r) ∧
  (∀ (s : State) (a : Nat) (e : LineErr), exec (.scrubLine a e) s = .fault .noSuchDramAddress ↔ s.chip.dramBytes < a + 64) ∧
  (∀ (s : State) (st : Fin 64) (b : Bool) (e : List LineErr),
    exec (.move st b e) s = .fault .noSuchDramAddress ↔ s.chip.moveLeaves st.val = true) ∧
  (∀ (s : State) (r : DynReq), r.addr + dynSize r ≤ s.chip.dramBytes → s.chip.on R.DRAM_MAPCFG_EN = true →
    exec (.dramDynamicRequest r) s =
      .next { s with chip := ({ s.chip with dram := { s.chip.dram with queue := s.chip.dram.queue ++ [r] } }).serveDram }) ∧
  (∀ (s : State) (a : Nat) (e : LineErr), a + 64 ≤ s.chip.dramBytes → s.chip.on R.DRAM_MAPCFG_EN = true → s.chip.dramOpen = true →
    s.chip.eccRegion a = true → s.chip.bankFree (s.chip.dramLoc a).bank = true →
    exec (.scrubLine a e) s = .next { s with chip := ((s.chip.activations a 64 (some 1024)).lineError a e).1 }) ∧
  (∀ (s : State) (r : DynReq), r.addr + dynSize r ≤ s.chip.dramBytes → s.chip.on R.DRAM_MAPCFG_EN = false →
    exec (.dramDynamicRequest r) s = .next s) ∧
  (∀ (s : State) (a : Nat) (e : LineErr), a + 64 ≤ s.chip.dramBytes → (s.chip.on R.DRAM_MAPCFG_EN = false ∨ s.chip.dramOpen = false ∨
    s.chip.eccRegion a = false ∨ s.chip.bankFree (s.chip.dramLoc a).bank = false) → exec (.scrubLine a e) s = .next s)

/-- R18: the low word latches the high word; the high word's read returns the shadow, not the register, until the low word is read
again. The reads of a requester other than the debug port are said here, since the debug port reads only its windows at D0. -/
def Obligations.LowWordLatchesHigh : Prop :=
  ∀ (s : State) (who : Requester) (a : Nat), isPairLow a = true → s.chip.abortCause { who := who, addr := a } = none →
    tabWf (fun _ => 0) s.chip.shadows = true →
    exec (.lowWordRead who a) s =
      .next { s with chip := { s.chip with shadows := tset 0 s.chip.shadows (shadowKey who a) ((s.chip.shown (a + 4)).toNat + 1) } } ∧
    (who ≠ .debug → ∀ c : Chip,
      c.shadows = tset 0 s.chip.shadows (shadowKey who a) ((s.chip.shown (a + 4)).toNat + 1) → c.readWord who (a + 4) = s.chip.shown (a + 4))

/-- The reset values that the manual states for the registers that identify the device and its interfaces; the stepping is A0 (DESIGN
CHOICE, log entry 4). -/
def Obligations.IdentityRegisters : Prop :=
  State.reset.chip.get R.GLB_IDCODE_PART = 0x2192 ∧ State.reset.chip.get R.GLB_IDCODE_FAMILY = 2 ∧
  State.reset.chip.get R.GLB_IDCODE_STEP = 0 ∧ State.reset.chip.get R.GLB_FEATURES = 0xFFFF ∧
  State.reset.chip.get R.GLB_IFVER = 0x41312111 ∧ State.reset.chip.get R.GLB_IFMIN = 0x40201010 ∧
  State.reset.chip.rd 0x14 = 0x0B2C0100 ∧ State.reset.chip.rd 0x1100100 = 0x2110F01F

/-- R659, R660: the log is all that an aborted access changes, and what it then holds. -/
def Obligations.AbortOnlyLogs : Prop :=
  ∀ (s : State) (x : Access) (k : Nat), s.Inv → k < 4 → x.addr < 2 ^ 26 → s.chip.abortCause x = some k →
    exec (.registerAccessAbort x) s = .next { s with chip := s.chip.logAbort x k } ∧
    (x.value.isSome = true → exec (.registerWrite [x]) s = .next { s with chip := s.chip.logAbort x k }) ∧
    s.chip.logAbort x k = { s.chip with regs := (s.chip.logAbort x k).regs } ∧
    (∀ a : Nat, a ≠ 0x300 → a ≠ 0x304 → (s.chip.logAbort x k).rd a = s.chip.rd a) ∧
    (s.chip.logAbort x k).on R.GLB_ABORTINFO_VALID = true ∧
    (s.chip.logAbort x k).get R.GLB_ABORTINFO_COUNT = min 0xFFFF (s.chip.get R.GLB_ABORTINFO_COUNT + 1) ∧
    (s.chip.on R.GLB_ABORTINFO_VALID = false →
      (s.chip.logAbort x k).get R.GLB_ABORTADDR_ADDR = x.addr ∧
      (s.chip.logAbort x k).get R.GLB_ABORTINFO_CAUSE = k ∧
      (s.chip.logAbort x k).on R.GLB_ABORTINFO_WRITE = x.value.isSome ∧
      (s.chip.logAbort x k).get R.GLB_ABORTINFO_REQ = reqCode x.who ∧
      (s.chip.logAbort x k).get R.GLB_ABORTINFO_CORE = reqCore x.who) ∧
    (s.chip.on R.GLB_ABORTINFO_VALID = true →
      (s.chip.logAbort x k).rd 0x300 = s.chip.rd 0x300 ∧ (s.chip.logAbort x k).on R.GLB_ABORTINFO_MORE = true ∧
      (s.chip.logAbort x k).get R.GLB_ABORTINFO_CAUSE = s.chip.get R.GLB_ABORTINFO_CAUSE)

/-- R659: the order of the causes. -/
def Obligations.AbortCauseOrder : Prop :=
  ∀ (c : Chip) (x : Access), x.who ≠ .ply →
    (c.on R.CLK_ROOTSTAT_PLLLOCK = false → earlyWindow x.addr = false → c.abortCause x = some 3) ∧
    ((c.on R.CLK_ROOTSTAT_PLLLOCK = true ∨ earlyWindow x.addr = true) →
      ((x.size ≠ 4 ∨ x.addr % 4 ≠ 0) → c.abortCause x = some 2) ∧
      (x.size = 4 → x.addr % 4 = 0 →
        (c.implemented x.addr = false → c.abortCause x = some 0) ∧
        (c.implemented x.addr = true → c.gated x.addr = true → c.abortCause x = some 1) ∧
        (c.implemented x.addr = true → c.gated x.addr = false → c.abortCause x = none)))

/-- R14, R17, R658: what a plain register write does, below debug level D2, outside the service complex (whose writes may deliver
interrupts) and outside the records whose VALID clears more. -/
def Obligations.RegisterWriteByType : Prop :=
  ∀ (s : State) (x : Access) (v : Word) (r : RegRow), s.Inv → x.value = some v → x.who ≠ .debug → x.who ≠ .ply →
    s.chip.dbgLevel < 2 → s.chip.abortCause x = none → debugOnly x.addr = false → s.chip.actionA x.addr v = none →
    s.chip.actionB x.addr v = none → regRowAt x.addr = some r → (x.addr < 0x1200000 ∨ 0x1300000 ≤ x.addr) →
    x.addr ≠ R.SEQ_SFSTAT_VALID.addr → x.addr ≠ R.DRAM_FAULTREC_VALID.addr → x.addr ≠ R.NAND_FAULTREC_VALID.addr →
    x.addr ≠ R.GLB_ABORTINFO_VALID.addr → gateRange x.addr 0x400000 0x100000 = false → gateRange x.addr 0x800000 0xC0000 = false →
    ∃ w : Word, exec (.registerWrite [x]) s = .next { s with chip := s.chip.wr x.addr w } ∧
      (s.chip.wr x.addr w).rd x.addr = w ∧ (∀ a : Nat, a ≠ x.addr → (s.chip.wr x.addr w).rd a = s.chip.rd a) ∧
      ∀ n : Nat, n < 32 → w.getLsbD n =
        if r.w1c.testBit n then
          (if (r.rw ||| r.rws).testBit n then v.getLsbD n else (s.chip.rd x.addr).getLsbD n) && !v.getLsbD n
        else if (r.rw ||| r.rws).testBit n then v.getLsbD n
        else (s.chip.rd x.addr).getLsbD n

/-- The counter clears of ING, LANE, RATE, SPN, DEC and AUD: exactly the named counters become 0; without GO the write is ignored. -/
def Obligations.MediaCounterClears : Prop :=
  ∀ (s : State) (v : Word),
    (bit v.toNat 31 = true → s.chip.legA (bits v.toNat 9 0) = bits v.toNat 9 0 →
      exec (.ingCntclr v) s = .next { s with chip := (
        let f := bits v.toNat 9 0
        let c := ((s.chip.set R.ING_SUBLINES f 0).set R.ING_SUBPICS_PICS f 0).set R.ING_SUBPICS_MISM f 0
        let c := ((c.set R.ING_MERGECNT_BOTHLOST f 0).set R.ING_MERGECNT_WINLATE f 0).set R.ING_MERGECNT_DUPS f 0
        c.setFlow f { c.flow f with dups := 0 }) }) ∧
    (∀ n : Fin 16, bit v.toNat 31 = true → exec (.laneCntclr n v) s = .next { s with chip := (
        let i := slotIx n.val (bits v.toNat 3 0)
        let c := (s.chip.set R.LANE_GUARDCTU i 0).set R.LANE_GUARDROWS i 0
        (c.set R.LANE_FAULTCNT_DIV i 0).set R.LANE_FAULTCNT_REFR i 0) }) ∧
    (bit v.toNat 31 = true → bits v.toNat 6 0 < 96 → exec (.rateCntclr v) s = .next { s with chip := (
        let ch := bits v.toNat 6 0
        let c := (s.chip.set R.RATE_OCCPEAK ch 0).set R.RATE_FLOORCNT_PICS ch 0
        (c.set R.RATE_FLOORCNT_ROWS ch 0).set R.RATE_CAPCTU ch 0) }) ∧
    (bit v.toNat 31 = true → bit v.toNat 30 = false → bits v.toNat 7 0 < 192 →
      exec (.spnCntclr v) s = .next { s with chip := s.chip.spnClear (bits v.toNat 7 0) }) ∧
    (bit v.toNat 31 = true → exec (.decCntclr v) s = .next { s with chip := (
        let k := bits v.toNat 3 0
        let c := (s.chip.set R.DEC_CONCPICS_PICS k 0).set R.DEC_CONCPICS_SUBST k 0
        ((c.set R.DEC_CONCCTU k 0).set R.DEC_ERRCASE_CODE k 0).set R.DEC_ERRCASE_COUNT k 0) }) ∧
    (bit v.toNat 31 = true → bit v.toNat 30 = false → bits v.toNat 5 0 < 48 → s.Inv →
      ∃ c : Chip, exec (.audCntclr v) s = .next { s with chip := c } ∧
        c.get R.AUD_SUBBLKS_SUBST (bits v.toNat 5 0) = 0 ∧ c.get R.AUD_SUBBLKS_NOMATCH (bits v.toNat 5 0) = 0 ∧
        c.get R.AUD_FRAMECNT_DROPPED (bits v.toNat 5 0) = 0 ∧ c.get R.AUD_FRAMECNT_REPEATED (bits v.toNat 5 0) = 0 ∧
        c.get R.AUD_ERRCNT_FRAMING (bits v.toNat 5 0) = 0 ∧ c.get R.AUD_ERRCNT_CLKLOSS (bits v.toNat 5 0) = 0) ∧
    (bit v.toNat 31 = false → ∀ i ∈ [Instr.ingCntclr v, .rateCntclr v, .spnCntclr v, .decCntclr v, .audCntclr v],
      exec i s = .next s) ∧
    (∀ n : Fin 16, bit v.toNat 31 = false → exec (.laneCntclr n v) s = .next s)

/-- The counter clears of NET (by port and by flow), CLK, DRAM, NAND and STR: every counter named reads 0 afterwards. -/
def Obligations.LinkCounterClears : Prop :=
  ∀ (s : State) (v : Word), s.Inv →
    (bit v.toNat 31 = true → bit v.toNat 30 = false → bits v.toNat 9 0 < 16 →
      ∃ c : Chip, exec (.netCntclrLane v) s = .next { s with chip := c } ∧
        ∀ f ∈ [R.NET_TSQSTAT_OVFCNT, R.NET_RXDROP, R.NET_FCSERR, R.NET_FECCNT_UNC, R.NET_FECCNT_COR, R.NET_TCFWD_DISC, R.NET_TCFWD_FWD],
          c.get f (bits v.toNat 9 0) = 0) ∧
    (bit v.toNat 31 = true → bit v.toNat 30 = true →
      ∃ c : Chip, exec (.netCntclrFlow v) s = .next { s with chip := c } ∧
        ∀ f ∈ [R.NET_EGPKTLO, R.NET_EGPKTHI, R.NET_EGLATE, R.NET_EGDROP_DISC, R.NET_EGDROP_MARKF], c.get f (bits v.toNat 9 0) = 0) ∧
    (bit v.toNat 31 = true →
      ∃ c : Chip, exec (.clkCntclr v) s = .next { s with chip := c } ∧
        ∀ k : Nat, k < 28 → (bit v.toNat 30 = true ∨ k = bits v.toNat 4 0) →
          c.get R.CLK_REFCNT_DISQ k = 0 ∧ c.get R.CLK_REFCNT_GLITCH k = 0) ∧
    (bit v.toNat 31 = true →
      ∃ c : Chip, exec (.dramCntclr v) s = .next { s with chip := c } ∧
        ∀ k : Nat, k < 16 → (bit v.toNat 30 = true ∨ k = bits v.toNat 3 0) →
          ∀ f ∈ [R.DRAM_LINKCNT_UNC, R.DRAM_LINKCNT_COR, R.DRAM_ECCCNT_UNC, R.DRAM_ECCCNT_COR, R.DRAM_SNAGCNT], c.get f k = 0) ∧
    (bit v.toNat 31 = true →
      ∃ c : Chip, exec (.nandCntclr v) s = .next { s with chip := c } ∧
        (∀ n : Nat, n < 2 → ∀ f ∈ [R.NAND_CORRCNT, R.NAND_RETRYCNT, R.NAND_UNCCNT], c.get f n = 0) ∧
        ∀ i : Nat, i < 10 → c.get R.NAND_REFRESHCNT i = 0 ∧ c.get R.NAND_LOGLOST i = 0) ∧
    (bit v.toNat 31 = true →
      ∃ c : Chip, exec (.strCntclr v) s = .next { s with chip := c } ∧
        ∀ g : Nat, g < 64 → (bit v.toNat 30 = true ∨ g = bits v.toNat 5 0) →
          ∀ f ∈ [R.STR_CRCERR, R.STR_SEQGAP, R.STR_DROPFRM, R.STR_ABORTFRM_RX, R.STR_ABORTFRM_TX, R.STR_FRMRXLO, R.STR_FRMRXHI,
            R.STR_RETRAINS_FULL, R.STR_RETRAINS_RETR], c.get f g = 0) ∧
    (bit v.toNat 31 = false → ∀ i ∈ [Instr.netCntclrLane v, .netCntclrFlow v, .clkCntclr v, .dramCntclr v, .nandCntclr v, .strCntclr v],
      exec i s = .next s)

/-- R519: SVC.CNTCLR; R558: SAF.CNTCLR. -/
def Obligations.ServiceCounterClears : Prop :=
  ∀ (s : State) (v : Word), s.Inv →
    (bit v.toNat 31 = true → bit v.toNat 29 = false →
      ∃ c : Chip, exec (.svcCntclrSource v) s = .next { s with chip := c } ∧ c = { s.chip with regs := c.regs } ∧
        (∀ n : Nat, n < 1024 → c.get R.SVC_SRCSTAT_EDGECNT n =
          if bit v.toNat 30 = true ∨ n = bits v.toNat 9 0 then 0 else s.chip.get R.SVC_SRCSTAT_EDGECNT n) ∧
        ∀ a : Nat, (∀ n : Nat, n < 1024 → a ≠ R.SVC_SRCSTAT_EDGECNT.at n) → c.rd a = s.chip.rd a) ∧
    (bit v.toNat 31 = true → bit v.toNat 29 = true →
      ∃ c : Chip, exec (.svcCntclrQueue v) s = .next { s with chip := c } ∧ c = { s.chip with regs := c.regs } ∧
        (∀ n : Nat, n < 256 → c.get R.SVC_WQSTAT_DISCARD n =
          if bit v.toNat 30 = true ∨ n = bits v.toNat 9 0 then 0 else s.chip.get R.SVC_WQSTAT_DISCARD n) ∧
        ∀ a : Nat, (∀ n : Nat, n < 256 → a ≠ R.SVC_WQSTAT_DISCARD.at n) → c.rd a = s.chip.rd a) ∧
    ((bit v.toNat 31 = false ∨ bit v.toNat 29 = true) → exec (.svcCntclrSource v) s = .next s) ∧
    ((bit v.toNat 31 = false ∨ bit v.toNat 29 = false) → exec (.svcCntclrQueue v) s = .next s) ∧
    (bit v.toNat 31 = true → exec (.safCntclr v) s = .next { s with chip := (s.chip.set R.SAF_FURTHER 0 0).set R.SAF_L0CNT 0 0 }) ∧
    (bit v.toNat 31 = false → exec (.safCntclr v) s = .next s)

/-- The registers after a reset (R14's last column), in every state; and the commands POWER_ON_RESET and WARM_RESET, in every state. -/
def Obligations.ResetByAccessType : Prop :=
  (∀ (c : Chip) (warm : Bool) (a : Nat), c.Canonical → (c.fresh warm).rd a = resetWord warm a (c.rd a)) ∧
  (∀ (a : Nat) (w : Word) (n : Nat), n < 32 →
    (resetWord false a w).getLsbD n = (if (keptBits false a).testBit n then w.getLsbD n else (regReset a).getLsbD n) ∧
    (resetWord true a w).getLsbD n = (if (keptBits true a).testBit n then w.getLsbD n else (regReset a).getLsbD n)) ∧
  (∀ (c : Chip) (a : Nat), (c.fresh true).dramByte a = c.dramByte a) ∧
  ∀ s : State,
    (s.chip.pwr.hot = false → s.chip.pwr.tripped = [] → exec .powerOnReset s = .next { s with chip := s.chip.restart false 0 }) ∧
    ((s.chip.pwr.hot = true ∨ s.chip.pwr.tripped ≠ []) → exec .powerOnReset s = .next s) ∧
    (s.chip.boot.held = true → exec .warmReset s = .next s) ∧
    (s.chip.boot.held = false →
      (∀ k : Nat, s.chip.boot.warmAfterFlush = some k →
        exec .warmReset s = .next { s with chip := (s.chip.flushReel 9).restart true k }) ∧
      (s.chip.boot.warmAfterFlush = none → s.chip.dbgLevel < 2 →
        exec .warmReset s = .next { s with chip := (s.chip.flushReel 9).restart true 1 }) ∧
      (s.chip.boot.warmAfterFlush = none → 2 ≤ s.chip.dbgLevel →
        exec .warmReset s = .next { s with chip := (s.chip.flushReel 9).restart true 4 }))

/-- R95: RESETCTL, and REEL_FLUSH_DONE, after which the warm reset follows. -/
def Obligations.ResetControl : Prop :=
  ∀ (s : State) (v : Word),
    ((bits v.toNat 31 16 ≠ 0xA5C3 ∨ bit v.toNat 0 = false) → exec (.resetctlWarm v) s = .next s) ∧
    (bits v.toNat 31 16 = 0xA5C3 → bit v.toNat 0 = true →
      exec (.resetctlWarm v) s =
        .next { s with chip := { s.chip.flushReel 9 with boot := { s.chip.boot with warmAfterFlush := some 1 } } }) ∧
    (∀ k : Nat, s.chip.boot.warmAfterFlush = some k →
      exec .reelFlushDone s = .next { s with chip := (s.chip.flushReel 9).restart true k }) ∧
    (s.chip.boot.warmAfterFlush = none → exec .reelFlushDone s = .next s)

/-- R78, R502: a PCIe hot reset resets only the endpoint: the whole next state; and PCIE_LINK_UP. -/
def Obligations.HotResetOnlyEndpoint : Prop :=
  ∀ s : State,
    let ring := [R.SVC_RINGCFG_EN, R.SVC_RINGCFG_LOG2, R.SVC_SQHEAD, R.SVC_SQBASELO, R.SVC_SQBASEHI, R.SVC_CQBASELO, R.SVC_CQBASEHI,
      R.SVC_HOSTVER_MAJOR, R.SVC_HOSTVER_MINOR, R.SVC_HOSTVER_CAPS]
    (∃ c : Chip, exec .pcieHotReset s = .next { s with chip := c } ∧
      c = { s.chip with
        regs := c.regs
        svc := { s.chip.svc with
          linkUp := false, sqTail := 0, cqHead := 0, cqNext := 0, cqPhase := true, ring := [], posts := [], hello := false } } ∧
      (∀ a : Nat, (∀ f ∈ ring, f.at 0 ≠ a) → c.rd a = s.chip.rd a) ∧
      (s.Inv → ∀ f ∈ ring, c.get f 0 = 0)) ∧
    (s.chip.get R.PWR_PWRSTAT_STATE < 3 →
      exec .pcieLinkUp s = .next { s with chip := { s.chip with svc := { s.chip.svc with linkUp := true } } }) ∧
    (3 ≤ s.chip.get R.PWR_PWRSTAT_STATE → exec .pcieLinkUp s = .next s)

/-- R645, R651, R652: SUPPLY_WARNING, SUPPLY_WARNING_END, SUPPLY_TRIP and SUPPLY_LOSS, in every state; and what the held reset is. -/
def Obligations.SupplyMonitors : Prop :=
  (∀ (s : State) (rail : Fin 8),
    (s.chip.railWatched rail.val = false → exec (.supplyWarning rail) s = .next s ∧ exec (.supplyTrip rail) s = .next s) ∧
    (s.chip.railWatched rail.val = true →
      (s.chip.boot.held = false → exec (.supplyWarning rail) s = .next { s with chip := (
        (((s.chip.set (warnBit rail.val) 0 1).set (warnEvBit rail.val) 0 1).pulse 508).fault 3 3 25 blkClk 0x07 rail.val none) }) ∧
      (s.chip.boot.held = true → s.chip.pwr.tripped = [] → exec (.supplyWarning rail) s = .next s) ∧
      (s.chip.boot.held = true → s.chip.pwr.tripped ≠ [] → exec (.supplyWarning rail) s = .next { s with chip := (
        { s.chip with pwr := { s.chip.pwr with tripped := insertRail rail.val s.chip.pwr.tripped } }) }) ∧
      exec (.supplyTrip rail) s = .next { s with chip := (
        (s.chip.heldReset (insertRail rail.val s.chip.pwr.tripped) s.chip.pwr.hot).set R.CLK_SUPSTAT_SUPRST 0 1) }) ∧
    exec (.supplyWarningEnd rail) s = .next { s with chip := (
      { s.chip.set (warnBit rail.val) 0 0 with
        pwr := { s.chip.pwr with tripped := s.chip.pwr.tripped.filter (· != rail.val) } }) } ∧
    exec .supplyLoss s = .next { s with chip := (
      (((s.chip.heldReset [] false).set R.CLK_SUPSTAT_THERMRST 0 0).set R.CLK_SUPSTAT_SUPRST 0 0).set R.PWR_PWRSTAT_STATE 0 4) }) ∧
  (∀ (c : Chip) (l : List Nat) (hot : Bool),
    (c.heldReset l hot).boot.held = true ∧ (c.heldReset l hot).pwr.tripped = l ∧ (c.heldReset l hot).pwr.hot = hot ∧
    (c.heldReset l hot).dram.mem = [] ∧ (c.heldReset l hot).nand.reel = c.nand.reel ∧ (c.heldReset l hot).regs = (c.fresh false).regs) ∧
  ∀ (n : Nat) (l : List Nat) (k : Nat), k ∈ insertRail n l ↔ k = n ∨ k ∈ l

/-- R650, R651: THERMAL_WARNING, THERMAL_SHUTDOWN and THERMAL_SHUTDOWN_RELEASE, in every state and for every ordering code. -/
def Obligations.TemperatureMonitors : Prop :=
  ∀ (s : State) (n : Fin 8) (t : BitVec 12),
    (s.chip.boot.held = true → exec (.thermalWarning n t) s = .next s) ∧
    (s.chip.boot.held = false → tjMax < t.toInt → exec (.thermalWarning n t) s = .next { s with chip := (
      (((s.chip.reading n.val t.toInt).set R.CLK_SUPSTAT_TEMPWARN 0 1).pulse 509).fault 3 3 25 blkClk 0x08 n.val none) }) ∧
    (s.chip.boot.held = false → t.toInt ≤ tjMax →
      exec (.thermalWarning n t) s = .next { s with chip := s.chip.reading n.val t.toInt }) ∧
    (480 ≤ t.toInt → s.chip.pwr.hot = false → s.chip.pwrState < 4 →
      exec (.thermalShutdown n t) s = .next { s with chip := (
        (((s.chip.reading n.val t.toInt).rootPins.flushReel 9).heldReset
          ((s.chip.reading n.val t.toInt).rootPins.flushReel 9).pwr.tripped true).set R.CLK_SUPSTAT_THERMRST 0 1) }) ∧
    ((t.toInt < 480 ∨ s.chip.pwr.hot = true ∨ 4 ≤ s.chip.pwrState) → exec (.thermalShutdown n t) s = .next s) ∧
    (s.chip.pwr.hot = true → t.toInt ≤ tjMax - 40 → s.chip.pwr.tripped = [] →
      exec (.thermalShutdownRelease n t) s = .next { s with chip := (
        (({ s.chip with pwr := { s.chip.pwr with hot := false } }).restart false 0).reading n.val t.toInt) }) ∧
    (s.chip.pwr.hot = true → t.toInt ≤ tjMax - 40 → s.chip.pwr.tripped ≠ [] →
      exec (.thermalShutdownRelease n t) s = .next { s with chip := { s.chip with pwr := { s.chip.pwr with hot := false } } }) ∧
    ((s.chip.pwr.hot = false ∨ tjMax - 40 < t.toInt) → exec (.thermalShutdownRelease n t) s = .next s)

/-- R79 steps 3 to 5, R80: CRYSTAL_WINDOW, CRYSTAL_QUAL_TIMEOUT and ROOT_PLL_LOCK, in every state. -/
def Obligations.CrystalQualification : Prop :=
  ∀ s : State,
    let c := s.chip
    (c.boot.held = false → c.on R.CLK_ROOTSTAT_XTALOK = false →
      (∀ edges : Nat,
        let n := if 4850 ≤ edges ∧ edges ≤ 5150 then c.boot.xtalRun + 1 else 0
        let d : Chip := { c with boot := { c.boot with us := c.boot.us + 100, xtalRun := n } }
        (n < 1024 → exec (.crystalWindow edges) s = .next { s with chip := d.set R.GLB_BOOTSTAT_STAGE 0 3 }) ∧
        (1024 ≤ n → exec (.crystalWindow edges) s =
          .next { s with chip := (d.set R.CLK_ROOTSTAT_XTALOK 0 1).set R.GLB_BOOTSTAT_STAGE 0 4 })) ∧
      exec .crystalQualTimeout s = .next { s with chip := (
        (({ c with boot := { c.boot with us := max c.boot.us 500000, held := true } }).set R.SAF_PINSTAT_FAULT_N 0 0).set
          R.GLB_BOOTSTAT_STAGE 0 3) }) ∧
    ((c.boot.held = true ∨ c.on R.CLK_ROOTSTAT_XTALOK = true) →
      (∀ edges : Nat, exec (.crystalWindow edges) s = .next s) ∧ exec .crystalQualTimeout s = .next s) ∧
    (c.boot.held = false → c.on R.CLK_ROOTSTAT_XTALOK = true → c.on R.CLK_ROOTSTAT_PLLLOCK = false → c.clk.dead = false →
      exec .rootPllLock s = .next { s with chip := c.rootReady }) ∧
    ((c.boot.held = true ∨ c.on R.CLK_ROOTSTAT_XTALOK = false ∨ c.on R.CLK_ROOTSTAT_PLLLOCK = true ∨ c.clk.dead = true) →
      exec .rootPllLock s = .next s)

/-- R69 to R71, R582: IMAGE_HEADER_READ, SECTION_STREAMED and DEBUG_BOOT, in every state. -/
def Obligations.ImageChecks : Prop :=
  ∀ s : State,
    let c := s.chip
    let open_ := c.boot.hdrOk = false ∧ c.boot.complete = false ∧ (c.boot.slot ≠ none ∨ c.boot.debugBoot = true)
    (∀ b : List Byte, open_ →
      let golden := match c.boot.slot with
        | some k => decide (3 ≤ k)
        | none => headGolden b
      let code := c.headCheck c.boot.debugBoot b golden
      (code = 0 → exec (.imageHeaderRead b) s = .next { s with chip := (
        { c with boot := { c.boot with hdrOk := true, header := imageHeader b, table := imageTable b, passed := [] } }) }) ∧
      (code ≠ 0 → exec (.imageHeaderRead b) s = .next { s with chip := c.imageReject code })) ∧
    (∀ b : List Byte, ¬ open_ → exec (.imageHeaderRead b) s = .next s) ∧
    (∀ x : SectionIn,
      let e := c.boot.table.getD x.pos []
      let early := sectionEarly.contains (entryType e)
      let due := c.boot.hdrOk = true ∧ c.boot.complete = false ∧ x.pos = c.boot.passed.length ∧ (early = true ∨ c.boot.dramOk = true)
      let code := c.sectionCheck c.boot.header e x.stored x.parses
      let d :=
        if sectionKnown (entryType e) = false then c
        else if early then c.earlyPassed (entryType e) (entryDigest e) x.tables
        else c.latePassed e x
      let d : Chip := { d with boot := { d.boot with passed := d.boot.passed ++ [x.pos] } }
      (¬ due → exec (.sectionStreamed x) s = .next s) ∧
      (due → code ≠ 0 → exec (.sectionStreamed x) s = .next { s with chip := c.imageReject code }) ∧
      (due → code = 0 → d.boot.passed.length < d.boot.table.length → exec (.sectionStreamed x) s = .next { s with chip := d }) ∧
      (due → code = 0 → d.boot.table.length ≤ d.boot.passed.length → typesOk d.boot.table = true →
        exec (.sectionStreamed x) s = .next { s with chip := d.imageComplete }) ∧
      (due → code = 0 → d.boot.table.length ≤ d.boot.passed.length → typesOk d.boot.table = false →
        exec (.sectionStreamed x) s = .next { s with chip := d.imageReject 0x0B })) ∧
    (c.dbgLevel = 3 → exec .debugBoot s = .next { s with chip := (
      ({ c with boot := { c.boot with
          slot := none, hdrOk := false, header := [], table := [], passed := [], sheet := [], early := [], complete := false,
          roleOk := false, started := [], debugBoot := true } }).unload) }) ∧
    (c.dbgLevel ≠ 3 → exec .debugBoot s = .next s)

/-- R79 steps 7, 8 and 14, R74, R91, R601: DRAM_TRAINING_DONE, POST_DONE, PLANE_START, BOOT_LATE_TIMER, SLOT_PROVEN, WAKE_PIN and
WAKE_TIMER, in every state. -/
def Obligations.BootCompletes : Prop :=
  ∀ s : State,
    (∀ ok : Bool, s.chip.boot.dramBegun = true → s.chip.boot.dramOk = false →
      let full : Bool := !(ok && s.chip.boot.warm && s.chip.nand.cal)
      let n := if full = true ∧ s.chip.nand.calDue ≤ s.chip.sched.cyc then
          { s.chip.nand with cal := !s.chip.nand.calWorn, calDue := s.chip.sched.cyc + 2880000000000 }
        else s.chip.nand
      let c : Chip := { s.chip with boot := { s.chip.boot with dramOk := true }, nand := n }
      let c := c.each ((List.range 16).filter (fun k => s.chip.on R.DRAM_CHCFG_EN k)) (fun c k => c.set R.DRAM_CHSTAT_TRAINED k 1)
      exec (.dramTrainingDone ok) s = .next { s with chip := (
        (c.set R.DRAM_FREQSTAT_DIV6 0 0).when full (·.bump R.DRAM_FREQSTAT_SEAMS 0)) }) ∧
    (∀ ok : Bool, (s.chip.boot.dramBegun = false ∨ s.chip.boot.dramOk = true) → exec (.dramTrainingDone ok) s = .next s) ∧
    (∀ pass : BitVec 16, s.chip.boot.postDone = false → s.chip.on R.CLK_ROOTSTAT_PLLLOCK = true →
      exec (.postDone pass) s = .next { s with chip := (
        ((({ s.chip with boot := { s.chip.boot with postDone := true, postPass := pass.toNat } }).each (List.range 16) (fun c x =>
          if bit pass.toNat x then c.set R.SAF_COLSTAT_PTAGE x 0 else if c.colRetired x then c else c.retire x)).colsShown)) }) ∧
    (∀ pass : BitVec 16, (s.chip.boot.postDone = true ∨ s.chip.on R.CLK_ROOTSTAT_PLLLOCK = false) →
      exec (.postDone pass) s = .next s) ∧
    (∀ p : Fin 4, s.chip.planeReady p.val = true → s.chip.pwr.toP2 = false → exec (.planeStart p) s = .next { s with chip := (
        let c := if s.chip.boot.started.contains p.val then s.chip.restartBase p.val else s.chip.startColumns p.val
        let c := c.beginPlane p.val (c.startPulse p.val)
        (c.startUnits p.val).planeStarted p.val) }) ∧
    (∀ p : Fin 4, s.chip.planeReady p.val = true → s.chip.pwr.toP2 = true → exec (.planeStart p) s = .next { s with chip := (
        let c := { s.chip with pwr := { s.chip.pwr with toP2 := false } }
        ((c.set R.PWR_PWRSTAT_STATE 0 2).set R.PWR_PWRSTAT_TARGET 0 2).gatesShown) }) ∧
    (∀ p : Fin 4, s.chip.planeReady p.val = false → exec (.planeStart p) s = .next s) ∧
    (let late := s.chip.boot.complete = false ∨ ∃ p : Nat, p < 4 ∧ s.chip.planeEnabled p = true ∧ s.chip.boot.started.contains p = false
     (late → exec .bootLateTimer s = .next { s with chip := s.chip.set R.GLB_BOOTSTAT_LATE 0 1 }) ∧
     (¬ late → exec .bootLateTimer s = .next s)) ∧
    (∀ golden : List (List Byte),
      let due := s.chip.boot.proving = true ∧ s.chip.on R.GLB_BOOTSTAT_INAIR = true ∧
        s.chip.get R.GLB_BOOTTIME + 60000000 ≤ s.chip.sinceReset
      (due → exec (.slotProven golden) s = .next { s with chip := (
        ({ s.chip.slotValid with boot := { s.chip.slotValid.boot with proving := false } }).secRoll golden) }) ∧
      (¬ due → exec (.slotProven golden) s = .next s)) ∧
    (∀ n : Fin 8, bit (s.chip.get R.PWR_WAKECFG_EVS) n.val = true → exec (.wakePin n) s = .next { s with chip := s.chip.wake }) ∧
    (∀ n : Fin 8, bit (s.chip.get R.PWR_WAKECFG_EVS) n.val = false → exec (.wakePin n) s = .next s) ∧
    (s.chip.on R.PWR_WAKECFG_TIMEREN = true → exec .wakeTimer s = .next { s with chip := s.chip.wake }) ∧
    (s.chip.on R.PWR_WAKECFG_TIMEREN = false → exec .wakeTimer s = .next s)

/-- R30, R32, R45, R46: the words NOP, RUN, AWAIT, MARK, TEST and TURN, for every stream and every word that the stream issues next. -/
def Obligations.SlotWords : Prop :=
  (∀ (s : State) (st : Fin 64) (work : RunWork), s.chip.dueWord st.val = none →
    exec (.run st work) s = .next s ∧ exec (.nop st) s = .next s ∧ exec (.await st) s = .next s ∧ exec (.mark st) s = .next s ∧
    exec (.test st) s = .next s ∧ exec (.turn st) s = .next s) ∧
  ∀ (s : State) (st : Fin 64) (i : Nat) (w : DWord), s.chip.dueWord st.val = some (i, w) →
    let now := s.chip.issueCycle st.val
    let c := s.chip.arriveWords none now
    let cls := slotClass w
    let idx := slotIndex w
    let k := targetKey cls idx
    let n := c.advance st.val
    let r := n.stream st.val
    (slotMalformed w = true → ∀ work : RunWork, exec (.run st work) s = .next { s with chip := c.malformed st.val i w } ∧
      exec (.nop st) s = .next { s with chip := c.malformed st.val i w } ∧
      exec (.await st) s = .next { s with chip := c.malformed st.val i w } ∧
      exec (.mark st) s = .next { s with chip := c.malformed st.val i w } ∧
      exec (.test st) s = .next { s with chip := c.malformed st.val i w } ∧
      exec (.turn st) s = .next { s with chip := c.malformed st.val i w }) ∧
    (slotMalformed w = false →
      (slotOp w = 0 → exec (.nop st) s = .next { s with chip := n.setStream st.val { r with paused := true, wait := max 1 (slotLow w) } }) ∧
      (slotOp w = 1 → c.unitIdle cls idx = false → ∀ work : RunWork,
        (cls = 9 → 3 ≤ slotKernel w → exec (.run st work) s = .next { s with chip := c.malformed st.val i w }) ∧
        ((cls ≠ 9 ∨ slotKernel w < 3) →
          let a : RunArrival :=
            { stream := st.val, slot := i, kernel := slotKernel w, budget := slotLow w, subst := c.substOn st.val k,
              issued := c.issueCycle st.val, job := work, turn := c.turn (c.streamDef st.val).plane }
          (cls = 2 → exec (.run st work) s = .next { s with chip := (c.runSpindle idx a).advance st.val }) ∧
          (cls ≠ 2 → exec (.run st work) s = .next { s with chip := (c.sendWord cls idx a).advance st.val }))) ∧
      (slotOp w = 3 → (c.unitIdle cls idx = true ∨ tget none c.sched.marks (slotMark w) = some (slotValue w)) →
        exec (.await st) s = .next { s with chip := n.setStream st.val { r with subst := r.subst.filter (· != k) } }) ∧
      (slotOp w = 3 → c.unitIdle cls idx = false → ∀ m : Option Nat, tget none c.sched.marks (slotMark w) = m → m ≠ some (slotValue w) →
        exec (.await st) s = .next { s with chip := (
          (n.setStream st.val { r with subst := if r.subst.contains k then r.subst else k :: r.subst }).streamFault 1
            (if m = none then 1 else 2) st.val i cls idx (c.issueCycle st.val)) }) ∧
      (slotOp w = 4 → c.unitIdle cls idx = true → exec (.mark st) s = .next { s with chip := n.writeMark (slotMark w) (slotValue w) }) ∧
      (slotOp w = 4 → c.unitIdle cls idx = false → exec (.mark st) s = .next { s with chip := n.attachMark cls idx (slotMark w, slotValue w) }) ∧
      (slotOp w = 5 → c.unitIdle cls idx = false →
        let a : RunArrival :=
          { stream := st.val, slot := i, kernel := slotArg w, budget := (tget {} c.tables.tests (slotArg w)).cycles, subst := false,
            issued := c.issueCycle st.val, test := true }
        exec (.test st) s = .next { s with chip := (c.sendWord cls idx a).advance st.val }) ∧
      (slotOp w = 6 → exec (.turn st) s = .next { s with chip := n.setStream st.val { r with ended := true } }) ∧
      (slotOp w = 1 ∨ slotOp w = 5 → c.unitIdle cls idx = true → ∀ work : RunWork,
        (slotOp w = 1 → exec (.run st work) s = .next { s with chip := n }) ∧
        (slotOp w = 5 → exec (.test st) s = .next { s with chip := n }))) ∧
    (∀ (x : Chip) (a : RunArrival), x.targetBusy k = false → x.wordArrives cls idx a = x.startTarget cls idx a)

/-- R45, R46, R210: RUN_COMPLETE, BUDGET_EXPIRY, OWNERSHIP_ABORT, ABORT_COMPLETE, TEST_STEP_END, BODY_END_SHORT and RUN_ARRIVAL, in
every state. Words on their way to the target arrive first. -/
def Obligations.TargetsEnd : Prop :=
  (∀ (s : State) (cls : Fin 13) (idx : Nat),
    let k := targetKey cls.val idx
    let c := s.chip.arriveWords (some k) (s.chip.sched.cyc + 255)
    let t := c.target k
    let stop := fun (c : Chip) => { s with chip := c }
    (t.work = .run → t.aborting = false → cls.val ≠ 9 → cls.val ≠ 2 → exec (.runComplete cls idx) s = .next (stop
      ((c.unitRun (c.streamDef t.stream).plane cls.val idx t.turn t.job t.subst).completeTarget k))) ∧
    (t.work = .run → t.aborting = false → cls.val = 2 → exec (.runComplete cls idx) s = .next (stop (c.engineComplete idx))) ∧
    ((t.work ≠ .run ∨ t.aborting = true ∨ cls.val = 9) → exec (.runComplete cls idx) s = .next (stop c)) ∧
    (t.work = .run → t.aborting = false → t.deadline < c.sched.cyc + 256 →
      let n := (c.physEngine idx).getD 0
      let d := c.when (cls.val == 2) (·.runUntil n t.deadline)
      (cls.val = 2 → d.engineInTime n = true → exec (.budgetExpiry cls idx) s = .next (stop d)) ∧
      ((cls.val ≠ 2 ∨ d.engineInTime n = false) → exec (.budgetExpiry cls idx) s = .next (stop
        ((d.when (worstClass (3 :: if t.overran then [2] else []) == some 3)
          (·.streamFault 3 1 t.stream t.slot cls.val idx t.deadline)).abortBusy cls.val idx)))) ∧
    ((t.work ≠ .run ∨ t.aborting = true ∨ c.sched.cyc + 256 ≤ t.deadline) → exec (.budgetExpiry cls idx) s = .next (stop c)) ∧
    (t.work = .test → t.aborting = false → t.deadline < c.sched.cyc + 256 →
      exec (.testStepEnd cls idx) s = .next (stop (c.completeTarget k))) ∧
    ((t.work ≠ .test ∨ t.aborting = true ∨ c.sched.cyc + 256 ≤ t.deadline) → exec (.testStepEnd cls idx) s = .next (stop c))) ∧
  (∀ (s : State) (cls : Fin 13) (idx : Nat),
    let k := targetKey cls.val idx
    let t := s.chip.target k
    let freed := s.chip.setTarget k { t with breach := false }
    (t.breach = true → t.work ≠ .idle → exec (.ownershipAbort cls idx) s = .next { s with chip := freed.abortBusy cls.val idx }) ∧
    (t.breach = true → t.work = .idle → exec (.ownershipAbort cls idx) s = .next { s with chip := freed }) ∧
    (t.breach = false → exec (.ownershipAbort cls idx) s = .next s) ∧
    (t.aborting = true → cls.val ≠ 2 → exec (.abortComplete cls idx) s =
      .next { s with chip := (s.chip.completeTarget k).targetNext cls.val idx t.after }) ∧
    (t.aborting = true → cls.val = 2 → exec (.abortComplete cls idx) s =
      .next { s with chip := (s.chip.completeTarget k).engineFreed idx t }) ∧
    (t.aborting = false → exec (.abortComplete cls idx) s = .next s)) ∧
  (∀ (s : State) (st : Fin 64),
    let c := s.chip
    let d := c.streamDef st.val
    let r := c.stream st.val
    let past := (c.plane d.plane).phase = .tail ∨
      ((c.plane d.plane).phase = .body ∧ c.ownedLeft d.plane ≤ b2n (c.twistPlane == some d.plane))
    (past → r.ended = false → d.words ≠ [] → exec (.bodyEndShort st) s = .next { s with chip := (
      (c.setStream st.val { r with ended := true }).streamFault 3 3 st.val r.next 0 0 (c.sched.cyc + 256)) }) ∧
    ((¬ past ∨ r.ended = true ∨ d.words = []) → exec (.bodyEndShort st) s = .next s)) ∧
  (∀ (s : State) (n : Fin 192), (s.chip.engine n.val).arrivals = [] → exec (.runArrival n) s = .next s) ∧
  ∀ (s : State) (n : Fin 192) (a : RunArrival) (l : List RunArrival), (s.chip.engine n.val).arrivals = a :: l →
    let at_ := a.issued + 32
    let c := (s.chip.setEngine n.val { s.chip.engine n.val with arrivals := l }).runUntil n.val at_
    (s.chip.sched.cyc + 256 ≤ at_ → exec (.runArrival n) s = .next s) ∧
    (at_ < s.chip.sched.cyc + 256 →
      (c.planEngine n.val = none → exec (.runArrival n) s = .next { s with chip := c }) ∧
      ∀ m : Nat, c.planEngine n.val = some m →
        let k := targetKey 2 m
        ((c.target k).work = .idle → (c.target k).aborting = false → exec (.runArrival n) s = .next { s with chip := c.startRun n.val a }) ∧
        (((c.target k).work ≠ .idle ∨ (c.target k).aborting = true) →
          let d := c.streamFault 2 1 a.stream a.slot 2 m at_
          let d := if (c.target k).aborting = true then d else (d.abortTarget k).engineAbort n.val
          exec (.runArrival n) s = .next { s with chip := (
            d.setTarget k { d.target k with after := some { a with subst := true, overran := true } }) }))

/-- R57, R58: the latch of the first schedule fault, whatever the fault. -/
def Obligations.ScheduleFaultLatch : Prop :=
  (∀ (c : Chip) (fcls cause p st slot tcls tidx cyc : Nat), c.Canonical → slot < 2 ^ 20 → p < 4 → c.turn p < 2 ^ 40 →
    (c.sched.sfAt = cyc → c.get R.SEQ_SFSTAT_STREAM ≤ st) →
    let d := c.schedFault fcls cause p st slot tcls tidx cyc
    d.on R.SEQ_SFSTAT_VALID = true ∧
    (c.on R.SEQ_SFSTAT_VALID = false → d.get R.SEQ_SFSLOT = slot ∧ d.get2 R.SEQ_SFTURNLO R.SEQ_SFTURNHI = c.turn p) ∧
    (c.on R.SEQ_SFSTAT_VALID = true → d.on R.SEQ_SFSTAT_MORE = true ∧ d.rd 0x100304 = c.rd 0x100304 ∧
      d.rd 0x100308 = c.rd 0x100308 ∧ d.rd 0x10030C = c.rd 0x10030C) ∧
    ((c.rd 0x100304).toNat < 2 ^ 20 → (d.rd 0x100304).toNat < 2 ^ 20)) ∧
  (∀ a ∈ [0x100304, 0x100308, 0x10030C], State.reset.chip.rd a = 0 ∧
    ∃ r : RegRow, regRowAt a = some r ∧ r.rw = 0 ∧ r.rws = 0 ∧ r.w1c = 0 ∧ r.sk = 0)

/-- R26, R35, R40: BODY_START, TAIL_START, TURN_BOUNDARY and HOUSE_FRAME_PULSE, in every state, and what the servo's figures satisfy. -/
def Obligations.TurnParts : Prop :=
  (∀ (s : State) (p : Fin 4),
    let c := s.chip
    let r := c.plane p.val
    (r.phase = .lead → r.t + r.lead ≤ c.sched.cyc → c.owner c.ringPos = some p.val →
      exec (.bodyStart p) s = .next { s with chip := (
        let c := c.planTail p.val
        let c := (c.each (c.streamsOf p.val) (fun c st => c.setStream st (streamBody (c.stream st)))).acSnapshot p.val
        c.when (!c.drained p.val) (fun c =>
          c.each ((List.range 16).filter (fun k => c.decOn k && c.decPlane k == p.val)) (fun c k => c.decRelease k))) }) ∧
    ((r.phase ≠ .lead ∨ c.sched.cyc < r.t + r.lead ∨ c.owner c.ringPos ≠ some p.val) → exec (.bodyStart p) s = .next s) ∧
    (r.phase = .body → r.t + r.lead + r.body ≤ c.sched.cyc → exec (.tailStart p) s = .next { s with chip := (
      (((c.setPlane p.val { r with phase := .tail }).columnChoice p.val).variantTail p.val).gatesShown) }) ∧
    ((r.phase ≠ .body ∨ c.sched.cyc < r.t + r.lead + r.body) → exec (.tailStart p) s = .next s) ∧
    (r.phase = .tail → r.tnext < c.sched.cyc + 256 →
      exec (.turnBoundary p) s = .next { s with chip := (
        let e := c.boundaryErr p.val
        let c := ((c.turnEnds p.val).nextTurn p.val e).boundaryShown p.val r
        let c := c.when (errExceeds e && !r.excess) (·.timingFault p.val)
        (c.trace 1 p.val (c.plane p.val).lead (r.tail * 2 ^ 16 + errField e)).boundaryEffects p.val) }) ∧
    ((r.phase ≠ .tail ∨ c.sched.cyc + 256 ≤ r.tnext) → exec (.turnBoundary p) s = .next s) ∧
    (let n := c.lastPulse p.val
     let h := c.pulseAt p.val n
     let d := c.setPlane p.val { r with pulseIdx := n, pulseAt := h }
     (c.running p.val = true → r.pulseIdx < n → n ≠ r.index → exec (.houseFramePulse p) s = .next { s with chip := d }) ∧
     (c.running p.val = true → r.pulseIdx < n → n = r.index →
       exec (.houseFramePulse p) s = .next { s with chip := d.setErr p.val ((r.t : Int) * 65536 - h) }) ∧
     ((c.running p.val = false ∨ n ≤ r.pulseIdx) → exec (.houseFramePulse p) s = .next s))) ∧
  (∀ (c : Chip) (p : Nat),
    (c.servo p).2.2 = (c.plane p).t + (c.plane p).lead + (c.plane p).body + (c.servo p).1 ∧
    (c.on R.NET_TBSTAT_VALID (c.baseOf p) = true → c.get R.SEQ_TAILCTL_MINCYC p ≤ c.get R.SEQ_TAILCTL_MAXCYC p →
      c.get R.SEQ_TAILCTL_MINCYC p ≤ (c.servo p).1 ∧ (c.servo p).1 ≤ c.get R.SEQ_TAILCTL_MAXCYC p)) ∧
  (∀ t : Nat, leadOf t < 256 ∧ (t + leadOf t) % 256 = 0)

/-- R39: the Turn count at a start and at a boundary. -/
def Obligations.TurnCount : Prop :=
  (∀ p : Fin 4, State.reset.chip.turn p.val = 0) ∧
  (∀ (c : Chip) (p : Fin 4) (n : Nat), c.Canonical → (c.beginPlane p.val n).turn p.val = n % 2 ^ 40) ∧
  (∀ (c : Chip) (p : Fin 4) (e : Int), c.Canonical → (c.nextTurn p.val e).turn p.val = ((c.plane p.val).index + 1) % 2 ^ 40) ∧
  (∀ (c : Chip) (p q : Fin 4) (e : Int), c.Canonical → p ≠ q → (c.nextTurn p.val e).turn q.val = c.turn q.val)

/-- R24, R341, R380: TWIST_START: the count, the time bases, and then what the new Twist brings. -/
def Obligations.TwistPasses : Prop :=
  ∀ s : State,
    (s.chip.on R.CLK_ROOTSTAT_PLLLOCK = false → exec .twistStart s = .next s) ∧
    (s.chip.on R.CLK_ROOTSTAT_PLLLOCK = true → exec .twistStart s = .next { s with chip := (
      let c := s.chip.passTwist.holdSeconds.streamsTwist
      let c := c.arriveWords none c.sched.cyc
      let c := c.when (c.sched.cyc / 256 % 32768 == 0) (·.clearSnag)
      let c := c.when (c.on R.DRAM_MAPCFG_EN && !c.ownedAt c.sched.cyc) (·.serveDram)
      let c := c.each (List.range 8) (fun c k => c.slewPhase k)
      (c.leaseAge s.chip.sched.cyc).remainShown.reactTick) }) ∧
    s.chip.passTwist.sched.cyc = s.chip.sched.cyc + 256 ∧
    (tabWf (fun _ => ({} : TimeBase)) s.chip.tb = true →
      ∀ b : Nat, b < 16 → s.chip.passTwist.base b = (s.chip.base b).twist) ∧
    ∀ b : TimeBase, b.twist.rate = b.rate ∧
      (b.twist.t40 : Int) = max 0 ((b.t40 : Int) + 320 * ((2 ^ 40 : Int) + b.rate))

/-- R30, R534, R538: MOVE, MOVE_COMPLETE, CVU_SEED, CVU_SAVE and CVU_RESTORE. -/
def Obligations.TransfersAndCheckValues : Prop :=
  ∀ s : State,
    let c := s.chip
    (∀ (st : Fin 64) (failed : List Nat) (m : InFlight), c.moves.find? (fun m => m.stream == st.val) = some m →
      exec (.moveComplete st failed) s = .next { s with chip := (
        let d : MoveDesc := tget {} c.tables.moves m.desc
        let c := { c with moves := c.moves.erase m }
        let c := c.each (failed.filter (fun i => decide (64 * i < m.data.length))) (fun c _ => c.fault 1 3 21 blkSeq 0x01 0 none)
        let v := c.cvuVerdict m d
        v.2.moveWrite { m with poisoned := linesPoisoned m v.1 failed } d) }) ∧
    (∀ st : Fin 64, c.moves.find? (fun m => m.stream == st.val) = none →
      ∀ l : List Nat, exec (.moveComplete st l) s = .next s) ∧
    (∀ (st : Fin 64) (breaks : Bool) (errs : List LineErr), c.dueWord st.val = none → exec (.move st breaks errs) s = .next s) ∧
    (∀ (st : Fin 64) (breaks : Bool) (errs : List LineErr) (i : Nat) (w : DWord), c.dueWord st.val = some (i, w) →
      slotOp w = 2 → c.moveLeaves st.val = false →
      let c := c.arriveWords none (c.issueCycle st.val)
      let d : MoveDesc := tget {} c.tables.moves (slotArg w)
      let idle := c.endIdle d.src || c.endIdle d.dst || c.unitIdle (slotClass w) (slotIndex w)
      (slotMalformed w = true → exec (.move st breaks errs) s = .next { s with chip := c.malformed st.val i w }) ∧
      (slotMalformed w = false → idle = true → exec (.move st breaks errs) s = .next { s with chip := c.advance st.val }) ∧
      (slotMalformed w = false → idle = false → exec (.move st breaks errs) s = .next { s with chip := (
        (c.issueMove (c.streamDef st.val).plane st.val i w breaks errs).advance st.val) })) ∧
    (∀ ctx : Fin 2048,
      let t := c.target (targetKey 9 ctx.val)
      let d : CvuDef := tget {} c.tables.cvus ctx.val
      (t.work = .run → t.aborting = false →
        (t.kernel = 0 → exec (.cvuSeed ctx) s = .next { s with chip := (
          (c.setCvu ctx.val { seeded := true, check := d.check, seqFold := d.seqFold, fold := d.foldAddr, crc := 0, seq := 0 }).completeTarget
            (targetKey 9 ctx.val)) }) ∧
        (t.kernel = 1 → exec (.cvuSave ctx) s = .next { s with chip := (
          (c.dramWrite d.save (cvuBytes (c.cvu ctx.val))).completeTarget (targetKey 9 ctx.val)) }) ∧
        (t.kernel = 2 → exec (.cvuRestore ctx) s = .next { s with chip := (
          (c.setCvu ctx.val (cvuOf (c.dramRead d.save 16))).completeTarget (targetKey 9 ctx.val)) })) ∧
      ((t.work ≠ .run ∨ t.aborting = true ∨ t.kernel ≠ 0) → exec (.cvuSeed ctx) s = .next s) ∧
      ((t.work ≠ .run ∨ t.aborting = true ∨ t.kernel ≠ 1) → exec (.cvuSave ctx) s = .next s) ∧
      ((t.work ≠ .run ∨ t.aborting = true ∨ t.kernel ≠ 2) → exec (.cvuRestore ctx) s = .next s)) ∧
    (∀ v : CvuCtx, v.fold < 2 ^ 56 → v.seq < 2 ^ 32 → cvuOf (cvuBytes v) = v)

/-- R203, R207: SALU, SMUL, SDIV, SMEM, STAB, ACHK and CSR in a bundle that issues. -/
def Obligations.SpindleScalar : Prop :=
  (∀ (s : State) (n : Fin 192) (cyc : Nat) (c : Chip), s.chip.Idles n.val cyc c →
    (∀ op : SaluOp, exec (.salu n cyc op) s = .next { s with chip := c }) ∧
    (∀ op : SmulOp, exec (.smul n cyc op) s = .next { s with chip := c }) ∧
    (∀ op : SdivOp, exec (.sdiv n cyc op) s = .next { s with chip := c }) ∧
    (∀ op : SmemOp, exec (.smem n cyc op) s = .next { s with chip := c }) ∧
    exec (.stab n cyc) s = .next { s with chip := c } ∧ exec (.achk n cyc) s = .next { s with chip := c } ∧
    exec (.csr n cyc) s = .next { s with chip := c }) ∧
  ∀ (s : State) (n : Fin 192) (cyc : Nat) (c : Chip) (e : Engine) (b : Nat), s.chip.Issues n.val cyc c e b →
    let x := sread e (bSa b)
    let y := scalarB e b
    let i := n.val
    let d := bSd b
    (1 ≤ bSop b → bSop b ≤ 0x1F → ∀ op : SaluOp,
      (∀ v : Word, saluVal op x y = some v → exec (.salu n cyc op) s = .next { s with chip := c.sresult i d v 1 }) ∧
      (saluVal op x y = none → exec (.salu n cyc op) s = .next { s with chip := c.draw.2.sresult i d (c.draw.1.setWidth 32) 1 })) ∧
    (0x20 ≤ bSop b → bSop b ≤ 0x23 →
      exec (.smul n cyc .low) s = .next { s with chip := c.sresult i d (BitVec.ofNat 32 (x.toNat * y.toNat)) 3 } ∧
      exec (.smul n cyc .highU) s = .next { s with chip := c.sresult i d (BitVec.ofNat 32 (x.toNat * y.toNat / 2 ^ 32)) 3 } ∧
      exec (.smul n cyc .highS) s = .next { s with chip := c.sresult i d (BitVec.ofInt 32 (x.toInt * y.toInt / 2 ^ 32)) 3 }) ∧
    (0x24 ≤ bSop b → bSop b ≤ 0x27 →
      (e.divFree ≤ cyc →
        exec (.sdiv n cyc .quotS) s = .next { s with chip := (c.setEngine i { e with divFree := cyc + 20 }).sresult i d (divS x y).1 20 } ∧
        exec (.sdiv n cyc .quotU) s = .next { s with chip := (c.setEngine i { e with divFree := cyc + 20 }).sresult i d (divU x y).1 20 } ∧
        exec (.sdiv n cyc .remS) s = .next { s with chip := (c.setEngine i { e with divFree := cyc + 20 }).sresult i d (divS x y).2 20 } ∧
        exec (.sdiv n cyc .remU) s = .next { s with chip := (c.setEngine i { e with divFree := cyc + 20 }).sresult i d (divU x y).2 20 }) ∧
      (cyc < e.divFree → ∀ op : SdivOp, exec (.sdiv n cyc op) s = .next { s with chip := c.engineFault i 4 })) ∧
    (0x30 ≤ bSop b → bSop b ≤ 0x37 → ∀ op : SmemOp,
      let a := x.toNat
      let store := op == .store8 || op == .store16 || op == .store32
      ((2 ^ 19 ≤ a ∨ a % smemWidth op ≠ 0 ∨ (store = true ∧ 0x68000 ≤ a)) →
        exec (.smem n cyc op) s = .next { s with chip := c.engineFault i 6 }) ∧
      (store = true → a < 0x68000 → a % smemWidth op = 0 → exec (.smem n cyc op) s = .next { s with chip := c.setEngine i { e with
        stores := insertStore ⟨2, a, leBytes (smemWidth op) y.toNat, cyc, false⟩ e.stores } }) ∧
      (store = false → a < 2 ^ 19 → a % smemWidth op = 0 →
        (∀ (c' : Chip) (bs : List Byte), c.padRead i a (smemWidth op) = (c', some bs) →
          let v : Word := if op = .load8s then (BitVec.ofNat 8 (ofLe bs)).signExtend 32
            else if op = .load16s then (BitVec.ofNat 16 (ofLe bs)).signExtend 32 else BitVec.ofNat 32 (ofLe bs)
          exec (.smem n cyc op) s = .next { s with chip := c'.sresult i d v 4 }) ∧
        (∀ c' : Chip, c.padRead i a (smemWidth op) = (c', none) → exec (.smem n cyc op) s = .next { s with chip := c' }))) ∧
    (bSop b = 0x38 →
      let at_ := 0x78000 + 4 * (1024 * (bSimm b % 8) + x.toNat % 1024)
      (∀ (c' : Chip) (bs : List Byte), c.padRead i at_ 4 = (c', some bs) →
        exec (.stab n cyc) s = .next { s with chip := c'.sresult i d (BitVec.ofNat 32 (ofLe bs)) 4 }) ∧
      (∀ c' : Chip, c.padRead i at_ 4 = (c', none) → exec (.stab n cyc) s = .next { s with chip := c' })) ∧
    (bSop b = 0x50 →
      ((bSimm b : Int) ≤ sdiff 16 (c.acGet i (bSa b % 16)) (tget 0 e.acbase (bSa b % 16)) →
        exec (.achk n cyc) s = .next { s with chip := c }) ∧
      (sdiff 16 (c.acGet i (bSa b % 16)) (tget 0 e.acbase (bSa b % 16)) < bSimm b →
        exec (.achk n cyc) s = .next { s with chip := c.engineFault i 7 })) ∧
    (bSop b = 0x58 →
      (bSimm b % 8 = 0 → exec (.csr n cyc) s = .next { s with chip := c.sresult i d (BitVec.ofNat 32 (cyc + 4)) 1 }) ∧
      (∀ p : Nat, bSimm b % 8 = 1 → c.enginePlane i = some p →
        exec (.csr n cyc) s = .next { s with chip := c.sresult i d (BitVec.ofNat 32 (c.turn p)) 1 }) ∧
      (∀ p : Nat, bSimm b % 8 = 2 → c.planCol (i / 12) = some p →
        exec (.csr n cyc) s = .next { s with chip := c.sresult i d (BitVec.ofNat 32 p) 1 }) ∧
      (bSimm b % 8 = 3 → exec (.csr n cyc) s = .next { s with chip := c.sresult i d (BitVec.ofNat 32 (i % 12)) 1 }) ∧
      (∀ r : SpnRun, e.run = some r →
        (bSimm b % 8 = 4 → exec (.csr n cyc) s = .next { s with chip := c.sresult i d (BitVec.ofNat 32 r.kernel) 1 }) ∧
        (bSimm b % 8 = 5 → exec (.csr n cyc) s = .next { s with chip := c.sresult i d (if r.subst then 1 else 0) 1 })) ∧
      (6 ≤ bSimm b % 8 →
        exec (.csr n cyc) s = .next { s with chip := c.draw.2.sresult i d (c.draw.1.setWidth 32) 1 }))

/-- R203, R207: what the scalar divider and ALU compute. That the quotient rounds toward 0 and that compares give 1 or 0 are the model's
reading (log entry 21): the manual does not say so. -/
def Obligations.ScalarValues : Prop :=
  ∀ a b : Word,
    divU a 0 = (0xFFFFFFFF, a) ∧ (0 ≤ a.toInt → divS a 0 = (0x7FFFFFFF, a)) ∧ (a.toInt < 0 → divS a 0 = (0x80000000, a)) ∧
    divS 0x80000000 0xFFFFFFFF = (0x80000000, 0) ∧
    (b ≠ 0 → (divU a b).1.toNat = a.toNat / b.toNat ∧ (divU a b).2.toNat = a.toNat % b.toNat) ∧
    (b ≠ 0 → (a ≠ 0x80000000 ∨ b ≠ 0xFFFFFFFF) →
      (divS a b).1.toInt = a.toInt.tdiv b.toInt ∧ (divS a b).2.toInt = a.toInt.tmod b.toInt) ∧
    saluVal .add a b = some (BitVec.ofNat 32 (a.toNat + b.toNat)) ∧ saluVal .sub a b = some (BitVec.ofInt 32 (a.toInt - b.toInt)) ∧
    saluVal .lt a b = some (if a.toInt < b.toInt then 1 else 0) ∧ saluVal .ltu a b = some (if a.toNat < b.toNat then 1 else 0) ∧
    saluVal .le a b = some (if a.toInt ≤ b.toInt then 1 else 0) ∧ saluVal .leu a b = some (if a.toNat ≤ b.toNat then 1 else 0) ∧
    (∀ v : Word, saluVal .min a b = some v → v.toInt = min a.toInt b.toInt) ∧
    (∀ v : Word, saluVal .minu a b = some v → v.toNat = min a.toNat b.toNat) ∧
    (∀ v : Word, saluVal .max a b = some v → v.toInt = max a.toInt b.toInt) ∧
    (∀ v : Word, saluVal .maxu a b = some v → v.toNat = max a.toNat b.toNat)

/-- R208, R209: CTRL in a bundle that issues, and in a cycle in which none does. -/
def Obligations.SpindleControl : Prop :=
  (∀ (s : State) (n : Fin 192) (cyc : Nat) (c : Chip), s.chip.Idles n.val cyc c →
    ∀ op : CtrlOp, exec (.ctrl n cyc op) s = .next { s with chip := c }) ∧
  (∀ (s : State) (n : Fin 192) (cyc : Nat) (c : Chip) (e : Engine) (b : Nat), s.chip.Issues n.val cyc c e b →
    0x40 ≤ bSop b → bSop b ≤ 0x47 →
    let t := bSimm b % 4096
    let a := sread e (bSa b)
    let cnt := min a.toNat (2 ^ (bSimm b / 4096))
    let taken := c.setEngine n.val { e with jump := some (2, t), slots := 3 }
    let past := c.setEngine n.val { e with jump := none, slots := 3 }
    let loopBad := e.jump.isSome = true ∨ 0 < e.slots ∨ 2 ≤ e.loops.length ∨ ∃ l ∈ e.loops, l.stop = t
    (jumpBad e t = true → ∀ op : CtrlOp, op ≠ .loop → exec (.ctrl n cyc op) s = .next { s with chip := c.engineFault n.val 5 }) ∧
    (jumpBad e t = false →
      exec (.ctrl n cyc .jump) s = .next { s with chip := taken } ∧
      (a = 0 → exec (.ctrl n cyc .branchZero) s = .next { s with chip := taken } ∧
        exec (.ctrl n cyc .branchNonZero) s = .next { s with chip := past }) ∧
      (a ≠ 0 → exec (.ctrl n cyc .branchZero) s = .next { s with chip := past } ∧
        exec (.ctrl n cyc .branchNonZero) s = .next { s with chip := taken })) ∧
    (loopBad → exec (.ctrl n cyc .loop) s = .next { s with chip := c.engineFault n.val 5 }) ∧
    (¬ loopBad →
      (cnt = 0 → exec (.ctrl n cyc .loop) s =
        .next { s with chip := c.setEngine n.val { e with jump := some (1, t + 1), bubble := true } }) ∧
      (cnt ≠ 0 → exec (.ctrl n cyc .loop) s =
        .next { s with chip := c.setEngine n.val { e with loops := ⟨cnt, e.pc + 1, t⟩ :: e.loops, slots := 3 } }))) ∧
  ∀ (e : Engine) (u : Nat),
    ((e.jump.isSome = true ∨ 0 < e.slots) → jumpBad e u = true) ∧
    (e.jump = none → e.slots = 0 → e.loops = [] → jumpBad e u = false) ∧
    ∀ (l : SpnLoop) (ls : List SpnLoop), e.jump = none → e.slots = 0 → e.loops = l :: ls →
      (jumpBad e u = true ↔ u < l.start ∨ l.stop < u)

/-- R207: VALU, VCMP, VMUL, VSAD, VRED, VPERM, VMEM and MOVS in a bundle that issues; a register made of lanes has those lanes. -/
def Obligations.SpindleVector : Prop :=
  (∀ (lw : Nat) (l : List Nat), lw < 3 → l.length = 64 / 2 ^ lw → lanes lw (ofLanes lw l) = l.map (· % 2 ^ laneBits lw)) ∧
  (∀ (lw : Nat) (m : BitVec 64) (old new : List Nat), (masked lw m old new).length = new.length ∧
    ∀ j : Nat, j < new.length → (masked lw m old new).getD j 0 = if laneOn lw m j then new.getD j 0 else old.getD j 0) ∧
  (∀ (s : State) (n : Fin 192) (cyc : Nat) (c : Chip), s.chip.Idles n.val cyc c →
    (∀ op : ValuOp, exec (.valu n cyc op) s = .next { s with chip := c }) ∧
    (∀ op : VcmpOp, exec (.vcmp n cyc op) s = .next { s with chip := c }) ∧
    (∀ op : VmulOp, exec (.vmul n cyc op) s = .next { s with chip := c }) ∧
    exec (.vsad n cyc) s = .next { s with chip := c } ∧
    (∀ op : VredOp, exec (.vred n cyc op) s = .next { s with chip := c }) ∧
    (∀ op : VpermOp, exec (.vperm n cyc op) s = .next { s with chip := c }) ∧
    (∀ op : VmemOp, exec (.vmem n cyc op) s = .next { s with chip := c }) ∧
    (∀ op : MovsOp, exec (.movs n cyc op) s = .next { s with chip := c })) ∧
  ∀ (s : State) (n : Fin 192) (cyc : Nat) (c : Chip) (e : Engine) (b : Nat), s.chip.Issues n.val cyc c e b →
    let i := n.val
    let lw := bLw b
    let m := mread e (bVmsel b)
    let u := lanes lw (tget 0 e.vreg (bVa b))
    let v := lanes lw (tget 0 e.vreg (bVb b))
    let old := lanes lw (tget 0 e.vreg (bVd b))
    let vec (l : List Nat) (k : Nat) : Host.Outcome State Fault Refusal := .next { s with chip := c.result i (.vreg (bVd b)) (ofLanes lw l) k }
    (1 ≤ bVop b → bVop b ≤ 0x3F → ∀ op : ValuOp, (bVimm b < laneBits lw ∨ (op ≠ .shl ∧ op ≠ .shr ∧ op ≠ .sar)) →
      let r := (List.range u.length).map (fun j => valuLane op (laneBits lw) (bVimm b) (laneOn lw m j) (u.getD j 0) (v.getD j 0))
      exec (.valu n cyc op) s = vec (if op = .select then r else masked lw m old r) 2) ∧
    (1 ≤ bVop b → bVop b ≤ 0x3F → laneBits lw ≤ bVimm b → ∀ op ∈ [ValuOp.shl, .shr, .sar],
      let w := c.draw.1.setWidth 512 ||| (c.draw.2.draw.1.setWidth 512 <<< 256)
      exec (.valu n cyc op) s =
        .next { s with chip := c.draw.2.draw.2.result i (.vreg (bVd b)) (ofLanes lw (masked lw m old (lanes lw w))) 2 }) ∧
    (0x40 ≤ bVop b → bVop b ≤ 0x47 → ∀ op : VcmpOp,
      let t (x y : Nat) : Bool := match op with
        | .eq => x == y | .ne => x != y | .ltU => decide (x < y)
        | .ltS => decide (ofField (laneBits lw) x < ofField (laneBits lw) y)
      let r := (List.range u.length).map (fun j => laneOn lw m j && t (u.getD j 0) (v.getD j 0))
      exec (.vcmp n cyc op) s = .next { s with chip := c.result i (.vmask (bVd b % 8)) (BitVec.ofNat 512 (maskOf lw r)) 2 }) ∧
    (0x48 ≤ bVop b → bVop b ≤ 0x4F →
      exec (.vmul n cyc .mul) s = vec (masked lw m old (List.zipWith (· * ·) u v)) 4 ∧
      exec (.vmul n cyc .mac) s = vec (masked lw m old (List.zipWith (· + ·) old (List.zipWith (· * ·) u v))) 4 ∧
      ∀ op ∈ [VmulOp.widenU, .widenS],
        let w := c.draw.1.setWidth 512 ||| (c.draw.2.draw.1.setWidth 512 <<< 256)
        exec (.vmul n cyc op) s = .next { s with chip := c.draw.2.draw.2.result i (.vreg (bVd b)) w 4 }) ∧
    (0x50 ≤ bVop b → bVop b ≤ 0x53 →
      let k := 4 / 2 ^ lw
      let r := (List.range 16).map (fun j => ((List.range k).map (fun q =>
        if laneOn lw m (k * j + q) then natAbsDiff (u.getD (k * j + q) 0) (v.getD (k * j + q) 0) else 0)).sum)
      exec (.vsad n cyc) s = .next { s with chip := c.result i (.vreg (bVd b)) (ofLanes 2 r) 4 }) ∧
    (0x58 ≤ bVop b → bVop b ≤ 0x5F →
      let l := (u.zip (List.range u.length)).filter (fun x => laneOn lw m x.2)
      exec (.vred n cyc .sum) s = .next { s with chip := c.sresult i (bVd b) (BitVec.ofNat 32 (l.map (·.1)).sum) 6 } ∧
      (∀ x : Nat × Nat, argBest (fun p q => decide (p < q)) l = some x →
        exec (.vred n cyc .minU) s = .next { s with chip := c.sresult i (bVd b) (BitVec.ofNat 32 x.1) 6 } ∧
        exec (.vred n cyc .argminU) s = .next { s with chip := c.sresult i (bVd b) (BitVec.ofNat 32 x.2) 6 }) ∧
      (∀ x : Nat × Nat, argBest (fun p q => decide (q < p)) l = some x →
        exec (.vred n cyc .maxU) s = .next { s with chip := c.sresult i (bVd b) (BitVec.ofNat 32 x.1) 6 }) ∧
      (∀ x : Nat × Nat, argBest (fun p q => decide (ofField (laneBits lw) p < ofField (laneBits lw) q)) l = some x →
        exec (.vred n cyc .minS) s =
          .next { s with chip := c.sresult i (bVd b) (BitVec.ofNat 32 (toField 32 (ofField (laneBits lw) x.1))) 6 } ∧
        exec (.vred n cyc .argminS) s = .next { s with chip := c.sresult i (bVd b) (BitVec.ofNat 32 x.2) 6 }) ∧
      (∀ x : Nat × Nat, argBest (fun p q => decide (ofField (laneBits lw) q < ofField (laneBits lw) p)) l = some x →
        exec (.vred n cyc .maxS) s =
          .next { s with chip := c.sresult i (bVd b) (BitVec.ofNat 32 (toField 32 (ofField (laneBits lw) x.1))) 6 }) ∧
      (l = [] → ∀ op : VredOp, op ≠ .sum →
        exec (.vred n cyc op) s = .next { s with chip := c.draw.2.sresult i (bVd b) (c.draw.1.setWidth 32) 6 })) ∧
    (0x60 ≤ bVop b → bVop b ≤ 0x67 →
      exec (.vperm n cyc .shuffle) s = vec (masked lw m old (v.map (fun j => u.getD (j % u.length) 0))) 3 ∧
      exec (.vperm n cyc .rotate) s =
        vec (masked lw m old ((List.range u.length).map (fun j => u.getD ((j + bVimm b) % u.length) 0))) 3 ∧
      exec (.vperm n cyc .broadcast) s =
        vec (masked lw m old (List.replicate u.length ((sread e (bSadr b)).toNat % 2 ^ laneBits lw))) 3) ∧
    (0x70 ≤ bVop b → bVop b ≤ 0x73 →
      let a := ((sread e (bSadr b)).toNat + 64 * bVimm b) / 64 * 64
      ((2 ^ 19 ≤ (sread e (bSadr b)).toNat ∨ 2 ^ 19 ≤ a) → ∀ op : VmemOp,
        exec (.vmem n cyc op) s = .next { s with chip := c.engineFault i 6 }) ∧
      ((sread e (bSadr b)).toNat < 2 ^ 19 → a < 0x68000 → exec (.vmem n cyc .store) s = .next { s with chip := c.setEngine i { e with
        stores := insertStore ⟨1, a, leBytes 64 (tget (0 : BitVec 512) e.vreg (bVd b)).toNat, cyc, false⟩ e.stores } }) ∧
      ((sread e (bSadr b)).toNat < 2 ^ 19 → a < 2 ^ 19 → ∀ (c' : Chip) (bs : List Byte), c.padRead i a 64 = (c', some bs) →
        exec (.vmem n cyc .load) s = .next { s with chip := c'.result i (.vreg (bVd b)) (BitVec.ofNat 512 (ofLe bs)) 5 }) ∧
      (0x68000 ≤ a → exec (.vmem n cyc .store) s = .next { s with chip := c.engineFault i 6 }) ∧
      ((sread e (bSadr b)).toNat < 2 ^ 19 → a < 2 ^ 19 → ∀ c' : Chip, c.padRead i a 64 = (c', none) →
        exec (.vmem n cyc .load) s = .next { s with chip := c' })) ∧
    (1 ≤ bMop b → bMop b ≤ 7 →
      let w := tget (0 : BitVec 512) e.vreg (bMv b)
      let x := (sread e (bMs b)).toNat
      let k := mread e (bMv b % 8)
      (∀ q : Fin 3, let j := bMimm b % 64 % (lanes q.val w).length
        exec (.movs n cyc (.toLane q)) s =
          .next { s with chip := c.result i (.vreg (bMv b)) (ofLanes q.val (listSet (lanes q.val w) j x)) 1 } ∧
        exec (.movs n cyc (.fromLane q)) s = .next { s with chip := c.sresult i (bMs b) (BitVec.ofNat 32 ((lanes q.val w).getD j 0)) 1 }) ∧
      exec (.movs n cyc .toMaskLow) s =
        .next { s with chip := c.result i (.vmask (bMv b % 8)) (BitVec.ofNat 512 (k.toNat / 2 ^ 32 * 2 ^ 32 + x)) 1 } ∧
      exec (.movs n cyc .toMaskHigh) s =
        .next { s with chip := c.result i (.vmask (bMv b % 8)) (BitVec.ofNat 512 (k.toNat % 2 ^ 32 + 2 ^ 32 * x)) 1 } ∧
      exec (.movs n cyc .fromMaskLow) s = .next { s with chip := c.sresult i (bMs b) (BitVec.ofNat 32 k.toNat) 1 } ∧
      exec (.movs n cyc .fromMaskHigh) s = .next { s with chip := c.sresult i (bMs b) (BitVec.ofNat 32 (k.toNat / 2 ^ 32)) 1 })

/-- R207, R221, R223, R227, R538: SEND, SENDL, COMMIT, RESULT_WRITEBACK and SEND_ARRIVAL. -/
def Obligations.SpindleSends : Prop :=
  (∀ (s : State) (n : Fin 192) (cyc : Nat) (c : Chip), s.chip.Idles n.val cyc c →
    exec (.send n cyc) s = .next { s with chip := c } ∧ exec (.sendl n cyc) s = .next { s with chip := c } ∧
    exec (.commit n cyc) s = .next { s with chip := c }) ∧
  (∀ (s : State) (n : Fin 192) (cyc : Nat) (c : Chip) (e : Engine) (b : Nat), s.chip.Issues n.val cyc c e b →
    (bMop b = 0x10 → exec (.send n cyc) s = .next { s with chip := (
      c.sendLine n.val b (leBytes 64 (tget (0 : BitVec 512) e.vreg (bMv b)).toNat)) }) ∧
    (bMop b = 0x11 → 2 ^ 19 ≤ (sread e (bMs b)).toNat → exec (.sendl n cyc) s = .next { s with chip := c.engineFault n.val 6 }) ∧
    (bMop b = 0x11 → (sread e (bMs b)).toNat < 2 ^ 19 →
      (∀ (c' : Chip) (bs : List Byte), c.padRead n.val ((sread e (bMs b)).toNat / 64 * 64) 64 = (c', some bs) →
        exec (.sendl n cyc) s = .next { s with chip := c'.sendLine n.val b bs }) ∧
      (∀ c' : Chip, c.padRead n.val ((sread e (bMs b)).toNat / 64 * 64) 64 = (c', none) →
        exec (.sendl n cyc) s = .next { s with chip := c' })) ∧
    (∀ (p : Nat) (r : SpnRun), bMop b = 0x18 → c.enginePlane n.val = some p → e.run = some r →
      exec (.commit n cyc) s = .next { s with chip := (
        let w := commitWord (c.turn p) (sread e (bMs b)).toNat
        c.setEngine n.val { e with stores := insertStore ⟨2, 64 * r.outwin + 4 * (bMimm b % 16), leBytes 4 w.toNat, cyc, false⟩ e.stores }) })) ∧
  (∀ (s : State) (n : Fin 192),
    let cyc := (s.chip.engine n.val).cyc
    (engineMoves (s.chip.engine n.val) = true → exec (.resultWriteback n cyc) s = .next { s with chip := s.chip.engineCycle n.val }) ∧
    (engineMoves (s.chip.engine n.val) = false → exec (.resultWriteback n cyc) s = .next s)) ∧
  (∀ (c : Chip) (n : Nat) (r : SpnRun),
    let d := c.fetchCheck n
    (d.engine n).run = some r → r.stop = none → doubleWrite ((d.engine n).cyc + 1) (d.engine n).results = true →
      c.engineCycle n = d.engineFault n 3) ∧
  (∀ s : State, s.chip.spn.flight = [] → ∀ x y : Bool, exec (.sendArrival x y) s = .next s) ∧
  ∀ (s : State) (b : Beat) (l : List Beat), firstBeat s.chip.spn.flight = some (b, l) →
    let c : Chip := { s.chip with spn := { s.chip.spn with flight := l } }
    (2 * (s.chip.sched.cyc + 256) ≤ b.due → ∀ x y : Bool, exec (.sendArrival x y) s = .next s) ∧
    (b.due < 2 * (s.chip.sched.cyc + 256) →
      (∀ bad : Bool,
        let c := c.when bad (·.fault 1 3 21 blkSeq 0x01 0 none)
        (b.unit = 0xC → c.physCol b.pcol = none → exec (.sendArrival false bad) s = .next { s with chip := c }) ∧
        (∀ x : Nat, b.unit = 0xC → c.physCol b.pcol = some x → exec (.sendArrival false bad) s = .next { s with chip := (
          { c with spn := { c.spn with decision := (b.data.zip (List.range 64)).foldl (fun t e =>
              tset 0 t (65536 * x + 64 * b.line + e.2) e.1) c.spn.decision } }) }) ∧
        (b.unit ≠ 0xC → c.physEngine (12 * b.pcol + b.unit) = none → exec (.sendArrival false bad) s = .next { s with chip := c }) ∧
        (∀ d : Nat, b.unit ≠ 0xC → c.physEngine (12 * b.pcol + b.unit) = some d →
          exec (.sendArrival false bad) s = .next { s with chip := (c.beatStore d b bad).acRise d b.acn })) ∧
      (∀ y : Bool,
        let c := c.spnRecord b.src 8 0 0
        (b.unit = 0xC → exec (.sendArrival true y) s = .next { s with chip := c }) ∧
        (b.unit ≠ 0xC → c.physEngine (12 * b.pcol + b.unit) = none → exec (.sendArrival true y) s = .next { s with chip := c }) ∧
        (∀ d : Nat, b.unit ≠ 0xC → c.physEngine (12 * b.pcol + b.unit) = some d →
          exec (.sendArrival true y) s = .next { s with chip := (
            c.setEngine d { c.engine d with poison := tset false (c.engine d).poison b.line true }) })))

/-- R218: what is an address violation and what is none, for SMEM, VMEM and SENDL. A load that meets a double-bit error or a poisoned
line ends with cause 0x1 instead (R220). That base + 64 × IMM beyond the scratchpad is an address violation too is the model's reading
(log entry 22), so it is left out here. -/
def Obligations.AddressViolations : Prop :=
  ∀ (s : State) (n : Fin 192) (cyc : Nat) (c : Chip) (e : Engine) (b : Nat), s.chip.fetch n.val cyc = (c, some (e, b)) →
    let i := n.val
    (0x30 ≤ bSop b → bSop b ≤ 0x37 →
      let a := sread e (bSa b)
      (∀ j : Nat, 19 ≤ j → j < 32 → a.getLsbD j = true → ∀ op : SmemOp, exec (.smem n cyc op) s = .next { s with chip := c.engineFault i 6 }) ∧
      (∀ op : SmemOp, a.toNat % smemWidth op ≠ 0 → exec (.smem n cyc op) s = .next { s with chip := c.engineFault i 6 }) ∧
      (∀ op ∈ [SmemOp.store8, .store16, .store32], 0x68000 ≤ a.toNat →
        exec (.smem n cyc op) s = .next { s with chip := c.engineFault i 6 }) ∧
      (∀ op ∈ [SmemOp.load8, .load8s, .load16, .load16s, .load32], (∀ j : Nat, 19 ≤ j → j < 32 → a.getLsbD j = false) →
        a.toNat % smemWidth op = 0 → padBad (c.engine i) a.toNat (smemWidth op) = false →
        ∃ (v : Word), exec (.smem n cyc op) s = .next { s with chip := (
          (c.bump R.SPN_ECCCNT_PAD i (padSgl (c.engine i) a.toNat (smemWidth op))).sresult i (bSd b) v 4) })) ∧
    (0x70 ≤ bVop b → bVop b ≤ 0x73 →
      let base := sread e (bSadr b)
      let a := base.toNat + 64 * bVimm b
      (∀ j : Nat, 19 ≤ j → j < 32 → base.getLsbD j = true → ∀ op : VmemOp, exec (.vmem n cyc op) s = .next { s with chip := c.engineFault i 6 }) ∧
      (0x68000 ≤ a → exec (.vmem n cyc .store) s = .next { s with chip := c.engineFault i 6 }) ∧
      (a < 2 ^ 19 → padBad (c.engine i) (a - a % 64) 64 = false →
        exec (.vmem n cyc .load) s = .next { s with chip := (
          let d := c.bump R.SPN_ECCCNT_PAD i (padSgl (c.engine i) (a - a % 64) 64)
          d.result i (.vreg (bVd b)) (BitVec.ofNat 512 (ofLe (c.padBytes (c.engine i) (a - a % 64) 64))) 5) })) ∧
    (bMop b = 0x11 →
      (∀ j : Nat, 19 ≤ j → j < 32 → (sread e (bMs b)).getLsbD j = true →
        exec (.sendl n cyc) s = .next { s with chip := c.engineFault i 6 }))

/-- R202: the one result in flight and its register, at every later cycle; registers S0 and VM0 are constants (R201). -/
def Obligations.ResultLatency : Prop :=
  ∀ (c : Chip) (n t k cyc : Nat) (d : SpnDest) (v : BitVec 512),
    tabWf (fun _ => ({} : Engine)) c.spn.eng = true → (c.engine n).results = [] → (c.engine n).cyc = t → 0 < k →
    tabWf (fun _ => (0 : Word)) (c.engine n).sreg = true → tabWf (fun _ => (0 : BitVec 512)) (c.engine n).vreg = true →
    tabWf (fun _ => (0 : BitVec 64)) (c.engine n).vmask = true →
    let e := settle ((c.result n d v k).engine n) cyc
    (∀ r : Nat, sread e r = if d = .sreg r ∧ r ≠ 0 ∧ t + k ≤ cyc then v.setWidth 32 else sread (c.engine n) r) ∧
    (∀ r : Nat, tget 0 e.vreg r = if d = .vreg r ∧ t + k ≤ cyc then v else tget 0 (c.engine n).vreg r) ∧
    (∀ r : Nat, mread e r = if d = .vmask r ∧ r ≠ 0 ∧ t + k ≤ cyc then v.setWidth 64 else mread (c.engine n) r)

/-- R100, R112, R248, R87: ST2110_PACKET_RX, ANC_PACKET_RX, LEG_DOWN, PARSE_NAL and VARIANT_STAGING_DONE. -/
def Obligations.MediaReceipt : Prop :=
  ∀ s : State,
    let c := s.chip
    (∀ k : MediaPacket, c.get R.ING_FLOWCFG_SRC (c.legA k.flow.val) = 1 →
      exec (.st2110PacketRx k) s = .next { s with chip := c.mergePacket k }) ∧
    (∀ k : MediaPacket, c.get R.ING_FLOWCFG_SRC (c.legA k.flow.val) ≠ 1 → exec (.st2110PacketRx k) s = .next s) ∧
    (∀ (f : Fin 1024) (stamp : Word) (a : AncPacket),
      (c.flowOn f.val = true → c.flowIsAnc f.val = true →
        (a.last = false → exec (.ancPacketRx f stamp a) s = .next { s with chip := c.ancPacket f.val stamp.toNat a }) ∧
        (a.last = true → exec (.ancPacketRx f stamp a) s =
          .next { s with chip := (c.ancPacket f.val stamp.toNat a).ancEnd f.val stamp.toNat })) ∧
      ((c.flowOn f.val = false ∨ c.flowIsAnc f.val = false) → exec (.ancPacketRx f stamp a) s = .next s)) ∧
    (∀ (f : Fin 1024) (isB : Bool) (t : Nat),
      let a := c.legA f.val
      let own := if isB then R.ING_FLOWSTAT_LEGBUP else R.ING_FLOWSTAT_LEGAUP
      let other := if isB then R.ING_FLOWSTAT_LEGAUP else R.ING_FLOWSTAT_LEGBUP
      let last := (if isB then (c.flow a).legB else (c.flow a).legA).getD 0
      (c.on own a = true → last + 1000000 ≤ t →
        (c.on other a = false → exec (.legDown f isB t) s = .next { s with chip := c.set own a 0 }) ∧
        (c.on other a = true → exec (.legDown f isB t) s = .next { s with chip := (
          ((c.set own a 0).set R.ING_FLOWSTAT_LEGFLT a 1).countLost a) })) ∧
      ((c.on own a = false ∨ t < last + 1000000) → exec (.legDown f isB t) s = .next s)) ∧
    (∀ x : ParseIn, c.openTwist = false ∨ c.parseNext x.lane.val = none → exec (.parseNal x) s = .next s) ∧
    (∀ (x : ParseIn) (k : Nat), c.openTwist = true → c.parseNext x.lane.val = some k →
      exec (.parseNal x) s = .next { s with chip := (
        let b := c.parseBegin k x.lost
        let d := b.parseSome k (((b.dec k).rel.map (·.nals)).getD []) x.nals
        { d with decs := { d.decs with turnOf := tset 0 d.decs.turnOf x.lane.val (k + 1) } }) }) ∧
    (∀ p : Fin 4,
      (c.on R.GLB_VARIANT_PENDVALID p.val = true → (tget ({} : VarPend) c.varPend p.val).staged = false →
        exec (.variantStagingDone p) s = .next { s with chip := (
          let v : VarPend := tget {} c.varPend p.val
          let d := c.stageVariant p.val v.variant
          { d with varPend := tset {} d.varPend p.val { v with staged := true } }) }) ∧
      ((c.on R.GLB_VARIANT_PENDVALID p.val = false ∨ (tget ({} : VarPend) c.varPend p.val).staged = true) →
        exec (.variantStagingDone p) s = .next s))

/-- R289–R301: AUDIO_FRAME_RX, AUDIO_CLOCK_LOSS, RATE_METER_WINDOW, MASK_COMMIT and AUDIO_OUTPUT_FRAME. -/
def Obligations.AudioPorts : Prop :=
  ∀ (s : State) (n : Fin 48), s.Inv →
    let c := s.chip
    (∀ k : AudioFrame, c.portOn n.val = true → c.on R.AUD_PORTCFG_DIR n.val = false → k.rising = c.startRising n.val →
      ∃ d : Chip, exec (.audioFrameRx n k) s = .next { s with chip := d } ∧
        (k.sd.length = c.portSlots n.val * c.slotWidth n.val + 1 → d.on R.AUD_PORTSTAT_CLKOK n.val = true ∧
          d.get R.AUD_ERRCNT_FRAMING n.val = c.get R.AUD_ERRCNT_FRAMING n.val ∧
          d.on R.AUD_PORTSTAT_FRAMEERR n.val = c.on R.AUD_PORTSTAT_FRAMEERR n.val) ∧
        (k.sd.length ≠ c.portSlots n.val * c.slotWidth n.val + 1 → d.on R.AUD_PORTSTAT_FRAMEERR n.val = true ∧
          d.on R.AUD_PORTSTAT_CLKOK n.val = c.on R.AUD_PORTSTAT_CLKOK n.val ∧
          d.get R.AUD_ERRCNT_FRAMING n.val = min (2 ^ R.AUD_ERRCNT_FRAMING.width - 1) (c.get R.AUD_ERRCNT_FRAMING n.val + 1))) ∧
    (∀ k : AudioFrame, (c.portOn n.val = false ∨ c.on R.AUD_PORTCFG_DIR n.val = true ∨ k.rising ≠ c.startRising n.val) →
      exec (.audioFrameRx n k) s = .next s) ∧
    (∀ t : Nat,
      let x := c.port n.val
      let due := x.lastEdge + 4 * 1000000000000 / c.portFs n.val
      (c.portOn n.val = true → c.on R.AUD_PORTCFG_MASTER n.val = false → x.lost = false → due ≤ t →
        exec (.audioClockLoss n t) s = .next { s with chip := (
          let d := c.setPort n.val { x with lost := true, frames := x.frames ++ [{ stamp := x.edgeStamp, ok := false }] }
          ((d.set R.AUD_PORTSTAT_CLKOK n.val 0).set R.AUD_PORTSTAT_CLKLOSS n.val 1).bump R.AUD_ERRCNT_CLKLOSS n.val) }) ∧
      ((c.portOn n.val = false ∨ c.on R.AUD_PORTCFG_MASTER n.val = true ∨ x.lost = true ∨ t < due) →
        exec (.audioClockLoss n t) s = .next s)) ∧
    (c.portOn n.val = false → exec (.rateMeterWindow n) s = .next s) ∧
    (c.portOn n.val = true →
      ∃ d : Chip, exec (.rateMeterWindow n) s = .next { s with chip := d } ∧
        (d.get R.AUD_PORTSTAT_RATECLS n.val ≠ c.get R.AUD_PORTSTAT_RATECLS n.val → d.on R.AUD_PORTSTAT_RATECHG n.val = true) ∧
        ((c.port n.val).winN < 2 → d.get R.AUD_FSMEAS n.val = 0 ∧ d.get R.AUD_FSPPM n.val = 0 ∧
          d.get R.AUD_PORTSTAT_RATECLS n.val = 0)) ∧
    (∀ (v : Word) (t : Nat),
      (bit v.toNat 31 = false → exec (.maskCommit n v t) s = .next s) ∧
      (bit v.toNat 31 = true → c.plyOn = true → exec (.maskCommit n v t) s = .next { s with chip := c.set R.AUD_PORTSTAT_MASKREJ n.val 1 }) ∧
      (bit v.toNat 31 = true → c.plyOn = false → exec (.maskCommit n v t) s = .next { s with chip := (
        let d := (c.set R.AUD_MASKSTAT_PEND n.val (c.get R.AUD_SLOTMASK n.val)).set R.AUD_PORTSTAT_MASKPEND n.val 1
        d.setPort n.val { d.port n.val with commitAt := t, grid := none }) })) ∧
    (∀ t : Nat, c.portOn n.val = true → c.on R.AUD_PORTCFG_DIR n.val = true →
      let b := (c.applyMask n.val t).1
      let o := b.outFrame n.val t
      ∃ d : Chip, exec (.audioOutputFrame n t) s = .next { s with chip := d } ∧
        d.get R.AUD_FRAMECNT_DROPPED n.val =
          (if o.2.isSome then b.get R.AUD_FRAMECNT_DROPPED n.val
           else min (2 ^ R.AUD_FRAMECNT_DROPPED.width - 1) (b.get R.AUD_FRAMECNT_DROPPED n.val + 1)) ∧
        (tabWf (fun _ => ({} : AudPort)) b.aud.ports = true →
          (d.port n.val).drive = b.outDrive n.val o.1 (blockBad (b.outBlocks n.val).2 o.2) o.2)) ∧
    (∀ t : Nat, (c.portOn n.val = false ∨ c.on R.AUD_PORTCFG_DIR n.val = false) → exec (.audioOutputFrame n t) s = .next s) ∧
    (∀ (d : Chip) (k i : Nat) (x : Bool) (blk : Option ABlock), i < d.portSlots n.val →
      let m := bit (d.get R.AUD_MASKSTAT_ACTIVE n.val) i
      (d.outDrive n.val k x blk)[i]? = some (if m = true then some (d.outSample n.val k i x blk * 2 ^ (d.slotWidth n.val - d.sampleWidth n.val))
        else if d.on R.AUD_PORTCFG_TRISTATE n.val then none else some 0) ∧
      (m = true → (x = true ∨ blk = none) → (d.outDrive n.val k x blk)[i]? = some (some 0)))

/-- R322: DYNAMIC_FRAME_SEND. A frame that asks for a stamp leaves one in the port's queue of stamps (R345). -/
def Obligations.DynamicFrameStarts : Prop :=
  (∀ (s : State) (n : Fin 16) (t : Nat), (s.chip.netPort n.val).queue = [] → exec (.dynamicFrameSend n t) s = .next s) ∧
  ∀ (s : State) (n : Fin 16) (t : Nat) (f : DynFrame) (l : List DynFrame), (s.chip.netPort n.val).queue = f :: l →
    let c := s.chip
    let bytes := f.data.length + 4
    let d := c.setNetPort n.val { c.netPort n.val with queue := l, sent := f.wire t }
    (c.portUp n.val = true → c.frameTwists n.val bytes ≤ c.openRun →
      (f.stampId = none → exec (.dynamicFrameSend n t) s = .next { s with chip := d }) ∧
      (∀ id : Nat, f.stampId = some id → exec (.dynamicFrameSend n t) s = .next { s with chip := d.pushStamp n.val id t }) ∧
      ∀ j : Nat, j < c.frameTwists n.val bytes → if j = 0 then c.openTwist = true else c.ownedAt (c.sched.cyc + 256 * j) = false) ∧
    (c.openRun < c.frameTwists n.val bytes → exec (.dynamicFrameSend n t) s = .next s) ∧
    (c.portUp n.val = false → exec (.dynamicFrameSend n t) s = .next s)

/-- R314, R316–R318, R339: PORT_UP, PORT_DOWN, ETH_FRAME_RX, MEMBERSHIP_REPORT, ARP_REFRESH, DELAY_REQ_SEND, ANNOUNCE_TIMEOUT. -/
def Obligations.NetworkFrames : Prop :=
  ∀ s : State,
    let c := s.chip
    (∀ (n : Fin 16) (phy : PortPhy), exec (.portUp n phy) s = .next { s with chip := c.portSeen n.val phy } ∧
      exec (.portDown n phy) s = .next { s with chip := c.portSeen n.val phy }) ∧
    (∀ k : EthFrame, let n := k.lane.val
      (c.portUp n = false → exec (.ethFrameRx k) s = .next s) ∧
      (c.portUp n = true →
        let l := k.bytes.take (k.bytes.length - 4)
        let e := frameParts l
        let size := k.bytes.length
        (fcs l ≠ k.bytes.drop (size - 4) → exec (.ethFrameRx k) s = .next { s with chip := (c.bump R.NET_FCSERR n).bump R.NET_RXDROP n }) ∧
        (fcs l = k.bytes.drop (size - 4) → size < 64 ∨ 9022 < size →
          exec (.ethFrameRx k) s = .next { s with chip := c.bump R.NET_RXDROP n }) ∧
        (fcs l = k.bytes.drop (size - 4) → 64 ≤ size → size ≤ 9022 →
          (e.type = 0x8808 → exec (.ethFrameRx k) s =
            .next { s with chip := (c.set R.NET_LANESTAT_PAUSERX n 1).bump R.NET_RXDROP n }) ∧
          (e.type ≠ 0x8808 →
            (c.frameOk n e = false → exec (.ethFrameRx k) s = .next { s with chip := c.bump R.NET_RXDROP n }) ∧
            (c.frameOk n e = true → exec (.ethFrameRx k) s = .next { s with chip := c.frameKind k e }))))) ∧
    (∀ (n : Fin 16) (f : RxDef) (leave : Bool) (left : Nat) (l : List (RxDef × Bool × Nat)),
      (c.netPort n.val).reports = (f, leave, left) :: l → c.portUp n.val = true →
      exec (.membershipReport n) s = .next { s with chip := (
        let r := l ++ (if 1 < left then [(f, leave, left - 1)] else [])
        (c.setNetPort n.val { c.netPort n.val with reports := r }).queueReport n.val f false leave) }) ∧
    (∀ n : Fin 16, ((c.netPort n.val).reports = [] ∨ c.portUp n.val = false) → exec (.membershipReport n) s = .next s) ∧
    (∀ (n : Fin 16) (flow : Fin 1024), c.egOn (c.egLead flow.val) = true → (c.egDef flow.val).resolve = true →
      c.get R.NET_EGCFG_PORT flow.val = n.val → c.portUp n.val = true →
      exec (.arpRefresh n flow) s = .next { s with chip := (
        let d := c.setNetPort n.val { c.netPort n.val with refresh := flow.val :: (c.netPort n.val).refresh.filter (· != flow.val) }
        d.queueFrame n.val { kind := 3, data := d.hopFrame n.val flow.val }) }) ∧
    (∀ (n : Fin 16) (flow : Fin 1024), (c.egOn (c.egLead flow.val) = false ∨ (c.egDef flow.val).resolve = false ∨
      c.get R.NET_EGCFG_PORT flow.val ≠ n.val ∨ c.portUp n.val = false) → exec (.arpRefresh n flow) s = .next s) ∧
    (∀ (i : Fin 4) (x : PtpLeader), (c.ptp i.val).leader = some x → exec (.delayReqSend i) s = .next { s with chip := (
      let p := c.ptp i.val
      let d := c.setPtp i.val { p with reqSeq := (p.reqSeq + 1) % 65536, exch := some (p.reqSeq, none, none) }
      d.queueFrame x.port { kind := 2, data := d.reqFrame i.val x p.reqSeq, stampId := some p.reqSeq }) }) ∧
    (∀ i : Fin 4, (c.ptp i.val).leader = none → exec (.delayReqSend i) s = .next s) ∧
    (∀ (i : Fin 4) (sender : Nat), exec (.announceTimeout i sender) s = .next { s with chip := (
      let h := (c.ptp i.val).heard.filter (fun l => l.sender != sender)
      (c.setPtp i.val { c.ptp i.val with heard := h }).chooseLeader i.val) })

/-- R321, R334, R335: MEDIA_PACKET_SEND and SCTE35_REPEAT. -/
def Obligations.MediaSends : Prop :=
  ∀ (s : State) (f : Fin 1024),
    let c := s.chip
    let g := c.egLead f.val
    (∀ k : SendInfo, c.egLive g = false → exec (.mediaPacketSend f k) s = .next s) ∧
    (∀ (k : SendInfo) (cause : Nat), c.egLive g = true → c.accessCause (c.get R.NET_EGCFG_PLANE g) 0 = some cause →
      exec (.mediaPacketSend f k) s = .next { s with chip := c.egBreach g cause }) ∧
    (∀ (k : SendInfo) (c' : Chip), c.egLive g = true → c.accessCause (c.get R.NET_EGCFG_PLANE g) 0 = none →
      (c.draft g k = (c', none) → exec (.mediaPacketSend f k) s = .next { s with chip := c' }) ∧
      (∀ d : Draft, c.draft g k = (c', some d) →
        (k.at_ < d.due → exec (.mediaPacketSend f k) s = .next s) ∧
        (d.due ≤ k.at_ → exec (.mediaPacketSend f k) s = .next { s with chip := c'.sendDraft g k d }))) ∧
    (∀ t : Nat, ((c.egDef g).ts.sctePid = none ∨ ∀ ch : Nat, (c.egDef g).src ≠ .chan ch) → exec (.scte35Repeat f t) s = .next s) ∧
    (∀ t ch pid : Nat, (c.egDef g).src = .chan ch → (c.egDef g).ts.sctePid = some pid →
      exec (.scte35Repeat f t) s = .next { s with chip := (
        let d := c.net.splices.zipIdx.foldl (fun d e => d.scteAgain g ch pid t e) c
        { d with net := { d.net with splices := d.net.splices.filter (fun x => !(x.chan == ch && x.lastNs.isSome && x.left == 0)) } }) }) ∧
    (∀ (d : Chip) (t ch pid i : Nat) (x : Splice),
      (x.chan ≠ ch ∨ x.left = 0 ∨ x.lastNs = none → d.scteAgain g ch pid t (x, i) = d) ∧
      (∀ u : Nat, x.lastNs = some u → t < u + 100000000 → d.scteAgain g ch pid t (x, i) = d) ∧
      (∀ u : Nat, x.lastNs = some u → u + 100000000 ≤ t → x.chan = ch → 0 < x.left → d.scteAgain g ch pid t (x, i) =
        let e := d.setEg g ((d.eg g).push pid true (spliceSection x (d.picturePts ch x.spliceTurn)))
        { e with net := { e.net with splices := listSet e.net.splices i { x with left := x.left - 1, lastNs := some t } } }))

/-- R341, R345: TB_LATCH and TSQ_POP, by what their registers then read. -/
def Obligations.TimesReadBack : Prop :=
  ∀ (s : State) (v : Word), s.Inv →
    let c := s.chip
    (∀ b : Fin 16, bit v.toNat 31 = true →
      ∃ d : Chip, exec (.tbLatch b v) s = .next { s with chip := d } ∧
        let t := (c.base b.val).t40
        d.get R.NET_TBSECLO b.val + 2 ^ 32 * d.get R.NET_TBSECHI b.val = t / 2 ^ 40 / 1000000000 % 2 ^ 48 ∧
        d.get R.NET_TBNS b.val = t / 2 ^ 40 % 1000000000 ∧ d.get R.NET_TBFRAC b.val = t % 2 ^ 40 / 2 ^ 24) ∧
    (∀ b : Fin 16, bit v.toNat 31 = false → exec (.tbLatch b v) s = .next s) ∧
    (∀ n : Fin 16, bit v.toNat 31 = true → (c.netPort n.val).tsq = [] →
      exec (.tsqPop n v) s = .next { s with chip := c.set R.NET_TSQ0_VALID n.val 0 }) ∧
    (∀ (n : Fin 16) (e : TsqEntry) (l : List TsqEntry), bit v.toNat 31 = true → (c.netPort n.val).tsq = e :: l →
      ∃ d : Chip, exec (.tsqPop n v) s = .next { s with chip := d } ∧
        d.on R.NET_TSQ0_VALID n.val = true ∧ d.get R.NET_TSQ0_FRAMEID n.val = e.id % 2 ^ 16 ∧ d.get R.NET_TSQSTAT_COUNT n.val = l.length % 2 ^ 5 ∧
        d.get R.NET_TSQ1 n.val + 2 ^ 32 * d.get R.NET_TSQ2_SECHI n.val = e.t40 / 2 ^ 40 / 1000000000 % 2 ^ 48 ∧
        d.get R.NET_TSQ3 n.val = e.t40 / 2 ^ 40 % 1000000000 ∧ d.get R.NET_TSQ2_FRAC n.val = e.t40 % 2 ^ 40 / 2 ^ 24) ∧
    (∀ n : Fin 16, bit v.toNat 31 = false → exec (.tsqPop n v) s = .next s)

/-- R343, R344, R82: ESTIMATE_MISSED, HOLDS_EXPIRY, STEADY_BASE_TICK and FREE_START. -/
def Obligations.HoldoverAndSteadyBases : Prop :=
  ∀ (s : State) (b : Fin 16), s.Inv →
    let c := s.chip
    (c.on R.NET_TBCFG_EN b.val = true → c.tbSrcType b.val = 1 ∨ c.tbSrcType b.val = 2 →
      exec (.estimateMissed b) s = .next { s with chip := (c.enterHoldover b.val).squelch }) ∧
    ((c.on R.NET_TBCFG_EN b.val = false ∨ (c.tbSrcType b.val ≠ 1 ∧ c.tbSrcType b.val ≠ 2)) → exec (.estimateMissed b) s = .next s) ∧
    (let h := c.get R.NET_TBLIM_HOLDS b.val;
      (c.on R.NET_TBSTAT_HOLDOVER b.val = true → h ≠ 0 → (c.base b.val).holdFrom + h * 800000000 ≤ c.sched.cyc →
        exec (.holdsExpiry b) s = .next { s with chip := (c.invalidateBase b.val).squelch }) ∧
      ((c.on R.NET_TBSTAT_HOLDOVER b.val = false ∨ h = 0 ∨ c.sched.cyc < (c.base b.val).holdFrom + h * 800000000) →
        exec (.holdsExpiry b) s = .next s)) ∧
    ((b.val < 12 ∨ c.on R.NET_TBCFG_EN b.val = false ∨ c.tbSource b.val = none) → exec (.steadyBaseTick b) s = .next s) ∧
    (∀ q : Nat, 12 ≤ b.val → c.on R.NET_TBCFG_EN b.val = true → c.tbSource b.val = some q →
      let d := c.setBase b.val { c.base b.val with rates := ((c.base q).rate :: (c.base b.val).rates).take 1024 }
      (d.on R.NET_TBSTAT_LOCKED b.val = false → d.on R.NET_TBSTAT_FREESTART b.val = false →
        exec (.steadyBaseTick b) s = .next { s with chip := d }) ∧
      (d.on R.NET_TBSTAT_LOCKED b.val = true ∨ d.on R.NET_TBSTAT_FREESTART b.val = true →
        exec (.steadyBaseTick b) s = .next { s with chip := (
          let hold := d.sourceHolds b.val
          let e := (if hold then d.enterHoldover b.val else if d.on R.NET_TBSTAT_HOLDOVER b.val then d.leaveHoldover b.val else d).squelch
          let t := e.base b.val
          let f := if hold then t.freq else roundDiv t.rates.sum (max 1 t.rates.length)
          let offs := (((t.t40 : Int) - (e.base q).t40) :: t.offsets).take 16
          let slew := if hold ∨ e.on R.NET_TBSTAT_FREESTART b.val then 0 else braking offs.sum offs.length
          let e := e.setBase b.val { t with freq := f, offsets := offs }
          let e := e.set R.NET_TBOFFS b.val (toField 32 (satI 32 (roundDiv offs.sum (offs.length * 2 ^ 40))))
          e.setRate b.val (clampI (t.rate + clampI (f + slew - t.rate) (-slewStep) slewStep) (-steadyMax) steadyMax)) })) ∧
    (∀ x r : Int, -steadyMax ≤ r → r ≤ steadyMax →
      let y := clampI (r + clampI (x - r) (-slewStep) slewStep) (-steadyMax) steadyMax
      y - r ≤ slewStep ∧ r - y ≤ slewStep ∧ y ≤ steadyMax ∧ -steadyMax ≤ y) ∧
    (let late := min 60000 (max 1000 (c.get R.NET_TBCFG_FREEMS b.val)) * 1000 ≤ c.sinceReset;
      let may := 12 ≤ b.val ∧ c.on R.NET_TBCFG_EN b.val = true ∧ c.on R.NET_TBCFG_START b.val = true ∧
        c.on R.NET_TBSTAT_LOCKED b.val = false ∧ c.on R.NET_TBSTAT_FREESTART b.val = false ∧ late;
      (may → ∀ (t : Nat) (r : Int),
        (∀ q : Nat, c.tbSource b.val = some q → t = (if (c.base q).placed then (c.base q).t40 else 0) ∧ r = (c.base q).rate) →
        (c.tbSource b.val = none → t = 0 ∧ r = 0) →
        exec (.freeStart b) s = .next { s with chip := (
          let d := (c.setBase b.val { c.base b.val with t40 := t, placed := true, freq := r }).setRate b.val r
          ((d.set R.NET_TBSTAT_FREESTART b.val 1).set R.NET_TBSTAT_VALID b.val 1).squelch) }) ∧
      (¬ may → exec (.freeStart b) s = .next s))

/-- R361–R375: REF_ACTIVITY_LOSS, REF_GLITCH, REF_PULSE, REF_WINDOW_END, WTR_EXPIRY, DPLL_SWITCH_COMPLETE, HOLDOVER_SECOND, XTALSPEC_CHECK. -/
def Obligations.ReferencesAndDpll : Prop :=
  ∀ (s : State) (k : Fin 28),
    let c := s.chip
    (c.refOn k.val = true → exec (.refActivityLoss k) s = .next { s with chip := c.refLoss k.val }) ∧
    (c.refOn k.val = true → k.val < 8 → exec (.refGlitch k) s = .next { s with chip := (
      let d := (c.set R.CLK_REFSTAT_GLITCHEV k.val 1).bump R.CLK_REFCNT_GLITCH k.val
      (d.setRef k.val { d.refRun k.val with bad := true }).disqualify k.val) }) ∧
    (c.refOn k.val = false → exec (.refActivityLoss k) s = .next s ∧ exec (.refGlitch k) s = .next s ∧
      (∀ w : RefWindow, exec (.refWindowEnd k w) s = .next s) ∧ ∀ (t : Nat) (f p : Int), exec (.refPulse k t f p) s = .next s) ∧
    (c.refOn k.val = true → 8 ≤ k.val → exec (.refGlitch k) s = .next s) ∧
    (∀ (t : Nat) (f p : Int),
      ((c.refPulse k.val = false ∨ c.refOffered k.val = false) → exec (.refPulse k t f p) s = .next s) ∧
      (c.refOn k.val = true → c.refPulse k.val = true → c.refOffered k.val = true →
        ((c.refRun k.val).lastPulse = none → exec (.refPulse k t f p) s = .next { s with chip := (
          c.setRef k.val { c.refRun k.val with lastPulse := some t, bad := false }) }) ∧
        (∀ u : Nat, (c.refRun k.val).lastPulse = some u →
          (t < u + 799920000 → exec (.refPulse k t f p) s = .next { s with chip := c.refLoss k.val }) ∧
          (u + 800080000 < t → exec (.refPulse k t f p) s = .next { s with chip := (
            let d := c.refLoss k.val
            d.setRef k.val { d.refRun k.val with lastPulse := some t, bad := false }) }) ∧
          (u + 799920000 ≤ t → t ≤ u + 800080000 → exec (.refPulse k t f p) s = .next { s with chip := (
            let m := if (c.refRun k.val).bad = true then none else some (refOffset (1, 1) 1 (t - u))
            let d := c.setRef k.val { c.refRun k.val with lastPulse := some t, bad := false }
            (d.set R.CLK_REFSTAT_ACTIVE k.val 1).refWindow k.val u m f p (some t)) })))) ∧
    (∀ w : RefWindow,
      (c.refPulse k.val = true → exec (.refWindowEnd k w) s = .next s) ∧
      (c.refOn k.val = true → c.refPulse k.val = false → exec (.refWindowEnd k w) s = .next { s with chip := (
        let alive := w.alive && c.refOffered k.val
        let m := if (c.refRun k.val).bad = true ∨ alive = false then none
          else some (refOffset (c.refNominal k.val) w.periods w.span)
        let d := (c.setRef k.val { c.refRun k.val with bad := !alive }).setB R.CLK_REFSTAT_ACTIVE k.val alive
        d.refWindow k.val (c.sched.cyc - 80000000) m w.freq w.phase none) })) ∧
    (∀ w : Nat, (c.refRun k.val).wtrFrom = some w →
      (c.dpll = dpllLocked → w + c.get R.CLK_REFTIME_WTR k.val * 800000000 ≤ c.sched.cyc →
        exec (.wtrExpiry k) s = .next { s with chip := (c.startSwitch k.val).squelch }) ∧
      ((c.dpll ≠ dpllLocked ∨ c.sched.cyc < w + c.get R.CLK_REFTIME_WTR k.val * 800000000) → exec (.wtrExpiry k) s = .next s)) ∧
    ((c.refRun k.val).wtrFrom = none → exec (.wtrExpiry k) s = .next s) ∧
    (c.dpll = dpllSwitch → 2 ≤ c.clk.swRun → exec .dpllSwitchComplete s = .next { s with chip := (
      let d := (c.dpllLock c.dpllTarget).setDpllFreq (unitsOf40 (c.refFreq c.dpllTarget))
      (d.each (List.range 28) (fun d j => d.when (d.refRun j).ready (·.qualify j))).select) }) ∧
    ((c.dpll ≠ dpllSwitch ∨ c.clk.swRun < 2) → exec .dpllSwitchComplete s = .next s) ∧
    (∀ h : Nat, c.clk.holdFrom = some h →
      let n := c.get R.CLK_HOLDT + 1
      (c.sched.cyc < h + n * 800000000 → exec .holdoverSecond s = .next s) ∧
      (h + n * 800000000 ≤ c.sched.cyc →
        (s.Inv → (c.get R.CLK_HOSPEC = 0 ∨ n ≠ c.get R.CLK_HOSPEC) →
          exec .holdoverSecond s = .next { s with chip := c.bump R.CLK_HOLDT 0 }) ∧
        (s.Inv → c.get R.CLK_HOSPEC ≠ 0 → n = c.get R.CLK_HOSPEC → exec .holdoverSecond s = .next { s with chip := (
          (((c.bump R.CLK_HOLDT 0).set R.CLK_DPLLSTAT_HOOSPEC 0 1).set R.CLK_DPLLSTAT_OOSEV 0 1).squelch) }))) ∧
    (c.clk.holdFrom = none → exec .holdoverSecond s = .next s) ∧
    (c.dpll = dpllLocked → c.clk.lockedAt + 8000000000 ≤ c.sched.cyc → 65970697 < c.dpllFreq.natAbs →
      exec .xtalspecCheck s = .next { s with chip := c.set R.CLK_DPLLSTAT_XTALSPEC 0 1 }) ∧
    ((c.dpll ≠ dpllLocked ∨ c.sched.cyc < c.clk.lockedAt + 8000000000 ∨ c.dpllFreq.natAbs ≤ 65970697) →
      exec .xtalspecCheck s = .next s)

/-- R379, R382–R388: PHASE_STEP, PHASE_STEP_APPLIED, CLOCK_SWITCH_COMPLETE, CLOCK_SWITCH_WATCHDOG, CRYSTAL_MONITOR_WINDOW, ROOT_PLL_LOSS and
DOMAIN_MISALIGN. -/
def Obligations.PhaseAndRoot : Prop :=
  ∀ s : State, s.Inv →
    let c := s.chip
    (∀ (k : Fin 8) (v : Word), let p := ofField 32 (c.get R.CLK_PHPEND k.val) + v.toInt
      (v.toInt.natAbs ≤ 500000 → p.natAbs ≤ 1000000 →
        ∃ d : Chip, exec (.phaseStep k v) s = .next { s with chip := d } ∧ ofField 32 (d.get R.CLK_PHPEND k.val) = p ∧
          (d.on R.CLK_PHSTAT_PHBUSY k.val = true ↔ p ≠ 0) ∧
          d.clk = { c.clk with stepped := tset (0, 0) c.clk.stepped k.val (c.sched.cyc, p) }) ∧
      (500000 < v.toInt.natAbs ∨ 1000000 < p.natAbs →
        exec (.phaseStep k v) s = .next { s with chip := c.set R.CLK_PHSTAT_PHREJ k.val 1 })) ∧
    (∀ k : Fin 8,
      let slew := min 1000 (c.get R.CLK_OUTCFG_SLEW k.val)
      let from0 : Nat × Int := tget (0, 0) c.clk.stepped k.val
      let left : Nat := from0.2.natAbs - slew * (c.sched.cyc - from0.1) / 8000
      (slew = 0 → exec (.phaseStepApplied k) s = .next { s with chip := c.phaseTo k.val 0 }) ∧
      (slew ≠ 0 → c.on R.CLK_PHSTAT_PHBUSY k.val = false → exec (.phaseStepApplied k) s = .next s) ∧
      (slew ≠ 0 → c.on R.CLK_PHSTAT_PHBUSY k.val = true → exec (.phaseStepApplied k) s =
        .next { s with chip := c.phaseTo k.val (if from0.2 < 0 then -(left : Int) else left) })) ∧
    (∀ (k : Fin 8) (p : Int), -2 ^ 31 ≤ p → p < 2 ^ 31 →
      let d := c.phaseTo k.val p
      ofField 32 (d.get R.CLK_PHPEND k.val) = p ∧ (d.on R.CLK_PHSTAT_PHBUSY k.val = true ↔ p ≠ 0) ∧
      (tabWf (fun _ => (0 : Int)) c.clk.applied = true →
        tget 0 d.clk.applied k.val = tget 0 c.clk.applied k.val + (ofField 32 (c.get R.CLK_PHPEND k.val) - p))) ∧
    (∀ (pt : Fin 10) (src : Nat), tget none c.clk.goal pt.val = some src → c.switching pt.val = true →
      exec (.clockSwitchComplete pt) s = .next { s with chip := c.switched pt.val src } ∧
      exec (.clockSwitchWatchdog pt) s = .next { s with chip := (
        (c.switched pt.val src).set ⟨R.CLK_SWSTAT_SWWD.addr, 0, 16 + pt.val, 16 + pt.val⟩ 0 1) }) ∧
    (∀ pt : Fin 10, (c.switching pt.val = false ∨ tget none c.clk.goal pt.val = none) →
      exec (.clockSwitchComplete pt) s = .next s ∧ exec (.clockSwitchWatchdog pt) s = .next s) ∧
    (∀ edges : Nat,
      let good := 4850 ≤ edges ∧ edges ≤ 5150
      let n := c.clk.xtalFails + 1
      let d : Chip := ({ c with clk := { c.clk with xtalFails := n } }).set R.CLK_ROOTSTAT_XTALOK 0 0
      (c.on R.CLK_ROOTSTAT_XTALOK = false → c.clk.xtalFails = 0 → exec (.crystalMonitorWindow edges) s = .next s) ∧
      (c.on R.CLK_ROOTSTAT_XTALOK = true ∨ c.clk.xtalFails ≠ 0 →
        (good → exec (.crystalMonitorWindow edges) s = .next { s with chip := (
          ({ c with clk := { c.clk with xtalFails := 0 } }).set R.CLK_ROOTSTAT_XTALOK 0 1) }) ∧
        (¬ good → n ≠ 2 → exec (.crystalMonitorWindow edges) s = .next { s with chip := d }) ∧
        (¬ good → n = 2 → exec (.crystalMonitorWindow edges) s = .next { s with chip := (
          (d.set R.CLK_ROOTSTAT_XTALFAIL 0 1).rootFailure 0x09) }))) ∧
    (c.on R.CLK_ROOTSTAT_PLLLOCK = true →
      exec .rootPllLoss s = .next { s with chip := ((c.set R.CLK_ROOTSTAT_PLLLOCK 0 0).set R.CLK_ROOTSTAT_PLLFAIL 0 1).rootFailure 0x0A } ∧
      exec .domainMisalign s = .next { s with chip := (c.set R.CLK_ROOTSTAT_ALIGNFAIL 0 1).rootFailure 0x0B }) ∧
    (c.on R.CLK_ROOTSTAT_PLLLOCK = false → exec .rootPllLoss s = .next s ∧ exec .domainMisalign s = .next s) ∧
    (∀ (d : Chip) (cause : Nat), (d.clk.dead = false → (d.rootFailure cause).boot.warmAfterFlush = some 3) ∧
      (d.clk.dead = true → d.rootFailure cause = d))

/-- R410–R419: MR4_POLL, ZQ_CALIBRATION, DQ_OSCILLATOR_READ, RFM_ISSUE, SNAG_HOLD_EXPIRY, PANIC_RETRY, SEAM_START, SEAM_END, SEAM_TIMEOUT. -/
def Obligations.DramUpkeep : Prop :=
  (∀ (s : State) (ch : Fin 16), s.chip.chanOn ch.val = true → s.chip.dramOpen = true →
    let c := s.chip
    (∀ v : Byte, exec (.mr4Poll ch v false) s = .next { s with chip := c.set R.DRAM_MR4 ch.val v.toNat } ∧
      exec (.mr4Poll ch v true) s =
        .next { s with chip := ((c.set R.DRAM_MR4 ch.val v.toNat).set R.DRAM_CHSTAT_HOT ch.val 1).dramFault 6 ch.val 0 0 }) ∧
    exec (.zqCalibration ch) s = .next { s with chip := { c with dram := { c.dram with zq := tset 0 c.dram.zq ch.val c.sched.cyc } } } ∧
    (∀ drift : List Int,
      let old : List Int := tget [] c.dram.delays ch.val
      let held (i : Nat) : Prop := old.getD i 0 = 8 ∧ 8 < drift.getD i 0 ∨ old.getD i 0 = -8 ∧ drift.getD i 0 < -8
      let new := (List.range drift.length).map (fun i => stepDelay (old.getD i 0) (drift.getD i 0))
      let d := ({ c with dram := { c.dram with delays := tset [] c.dram.delays ch.val new } }).set R.DRAM_DRIFTMAX ch.val
        (new.foldl (fun m (x : Int) => max m x.natAbs) 0)
      ((∀ i : Nat, i < drift.length → ¬held i) →
        exec (.dqOscillatorRead ch drift) s = .next { s with chip := d }) ∧
      ((∃ i : Nat, i < drift.length ∧ held i) →
        exec (.dqOscillatorRead ch drift) s = .next { s with chip := (d.set R.DRAM_CHSTAT_DRIFT ch.val 1).dramFault 7 ch.val 0 0 })) ∧
    (∀ x y : Int, x.natAbs ≤ 8 → (stepDelay x y).natAbs ≤ 8 ∧ (stepDelay x y - x).natAbs ≤ 1)) ∧
  (∀ (s : State) (ch : Fin 16), (s.chip.chanOn ch.val = false ∨ s.chip.dramOpen = false) → (∀ (v : Byte) (h : Bool), exec (.mr4Poll ch v h) s = .next s) ∧
    exec (.zqCalibration ch) s = .next s ∧ ∀ l : List Int, exec (.dqOscillatorRead ch l) s = .next s) ∧
  (∀ (s : State) (ch : Fin 16) (pair : Fin 8), (ch.val, pair.val) ∈ s.chip.dram.rfm → s.chip.dramOpen = true →
    pairRefreshed s.chip.ringPos pair.val = false →
    exec (.rfmIssue ch pair) s = .next { s with chip := (
      let l := s.chip.dram.rfm.filter (fun e => e != (ch.val, pair.val))
      ({ s.chip with dram := { s.chip.dram with rfm := l } }).bump R.DRAM_SNAGCNT ch.val) }) ∧
  (∀ (s : State) (ch : Fin 16) (pair : Fin 8), ((ch.val, pair.val) ∉ s.chip.dram.rfm ∨ s.chip.dramOpen = false ∨
    pairRefreshed s.chip.ringPos pair.val = true) → exec (.rfmIssue ch pair) s = .next s) ∧
  (∀ (s : State) (who : Nat) (ch bank : Fin 16), exec (.snagHoldExpiry who ch bank) s = .next { s with chip := (
    let len := 16384 * max 1 (s.chip.get R.DRAM_SNAGCFG_SNAGHOLD)
    let l := s.chip.dram.holds.filter (fun h =>
      !(h.1 == who && h.2.1 == 16 * ch.val + bank.val && decide (h.2.2 + len ≤ s.chip.sched.cyc)))
    ({ s.chip with dram := { s.chip.dram with holds := l } }).serveDram) }) ∧
  (∀ (s : State) (k : Fin 8) (line n : Nat), tget none s.chip.dram.panics k.val = some (line, n) → s.chip.dramOpen = true →
    let c := s.chip
    let d := ({ c with dram := { c.dram with panics := tset none c.dram.panics k.val none } }).set R.DRAM_PPSTAT_RETRY k.val 0
    (∀ e ∈ [LineErr.none, .linkCorrected, .arrayCorrected], exec (.panicRetry k e) s = .next { s with chip := (
      let f := d.bump R.DRAM_PPCNT_RECOV k.val
      { f with dram := { f.dram with poisoned := f.dram.poisoned.filter (fun x => x != (c.get R.DRAM_PPCFG_FLOW k.val, line)) } }) }) ∧
    (∀ e ∈ [LineErr.arrayUncorrectable, .addressSyndrome], exec (.panicRetry k e) s = .next { s with chip := d }) ∧
    (max 1 (c.get R.DRAM_PPCFG_PANICTRY k.val) ≤ n + 1 → exec (.panicRetry k .linkUncorrectable) s = .next { s with chip := d }) ∧
    (n + 1 < max 1 (c.get R.DRAM_PPCFG_PANICTRY k.val) → exec (.panicRetry k .linkUncorrectable) s = .next { s with chip := (
      { c with dram := { c.dram with panics := tset none c.dram.panics k.val (some (line, n + 1)) } }) })) ∧
  (∀ (s : State) (k : Fin 8) (e : LineErr), (tget none s.chip.dram.panics k.val = none ∨ s.chip.dramOpen = false) →
    exec (.panicRetry k e) s = .next s) ∧
  (∀ s : State, s.chip.pwr.seam.isSome = true → s.chip.runningPlanes = [] → s.chip.on R.DRAM_FREQSTAT_SEAM = false →
    exec .seamStart s = .next { s with chip := (
      ({ s.chip with dram := { s.chip.dram with seamFrom := s.chip.sched.cyc } }).set R.DRAM_FREQSTAT_SEAM 0 1) }) ∧
  (∀ s : State, (s.chip.pwr.seam = none ∨ s.chip.runningPlanes ≠ [] ∨ s.chip.on R.DRAM_FREQSTAT_SEAM = true) →
    exec .seamStart s = .next s) ∧
  (∀ s : State, s.chip.on R.DRAM_FREQSTAT_SEAM = true →
    (s.chip.seamOver.pwrBusy = false → exec (.seamEnd []) s = .next { s with chip := s.chip.seamOver }) ∧
    (s.chip.seamOver.pwrBusy = true →
      exec (.seamEnd []) s = .next { s with chip := s.chip.seamOver.arrive s.chip.seamOver.pwrTarget }) ∧
    (∀ (l : List (Fin 16)) (k : Fin 16), k ∈ l → (∀ j ∈ l, k ≤ j) →
      exec (.seamEnd l) s = .next { s with chip := s.chip.seamOver.dramFault 8 k.val 0 0 }) ∧
    (s.chip.dram.seamFrom + 51200 ≤ s.chip.sched.cyc →
      exec .seamTimeout s = .next { s with chip := s.chip.seamOver.dramFault 8 0 0 0 }) ∧
    (s.chip.sched.cyc < s.chip.dram.seamFrom + 51200 → exec .seamTimeout s = .next s)) ∧
  (∀ s : State, s.chip.on R.DRAM_FREQSTAT_SEAM = false → exec .seamTimeout s = .next s ∧ ∀ l : List (Fin 16), exec (.seamEnd l) s = .next s)

/-- R431–R446: NAND_PROGRAM_DONE, NAND_ERASE_DONE, NAND_BUSY_TIMEOUT, SCRUB_PASS_START, NAND_SCRUB_PAGE, BLOCK_REFRESH, DIRECTORY_REPAIR,
INSTALL_TOKEN_ACCRUE, GOLDEN_TOKEN_ACCRUE, LOG_PAGE_PROGRAM, REEL_PAGE_PROGRAM. -/
def Obligations.NandStore : Prop :=
  ∀ s : State,
    let c := s.chip
    (∀ (b : Nat) (p : Fin 10), let d := c.set R.NAND_PARTSTAT_WRITING p.val 0
      exec (.nandProgramDone b p true) s =
        .next { s with chip := d.setNandBlock b { d.nandBlock b with pages := (d.nandBlock b).pages + 1 } } ∧
      exec (.nandProgramDone b p false) s = .next { s with chip := (d.nandFault 2 b p.val).retireBlock p.val b }) ∧
    (∀ (b : Nat) (p : Fin 10), let x := c.nandBlock b
      let d := c.setNandBlock b { x with erases := min 0xFFFF (x.erases + 1), counted := true, reads := 0, pages := 0 }
      exec (.nandEraseDone b p false) s = .next { s with chip := (c.nandFault 3 b p.val).retireBlock p.val b } ∧
      (c.anchor.endlim ≤ x.erases → exec (.nandEraseDone b p true) s = .next { s with chip := d.retireBlock p.val b }) ∧
      (x.erases < c.anchor.endlim → exec (.nandEraseDone b p true) s = .next { s with chip := d.partFigures p.val })) ∧
    (∀ (ch : Fin 2) (t : Fin 4), exec (.nandBusyTimeout ch t) s =
      .next { s with chip := c.nandFault 6 (ch.val * 2 ^ 31 + t.val * 2 ^ 29) 0 }) ∧
    (c.on R.NAND_STORESTAT_SCRUBRUN = false → exec .scrubPassStart s = .next { s with chip := (
      ({ c with nand := { c.nand with scrubbed := 0, scrubFrom := c.sched.cyc } }).set R.NAND_STORESTAT_SCRUBRUN 0 1) }) ∧
    (c.on R.NAND_STORESTAT_SCRUBRUN = true → exec .scrubPassStart s = .next s) ∧
    (let due := c.nand.scrubFrom + c.nand.scrubbed * 12500000;
      (∀ (r : NandRead) (l : Bool), (c.on R.NAND_STORESTAT_SCRUBRUN = false ∨ c.sched.cyc < due) →
        exec (.nandScrubPage r l) s = .next s) ∧
      (∀ (r : NandRead) (b : Chip), c.on R.NAND_STORESTAT_SCRUBRUN = true → due ≤ c.sched.cyc →
        (r.part < 10 → c.on R.NAND_PARTSTAT_WRITING r.part = true → b = c) →
        (10 ≤ r.part ∨ c.on R.NAND_PARTSTAT_WRITING r.part = false → b = c.pageRead r) →
        let d := { b with nand := { b.nand with scrubbed := b.nand.scrubbed + 1 } }
        exec (.nandScrubPage r false) s = .next { s with chip := d } ∧
        exec (.nandScrubPage r true) s = .next { s with chip := (
          (d.setDir { d.nand.dir with scrubpass := d.nand.dir.scrubpass + 1 }).writeDir.set R.NAND_STORESTAT_SCRUBRUN 0 0) })) ∧
    (∀ (b corr : Nat) (rd er : Bool),
      ((b ∉ c.nand.refresh ∨ c.partOf b = none) → exec (.blockRefresh b corr rd er) s = .next s) ∧
      (∀ i : Nat, b ∈ c.nand.refresh → c.partOf b = some i →
        let d : Chip := { c with nand := { c.nand with refresh := c.nand.refresh.filter (· != b) } }
        (c.on R.NAND_PARTSTAT_WRITING i = true → exec (.blockRefresh b corr rd er) s = .next s) ∧
        (c.on R.NAND_PARTSTAT_WRITING i = false →
          (i < 6 → rd = false → exec (.blockRefresh b corr rd er) s = .next { s with chip := d }) ∧
          ((6 ≤ i ∨ rd = true) →
            (d.bestSpare i b = none → exec (.blockRefresh b corr rd er) s = .next { s with chip := (d.partWorn i b).partFigures i }) ∧
            (∀ n : Nat, d.bestSpare i b = some n →
              exec (.blockRefresh b corr rd er) s = .next { s with chip := d.refreshTo i b n corr er }))))) ∧
    (∀ r : NandRead,
      let d := c.pageRead r
      let booting := d.boot.slot.isSome = true ∧ d.boot.complete = false
      let fails := booting ∧ d.boot.slot.bind d.slotPart = some r.part ∧ d.readFails r = true
      (r.data = .page → (fails → exec (.nandPageReadDone r) s = .next { s with chip := d.imageReject 0x0C }) ∧
        (¬ fails → exec (.nandPageReadDone r) s = .next { s with chip := d })) ∧
      (∀ (ch : Bool) (a : Option AnchorRec), r.data = .anchor ch a →
        let e := d.anchorRead (b2n ch) a
        (booting → e.noAnchor = true → exec (.nandPageReadDone r) s = .next { s with chip := e.noStore }) ∧
        ((¬ booting ∨ e.noAnchor = false) → exec (.nandPageReadDone r) s = .next { s with chip := e })) ∧
      (∀ copy : Bool, r.data = .directory copy →
        let e := d.dirRead copy (d.dirFound r)
        let first := booting ∧ d.nand.noCount = true ∧ e.nand.noCount = false ∧ e.boot.hdrOk = false
        (first → exec (.nandPageReadDone r) s = .next { s with chip := e.slotTry e.slotOrder }) ∧
        (¬ first → exec (.nandPageReadDone r) s = .next { s with chip := e }))) ∧
    (∀ d : DirRec, validDir c.nand.copies = some d → exec .directoryRepair s = .next { s with chip := (
      let x := if c.nand.dirWorn.1 then c.nand.copies.1 else some d
      let y := if c.nand.dirWorn.2 then c.nand.copies.2 else some d
      ({ c with nand := { c.nand with copies := (x, y) } }).dirShown) }) ∧
    (validDir c.nand.copies = none → exec .directoryRepair s = .next s) ∧
    (c.sched.cyc < c.nand.tokDue → exec .installTokenAccrue s = .next s) ∧
    (c.nand.tokDue ≤ c.sched.cyc → exec .installTokenAccrue s = .next { s with chip := (
      let d := { c with nand := { c.nand with tokDue := c.sched.cyc + 17280000000000 } }
      (d.setDir { c.nand.dir with insttok := min 16 (c.nand.dir.insttok + 1) }).dirShown) }) ∧
    (c.sched.cyc < c.nand.goldDue → exec .goldenTokenAccrue s = .next s) ∧
    (c.nand.goldDue ≤ c.sched.cyc → exec .goldenTokenAccrue s = .next { s with chip := (
      let d := { c with nand := { c.nand with goldDue := c.sched.cyc + 2073600000000000 } }
      (d.setDir { c.nand.dir with goldtok := min 2 (c.nand.dir.goldtok + 1) }).dirShown) }) ∧
    ((∀ t : Nat, c.nand.logAt = some t → t + 8000000000 ≤ c.sched.cyc) → c.nand.logPage ≠ [] → c.nand.logStopped = false →
      exec .logPageProgram s = .next { s with chip := (
        let l := (c.nand.logPage :: c.nand.log).take 16384
        { c with nand := { c.nand with log := l, logPage := [], logAt := some c.sched.cyc } }) }) ∧
    (c.nand.logStopped = true → exec .logPageProgram s = .next s) ∧
    (c.nand.logPage = [] → exec .logPageProgram s = .next s) ∧
    (∀ t : Nat, c.nand.logAt = some t → c.sched.cyc < t + 8000000000 → exec .logPageProgram s = .next s) ∧
    (∀ t : Nat, c.nand.reelAt = some t → c.sched.cyc < t + 800000000 → exec .reelPageProgram s = .next s) ∧
    ((∀ t : Nat, c.nand.reelAt = some t → t + 800000000 ≤ c.sched.cyc) → c.imagesWait = true →
      exec .reelPageProgram s = .next { s with chip := c.programReel }) ∧
    (c.imagesWait = false → exec .reelPageProgram s = .next s)

/-- R461–R465, R475–R477: the fourteen commands of a group's bring-up, alignment and idle. -/
def Obligations.StrandBringUp : Prop :=
  (∀ (s : State) (n : Fin 64) (g : Nat), s.chip.grpOf n.val = some g →
    let c := s.chip
    (c.grpState g ≠ strDetect → ∀ b : Bool, exec (.receiverDetect n b) s = .next s) ∧
    (c.grpState g = strDetect → c.clk.dead = false →
      ∀ b : Bool, let d := c.setB R.STR_LANESTAT_RXDET n.val b
      ((d.grpLanes g).all (fun m => d.on R.STR_LANESTAT_RXDET m) = false → exec (.receiverDetect n b) s = .next { s with chip := d }) ∧
      ((d.grpLanes g).all (fun m => d.on R.STR_LANESTAT_RXDET m) = true →
        exec (.receiverDetect n b) s = .next { s with chip := d.lockBegin g })) ∧
    (c.clk.dead = true → ∀ b : Bool, exec (.receiverDetect n b) s = .next s) ∧
    (∀ (ts : List Byte) (inv : Bool) (call : Option (Fin 6)),
      let st := c.grpState g
      ((tsValid ts = false ∨ st = strDetect) → exec (.trainingSetRx n ts inv call) s = .next s) ∧
      (tsValid ts = true →
        (st = strActive → exec (.trainingSetRx n ts inv call) s = .next { s with chip := c.grpDown g }) ∧
        (st = strIdle → exec (.trainingSetRx n ts inv call) s = .next { s with chip := c.setGrp g { c.grp g with retrainAfter := true } }) ∧
        (st ≠ strDetect → st ≠ strActive → st ≠ strIdle →
          exec (.trainingSetRx n ts inv call) s = .next { s with chip := c.tsHeard g n.val ts inv call }))) ∧
    (c.grpUp g = true → exec (.eieReceived n) s =
      .next { s with chip := (c.set R.STR_LANESTAT_EI n.val 1).set R.STR_LANESTAT_SIGDET n.val 0 }) ∧
    (c.grpUp g = false → exec (.eieReceived n) s = .next s) ∧
    (c.on R.STR_LANESTAT_EI n.val = true → exec (.exitBurstReceived n) s = .next { s with chip := (
      let d := ((c.set R.STR_LANESTAT_EI n.val 0).set R.STR_LANESTAT_SIGDET n.val 1).set R.STR_LANESTAT_SYMLOCK n.val 1
      d.setGrp g { d.grp g with waitAm := true }) }) ∧
    (c.on R.STR_LANESTAT_EI n.val = false → exec (.exitBurstReceived n) s = .next s)) ∧
  (∀ (s : State) (n : Fin 64), s.chip.grpOf n.val = none →
    (∀ b : Bool, exec (.receiverDetect n b) s = .next s) ∧ exec (.eieReceived n) s = .next s ∧ exec (.exitBurstReceived n) s = .next s ∧
    ∀ (ts : List Byte) (inv : Bool) (call : Option (Fin 6)), exec (.trainingSetRx n ts inv call) s = .next s) ∧
  (∀ (s : State) (n : Fin 64) (how : LockLoss) (k : Nat),
    let b := s.chip.bump R.STR_CODEERR n.val k
    let quiet := how = .signal ∧ b.on R.STR_LANESTAT_EI n.val = true
    let d := b.set R.STR_LANESTAT_SYMLOCK n.val 0
    let d := if how = .signal then d.set R.STR_LANESTAT_SIGDET n.val 0 else d
    let e := d.setStrLane n.val { d.strLane n.val with run := 0, same := 0 }
    (quiet → exec (.lossOfLock n how k) s = .next { s with chip := b }) ∧
    (¬ quiet →
      (e.grpOf n.val = none → exec (.lossOfLock n how k) s = .next { s with chip := e }) ∧
      (∀ g : Nat, e.grpOf n.val = some g →
        let stays := e.grpUp g = false ∨ (e.grpState g = strIdle ∧ (e.grp g).retrainAfter = true)
        (stays → exec (.lossOfLock n how k) s = .next { s with chip := e }) ∧
        (¬ stays → exec (.lossOfLock n how k) s = .next { s with chip := e.grpDown g })))) ∧
  (∀ (s : State) (g : Fin 64), s.chip.grpOn g.val = false →
    exec (.bringupStepTimeout g) s = .next s ∧ exec (.rateLockTimeout g) s = .next s ∧ exec (.tapAdjustTimeout g) s = .next s ∧
    exec (.alignmentMarkerSend g) s = .next s ∧ (∀ l : List Nat, exec (.alignmentMarkerRx g l) s = .next s) ∧
    exec (.electricalIdleEntry g) s = .next s ∧ exec (.electricalIdleExit g) s = .next s) ∧
  (∀ (s : State) (g : Fin 64), s.chip.grpOn g.val = true →
    let c := s.chip
    let q := c.grp g.val
    let st := c.grpState g.val
    (st ≠ strDetect → c.grpUp g.val = false → q.failAt = none → q.from0 + c.stepLimit g.val ≤ c.sched.cyc →
      (q.retrain = true → q.fails < 2 → exec (.bringupStepTimeout g) s =
        .next { s with chip := (c.setGrp g.val { q with fails := q.fails + 1 }).grpRetrain g.val }) ∧
      (q.retrain = false ∨ 2 ≤ q.fails → exec (.bringupStepTimeout g) s =
        .next { s with chip := (c.bump R.STR_RETRAINS_FULL g.val).grpRestart g.val })) ∧
    ((st = strDetect ∨ c.grpUp g.val = true ∨ q.failAt.isSome = true ∨ c.sched.cyc < q.from0 + c.stepLimit g.val) →
      exec (.bringupStepTimeout g) s = .next s) ∧
    (st = strStepUp → q.rateFrom + 8000000 ≤ c.sched.cyc → 0 < c.get R.STR_GRPSTAT_RATE g.val →
      exec (.rateLockTimeout g) s = .next { s with chip := (
        let lower := ((List.range (c.get R.STR_GRPSTAT_RATE g.val)).filter (fun x => bit q.rates x)).foldl max 0
        let d := (c.unlockLanes g.val).set R.STR_GRPSTAT_RATE g.val lower
        d.setGrp g.val { d.grp g.val with rateFrom := d.sched.cyc }) }) ∧
    ((st ≠ strStepUp ∨ c.sched.cyc < q.rateFrom + 8000000 ∨ c.get R.STR_GRPSTAT_RATE g.val = 0) → exec (.rateLockTimeout g) s = .next s) ∧
    (st = strTaps → q.tapFrom + 400000000 ≤ c.sched.cyc → exec (.tapAdjustTimeout g) s = .next { s with chip := c.startDeskew g.val }) ∧
    ((st ≠ strTaps ∨ c.sched.cyc < q.tapFrom + 400000000) → exec (.tapAdjustTimeout g) s = .next s) ∧
    (∀ t : Nat, q.failAt = some t → t + 800000000 ≤ c.sched.cyc →
      (q.cfgFail = true → exec (.exchangeRetry g) s = .next { s with chip := c.grpRestart g.val }) ∧
      (q.cfgFail = false → exec (.exchangeRetry g) s = .next { s with chip := (
        let d := c.each (c.grpLanes g.val) (fun d m => d.setStrLane m { d.strLane m with same := 0, tsb := 0, sent := 0 })
        d.setGrp g.val { d.grp g.val with failAt := none, from0 := d.sched.cyc }) })) ∧
    (∀ t : Nat, q.failAt = some t → c.sched.cyc < t + 800000000 → exec (.exchangeRetry g) s = .next s) ∧
    (q.failAt = none → exec (.exchangeRetry g) s = .next s) ∧
    (st = strDeskew ∨ st = strActive → c.clk.dead = false → exec (.alignmentMarkerSend g) s =
      .next { s with chip := c.setGrp g.val { q with amTx := (q.amTx + 1) % 16, wire := markerSymbols (c.grpWidth g.val) q.amTx } }) ∧
    ((st ≠ strDeskew ∧ st ≠ strActive) ∨ c.clk.dead = true → exec (.alignmentMarkerSend g) s = .next s) ∧
    (∀ skews : List Nat, let d := c.each (List.range (c.grpLanes g.val).length) (fun c i =>
        c.set R.STR_LANESTAT_SKEW (g.val + i) (min 128 (skews.getD i 0)))
      let ok := skews.all (fun x => decide (x ≤ 128))
      let q := d.grp g.val
      let n := if ok then q.amRun + 1 else 0
      let e := d.setGrp g.val { q with amRun := n, amAt := d.sched.cyc }
      (st ≠ strDeskew → c.grpUp g.val = false → exec (.alignmentMarkerRx g skews) s = .next s) ∧
      (st = strDeskew → n < 4 → exec (.alignmentMarkerRx g skews) s = .next { s with chip := e }) ∧
      (st = strDeskew → 4 ≤ n → exec (.alignmentMarkerRx g skews) s = .next { s with chip := (
        let x := { e.grp g.val with txSeq := 0, rxSeq := 0, retrain := false, fails := 0, remote := none, lastTx := e.sched.cyc }
        (e.setGrp g.val x).setGrpState g.val strActive) }) ∧
      (st ≠ strDeskew → c.grpUp g.val = true → exec (.alignmentMarkerRx g skews) s = .next { s with chip := (
        d.setGrp g.val { q with amAt := d.sched.cyc, waitAm := false }) })) ∧
    (let w := if c.get R.STR_GRPCFG_EIWAIT g.val = 0 then 16 else c.get R.STR_GRPCFG_EIWAIT g.val;
      let idle := st = strActive ∧ c.get R.STR_GRPSTAT_VER g.val = 2 ∧ c.on R.STR_GRPCFG_EIALLOW g.val = true ∧ bit q.caps 1 = true ∧
        q.lastTx + 256 * w ≤ c.sched.cyc;
      (idle → exec (.electricalIdleEntry g) s = .next { s with chip := (
        let l := List.replicate (c.grpWidth g.val) symEie
        (c.setGrp g.val { q with wire := l }).setGrpState g.val strIdle) }) ∧
      (¬ idle → exec (.electricalIdleEntry g) s = .next s)) ∧
    (let out := (markerSymbols (c.grpWidth g.val) q.amTx).map (symExit ++ ·);
      let d := (c.setGrp g.val { q with amTx := (q.amTx + 1) % 16, lastTx := c.sched.cyc, wire := out }).setGrpState g.val strActive;
      (st = strIdle → q.retrainAfter = false → exec (.electricalIdleExit g) s = .next { s with chip := d }) ∧
      (st = strIdle → q.retrainAfter = true → exec (.electricalIdleExit g) s = .next { s with chip := d.grpDown g.val })) ∧
    (st ≠ strIdle → exec (.electricalIdleExit g) s = .next s))

/-- R469: the receiver's checks (after the code errors of its lanes have counted in CODEERR), and R467, R468, R474 for what a group sends. -/
def Obligations.StrandFrames : Prop :=
  (∀ (s : State) (g : Fin 64) (f : StrandFrame) (c : Chip),
    c = s.chip.each f.errLanes (fun c n => if n < 64 then c.bump R.STR_CODEERR n else c) →
    (c.grpOn g.val = false ∨ c.grpUp g.val = false ∨ (c.grp g.val).waitAm = true) →
      exec (.strandFrameRx g f) s = .next { s with chip := c }) ∧
  (∀ (s : State) (g : Fin 64) (f : StrandFrame) (c : Chip),
    c = s.chip.each f.errLanes (fun c n => if n < 64 then c.bump R.STR_CODEERR n else c) →
    c.grpOn g.val = true → c.grpUp g.val = true → (c.grp g.val).waitAm = false →
    let q := c.grp g.val
    let len := leAt f.bytes 4 2 % 8192
    let ext := extendSeq q.rxSeq (leAt f.bytes 2 2)
    let type := leAt f.bytes 0 2 / 1024
    let flow := leAt f.bytes 0 2 % 1024
    let crcOk := (strandCrc (c.get R.STR_GRPSTAT_VER g.val == 0) ext (f.bytes.take (6 + len))).toNat = leAt f.bytes (6 + len) 4
    (f.err = true → exec (.strandFrameRx g f) s = .next { s with chip := c.bump R.STR_ABORTFRM_RX g.val }) ∧
    (f.err = false → (f.codeError = true ∨ f.timely = false) → exec (.strandFrameRx g f) s =
      .next { s with chip := c.bump R.STR_CRCERR g.val }) ∧
    (f.err = false → f.codeError = false → f.timely = true →
      (f.bytes.length ≠ 10 + len → exec (.strandFrameRx g f) s = .next { s with chip := c.bump R.STR_CRCERR g.val }) ∧
      (f.bytes.length = 10 + len →
        ((¬crcOk ∨ later 32 q.rxSeq ext = true) → exec (.strandFrameRx g f) s = .next { s with chip := c.bump R.STR_CRCERR g.val }) ∧
        (crcOk → later 32 q.rxSeq ext = false →
          (c.typeAllowed g.val type = false → exec (.strandFrameRx g f) s = .next { s with chip := c.bump R.STR_DROPFRM g.val }) ∧
          (c.typeAllowed g.val type = true → (type = 1 ∨ type = 2) → c.flowBound g.val type flow = false →
            exec (.strandFrameRx g f) s = .next { s with chip := c.bump R.STR_DROPFRM g.val }) ∧
          (c.typeAllowed g.val type = true → ((type ≠ 1 ∧ type ≠ 2) ∨ c.flowBound g.val type flow = true) →
            exec (.strandFrameRx g f) s = .next { s with chip := (
              let d := (c.bump R.STR_SEQGAP g.val (sdiff 32 ext q.rxSeq).toNat).setGrp g.val { q with rxSeq := (ext + 1) % 2 ^ 32 }
              (d.count2 R.STR_FRMRXLO R.STR_FRMRXHI g.val).strandDeliver g.val type flow f.at_ ((f.bytes.drop 6).take len)) }))))) ∧
  (∀ (s : State) (g : Fin 64),
    let c := s.chip
    let up := c.grpOn g.val = true ∧ c.grpState g.val = strActive ∧ c.clk.dead = false
    (up →
      (∀ (o turn line soff : Nat) (px : Nat) (ok : Bool), exec (.strandFrameSend g (.raster o turn line soff px ok) true) s =
        .next { s with chip := (
          let r := c.rasterSegment g.val o turn line soff px ok
          r.1.strandSend g.val 1 (r.1.get R.CMP_OUTCFG_FLOW o) r.2 false) }) ∧
      (∀ flow turn : Nat, exec (.strandFrameSend g (.anc flow turn) true) s =
        .next { s with chip := c.strandSend g.val 2 flow (c.ancPayload g.val flow turn) false }) ∧
      (∀ (type : Nat) (pay : List Byte) (bad : Bool), exec (.strandFrameSend g (.other type pay bad) true) s =
        .next { s with chip := c.strandSend g.val type 0 pay (bad && (type == 0x09 || type == 0x10)) })) ∧
    (c.grpOn g.val = false → ∀ (x : StrandSend) (fits : Bool), exec (.strandFrameSend g x fits) s = .next s) ∧
    (c.grpOn g.val = true → ∀ (x : StrandSend) (fits : Bool), (¬ up ∨ fits = false) →
      (strandDynamic x = true → exec (.strandFrameSend g x fits) s = .next s) ∧
      (strandDynamic x = false → exec (.strandFrameSend g x fits) s = .next { s with chip := c.bump R.STR_DROPFRM g.val })) ∧
    (up → c.get R.STR_GRPSTAT_VER g.val = 2 → bit (c.grp g.val).caps 4 = true →
      exec (.remoteStatusSend g) s = .next { s with chip := (
        let pay := leBytes 4 (c.get R.STR_CRCERR g.val) ++ leBytes 4 (c.get R.STR_SEQGAP g.val)
        c.strandSend g.val 0x3E 0 pay false) }) ∧
    ((¬ up ∨ c.get R.STR_GRPSTAT_VER g.val ≠ 2 ∨ bit (c.grp g.val).caps 4 = false) →
      exec (.remoteStatusSend g) s = .next s)) ∧
  (∀ (c : Chip) (g type flow : Nat) (pay : List Byte), tabWf (fun _ => ({} : StrGroup)) c.str.groups = true →
    ((c.strandSend g type flow pay false).grp g).txSeq = ((c.grp g).txSeq + 1) % 2 ^ 32)

/-- R491: the in-service stack, over every state of the controller. -/
def Obligations.InServiceStack : Prop :=
  ∀ (s : State) (k : Fin 16), s.Inv → tabWf (fun _ => ({} : CoreRun)) s.chip.svc.cores = true →
    let c := s.chip
    let stack := (c.core k.val).stack
    let fits (n : Nat) : Prop := n < 1024 ∧ c.deliverable n = true ∧ c.toCore n = true ∧ c.get R.SVC_SRCCFG_TARGET n = k.val ∧
      c.on R.SVC_SRCCFG_FAST n = false ∧ c.get R.SVC_THRESH k.val < c.srcPrio n ∧ ∀ t ∈ stack.head?, c.srcPrio t < c.srcPrio n
    (∀ n : Nat, fits n → (∀ m : Nat, fits m → c.srcPrio m < c.srcPrio n ∨ (c.srcPrio m = c.srcPrio n ∧ n ≤ m)) →
      c.on R.SVC_CORESTAT_INFAST k.val = false → stack.length < 8 →
      ∃ d : Chip, exec (.claim k) s = .next { s with chip := d } ∧ d.on R.SVC_CLAIM_VALID k.val = true ∧
        d.get R.SVC_CLAIM_SOURCE k.val = n ∧ (d.core k.val).stack = n :: stack ∧ d.on R.SVC_SRCSTAT_PEND n = false) ∧
    ((c.on R.SVC_CORESTAT_INFAST k.val = true ∨ 8 ≤ stack.length ∨ ∀ n : Nat, ¬fits n) →
      exec (.claim k) s = .next { s with chip := (c.set R.SVC_CLAIM_VALID k.val 0).set R.SVC_CLAIM_SOURCE k.val 0 }) ∧
    (∀ (v : Word) (n : Nat) (l : List Nat), stack = n :: l →
      (bits v.toNat 9 0 = n → exec (.complete k v) s = .next { s with chip := (c.popStack k.val).deliverAll } ∧
        ((c.popStack k.val).core k.val).stack = l ∧
        (n < 1024 → c.get R.SVC_SRCCFG_SENSE n = 0 → c.on R.SVC_SRCCFG_EN n = true → c.on R.SVC_SRCSTAT_LEVEL n = true →
          c.masked n = false → (c.popStack k.val).on R.SVC_SRCSTAT_PEND n = true)) ∧
      (bits v.toNat 9 0 ≠ n → exec (.complete k v) s = .next { s with chip := (c.set R.SVC_CORESTAT_OOO k.val 1).serviceFault k.val } ∧
        (((c.set R.SVC_CORESTAT_OOO k.val 1).serviceFault k.val).core k.val).stack = stack)) ∧
    (∀ v : Word, stack = [] →
      exec (.complete k v) s = .next { s with chip := (c.set R.SVC_CORESTAT_OOO k.val 1).serviceFault k.val }) ∧
    (∀ n : Nat, ((c.fastEntry k.val n).core k.val).stack = n :: stack) ∧
    (∀ fw : FwCore, c.on R.SVC_CORESTAT_INFAST k.val = true → exec (.fret k fw) s = .next { s with chip := (
      let x := swapBank (c.core k.val)
      (((c.setCore k.val { x with pc := x.fxepc }).set R.SVC_CORESTAT_INFAST k.val 0).popStack k.val).deliverAll) }) ∧
    (∀ fw : FwCore, c.on R.SVC_CORESTAT_INFAST k.val = false → exec (.fret k fw) s = .next { s with chip := (
      let x : CoreRun := { c.core k.val with mepc := fw.pc, mcause := 2, pc := fw.mtvec &&& ~~~ 3#64, mtvec := fw.mtvec, mpie := fw.mie, mie := false }
      c.setCore k.val x) })

/-- R487–R500: the commands of the interrupt controller and of the scheduler other than CLAIM, COMPLETE and FRET. -/
def Obligations.InterruptsAndItems : Prop :=
  ∀ s : State,
    let c := s.chip
    (∀ (n : Fin 1024) (fw : FwCore),
      let t := c.get R.SVC_SRCCFG_TARGET n.val
      let runs := c.toCore n.val = true ∧ t < 16 ∧ c.on R.SVC_CORESTAT_INFAST t = false
      (¬ runs → exec (.interruptSense n fw) s = .next { s with chip := c.sense n.val }) ∧
      (runs → exec (.interruptSense n fw) s = .next { s with chip := (c.firmware t fw).sense n.val })) ∧
    (∀ n : Fin 1024,
      let us := c.get R.SVC_COALCFG_COALUS n.val
      let us := if us = 0 ∧ 1 < c.get R.SVC_COALCFG_COALCNT n.val then 1000 else us
      (∀ t : Nat, (c.src n.val).accumAt = some t → us ≠ 0 → t + us * 800 ≤ c.sched.cyc → exec (.coalesceTimeout n) s =
        .next { s with chip := (c.setSrc n.val { c.src n.val with timed := true }).deliverAll }) ∧
      (((c.src n.val).accumAt = none ∨ us = 0 ∨ ∃ t : Nat, (c.src n.val).accumAt = some t ∧ c.sched.cyc < t + us * 800) →
        exec (.coalesceTimeout n) s = .next s)) ∧
    (∀ n : Fin 1024,
      let due := (c.src n.val).winFrom + max 1 (c.get R.SVC_ICGLOBAL_STORMWIN) * 800000
      let max_ := c.get R.SVC_STORMCFG_EDGEMAX n.val
      let hit := max_ ≠ 0 ∧ max_ < (c.src n.val).winCount ∧ c.on R.SVC_SRCSTAT_STORM n.val = false
      (c.sched.cyc < due → exec (.stormWindow n) s = .next s) ∧
      (due ≤ c.sched.cyc → ∀ d : Chip, (hit → d = c.storm n.val) → (¬ hit → d = c) → exec (.stormWindow n) s = .next { s with chip := (
        d.setSrc n.val { d.src n.val with winCount := 0, winFrom := d.sched.cyc }) })) ∧
    (∀ n : Fin 1024,
      let held := c.on R.SVC_SRCCFG_EN n.val = true ∧ c.get R.SVC_SRCCFG_SENSE n.val = 0 ∧ c.on R.SVC_SRCSTAT_LEVEL n.val = true ∧
        c.get R.SVC_STORMCFG_LEVELMAX n.val ≠ 0 ∧
        (c.src n.val).heldFrom + c.get R.SVC_STORMCFG_LEVELMAX n.val * 800000 < c.sched.cyc ∧ c.on R.SVC_SRCSTAT_STORM n.val = false
      (held → exec (.levelmaxExpiry n) s = .next { s with chip := (c.storm n.val).set R.SVC_SRCSTAT_PEND n.val 0 }) ∧
      (¬ held → exec (.levelmaxExpiry n) s = .next s)) ∧
    (∀ v : Word, c.get R.SVC_SRCCFG_KIND (bits v.toNat 9 0) = 2 → exec (.hostack v) s = .next { s with chip := c.unpend (bits v.toNat 9 0) }) ∧
    (∀ v : Word, c.get R.SVC_SRCCFG_KIND (bits v.toNat 9 0) ≠ 2 → exec (.hostack v) s = .next s) ∧
    (∀ v : Word, let d := (c.set R.SVC_ICGLOBAL_DIS 0 (bits v.toNat 31 31)).set R.SVC_ICGLOBAL_STORMWIN 0 (bits v.toNat 15 0)
      exec (.icglobalWrite v) s = .next { s with chip := if bit v.toNat 31 then d else d.deliverAll }) ∧
    (∀ (n : Fin 96) (h : Bool), exec (.eventPinEdge n h) s =
      .next { s with chip := if c.on R.SVC_EVCFG_DIR n.val then c else (c.pinLevel n.val h).deliverAll }) ∧
    (∀ (i : Fin 3) (v : Word), let d := c.set R.SVC_EVOUT i.val v.toNat
      exec (.evoutWrite i v) s =
        .next { s with chip := (d.drivePins 0 (fun n => bit (d.get R.SVC_EVOUT (n / 32)) (n % 32))).deliverAll }) ∧
    (∀ (q : Fin 256) (v : Word), let e := (c.queue q.val).enq
      (c.queueRoom q.val = true → exec (.enqueue q v) s =
        .next { s with chip := (c.enqueue q.val ⟨e.1 + 2 ^ 32 * e.2.1, e.2.2, v.toNat % 65536, v.toNat / 65536⟩).dispatch }) ∧
      (c.queueRoom q.val = false → exec (.enqueue q v) s = .next { s with chip := c.set R.SVC_WQSTAT_REJECT q.val 1 })) ∧
    (∀ (q : Fin 256) (t : Nat), (c.queue q.val).waitFrom = some t → t + c.get R.SVC_WQTIME_AFFWAIT q.val * 800 ≤ c.sched.cyc →
      exec (.affwaitExpiry q) s =
        .next { s with chip := (c.setQueue q.val { c.queue q.val with waitFrom := none, waited := true }).dispatch }) ∧
    (∀ q : Fin 256, ((c.queue q.val).waitFrom = none ∨
      ∃ t : Nat, (c.queue q.val).waitFrom = some t ∧ c.sched.cyc < t + c.get R.SVC_WQTIME_AFFWAIT q.val * 800) →
      exec (.affwaitExpiry q) s = .next s) ∧
    (∀ k : Fin 16,
      ((c.core k.val).offer = none → exec (.take k) s =
        .next { s with chip := (c.set R.SVC_TAKE_VALID k.val 0).set R.SVC_TAKE_QUEUE k.val 0 }) ∧
      (∀ q : Nat, (c.core k.val).offer = some q → (c.queue q).items = [] → exec (.take k) s =
        .next { s with chip := (c.setCore k.val { c.core k.val with offer := none }).set R.SVC_TAKE_VALID k.val 0 }) ∧
      (∀ (q : Nat) (w : WorkItem) (l : List WorkItem), (c.core k.val).offer = some q → (c.queue q).items = w :: l →
        exec (.take k) s = .next { s with chip := (
          let d := c.setQueue q { c.queue q with items := l, last := some k.val }
          let d := d.setCore k.val { c.core k.val with offer := none, item := some w, takenAt := c.sched.cyc, late := false }
          let d := ((d.set R.SVC_CORESTAT_HOLDING k.val 1).set R.SVC_CORESTAT_LASTQ k.val q).set R.SVC_WQSTAT_LASTCORE q k.val
          ((d.set R.SVC_TAKE_VALID k.val 1).set R.SVC_TAKE_QUEUE k.val q).deliverAll) }) ∧
      (∀ v : Word, bit v.toNat 31 = true → c.on R.SVC_CORESTAT_HOLDING k.val = true → exec (.done k v) s = .next { s with chip := (
        let d := c.setCore k.val { c.core k.val with item := none, late := false }
        let d : Chip := { d with svc := { d.svc with doneAt := d.sched.cyc } }
        (d.set R.SVC_CORESTAT_HOLDING k.val 0).dispatch) }) ∧
      (∀ v : Word, bit v.toNat 31 = false ∨ c.on R.SVC_CORESTAT_HOLDING k.val = false → exec (.done k v) s = .next s) ∧
      (c.on R.SVC_CORESTAT_HOLDING k.val = true → (c.core k.val).late = false →
        (c.core k.val).takenAt + c.itemUs (c.get R.SVC_CORESTAT_LASTQ k.val) * 800 ≤ c.sched.cyc → exec (.itemOverrun k) s =
          .next { s with chip := ((c.setCore k.val { c.core k.val with late := true }).set R.SVC_CORESTAT_OVERRUN k.val 1).serviceFault k.val }) ∧
      ((c.on R.SVC_CORESTAT_HOLDING k.val = false ∨ (c.core k.val).late = true ∨
        c.sched.cyc < (c.core k.val).takenAt + c.itemUs (c.get R.SVC_CORESTAT_LASTQ k.val) * 800) →
        exec (.itemOverrun k) s = .next s) ∧
      ((c.core k.val).late = true →
        (c.core k.val).takenAt + c.itemUs (c.get R.SVC_CORESTAT_LASTQ k.val) * 800 + 800000000 ≤ c.sched.cyc →
        exec (.coreReset k) s = .next { s with chip := c.resetCore k.val }) ∧
      (((c.core k.val).late = false ∨
        c.sched.cyc < (c.core k.val).takenAt + c.itemUs (c.get R.SVC_CORESTAT_LASTQ k.val) * 800 + 800000000) →
        exec (.coreReset k) s = .next s) ∧
      (c.on R.SVC_CORESTAT_INFAST k.val = true → (c.core k.val).fastAt + 800000 ≤ c.sched.cyc →
        exec (.fastHandlerTimeout k) s = .next { s with chip := c.resetCore k.val }) ∧
      ((c.on R.SVC_CORESTAT_INFAST k.val = false ∨ c.sched.cyc < (c.core k.val).fastAt + 800000) →
        exec (.fastHandlerTimeout k) s = .next s)) ∧
    (c.svc.doneAt + 1600000000 ≤ c.sched.cyc → (∃ q ∈ c.svc.queues, q.2.items ≠ []) → exec .serviceWatchdog s = .next { s with chip := (
      { c.flushReel 9 with boot := { c.boot with warmAfterFlush := some 2 } }) }) ∧
    ((c.sched.cyc < c.svc.doneAt + 1600000000 ∨ ∀ q ∈ c.svc.queues, q.2.items = []) → exec .serviceWatchdog s = .next s)

/-- R503, R518: RING_ENABLE, SQ_DOORBELL, CQ_HEAD_WRITE, REEL_READ, REEL_TOKEN_QUERY and REEL_NAND_FETCH_DONE. -/
def Obligations.RingsAndReel : Prop :=
  ∀ (s : State) (v : Word), s.Inv →
    let c := s.chip
    (let d := (c.set R.SVC_RINGCFG_LOG2 0 (v.toNat % 16)).setB R.SVC_RINGCFG_EN 0 (bit v.toNat 31);
      let starts := d.ringsOn = true ∧ c.ringsOn = false;
      (¬ starts → exec (.ringEnable v) s = .next { s with chip := d }) ∧
      (starts → exec (.ringEnable v) s = .next { s with chip := (
        let e := d.set R.SVC_SQHEAD 0 0
        let x := { e.svc with sqTail := 0, cqHead := 0, cqNext := 0, cqPhase := true, ring := [], posts := [], hello := false }
        { e with svc := x }) }) ∧
      (d.ringsOn = true ↔ bit v.toNat 31 = true ∧ 4 ≤ v.toNat % 16 ∧ v.toNat % 16 ≤ 12)) ∧
    (c.ringsOn = true → exec (.sqDoorbell v) s =
      .next { s with chip := { c with svc := { c.svc with sqTail := v.toNat % 4096 % c.ringSize } } }) ∧
    (c.ringsOn = false → exec (.sqDoorbell v) s = .next s ∧ exec (.cqHeadWrite v) s = .next s) ∧
    (∀ (h k : Nat), c.ringsOn = true → h = v.toNat % 4096 % c.ringSize → k = (h + c.ringSize - c.svc.cqHead) % c.ringSize →
      (k ≤ c.ringHeld → exec (.cqHeadWrite v) s = .next { s with chip := (
        ({ c with svc := { c.svc with cqHead := h, ring := c.svc.ring.drop k } }).ringPump c.svc.posts) }) ∧
      (c.ringHeld < k → exec (.cqHeadWrite v) s = .next s)) ∧
    (c.on R.REEL_RDSTAT_BUSY = true → exec (.reelRead v) s = .next { s with chip := c.set R.REEL_RDSTAT_COLLIDE 0 1 } ∧
      (bit v.toNat 31 = true → exec (.reelTokenQuery v) s = .next { s with chip := c.set R.REEL_RDSTAT_COLLIDE 0 1 })) ∧
    (c.on R.REEL_RDSTAT_BUSY = false →
      let d := c.set R.REEL_RDSEQHI 0 v.toNat
      (∀ e : ReelEntry, d.reelEntry d.reelRdseq = some e →
        exec (.reelRead v) s = .next { s with chip := d.reelShow (some e) false }) ∧
      (d.reelEntry d.reelRdseq = none → d.reelRdseq < d.get2 R.REEL_OLDLO R.REEL_OLDHI → d.reelRdseq ≠ 0 →
        exec (.reelRead v) s = .next { s with chip := d.reelFetch false }) ∧
      (d.reelEntry d.reelRdseq = none → (d.get2 R.REEL_OLDLO R.REEL_OLDHI ≤ d.reelRdseq ∨ d.reelRdseq = 0) →
        exec (.reelRead v) s = .next { s with chip := d.reelShow none false })) ∧
    (c.on R.REEL_RDSTAT_BUSY = false → bit v.toNat 31 = true →
      let hit (e : ReelEntry) : Bool := e.token == c.get2 R.REEL_TOKLO R.REEL_TOKHI && e.origin == v.toNat % 256
      (∀ e : ReelEntry, c.svc.reel.find? hit = some e → exec (.reelTokenQuery v) s =
        .next { s with chip := (c.set2 R.REEL_RDSEQLO R.REEL_RDSEQHI 0 e.seq).reelShow (some e) false }) ∧
      (c.svc.reel.find? hit = none → exec (.reelTokenQuery v) s = .next { s with chip := (
        let x := { c.svc with query := (c.get2 R.REEL_TOKLO R.REEL_TOKHI, v.toNat % 256) }
        ({ c with svc := x }).reelFetch true) })) ∧
    (∀ (d : Chip) (b : Bool), d.Canonical → (d.reelFetch b).svc.fetch = some b ∧ (d.reelFetch b).on R.REEL_RDSTAT_BUSY = true ∧
      (d.reelFetch b).on R.REEL_RDSTAT_VALID = false) ∧
    (bit v.toNat 31 = false → exec (.reelTokenQuery v) s = .next s) ∧
    (c.svc.fetch = none → exec .reelNandFetchDone s = .next s) ∧
    (∀ b : Bool, c.svc.fetch = some b →
      let all := (c.reelImages.filterMap (·.2)).reverse
      let hit (e : ReelEntry) : Bool := if b then e.token == c.svc.query.1 && e.origin == c.svc.query.2 else e.seq == c.reelRdseq
      let d : Chip := { c with svc := { c.svc with fetch := none } }
      (all.find? hit = none → exec .reelNandFetchDone s = .next { s with chip := d.reelShow none false }) ∧
      (∀ e : ReelEntry, all.find? hit = some e →
        (b = true → exec .reelNandFetchDone s = .next { s with chip := (d.set2 R.REEL_RDSEQLO R.REEL_RDSEQHI 0 e.seq).reelShow (some e) true }) ∧
        (b = false → exec .reelNandFetchDone s = .next { s with chip := d.reelShow (some e) true }))) ∧
    (∀ (d : Chip) (e : Option ReelEntry) (x : Bool), d.Canonical → (d.reelShow e x).on R.REEL_RDSTAT_BUSY = false ∧
      (d.reelShow e x).on R.REEL_RDSTAT_VALID = e.isSome ∧ (e = none → (d.reelShow e x).on R.REEL_RDSTAT_NOTFOUND = true))

/-- R503–R509: the rows of the command table, in-band management, and the forwards of a pair's partner. -/
def Obligations.HostCommands : Prop :=
  (∀ (s : State) (m : CmdMsg),
    let run (a : CmdArg) : Host.Outcome State Fault Refusal := .next { s with chip := s.chip.hostCommand m a }
    (∀ v : Fin 16, exec (.variant m v) s = run (.variant v.val)) ∧ (∀ (t : RateTarget) (kb : Nat), exec (.trim m t kb) s = run (.trim t kb)) ∧
    (∀ t : MuteTarget, exec (.mute m t) s = run (.mute t) ∧ exec (.unmute m t) s = run (.unmute t)) ∧
    (∀ t : Member, exec (.forcesub m t) s = run (.forceSub t) ∧ exec (.release m t) s = run (.release t)) ∧
    (∀ x : SpliceArg, exec (.splice m x) s = run (.splice x)) ∧ 
    (∀ v : List Byte, exec (.keyload m v) s = .next { s with chip := s.chip.hostCommand { m with arg := v } .keyLoad }) ∧
    (∀ k : Fin 256, exec (.keyclear m k) s = run (.keyClear k.val)) ∧ (∀ p : Nat, exec (.selftest m p) s = run (.selfTest p)) ∧
    exec (.plySwitch m) s = run (.ply 1) ∧ exec (.plyHold m) s = run (.ply 2) ∧ exec (.plyUnhold m) s = run (.ply 3) ∧
    exec (.plyFence m) s = run (.ply 4) ∧ exec (.plyRejoin m) s = run (.ply 5) ∧ exec (.plyAlone m) s = run (.ply 6) ∧
    (∀ t : Nat, exec (.power m t) s = run (.power t)) ∧ (∀ (g : Bool) (n : Nat), exec (.installBegin m g n) s = run (.installBegin g n)) ∧
    (∀ (o : Nat) (b : List Byte), exec (.installData m o b) s = run (.installData o b)) ∧
    (∀ v : InstallBack, exec (.installCommit m v) s = run (.installCommit v)) ∧ exec (.installAbort m) s = run .installAbort ∧
    (∀ a f n : Nat, exec (.logread m a f n) s = run (.logRead a f n)) ∧ exec (.unknownCommand m) s = run .unknown) ∧
  (∀ (c : Chip) (m : CmdMsg) (a : CmdArg) (s : State), s.chip = c →
    let may (x : CmdArg) : Prop := c.ringsOn = true ∧ c.get R.SVC_SQHEAD ≠ c.svc.sqTail ∧ c.ringRoom = true ∧ c.svc.posts = [] ∧ codeFits m x = true
    let next := c.set R.SVC_SQHEAD 0 ((c.get R.SVC_SQHEAD + 1) % c.ringSize)
    (may a → c.hostCommand m a = next.submit 1 (.host (c.get R.SVC_SQHEAD)) m a) ∧ (¬ may a → c.hostCommand m a = c) ∧
    (may .hello → exec (.hello m) s = .next { s with chip := next.hello (.host (c.get R.SVC_SQHEAD)) m }) ∧
    (¬ may .hello → exec (.hello m) s = .next s)) ∧
  (∀ (c : Chip) (origin : Nat) (d : Answer) (m : CmdMsg) (a : CmdArg),
    let recent := c.svc.accepted.filter (fun t => decide (c.sched.cyc < t + 800000000))
    let token := c.tokenOf origin m
    let old := if token = 0 then none else c.svc.reel.find? (fun e => e.token == token && e.origin == origin)
    (∀ r : Nat, c.step1 origin m a = some r → c.submit origin d m a = c.reply d origin m r) ∧
    (c.step1 origin m a = none →
      (128 ≤ recent.length → c.submit origin d m a = c.reply d origin m 0x30) ∧
      (recent.length < 128 →
        (∀ e : ReelEntry, old = some e → c.submit origin d m a = c.answer d { e.completion true with code := msgCode m }) ∧
        (old = none →
          (∀ (o : Nat) (b : List Byte), a = .installData o b →
            c.submit origin d m a = (c.installData o b).1.reply d origin m (c.installData o b).2) ∧
          (∀ p f n : Nat, a = .logRead p f n → c.submit origin d m a = (c.logRead p f n).1.reply d origin m (c.logRead p f n).2) ∧
          (unjournaled a = false → c.submit origin d m a = c.journal origin d m a))))) ∧
  (∀ (s : State) (d : MgmtDatagram),
    (s.chip.mgmtTaken d = true → exec (.mgmtDatagram d) s = .next { s with chip := (
      let c := s.chip
      ({ c with svc := { c.svc with mgmtCnt := tset none c.svc.mgmtCnt (mgmtSlot d) (some (mgmtCounter d)) } }).submit 2
        (.mgmt (mgmtSlot d) d.source) (mgmtMsg d) (if codeFits (mgmtMsg d) d.cmd then d.cmd else .unknown)) }) ∧
    (s.chip.mgmtTaken d = false → exec (.mgmtDatagram d) s = .next { s with chip := s.chip.bump R.SVC_MGMTAUTHF 0 }) ∧
    (s.chip.mgmtTaken d = true ↔
      112 ≤ d.bytes.length ∧ (mgmtMsg d).arg.length ≤ 8192 ∧ mgmtSlot d ∈ s.chip.tables.mgmtSlots ∧
      s.chip.get R.SEC_KSSTAT_TYPE (mgmtSlot d) = 2 ∧
      s.chip.mgmtTag (mgmtSlot d) (mgmtBody d) = d.bytes.drop (d.bytes.length - 32) ∧
      ∀ n ∈ tget none s.chip.svc.mgmtCnt (mgmtSlot d), n < mgmtCounter d))

/-- R539–R561: FAULT_COLLECT, FIRSTREC_CLEAR, FAULTACK, SAFEREL, SELFTEST_PATTERNS_END, OVERLAP_END, TRANSIENT_AGE_OUT, PROOF_TEST_VISIT and
PTAGE_MINUTE. -/
def Obligations.Collector : Prop :=
  ∀ s : State, s.Inv →
    let c := s.chip
    (c.saf.inbox = [] → exec .faultCollect s = .next s) ∧
    (∀ (m : FaultMsg) (l : List FaultMsg), c.saf.inbox = m :: l → exec .faultCollect s = .next { s with chip := (
      (({ c with saf := { c.saf with inbox := l } }).collect m).colsShown) }) ∧
    (∃ d : Chip, exec .firstrecClear s = .next { s with chip := d } ∧
      (∀ w : Nat, w < 4 → d.rd (recAddr 0 w) = c.rd (recAddr 1 w) ∧ d.rd (recAddr 1 w) = 0) ∧
      ∀ a : Nat, (∀ w : Nat, w < 4 → a ≠ recAddr 0 w ∧ a ≠ recAddr 1 w) → d.rd a = c.rd a) ∧
    (c.on R.GLB_BOOTSTAT_INAIR = true → c.safLevel < 3 → exec .faultack s = .next { s with chip := c.set R.SAF_PINSTAT_FAULT_N 0 1 } ∧
      (c.set R.SAF_PINSTAT_FAULT_N 0 1).on R.SAF_PINSTAT_SAFE_STATE = c.on R.SAF_PINSTAT_SAFE_STATE) ∧
    (3 ≤ c.safLevel → exec .faultack s = .next s) ∧
    (c.on R.GLB_BOOTSTAT_INAIR = false → exec .faultack s = .next s ∧ exec .saferel s = .next s) ∧
    (c.on R.GLB_BOOTSTAT_INAIR = true → exec .saferel s = .next { s with chip := (
      let d := c.endReacts (fun r => r.ends == .release && (r.cls != 2 || c.timingOk))
      if d.safLevel < 3 then d.set R.SAF_PINSTAT_SAFE_STATE 0 0 else d) }) ∧
    (∀ f : Bool, exec (.selftestPatternsEnd f) s = .next { s with chip := (
      let l := c.saf.tests.map (fun t => if t.running then { t with ended := true, failed := t.failed || f } else t)
      { c with saf := { c.saf with tests := l } }) }) ∧
    (∀ pc : Fin 16, exec (.overlapEnd pc) s = .next { s with chip := (
      let l := c.saf.overlaps.filter (fun o => o.1 != pc.val)
      ({ c with saf := { c.saf with overlaps := l } }).colsShown) }) ∧
    (∀ x : Fin 16, let d := c.drop R.SAF_COLSTAT_TRANS24 x.val
      exec (.transientAgeOut x) s = .next { s with chip := d } ∧
      d.get R.SAF_COLSTAT_TRANS24 x.val = c.get R.SAF_COLSTAT_TRANS24 x.val - 1) ∧
    (∀ t : Nat, c.saf.visitAt = some t → t ≤ c.sched.cyc → c.on R.SAF_PTSTAT_PAUSED = false →
      let x := c.get R.SAF_PTSTAT_NEXT
      let d : Chip := { c with saf := { c.saf with visitAt := some (t + 60000000000) } }
      let d := d.set R.SAF_PTSTAT_NEXT 0 ((x + 1) % 16)
      let skip := d.saf.tests ≠ [] ∨ d.colRetired x = true ∨ d.inOverlap x = true ∨ x ∈ d.saf.leaving ∨
        ((d.serves x).isSome = true ∧ d.freeSpare = none)
      (skip → exec .proofTestVisit s = .next { s with chip := d }) ∧
      (¬ skip → exec .proofTestVisit s = .next { s with chip := (
        let one : List SelfTest := [{ col := x, kind := .proof, sets := [.full] }]
        ({ d with saf := { d.saf with tests := one } }).colsShown) })) ∧
    ((c.saf.visitAt = none ∨ c.on R.SAF_PTSTAT_PAUSED = true ∨ ∃ t : Nat, c.saf.visitAt = some t ∧ c.sched.cyc < t) →
      exec .proofTestVisit s = .next s) ∧
    (c.saf.minuteAt ≤ c.sched.cyc →
      let d : Chip := { c with saf := { c.saf with minuteAt := c.saf.minuteAt + 48000000000 } }
      let d := d.each (List.range 16) (fun d x => d.bump R.SAF_COLSTAT_PTAGE x)
      let late := c.on R.SAF_PTSTAT_OVERDUE = false ∧ ∃ x : Nat, x < 16 ∧ d.colRetired x = false ∧
        40 ≤ d.get R.SAF_COLSTAT_PTAGE x ∧ d.get R.SAF_COLSTAT_PTAGE x < 65535
      (∀ x : Nat, x < 16 → d.get R.SAF_COLSTAT_PTAGE x = min 0xFFFF (c.get R.SAF_COLSTAT_PTAGE x + 1)) ∧
      (late → exec .ptageMinute s = .next { s with chip := (d.set R.SAF_PTSTAT_OVERDUE 0 1).pulse 136 }) ∧
      (¬ late → exec .ptageMinute s = .next { s with chip := d })) ∧
    (c.sched.cyc < c.saf.minuteAt → exec .ptageMinute s = .next s)

/-- R567–R585: NONCE_READ, DEBUG_TOKEN, TOKEN_VERDICT, DEBUG_GRANT, SESSION_EXPIRY, DEBUG_RELEASE, LOCKOUT_EXPIRY, KEY_STORE_CHECK,
PROVISION, DEPLOY and RMA. -/
def Obligations.SecurityCommands : Prop :=
  ∀ s : State, s.Inv →
    let c := s.chip
    (∃ d : Chip, exec .nonceRead s = .next { s with chip := d } ∧ d.sec.nonceAt = some c.sched.cyc ∧ d.nonceFresh = true ∧
      ∀ w : Nat, w < 8 → d.get R.SEC_NONCE w = c.draw.1.toNat / 2 ^ (32 * w) % 2 ^ 32) ∧
    (∀ t : List Byte, c.on R.SEC_DBGSTAT_LOCKOUT = false → c.get R.PWR_PWRSTAT_STATE ≠ 3 →
      exec (.debugToken t) s = .next { s with chip := { c with sec := { c.sec with token := some t, tokenAt := c.sched.cyc } } }) ∧
    (∀ t : List Byte, c.on R.SEC_DBGSTAT_LOCKOUT = true ∨ c.get R.PWR_PWRSTAT_STATE = 3 →
      exec (.debugToken t) s = .next { s with chip := c.authFail } ∧ c.authFail.on R.SEC_DBGSTAT_AUTHFAIL = true) ∧
    (∀ ms : Fin 21, c.sec.token = none → exec (.tokenVerdict ms) s = .next s) ∧
    (∀ (ms : Fin 21) (t : List Byte), c.sec.token = some t →
      let now := c.sec.tokenAt + ms.val * 800000
      let d : Chip := { c with sec := { c.sec with token := none } }
      (d.tokenOk t = false → exec (.tokenVerdict ms) s = .next { s with chip := d.tokenFail now }) ∧
      (d.tokenOk t = true →
        (leAt t 0 1 < c.dbgLevel → exec (.tokenVerdict ms) s = .next { s with chip := d.endSession }) ∧
        (leAt t 0 1 = 1 → c.dbgLevel ≤ 1 → exec (.tokenVerdict ms) s =
          .next { s with chip := ({ d with sec := { d.sec with dur := leAt t 4 4 } }).grantLevel 1 }) ∧
        (leAt t 0 1 = c.dbgLevel → 2 ≤ c.dbgLevel → exec (.tokenVerdict ms) s =
          .next { s with chip := ({ d with sec := { d.sec with endAt := now + leAt t 4 4 * 800000000 } }).remainShown }) ∧
        (c.dbgLevel < leAt t 0 1 → 2 ≤ leAt t 0 1 → exec (.tokenVerdict ms) s =
          .next { s with chip := d.deepGrant (leAt t 0 1) (leAt t 4 4) }))) ∧
    (∀ now : Nat, (c.sec.fails.filter (fun t => decide (now ≤ t + 48000000000))).length = 2 → (c.tokenFail now).on R.SEC_DBGSTAT_LOCKOUT = true) ∧
    (c.on R.SEC_DBGSTAT_PENDING = true → c.pwrState = 2 → c.runningPlanes = [] →
      exec .debugGrant s = .next { s with chip := c.grantLevel (c.get R.SEC_DBGSTAT_PENDLVL) }) ∧
    ((c.on R.SEC_DBGSTAT_PENDING = false ∨ c.pwrState ≠ 2 ∨ c.runningPlanes ≠ []) → exec .debugGrant s = .next s) ∧
    (∀ l : Nat, l < 4 → (c.grantLevel l).dbgLevel = l ∧ (c.grantLevel l).on R.SEC_DBGSTAT_PENDING = false) ∧
    (c.dbgLevel ≠ 0 → c.sec.endAt ≤ c.sched.cyc → exec .sessionExpiry s = .next { s with chip := c.endSession }) ∧
    ((c.dbgLevel = 0 ∨ c.sched.cyc < c.sec.endAt) → exec .sessionExpiry s = .next s) ∧
    exec .debugRelease s = .next { s with chip := c.endSession } ∧ c.endSession.dbgLevel = 0 ∧
    (2 ≤ c.dbgLevel → c.endSession.boot.warmAfterFlush = some 4) ∧
    (c.on R.SEC_DBGSTAT_LOCKOUT = true → c.sec.lockAt + 48000000000 ≤ c.sched.cyc →
      exec .lockoutExpiry s = .next { s with chip := c.set R.SEC_DBGSTAT_LOCKOUT 0 0 } ∧
      (c.set R.SEC_DBGSTAT_LOCKOUT 0 0).on R.SEC_DBGSTAT_LOCKOUT = false) ∧
    ((c.on R.SEC_DBGSTAT_LOCKOUT = false ∨ c.sched.cyc < c.sec.lockAt + 48000000000) → exec .lockoutExpiry s = .next s) ∧
    (∀ l : List (Fin 256), exec (.keyStoreCheck l) s = .next { s with chip := c.each l (fun d k =>
      (((d.loseSlot k.val).set R.SEC_KSSTAT_KSFLT k.val 1).fault 3 4 26 blkSec 0x02 k.val none).pulse 627) }) ∧
    (∀ r : List Byte, c.lcs = 0 → c.dbgLevel = 3 → c.sec.lc = none → leAt r 0 1 = 0x11 → c.headerOk r = true →
      exec (.provision r) s = .next { s with chip := c.lcAccept (.provision r) }) ∧
    (∀ r : List Byte, (c.lcs ≠ 0 ∨ c.dbgLevel ≠ 3 ∨ c.sec.lc ≠ none ∨ leAt r 0 1 ≠ 0x11 ∨ c.headerOk r = false) →
      exec (.provision r) s = .next { s with chip := c.lcReject }) ∧
    (∀ r0 sig : List Byte,
      let r := r0 ++ sig
      let ok := c.lcs = 1 ∧ c.sec.lc = none ∧ leAt r 0 1 = 0x12 ∧ c.headerOk r = true ∧ leAt r 1 1 ≠ 0 ∧
        c.keyOk (leAt r 1 1) 3 (slice r 0x30 96) = true ∧ headerSigned r 0x30 = true
      (ok → exec (.deploy r0 sig) s = .next { s with chip := c.lcAccept .deploy }) ∧
      (¬ok → exec (.deploy r0 sig) s = .next { s with chip := c.lcReject })) ∧
    (∀ r0 sig cust : List Byte,
      let r := r0 ++ sig ++ cust
      let ok := (c.lcs = 1 ∨ c.lcs = 2) ∧ c.sec.lc = none ∧ leAt r 0 1 = 0x13 ∧ c.headerOk r = true ∧
        c.keyOk 0 3 (slice r 0x30 96) = true ∧ (∃ k : Nat, 1 ≤ k ∧ k < 8 ∧ c.keyOk k 3 (slice r 0x100 96) = true) ∧
        headerSigned r 0x30 = true ∧ headerSigned r 0x100 = true
      (ok → exec (.rma r0 sig cust) s = .next { s with chip := c.lcAccept .rma }) ∧
      (¬ok → exec (.rma r0 sig cust) s = .next { s with chip := c.lcReject })) ∧
    c.lcReject = { c with regs := c.lcReject.regs, svc := c.lcReject.svc }

/-- R579, R586: the test access port and the debugger; R581, R589: PLANE_DRAINED and P4_OFF_TIMEOUT. -/
def Obligations.DebugAndPowerEnds : Prop :=
  ∀ s : State, s.Inv →
    let c := s.chip
    let shift (i : JtagIr) (out cells : List Bool) : Host.Outcome State Fault Refusal :=
      .next { s with chip := { c with sec := { c.sec with ir := i, shifted := out, cells := cells } } }
    exec .jtagIdcode s = shift .idcode c.idcodeBits c.sec.cells ∧ exec .jtagBypass s = shift .bypass [false] c.sec.cells ∧
    (∀ x y : List Bool, exec (.samplePreload x y) s = if 1 ≤ c.dbgLevel then shift .sample x y else .next s) ∧
    (∀ x y : List Bool, exec (.extest x y) s = if c.dbgLevel = 3 then shift .extest x y else .next s) ∧
    (∀ x y : List Bool, exec (.intest x y) s = if c.dbgLevel = 3 then shift .intest y x else .next s) ∧
    exec .clamp s = (if c.dbgLevel = 3 then shift .clamp [false] c.sec.cells else .next s) ∧
    exec .highz s = (if c.dbgLevel = 3 then shift .highz [false] c.sec.cells else .next s) ∧
    (∀ x : List Bool, exec (.scanDump x) s = if c.dbgLevel = 3 then shift .scanDump x c.sec.cells else .next s) ∧
    (∀ x y : List Bool, (c.dbgLevel = 3 → exec (.memoryBistControl x y) s = .next { s with chip := (
      { c with sec := { c.sec with ir := .bist, shifted := y, bist := x } }) }) ∧
      (c.dbgLevel < 3 → exec (.memoryBistControl x y) s = .next s)) ∧
    (∀ u : DbgUnit, exec (.debugStep u) s = .next s) ∧
    (c.dbgLevel < 2 → (∀ u : DbgUnit, exec (.debugHalt u) s = .next s ∧ exec (.debugResume u) s = .next s) ∧
      ∀ g : Fin 64, exec (.debugGateOpen g) s = .next s) ∧
    (2 ≤ c.dbgLevel →
      (∀ n : Fin 192, tabWf (fun _ => ({} : Engine)) c.spn.eng = true →
        (∃ d : Chip, exec (.debugHalt (.spindle n)) s = .next { s with chip := d } ∧
          d.engine n.val = { c.engine n.val with halted := true } ∧ n.val ∈ d.sec.haltedSpn ∧
          ∀ m : Nat, m ≠ n.val → d.engine m = c.engine m ∧ (m ∈ d.sec.haltedSpn ↔ m ∈ c.sec.haltedSpn)) ∧
        (∃ d : Chip, exec (.debugResume (.spindle n)) s = .next { s with chip := d } ∧
          d.engine n.val = { c.engine n.val with halted := false } ∧ n.val ∉ d.sec.haltedSpn ∧
          ∀ m : Nat, m ≠ n.val → d.engine m = c.engine m ∧ (m ∈ d.sec.haltedSpn ↔ m ∈ c.sec.haltedSpn))) ∧
      (∀ k : Fin 16, exec (.debugHalt (.core k)) s = .next { s with chip := c.setCore k.val { c.core k.val with halted := true } } ∧
        exec (.debugResume (.core k)) s = .next { s with chip := c.setCore k.val { c.core k.val with halted := false } }) ∧
      ∀ g : Fin 64, ∃ d : Chip, exec (.debugGateOpen g) s = .next { s with chip := d } ∧ g.val ∈ d.sec.gates ∧
        (d.rd (R.CLK_GATE0.addr + 4 * (g.val / 32))).getLsbD (g.val % 32) = false) ∧
    (∀ (d : Chip) (a : Nat) (who : Requester) (v : Word), debugOnly a = true → who ≠ .debug →
      d.readWord who a = 0 ∧ d.writeReg who a v = d) ∧
    (∀ p : Fin 4, ((c.plane p.val).stopTurn = none ∨ (c.plane p.val).phase = .stopped ∨ (c.plane p.val).t < (c.plane p.val).drainAt) →
      exec (.planeDrained p) s = .next s) ∧
    (∀ p : Fin 4, (c.plane p.val).stopTurn.isSome = true → (c.plane p.val).drainAt ≤ (c.plane p.val).t →
      (c.plane p.val).phase ≠ .stopped → exec (.planeDrained p) s = .next { s with chip := (
        let d := (c.setPlane p.val {}).set R.SEQ_PLANESTAT_LOCKED p.val 0
        let d := (d.each (d.streamsOf p.val) (fun c st => c.setStream st {})).each (List.range 16) (fun c n => c.laneRunning n)
        let d := d.endReacts (fun x => x.ends == .turn && x.plane == some p.val)
        (d.cancelPlane p.val (d.turn p.val) false).planesStopped) }) ∧
    (c.pwrState = 3 → c.pwrTarget = 4 → c.pwrBusy = true → exec .p4OffTimeout s = .next { s with chip := (
      let d := (c.set R.PWR_PWRSTAT_P4FAIL 0 1).set R.PWR_PWRSTAT_TARGET 0 3
      ((d.set R.PWR_PWRSTAT_BUSY 0 0).pulse 640).pulse 641) }) ∧
    ((c.pwrState ≠ 3 ∨ c.pwrTarget ≠ 4 ∨ c.pwrBusy = false) → exec .p4OffTimeout s = .next s)

/-- R605–R614: HEARTBEAT_SEND, HEARTBEAT_RX, PATHB_WORD_SEND, PATHB_WORD_RX, PATH_SILENCE, LEASE_RENEW, LEASE_EXPIRY, BOBBIN_TAKE,
ROLE_RESOLVE_TIMEOUT and RELEASE_ACK_DEADLINE. -/
def Obligations.PairAndLease : Prop :=
  ∀ s : State, s.Inv →
    let c := s.chip
    let off := c.plyOn = false ∨ c.role = roleSolo
    (off ∨ c.grpUp c.pathGroup = false ∨ c.clk.dead = true → exec .heartbeatSend s = .next s) ∧
    (¬ off → c.grpUp c.pathGroup = true → c.clk.dead = false → ∀ pay : List Byte,
      pay = leBytes 4 c.ply.hbcnt ++ leBytes 1 c.plyFlags ++ leBytes 1 c.reactionLevel ++ leBytes 2 0 ++
        leBytes 4 c.plySerial ++ leBytes 4 (c.refNs % 2 ^ 32) →
      exec .heartbeatSend s = .next { s with chip := (
        let d := c.strandSend c.pathGroup 0x08 0 pay false
        { d with ply := { d.ply with hbcnt := (d.ply.hbcnt + 1) % 2 ^ 32 } }) }) ∧
    (off → ∀ (h : Heartbeat) (w : Word) (b : Bool), exec (.heartbeatRx h) s = .next s ∧ exec (.pathbWordRx w b) s = .next s) ∧
    (¬ off → ∀ h : Heartbeat, ∃ d : Chip, exec (.heartbeatRx h) s = .next { s with chip := d } ∧
      d.ply.pflags = leAt h.payload 4 1 ∧ d.ply.plevel = leAt h.payload 5 1 % 8) ∧
    (off ∨ c.clk.dead = true → exec .pathbWordSend s = .next s) ∧
    (¬ off → c.clk.dead = false → exec .pathbWordSend s = .next { s with chip := (
      let top := c.ply.word % 256 * 65536 + b2n (bit c.plyFlags 0) * 32768 + b2n (bit c.plyFlags 1) * 16384
        + b2n (bit c.plyFlags 2) * 8192 + b2n (bit c.plyFlags 5) * 4096 + c.plySerial % 16 * 256
      { c with ply := { c.ply with word := (c.ply.word + 1) % 256, wordOut := pathWord top } }) }) ∧
    (∀ top : Nat, pathWord top = BitVec.ofNat 32 (top * 256 + (crc8 (beBytes 3 top)).toNat)) ∧
    (¬ off → ∀ (w : Word) (b : Bool), c.wordValid w b = false → exec (.pathbWordRx w b) s = .next { s with chip := (
      let n := if b then c.ply.wordRx else some (w.toNat / 2 ^ 24)
      { c with ply := { c.ply with wordRx := n, runB := 0 } }) }) ∧
    (¬ off → ∀ (w : Word) (b : Bool), c.wordValid w b = true → ∃ d : Chip, exec (.pathbWordRx w b) s = .next { s with chip := d } ∧
      bit d.ply.pflags 0 = bit w.toNat 23 ∧ bit d.ply.pflags 1 = bit w.toNat 22 ∧ bit d.ply.pflags 2 = bit w.toNat 21 ∧
      bit d.ply.pflags 5 = bit w.toNat 20) ∧
    (∀ (b up : Bool) (last : Nat), up = c.on (if b then R.PLY_PLYSTAT_PATHB else R.PLY_PLYSTAT_PATHA) 0 →
      last = (if b then c.ply.lastB else c.ply.lastA) →
      (c.plyOn = true ∧ up = true ∧ last + 240000 ≤ c.sched.cyc → exec (.pathSilence b) s = .next { s with chip := c.pathDown b }) ∧
      (c.plyOn = false ∨ up = false ∨ c.sched.cyc < last + 240000 → exec (.pathSilence b) s = .next s)) ∧
    ((c.pathDown false).on R.PLY_PLYSTAT_PATHA = false ∧ (c.pathDown true).on R.PLY_PLYSTAT_PATHB = false ∧
      ∀ b other : Bool, other = c.on (if b then R.PLY_PLYSTAT_PATHA else R.PLY_PLYSTAT_PATHB) 0 →
        (other = true → (c.pathDown b).on R.PLY_PLYSTAT_PATHFLT = true) ∧
        (other = false → (c.pathDown b).on R.PLY_PLYSTAT_FAILEV = true ∧ (c.pathDown b).ply.failover = true)) ∧
    (∀ p : Bool, p = c.ply.sent.head?.all (fun e => decide (e.2 + 4000000 ≤ c.sched.cyc)) →
      (c.plyOn = true ∧ c.role = roleHolder ∧ c.healthy = true ∧ p = true → exec .leaseRenew s = .next { s with chip := c.renew }) ∧
      (c.plyOn = false ∨ c.role ≠ roleHolder ∨ c.healthy = false ∨ p = false → exec .leaseRenew s = .next s)) ∧
    (c.renew.ply.serial = (c.ply.serial + 1) % 2 ^ 32 ∧ c.renew.get R.PLY_LEASEAGE 0 = 0 ∧
      c.renew.ply.sent = (((c.ply.serial + 1) % 2 ^ 32, c.sched.cyc) :: c.ply.sent).take 5) ∧
    (∀ p : Bool, p = c.ply.sent.head?.all (fun e => decide (e.2 + 16000000 ≤ c.sched.cyc)) →
      (c.plyOn = true ∧ c.role = roleHolder ∧ p = true → exec .leaseExpiry s = .next { s with chip := c.plyFence 3 true }) ∧
      (c.plyOn = false ∨ c.role ≠ roleHolder ∨ p = false → exec .leaseExpiry s = .next s)) ∧
    (∀ (k : Nat) (b : Bool) (d : Chip), d = c.plyFence k b → d.ply.transfer = none ∧ d.ply.legOut = false ∧ d.ply.join = [] ∧
      d.ply.forward = [] ∧ d.ply.tx = (List.range 4).foldl (fun (t : Tab PlyTx) p => tset {} t p { mode := 0 }) c.ply.tx ∧ d.role = roleFenced) ∧
    (c.plyOn = true ∧ c.role = roleOther ∧ c.ply.failover = true ∧ c.ply.seenAt + 17600000 ≤ c.sched.cyc →
      exec .bobbinTake s = .next { s with chip := c.takeBobbin 1 }) ∧
    (c.plyOn = false ∨ c.role ≠ roleOther ∨ c.ply.failover = false ∨ c.sched.cyc < c.ply.seenAt + 17600000 →
      exec .bobbinTake s = .next s) ∧
    (∀ (k : Nat) (d : Chip), d = c.takeBobbin k → d.role = roleHolder ∧ d.ply.failover = false ∧ d.ply.legOut = false ∧
      d.ply.transfer = none) ∧
    (∀ p : Bool, p = c.ply.resolveAt.any (fun t => decide (t + 17600000 ≤ c.sched.cyc)) →
      (c.plyOn = true ∧ c.role = roleResolving ∧ p = true ∧ c.ply.runA = 0 ∧ c.ply.runB = 0 →
        exec .roleResolveTimeout s = .next { s with chip := c.takeBobbin 0 }) ∧
      (c.plyOn = false ∨ c.role ≠ roleResolving ∨ p = false ∨ c.ply.runA ≠ 0 ∨ c.ply.runB ≠ 0 →
        exec .roleResolveTimeout s = .next s)) ∧
    (∀ x : Nat, c.ply.transfer = some (x, false) → c.role = roleHolder → c.refTime x ≤ c.refNs + 500000 →
      exec .releaseAckDeadline s = .next { s with chip := (
        let d := { c with ply := { c.ply with transfer := none, moved := [] } }
        if c.ply.fenceAfter then d.plyFence 4 false else d) }) ∧
    (c.role ≠ roleHolder ∨ c.ply.transfer = none ∨ (∃ x : Nat, c.ply.transfer = some (x, true) ∨
      (c.ply.transfer = some (x, false) ∧ c.refNs + 500000 < c.refTime x)) → exec .releaseAckDeadline s = .next s)

/-- R612–R628: PLY_HELLO, PLY_RELEASE, TRANSFER_INSTANT, PLY_LEGS, PLY_FORWARD, PLY_AGREE, PLY_JOIN, PLY_TAKEREQ, STATE_COPY_FRAME and
STATE_COPY_COMPLETE. -/
def Obligations.PairControl : Prop :=
  ∀ s : State,
    let c := s.chip
    (∀ b : List Byte, c.plyOn = false ∨ leAt b 0 1 ≠ 1 → exec (.plyHello b) s = .next s) ∧
    (∀ (b : List Byte) (v : Nat), c.plyOn = true → leAt b 0 1 = 1 → v = min (leAt b 2 1) 0x11 → ∃ d : Chip,
      exec (.plyHello b) s = .next { s with chip := d } ∧ d.ply.caps = leAt b 3 4 ∧
      (max (leAt b 1 1) 0x10 ≤ v → d.ply.hello = some (v, leAt b 3 4 &&& (if v = 0x10 then 0x17 else 0x1F))) ∧
      (v < max (leAt b 1 1) 0x10 → d.ply.hello = none)) ∧
    (c.ply.want = false → exec (.plyRelease none) s = .next s) ∧
    (∀ d : Chip, d = { c with ply := { c.ply with want := false } } → c.ply.want = true →
      (c.plyOn = true ∧ c.mayTransfer = true → ∀ x : Nat, x = c.refBoundary 1000000 16 (c.turn c.refPlane + 1) →
        exec (.plyRelease none) s = .next { s with chip := (
          ({ d with ply := { d.ply with transfer := some (x, false), moved := [] } }).plySend 0x0A ([0x02] ++ leBytes 5 x)) }) ∧
      (c.plyOn = false ∨ c.mayTransfer = false → exec (.plyRelease none) s = .next { s with chip := (
        if c.ply.fenceAfter then d.plyFence 4 false else d) })) ∧
    (∀ (x : BitVec 40) (n : Nat), n = ((c.turn c.refPlane : Int) + sdiff 40 x.toNat (c.turn c.refPlane)).toNat →
      (c.plyOn = true → c.role = roleOther → c.ply.transfer = none → c.refNs + 500000 ≤ c.refTime n →
        exec (.plyRelease (some x)) s = .next { s with chip := (
          { c with ply := { c.ply with transfer := some (n, true), moved := [], acked := some n } }) }) ∧
      (c.plyOn = false ∨ c.role ≠ roleOther ∨ c.ply.transfer ≠ none ∨ c.refTime n < c.refNs + 500000 →
        exec (.plyRelease (some x)) s = .next s)) ∧
    (∀ p : Fin 4, (∀ x : Nat, c.ply.transfer ≠ some (x, true)) → exec (.transferInstant p) s = .next s) ∧
    (∀ (p : Fin 4) (x n : Nat), c.ply.transfer = some (x, true) → n = c.transferTurn p.val x →
      (c.plyOn = false ∨ c.ply.moved.contains p.val = true ∨ sdiff 40 (c.turn p.val) n < 0 → exec (.transferInstant p) s = .next s) ∧
      (c.plyOn = true → c.ply.moved.contains p.val = false → 0 ≤ sdiff 40 (c.turn p.val) n →
        (∃ d : Chip, exec (.transferInstant p) s = .next { s with chip := d }) ∧
        (p.val ≠ c.refPlane → c.ply.moved.contains c.refPlane = false → c.running c.refPlane = true →
          exec (.transferInstant p) s = .next { s with chip := (
            let role := if c.role = roleHolder then roleOther else roleHolder
            let d := { c with ply := { c.ply with moved := p.val :: c.ply.moved } }
            d.setTx p.val (d.plyMode role) (pulseNs (c.rateOf p.val) n)) }))) ∧
    (∀ (x : BitVec 40) (b : Bool), c.plyOn = true → c.dualLeg = true → c.role = roleOther → exec (.plyLegs (some (x, b))) s = .next { s with chip := (
      let n := ((c.turn c.refPlane : Int) + sdiff 40 x.toNat (c.turn c.refPlane)).toNat
      { c with ply := { c.ply with legs := some (n, b) } }) }) ∧
    (∀ (x : BitVec 40) (b : Bool), c.plyOn = false ∨ c.dualLeg = false ∨ c.role ≠ roleOther → exec (.plyLegs (some (x, b))) s = .next s) ∧
    (∀ now want : Bool, now = (c.ply.legs.map (·.2)).getD c.ply.legOut → want = c.on R.PLY_PLYSTAT_INSTEP →
      (c.plyOn = true → c.dualLeg = true → c.role = roleHolder → now ≠ want → ∀ n : Nat, n = c.twoAhead c.refPlane →
        exec (.plyLegs none) s = .next { s with chip := (
          ({ c with ply := { c.ply with legs := some (n, want) } }).plySend 0x0A ([0x03] ++ leBytes 5 n ++ leBytes 1 (b2n want))) }) ∧
      (c.plyOn = false ∨ c.dualLeg = false ∨ c.role ≠ roleHolder ∨ now = want → exec (.plyLegs none) s = .next s)) ∧
    (c.ply.forward = [] → exec (.plyForward none) s = .next s) ∧
    (∀ (n : Nat) (m : CmdMsg) (a : CmdArg) (l : List (Nat × CmdMsg × CmdArg)), c.ply.forward = (n, m, a) :: l →
      exec (.plyForward none) s = .next { s with chip := (
        ({ c with ply := { c.ply with forward := l } }).plySend 0x0A ([0x04] ++ leBytes 6 n ++ m.head ++ m.arg)) }) ∧
    (∀ (m : CmdMsg) (a : CmdArg) (fit : Prop), (fit ↔ c.plyOn = true ∧ codeFits m a = true ∧ msgOk m 0 a = true ∧
        (cmdOrder a = 8 ∨ (pairedCmd a = true ∧ c.role = roleOther))) →
      (fit → exec (.plyForward (some (m, a))) s = .next { s with chip := c.takeForward m a }) ∧
      (¬ fit → exec (.plyForward (some (m, a))) s = .next s)) ∧
    (c.plyOn = false ∨ c.ply.mine = [] → exec (.plyAgree none) s = .next s) ∧
    (∀ l : List AgreeRec, l = c.ply.mine.reverse → c.plyOn = true → l ≠ [] → exec (.plyAgree none) s = .next { s with chip := (
      ({ c with ply := { c.ply with mine := (l.drop 340).reverse } }).plySend 0x0A ([0x05] ++ (l.take 340).flatMap agreeBytes)) }) ∧
    (∀ l : List AgreeRec, (c.plyOn = false → exec (.plyAgree (some l)) s = .next s) ∧
      (c.plyOn = true → exec (.plyAgree (some l)) s = .next { s with chip := (
        { c with ply := { c.ply with agree := (l ++ c.ply.agree).take 65536 } }) })) ∧
    (c.plyOn = false → ∀ x : Option JoinMsg, exec (.plyJoin x) s = .next s) ∧
    (c.plyOn = true → c.role = roleHolder → ∀ t : List Nat, t = (List.range 4).map (fun p => if c.running p then c.twoAhead p else 0) →
      exec (.plyJoin (some .request)) s = .next { s with chip := (
        ({ c with ply := { c.ply with join := t } }).plySend 0x0A ([0x06, 0x01] ++ t.flatMap (leBytes 5))) }) ∧
    (c.role ≠ roleHolder → exec (.plyJoin (some .request)) s = .next s) ∧
    (c.plyOn = true → c.role = roleOther → ∀ t : List Nat, exec (.plyJoin (some (.grant t))) s = .next { s with chip := (
      { c with ply := { c.ply with join := t, joining := true } }) }) ∧
    (c.role ≠ roleOther → c.role ≠ roleFenced → ∀ t : List Nat, exec (.plyJoin (some (.grant t))) s = .next s) ∧
    (c.plyOn = true → c.role = roleFenced → ∀ (t : List Nat) (d : Chip), d = c.becomeOther 3 →
      exec (.plyJoin (some (.grant t))) s = .next { s with chip := (
        if d.role = roleOther then { d with ply := { d.ply with join := t, joining := true } } else d) }) ∧
    (∀ may : Prop, (may ↔ c.plyOn = true ∧ c.role = roleOther ∧ c.ply.joining = false ∧ c.on R.PLY_PLYSTAT_PATHA = true ∧
        ∀ p : Nat, p < 4 → c.on R.SEQ_PLANECFG_EN p = true → c.running p = true) →
      (may → exec (.plyJoin none) s = .next { s with chip := (
        ({ c with ply := { c.ply with joining := true } }).plySend 0x0A [0x06, 0x00]) }) ∧
      (¬ may → exec (.plyJoin none) s = .next s)) ∧
    (c.plyOn = true ∧ c.role = roleHolder ∧ c.ply.transfer = none ∧ c.on R.PLY_PLYSTAT_WARM = false → exec (.plyTakereq true) s =
      .next { s with chip := { c with ply := { c.ply with want := true } } }) ∧
    (c.plyOn = false ∨ c.role ≠ roleHolder ∨ c.ply.transfer ≠ none ∨ c.on R.PLY_PLYSTAT_WARM = true → exec (.plyTakereq true) s = .next s) ∧
    (∀ may : Prop, (may ↔ c.plyOn = true ∧ c.on R.PLY_PLYCFG_PRIMARY = true ∧ c.role = roleOther ∧ c.on R.PLY_PLYCFG_REVERT = true ∧
        c.ply.hold = false ∧ 120 ≤ c.get R.PLY_PLYSTAT_CLEAN ∧ c.on R.PLY_PLYSTAT_WARM = false) →
      (may → exec (.plyTakereq false) s = .next { s with chip := c.plySend 0x0A [0x07] }) ∧
      (¬ may → exec (.plyTakereq false) s = .next s)) ∧
    ((∀ p : Nat, p < 4 → tget 0 c.ply.copyOut p = 0) ∨ c.plyOn = false ∨ c.role ≠ roleHolder → exec (.stateCopyFrame none) s = .next s) ∧
    (∀ (p off turn : Nat) (image data : List Byte) (v : Word) (d : Chip), c.plyOn = true → c.role = roleHolder → p < 4 →
      tget 0 c.ply.copyOut p = off + 1 → (∀ q : Nat, q < p → tget 0 c.ply.copyOut q = 0) → tget (0, []) c.ply.images p = (turn, image) →
      data = (image.drop off).take 4032 → c.copyMark (turn % 2 ^ 32) data = (v, d) →
      exec (.stateCopyFrame none) s = .next { s with chip := (
        let next := if image.length ≤ off + 4032 then 0 else off + 4033
        ({ d with ply := { d.ply with copyOut := tset 0 d.ply.copyOut p next } }).plySend 0x09
          (leBytes 1 p ++ leBytes 3 0 ++ leBytes 4 turn ++ leBytes 4 off ++ leBytes 4 image.length ++ data ++ leBytes 4 v.toNat)) }) ∧
    (∀ (b data : List Byte) (ok : Bool) (p turn : Nat) (x : CopyIn) (v : Word) (d : Chip), c.plyOn = true → c.role = roleOther →
      p = leAt b 0 1 % 4 → turn = leAt b 4 4 → data = (b.drop 16).take (b.length - 20) → c.copyMark turn data = (v, d) →
      x = (if (tget {} c.ply.copies p).turn = turn then tget {} c.ply.copies p else { turn := turn }) →
      exec (.stateCopyFrame (some (b, ok))) s = .next { s with chip := (
        let good := ok && leAt b (b.length - 4) 4 == v.toNat
        let z := { x with parts := x.parts ++ [(leAt b 8 4, data)], total := leAt b 12 4, bad := x.bad || !good }
        { d with ply := { d.ply with copies := tset {} d.ply.copies p z } }) }) ∧
    (c.plyOn = false ∨ c.role ≠ roleOther → ∀ (b : List Byte) (ok : Bool), exec (.stateCopyFrame (some (b, ok))) s = .next s) ∧
    (∀ (p : Fin 4) (l : List CopyRec), c.plyOn = false ∨ c.role ≠ roleOther ∨ c.on R.PLY_PLYSTAT_WARM = true →
      exec (.stateCopyComplete p l) s = .next s) ∧
    (∀ (p : Fin 4) (l : List CopyRec) (turn : Nat) (own : List Byte) (d : Chip), c.plyOn = true → c.role = roleOther →
      c.on R.PLY_PLYSTAT_WARM = false → tget (0, []) c.ply.images p.val = (turn, own) →
      (∀ (a : Tab CopyIn) (e : Tab Bool), a = tset {} c.ply.copies p.val {} → e = tset false c.ply.pending p.val false →
        d = { c with ply := { c.ply with copies := a, pending := e } }) →
      ((tget {} c.ply.copies p.val).turn ≠ turn % 2 ^ 32 ∨ copyBytes (tget {} c.ply.copies p.val) = none →
        exec (.stateCopyComplete p l) s = .next { s with chip := (
          let e := tset false d.ply.inStep p.val false
          (({ d with ply := { d.ply with inStep := e } }).plyFault 0 5).stepShown) }) ∧
      (∀ b : List Byte, (tget {} c.ply.copies p.val).turn = turn % 2 ^ 32 → copyBytes (tget {} c.ply.copies p.val) = some b →
        exec (.stateCopyComplete p l) s = .next { s with chip := (d.takeCopy p.val own b l).flowsShown.stepShown }))
end

