-- ==== Sys2Proof/Laws/Tables.lean ====
section
/-! SUPPORT. Tables and the DRAM memory: reading back what was written, and that every write keeps the canonical form. -/

namespace Sys2Proof.Machine

set_option Elab.async false

/-! ### Tables -/

theorem tabWfFrom_mono {α : Type} [DecidableEq α] (d : Nat → α) {lo lo' : Nat} (h : lo' ≤ lo) :
    ∀ {t : Tab α}, tabWfFrom d lo t = true → tabWfFrom d lo' t = true := by
  intro t ht
  cases t with
  | nil => rfl
  | cons e t =>
    simp only [tabWfFrom, Bool.and_eq_true, decide_eq_true_eq] at ht ⊢
    exact ⟨⟨by omega, ht.1.2⟩, ht.2⟩

/-- A write keeps the canonical form. -/
theorem tabWfFrom_tabSet {α : Type} [DecidableEq α] (d : Nat → α) (k : Nat) (v : α) :
    ∀ (t : Tab α) (lo : Nat), lo ≤ k → tabWfFrom d lo t = true → tabWfFrom d lo (tabSet d t k v) = true := by
  intro t
  induction t with
  | nil =>
    intro lo hk _
    simp only [tabSet]
    split <;> simp_all [tabWfFrom]
  | cons e t ih =>
    intro lo hk ht
    have hw := ht
    simp only [tabWfFrom, Bool.and_eq_true, decide_eq_true_eq] at ht
    obtain ⟨⟨h1, h2⟩, h3⟩ := ht
    simp only [tabSet]
    split
    · split
      · exact hw
      · simp only [tabWfFrom, Bool.and_eq_true, decide_eq_true_eq]
        exact ⟨⟨hk, by assumption⟩, ⟨by omega, h2⟩, h3⟩
    · split
      · rename_i hkj
        subst hkj
        split
        · exact tabWfFrom_mono d (by omega) h3
        · simp only [tabWfFrom, Bool.and_eq_true, decide_eq_true_eq]
          exact ⟨⟨h1, by assumption⟩, h3⟩
      · simp only [tabWfFrom, Bool.and_eq_true, decide_eq_true_eq]
        exact ⟨⟨h1, h2⟩, ih _ (by omega) h3⟩

theorem tabWf_tabSet {α : Type} [DecidableEq α] (d : Nat → α) (t : Tab α) (k : Nat) (v : α) (h : tabWf d t = true) :
    tabWf d (tabSet d t k v) = true := tabWfFrom_tabSet d k v t 0 (Nat.zero_le k) h

/-- A canonical table rests at every index below its bound. -/
theorem tabGet_below {α : Type} [DecidableEq α] (d : Nat → α) {lo k : Nat} {t : Tab α} (h : tabWfFrom d lo t = true) (hk : k < lo) :
    tabGet d t k = d k := by
  cases t with
  | nil => rfl
  | cons e t =>
    simp only [tabWfFrom, Bool.and_eq_true, decide_eq_true_eq] at h
    simp only [tabGet]
    rw [if_pos (by omega)]

theorem tabGet_tabSet_from {α : Type} [DecidableEq α] (d : Nat → α) (k : Nat) (v : α) (k' : Nat) :
    ∀ (t : Tab α) (lo : Nat), tabWfFrom d lo t = true →
      tabGet d (tabSet d t k v) k' = if k' = k then v else tabGet d t k' := by
  intro t
  induction t with
  | nil =>
    intro lo _
    simp only [tabSet]
    split <;> grind [tabGet]
  | cons e t ih =>
    intro lo ht
    obtain ⟨j, a⟩ := e
    simp only [tabWfFrom, Bool.and_eq_true, decide_eq_true_eq] at ht
    obtain ⟨⟨_, _⟩, h3⟩ := ht
    have hb := fun h => tabGet_below d (k := k') h3 h
    have hi := ih _ h3
    simp only [tabSet]
    split
    · split <;> grind [tabGet]
    · split
      · split <;> grind [tabGet]
      · grind [tabGet]

/-- A table read back after a write. -/
theorem tabGet_tabSet {α : Type} [DecidableEq α] (d : Nat → α) (t : Tab α) (k : Nat) (v : α) (k' : Nat) (h : tabWf d t = true) :
    tabGet d (tabSet d t k v) k' = if k' = k then v else tabGet d t k' := tabGet_tabSet_from d k v k' t 0 h

@[simp] theorem tabGet_nil {α : Type} (d : Nat → α) (k : Nat) : tabGet d [] k = d k := rfl

/-! ### The DRAM memory (R398) -/

theorem memWfFrom_mono {lo lo' : Nat} (h : lo' ≤ lo) : ∀ {m : List Host.Cell}, memWfFrom lo m = true → memWfFrom lo' m = true := by
  intro m hm
  cases m with
  | nil => rfl
  | cons e m =>
    simp only [memWfFrom, Bool.and_eq_true, decide_eq_true_eq] at hm ⊢
    exact ⟨by omega, hm.2⟩

theorem memWfFrom_memPut (a : Nat) (v : Byte) :
    ∀ (m : List Host.Cell) (lo : Nat), lo ≤ a → memWfFrom lo m = true → memWfFrom lo (memPut m a v) = true := by
  intro m
  induction m with
  | nil => intro lo h _; simp [memPut, memWfFrom, h]
  | cons e m ih =>
    intro lo h hm
    have hw := hm
    simp only [memWfFrom, Bool.and_eq_true, decide_eq_true_eq] at hm
    simp only [memPut]
    split
    · simp only [memWfFrom, Bool.and_eq_true, decide_eq_true_eq]
      exact ⟨h, by omega, hm.2⟩
    · split
      · rename_i heq
        subst heq
        simp only [memWfFrom, Bool.and_eq_true, decide_eq_true_eq]
        exact hm
      · simp only [memWfFrom, Bool.and_eq_true, decide_eq_true_eq]
        exact ⟨hm.1, ih _ (by omega) hm.2⟩

/-- A byte written keeps the canonical form of the memory. -/
theorem Memory.wf_memPut (m : List Host.Cell) (a : Nat) (v : Byte) (h : Memory.wf m = true) : Memory.wf (memPut m a v) = true :=
  memWfFrom_memPut a v m 0 (Nat.zero_le a) h

/-- Bytes written keep the canonical form of the memory. -/
theorem Memory.wf_memPutAll (l : List Byte) : ∀ (m : List Host.Cell) (a : Nat), Memory.wf m = true →
    Memory.wf (memPutAll m a l) = true := by
  induction l with
  | nil => intro m a h; exact h
  | cons v l ih => intro m a h; exact ih _ _ (Memory.wf_memPut m a v h)

/-- A byte read back after a write. -/
theorem memGet_memPut (m : List Host.Cell) (a : Nat) (v : Byte) (a' : Nat) :
    memGet (memPut m a v) a' = if a' = a then some v else memGet m a' := by
  induction m with
  | nil => simp only [memPut]; grind [memGet]
  | cons e m ih =>
    obtain ⟨b, w⟩ := e
    simp only [memPut]
    split
    · grind [memGet]
    · split <;> grind [memGet]

/-- A byte read back after bytes have been written from an address up. -/
theorem memGet_memPutAll (l : List Byte) : ∀ (m : List Host.Cell) (a a' : Nat),
    memGet (memPutAll m a l) a' = if a ≤ a' ∧ a' < a + l.length then l[a' - a]? else memGet m a' := by
  induction l with
  | nil => intro m a a'; simp only [memPutAll, List.length_nil]; rw [if_neg (by omega)]
  | cons v l ih =>
    intro m a a'
    simp only [memPutAll, ih, List.length_cons]
    by_cases h : a + 1 ≤ a' ∧ a' < a + 1 + l.length
    · rw [if_pos h, if_pos (by omega)]
      have : a' - a = (a' - (a + 1)) + 1 := by omega
      rw [this]; simp
    · rw [if_neg h, memGet_memPut]
      by_cases h' : a' = a
      · subst h'; simp
      · rw [if_neg h', if_neg (by omega)]

/-- R398: the DRAM byte at an address after bytes have been written. -/
theorem dramByte_dramWrite (c : Chip) (a : Nat) (l : List Byte) (a' : Nat) :
    (c.dramWrite a l).dramByte a' = if a ≤ a' ∧ a' < a + l.length then l.getD (a' - a) 0 else c.dramByte a' := by
  simp only [Chip.dramByte, Chip.dramWrite, memGet_memPutAll]
  split
  · rename_i h
    have : a' - a < l.length := by omega
    simp [List.getD, this]
  · rfl

end Sys2Proof.Machine
end

