-- ==== Sys2Proof/Laws/State.lean ====
section
/-! SUPPORT. How a property of the device is carried through its operations. A property is kept by every operation if it survives the few
changes from which all others are made; the files after this one say so once for each operation and each command. -/

namespace Sys2Proof.Machine

set_option Elab.async false

/-- A property of the device, named so that it can be carried as one. -/
def Holds (P : Chip → Prop) (c : Chip) : Prop := P c

/-- A property that survives a register write and every change but one of the DRAM's contents or of the secret fuses. -/
structure Chip.Keeps (P : Chip → Prop) : Prop where
  wr : ∀ (c : Chip) (a : Nat) (w : Word), P c → P (c.wr a w)
  upd : ∀ {c : Chip} {fr sc bo ta va vp fl la ra rc sp tb sv sa de cm au ne pl cl dr na st se pw cv mo sh}, P c →
    dr.mem = c.dram.mem → se.ik = c.sec.ik → se.kwk = c.sec.kwk →
    P (Chip.mk c.regs fr sc bo ta va vp fl la ra rc sp tb sv sa de cm au ne pl cl dr na st se pw cv mo sh)

/-- A property that also survives writes to the DRAM, its loss, a reset and the blowing of secret fuses. -/
structure Chip.Stable (P : Chip → Prop) : Prop extends Chip.Keeps P where
  write : ∀ (c : Chip) (a : Nat) (l : List Byte), P c → P (c.dramWrite a l)
  reset : ∀ (c : Chip) (warm : Bool), P c → P (c.fresh warm)
  lost : ∀ (c : Chip) (v : Svc), P c → P { c with svc := v, dram := { c.dram with mem := [], tags := [] } }
  blow : ∀ (c : Chip) (b : List Byte), P c → P (c.blowSecrets b)
  burn : ∀ c : Chip, P c → P c.burnSecrets

theorem Chip.upd_keeps {P : Chip → Prop} (K : Chip.Keeps P) {c : Chip}
    {fr sc bo ta va vp fl la ra rc sp tb sv sa de cm au ne pl cl dr na st se pw cv mo sh} (h : Holds P c)
    (hd : dr.mem = c.dram.mem) (hi : se.ik = c.sec.ik) (hk : se.kwk = c.sec.kwk) :
    Holds P (Chip.mk c.regs fr sc bo ta va vp fl la ra rc sp tb sv sa de cm au ne pl cl dr na st se pw cv mo sh) := K.upd h hd hi hk

grind_pattern Chip.upd_keeps => Chip.mk c.regs fr sc bo ta va vp fl la ra rc sp tb sv sa de cm au ne pl cl dr na st se pw cv mo sh, Chip.Keeps P

theorem Chip.wr_keeps {P : Chip → Prop} (K : Chip.Keeps P) {c : Chip} (h : Holds P c) (a : Nat) (w : Word) :
    Holds P (c.wr a w) := K.wr c a w h

grind_pattern Chip.wr_keeps => Chip.wr c a w, Chip.Keeps P

theorem Chip.dramWrite_keeps {P : Chip → Prop} (K : Chip.Stable P) {c : Chip} (h : Holds P c) (a : Nat) (l : List Byte) :
    Holds P (c.dramWrite a l) := K.write c a l h

grind_pattern Chip.dramWrite_keeps => Chip.dramWrite c a l, Chip.Stable P

theorem Chip.fresh_keeps {P : Chip → Prop} (K : Chip.Stable P) {c : Chip} (h : Holds P c) (warm : Bool) :
    Holds P (c.fresh warm) := K.reset c warm h

grind_pattern Chip.fresh_keeps => Chip.fresh c warm, Chip.Stable P

theorem Chip.blowSecrets_keeps {P : Chip → Prop} (K : Chip.Stable P) {c : Chip} (h : Holds P c) (b : List Byte) :
    Holds P (c.blowSecrets b) := K.blow c b h

grind_pattern Chip.blowSecrets_keeps => Chip.blowSecrets c b, Chip.Stable P

theorem Chip.burnSecrets_keeps {P : Chip → Prop} (K : Chip.Stable P) {c : Chip} (h : Holds P c) : Holds P c.burnSecrets := K.burn c h

grind_pattern Chip.burnSecrets_keeps => Chip.burnSecrets c, Chip.Stable P

/-! ### The shapes in which operations are put together -/

theorem Chip.each_keeps {P : Chip → Prop} {α : Type} (l : List α) (f : Chip → α → Chip) {c : Chip} (h : Holds P c)
    (hf : ∀ (c : Chip) (a : α), Holds P c → Holds P (f c a)) : Holds P (c.each l f) := by
  unfold Chip.each
  induction l generalizing c with
  | nil => exact h
  | cons a l ih => exact ih (hf c a h)

grind_pattern Chip.each_keeps => Chip.each c l f, Holds P c

theorem Chip.foldl_keeps {P : Chip → Prop} {α : Type} (l : List α) (f : Chip → α → Chip) {c : Chip} (h : Holds P c)
    (hf : ∀ (c : Chip) (a : α), Holds P c → Holds P (f c a)) : Holds P (l.foldl f c) := Chip.each_keeps l f h hf

grind_pattern Chip.foldl_keeps => List.foldl f c l, Holds P c

/-- A fold that carries the device beside something else. -/
theorem Chip.foldl_fst_keeps {P : Chip → Prop} (_ : Chip.Keeps P) {α β : Type} (l : List α) (f : Chip × β → α → Chip × β) {x : Chip × β}
    (h : Holds P x.1) (hf : ∀ (x : Chip × β) (a : α), Holds P x.1 → Holds P (f x a).1) : Holds P (l.foldl f x).1 := by
  induction l generalizing x with
  | nil => exact h
  | cons a l ih => exact ih (hf x a h)

grind_pattern Chip.foldl_fst_keeps => List.foldl f x l, Chip.Keeps P

theorem Chip.when_keeps {P : Chip → Prop} {c : Chip} {b : Bool} {f : Chip → Chip} (h : Holds P c)
    (hf : ∀ c : Chip, Holds P c → Holds P (f c)) : Holds P (c.when b f) := by
  unfold Chip.when
  split
  · exact hf c h
  · exact h

grind_pattern Chip.when_keeps => Chip.when c b f, Holds P c

theorem Chip.ite_keeps {P : Chip → Prop} {p : Prop} [Decidable p] {a b : Chip} (ha : p → Holds P a) (hb : ¬p → Holds P b) :
    Holds P (if p then a else b) := by
  split
  · exact ha (by assumption)
  · exact hb (by assumption)

theorem Chip.ite_keeps_fst {P : Chip → Prop} {β : Type} {p : Prop} [Decidable p] {a b : Chip × β} (ha : p → Holds P a.1)
    (hb : ¬p → Holds P b.1) : Holds P (if p then a else b).1 := by
  split
  · exact ha (by assumption)
  · exact hb (by assumption)

/-- A meaning that changes only the device keeps what its change keeps. -/
theorem onChip_keeps {P : Chip → Prop} {f : Chip → Chip} {s s' : State} (h : Holds P s.chip)
    (hf : ∀ c : Chip, Holds P c → Holds P (f c)) (e : onChip f s = .next s') : Holds P s'.chip := by
  cases e
  exact hf _ h

end Sys2Proof.Machine
end

