-- ==== Sys2Proof/Laws/OpsA.lean ====
section
/-! SUPPORT. What every operation keeps: the shared operations, the sequencer, ingest, audio and interrupts. -/

namespace Sys2Proof.Machine

set_option Elab.async false

/-! ### Ops -/

theorem Chip.set_keeps {P : Chip → Prop} (K : Chip.Keeps P) {c : Chip} (h : Holds P c) (f : Fld) (i v : Nat) :
    Holds P (c.set f i v) := by
  grind [Chip.set]
grind_pattern Chip.set_keeps => Chip.set c f i v, Chip.Keeps P

theorem Chip.setB_keeps {P : Chip → Prop} (K : Chip.Keeps P) {c : Chip} (h : Holds P c) (f : Fld) (i : Nat) (b : Bool) :
    Holds P (c.setB f i b) := by
  grind [Chip.setB]
grind_pattern Chip.setB_keeps => Chip.setB c f i b, Chip.Keeps P

theorem Chip.bump_keeps {P : Chip → Prop} (K : Chip.Keeps P) {c : Chip} (h : Holds P c) (f : Fld) (i n : Nat) :
    Holds P (c.bump f i n) := by
  grind [Chip.bump]
grind_pattern Chip.bump_keeps => Chip.bump c f i n, Chip.Keeps P

theorem Chip.count_keeps {P : Chip → Prop} (K : Chip.Keeps P) {c : Chip} (h : Holds P c) (f : Fld) (i n : Nat) :
    Holds P (c.count f i n) := by
  grind [Chip.count]
grind_pattern Chip.count_keeps => Chip.count c f i n, Chip.Keeps P

theorem Chip.drop_keeps {P : Chip → Prop} (K : Chip.Keeps P) {c : Chip} (h : Holds P c) (f : Fld) (i : Nat) :
    Holds P (c.drop f i) := by
  grind [Chip.drop]
grind_pattern Chip.drop_keeps => Chip.drop c f i, Chip.Keeps P

theorem Chip.set2_keeps {P : Chip → Prop} (K : Chip.Keeps P) {c : Chip} (h : Holds P c) (lo hi : Fld) (i v : Nat) :
    Holds P (c.set2 lo hi i v) := by
  grind [Chip.set2]
grind_pattern Chip.set2_keeps => Chip.set2 c lo hi i v, Chip.Keeps P

theorem Chip.count2_keeps {P : Chip → Prop} (K : Chip.Keeps P) {c : Chip} (h : Holds P c) (lo hi : Fld) (i n : Nat) :
    Holds P (c.count2 lo hi i n) := by
  grind [Chip.count2]
grind_pattern Chip.count2_keeps => Chip.count2 c lo hi i n, Chip.Keeps P

theorem Chip.draw_keeps {P : Chip → Prop} (K : Chip.Keeps P) {c : Chip} (h : Holds P c) :
    Holds P (c.draw).2 := by
  grind [Chip.draw]
grind_pattern Chip.draw_keeps => Chip.draw c, Chip.Keeps P

theorem Chip.setBase_keeps {P : Chip → Prop} (K : Chip.Keeps P) {c : Chip} (h : Holds P c) (b : Nat) (t : TimeBase) :
    Holds P (c.setBase b t) := by
  grind [Chip.setBase]
grind_pattern Chip.setBase_keeps => Chip.setBase c b t, Chip.Keeps P

theorem Chip.setPlane_keeps {P : Chip → Prop} (K : Chip.Keeps P) {c : Chip} (h : Holds P c) (p : Nat) (v : PlaneRun) :
    Holds P (c.setPlane p v) := by
  grind [Chip.setPlane]
grind_pattern Chip.setPlane_keeps => Chip.setPlane c p v, Chip.Keeps P

theorem Chip.setPhysCol_keeps {P : Chip → Prop} (K : Chip.Keeps P) {c : Chip} (h : Holds P c) (pc : Nat) (v : Option Nat) :
    Holds P (c.setPhysCol pc v) := by
  grind [Chip.setPhysCol]
grind_pattern Chip.setPhysCol_keeps => Chip.setPhysCol c pc v, Chip.Keeps P

theorem Chip.trace_keeps {P : Chip → Prop} (K : Chip.Keeps P) {c : Chip} (h : Holds P c) (kind plane aux data : Nat) :
    Holds P (c.trace kind plane aux data) := by
  grind [Chip.trace]
grind_pattern Chip.trace_keeps => Chip.trace c kind plane aux data, Chip.Keeps P

theorem Chip.pulse_keeps {P : Chip → Prop} (K : Chip.Keeps P) {c : Chip} (h : Holds P c) (source : Nat) :
    Holds P (c.pulse source) := by
  grind [Chip.pulse]
grind_pattern Chip.pulse_keeps => Chip.pulse c source, Chip.Keeps P

theorem Chip.fault_keeps {P : Chip → Prop} (K : Chip.Keeps P) {c : Chip} (h : Holds P c) (level cls domain block cause unit : Nat)
    (plane : Option Nat)
    (tclass : Nat) : Holds P (c.fault level cls domain block cause unit plane tclass) := by
  cases plane <;> exact Chip.upd_keeps K h rfl rfl rfl
grind_pattern Chip.fault_keeps => (c.fault level cls domain block cause unit plane tclass), Chip.Keeps P

theorem Chip.schedLatch_keeps {P : Chip → Prop} (K : Chip.Keeps P) {c : Chip} (h : Holds P c) (fcls cause plane stream slot cyc : Nat) :
    Holds P (c.schedLatch fcls cause plane stream slot cyc) := by
  grind [Chip.schedLatch]
grind_pattern Chip.schedLatch_keeps => (c.schedLatch fcls cause plane stream slot cyc), Chip.Keeps P

theorem Chip.schedFault_keeps {P : Chip → Prop} (K : Chip.Keeps P) {c : Chip} (h : Holds P c)
    (fcls cause plane stream slot tcls tidx cyc : Nat) :
    Holds P (c.schedFault fcls cause plane stream slot tcls tidx cyc) := by
  grind [Chip.schedFault]
grind_pattern Chip.schedFault_keeps => (c.schedFault fcls cause plane stream slot tcls tidx cyc), Chip.Keeps P

theorem Chip.setCvu_keeps {P : Chip → Prop} (K : Chip.Keeps P) {c : Chip} (h : Holds P c) (n : Nat) (v : CvuCtx) :
    Holds P (c.setCvu n v) := by
  grind [Chip.setCvu]
grind_pattern Chip.setCvu_keeps => Chip.setCvu c n v, Chip.Keeps P

theorem Chip.agreeSend_keeps {P : Chip → Prop} (K : Chip.Keeps P) {c : Chip} (h : Holds P c) (r : AgreeRec) :
    Holds P (c.agreeSend r) := by
  grind [Chip.agreeSend]
grind_pattern Chip.agreeSend_keeps => Chip.agreeSend c r, Chip.Keeps P

/-! ### Sequencer -/

theorem Chip.setStream_keeps {P : Chip → Prop} (K : Chip.Keeps P) {c : Chip} (h : Holds P c) (st : Nat) (v : StreamRun) :
    Holds P (c.setStream st v) := by
  grind [Chip.setStream]
grind_pattern Chip.setStream_keeps => Chip.setStream c st v, Chip.Keeps P

theorem Chip.advance_keeps {P : Chip → Prop} (K : Chip.Keeps P) {c : Chip} (h : Holds P c) (st : Nat) :
    Holds P (c.advance st) := by
  grind [Chip.advance]
grind_pattern Chip.advance_keeps => Chip.advance c st, Chip.Keeps P

theorem Chip.writeMark_keeps {P : Chip → Prop} (K : Chip.Keeps P) {c : Chip} (h : Holds P c) (n v : Nat) :
    Holds P (c.writeMark n v) := by
  grind [Chip.writeMark]
grind_pattern Chip.writeMark_keeps => Chip.writeMark c n v, Chip.Keeps P

theorem Chip.writeMarks_keeps {P : Chip → Prop} (K : Chip.Keeps P) {c : Chip} (h : Holds P c) (l : List (Nat × Nat)) :
    Holds P (c.writeMarks l) := by
  grind [Chip.writeMarks]
grind_pattern Chip.writeMarks_keeps => Chip.writeMarks c l, Chip.Keeps P

theorem Chip.setTarget_keeps {P : Chip → Prop} (K : Chip.Keeps P) {c : Chip} (h : Holds P c) (k : Nat) (v : TargetRun) :
    Holds P (c.setTarget k v) := by
  grind [Chip.setTarget]
grind_pattern Chip.setTarget_keeps => Chip.setTarget c k v, Chip.Keeps P

theorem Chip.completeTarget_keeps {P : Chip → Prop} (K : Chip.Keeps P) {c : Chip} (h : Holds P c) (k : Nat) :
    Holds P (c.completeTarget k) := by
  grind [Chip.completeTarget]
grind_pattern Chip.completeTarget_keeps => Chip.completeTarget c k, Chip.Keeps P

theorem Chip.abortTarget_keeps {P : Chip → Prop} (K : Chip.Keeps P) {c : Chip} (h : Holds P c) (k : Nat) :
    Holds P (c.abortTarget k) := by
  grind [Chip.abortTarget]
grind_pattern Chip.abortTarget_keeps => Chip.abortTarget c k, Chip.Keeps P

theorem Chip.timingFault_keeps {P : Chip → Prop} (K : Chip.Keeps P) {c : Chip} (h : Holds P c) (p : Nat) :
    Holds P (c.timingFault p) := by
  grind [Chip.timingFault]
grind_pattern Chip.timingFault_keeps => Chip.timingFault c p, Chip.Keeps P

theorem Chip.baseInvalid_keeps {P : Chip → Prop} (K : Chip.Keeps P) {c : Chip} (h : Holds P c) (b : Nat) :
    Holds P (c.baseInvalid b) := by
  grind [Chip.baseInvalid]
grind_pattern Chip.baseInvalid_keeps => Chip.baseInvalid c b, Chip.Keeps P

theorem Chip.beginPlane_keeps {P : Chip → Prop} (K : Chip.Keeps P) {c : Chip} (h : Holds P c) (p n : Nat) :
    Holds P (c.beginPlane p n) := by
  grind [Chip.beginPlane]
grind_pattern Chip.beginPlane_keeps => Chip.beginPlane c p n, Chip.Keeps P

theorem Chip.streamFault_keeps {P : Chip → Prop} (K : Chip.Keeps P) {c : Chip} (h : Holds P c) (fcls cause st slot tcls tidx cyc : Nat) :
    Holds P (c.streamFault fcls cause st slot tcls tidx cyc) := by
  grind [Chip.streamFault]
grind_pattern Chip.streamFault_keeps => (c.streamFault fcls cause st slot tcls tidx cyc), Chip.Keeps P

/-! ### Ingest -/

theorem Chip.setFlow_keeps {P : Chip → Prop} (K : Chip.Keeps P) {c : Chip} (h : Holds P c) (f : Nat) (v : FlowRx) :
    Holds P (c.setFlow f v) := by
  grind [Chip.setFlow]
grind_pattern Chip.setFlow_keeps => Chip.setFlow c f v, Chip.Keeps P

theorem Chip.joinFlow_keeps {P : Chip → Prop} (K : Chip.Keeps P) {c : Chip} (h : Holds P c) (f : Nat) :
    Holds P (c.joinFlow f) := by
  grind [Chip.joinFlow]
grind_pattern Chip.joinFlow_keeps => Chip.joinFlow c f, Chip.Keeps P

theorem Chip.flowMatched_keeps {P : Chip → Prop} (K : Chip.Keeps P) {c : Chip} (h : Holds P c) (f n : Nat) :
    Holds P (c.flowMatched f n) := by
  grind [Chip.flowMatched]
grind_pattern Chip.flowMatched_keeps => Chip.flowMatched c f n, Chip.Keeps P

theorem Chip.memberTurnEnd_keeps {P : Chip → Prop} (K : Chip.Keeps P) {c : Chip} (h : Holds P c) (f n : Nat) :
    Holds P (c.memberTurnEnd f n) := by
  grind [Chip.memberTurnEnd]
grind_pattern Chip.memberTurnEnd_keeps => Chip.memberTurnEnd c f n, Chip.Keeps P

theorem Chip.memberRestart_keeps {P : Chip → Prop} (K : Chip.Keeps P) {c : Chip} (h : Holds P c) (f : Nat) :
    Holds P (c.memberRestart f) := by
  grind [Chip.memberRestart]
grind_pattern Chip.memberRestart_keeps => Chip.memberRestart c f, Chip.Keeps P

theorem Chip.membersStart_keeps {P : Chip → Prop} (K : Chip.Keeps P) {c : Chip} (h : Holds P c) (p : Nat) :
    Holds P (c.membersStart p) := by
  grind [Chip.membersStart]
grind_pattern Chip.membersStart_keeps => Chip.membersStart c p, Chip.Keeps P

theorem Chip.agreeLines_keeps {P : Chip → Prop} (K : Chip.Keeps P) {c : Chip} (h : Holds P c) (f s : Nat) (segs : List LineSeg) :
    Holds P (c.agreeLines f s segs) := by
  grind [Chip.agreeLines]
grind_pattern Chip.agreeLines_keeps => Chip.agreeLines c f s segs, Chip.Keeps P

theorem Chip.discardPic_keeps {P : Chip → Prop} (K : Chip.Keeps P) {c : Chip} (h : Holds P c) (f s : Nat) :
    Holds P (c.discardPic f s) := by
  grind [Chip.discardPic]
grind_pattern Chip.discardPic_keeps => (c.discardPic f s), Chip.Keeps P

theorem Chip.newPicture_keeps {P : Chip → Prop} (K : Chip.Keeps P) {c : Chip} (h : Holds P c) (f s : Nat) :
    Holds P (c.newPicture f s).1 := by
  grind [Chip.newPicture]
grind_pattern Chip.newPicture_keeps => (c.newPicture f s), Chip.Keeps P

theorem Chip.bufferSegs_keeps {P : Chip → Prop} (K : Chip.Keeps P) {c : Chip} (h : Holds P c) (f s : Nat) (segs : List LineSeg) :
    Holds P (c.bufferSegs f s segs) := by
  grind [Chip.bufferSegs]
grind_pattern Chip.bufferSegs_keeps => (c.bufferSegs f s segs), Chip.Keeps P

theorem Chip.takeSegs_keeps {P : Chip → Prop} (K : Chip.Keeps P) {c : Chip} (h : Holds P c) (f s : Nat) (segs : List LineSeg)
    (fresh : Bool) :
    Holds P (c.takeSegs f s segs fresh) := by
  grind [Chip.takeSegs]
grind_pattern Chip.takeSegs_keeps => (c.takeSegs f s segs fresh), Chip.Keeps P

theorem Chip.countDup_keeps {P : Chip → Prop} (K : Chip.Keeps P) {c : Chip} (h : Holds P c) (f : Nat) :
    Holds P (c.countDup f) := by
  grind [Chip.countDup]
grind_pattern Chip.countDup_keeps => Chip.countDup c f, Chip.Keeps P

theorem Chip.legHeard_keeps {P : Chip → Prop} (K : Chip.Keeps P) {c : Chip} (h : Holds P c) (f : Nat) (isB : Bool) (t : Nat) :
    Holds P (c.legHeard f isB t) := by
  grind [Chip.legHeard]
grind_pattern Chip.legHeard_keeps => Chip.legHeard c f isB t, Chip.Keeps P

theorem Chip.countLost_keeps {P : Chip → Prop} (K : Chip.Keeps P) {c : Chip} (h : Holds P c) (f : Nat) :
    Holds P (c.countLost f) := by
  grind [Chip.countLost]
grind_pattern Chip.countLost_keeps => Chip.countLost c f, Chip.Keeps P

theorem Chip.mergeSeq_keeps {P : Chip → Prop} (K : Chip.Keeps P) {c : Chip} (h : Holds P c) (f : Nat) (isB : Bool) (s stamp pstamp
    line : Nat) :
    Holds P (c.mergeSeq f isB s stamp pstamp line).1 := by
  grind [Chip.mergeSeq]
grind_pattern Chip.mergeSeq_keeps => Chip.mergeSeq c f isB s stamp pstamp line, Chip.Keeps P

theorem Chip.mergePacket_keeps {P : Chip → Prop} (K : Chip.Keeps P) {c : Chip} (h : Holds P c) (k : MediaPacket) :
    Holds P (c.mergePacket k) := by
  grind [Chip.mergePacket]
grind_pattern Chip.mergePacket_keeps => Chip.mergePacket c k, Chip.Keeps P

theorem Chip.agreeAnc_keeps {P : Chip → Prop} (K : Chip.Keeps P) {c : Chip} (h : Holds P c) (f n : Nat) :
    Holds P (c.agreeAnc f n) := by
  grind [Chip.agreeAnc]
grind_pattern Chip.agreeAnc_keeps => Chip.agreeAnc c f n, Chip.Keeps P

theorem Chip.storeLine_keeps {P : Chip → Prop} (K : Chip.Stable P) {c : Chip} (h : Holds P c) (st : Option PicStore) (is422 : Bool)
    (w h n line : Nat) (pic : WrPic) :
    Holds P (c.storeLine st is422 w h n line pic) := by
  have K0 := K.toKeeps
  cases st <;> grind [Chip.storeLine]
grind_pattern Chip.storeLine_keeps => (c.storeLine st is422 w h n line pic), Chip.Stable P

theorem Chip.lineSlot_keeps {P : Chip → Prop} (K : Chip.Stable P) {c : Chip} (h : Holds P c) (f n line : Nat) (ecc poison : Bool) :
    Holds P (c.lineSlot f n line ecc poison) := by
  have K0 := K.toKeeps
  grind [Chip.lineSlot]
grind_pattern Chip.lineSlot_keeps => (c.lineSlot f n line ecc poison), Chip.Stable P

theorem Chip.dropAnc_keeps {P : Chip → Prop} (K : Chip.Keeps P) {c : Chip} (h : Holds P c) (f : Nat) :
    Holds P (c.dropAnc f) := by
  grind [Chip.dropAnc]
grind_pattern Chip.dropAnc_keeps => Chip.dropAnc c f, Chip.Keeps P

theorem Chip.storeAnc_keeps {P : Chip → Prop} (K : Chip.Keeps P) {c : Chip} (h : Holds P c) (f s n : Nat) (a : AncPacket) :
    Holds P (c.storeAnc f s n a) := by
  grind [Chip.storeAnc]
grind_pattern Chip.storeAnc_keeps => (c.storeAnc f s n a), Chip.Keeps P

theorem Chip.ancTurn_keeps {P : Chip → Prop} (K : Chip.Keeps P) {c : Chip} (h : Holds P c) (f s : Nat) :
    Holds P (c.ancTurn f s).1 := by
  grind [Chip.ancTurn]
grind_pattern Chip.ancTurn_keeps => (c.ancTurn f s), Chip.Keeps P

theorem Chip.ancPacket_keeps {P : Chip → Prop} (K : Chip.Keeps P) {c : Chip} (h : Holds P c) (f s : Nat) (a : AncPacket) :
    Holds P (c.ancPacket f s a) := by
  grind [Chip.ancPacket]
grind_pattern Chip.ancPacket_keeps => Chip.ancPacket c f s a, Chip.Keeps P

theorem Chip.ancEnd_keeps {P : Chip → Prop} (K : Chip.Keeps P) {c : Chip} (h : Holds P c) (f s : Nat) :
    Holds P (c.ancEnd f s) := by
  grind [Chip.ancEnd]
grind_pattern Chip.ancEnd_keeps => Chip.ancEnd c f s, Chip.Keeps P

/-! ### Audio -/

theorem Chip.setPort_keeps {P : Chip → Prop} (K : Chip.Keeps P) {c : Chip} (h : Holds P c) (n : Nat) (v : AudPort) :
    Holds P (c.setPort n v) := by
  grind [Chip.setPort]
grind_pattern Chip.setPort_keeps => Chip.setPort c n v, Chip.Keeps P

theorem Chip.applyMask_keeps {P : Chip → Prop} (K : Chip.Keeps P) {c : Chip} (h : Holds P c) (n t : Nat) :
    Holds P (c.applyMask n t).1 := by
  grind [Chip.applyMask]
grind_pattern Chip.applyMask_keeps => Chip.applyMask c n t, Chip.Keeps P

theorem Chip.commitMask_keeps {P : Chip → Prop} (K : Chip.Keeps P) {c : Chip} (h : Holds P c) (n m t : Nat) (grid : Option Nat) :
    Holds P (c.commitMask n m t grid) := by
  grind [Chip.commitMask]
grind_pattern Chip.commitMask_keeps => Chip.commitMask c n m t grid, Chip.Keeps P

theorem Chip.putBlock_keeps {P : Chip → Prop} (K : Chip.Stable P) {c : Chip} (h : Holds P c) (n j stamp : Nat) (sub hold rep drop
    chg : Bool) (frames : List (List Nat)) :
    Holds P (c.putBlock n j stamp sub hold rep drop chg frames) := by
  have K0 := K.toKeeps
  grind [Chip.putBlock]
grind_pattern Chip.putBlock_keeps => Chip.putBlock c n j stamp sub hold rep drop chg frames, Chip.Stable P

theorem Chip.offerBlock_keeps {P : Chip → Prop} (K : Chip.Keeps P) {c : Chip} (h : Holds P c) (n t : Nat) :
    Holds P (c.offerBlock n t) := by
  grind [Chip.offerBlock]
grind_pattern Chip.offerBlock_keeps => Chip.offerBlock c n t, Chip.Keeps P

theorem Chip.portUnder_keeps {P : Chip → Prop} (K : Chip.Keeps P) {c : Chip} (h : Holds P c) (n : Nat) :
    Holds P (c.portUnder n) := by
  grind [Chip.portUnder]
grind_pattern Chip.portUnder_keeps => Chip.portUnder c n, Chip.Keeps P

theorem Chip.portJoin_keeps {P : Chip → Prop} (K : Chip.Keeps P) {c : Chip} (h : Holds P c) (n : Nat) :
    Holds P (c.portJoin n) := by
  grind [Chip.portJoin]
grind_pattern Chip.portJoin_keeps => Chip.portJoin c n, Chip.Keeps P

theorem Chip.portSubst_keeps {P : Chip → Prop} (K : Chip.Stable P) {c : Chip} (h : Holds P c) (n j : Nat) :
    Holds P (c.portSubst n j) := by
  have K0 := K.toKeeps
  grind [Chip.portSubst]
grind_pattern Chip.portSubst_keeps => Chip.portSubst c n j, Chip.Stable P

theorem Chip.audioSlot_keeps {P : Chip → Prop} (K : Chip.Stable P) {c : Chip} (h : Holds P c) (n j : Nat) :
    Holds P (c.audioSlot n j) := by
  have K0 := K.toKeeps
  grind [Chip.audioSlot]
grind_pattern Chip.audioSlot_keeps => Chip.audioSlot c n j, Chip.Stable P

theorem Chip.portRestart_keeps {P : Chip → Prop} (K : Chip.Keeps P) {c : Chip} (h : Holds P c) (n : Nat) :
    Holds P (c.portRestart n) := by
  grind [Chip.portRestart]
grind_pattern Chip.portRestart_keeps => Chip.portRestart c n, Chip.Keeps P

theorem Chip.portsStart_keeps {P : Chip → Prop} (K : Chip.Keeps P) {c : Chip} (h : Holds P c) (p : Nat) :
    Holds P (c.portsStart p) := by
  grind [Chip.portsStart]
grind_pattern Chip.portsStart_keeps => Chip.portsStart c p, Chip.Keeps P

/-! ### Interrupts -/

theorem Chip.setSrc_keeps {P : Chip → Prop} (K : Chip.Keeps P) {c : Chip} (h : Holds P c) (s : Nat) (x : SrcRun) :
    Holds P (c.setSrc s x) := by
  grind [Chip.setSrc]
grind_pattern Chip.setSrc_keeps => Chip.setSrc c s x, Chip.Keeps P

theorem Chip.setCore_keeps {P : Chip → Prop} (K : Chip.Keeps P) {c : Chip} (h : Holds P c) (k : Nat) (x : CoreRun) :
    Holds P (c.setCore k x) := by
  grind [Chip.setCore]
grind_pattern Chip.setCore_keeps => Chip.setCore c k x, Chip.Keeps P

theorem Chip.setQueue_keeps {P : Chip → Prop} (K : Chip.Keeps P) {c : Chip} (h : Holds P c) (q : Nat) (x : QueueRun) :
    Holds P (c.setQueue q x) := by
  grind [Chip.setQueue]
grind_pattern Chip.setQueue_keeps => Chip.setQueue c q x, Chip.Keeps P

theorem Chip.unpend_keeps {P : Chip → Prop} (K : Chip.Keeps P) {c : Chip} (h : Holds P c) (s : Nat) :
    Holds P (c.unpend s) := by
  grind [Chip.unpend]
grind_pattern Chip.unpend_keeps => Chip.unpend c s, Chip.Keeps P

theorem Chip.sendMsix_keeps {P : Chip → Prop} (K : Chip.Keeps P) {c : Chip} (h : Holds P c) (v : Nat) :
    Holds P (c.sendMsix v) := by
  grind [Chip.sendMsix]
grind_pattern Chip.sendMsix_keeps => Chip.sendMsix c v, Chip.Keeps P

theorem Chip.enqueue_keeps {P : Chip → Prop} (K : Chip.Keeps P) {c : Chip} (h : Holds P c) (q : Nat) (w : WorkItem) :
    Holds P (c.enqueue q w) := by
  grind [Chip.enqueue]
grind_pattern Chip.enqueue_keeps => Chip.enqueue c q w, Chip.Keeps P

theorem Chip.fastEntry_keeps {P : Chip → Prop} (K : Chip.Keeps P) {c : Chip} (h : Holds P c) (k s : Nat) :
    Holds P (c.fastEntry k s) := by
  grind [Chip.fastEntry]
grind_pattern Chip.fastEntry_keeps => Chip.fastEntry c k s, Chip.Keeps P

theorem Chip.deliver_keeps {P : Chip → Prop} (K : Chip.Keeps P) {c : Chip} (h : Holds P c) (s : Nat) :
    Holds P (c.deliver s) := by
  grind [Chip.deliver]
grind_pattern Chip.deliver_keeps => Chip.deliver c s, Chip.Keeps P

theorem Chip.offerOne_keeps {P : Chip → Prop} (K : Chip.Keeps P) {c : Chip} (h : Holds P c) :
    Holds P (c.offerOne) := by
  grind [Chip.offerOne]
grind_pattern Chip.offerOne_keeps => Chip.offerOne c, Chip.Keeps P

theorem Chip.dispatch_keeps {P : Chip → Prop} (K : Chip.Keeps P) {c : Chip} (h : Holds P c) :
    Holds P (c.dispatch) := by
  grind [Chip.dispatch]
grind_pattern Chip.dispatch_keeps => Chip.dispatch c, Chip.Keeps P

theorem Chip.deliverAll_keeps {P : Chip → Prop} (K : Chip.Keeps P) {c : Chip} (h : Holds P c) :
    Holds P (c.deliverAll) := by
  grind [Chip.deliverAll]
grind_pattern Chip.deliverAll_keeps => Chip.deliverAll c, Chip.Keeps P

theorem Chip.storm_keeps {P : Chip → Prop} (K : Chip.Keeps P) {c : Chip} (h : Holds P c) (s : Nat) :
    Holds P (c.storm s) := by
  grind [Chip.storm]
grind_pattern Chip.storm_keeps => Chip.storm c s, Chip.Keeps P

theorem Chip.assertion_keeps {P : Chip → Prop} (K : Chip.Keeps P) {c : Chip} (h : Holds P c) (s : Nat) :
    Holds P (c.assertion s) := by
  grind [Chip.assertion]
grind_pattern Chip.assertion_keeps => Chip.assertion c s, Chip.Keeps P

theorem Chip.sensedEdge_keeps {P : Chip → Prop} (K : Chip.Keeps P) {c : Chip} (h : Holds P c) (s : Nat) :
    Holds P (c.sensedEdge s) := by
  grind [Chip.sensedEdge]
grind_pattern Chip.sensedEdge_keeps => Chip.sensedEdge c s, Chip.Keeps P

theorem Chip.senseLevel_keeps {P : Chip → Prop} (K : Chip.Keeps P) {c : Chip} (h : Holds P c) (s : Nat) (lvl : Bool) :
    Holds P (c.senseLevel s lvl) := by
  grind [Chip.senseLevel]
grind_pattern Chip.senseLevel_keeps => Chip.senseLevel c s lvl, Chip.Keeps P

theorem Chip.sense_keeps {P : Chip → Prop} (K : Chip.Keeps P) {c : Chip} (h : Holds P c) (s : Nat) :
    Holds P (c.sense s) := by
  grind [Chip.sense]
grind_pattern Chip.sense_keeps => Chip.sense c s, Chip.Keeps P

theorem Chip.repend_keeps {P : Chip → Prop} (K : Chip.Keeps P) {c : Chip} (h : Holds P c) (s : Nat) :
    Holds P (c.repend s) := by
  grind [Chip.repend]
grind_pattern Chip.repend_keeps => Chip.repend c s, Chip.Keeps P

theorem Chip.firmware_keeps {P : Chip → Prop} (K : Chip.Keeps P) {c : Chip} (h : Holds P c) (k : Nat) (w : FwCore) :
    Holds P (c.firmware k w) := by
  grind [Chip.firmware]
grind_pattern Chip.firmware_keeps => Chip.firmware c k w, Chip.Keeps P

theorem Chip.stormCleared_keeps {P : Chip → Prop} (K : Chip.Keeps P) {c : Chip} (h : Holds P c) (s : Nat) :
    Holds P (c.stormCleared s) := by
  grind [Chip.stormCleared]
grind_pattern Chip.stormCleared_keeps => Chip.stormCleared c s, Chip.Keeps P

theorem Chip.popStack_keeps {P : Chip → Prop} (K : Chip.Keeps P) {c : Chip} (h : Holds P c) (k : Nat) :
    Holds P (c.popStack k) := by
  grind [Chip.popStack]
grind_pattern Chip.popStack_keeps => Chip.popStack c k, Chip.Keeps P

theorem Chip.serviceFault_keeps {P : Chip → Prop} (K : Chip.Keeps P) {c : Chip} (h : Holds P c) (k : Nat) :
    Holds P (c.serviceFault k) := by
  grind [Chip.serviceFault]
grind_pattern Chip.serviceFault_keeps => Chip.serviceFault c k, Chip.Keeps P

theorem Chip.enqueueFrame_keeps {P : Chip → Prop} (K : Chip.Keeps P) {c : Chip} (h : Holds P c) (q : Nat) (w : WorkItem) :
    Holds P (c.enqueueFrame q w) := by
  grind [Chip.enqueueFrame]
grind_pattern Chip.enqueueFrame_keeps => Chip.enqueueFrame c q w, Chip.Keeps P

theorem Chip.resetCore_keeps {P : Chip → Prop} (K : Chip.Keeps P) {c : Chip} (h : Holds P c) (k : Nat) :
    Holds P (c.resetCore k) := by
  grind [Chip.resetCore]
grind_pattern Chip.resetCore_keeps => Chip.resetCore c k, Chip.Keeps P

theorem Chip.pinLevel_keeps {P : Chip → Prop} (K : Chip.Keeps P) {c : Chip} (h : Holds P c) (n : Nat) (high : Bool) :
    Holds P (c.pinLevel n high) := by
  grind [Chip.pinLevel]
grind_pattern Chip.pinLevel_keeps => Chip.pinLevel c n high, Chip.Keeps P

theorem Chip.drivePins_keeps {P : Chip → Prop} (K : Chip.Keeps P) {c : Chip} (h : Holds P c) (osrc : Nat) (level : Nat → Bool) :
    Holds P (c.drivePins osrc level) := by
  grind [Chip.drivePins]
grind_pattern Chip.drivePins_keeps => Chip.drivePins c osrc level, Chip.Keeps P

theorem Chip.driveActive_keeps {P : Chip → Prop} (K : Chip.Keeps P) {c : Chip} (h : Holds P c) :
    Holds P (c.driveActive) := by
  grind [Chip.driveActive]
grind_pattern Chip.driveActive_keeps => Chip.driveActive c, Chip.Keeps P

theorem Chip.boundaryPins_keeps {P : Chip → Prop} (K : Chip.Keeps P) {c : Chip} (h : Holds P c) (p : Nat) :
    Holds P (c.boundaryPins p) := by
  grind [Chip.boundaryPins]
grind_pattern Chip.boundaryPins_keeps => Chip.boundaryPins c p, Chip.Keeps P

/-! ### TimeBases -/

theorem Chip.phaseTo_keeps {P : Chip → Prop} (K : Chip.Keeps P) {c : Chip} (h : Holds P c) (k : Nat) (p : Int) :
    Holds P (c.phaseTo k p) := by
  grind [Chip.phaseTo]
grind_pattern Chip.phaseTo_keeps => Chip.phaseTo c k p, Chip.Keeps P

theorem Chip.slewPhase_keeps {P : Chip → Prop} (K : Chip.Keeps P) {c : Chip} (h : Holds P c) (k : Nat) :
    Holds P (c.slewPhase k) := by
  grind [Chip.slewPhase]
grind_pattern Chip.slewPhase_keeps => Chip.slewPhase c k, Chip.Keeps P

theorem Chip.squelch_keeps {P : Chip → Prop} (K : Chip.Keeps P) {c : Chip} (h : Holds P c) :
    Holds P (c.squelch) := by
  grind [Chip.squelch]
grind_pattern Chip.squelch_keeps => Chip.squelch c, Chip.Keeps P

theorem Chip.setRate_keeps {P : Chip → Prop} (K : Chip.Keeps P) {c : Chip} (h : Holds P c) (b : Nat) (r : Int) :
    Holds P (c.setRate b r) := by
  grind [Chip.setRate]
grind_pattern Chip.setRate_keeps => Chip.setRate c b r, Chip.Keeps P

theorem Chip.stepBase_keeps {P : Chip → Prop} (K : Chip.Keeps P) {c : Chip} (h : Holds P c) (b t40 : Nat) :
    Holds P (c.stepBase b t40) := by
  grind [Chip.stepBase]
grind_pattern Chip.stepBase_keeps => Chip.stepBase c b t40, Chip.Keeps P

theorem Chip.invalidateBase_keeps {P : Chip → Prop} (K : Chip.Keeps P) {c : Chip} (h : Holds P c) (b : Nat) :
    Holds P (c.invalidateBase b) := by
  grind [Chip.invalidateBase]
grind_pattern Chip.invalidateBase_keeps => Chip.invalidateBase c b, Chip.Keeps P

theorem Chip.enterHoldover_keeps {P : Chip → Prop} (K : Chip.Keeps P) {c : Chip} (h : Holds P c) (b : Nat) :
    Holds P (c.enterHoldover b) := by
  grind [Chip.enterHoldover]
grind_pattern Chip.enterHoldover_keeps => Chip.enterHoldover c b, Chip.Keeps P

theorem Chip.leaveHoldover_keeps {P : Chip → Prop} (K : Chip.Keeps P) {c : Chip} (h : Holds P c) (b : Nat) :
    Holds P (c.leaveHoldover b) := by
  grind [Chip.leaveHoldover]
grind_pattern Chip.leaveHoldover_keeps => Chip.leaveHoldover c b, Chip.Keeps P

theorem Chip.tryLock_keeps {P : Chip → Prop} (K : Chip.Keeps P) {c : Chip} (h : Holds P c) (s : Nat) :
    Holds P (c.tryLock s) := by
  grind [Chip.tryLock]
grind_pattern Chip.tryLock_keeps => Chip.tryLock c s, Chip.Keeps P

theorem Chip.estimate_keeps {P : Chip → Prop} (K : Chip.Keeps P) {c : Chip} (h : Holds P c) (b : Nat) (o : Int) :
    Holds P (c.estimate b o) := by
  grind [Chip.estimate]
grind_pattern Chip.estimate_keeps => Chip.estimate c b o, Chip.Keeps P

theorem Chip.holdSeconds_keeps {P : Chip → Prop} (K : Chip.Keeps P) {c : Chip} (h : Holds P c) :
    Holds P (c.holdSeconds) := by
  grind [Chip.holdSeconds]
grind_pattern Chip.holdSeconds_keeps => Chip.holdSeconds c, Chip.Keeps P

theorem Chip.basesStart_keeps {P : Chip → Prop} (K : Chip.Keeps P) {c : Chip} (h : Holds P c) :
    Holds P (c.basesStart) := by
  grind [Chip.basesStart]
grind_pattern Chip.basesStart_keeps => Chip.basesStart c, Chip.Keeps P

theorem Chip.restartBase_keeps {P : Chip → Prop} (K : Chip.Keeps P) {c : Chip} (h : Holds P c) (p : Nat) :
    Holds P (c.restartBase p) := by
  grind [Chip.restartBase]
grind_pattern Chip.restartBase_keeps => Chip.restartBase c p, Chip.Keeps P

/-! ### Dram -/

theorem Chip.dramFault_keeps {P : Chip → Prop} (K : Chip.Keeps P) {c : Chip} (h : Holds P c) (cause ch bank row : Nat) :
    Holds P (c.dramFault cause ch bank row) := by
  grind [Chip.dramFault]
grind_pattern Chip.dramFault_keeps => Chip.dramFault c cause ch bank row, Chip.Keeps P

theorem Chip.lineError_keeps {P : Chip → Prop} (K : Chip.Keeps P) {c : Chip} (h : Holds P c) (a : Nat) (e : LineErr) :
    Holds P (c.lineError a e).1 := by
  unfold Chip.lineError
  grind
grind_pattern Chip.lineError_keeps => Chip.lineError c a e, Chip.Keeps P

theorem Chip.lineErrors_keeps {P : Chip → Prop} (K : Chip.Keeps P) {c : Chip} (h : Holds P c) (a n : Nat) (errs : List LineErr) :
    Holds P (c.lineErrors a n errs).1 := by
  unfold Chip.lineErrors
  grind
grind_pattern Chip.lineErrors_keeps => Chip.lineErrors c a n errs, Chip.Keeps P

theorem Chip.activate_keeps {P : Chip → Prop} (K : Chip.Keeps P) {c : Chip} (h : Holds P c) (key row : Nat) (who : Option Nat) :
    Holds P (c.activate key row who) := by
  grind [Chip.activate]
grind_pattern Chip.activate_keeps => Chip.activate c key row who, Chip.Keeps P

theorem Chip.activations_keeps {P : Chip → Prop} (K : Chip.Keeps P) {c : Chip} (h : Holds P c) (a n : Nat) (who : Option Nat) :
    Holds P (c.activations a n who) := by
  unfold Chip.activations
  grind
grind_pattern Chip.activations_keeps => Chip.activations c a n who, Chip.Keeps P

theorem Chip.clearSnag_keeps {P : Chip → Prop} (K : Chip.Keeps P) {c : Chip} (h : Holds P c) :
    Holds P (c.clearSnag) := by
  grind [Chip.clearSnag]
grind_pattern Chip.clearSnag_keeps => Chip.clearSnag c, Chip.Keeps P

theorem Chip.serveDyn_keeps {P : Chip → Prop} (K : Chip.Stable P) {c : Chip} (h : Holds P c) (r : DynReq) :
    Holds P (c.serveDyn r) := by
  have := K.toKeeps
  grind [Chip.serveDyn]
grind_pattern Chip.serveDyn_keeps => Chip.serveDyn c r, Chip.Stable P

theorem Chip.serveDram_keeps {P : Chip → Prop} (K : Chip.Stable P) {c : Chip} (h : Holds P c) :
    Holds P (c.serveDram) := by
  have := K.toKeeps
  unfold Chip.serveDram
  grind
grind_pattern Chip.serveDram_keeps => Chip.serveDram c, Chip.Stable P

theorem Chip.egressPoison_keeps {P : Chip → Prop} (K : Chip.Keeps P) {c : Chip} (h : Holds P c) (flow line : Nat) (e : LineErr) :
    Holds P (c.egressPoison flow line e) := by
  grind [Chip.egressPoison]
grind_pattern Chip.egressPoison_keeps => Chip.egressPoison c flow line e, Chip.Keeps P

theorem Chip.lineSent_keeps {P : Chip → Prop} (K : Chip.Keeps P) {c : Chip} (h : Holds P c) (flow line : Nat) (black : Bool) :
    Holds P (c.lineSent flow line black) := by
  grind [Chip.lineSent]
grind_pattern Chip.lineSent_keeps => Chip.lineSent c flow line black, Chip.Keeps P

end Sys2Proof.Machine
end

