-- ==== Sys2Proof/Laws/OpsB.lean ====
section
/-! SUPPORT. What every operation keeps: the lanes, rate control, the Spindles and the network. -/

namespace Sys2Proof.Machine

set_option Elab.async false

/-! ### Lane -/

theorem Chip.setLaneSlot_keeps {P : Chip → Prop} (K : Chip.Keeps P) {c : Chip} (h : Holds P c) (n k : Nat) (v : SlotRun) :
    Holds P (c.setLaneSlot n k v) := by
  grind [Chip.setLaneSlot]
grind_pattern Chip.setLaneSlot_keeps => Chip.setLaneSlot c n k v, Chip.Keeps P

theorem Chip.orderRefreshAt_keeps {P : Chip → Prop} (K : Chip.Keeps P) {c : Chip} (h : Holds P c) (ch t : Nat) :
    Holds P (c.orderRefreshAt ch t) := by
  grind [Chip.orderRefreshAt]
grind_pattern Chip.orderRefreshAt_keeps => Chip.orderRefreshAt c ch t, Chip.Keeps P

theorem Chip.orderRefreshNow_keeps {P : Chip → Prop} (K : Chip.Keeps P) {c : Chip} (h : Holds P c) (ch : Nat) :
    Holds P (c.orderRefreshNow ch) := by
  grind [Chip.orderRefreshNow]
grind_pattern Chip.orderRefreshNow_keeps => Chip.orderRefreshNow c ch, Chip.Keeps P

theorem Chip.laneRecord_keeps {P : Chip → Prop} (K : Chip.Keeps P) {c : Chip} (h : Holds P c) (n pc cause slot row ctux cyc : Nat) :
    Holds P (c.laneRecord n pc cause slot row ctux cyc) := by
  grind [Chip.laneRecord]
grind_pattern Chip.laneRecord_keeps => (c.laneRecord n pc cause slot row ctux cyc), Chip.Keeps P

theorem Chip.laneRecordFault_keeps {P : Chip → Prop} (K : Chip.Keeps P) {c : Chip} (h : Holds P c) (n pc cause slot row ctux cyc : Nat) :
    Holds P (c.laneRecordFault n pc cause slot row ctux cyc) := by
  grind [Chip.laneRecordFault]
grind_pattern Chip.laneRecordFault_keeps => (c.laneRecordFault n pc cause slot row ctux cyc), Chip.Keeps P

theorem Chip.orderRefresh_keeps {P : Chip → Prop} (K : Chip.Keeps P) {c : Chip} (h : Holds P c) (ch : Nat) :
    Holds P (c.orderRefresh ch) := by
  grind [Chip.orderRefresh]
grind_pattern Chip.orderRefresh_keeps => Chip.orderRefresh c ch, Chip.Keeps P

theorem Chip.laneFault_keeps {P : Chip → Prop} (K : Chip.Keeps P) {c : Chip} (h : Holds P c) (n pc cause slot row ctux cyc : Nat) :
    Holds P (c.laneFault n pc cause slot row ctux cyc) := by
  grind [Chip.laneFault]
grind_pattern Chip.laneFault_keeps => (c.laneFault n pc cause slot row ctux cyc), Chip.Keeps P

theorem Chip.lanePicture_keeps {P : Chip → Prop} (K : Chip.Keeps P) {c : Chip} (h : Holds P c) (n pc k : Nat) (hrd : HrdSet) :
    Holds P (c.lanePicture n pc k hrd) := by
  grind [Chip.lanePicture]
grind_pattern Chip.lanePicture_keeps => (c.lanePicture n pc k hrd), Chip.Keeps P

theorem Chip.setRow_keeps {P : Chip → Prop} (K : Chip.Keeps P) {c : Chip} (h : Holds P c) (pc k : Nat) (old : Bool) (r : Nat)
    (f : RowRun → RowRun) :
    Holds P (c.setRow pc k old r f) := by
  grind [Chip.setRow]
grind_pattern Chip.setRow_keeps => (c.setRow pc k old r f), Chip.Keeps P

theorem Chip.guardRow_keeps {P : Chip → Prop} (K : Chip.Keeps P) {c : Chip} (h : Holds P c) (pc k : Nat) (old : Bool) (r : Nat)
    (intra : Bool) :
    Holds P (c.guardRow pc k old r intra) := by
  grind [Chip.guardRow]
grind_pattern Chip.guardRow_keeps => (c.guardRow pc k old r intra), Chip.Keeps P

theorem Chip.countGuardRow_keeps {P : Chip → Prop} (K : Chip.Keeps P) {c : Chip} (h : Holds P c) (n pc k : Nat) (old : Bool) (r : Nat) :
    Holds P (c.countGuardRow n pc k old r) := by
  grind [Chip.countGuardRow]
grind_pattern Chip.countGuardRow_keeps => (c.countGuardRow n pc k old r), Chip.Keeps P

theorem Chip.guardCols_keeps {P : Chip → Prop} (K : Chip.Keeps P) {c : Chip} (h : Holds P c) (pc k : Nat) (old : Bool) (r : Nat)
    (e : Nat × Nat) :
    Holds P (c.guardCols pc k old r e) := by
  grind [Chip.guardCols]
grind_pattern Chip.guardCols_keeps => (c.guardCols pc k old r e), Chip.Keeps P

theorem Chip.windowFault_keeps {P : Chip → Prop} (K : Chip.Keeps P) {c : Chip} (h : Holds P c) (n pc k : Nat) (old : Bool)
    (r cause ctux cyc : Nat) (e : Nat × Nat) :
    Holds P (c.windowFault n pc k old r cause ctux cyc e) := by
  grind [Chip.windowFault]
grind_pattern Chip.windowFault_keeps => (c.windowFault n pc k old r cause ctux cyc e), Chip.Keeps P

theorem Chip.fetchFaults_keeps {P : Chip → Prop} (K : Chip.Keeps P) {c : Chip} (h : Holds P c) (n pc : Nat) (w : FetchWork)
    (badLine badRef : Bool) :
    Holds P (c.fetchFaults n pc w badLine badRef) := by
  grind [Chip.fetchFaults]
grind_pattern Chip.fetchFaults_keeps => (c.fetchFaults n pc w badLine badRef), Chip.Keeps P

theorem Chip.laneFetch_keeps {P : Chip → Prop} (K : Chip.Keeps P) {c : Chip} (h : Holds P c) (n pc : Nat) (w : FetchWork) (subst : Bool) :
    Holds P (c.laneFetch n pc w subst) := by
  grind [Chip.laneFetch]
grind_pattern Chip.laneFetch_keeps => (c.laneFetch n pc w subst), Chip.Keeps P

theorem Chip.diverseCheck_keeps {P : Chip → Prop} (K : Chip.Keeps P) {c : Chip} (h : Holds P c) (n pc k : Nat) (q : SlotPic)
    (r x : Nat) (w : CtuWork) (recon : List Nat) :
    Holds P (c.diverseCheck n pc k q r x w recon) := by
  grind [Chip.diverseCheck]
grind_pattern Chip.diverseCheck_keeps => (c.diverseCheck n pc k q r x w recon), Chip.Keeps P

theorem Chip.laneCtu_keeps {P : Chip → Prop} (K : Chip.Keeps P) {c : Chip} (h : Holds P c) (n pc k r : Nat) (old : Bool)
    (refs : List RefPic) (x : Nat) (w : CtuWork) (s : SliceRun) :
    Holds P (c.laneCtu n pc k r old refs x w s).1 := by
  grind [Chip.laneCtu]
grind_pattern Chip.laneCtu_keeps => (c.laneCtu n pc k r old refs x w s), Chip.Keeps P

theorem Chip.laneCtus_keeps {P : Chip → Prop} (K : Chip.Keeps P) {c : Chip} (h : Holds P c) (n pc k r : Nat) (old : Bool)
    (refs : List RefPic) (ws : List CtuWork) :
    Holds P (c.laneCtus n pc k r old refs ws).1 := by
  grind [Chip.laneCtus]
grind_pattern Chip.laneCtus_keeps => (c.laneCtus n pc k r old refs ws), Chip.Keeps P

theorem Chip.lanePredict_keeps {P : Chip → Prop} (K : Chip.Keeps P) {c : Chip} (h : Holds P c) (n pc : Nat) (w : PredictWork)
    (subst : Bool) :
    Holds P (c.lanePredict n pc w subst) := by
  grind [Chip.lanePredict]
grind_pattern Chip.lanePredict_keeps => (c.lanePredict n pc w subst), Chip.Keeps P

theorem Chip.writeRefLines_keeps {P : Chip → Prop} (K : Chip.Keeps P) {c : Chip} (h : Holds P c) (pc k turn : Nat) (l : List
    (Nat × LineOut)) :
    Holds P (c.writeRefLines pc k turn l) := by
  grind [Chip.writeRefLines]
grind_pattern Chip.writeRefLines_keeps => (c.writeRefLines pc k turn l), Chip.Keeps P

theorem Chip.laneRow_keeps {P : Chip → Prop} (K : Chip.Keeps P) {c : Chip} (h : Holds P c) (n pc : Nat) (w : RowOut) (subst : Bool) :
    Holds P (c.laneRow n pc w subst) := by
  grind [Chip.laneRow]
grind_pattern Chip.laneRow_keeps => (c.laneRow n pc w subst), Chip.Keeps P

theorem Chip.laneTail_keeps {P : Chip → Prop} (K : Chip.Keeps P) {c : Chip} (h : Holds P c) (pc k : Nat) :
    Holds P (c.laneTail pc k) := by
  grind [Chip.laneTail]
grind_pattern Chip.laneTail_keeps => (c.laneTail pc k), Chip.Keeps P

theorem Chip.laneRunning_keeps {P : Chip → Prop} (K : Chip.Keeps P) {c : Chip} (h : Holds P c) (n : Nat) :
    Holds P (c.laneRunning n) := by
  grind [Chip.laneRunning]
grind_pattern Chip.laneRunning_keeps => Chip.laneRunning c n, Chip.Keeps P

/-! ### DecodeLane -/

theorem Chip.setDec_keeps {P : Chip → Prop} (K : Chip.Keeps P) {c : Chip} (h : Holds P c) (s : Nat) (v : DecStream) :
    Holds P (c.setDec s v) := by
  grind [Chip.setDec]
grind_pattern Chip.setDec_keeps => Chip.setDec c s v, Chip.Keeps P

theorem Chip.decCase_keeps {P : Chip → Prop} (K : Chip.Keeps P) {c : Chip} (h : Holds P c) (s code : Nat) :
    Holds P (c.decCase s code) := by
  grind [Chip.decCase]
grind_pattern Chip.decCase_keeps => Chip.decCase c s code, Chip.Keeps P

theorem Chip.decOffer_keeps {P : Chip → Prop} (K : Chip.Keeps P) {c : Chip} (h : Holds P c) (s : Nat) (a : DecAu) :
    Holds P (c.decOffer s a) := by
  grind [Chip.decOffer]
grind_pattern Chip.decOffer_keeps => Chip.decOffer c s a, Chip.Keeps P

theorem Chip.decArrive_keeps {P : Chip → Prop} (K : Chip.Keeps P) {c : Chip} (h : Holds P c) (s seq stamp n m : Nat) (parts : List
    DecPart) (last : Bool) :
    Holds P (c.decArrive s seq stamp n m parts last) := by
  unfold Chip.decArrive
  dsimp only
  generalize (match (c.dec s).relTurn with | some r => !later 40 n r | none => false) = late
  refine Chip.ite_keeps (fun _ => h) fun _ => ?_
  split
  · exact Chip.ite_keeps (fun _ => Chip.decOffer_keeps K (Chip.setDec_keeps K h _ _) _ _) fun _ => h
  · exact Chip.decOffer_keeps K (Chip.set_keeps K (Chip.setDec_keeps K h _ _) _ _ _) _ _
grind_pattern Chip.decArrive_keeps => Chip.decArrive c s seq stamp n m parts last, Chip.Keeps P

theorem Chip.tsArrive_keeps {P : Chip → Prop} (K : Chip.Keeps P) {c : Chip} (h : Holds P c) (s seq : Nat) (parts : List DecPart) :
    Holds P (c.tsArrive s seq parts) := by
  unfold Chip.tsArrive
  refine Chip.ite_keeps (fun _ => h) fun _ => Chip.each_keeps _ _ (Chip.each_keeps _ _ (Chip.setDec_keeps K h _ _) ?_) ?_
  · exact fun c e h => Chip.set_keeps K h _ _ _
  · exact fun c a h => Chip.decOffer_keeps K h _ _
grind_pattern Chip.tsArrive_keeps => Chip.tsArrive c s seq parts, Chip.Keeps P

theorem Chip.decLoss_keeps {P : Chip → Prop} (K : Chip.Keeps P) {c : Chip} (h : Holds P c) (s : Nat) :
    Holds P (c.decLoss s) := by
  grind [Chip.decLoss]
grind_pattern Chip.decLoss_keeps => Chip.decLoss c s, Chip.Keeps P

theorem Chip.decPacket_keeps {P : Chip → Prop} (K : Chip.Keeps P) {c : Chip} (h : Holds P c) (s f : Nat) (isB : Bool)
    (seq stamp at_ : Nat) (mark : Bool) (pay : List Byte) : Holds P (c.decPacket s f isB seq stamp at_ mark pay) := by
  have hm := Chip.mergeSeq_keeps K (Chip.legHeard_keeps K h f isB at_) f isB (c.wideSeq f seq) stamp stamp 0
  unfold Chip.decPacket
  refine Chip.ite_keeps (fun _ => h) fun _ => ?_
  revert hm
  dsimp only
  generalize Chip.mergeSeq _ _ _ _ _ _ _ = q
  intro hm
  refine Chip.ite_keeps (fun _ => hm) fun _ => Chip.ite_keeps (fun _ => Chip.tsArrive_keeps K hm _ _ _) fun _ => ?_
  split
  · exact hm
  · exact Chip.decArrive_keeps K hm _ _ _ _ _ _ _
grind_pattern Chip.decPacket_keeps => Chip.decPacket c s f isB seq stamp at_ mark pay, Chip.Keeps P

theorem Chip.decTap_keeps {P : Chip → Prop} (K : Chip.Keeps P) {c : Chip} (h : Holds P c) (f turn stamp : Nat) (mark : Bool)
    (pay : List Byte) :
    Holds P (c.decTap f turn stamp mark pay) := by
  exact Chip.each_keeps _ _ h (fun c s h => Chip.decArrive_keeps K h _ _ _ _ _ _ _)
grind_pattern Chip.decTap_keeps => Chip.decTap c f turn stamp mark pay, Chip.Keeps P

theorem Chip.rowMarks_keeps {P : Chip → Prop} (K : Chip.Keeps P) {c : Chip} (h : Holds P c) (s : Nat) :
    Holds P (c.rowMarks s) := by
  grind [Chip.rowMarks]
grind_pattern Chip.rowMarks_keeps => Chip.rowMarks c s, Chip.Keeps P

theorem Chip.decRelease_keeps {P : Chip → Prop} (K : Chip.Keeps P) {c : Chip} (h : Holds P c) (s : Nat) :
    Holds P (c.decRelease s) := by
  unfold Chip.decRelease
  dsimp only
  split
  · exact Chip.rowMarks_keeps K (Chip.decCase_keeps K (Chip.setDec_keeps K h _ _) _ _) _
  · exact Chip.when_keeps (Chip.setDec_keeps K h _ _) (fun c h => Chip.decCase_keeps K h _ _)
grind_pattern Chip.decRelease_keeps => Chip.decRelease c s, Chip.Keeps P

theorem Chip.parseBegin_keeps {P : Chip → Prop} (K : Chip.Keeps P) {c : Chip} (h : Holds P c) (s : Nat) (lost : List Nat) :
    Holds P (c.parseBegin s lost) := by
  unfold Chip.parseBegin
  dsimp only
  split
  · exact h
  · split
    · exact h
    · exact Chip.when_keeps (Chip.setDec_keeps K h _ _) (fun c h => Chip.decLoss_keeps K h _)
grind_pattern Chip.parseBegin_keeps => Chip.parseBegin c s lost, Chip.Keeps P

theorem Chip.parseStop_keeps {P : Chip → Prop} (K : Chip.Keeps P) {c : Chip} (h : Holds P c) (s : Nat) :
    Holds P (c.parseStop s) := by
  grind [Chip.parseStop]
grind_pattern Chip.parseStop_keeps => Chip.parseStop c s, Chip.Keeps P

theorem Chip.makeRefs_keeps {P : Chip → Prop} (K : Chip.Keeps P) {c : Chip} (h : Holds P c) (s : Nat) (refs : List Int) :
    Holds P (c.makeRefs s refs) := by
  grind [Chip.makeRefs]
grind_pattern Chip.makeRefs_keeps => Chip.makeRefs c s refs, Chip.Keeps P

theorem Chip.decRelSet_keeps {P : Chip → Prop} (K : Chip.Keeps P) {c : Chip} (h : Holds P c) (s : Nat) (f : DecRel → DecRel) :
    Holds P (c.decRelSet s f) := by
  grind [Chip.decRelSet]
grind_pattern Chip.decRelSet_keeps => Chip.decRelSet c s f, Chip.Keeps P

theorem Chip.parseSlice_keeps {P : Chip → Prop} (K : Chip.Keeps P) {c : Chip} (h : Holds P c) (s : Nat) (k : DecHead) (r : DecRel) :
    Holds P (c.parseSlice s k r) := by
  grind [Chip.parseSlice]
grind_pattern Chip.parseSlice_keeps => Chip.parseSlice c s k r, Chip.Keeps P

theorem Chip.parseOne_keeps {P : Chip → Prop} (K : Chip.Keeps P) {c : Chip} (h : Holds P c) (s : Nat) (b : List Byte) (n : DecNal) :
    Holds P (c.parseOne s b n) := by
  unfold Chip.parseOne
  grind
grind_pattern Chip.parseOne_keeps => Chip.parseOne c s b n, Chip.Keeps P

theorem Chip.parseSome_keeps {P : Chip → Prop} (K : Chip.Keeps P) {c : Chip} (h : Holds P c) (s : Nat) (x0 : List (List Byte))
    (x1 : List DecNal) :
    Holds P (c.parseSome s x0 x1) := by
  induction x0 generalizing c x1 <;> grind [Chip.parseSome]
grind_pattern Chip.parseSome_keeps => Chip.parseSome c s x0 x1, Chip.Keeps P

theorem Chip.decJoin_keeps {P : Chip → Prop} (K : Chip.Keeps P) {c : Chip} (h : Holds P c) (s : Nat) :
    Holds P (c.decJoin s) := by
  grind [Chip.decJoin]
grind_pattern Chip.decJoin_keeps => Chip.decJoin c s, Chip.Keeps P

theorem Chip.decPut_keeps {P : Chip → Prop} (K : Chip.Stable P) {c : Chip} (h : Holds P c) (s n : Nat) (lines : List (Nat × LineOut))
    (touched : List (Nat × Nat)) :
    Holds P (c.decPut s n lines touched) := by
  exact Chip.each_keeps _ _ (Chip.setDec_keeps K.toKeeps h _ _) (fun c e h => Chip.storeLine_keeps K h _ _ _ _ _ _ _)
grind_pattern Chip.decPut_keeps => Chip.decPut c s n lines touched, Chip.Stable P

theorem Chip.decOut_keeps {P : Chip → Prop} (K : Chip.Stable P) {c : Chip} (h : Holds P c) (s n : Nat) (lines : List (Nat × LineOut))
    (touched : List (Nat × Nat)) :
    Holds P (c.decOut s n lines touched) :=
  Chip.ite_keeps (fun _ => Chip.decPut_keeps K h _ _ _ _) fun _ => Chip.setDec_keeps K.toKeeps h _ _
grind_pattern Chip.decOut_keeps => Chip.decOut c s n lines touched, Chip.Stable P

theorem Chip.decShow_keeps {P : Chip → Prop} (K : Chip.Stable P) {c : Chip} (h : Holds P c) (s n : Nat) :
    Holds P (c.decShow s n) := by
  unfold Chip.decShow
  dsimp only
  split
  · exact h
  · exact Chip.decJoin_keeps K.toKeeps (Chip.decPut_keeps K (Chip.setDec_keeps K.toKeeps h _ _) _ _ _ _) _
grind_pattern Chip.decShow_keeps => Chip.decShow c s n, Chip.Stable P

theorem Chip.decVerdict_keeps {P : Chip → Prop} (K : Chip.Keeps P) {c : Chip} (h : Holds P c) (s : Nat) (r : DecRel) (k : DecHead) :
    Holds P (c.decVerdict s r k).1 := by
  grind [Chip.decVerdict]
grind_pattern Chip.decVerdict_keeps => Chip.decVerdict c s r k, Chip.Keeps P

theorem Chip.decLostPic_keeps {P : Chip → Prop} (K : Chip.Keeps P) {c : Chip} (h : Holds P c) (s : Nat) :
    Holds P (c.decLostPic s).1 := by
  grind [Chip.decLostPic]
grind_pattern Chip.decLostPic_keeps => Chip.decLostPic c s, Chip.Keeps P

theorem Chip.decDone_keeps {P : Chip → Prop} (K : Chip.Stable P) {c : Chip} (h : Holds P c) (s n : Nat) (p : DecSps) (r : DecRel)
    (shown : Bool) :
    Holds P (c.decDone s n p r shown) := by
  have k := K.toKeeps
  grind [Chip.decDone]
grind_pattern Chip.decDone_keeps => Chip.decDone c s n p r shown, Chip.Stable P

theorem Chip.decRowOf_keeps {P : Chip → Prop} (K : Chip.Stable P) {c : Chip} (h : Holds P c) (s : Nat) (w : DecRowWork) (subst : Bool)
    (r : DecRel) (p : DecSps) :
    Holds P (c.decRowOf s w subst r p) := by
  have k := K.toKeeps
  unfold Chip.decRowOf
  dsimp only
  have hw (n : Nat) (l : List (Nat × LineOut)) (t : List (Nat × Nat)) (b : Bool) (x : DecStream) (m : Nat) :
      Holds P ((((c.setDec s x).bump R.DEC_CONCCTU s m)).when b (·.decOut s n l t)) :=
    Chip.when_keeps (Chip.bump_keeps k (Chip.setDec_keeps k h _ _) _ _ _) (fun c h => Chip.decOut_keeps K h _ _ _ _)
  exact Chip.ite_keeps (fun _ => hw _ _ _ _ _ _) fun _ => Chip.decDone_keeps K (hw _ _ _ _ _ _) _ _ _ _ _
grind_pattern Chip.decRowOf_keeps => Chip.decRowOf c s w subst r p, Chip.Stable P

theorem Chip.decRow_keeps {P : Chip → Prop} (K : Chip.Stable P) {c : Chip} (h : Holds P c) (w : DecRowWork) (subst : Bool) :
    Holds P (c.decRow w subst) := by
  have k := K.toKeeps
  grind [Chip.decRow]
grind_pattern Chip.decRow_keeps => Chip.decRow c w subst, Chip.Stable P

theorem Chip.decTurnEnd_keeps {P : Chip → Prop} (K : Chip.Stable P) {c : Chip} (h : Holds P c) (s n : Nat) :
    Holds P (c.decTurnEnd s n) := by
  have k := K.toKeeps
  grind [Chip.decTurnEnd]
grind_pattern Chip.decTurnEnd_keeps => Chip.decTurnEnd c s n, Chip.Stable P

theorem Chip.decRestart_keeps {P : Chip → Prop} (K : Chip.Keeps P) {c : Chip} (h : Holds P c) (s : Nat) :
    Holds P (c.decRestart s) := by
  grind [Chip.decRestart]
grind_pattern Chip.decRestart_keeps => Chip.decRestart c s, Chip.Keeps P

/-! ### Compose -/

theorem Chip.composeLine_keeps {P : Chip → Prop} (K : Chip.Keeps P) {c : Chip} (h : Holds P c) (o line : Nat) (ecc : List Nat) :
    Holds P (c.composeLine o line ecc) := by
  grind [Chip.composeLine]
grind_pattern Chip.composeLine_keeps => Chip.composeLine c o line ecc, Chip.Keeps P

theorem Chip.sampleVisibility_keeps {P : Chip → Prop} (K : Chip.Keeps P) {c : Chip} (h : Holds P c) (p : Nat) :
    Holds P (c.sampleVisibility p) := by
  grind [Chip.sampleVisibility]
grind_pattern Chip.sampleVisibility_keeps => Chip.sampleVisibility c p, Chip.Keeps P

theorem Chip.scaleLine_keeps {P : Chip → Prop} (K : Chip.Stable P) {c : Chip} (h : Holds P c) (k line : Nat) (ecc : Bool) :
    Holds P (c.scaleLine k line ecc) := by
  have K0 := K.toKeeps
  grind [Chip.scaleLine]
grind_pattern Chip.scaleLine_keeps => Chip.scaleLine c k line ecc, Chip.Stable P

theorem Chip.stageCoef_keeps {P : Chip → Prop} (K : Chip.Keeps P) {c : Chip} (h : Holds P c) (k : Nat) (coef : List Int) :
    Holds P (c.stageCoef k coef) := by
  grind [Chip.stageCoef]
grind_pattern Chip.stageCoef_keeps => Chip.stageCoef c k coef, Chip.Keeps P

theorem Chip.flipBank_keeps {P : Chip → Prop} (K : Chip.Keeps P) {c : Chip} (h : Holds P c) (k : Nat) :
    Holds P (c.flipBank k) := by
  grind [Chip.flipBank]
grind_pattern Chip.flipBank_keeps => Chip.flipBank c k, Chip.Keeps P

/-! ### Rate -/

theorem Chip.setChan_keeps {P : Chip → Prop} (K : Chip.Keeps P) {c : Chip} (h : Holds P c) (ch : Nat) (v : ChanRate) :
    Holds P (c.setChan ch v) := by
  grind [Chip.setChan]
grind_pattern Chip.setChan_keeps => Chip.setChan c ch v, Chip.Keeps P

theorem Chip.pictureKernel_keeps {P : Chip → Prop} (K : Chip.Keeps P) {c : Chip} (h : Holds P c) (ch : Nat) (subst : Bool) :
    Holds P (c.pictureKernel ch subst) := by
  grind [Chip.pictureKernel]
grind_pattern Chip.pictureKernel_keeps => Chip.pictureKernel c ch subst, Chip.Keeps P

theorem Chip.endOfPicture_keeps {P : Chip → Prop} (K : Chip.Keeps P) {c : Chip} (h : Holds P c) (ch : Nat) :
    Holds P (c.endOfPicture ch) := by
  grind [Chip.endOfPicture]
grind_pattern Chip.endOfPicture_keeps => Chip.endOfPicture c ch, Chip.Keeps P

theorem Chip.saveRate_keeps {P : Chip → Prop} (K : Chip.Keeps P) {c : Chip} (h : Holds P c) (ch : Nat) :
    Holds P (c.saveRate ch) := by
  grind [Chip.saveRate]
grind_pattern Chip.saveRate_keeps => (c.saveRate ch), Chip.Keeps P

theorem Chip.rowKernel_keeps {P : Chip → Prop} (K : Chip.Keeps P) {c : Chip} (h : Holds P c) (ch r : Nat) (subst : Bool) :
    Holds P (c.rowKernel ch r subst) := by
  grind [Chip.rowKernel]
grind_pattern Chip.rowKernel_keeps => Chip.rowKernel c ch r subst, Chip.Keeps P

theorem Chip.rowDone_keeps {P : Chip → Prop} (K : Chip.Keeps P) {c : Chip} (h : Holds P c) (ch t r nal fill : Nat) :
    Holds P (c.rowDone ch t r nal fill) := by
  grind [Chip.rowDone]
grind_pattern Chip.rowDone_keeps => (c.rowDone ch t r nal fill), Chip.Keeps P

theorem Chip.statmux_keeps {P : Chip → Prop} (K : Chip.Keeps P) {c : Chip} (h : Holds P c) (g : Nat) (subst : Bool) :
    Holds P (c.statmux g subst) := by
  grind [Chip.statmux]
grind_pattern Chip.statmux_keeps => Chip.statmux c g subst, Chip.Keeps P

theorem Chip.rateBoundary_keeps {P : Chip → Prop} (K : Chip.Keeps P) {c : Chip} (h : Holds P c) (p : Nat) :
    Holds P (c.rateBoundary p) := by
  grind [Chip.rateBoundary]
grind_pattern Chip.rateBoundary_keeps => Chip.rateBoundary c p, Chip.Keeps P

theorem Chip.applyTrim_keeps {P : Chip → Prop} (K : Chip.Keeps P) {c : Chip} (h : Holds P c) (t : RateTarget) (kb : Nat) :
    Holds P (c.applyTrim t kb) := by
  grind [Chip.applyTrim]
grind_pattern Chip.applyTrim_keeps => Chip.applyTrim c t kb, Chip.Keeps P

theorem Chip.trimShown_keeps {P : Chip → Prop} (K : Chip.Keeps P) {c : Chip} (h : Holds P c) (ch : Nat) :
    Holds P (c.trimShown ch) := by
  grind [Chip.trimShown]
grind_pattern Chip.trimShown_keeps => Chip.trimShown c ch, Chip.Keeps P

theorem Chip.rateStart_keeps {P : Chip → Prop} (K : Chip.Keeps P) {c : Chip} (h : Holds P c) (p : Nat) :
    Holds P (c.rateStart p) := by
  grind [Chip.rateStart]
grind_pattern Chip.rateStart_keeps => Chip.rateStart c p, Chip.Keeps P

theorem Chip.hrdFault_keeps {P : Chip → Prop} (K : Chip.Keeps P) {c : Chip} (h : Holds P c) (ch : Nat) :
    Holds P (c.hrdFault ch) := by
  grind [Chip.hrdFault]
grind_pattern Chip.hrdFault_keeps => Chip.hrdFault c ch, Chip.Keeps P

/-! ### Egress -/

theorem Chip.setEg_keeps {P : Chip → Prop} (K : Chip.Keeps P) {c : Chip} (h : Holds P c) (f : Nat) (v : EgFlow) :
    Holds P (c.setEg f v) := by
  grind [Chip.setEg]
grind_pattern Chip.setEg_keeps => Chip.setEg c f v, Chip.Keeps P

theorem Chip.egStatus_keeps {P : Chip → Prop} (K : Chip.Keeps P) {c : Chip} (h : Holds P c) (f : Nat) :
    Holds P (c.egStatus f) := by
  grind [Chip.egStatus]
grind_pattern Chip.egStatus_keeps => Chip.egStatus c f, Chip.Keeps P

theorem Chip.egMarkFault_keeps {P : Chip → Prop} (K : Chip.Keeps P) {c : Chip} (h : Holds P c) (f : Nat) :
    Holds P (c.egMarkFault f) := by
  grind [Chip.egMarkFault]
grind_pattern Chip.egMarkFault_keeps => Chip.egMarkFault c f, Chip.Keeps P

theorem Chip.hrdCheck_keeps {P : Chip → Prop} (K : Chip.Keeps P) {c : Chip} (h : Holds P c) (u : NalUnit) (n drain : Nat) :
    Holds P (c.hrdCheck u n drain) := by
  grind [Chip.hrdCheck]
grind_pattern Chip.hrdCheck_keeps => (c.hrdCheck u n drain), Chip.Keeps P

theorem Chip.fillPacket_keeps {P : Chip → Prop} (K : Chip.Keeps P) {c : Chip} (h : Holds P c) (f ch n : Nat) :
    Holds P (c.fillPacket f ch n).1 := by
  grind [Chip.fillPacket]
grind_pattern Chip.fillPacket_keeps => (c.fillPacket f ch n), Chip.Keeps P

theorem Chip.nalBad_keeps {P : Chip → Prop} (K : Chip.Keeps P) {c : Chip} (h : Holds P c) (f ch : Nat) :
    Holds P (c.nalBad f ch) := by
  grind [Chip.nalBad]
grind_pattern Chip.nalBad_keeps => (c.nalBad f ch), Chip.Keeps P

theorem Chip.setNals_keeps {P : Chip → Prop} (K : Chip.Keeps P) {c : Chip} (h : Holds P c) (ch : Nat) (l : List NalUnit) :
    Holds P (c.setNals ch l) := by
  grind [Chip.setNals]
grind_pattern Chip.setNals_keeps => (c.setNals ch l), Chip.Keeps P

theorem Chip.nalOut_keeps {P : Chip → Prop} (K : Chip.Keeps P) {c : Chip} (h : Holds P c) (f ch : Nat) (u : NalUnit)
    (rest : List NalUnit) :
    Holds P (c.nalOut f ch u rest).1 := by
  grind [Chip.nalOut]
grind_pattern Chip.nalOut_keeps => (c.nalOut f ch u rest), Chip.Keeps P

theorem Chip.nativePacket_keeps {P : Chip → Prop} (K : Chip.Keeps P) {c : Chip} (h : Holds P c) (f ch : Nat) :
    Holds P (c.nativePacket f ch).1 := by
  grind [Chip.nativePacket]
grind_pattern Chip.nativePacket_keeps => Chip.nativePacket c f ch, Chip.Keeps P

theorem Chip.gatherNals_keeps {P : Chip → Prop} (K : Chip.Keeps P) {c : Chip} (h : Holds P c) (f ch now : Nat) (ecc : Bool)
    (x0 : List NalUnit) :
    Holds P (c.gatherNals f ch now ecc x0) := by
  induction x0 generalizing c with
  | nil => exact h
  | cons u l ih =>
    unfold Chip.gatherNals
    dsimp only
    refine Chip.ite_keeps (fun _ => h) fun _ => ih (Chip.hrdCheck_keeps K (Chip.when_keeps (Chip.when_keeps ?_ ?_) ?_) _ _ _)
    · exact Chip.setNals_keeps K (Chip.setEg_keeps K h _ _) _ _
    · exact fun c hc => Chip.nalBad_keeps K hc _ _
    · exact fun c hc => Chip.egMarkFault_keeps K hc _
grind_pattern Chip.gatherNals_keeps => (c.gatherNals f ch now ecc x0), Chip.Keeps P

theorem Chip.gatherAudio_keeps {P : Chip → Prop} (K : Chip.Keeps P) {c : Chip} (h : Holds P c) (f now k_ : Nat) :
    Holds P (c.gatherAudio f now k_) := by
  induction k_ generalizing c <;> grind [Chip.gatherAudio]
grind_pattern Chip.gatherAudio_keeps => Chip.gatherAudio c f now k_, Chip.Keeps P

theorem Chip.gatherSplices_keeps {P : Chip → Prop} (K : Chip.Keeps P) {c : Chip} (h : Holds P c) (f ch now : Nat) :
    Holds P (c.gatherSplices f ch now) := by
  grind [Chip.gatherSplices]
grind_pattern Chip.gatherSplices_keeps => Chip.gatherSplices c f ch now, Chip.Keeps P

theorem Chip.tsFlowPacket_keeps {P : Chip → Prop} (K : Chip.Keeps P) {c : Chip} (h : Holds P c) (f ch : Nat) (ecc : Bool) :
    Holds P (c.tsFlowPacket f ch ecc).1 := by
  grind [Chip.tsFlowPacket]
grind_pattern Chip.tsFlowPacket_keeps => (c.tsFlowPacket f ch ecc), Chip.Keeps P

theorem Chip.rasterPacket_keeps {P : Chip → Prop} (K : Chip.Keeps P) {c : Chip} (h : Holds P c) (f o : Nat) (clean : Bool) :
    Holds P (c.rasterPacket f o clean).1 := by
  grind [Chip.rasterPacket]
grind_pattern Chip.rasterPacket_keeps => Chip.rasterPacket c f o clean, Chip.Keeps P

theorem Chip.pcmPacket_keeps {P : Chip → Prop} (K : Chip.Keeps P) {c : Chip} (h : Holds P c) (f : Nat) (aes : Bool) :
    Holds P (c.pcmPacket f aes).1 := by
  grind [Chip.pcmPacket]
grind_pattern Chip.pcmPacket_keeps => Chip.pcmPacket c f aes, Chip.Keeps P

theorem Chip.ancPacketOut_keeps {P : Chip → Prop} (K : Chip.Keeps P) {c : Chip} (h : Holds P c) (f src : Nat) (ecc : Bool) :
    Holds P (c.ancPacketOut f src ecc).1 := by
  grind [Chip.ancPacketOut]
grind_pattern Chip.ancPacketOut_keeps => Chip.ancPacketOut c f src ecc, Chip.Keeps P

theorem Chip.draft_keeps {P : Chip → Prop} (K : Chip.Keeps P) {c : Chip} (h : Holds P c) (f : Nat) (k : SendInfo) :
    Holds P (c.draft f k).1 := by
  grind [Chip.draft]
grind_pattern Chip.draft_keeps => Chip.draft c f k, Chip.Keeps P

theorem Chip.sendLeg_keeps {P : Chip → Prop} (K : Chip.Keeps P) {c : Chip} (h : Holds P c) (l due t : Nat) :
    Holds P (c.sendLeg l due t).1 := by
  grind [Chip.sendLeg]
grind_pattern Chip.sendLeg_keeps => (c.sendLeg l due t), Chip.Keeps P

theorem Chip.sendDraft_keeps {P : Chip → Prop} (K : Chip.Keeps P) {c : Chip} (h : Holds P c) (f : Nat) (k : SendInfo) (d : Draft) :
    Holds P (c.sendDraft f k d) := by
  grind [Chip.sendDraft]
grind_pattern Chip.sendDraft_keeps => (c.sendDraft f k d), Chip.Keeps P

theorem Chip.egBreach_keeps {P : Chip → Prop} (K : Chip.Keeps P) {c : Chip} (h : Holds P c) (f cause : Nat) :
    Holds P (c.egBreach f cause) := by
  grind [Chip.egBreach]
grind_pattern Chip.egBreach_keeps => (c.egBreach f cause), Chip.Keeps P

theorem Chip.mediaSend_keeps {P : Chip → Prop} (K : Chip.Keeps P) {c : Chip} (h : Holds P c) (f : Nat) (k : SendInfo) :
    Holds P (c.mediaSend f k) := by
  grind [Chip.mediaSend]
grind_pattern Chip.mediaSend_keeps => Chip.mediaSend c f k, Chip.Keeps P

theorem Chip.muteFlow_keeps {P : Chip → Prop} (K : Chip.Keeps P) {c : Chip} (h : Holds P c) (f : Nat) (on : Bool) :
    Holds P (c.muteFlow f on) := by
  grind [Chip.muteFlow]
grind_pattern Chip.muteFlow_keeps => Chip.muteFlow c f on, Chip.Keeps P

theorem Chip.egStart_keeps {P : Chip → Prop} (K : Chip.Keeps P) {c : Chip} (h : Holds P c) (p : Nat) :
    Holds P (c.egStart p) := by
  grind [Chip.egStart]
grind_pattern Chip.egStart_keeps => Chip.egStart c p, Chip.Keeps P

/-! ### Spindle -/

theorem Chip.setEngine_keeps {P : Chip → Prop} (K : Chip.Keeps P) {c : Chip} (h : Holds P c) (n : Nat) (e : Engine) :
    Holds P (c.setEngine n e) := by
  grind [Chip.setEngine]
grind_pattern Chip.setEngine_keeps => Chip.setEngine c n e, Chip.Keeps P

theorem Chip.acSet_keeps {P : Chip → Prop} (K : Chip.Keeps P) {c : Chip} (h : Holds P c) (n a v : Nat) :
    Holds P (c.acSet n a v) := by
  grind [Chip.acSet]
grind_pattern Chip.acSet_keeps => Chip.acSet c n a v, Chip.Keeps P

theorem Chip.acRise_keeps {P : Chip → Prop} (K : Chip.Keeps P) {c : Chip} (h : Holds P c) (n a : Nat) :
    Holds P (c.acRise n a) := by
  grind [Chip.acRise]
grind_pattern Chip.acRise_keeps => Chip.acRise c n a, Chip.Keeps P

theorem Chip.spnRecord_keeps {P : Chip → Prop} (K : Chip.Keeps P) {c : Chip} (h : Holds P c) (n cause kernel pc : Nat) :
    Holds P (c.spnRecord n cause kernel pc) := by
  grind [Chip.spnRecord]
grind_pattern Chip.spnRecord_keeps => Chip.spnRecord c n cause kernel pc, Chip.Keeps P

theorem Chip.engineFault_keeps {P : Chip → Prop} (K : Chip.Keeps P) {c : Chip} (h : Holds P c) (n cause : Nat) :
    Holds P (c.engineFault n cause) := by
  grind [Chip.engineFault]
grind_pattern Chip.engineFault_keeps => Chip.engineFault c n cause, Chip.Keeps P

theorem Chip.engineAgain_keeps {P : Chip → Prop} (K : Chip.Keeps P) {c : Chip} (h : Holds P c) (n cause : Nat) :
    Holds P (c.engineAgain n cause) := by
  grind [Chip.engineAgain]
grind_pattern Chip.engineAgain_keeps => (c.engineAgain n cause), Chip.Keeps P

theorem Chip.engineAbort_keeps {P : Chip → Prop} (K : Chip.Keeps P) {c : Chip} (h : Holds P c) (n : Nat) :
    Holds P (c.engineAbort n) := by
  grind [Chip.engineAbort]
grind_pattern Chip.engineAbort_keeps => Chip.engineAbort c n, Chip.Keeps P

theorem Chip.fetchCheck_keeps {P : Chip → Prop} (K : Chip.Keeps P) {c : Chip} (h : Holds P c) (n : Nat) :
    Holds P (c.fetchCheck n) := by
  grind [Chip.fetchCheck]
grind_pattern Chip.fetchCheck_keeps => (c.fetchCheck n), Chip.Keeps P

theorem Chip.engineCycle_keeps {P : Chip → Prop} (K : Chip.Keeps P) {c : Chip} (h : Holds P c) (n : Nat) :
    Holds P (c.engineCycle n) := by
  grind [Chip.engineCycle]
grind_pattern Chip.engineCycle_keeps => (c.engineCycle n), Chip.Keeps P

theorem Chip.runTo_keeps {P : Chip → Prop} (K : Chip.Keeps P) {c : Chip} (h : Holds P c) (n cyc : Nat) (x0 : Nat) :
    Holds P (c.runTo n cyc x0) := by
  induction x0 generalizing c with
  | zero => exact h
  | succ k ih =>
    unfold Chip.runTo
    grind
grind_pattern Chip.runTo_keeps => (c.runTo n cyc x0), Chip.Keeps P

theorem Chip.runUntil_keeps {P : Chip → Prop} (K : Chip.Keeps P) {c : Chip} (h : Holds P c) (n fab : Nat) :
    Holds P (c.runUntil n fab) := by
  grind [Chip.runUntil]
grind_pattern Chip.runUntil_keeps => (c.runUntil n fab), Chip.Keeps P

theorem Chip.fetch_keeps {P : Chip → Prop} (K : Chip.Keeps P) {c : Chip} (h : Holds P c) (n cyc : Nat) :
    Holds P (c.fetch n cyc).1 := by
  grind [Chip.fetch]
grind_pattern Chip.fetch_keeps => Chip.fetch c n cyc, Chip.Keeps P

theorem Chip.issue_keeps {P : Chip → Prop} (K : Chip.Keeps P) {c : Chip} (h : Holds P c) (n cyc : Nat) (holds : Nat → Bool) (f :
    Chip → Engine → Nat → Chip)
    (hf : ∀ (c : Chip) (e : Engine) (b : Nat), Holds P c → Holds P (f c e b)) : Holds P (c.issue n cyc holds f) := by
  grind [Chip.issue]
grind_pattern Chip.issue_keeps => (c.issue n cyc holds f), Chip.Keeps P

theorem Chip.result_keeps {P : Chip → Prop} (K : Chip.Keeps P) {c : Chip} (h : Holds P c) (n : Nat) (d : SpnDest) (v : BitVec 512)
    (l : Nat) :
    Holds P (c.result n d v l) := by
  grind [Chip.result]
grind_pattern Chip.result_keeps => Chip.result c n d v l, Chip.Keeps P

theorem Chip.sresult_keeps {P : Chip → Prop} (K : Chip.Keeps P) {c : Chip} (h : Holds P c) (n r : Nat) (v : Word) (l : Nat) :
    Holds P (c.sresult n r v l) := by
  grind [Chip.sresult]
grind_pattern Chip.sresult_keeps => Chip.sresult c n r v l, Chip.Keeps P

theorem Chip.padRead_keeps {P : Chip → Prop} (K : Chip.Keeps P) {c : Chip} (h : Holds P c) (n a len : Nat) :
    Holds P (c.padRead n a len).1 := by
  grind [Chip.padRead]
grind_pattern Chip.padRead_keeps => Chip.padRead c n a len, Chip.Keeps P

theorem Chip.sendLine_keeps {P : Chip → Prop} (K : Chip.Keeps P) {c : Chip} (h : Holds P c) (n b : Nat) (data : List Byte) :
    Holds P (c.sendLine n b data) := by
  grind [Chip.sendLine]
grind_pattern Chip.sendLine_keeps => Chip.sendLine c n b data, Chip.Keeps P

theorem Chip.beatStore_keeps {P : Chip → Prop} (K : Chip.Keeps P) {c : Chip} (h : Holds P c) (d : Nat) (b : Beat) (poisoned : Bool) :
    Holds P (c.beatStore d b poisoned) := by
  grind [Chip.beatStore]
grind_pattern Chip.beatStore_keeps => (c.beatStore d b poisoned), Chip.Keeps P

theorem Chip.runTarget_keeps {P : Chip → Prop} (K : Chip.Keeps P) {c : Chip} (h : Holds P c) (n : Nat) (a : RunArrival) (k : Nat)
    (sub : Bool) :
    Holds P (c.runTarget n a k sub) := by
  grind [Chip.runTarget]
grind_pattern Chip.runTarget_keeps => Chip.runTarget c n a k sub, Chip.Keeps P

theorem Chip.startRun_keeps {P : Chip → Prop} (K : Chip.Keeps P) {c : Chip} (h : Holds P c) (n : Nat) (a : RunArrival) : Holds P
    (c.startRun n a) := by
  grind [Chip.startRun]
grind_pattern Chip.startRun_keeps => (c.startRun n a), Chip.Keeps P

theorem Chip.acSnapshot_keeps {P : Chip → Prop} (K : Chip.Keeps P) {c : Chip} (h : Holds P c) (p : Nat) :
    Holds P (c.acSnapshot p) := by
  grind [Chip.acSnapshot]
grind_pattern Chip.acSnapshot_keeps => Chip.acSnapshot c p, Chip.Keeps P

theorem Chip.engineReset_keeps {P : Chip → Prop} (K : Chip.Keeps P) {c : Chip} (h : Holds P c) (n : Nat) :
    Holds P (c.engineReset n) := by
  grind [Chip.engineReset]
grind_pattern Chip.engineReset_keeps => Chip.engineReset c n, Chip.Keeps P

theorem Chip.spnClear_keeps {P : Chip → Prop} (K : Chip.Keeps P) {c : Chip} (h : Holds P c) (n : Nat) :
    Holds P (c.spnClear n) := by
  grind [Chip.spnClear]
grind_pattern Chip.spnClear_keeps => Chip.spnClear c n, Chip.Keeps P

/-! ### NetRx -/

theorem Chip.setNetPort_keeps {P : Chip → Prop} (K : Chip.Keeps P) {c : Chip} (h : Holds P c) (n : Nat) (x : NetPort) :
    Holds P (c.setNetPort n x) := by
  grind [Chip.setNetPort]
grind_pattern Chip.setNetPort_keeps => Chip.setNetPort c n x, Chip.Keeps P

theorem Chip.report_keeps {P : Chip → Prop} (K : Chip.Keeps P) {c : Chip} (h : Holds P c) (d : RxDef) (leave : Bool) (n : Nat) :
    Holds P (c.report d leave n) := by
  grind [Chip.report]
grind_pattern Chip.report_keeps => (c.report d leave n), Chip.Keeps P

theorem Chip.portFlows_keeps {P : Chip → Prop} (K : Chip.Keeps P) {c : Chip} (h : Holds P c) (n : Nat) :
    Holds P (c.portFlows n) := by
  grind [Chip.portFlows]
grind_pattern Chip.portFlows_keeps => Chip.portFlows c n, Chip.Keeps P

theorem Chip.portSeen_keeps {P : Chip → Prop} (K : Chip.Keeps P) {c : Chip} (h : Holds P c) (n : Nat) (phy : PortPhy) :
    Holds P (c.portSeen n phy) := by
  grind [Chip.portSeen]
grind_pattern Chip.portSeen_keeps => Chip.portSeen c n phy, Chip.Keeps P

theorem Chip.queueFrame_keeps {P : Chip → Prop} (K : Chip.Keeps P) {c : Chip} (h : Holds P c) (n : Nat) (f : DynFrame) :
    Holds P (c.queueFrame n f) := by
  grind [Chip.queueFrame]
grind_pattern Chip.queueFrame_keeps => Chip.queueFrame c n f, Chip.Keeps P

theorem Chip.queueReport_keeps {P : Chip → Prop} (K : Chip.Keeps P) {c : Chip} (h : Holds P c) (n : Nat) (d : RxDef)
    (answer leave : Bool) :
    Holds P (c.queueReport n d answer leave) := by
  grind [Chip.queueReport]
grind_pattern Chip.queueReport_keeps => (c.queueReport n d answer leave), Chip.Keeps P

theorem Chip.nextHop_keeps {P : Chip → Prop} (K : Chip.Keeps P) {c : Chip} (h : Holds P c) (n : Nat) (v6 : Bool) (a mac : Nat) :
    Holds P (c.nextHop n v6 a mac) := by
  grind [Chip.nextHop]
grind_pattern Chip.nextHop_keeps => (c.nextHop n v6 a mac), Chip.Keeps P

theorem Chip.pushStamp_keeps {P : Chip → Prop} (K : Chip.Keeps P) {c : Chip} (h : Holds P c) (n id t40 : Nat) :
    Holds P (c.pushStamp n id t40) := by
  grind [Chip.pushStamp]
grind_pattern Chip.pushStamp_keeps => Chip.pushStamp c n id t40, Chip.Keeps P

theorem Chip.setPtp_keeps {P : Chip → Prop} (K : Chip.Keeps P) {c : Chip} (h : Holds P c) (i : Nat) (x : PtpInst) :
    Holds P (c.setPtp i x) := by
  grind [Chip.setPtp]
grind_pattern Chip.setPtp_keeps => Chip.setPtp c i x, Chip.Keeps P

theorem Chip.chooseLeader_keeps {P : Chip → Prop} (K : Chip.Keeps P) {c : Chip} (h : Holds P c) (i : Nat) :
    Holds P (c.chooseLeader i) := by
  grind [Chip.chooseLeader]
grind_pattern Chip.chooseLeader_keeps => Chip.chooseLeader c i, Chip.Keeps P

theorem Chip.announce_keeps {P : Chip → Prop} (K : Chip.Keeps P) {c : Chip} (h : Holds P c) (i n : Nat) (m : PtpMsg) (addr : Nat × Nat) :
    Holds P (c.announce i n m addr) := by
  grind [Chip.announce]
grind_pattern Chip.announce_keeps => (c.announce i n m addr), Chip.Keeps P

theorem Chip.ptpEstimate_keeps {P : Chip → Prop} (K : Chip.Keeps P) {c : Chip} (h : Holds P c) (i n : Nat) :
    Holds P (c.ptpEstimate i n) := by
  grind [Chip.ptpEstimate]
grind_pattern Chip.ptpEstimate_keeps => Chip.ptpEstimate c i n, Chip.Keeps P

theorem Chip.ptpPath_keeps {P : Chip → Prop} (K : Chip.Keeps P) {c : Chip} (h : Holds P c) (i : Nat) :
    Holds P (c.ptpPath i) := by
  grind [Chip.ptpPath]
grind_pattern Chip.ptpPath_keeps => Chip.ptpPath c i, Chip.Keeps P

theorem Chip.syncDone_keeps {P : Chip → Prop} (K : Chip.Keeps P) {c : Chip} (h : Holds P c) (i n : Nat) (t1 t2 corr : Int) :
    Holds P (c.syncDone i n t1 t2 corr) := by
  grind [Chip.syncDone]
grind_pattern Chip.syncDone_keeps => Chip.syncDone c i n t1 t2 corr, Chip.Keeps P

theorem Chip.leaderMsg_keeps {P : Chip → Prop} (K : Chip.Keeps P) {c : Chip} (h : Holds P c) (i n : Nat) (m : PtpMsg) (t : Int) :
    Holds P (c.leaderMsg i n m t) := by
  grind [Chip.leaderMsg]
grind_pattern Chip.leaderMsg_keeps => Chip.leaderMsg c i n m t, Chip.Keeps P

theorem Chip.ptpMsg_keeps {P : Chip → Prop} (K : Chip.Keeps P) {c : Chip} (h : Holds P c) (n : Nat) (m : PtpMsg) (l2 : Bool)
    (addr : Nat × Nat) (at_ : Int) :
    Holds P (c.ptpMsg n m l2 addr at_) := by
  grind [Chip.ptpMsg]
grind_pattern Chip.ptpMsg_keeps => (c.ptpMsg n m l2 addr at_), Chip.Keeps P

theorem Chip.tcForward_keeps {P : Chip → Prop} (K : Chip.Keeps P) {c : Chip} (h : Holds P c) (n : Nat) (l : List Byte) (m : PtpMsg)
    (v6 : Bool) (at_ : Int) :
    Holds P (c.tcForward n l m v6 at_) := by
  grind [Chip.tcForward]
grind_pattern Chip.tcForward_keeps => (c.tcForward n l m v6 at_), Chip.Keeps P

theorem Chip.srtpIn_keeps {P : Chip → Prop} (K : Chip.Keeps P) {c : Chip} (h : Holds P c) (f : Nat) (d : RxDef) (l : List Byte) :
    Holds P (c.srtpIn f d l).1 := by
  grind [Chip.srtpIn]
grind_pattern Chip.srtpIn_keeps => (c.srtpIn f d l), Chip.Keeps P

theorem Chip.depacketise_keeps {P : Chip → Prop} (K : Chip.Keeps P) {c : Chip} (h : Holds P c) (f n stamp width : Nat) (frames :
    List (List Nat)) :
    Holds P (c.depacketise f n stamp width frames) := by
  grind [Chip.depacketise]
grind_pattern Chip.depacketise_keeps => Chip.depacketise c f n stamp width frames, Chip.Keeps P

theorem Chip.mediaIn_keeps {P : Chip → Prop} (K : Chip.Keeps P) {c : Chip} (h : Holds P c) (n : Nat) (f : Fin 1024) (d : RxDef)
    (k : EthFrame) (l : List Byte) :
    Holds P (c.mediaIn n f d k l) := by
  grind [Chip.mediaIn]
grind_pattern Chip.mediaIn_keeps => (c.mediaIn n f d k l), Chip.Keeps P

theorem Chip.toCores_keeps {P : Chip → Prop} (K : Chip.Keeps P) {c : Chip} (h : Holds P c) (q bytes : Nat) :
    Holds P (c.toCores q bytes) := by
  grind [Chip.toCores]
grind_pattern Chip.toCores_keeps => Chip.toCores c q bytes, Chip.Keeps P

theorem Chip.ptpIn_keeps {P : Chip → Prop} (K : Chip.Keeps P) {c : Chip} (h : Holds P c) (k : EthFrame) (l2 v6 : Bool)
    (addr : Nat × Nat) (l : List Byte) :
    Holds P (c.ptpIn k l2 v6 addr l) := by
  grind [Chip.ptpIn]
grind_pattern Chip.ptpIn_keeps => (c.ptpIn k l2 v6 addr l), Chip.Keeps P

theorem Chip.coreFrame_keeps {P : Chip → Prop} (K : Chip.Keeps P) {c : Chip} (h : Holds P c) (k : EthFrame) (f : Chip → Chip)
    (hf : ∀ c : Chip, Holds P c → Holds P (f c)) : Holds P (c.coreFrame k f) := by
  grind [Chip.coreFrame]
grind_pattern Chip.coreFrame_keeps => (c.coreFrame k f), Chip.Keeps P

theorem Chip.groupMsg_keeps {P : Chip → Prop} (K : Chip.Keeps P) {c : Chip} (h : Holds P c) (n : Nat) (v6 : Bool) (l : List Byte) :
    Holds P (c.groupMsg n v6 l) := by
  grind [Chip.groupMsg]
grind_pattern Chip.groupMsg_keeps => (c.groupMsg n v6 l), Chip.Keeps P

theorem Chip.ipOther_keeps {P : Chip → Prop} (K : Chip.Keeps P) {c : Chip} (h : Holds P c) (k : EthFrame) (v6 : Bool) (p : IpIn) :
    Holds P (c.ipOther k v6 p) := by
  grind [Chip.ipOther]
grind_pattern Chip.ipOther_keeps => (c.ipOther k v6 p), Chip.Keeps P

theorem Chip.udpIn_keeps {P : Chip → Prop} (K : Chip.Keeps P) {c : Chip} (h : Holds P c) (k : EthFrame) (e : FrameIn) (v6 : Bool)
    (p : IpIn) :
    Holds P (c.udpIn k e v6 p) := by
  grind [Chip.udpIn]
grind_pattern Chip.udpIn_keeps => (c.udpIn k e v6 p), Chip.Keeps P

theorem Chip.frameKind_keeps {P : Chip → Prop} (K : Chip.Keeps P) {c : Chip} (h : Holds P c) (k : EthFrame) (e : FrameIn) :
    Holds P (c.frameKind k e) := by
  grind [Chip.frameKind]
grind_pattern Chip.frameKind_keeps => (c.frameKind k e), Chip.Keeps P

end Sys2Proof.Machine
end

