-- ==== Sys2Proof/Laws/OpsC.lean ====
section
/-! SUPPORT. What every operation keeps: storage, the Reel, the Strand, the pair and the clocks. -/

namespace Sys2Proof.Machine

set_option Elab.async false

/-! ### Nand -/

theorem Chip.setNandBlock_keeps {P : Chip → Prop} (K : Chip.Keeps P) {c : Chip} (h : Holds P c) (b : Nat) (x : NandBlock) :
    Holds P (c.setNandBlock b x) := by
  grind [Chip.setNandBlock]
grind_pattern Chip.setNandBlock_keeps => Chip.setNandBlock c b x, Chip.Keeps P

theorem Chip.setDir_keeps {P : Chip → Prop} (K : Chip.Keeps P) {c : Chip} (h : Holds P c) (d : DirRec) :
    Holds P (c.setDir d) := by
  grind [Chip.setDir]
grind_pattern Chip.setDir_keeps => Chip.setDir c d, Chip.Keeps P

theorem Chip.partFigures_keeps {P : Chip → Prop} (K : Chip.Keeps P) {c : Chip} (h : Holds P c) (i : Nat) :
    Holds P (c.partFigures i) := by
  grind [Chip.partFigures]
grind_pattern Chip.partFigures_keeps => Chip.partFigures c i, Chip.Keeps P

theorem Chip.nandFault_keeps {P : Chip → Prop} (K : Chip.Keeps P) {c : Chip} (h : Holds P c) (cause block part : Nat) :
    Holds P (c.nandFault cause block part) := by
  grind [Chip.nandFault]
grind_pattern Chip.nandFault_keeps => Chip.nandFault c cause block part, Chip.Keeps P

theorem Chip.dirShown_keeps {P : Chip → Prop} (K : Chip.Keeps P) {c : Chip} (h : Holds P c) :
    Holds P (c.dirShown) := by
  grind [Chip.dirShown]
grind_pattern Chip.dirShown_keeps => Chip.dirShown c, Chip.Keeps P

theorem Chip.writeDir_keeps {P : Chip → Prop} (K : Chip.Keeps P) {c : Chip} (h : Holds P c) :
    Holds P (c.writeDir) := by
  grind [Chip.writeDir]
grind_pattern Chip.writeDir_keeps => Chip.writeDir c, Chip.Keeps P

theorem Chip.loadDir_keeps {P : Chip → Prop} (K : Chip.Keeps P) {c : Chip} (h : Holds P c) :
    Holds P (c.loadDir) := by
  grind [Chip.loadDir]
grind_pattern Chip.loadDir_keeps => Chip.loadDir c, Chip.Keeps P

theorem Chip.setPstate_keeps {P : Chip → Prop} (K : Chip.Keeps P) {c : Chip} (h : Holds P c) (i : Nat) (v : Nat × Nat) :
    Holds P (c.setPstate i v) := by
  grind [Chip.setPstate]
grind_pattern Chip.setPstate_keeps => Chip.setPstate c i v, Chip.Keeps P

theorem Chip.partWorn_keeps {P : Chip → Prop} (K : Chip.Keeps P) {c : Chip} (h : Holds P c) (i block : Nat) :
    Holds P (c.partWorn i block) := by
  grind [Chip.partWorn]
grind_pattern Chip.partWorn_keeps => Chip.partWorn c i block, Chip.Keeps P

theorem Chip.replaceBlock_keeps {P : Chip → Prop} (K : Chip.Keeps P) {c : Chip} (h : Holds P c) (i old new : Nat) (keep : Bool) :
    Holds P (c.replaceBlock i old new keep) := by
  grind [Chip.replaceBlock]
grind_pattern Chip.replaceBlock_keeps => Chip.replaceBlock c i old new keep, Chip.Keeps P

theorem Chip.dropBlock_keeps {P : Chip → Prop} (K : Chip.Keeps P) {c : Chip} (h : Holds P c) (i old : Nat) :
    Holds P (c.dropBlock i old) := by
  grind [Chip.dropBlock]
grind_pattern Chip.dropBlock_keeps => Chip.dropBlock c i old, Chip.Keeps P

theorem Chip.retireBlock_keeps {P : Chip → Prop} (K : Chip.Keeps P) {c : Chip} (h : Holds P c) (i b : Nat) :
    Holds P (c.retireBlock i b) := by
  grind [Chip.retireBlock]
grind_pattern Chip.retireBlock_keeps => Chip.retireBlock c i b, Chip.Keeps P

theorem Chip.queueRefresh_keeps {P : Chip → Prop} (K : Chip.Keeps P) {c : Chip} (h : Holds P c) (b : Nat) :
    Holds P (c.queueRefresh b) := by
  grind [Chip.queueRefresh]
grind_pattern Chip.queueRefresh_keeps => Chip.queueRefresh c b, Chip.Keeps P

theorem Chip.codeword_keeps {P : Chip → Prop} (K : Chip.Keeps P) {c : Chip} (h : Holds P c) (r : NandRead) (k : Nat) (w : CwRead) :
    Holds P (c.codeword r k w) := by
  grind [Chip.codeword]
grind_pattern Chip.codeword_keeps => (c.codeword r k w), Chip.Keeps P

theorem Chip.countRead_keeps {P : Chip → Prop} (K : Chip.Keeps P) {c : Chip} (h : Holds P c) (r : NandRead) :
    Holds P (c.countRead r) := by
  grind [Chip.countRead]
grind_pattern Chip.countRead_keeps => (c.countRead r), Chip.Keeps P

theorem Chip.pageRead_keeps {P : Chip → Prop} (K : Chip.Keeps P) {c : Chip} (h : Holds P c) (r : NandRead) :
    Holds P (c.pageRead r) := by
  grind [Chip.pageRead]
grind_pattern Chip.pageRead_keeps => Chip.pageRead c r, Chip.Keeps P

theorem Chip.anchorRead_keeps {P : Chip → Prop} (K : Chip.Keeps P) {c : Chip} (h : Holds P c) (ch : Nat) (a : Option AnchorRec) :
    Holds P (c.anchorRead ch a) := by
  grind [Chip.anchorRead]
grind_pattern Chip.anchorRead_keeps => Chip.anchorRead c ch a, Chip.Keeps P

theorem Chip.dirRead_keeps {P : Chip → Prop} (K : Chip.Keeps P) {c : Chip} (h : Holds P c) (copy : Bool) (r : Option DirRec) :
    Holds P (c.dirRead copy r) := by
  grind [Chip.dirRead]
grind_pattern Chip.dirRead_keeps => Chip.dirRead c copy r, Chip.Keeps P

theorem Chip.logEvent_keeps {P : Chip → Prop} (K : Chip.Keeps P) {c : Chip} (h : Holds P c) (e : LogEntry) :
    Holds P (c.logEvent e) := by
  grind [Chip.logEvent]
grind_pattern Chip.logEvent_keeps => Chip.logEvent c e, Chip.Keeps P

/-! ### Reel -/

theorem Chip.reelShown_keeps {P : Chip → Prop} (K : Chip.Keeps P) {c : Chip} (h : Holds P c) :
    Holds P (c.reelShown) := by
  grind [Chip.reelShown]
grind_pattern Chip.reelShown_keeps => Chip.reelShown c, Chip.Keeps P

theorem Chip.imageWaits_keeps {P : Chip → Prop} (K : Chip.Keeps P) {c : Chip} (h : Holds P c) (e : ReelEntry) (complete : Bool) :
    Holds P (c.imageWaits e complete) := by
  grind [Chip.imageWaits]
grind_pattern Chip.imageWaits_keeps => Chip.imageWaits c e complete, Chip.Keeps P

theorem Chip.reelWrite_keeps {P : Chip → Prop} (K : Chip.Keeps P) {c : Chip} (h : Holds P c) (e : ReelEntry) :
    Holds P (c.reelWrite e) := by
  grind [Chip.reelWrite]
grind_pattern Chip.reelWrite_keeps => Chip.reelWrite c e, Chip.Keeps P

theorem Chip.reelPush_keeps {P : Chip → Prop} (K : Chip.Keeps P) {c : Chip} (h : Holds P c) (e : ReelEntry) :
    Holds P (c.reelPush e).1 := by
  grind [Chip.reelPush]
grind_pattern Chip.reelPush_keeps => Chip.reelPush c e, Chip.Keeps P

theorem Chip.reelDevice_keeps {P : Chip → Prop} (K : Chip.Keeps P) {c : Chip} (h : Holds P c) (code plane turn : Nat) (bytes : List
    Byte) :
    Holds P (c.reelDevice code plane turn bytes) := by
  grind [Chip.reelDevice]
grind_pattern Chip.reelDevice_keeps => Chip.reelDevice c code plane turn bytes, Chip.Keeps P

theorem Chip.ringPut_keeps {P : Chip → Prop} (K : Chip.Keeps P) {c : Chip} (h : Holds P c) (x : Completion) :
    Holds P (c.ringPut x) := by
  grind [Chip.ringPut]
grind_pattern Chip.ringPut_keeps => Chip.ringPut c x, Chip.Keeps P

theorem Chip.ringPump_keeps {P : Chip → Prop} (K : Chip.Keeps P) {c : Chip} (h : Holds P c) (k_ : List Completion) :
    Holds P (c.ringPump k_) := by
  induction k_ generalizing c <;> grind [Chip.ringPump]
grind_pattern Chip.ringPump_keeps => Chip.ringPump c k_, Chip.Keeps P

theorem Chip.answer_keeps {P : Chip → Prop} (K : Chip.Keeps P) {c : Chip} (h : Holds P c) (d : Answer) (x : Completion) :
    Holds P (c.answer d x) := by
  unfold Chip.answer
  grind
grind_pattern Chip.answer_keeps => Chip.answer c d x, Chip.Keeps P

theorem Chip.finish_keeps {P : Chip → Prop} (K : Chip.Keeps P) {c : Chip} (h : Holds P c) (p : PendCmd) (result : Nat) :
    Holds P (c.finish p result) := by
  grind [Chip.finish]
grind_pattern Chip.finish_keeps => Chip.finish c p result, Chip.Keeps P

theorem Chip.finishSeq_keeps {P : Chip → Prop} (K : Chip.Keeps P) {c : Chip} (h : Holds P c) (seq : Option Nat) (result : Nat) :
    Holds P (c.finishSeq seq result) := by
  grind [Chip.finishSeq]
grind_pattern Chip.finishSeq_keeps => Chip.finishSeq c seq result, Chip.Keeps P

theorem Chip.durableAcks_keeps {P : Chip → Prop} (K : Chip.Keeps P) {c : Chip} (h : Holds P c) :
    Holds P (c.durableAcks) := by
  grind [Chip.durableAcks]
grind_pattern Chip.durableAcks_keeps => Chip.durableAcks c, Chip.Keeps P

theorem Chip.programReel_keeps {P : Chip → Prop} (K : Chip.Keeps P) {c : Chip} (h : Holds P c) :
    Holds P (c.programReel) := by
  grind [Chip.programReel]
grind_pattern Chip.programReel_keeps => Chip.programReel c, Chip.Keeps P

theorem Chip.flushReel_keeps {P : Chip → Prop} (K : Chip.Keeps P) {c : Chip} (h : Holds P c) (k_ : Nat) :
    Holds P (c.flushReel k_) := by
  induction k_ generalizing c <;> grind [Chip.flushReel]
grind_pattern Chip.flushReel_keeps => Chip.flushReel c k_, Chip.Keeps P

theorem Chip.reelRebuild_keeps {P : Chip → Prop} (K : Chip.Keeps P) {c : Chip} (h : Holds P c) :
    Holds P (c.reelRebuild) := by
  grind [Chip.reelRebuild]
grind_pattern Chip.reelRebuild_keeps => Chip.reelRebuild c, Chip.Keeps P

theorem Chip.reelBoot_keeps {P : Chip → Prop} (K : Chip.Keeps P) {c : Chip} (h : Holds P c) (generation : Nat) :
    Holds P (c.reelBoot generation) := by
  grind [Chip.reelBoot]
grind_pattern Chip.reelBoot_keeps => Chip.reelBoot c generation, Chip.Keeps P

theorem Chip.reelShow_keeps {P : Chip → Prop} (K : Chip.Keeps P) {c : Chip} (h : Holds P c) (e : Option ReelEntry) (nand : Bool) :
    Holds P (c.reelShow e nand) := by
  unfold Chip.reelShow
  grind
grind_pattern Chip.reelShow_keeps => Chip.reelShow c e nand, Chip.Keeps P

theorem Chip.reelFetch_keeps {P : Chip → Prop} (K : Chip.Keeps P) {c : Chip} (h : Holds P c) (search : Bool) :
    Holds P (c.reelFetch search) := by
  grind [Chip.reelFetch]
grind_pattern Chip.reelFetch_keeps => Chip.reelFetch c search, Chip.Keeps P

theorem Chip.ringsClear_keeps {P : Chip → Prop} (K : Chip.Keeps P) {c : Chip} (h : Holds P c) :
    Holds P (c.ringsClear) := by
  grind [Chip.ringsClear]
grind_pattern Chip.ringsClear_keeps => Chip.ringsClear c, Chip.Keeps P

/-! ### Strand -/

theorem Chip.setStrLane_keeps {P : Chip → Prop} (K : Chip.Keeps P) {c : Chip} (h : Holds P c) (n : Nat) (x : StrLane) :
    Holds P (c.setStrLane n x) := by
  grind [Chip.setStrLane]
grind_pattern Chip.setStrLane_keeps => Chip.setStrLane c n x, Chip.Keeps P

theorem Chip.setGrp_keeps {P : Chip → Prop} (K : Chip.Keeps P) {c : Chip} (h : Holds P c) (g : Nat) (x : StrGroup) :
    Holds P (c.setGrp g x) := by
  grind [Chip.setGrp]
grind_pattern Chip.setGrp_keeps => Chip.setGrp c g x, Chip.Keeps P

theorem Chip.setGrpState_keeps {P : Chip → Prop} (K : Chip.Keeps P) {c : Chip} (h : Holds P c) (g v : Nat) :
    Holds P (c.setGrpState g v) := by
  grind [Chip.setGrpState]
grind_pattern Chip.setGrpState_keeps => Chip.setGrpState c g v, Chip.Keeps P

theorem Chip.unlockLanes_keeps {P : Chip → Prop} (K : Chip.Keeps P) {c : Chip} (h : Holds P c) (g : Nat) :
    Holds P (c.unlockLanes g) := by
  grind [Chip.unlockLanes]
grind_pattern Chip.unlockLanes_keeps => Chip.unlockLanes c g, Chip.Keeps P

theorem Chip.grpRestart_keeps {P : Chip → Prop} (K : Chip.Keeps P) {c : Chip} (h : Holds P c) (g : Nat) :
    Holds P (c.grpRestart g) := by
  grind [Chip.grpRestart]
grind_pattern Chip.grpRestart_keeps => Chip.grpRestart c g, Chip.Keeps P

theorem Chip.grpRetrain_keeps {P : Chip → Prop} (K : Chip.Keeps P) {c : Chip} (h : Holds P c) (g : Nat) :
    Holds P (c.grpRetrain g) := by
  grind [Chip.grpRetrain]
grind_pattern Chip.grpRetrain_keeps => Chip.grpRetrain c g, Chip.Keeps P

theorem Chip.grpDown_keeps {P : Chip → Prop} (K : Chip.Keeps P) {c : Chip} (h : Holds P c) (g : Nat) :
    Holds P (c.grpDown g) := by
  grind [Chip.grpDown]
grind_pattern Chip.grpDown_keeps => Chip.grpDown c g, Chip.Keeps P

theorem Chip.exchangeDone_keeps {P : Chip → Prop} (K : Chip.Keeps P) {c : Chip} (h : Holds P c) (g : Nat) : Holds P (c.exchangeDone
    g) := by
  have hs : ∀ (c : Chip) (f : Fld) (v : Nat), Holds P c → Holds P (c.set f g v) := fun c f v hc => Chip.set_keeps K hc f g v
  have hw : ∀ (c : Chip) (b : Bool) (f : Fld), Holds P c → Holds P (c.when b (·.set f g 1)) :=
    fun c b f hc => Chip.when_keeps hc (fun c hc => hs c f 1 hc)
  have hg : ∀ (c : Chip) (x : StrGroup), Holds P c → Holds P (c.setGrp g x) := fun c x hc => Chip.setGrp_keeps K hc g x
  unfold Chip.exchangeDone
  dsimp only
  split
  · refine Chip.ite_keeps (fun _ => hg _ _ (hw _ _ _ (hw _ _ _ (hs _ _ _ (hs _ _ _ (hs _ _ _ h)))))) fun _ => ?_
    exact Chip.setGrpState_keeps K (Chip.unlockLanes_keeps K (hg _ _ (hs _ _ _ (hs _ _ _ (hw _ _ _ (hw _ _ _
      (hs _ _ _ (hs _ _ _ (hs _ _ _ h)))))))) _) _ _
  · exact hg _ _ (hw _ _ _ (hw _ _ _ (hs _ _ _ (hs _ _ _ (hs _ _ _ h)))))
grind_pattern Chip.exchangeDone_keeps => (c.exchangeDone g), Chip.Keeps P

theorem Chip.tapRequest_keeps {P : Chip → Prop} (K : Chip.Keeps P) {c : Chip} (h : Holds P c) (n req : Nat) :
    Holds P (c.tapRequest n req) := by
  grind [Chip.tapRequest]
grind_pattern Chip.tapRequest_keeps => Chip.tapRequest c n req, Chip.Keeps P

theorem Chip.startDeskew_keeps {P : Chip → Prop} (K : Chip.Keeps P) {c : Chip} (h : Holds P c) (g : Nat) :
    Holds P (c.startDeskew g) := by
  grind [Chip.startDeskew]
grind_pattern Chip.startDeskew_keeps => Chip.startDeskew c g, Chip.Keeps P

theorem Chip.tsLock_keeps {P : Chip → Prop} (K : Chip.Keeps P) {c : Chip} (h : Holds P c) (g : Nat) (locked : Bool) :
    Holds P (c.tsLock g locked) := by
  grind [Chip.tsLock]
grind_pattern Chip.tsLock_keeps => Chip.tsLock c g locked, Chip.Keeps P

theorem Chip.tsExchange_keeps {P : Chip → Prop} (K : Chip.Keeps P) {c : Chip} (h : Holds P c) (g n : Nat) (ts : List Byte) (x :
    StrLane) :
    Holds P (c.tsExchange g n ts x) := by
  grind [Chip.tsExchange]
grind_pattern Chip.tsExchange_keeps => Chip.tsExchange c g n ts x, Chip.Keeps P

theorem Chip.tsStepUp_keeps {P : Chip → Prop} (K : Chip.Keeps P) {c : Chip} (h : Holds P c) (g : Nat) (locked : Bool) :
    Holds P (c.tsStepUp g locked) := by
  grind [Chip.tsStepUp]
grind_pattern Chip.tsStepUp_keeps => Chip.tsStepUp c g locked, Chip.Keeps P

theorem Chip.setsOut_keeps {P : Chip → Prop} (K : Chip.Keeps P) {c : Chip} (h : Holds P c) (g : Nat) :
    Holds P (c.setsOut g) := by
  grind [Chip.setsOut]
grind_pattern Chip.setsOut_keeps => Chip.setsOut c g, Chip.Keeps P

theorem Chip.tsTaps_keeps {P : Chip → Prop} (K : Chip.Keeps P) {c : Chip} (h : Holds P c) (g n : Nat) (ts : List Byte) (call : Option (Fin 6)) :
    Holds P (c.tsTaps g n ts call) := by
  grind [Chip.tsTaps]
grind_pattern Chip.tsTaps_keeps => Chip.tsTaps c g n ts call, Chip.Keeps P

theorem Chip.tsHeard_keeps {P : Chip → Prop} (K : Chip.Keeps P) {c : Chip} (h : Holds P c) (g n : Nat) (ts : List Byte) (inverted : Bool)
    (call : Option (Fin 6)) :
    Holds P (c.tsHeard g n ts inverted call) := by
  grind [Chip.tsHeard]
grind_pattern Chip.tsHeard_keeps => Chip.tsHeard c g n ts inverted call, Chip.Keeps P

theorem Chip.pumpExpansion_keeps {P : Chip → Prop} (K : Chip.Keeps P) {c : Chip} (h : Holds P c) :
    Holds P (c.pumpExpansion) := by
  grind [Chip.pumpExpansion]
grind_pattern Chip.pumpExpansion_keeps => Chip.pumpExpansion c, Chip.Keeps P

theorem Chip.strandSegment_keeps {P : Chip → Prop} (K : Chip.Keeps P) {c : Chip} (h : Holds P c) (f at_ : Nat) (pay : List Byte) :
    Holds P (c.strandSegment f at_ pay) := by
  grind [Chip.strandSegment]
grind_pattern Chip.strandSegment_keeps => Chip.strandSegment c f at_ pay, Chip.Keeps P

theorem Chip.strandAnc_keeps {P : Chip → Prop} (K : Chip.Keeps P) {c : Chip} (h : Holds P c) (f at_ : Nat) (pay : List Byte) :
    Holds P (c.strandAnc f at_ pay) := by
  grind [Chip.strandAnc]
grind_pattern Chip.strandAnc_keeps => Chip.strandAnc c f at_ pay, Chip.Keeps P

theorem Chip.remoteStatus_keeps {P : Chip → Prop} (K : Chip.Keeps P) {c : Chip} (h : Holds P c) (g : Nat) (pay : List Byte) :
    Holds P (c.remoteStatus g pay) := by
  grind [Chip.remoteStatus]
grind_pattern Chip.remoteStatus_keeps => Chip.remoteStatus c g pay, Chip.Keeps P

theorem Chip.strandDeliver_keeps {P : Chip → Prop} (K : Chip.Keeps P) {c : Chip} (h : Holds P c) (g type f at_ : Nat) (pay : List
    Byte) :
    Holds P (c.strandDeliver g type f at_ pay) := by
  unfold Chip.strandDeliver
  split
  · exact Chip.strandSegment_keeps K h _ _ _
  · exact Chip.strandAnc_keeps K h _ _ _
  · exact Chip.ite_keeps (fun _ => Chip.pumpExpansion_keeps K (Chip.upd_keeps K h rfl rfl rfl)) (fun _ => Chip.bump_keeps K h _ _ _)
  · exact Chip.remoteStatus_keeps K h _ _
  · exact h
grind_pattern Chip.strandDeliver_keeps => (c.strandDeliver g type f at_ pay), Chip.Keeps P

theorem Chip.strandSend_keeps {P : Chip → Prop} (K : Chip.Keeps P) {c : Chip} (h : Holds P c) (g type flow : Nat) (pay : List Byte)
    (poisoned : Bool) :
    Holds P (c.strandSend g type flow pay poisoned) := by
  grind [Chip.strandSend]
grind_pattern Chip.strandSend_keeps => Chip.strandSend c g type flow pay poisoned, Chip.Keeps P

theorem Chip.rasterSegment_keeps {P : Chip → Prop} (K : Chip.Keeps P) {c : Chip} (h : Holds P c) (g o turn line soff pixels : Nat)
    (clean : Bool) :
    Holds P (c.rasterSegment g o turn line soff pixels clean).1 := by
  grind [Chip.rasterSegment]
grind_pattern Chip.rasterSegment_keeps => Chip.rasterSegment c g o turn line soff pixels clean, Chip.Keeps P

/-! ### TwoPly -/

theorem Chip.plyFault_keeps {P : Chip → Prop} (K : Chip.Keeps P) {c : Chip} (h : Holds P c) (level cause : Nat) :
    Holds P (c.plyFault level cause) := by
  grind [Chip.plyFault]
grind_pattern Chip.plyFault_keeps => Chip.plyFault c level cause, Chip.Keeps P

theorem Chip.setLease_keeps {P : Chip → Prop} (K : Chip.Keeps P) {c : Chip} (h : Holds P c) (b : Bool) :
    Holds P (c.setLease b) := by
  grind [Chip.setLease]
grind_pattern Chip.setLease_keeps => Chip.setLease c b, Chip.Keeps P

theorem Chip.setTx_keeps {P : Chip → Prop} (K : Chip.Keeps P) {c : Chip} (h : Holds P c) (p mode at_ : Nat) :
    Holds P (c.setTx p mode at_) := by
  grind [Chip.setTx]
grind_pattern Chip.setTx_keeps => Chip.setTx c p mode at_, Chip.Keeps P

theorem Chip.setTxAll_keeps {P : Chip → Prop} (K : Chip.Keeps P) {c : Chip} (h : Holds P c) (mode : Nat) :
    Holds P (c.setTxAll mode) := by
  grind [Chip.setTxAll]
grind_pattern Chip.setTxAll_keeps => Chip.setTxAll c mode, Chip.Keeps P

theorem Chip.flowsShown_keeps {P : Chip → Prop} (K : Chip.Keeps P) {c : Chip} (h : Holds P c) :
    Holds P (c.flowsShown) := by
  grind [Chip.flowsShown]
grind_pattern Chip.flowsShown_keeps => Chip.flowsShown c, Chip.Keeps P

theorem Chip.setRole_keeps {P : Chip → Prop} (K : Chip.Keeps P) {c : Chip} (h : Holds P c) (new cause : Nat) :
    Holds P (c.setRole new cause) := by
  grind [Chip.setRole]
grind_pattern Chip.setRole_keeps => Chip.setRole c new cause, Chip.Keeps P

theorem Chip.renew_keeps {P : Chip → Prop} (K : Chip.Keeps P) {c : Chip} (h : Holds P c) :
    Holds P (c.renew) := by
  grind [Chip.renew]
grind_pattern Chip.renew_keeps => Chip.renew c, Chip.Keeps P

theorem Chip.warmStart_keeps {P : Chip → Prop} (K : Chip.Keeps P) {c : Chip} (h : Holds P c) :
    Holds P (c.warmStart) := by
  grind [Chip.warmStart]
grind_pattern Chip.warmStart_keeps => Chip.warmStart c, Chip.Keeps P

theorem Chip.becomeHolder_keeps {P : Chip → Prop} (K : Chip.Keeps P) {c : Chip} (h : Holds P c) (cause : Nat) :
    Holds P (c.becomeHolder cause) := by
  grind [Chip.becomeHolder]
grind_pattern Chip.becomeHolder_keeps => Chip.becomeHolder c cause, Chip.Keeps P

theorem Chip.takeBobbin_keeps {P : Chip → Prop} (K : Chip.Keeps P) {c : Chip} (h : Holds P c) (cause : Nat) :
    Holds P (c.takeBobbin cause) := by
  grind [Chip.takeBobbin]
grind_pattern Chip.takeBobbin_keeps => Chip.takeBobbin c cause, Chip.Keeps P

theorem Chip.plyFence_keeps {P : Chip → Prop} (K : Chip.Keeps P) {c : Chip} (h : Holds P c) (cause : Nat) (faulty : Bool) :
    Holds P (c.plyFence cause faulty) := by
  grind [Chip.plyFence]
grind_pattern Chip.plyFence_keeps => Chip.plyFence c cause faulty, Chip.Keeps P

theorem Chip.becomeOther_keeps {P : Chip → Prop} (K : Chip.Keeps P) {c : Chip} (h : Holds P c) (cause : Nat) :
    Holds P (c.becomeOther cause) := by
  grind [Chip.becomeOther]
grind_pattern Chip.becomeOther_keeps => Chip.becomeOther c cause, Chip.Keeps P

theorem Chip.setInstep_keeps {P : Chip → Prop} (K : Chip.Keeps P) {c : Chip} (h : Holds P c) (b : Bool) :
    Holds P (c.setInstep b) := by
  grind [Chip.setInstep]
grind_pattern Chip.setInstep_keeps => Chip.setInstep c b, Chip.Keeps P

theorem Chip.stepShown_keeps {P : Chip → Prop} (K : Chip.Keeps P) {c : Chip} (h : Holds P c) :
    Holds P (c.stepShown) := by
  grind [Chip.stepShown]
grind_pattern Chip.stepShown_keeps => Chip.stepShown c, Chip.Keeps P

theorem Chip.partnerShown_keeps {P : Chip → Prop} (K : Chip.Keeps P) {c : Chip} (h : Holds P c) :
    Holds P (c.partnerShown) := by
  grind [Chip.partnerShown]
grind_pattern Chip.partnerShown_keeps => Chip.partnerShown c, Chip.Keeps P

theorem Chip.plySend_keeps {P : Chip → Prop} (K : Chip.Keeps P) {c : Chip} (h : Holds P c) (type : Nat) (pay : List Byte) :
    Holds P (c.plySend type pay) := by
  grind [Chip.plySend]
grind_pattern Chip.plySend_keeps => Chip.plySend c type pay, Chip.Keeps P

theorem Chip.serialSeen_keeps {P : Chip → Prop} (K : Chip.Keeps P) {c : Chip} (h : Holds P c) (s : Nat) :
    Holds P (c.serialSeen s) := by
  grind [Chip.serialSeen]
grind_pattern Chip.serialSeen_keeps => Chip.serialSeen c s, Chip.Keeps P

theorem Chip.serialEcho_keeps {P : Chip → Prop} (K : Chip.Keeps P) {c : Chip} (h : Holds P c) (q : Nat → Bool) :
    Holds P (c.serialEcho q) := by
  grind [Chip.serialEcho]
grind_pattern Chip.serialEcho_keeps => Chip.serialEcho c q, Chip.Keeps P

theorem Chip.releaseHeard_keeps {P : Chip → Prop} (K : Chip.Keeps P) {c : Chip} (h : Holds P c) (on : Bool) :
    Holds P (c.releaseHeard on) := by
  grind [Chip.releaseHeard]
grind_pattern Chip.releaseHeard_keeps => Chip.releaseHeard c on, Chip.Keeps P

theorem Chip.secondHolder_keeps {P : Chip → Prop} (K : Chip.Keeps P) {c : Chip} (h : Holds P c) (was : Bool) :
    Holds P (c.secondHolder was) := by
  grind [Chip.secondHolder]
grind_pattern Chip.secondHolder_keeps => Chip.secondHolder c was, Chip.Keeps P

theorem Chip.resolveHeard_keeps {P : Chip → Prop} (K : Chip.Keeps P) {c : Chip} (h : Holds P c) (holder fenced : Bool) :
    Holds P (c.resolveHeard holder fenced) := by
  grind [Chip.resolveHeard]
grind_pattern Chip.resolveHeard_keeps => Chip.resolveHeard c holder fenced, Chip.Keeps P

theorem Chip.partnerHeard_keeps {P : Chip → Prop} (K : Chip.Keeps P) {c : Chip} (h : Holds P c) (holder ack fenced release cameUp :
    Bool) (serial : Nat) (q : Nat → Bool) :
    Holds P (c.partnerHeard holder ack fenced release cameUp serial q) := by
  grind [Chip.partnerHeard]
grind_pattern Chip.partnerHeard_keeps => Chip.partnerHeard c holder ack fenced release cameUp serial q, Chip.Keeps P

theorem Chip.setWarm_keeps {P : Chip → Prop} (K : Chip.Keeps P) {c : Chip} (h : Holds P c) (b : Bool) :
    Holds P (c.setWarm b) := by
  grind [Chip.setWarm]
grind_pattern Chip.setWarm_keeps => Chip.setWarm c b, Chip.Keeps P

theorem Chip.legBoundary_keeps {P : Chip → Prop} (K : Chip.Keeps P) {c : Chip} (h : Holds P c) (p : Nat) :
    Holds P (c.legBoundary p) := by
  grind [Chip.legBoundary]
grind_pattern Chip.legBoundary_keeps => Chip.legBoundary c p, Chip.Keeps P

theorem Chip.joinBoundary_keeps {P : Chip → Prop} (K : Chip.Keeps P) {c : Chip} (h : Holds P c) (p : Nat) :
    Holds P (c.joinBoundary p) := by
  grind [Chip.joinBoundary]
grind_pattern Chip.joinBoundary_keeps => Chip.joinBoundary c p, Chip.Keeps P

theorem Chip.cleanBoundary_keeps {P : Chip → Prop} (K : Chip.Keeps P) {c : Chip} (h : Holds P c) :
    Holds P (c.cleanBoundary) := by
  grind [Chip.cleanBoundary]
grind_pattern Chip.cleanBoundary_keeps => Chip.cleanBoundary c, Chip.Keeps P

theorem Chip.plyBoundary_keeps {P : Chip → Prop} (K : Chip.Keeps P) {c : Chip} (h : Holds P c) (p : Nat) :
    Holds P (c.plyBoundary p) := by
  grind [Chip.plyBoundary]
grind_pattern Chip.plyBoundary_keeps => Chip.plyBoundary c p, Chip.Keeps P

theorem Chip.snapshot_keeps {P : Chip → Prop} (K : Chip.Stable P) {c : Chip} (h : Holds P c) (p : Nat) (image : List Byte) :
    Holds P (c.snapshot p image) := by
  have := K.toKeeps
  unfold Chip.snapshot
  grind
grind_pattern Chip.snapshot_keeps => Chip.snapshot c p image, Chip.Stable P

theorem Chip.copyMark_keeps {P : Chip → Prop} (K : Chip.Keeps P) {c : Chip} (h : Holds P c) (turn : Nat) (data : List Byte) :
    Holds P (c.copyMark turn data).2 := by
  grind [Chip.copyMark]
grind_pattern Chip.copyMark_keeps => Chip.copyMark c turn data, Chip.Keeps P

theorem Chip.adopt_keeps {P : Chip → Prop} (K : Chip.Stable P) {c : Chip} (h : Holds P c) (k_ : CopyData) :
    Holds P (c.adopt k_) := by
  have := K.toKeeps
  unfold Chip.adopt
  grind
grind_pattern Chip.adopt_keeps => Chip.adopt c k_, Chip.Stable P

theorem Chip.recDiffers_keeps {P : Chip → Prop} (K : Chip.Keeps P) {c : Chip} (h : Holds P c) (p : Nat) (k : Nat × Nat) :
    Holds P (c.recDiffers p k) := by
  grind [Chip.recDiffers]
grind_pattern Chip.recDiffers_keeps => Chip.recDiffers c p k, Chip.Keeps P

theorem Chip.takeCopy_keeps {P : Chip → Prop} (K : Chip.Stable P) {c : Chip} (h : Holds P c) (p : Nat) (own copy : List Byte)
    (recs : List CopyRec) :
    Holds P (c.takeCopy p own copy recs) := by
  have := K.toKeeps
  unfold Chip.takeCopy
  grind
grind_pattern Chip.takeCopy_keeps => Chip.takeCopy c p own copy recs, Chip.Stable P

/-! ### Clocks -/

theorem Chip.setRef_keeps {P : Chip → Prop} (K : Chip.Keeps P) {c : Chip} (h : Holds P c) (k : Nat) (r : RefRun) :
    Holds P (c.setRef k r) := by
  grind [Chip.setRef]
grind_pattern Chip.setRef_keeps => Chip.setRef c k r, Chip.Keeps P

theorem Chip.stopWtr_keeps {P : Chip → Prop} (K : Chip.Keeps P) {c : Chip} (h : Holds P c) (k : Nat) :
    Holds P (c.stopWtr k) := by
  grind [Chip.stopWtr]
grind_pattern Chip.stopWtr_keeps => Chip.stopWtr c k, Chip.Keeps P

theorem Chip.watchRank_keeps {P : Chip → Prop} (K : Chip.Keeps P) {c : Chip} (h : Holds P c) :
    Holds P (c.watchRank) := by
  grind [Chip.watchRank]
grind_pattern Chip.watchRank_keeps => Chip.watchRank c, Chip.Keeps P

theorem Chip.setDpllFreq_keeps {P : Chip → Prop} (K : Chip.Keeps P) {c : Chip} (h : Holds P c) (f : Int) :
    Holds P (c.setDpllFreq f) := by
  grind [Chip.setDpllFreq]
grind_pattern Chip.setDpllFreq_keeps => Chip.setDpllFreq c f, Chip.Keeps P

theorem Chip.startSwitch_keeps {P : Chip → Prop} (K : Chip.Keeps P) {c : Chip} (h : Holds P c) (b : Nat) :
    Holds P (c.startSwitch b) := by
  grind [Chip.startSwitch]
grind_pattern Chip.startSwitch_keeps => Chip.startSwitch c b, Chip.Keeps P

theorem Chip.dpllHold_keeps {P : Chip → Prop} (K : Chip.Keeps P) {c : Chip} (h : Holds P c) :
    Holds P (c.dpllHold) := by
  grind [Chip.dpllHold]
grind_pattern Chip.dpllHold_keeps => Chip.dpllHold c, Chip.Keeps P

theorem Chip.dpllLock_keeps {P : Chip → Prop} (K : Chip.Keeps P) {c : Chip} (h : Holds P c) (k : Nat) :
    Holds P (c.dpllLock k) := by
  grind [Chip.dpllLock]
grind_pattern Chip.dpllLock_keeps => Chip.dpllLock c k, Chip.Keeps P

theorem Chip.select_keeps {P : Chip → Prop} (K : Chip.Keeps P) {c : Chip} (h : Holds P c) :
    Holds P (c.select) := by
  grind [Chip.select]
grind_pattern Chip.select_keeps => Chip.select c, Chip.Keeps P

theorem Chip.disqualify_keeps {P : Chip → Prop} (K : Chip.Keeps P) {c : Chip} (h : Holds P c) (k : Nat) :
    Holds P (c.disqualify k) := by
  grind [Chip.disqualify]
grind_pattern Chip.disqualify_keeps => Chip.disqualify c k, Chip.Keeps P

theorem Chip.qualify_keeps {P : Chip → Prop} (K : Chip.Keeps P) {c : Chip} (h : Holds P c) (k : Nat) :
    Holds P (c.qualify k) := by
  grind [Chip.qualify]
grind_pattern Chip.qualify_keeps => Chip.qualify c k, Chip.Keeps P

theorem Chip.refLoss_keeps {P : Chip → Prop} (K : Chip.Keeps P) {c : Chip} (h : Holds P c) (k : Nat) :
    Holds P (c.refLoss k) := by
  grind [Chip.refLoss]
grind_pattern Chip.refLoss_keeps => Chip.refLoss c k, Chip.Keeps P

theorem Chip.advanceDpllTime_keeps {P : Chip → Prop} (K : Chip.Keeps P) {c : Chip} (h : Holds P c) :
    Holds P (c.advanceDpllTime) := by
  grind [Chip.advanceDpllTime]
grind_pattern Chip.advanceDpllTime_keeps => Chip.advanceDpllTime c, Chip.Keeps P

theorem Chip.pulseSeconds_keeps {P : Chip → Prop} (K : Chip.Keeps P) {c : Chip} (h : Holds P c) (t : Nat) :
    Holds P (c.pulseSeconds t) := by
  grind [Chip.pulseSeconds]
grind_pattern Chip.pulseSeconds_keeps => Chip.pulseSeconds c t, Chip.Keeps P

theorem Chip.dpllEstimates_keeps {P : Chip → Prop} (K : Chip.Keeps P) {c : Chip} (h : Holds P c) :
    Holds P (c.dpllEstimates) := by
  grind [Chip.dpllEstimates]
grind_pattern Chip.dpllEstimates_keeps => Chip.dpllEstimates c, Chip.Keeps P

theorem Chip.average_keeps {P : Chip → Prop} (K : Chip.Keeps P) {c : Chip} (h : Holds P c) :
    Holds P (c.average) := by
  grind [Chip.average]
grind_pattern Chip.average_keeps => Chip.average c, Chip.Keeps P

theorem Chip.disagree_keeps {P : Chip → Prop} (K : Chip.Keeps P) {c : Chip} (h : Holds P c) (k : Nat) :
    Holds P (c.disagree k) := by
  grind [Chip.disagree]
grind_pattern Chip.disagree_keeps => Chip.disagree c k, Chip.Keeps P

theorem Chip.dpllWindow_keeps {P : Chip → Prop} (K : Chip.Keeps P) {c : Chip} (h : Holds P c) (k from0 : Nat) (ok : Bool) (freq
    phase : Int) (pulse : Option Nat) :
    Holds P (c.dpllWindow k from0 ok freq phase pulse) := by
  grind [Chip.dpllWindow]
grind_pattern Chip.dpllWindow_keeps => Chip.dpllWindow c k from0 ok freq phase pulse, Chip.Keeps P

theorem Chip.refWindow_keeps {P : Chip → Prop} (K : Chip.Keeps P) {c : Chip} (h : Holds P c) (k from0 : Nat) (f : Option Int) (freq
    phase : Int) (pulse : Option Nat) :
    Holds P (c.refWindow k from0 f freq phase pulse) := by
  unfold Chip.refWindow
  grind
grind_pattern Chip.refWindow_keeps => Chip.refWindow c k from0 f freq phase pulse, Chip.Keeps P

theorem Chip.setSwitching_keeps {P : Chip → Prop} (K : Chip.Keeps P) {c : Chip} (h : Holds P c) (pt : Nat) (b : Bool) :
    Holds P (c.setSwitching pt b) := by
  grind [Chip.setSwitching]
grind_pattern Chip.setSwitching_keeps => Chip.setSwitching c pt b, Chip.Keeps P

theorem Chip.switched_keeps {P : Chip → Prop} (K : Chip.Keeps P) {c : Chip} (h : Holds P c) (pt src : Nat) :
    Holds P (c.switched pt src) := by
  grind [Chip.switched]
grind_pattern Chip.switched_keeps => Chip.switched c pt src, Chip.Keeps P

theorem Chip.requestSwitch_keeps {P : Chip → Prop} (K : Chip.Keeps P) {c : Chip} (h : Holds P c) (pt src : Nat) (glitchFree : Bool) :
    Holds P (c.requestSwitch pt src glitchFree) := by
  grind [Chip.requestSwitch]
grind_pattern Chip.requestSwitch_keeps => Chip.requestSwitch c pt src glitchFree, Chip.Keeps P

theorem Chip.rootPins_keeps {P : Chip → Prop} (K : Chip.Keeps P) {c : Chip} (h : Holds P c) :
    Holds P (c.rootPins) := by
  grind [Chip.rootPins]
grind_pattern Chip.rootPins_keeps => Chip.rootPins c, Chip.Keeps P

theorem Chip.rootFailure_keeps {P : Chip → Prop} (K : Chip.Keeps P) {c : Chip} (h : Holds P c) (cause : Nat) :
    Holds P (c.rootFailure cause) := by
  grind [Chip.rootFailure]
grind_pattern Chip.rootFailure_keeps => Chip.rootFailure c cause, Chip.Keeps P

end Sys2Proof.Machine
end

