-- ==== Sys2Proof/Laws/OpsD.lean ====
section
/-! SUPPORT. What every operation keeps: the collector, the variants, security, power, commands, start-up, slots, supplies and the
    Turn. -/

namespace Sys2Proof.Machine

set_option Elab.async false

/-! ### Collector -/

theorem Chip.recPut_keeps {P : Chip → Prop} (K : Chip.Keeps P) {c : Chip} (h : Holds P c) (i : Nat) (m : FaultMsg) (level : Nat)
    (esc : Bool) :
    Holds P (c.recPut i m level esc) := by
  grind [Chip.recPut]
grind_pattern Chip.recPut_keeps => Chip.recPut c i m level esc, Chip.Keeps P

theorem Chip.record_keeps {P : Chip → Prop} (K : Chip.Keeps P) {c : Chip} (h : Holds P c) (m : FaultMsg) (level : Nat) (esc : Bool) :
    Holds P (c.record m level esc) := by
  grind [Chip.record]
grind_pattern Chip.record_keeps => Chip.record c m level esc, Chip.Keeps P

theorem Chip.firstrecClear_keeps {P : Chip → Prop} (K : Chip.Keeps P) {c : Chip} (h : Holds P c) :
    Holds P (c.firstrecClear) := by
  grind [Chip.firstrecClear]
grind_pattern Chip.firstrecClear_keeps => Chip.firstrecClear c, Chip.Keeps P

theorem Chip.domShown_keeps {P : Chip → Prop} (K : Chip.Keeps P) {c : Chip} (h : Holds P c) (d : Nat) :
    Holds P (c.domShown d) := by
  grind [Chip.domShown]
grind_pattern Chip.domShown_keeps => Chip.domShown c d, Chip.Keeps P

theorem Chip.endReacts_keeps {P : Chip → Prop} (K : Chip.Keeps P) {c : Chip} (h : Holds P c) (q : Reaction → Bool) :
    Holds P (c.endReacts q) := by
  grind [Chip.endReacts]
grind_pattern Chip.endReacts_keeps => Chip.endReacts c q, Chip.Keeps P

theorem Chip.reactTick_keeps {P : Chip → Prop} (K : Chip.Keeps P) {c : Chip} (h : Holds P c) :
    Holds P (c.reactTick) := by
  grind [Chip.reactTick]
grind_pattern Chip.reactTick_keeps => Chip.reactTick c, Chip.Keeps P

theorem Chip.timingRelease_keeps {P : Chip → Prop} (K : Chip.Keeps P) {c : Chip} (h : Holds P c) :
    Holds P (c.timingRelease) := by
  grind [Chip.timingRelease]
grind_pattern Chip.timingRelease_keeps => Chip.timingRelease c, Chip.Keeps P

theorem Chip.saferel_keeps {P : Chip → Prop} (K : Chip.Keeps P) {c : Chip} (h : Holds P c) :
    Holds P (c.saferel) := by
  grind [Chip.saferel]
grind_pattern Chip.saferel_keeps => Chip.saferel c, Chip.Keeps P

theorem Chip.faultack_keeps {P : Chip → Prop} (K : Chip.Keeps P) {c : Chip} (h : Holds P c) :
    Holds P (c.faultack) := by
  grind [Chip.faultack]
grind_pattern Chip.faultack_keeps => Chip.faultack c, Chip.Keeps P

theorem Chip.pinsRelease_keeps {P : Chip → Prop} (K : Chip.Keeps P) {c : Chip} (h : Holds P c) :
    Holds P (c.pinsRelease) := by
  grind [Chip.pinsRelease]
grind_pattern Chip.pinsRelease_keeps => Chip.pinsRelease c, Chip.Keeps P

theorem Chip.react_keeps {P : Chip → Prop} (K : Chip.Keeps P) {c : Chip} (h : Holds P c) (r : Reaction) :
    Holds P (c.react r) := by
  grind [Chip.react]
grind_pattern Chip.react_keeps => Chip.react c r, Chip.Keeps P

theorem Chip.colsShown_keeps {P : Chip → Prop} (K : Chip.Keeps P) {c : Chip} (h : Holds P c) :
    Holds P (c.colsShown) := by
  grind [Chip.colsShown]
grind_pattern Chip.colsShown_keeps => Chip.colsShown c, Chip.Keeps P

theorem Chip.withdraw_keeps {P : Chip → Prop} (K : Chip.Keeps P) {c : Chip} (h : Holds P c) (x : Nat) (k : TestSet) :
    Holds P (c.withdraw x k).1 := by
  grind [Chip.withdraw]
grind_pattern Chip.withdraw_keeps => Chip.withdraw c x k, Chip.Keeps P

theorem Chip.refill_keeps {P : Chip → Prop} (K : Chip.Keeps P) {c : Chip} (h : Holds P c) :
    Holds P (c.refill) := by
  grind [Chip.refill]
grind_pattern Chip.refill_keeps => Chip.refill c, Chip.Keeps P

theorem Chip.queueSelftest_keeps {P : Chip → Prop} (K : Chip.Keeps P) {c : Chip} (h : Holds P c) (pc : Nat) :
    Holds P (c.queueSelftest pc).1 := by
  grind [Chip.queueSelftest]
grind_pattern Chip.queueSelftest_keeps => Chip.queueSelftest c pc, Chip.Keeps P

theorem Chip.retire_keeps {P : Chip → Prop} (K : Chip.Keeps P) {c : Chip} (h : Holds P c) (x : Nat) :
    Holds P (c.retire x) := by
  grind [Chip.retire]
grind_pattern Chip.retire_keeps => Chip.retire c x, Chip.Keeps P

theorem Chip.verdict_keeps {P : Chip → Prop} (K : Chip.Keeps P) {c : Chip} (h : Holds P c) (t : SelfTest) :
    Holds P (c.verdict t) := by
  grind [Chip.verdict]
grind_pattern Chip.verdict_keeps => Chip.verdict c t, Chip.Keeps P

theorem Chip.faultNoted_keeps {P : Chip → Prop} (K : Chip.Keeps P) {c : Chip} (h : Holds P c) (m : FaultMsg) (level : Nat) :
    Holds P (c.faultNoted m level) := by
  grind [Chip.faultNoted]
grind_pattern Chip.faultNoted_keeps => Chip.faultNoted c m level, Chip.Keeps P

theorem Chip.collect_keeps {P : Chip → Prop} (K : Chip.Keeps P) {c : Chip} (h : Holds P c) (m : FaultMsg) :
    Holds P (c.collect m) := by
  grind [Chip.collect]
grind_pattern Chip.collect_keeps => Chip.collect c m, Chip.Keeps P

theorem Chip.rethreadWords_keeps {P : Chip → Prop} (K : Chip.Keeps P) {c : Chip} (h : Holds P c) (pc x : Nat) :
    Holds P (c.rethreadWords pc x) := by
  grind [Chip.rethreadWords]
grind_pattern Chip.rethreadWords_keeps => Chip.rethreadWords c pc x, Chip.Keeps P

theorem Chip.columnReset_keeps {P : Chip → Prop} (K : Chip.Keeps P) {c : Chip} (h : Holds P c) (x pc : Nat) :
    Holds P (c.columnReset x pc) := by
  grind [Chip.columnReset]
grind_pattern Chip.columnReset_keeps => Chip.columnReset c x pc, Chip.Keeps P

theorem Chip.columnShown_keeps {P : Chip → Prop} (K : Chip.Keeps P) {c : Chip} (h : Holds P c) (x : Nat) :
    Holds P (c.columnShown x) := by
  grind [Chip.columnShown]
grind_pattern Chip.columnShown_keeps => Chip.columnShown c x, Chip.Keeps P

theorem Chip.remap_keeps {P : Chip → Prop} (K : Chip.Keeps P) {c : Chip} (h : Holds P c) (pc : Nat) (a b : Option Nat) :
    Holds P (c.remap pc a b) := by
  unfold Chip.remap
  grind
grind_pattern Chip.remap_keeps => Chip.remap c pc a b, Chip.Keeps P

theorem Chip.moveNoted_keeps {P : Chip → Prop} (K : Chip.Keeps P) {c : Chip} (h : Holds P c) (pc : Nat) (a b : Option Nat) (kind :
    Nat) :
    Holds P (c.moveNoted pc a b kind) := by
  grind [Chip.moveNoted]
grind_pattern Chip.moveNoted_keeps => Chip.moveNoted c pc a b kind, Chip.Keeps P

theorem Chip.resumeRate_keeps {P : Chip → Prop} (K : Chip.Keeps P) {c : Chip} (h : Holds P c) (pc ch : Nat) :
    Holds P (c.resumeRate pc ch) := by
  grind [Chip.resumeRate]
grind_pattern Chip.resumeRate_keeps => (c.resumeRate pc ch), Chip.Keeps P

theorem Chip.takeOver_keeps {P : Chip → Prop} (K : Chip.Keeps P) {c : Chip} (h : Holds P c) (pc a x : Nat) :
    Holds P (c.takeOver pc a x) := by
  grind [Chip.takeOver]
grind_pattern Chip.takeOver_keeps => Chip.takeOver c pc a x, Chip.Keeps P

theorem Chip.chanReset_keeps {P : Chip → Prop} (K : Chip.Keeps P) {c : Chip} (h : Holds P c) (ch : Nat) :
    Holds P (c.chanReset ch) := by
  grind [Chip.chanReset]
grind_pattern Chip.chanReset_keeps => (c.chanReset ch), Chip.Keeps P

theorem Chip.restartChan_keeps {P : Chip → Prop} (K : Chip.Keeps P) {c : Chip} (h : Holds P c) (ch : Nat) :
    Holds P (c.restartChan ch) := by
  grind [Chip.restartChan]
grind_pattern Chip.restartChan_keeps => Chip.restartChan c ch, Chip.Keeps P

theorem Chip.setShed_keeps {P : Chip → Prop} (K : Chip.Keeps P) {c : Chip} (h : Holds P c) (pc : Nat) (b : Bool) :
    Holds P (c.setShed pc b) := by
  grind [Chip.setShed]
grind_pattern Chip.setShed_keeps => Chip.setShed c pc b, Chip.Keeps P

theorem Chip.applyMove_keeps {P : Chip → Prop} (K : Chip.Keeps P) {c : Chip} (h : Holds P c) (m : ColMove) :
    Holds P (c.applyMove m) := by
  grind [Chip.applyMove]
grind_pattern Chip.applyMove_keeps => Chip.applyMove c m, Chip.Keeps P

theorem Chip.choose_keeps {P : Chip → Prop} (K : Chip.Keeps P) {c : Chip} (h : Holds P c) (p : Nat) (m : ColMove) :
    Holds P (c.choose p m) := by
  grind [Chip.choose]
grind_pattern Chip.choose_keeps => Chip.choose c p m, Chip.Keeps P

theorem Chip.chooseFor_keeps {P : Chip → Prop} (K : Chip.Keeps P) {c : Chip} (h : Holds P c) (p pc a : Nat) :
    Holds P (c.chooseFor p pc a) := by
  grind [Chip.chooseFor]
grind_pattern Chip.chooseFor_keeps => Chip.chooseFor c p pc a, Chip.Keeps P

theorem Chip.chooseBack_keeps {P : Chip → Prop} (K : Chip.Keeps P) {c : Chip} (h : Holds P c) (p : Nat) :
    Holds P (c.chooseBack p) := by
  grind [Chip.chooseBack]
grind_pattern Chip.chooseBack_keeps => Chip.chooseBack c p, Chip.Keeps P

theorem Chip.chooseTest_keeps {P : Chip → Prop} (K : Chip.Keeps P) {c : Chip} (h : Holds P c) (p : Nat) :
    Holds P (c.chooseTest p) := by
  grind [Chip.chooseTest]
grind_pattern Chip.chooseTest_keeps => Chip.chooseTest c p, Chip.Keeps P

theorem Chip.chooseRestore_keeps {P : Chip → Prop} (K : Chip.Keeps P) {c : Chip} (h : Holds P c) (p : Nat) :
    Holds P (c.chooseRestore p) := by
  grind [Chip.chooseRestore]
grind_pattern Chip.chooseRestore_keeps => Chip.chooseRestore c p, Chip.Keeps P

theorem Chip.columnChoice_keeps {P : Chip → Prop} (K : Chip.Keeps P) {c : Chip} (h : Holds P c) (p : Nat) :
    Holds P (c.columnChoice p) := by
  grind [Chip.columnChoice]
grind_pattern Chip.columnChoice_keeps => Chip.columnChoice c p, Chip.Keeps P

theorem Chip.testStart_keeps {P : Chip → Prop} (K : Chip.Keeps P) {c : Chip} (h : Holds P c) (p : Nat) :
    Holds P (c.testStart p) := by
  grind [Chip.testStart]
grind_pattern Chip.testStart_keeps => Chip.testStart c p, Chip.Keeps P

theorem Chip.testVerdict_keeps {P : Chip → Prop} (K : Chip.Keeps P) {c : Chip} (h : Holds P c) (p : Nat) :
    Holds P (c.testVerdict p) := by
  grind [Chip.testVerdict]
grind_pattern Chip.testVerdict_keeps => Chip.testVerdict c p, Chip.Keeps P

theorem Chip.safBoundary_keeps {P : Chip → Prop} (K : Chip.Keeps P) {c : Chip} (h : Holds P c) (p : Nat) :
    Holds P (c.safBoundary p) := by
  grind [Chip.safBoundary]
grind_pattern Chip.safBoundary_keeps => Chip.safBoundary c p, Chip.Keeps P

/-! ### Variant -/

theorem Chip.putSk_keeps {P : Chip → Prop} (K : Chip.Keeps P) {c : Chip} (h : Holds P c) (a : Nat) (w : Word) :
    Holds P (c.putSk a w) := by
  grind [Chip.putSk]
grind_pattern Chip.putSk_keeps => Chip.putSk c a w, Chip.Keeps P

theorem Chip.loadTables_keeps {P : Chip → Prop} (K : Chip.Keeps P) {c : Chip} (h : Holds P c) (t : SkeinTables) :
    Holds P (c.loadTables t) := by
  grind [Chip.loadTables]
grind_pattern Chip.loadTables_keeps => Chip.loadTables c t, Chip.Keeps P

theorem Chip.enginesShown_keeps {P : Chip → Prop} (K : Chip.Keeps P) {c : Chip} (h : Holds P c) :
    Holds P (c.enginesShown) := by
  grind [Chip.enginesShown]
grind_pattern Chip.enginesShown_keeps => Chip.enginesShown c, Chip.Keeps P

theorem Chip.writeParams_keeps {P : Chip → Prop} (K : Chip.Keeps P) {c : Chip} (h : Holds P c) (l : List ParamBlock) (plane :
    Option Nat) (bank : Nat → Nat) :
    Holds P (c.writeParams l plane bank) := by
  grind [Chip.writeParams]
grind_pattern Chip.writeParams_keeps => Chip.writeParams c l plane bank, Chip.Keeps P

theorem Chip.flipCoefs_keeps {P : Chip → Prop} (K : Chip.Keeps P) {c : Chip} (h : Holds P c) (p : Nat) :
    Holds P (c.flipCoefs p) := by
  grind [Chip.flipCoefs]
grind_pattern Chip.flipCoefs_keeps => Chip.flipCoefs c p, Chip.Keeps P

theorem Chip.loadCoefs_keeps {P : Chip → Prop} (K : Chip.Keeps P) {c : Chip} (h : Holds P c) :
    Holds P (c.loadCoefs) := by
  grind [Chip.loadCoefs]
grind_pattern Chip.loadCoefs_keeps => Chip.loadCoefs c, Chip.Keeps P

theorem Chip.setVariant_keeps {P : Chip → Prop} (K : Chip.Keeps P) {c : Chip} (h : Holds P c) (p v : Nat) :
    Holds P (c.setVariant p v) := by
  grind [Chip.setVariant]
grind_pattern Chip.setVariant_keeps => Chip.setVariant c p v, Chip.Keeps P

theorem Chip.stageVariant_keeps {P : Chip → Prop} (K : Chip.Keeps P) {c : Chip} (h : Holds P c) (p v : Nat) :
    Holds P (c.stageVariant p v) := by
  grind [Chip.stageVariant]
grind_pattern Chip.stageVariant_keeps => Chip.stageVariant c p v, Chip.Keeps P

theorem Chip.gatesShown_keeps {P : Chip → Prop} (K : Chip.Keeps P) {c : Chip} (h : Holds P c) :
    Holds P (c.gatesShown) := by
  grind [Chip.gatesShown]
grind_pattern Chip.gatesShown_keeps => Chip.gatesShown c, Chip.Keeps P

/-! ### Security -/

theorem Chip.slotPend_keeps {P : Chip → Prop} (K : Chip.Keeps P) {c : Chip} (h : Holds P c) (s : Nat) :
    Holds P (c.slotPend s) := by
  grind [Chip.slotPend]
grind_pattern Chip.slotPend_keeps => Chip.slotPend c s, Chip.Keeps P

theorem Chip.slotFlows_keeps {P : Chip → Prop} (K : Chip.Keeps P) {c : Chip} (h : Holds P c) (s : Nat) :
    Holds P (c.slotFlows s) := by
  grind [Chip.slotFlows]
grind_pattern Chip.slotFlows_keeps => Chip.slotFlows c s, Chip.Keeps P

theorem Chip.clearSlot_keeps {P : Chip → Prop} (K : Chip.Keeps P) {c : Chip} (h : Holds P c) (s : Nat) :
    Holds P (c.clearSlot s) := by
  grind [Chip.clearSlot]
grind_pattern Chip.clearSlot_keeps => Chip.clearSlot c s, Chip.Keeps P

theorem Chip.loseSlot_keeps {P : Chip → Prop} (K : Chip.Keeps P) {c : Chip} (h : Holds P c) (s : Nat) :
    Holds P (c.loseSlot s) := by
  grind [Chip.loseSlot]
grind_pattern Chip.loseSlot_keeps => Chip.loseSlot c s, Chip.Keeps P

theorem Chip.zeroise_keeps {P : Chip → Prop} (K : Chip.Keeps P) {c : Chip} (h : Holds P c) :
    Holds P (c.zeroise) := by
  grind [Chip.zeroise]
grind_pattern Chip.zeroise_keeps => Chip.zeroise c, Chip.Keeps P

theorem Chip.applyKeyload_keeps {P : Chip → Prop} (K : Chip.Keeps P) {c : Chip} (h : Holds P c) (seq : Nat) :
    Holds P (c.applyKeyload seq).1 := by
  grind [Chip.applyKeyload]
grind_pattern Chip.applyKeyload_keeps => Chip.applyKeyload c seq, Chip.Keeps P

theorem Chip.authFail_keeps {P : Chip → Prop} (K : Chip.Keeps P) {c : Chip} (h : Holds P c) :
    Holds P (c.authFail) := by
  grind [Chip.authFail]
grind_pattern Chip.authFail_keeps => Chip.authFail c, Chip.Keeps P

theorem Chip.blowProvision_keeps {P : Chip → Prop} (K : Chip.Stable P) {c : Chip} (h : Holds P c) (b : List Byte) :
    Holds P (c.blowProvision b) := by
  have := K.toKeeps
  grind [Chip.blowProvision]
grind_pattern Chip.blowProvision_keeps => Chip.blowProvision c b, Chip.Stable P

theorem Chip.lcCarry_keeps {P : Chip → Prop} (K : Chip.Stable P) {c : Chip} (h : Holds P c) (q : LcRequest) :
    Holds P (c.lcCarry q) := by
  have := K.toKeeps
  unfold Chip.lcCarry
  grind
grind_pattern Chip.lcCarry_keeps => Chip.lcCarry c q, Chip.Stable P

theorem Chip.remainShown_keeps {P : Chip → Prop} (K : Chip.Keeps P) {c : Chip} (h : Holds P c) :
    Holds P (c.remainShown) := by
  grind [Chip.remainShown]
grind_pattern Chip.remainShown_keeps => Chip.remainShown c, Chip.Keeps P

theorem Chip.grantLevel_keeps {P : Chip → Prop} (K : Chip.Keeps P) {c : Chip} (h : Holds P c) (level : Nat) :
    Holds P (c.grantLevel level) := by
  grind [Chip.grantLevel]
grind_pattern Chip.grantLevel_keeps => Chip.grantLevel c level, Chip.Keeps P

theorem Chip.endSession_keeps {P : Chip → Prop} (K : Chip.Keeps P) {c : Chip} (h : Holds P c) :
    Holds P (c.endSession) := by
  grind [Chip.endSession]
grind_pattern Chip.endSession_keeps => Chip.endSession c, Chip.Keeps P

theorem Chip.tokenFail_keeps {P : Chip → Prop} (K : Chip.Keeps P) {c : Chip} (h : Holds P c) (now : Nat) :
    Holds P (c.tokenFail now) := by
  grind [Chip.tokenFail]
grind_pattern Chip.tokenFail_keeps => Chip.tokenFail c now, Chip.Keeps P

theorem Chip.jtag_keeps {P : Chip → Prop} (K : Chip.Keeps P) {c : Chip} (h : Holds P c) (need : Nat) (ir : JtagIr) (out cells :
    List Bool) :
    Holds P (c.jtag need ir out cells) := by
  grind [Chip.jtag]
grind_pattern Chip.jtag_keeps => Chip.jtag c need ir out cells, Chip.Keeps P

/-! ### Pending -/

theorem Chip.varShown_keeps {P : Chip → Prop} (K : Chip.Keeps P) {c : Chip} (h : Holds P c) (p : Nat) :
    Holds P (c.varShown p) := by
  grind [Chip.varShown]
grind_pattern Chip.varShown_keeps => Chip.varShown c p, Chip.Keeps P

theorem Chip.cmdShown_keeps {P : Chip → Prop} (K : Chip.Keeps P) {c : Chip} (h : Holds P c) (q : PendCmd) (slot : Nat) :
    Holds P (c.cmdShown q slot) := by
  grind [Chip.cmdShown]
grind_pattern Chip.cmdShown_keeps => Chip.cmdShown c q slot, Chip.Keeps P

theorem Chip.endCmd_keeps {P : Chip → Prop} (K : Chip.Keeps P) {c : Chip} (h : Holds P c) (q : PendCmd) (result : Nat) :
    Holds P (c.endCmd q result) := by
  grind [Chip.endCmd]
grind_pattern Chip.endCmd_keeps => Chip.endCmd c q result, Chip.Keeps P

theorem Chip.cancelPlane_keeps {P : Chip → Prop} (K : Chip.Keeps P) {c : Chip} (h : Holds P c) (p n : Nat) (keepPower : Bool) :
    Holds P (c.cancelPlane p n keepPower) := by
  grind [Chip.cancelPlane]
grind_pattern Chip.cancelPlane_keeps => Chip.cancelPlane c p n keepPower, Chip.Keeps P

theorem Chip.variantTail_keeps {P : Chip → Prop} (K : Chip.Keeps P) {c : Chip} (h : Holds P c) (p : Nat) :
    Holds P (c.variantTail p) := by
  grind [Chip.variantTail]
grind_pattern Chip.variantTail_keeps => Chip.variantTail c p, Chip.Keeps P

theorem Chip.membersSwitched_keeps {P : Chip → Prop} (K : Chip.Keeps P) (was : Chip) {c : Chip} (h : Holds P c) (p : Nat) :
    Holds P (Chip.membersSwitched was c p) := by
  unfold Chip.membersSwitched
  dsimp only
  refine Chip.each_keeps _ _ (Chip.each_keeps _ _ (Chip.each_keeps _ _ (Chip.each_keeps _ _ (Chip.each_keeps _ _ h ?_) ?_) ?_) ?_) ?_
  · exact fun c f hc => Chip.count_keeps K (Chip.memberRestart_keeps K (Chip.set_keeps K hc _ _ _) _) _ _ _
  · exact fun c f hc => Chip.ite_keeps (fun _ => Chip.set_keeps K hc _ _ _) (fun _ => Chip.drop_keeps K hc _ _)
  · exact fun c n hc => Chip.count_keeps K (Chip.portRestart_keeps K hc _) _ _ _
  · exact fun c n hc => Chip.ite_keeps (fun _ => Chip.set_keeps K hc _ _ _) (fun _ => Chip.drop_keeps K hc _ _)
  · exact fun c k hc => Chip.decRestart_keeps K hc _
grind_pattern Chip.membersSwitched_keeps => (Chip.membersSwitched was c p), Chip.Keeps P

theorem Chip.masksSwitched_keeps {P : Chip → Prop} (K : Chip.Keeps P) (was : Chip) {c : Chip} (h : Holds P c) (p : Nat) :
    Holds P (Chip.masksSwitched was c p) := by
  unfold Chip.masksSwitched
  exact Chip.each_keeps _ _ h fun c n hc => Chip.ite_keeps (fun _ => Chip.set_keeps K hc _ _ _)
    fun _ => Chip.ite_keeps (fun _ => hc) fun _ => Chip.commitMask_keeps K hc _ _ _ _
grind_pattern Chip.masksSwitched_keeps => (Chip.masksSwitched was c p), Chip.Keeps P

theorem Chip.switchVariant_keeps {P : Chip → Prop} (K : Chip.Keeps P) {c : Chip} (h : Holds P c) (p v : Nat) :
    Holds P (c.switchVariant p v) := by
  grind [Chip.switchVariant]
grind_pattern Chip.switchVariant_keeps => Chip.switchVariant c p v, Chip.Keeps P

/-! ### Power -/

theorem Chip.stopPlanes_keeps {P : Chip → Prop} (K : Chip.Keeps P) {c : Chip} (h : Holds P c) :
    Holds P (c.stopPlanes) := by
  grind [Chip.stopPlanes]
grind_pattern Chip.stopPlanes_keeps => Chip.stopPlanes c, Chip.Keeps P

theorem Chip.stopBoundary_keeps {P : Chip → Prop} (K : Chip.Keeps P) {c : Chip} (h : Holds P c) (p : Nat) :
    Holds P (c.stopBoundary p) := by
  grind [Chip.stopBoundary]
grind_pattern Chip.stopBoundary_keeps => Chip.stopBoundary c p, Chip.Keeps P

theorem Chip.callSeam_keeps {P : Chip → Prop} (K : Chip.Keeps P) {c : Chip} (h : Holds P c) (div6 : Bool) :
    Holds P (c.callSeam div6) := by
  grind [Chip.callSeam]
grind_pattern Chip.callSeam_keeps => Chip.callSeam c div6, Chip.Keeps P

theorem Chip.seamOver_keeps {P : Chip → Prop} (K : Chip.Keeps P) {c : Chip} (h : Holds P c) :
    Holds P (c.seamOver) := by
  grind [Chip.seamOver]
grind_pattern Chip.seamOver_keeps => Chip.seamOver c, Chip.Keeps P

theorem Chip.arrive_keeps {P : Chip → Prop} (K : Chip.Keeps P) {c : Chip} (h : Holds P c) (t : Nat) :
    Holds P (c.arrive t) := by
  grind [Chip.arrive]
grind_pattern Chip.arrive_keeps => Chip.arrive c t, Chip.Keeps P

theorem Chip.enterP3_keeps {P : Chip → Prop} (K : Chip.Stable P) {c : Chip} (h : Holds P c) (t : Nat) : Holds P (c.enterP3 t) := by
  have hr : ∀ {c : Chip} (b : Chip → Svc), Holds P c →
      Holds P ({ c with svc := b c, dram := { c.dram with mem := [], tags := [] } } : Chip) := fun b hc => K.lost _ _ hc
  unfold Chip.enterP3
  dsimp only
  have h1 : Holds P (((c.flushReel 9).when ((c.flushReel 9).dbgLevel == 1) (·.endSession))) :=
    Chip.when_keeps (Chip.flushReel_keeps K.toKeeps h 9) (fun c hc => Chip.endSession_keeps K.toKeeps hc)
  have h2 := Chip.gatesShown_keeps K.toKeeps (Chip.set_keeps K.toKeeps (Chip.set_keeps K.toKeeps (Chip.set_keeps K.toKeeps
    (hr (fun c => { c.svc with linkUp := false }) (Chip.ringsClear_keeps K.toKeeps (Chip.each_keeps (List.range 16) _
      (Chip.each_keeps (((List.range 64).filter
        (((c.flushReel 9).when ((c.flushReel 9).dbgLevel == 1) (·.endSession))).grpOn)) (fun c g =>
          if c.on R.STR_GRPCFG_EIALLOW g ∧ c.grpUp g then c.setGrpState g strIdle else c.setGrpState g strDetect) h1
        (fun c g hc => Chip.ite_keeps (fun _ => Chip.setGrpState_keeps K.toKeeps hc _ _) (fun _ => Chip.setGrpState_keeps K.toKeeps
    hc _ _)))
      (fun c n hc => Chip.set_keeps K.toKeeps hc R.NET_LANESTAT_UP n 0))))
    R.CLK_ROOTSTAT_XTALOK 0 0) R.CLK_ROOTSTAT_PLLLOCK 0 0) R.PWR_PWRSTAT_STATE 0 3)
  exact Chip.ite_keeps (fun _ => Chip.upd_keeps K.toKeeps h2 rfl rfl rfl) (fun _ => Chip.pulse_keeps K.toKeeps (Chip.set_keeps
    K.toKeeps h2 _ _ _) _)
grind_pattern Chip.enterP3_keeps => (c.enterP3 t), Chip.Stable P

theorem Chip.enterP2_keeps {P : Chip → Prop} (K : Chip.Stable P) {c : Chip} (h : Holds P c) :
    Holds P (c.enterP2) := by
  have := K.toKeeps
  grind [Chip.enterP2]
grind_pattern Chip.enterP2_keeps => Chip.enterP2 c, Chip.Stable P

theorem Chip.planesStopped_keeps {P : Chip → Prop} (K : Chip.Stable P) {c : Chip} (h : Holds P c) :
    Holds P (c.planesStopped) := by
  have := K.toKeeps
  grind [Chip.planesStopped]
grind_pattern Chip.planesStopped_keeps => Chip.planesStopped c, Chip.Stable P

theorem Chip.beginMove_keeps {P : Chip → Prop} (K : Chip.Stable P) {c : Chip} (h : Holds P c) (t : Nat) : Holds P (c.beginMove t) := by
  have h1 := Chip.set_keeps K.toKeeps (Chip.set_keeps K.toKeeps h R.PWR_PWRSTAT_TARGET 0 t) R.PWR_PWRSTAT_BUSY 0 1
  have h2 := Chip.each_keeps (List.range 192) (fun c n => c.engineReset n) h1 (fun c n hc => Chip.engineReset_keeps K.toKeeps hc n)
  unfold Chip.beginMove
  exact Chip.ite_keeps (fun _ => Chip.ite_keeps (fun _ => Chip.enterP3_keeps K h1 _) fun _ =>
      Chip.ite_keeps (fun _ => Chip.pulse_keeps K.toKeeps (Chip.set_keeps K.toKeeps h1 _ _ _) _) fun _ =>
        Chip.ite_keeps (fun _ => Chip.arrive_keeps K.toKeeps h2 _) fun _ => Chip.callSeam_keeps K.toKeeps h2 _)
    fun _ => Chip.planesStopped_keeps K (Chip.stopPlanes_keeps K.toKeeps h1)
grind_pattern Chip.beginMove_keeps => (c.beginMove t), Chip.Stable P

theorem Chip.deepStop_keeps {P : Chip → Prop} (K : Chip.Stable P) {c : Chip} (h : Holds P c) :
    Holds P (c.deepStop) := by
  have := K.toKeeps
  grind [Chip.deepStop]
grind_pattern Chip.deepStop_keeps => Chip.deepStop c, Chip.Stable P

theorem Chip.deepOpen_keeps {P : Chip → Prop} (K : Chip.Keeps P) {c : Chip} (h : Holds P c) (level : Nat) :
    Holds P (c.deepOpen level) := by
  grind [Chip.deepOpen]
grind_pattern Chip.deepOpen_keeps => Chip.deepOpen c level, Chip.Keeps P

theorem Chip.deepGrant_keeps {P : Chip → Prop} (K : Chip.Stable P) {c : Chip} (h : Holds P c) (level dur : Nat) :
    Holds P (c.deepGrant level dur) := by
  have := K.toKeeps
  grind [Chip.deepGrant]
grind_pattern Chip.deepGrant_keeps => Chip.deepGrant c level dur, Chip.Stable P

theorem Chip.lcReject_keeps {P : Chip → Prop} (K : Chip.Keeps P) {c : Chip} (h : Holds P c) :
    Holds P (c.lcReject) := by
  grind [Chip.lcReject]
grind_pattern Chip.lcReject_keeps => Chip.lcReject c, Chip.Keeps P

theorem Chip.lcAccept_keeps {P : Chip → Prop} (K : Chip.Stable P) {c : Chip} (h : Holds P c) (q : LcRequest) :
    Holds P (c.lcAccept q) := by
  have := K.toKeeps
  grind [Chip.lcAccept]
grind_pattern Chip.lcAccept_keeps => Chip.lcAccept c q, Chip.Stable P

/-! ### Commands -/

theorem Chip.writingShown_keeps {P : Chip → Prop} (K : Chip.Keeps P) {c : Chip} (h : Holds P c) (l : List Nat) (b : Bool) :
    Holds P (c.writingShown l b) := by
  grind [Chip.writingShown]
grind_pattern Chip.writingShown_keeps => Chip.writingShown c l b, Chip.Keeps P

theorem Chip.installBegin_keeps {P : Chip → Prop} (K : Chip.Keeps P) {c : Chip} (h : Holds P c) (golden : Bool) (len seq : Nat) :
    Holds P (c.installBegin golden len seq) := by
  grind [Chip.installBegin]
grind_pattern Chip.installBegin_keeps => Chip.installBegin c golden len seq, Chip.Keeps P

theorem Chip.installEnd_keeps {P : Chip → Prop} (K : Chip.Keeps P) {c : Chip} (h : Holds P c) :
    Holds P (c.installEnd) := by
  grind [Chip.installEnd]
grind_pattern Chip.installEnd_keeps => Chip.installEnd c, Chip.Keeps P

theorem Chip.installRename_keeps {P : Chip → Prop} (K : Chip.Keeps P) {c : Chip} (h : Holds P c) (x : Install) (gen : Nat) :
    Holds P (c.installRename x gen) := by
  grind [Chip.installRename]
grind_pattern Chip.installRename_keeps => Chip.installRename c x gen, Chip.Keeps P

theorem Chip.installWrite_keeps {P : Chip → Prop} (K : Chip.Keeps P) {c : Chip} (h : Holds P c) (golden : Bool) (b : List Byte)
    (v : InstallBack) (x0 : List Nat) :
    Holds P (c.installWrite golden b v x0).1 := by
  induction x0 generalizing c with
  | nil => exact h
  | cons i l ih =>
    unfold Chip.installWrite
    exact Chip.ite_keeps_fst (fun _ => ih (Chip.upd_keeps K h rfl rfl rfl)) (fun _ => Chip.upd_keeps K h rfl rfl rfl)
grind_pattern Chip.installWrite_keeps => (c.installWrite golden b v x0), Chip.Keeps P

theorem Chip.installCommit_keeps {P : Chip → Prop} (K : Chip.Keeps P) {c : Chip} (h : Holds P c) (v : InstallBack) :
    Holds P (c.installCommit v).1 := by
  grind [Chip.installCommit]
grind_pattern Chip.installCommit_keeps => (c.installCommit v), Chip.Keeps P

theorem Chip.installData_keeps {P : Chip → Prop} (K : Chip.Keeps P) {c : Chip} (h : Holds P c) (off : Nat) (bytes : List Byte) :
    Holds P (c.installData off bytes).1 := by
  grind [Chip.installData]
grind_pattern Chip.installData_keeps => Chip.installData c off bytes, Chip.Keeps P

theorem Chip.logRead_keeps {P : Chip → Prop} (K : Chip.Keeps P) {c : Chip} (h : Holds P c) (addr first count : Nat) :
    Holds P (c.logRead addr first count).1 := by
  grind [Chip.logRead]
grind_pattern Chip.logRead_keeps => Chip.logRead c addr first count, Chip.Keeps P

theorem Chip.mutePort_keeps {P : Chip → Prop} (K : Chip.Keeps P) {c : Chip} (h : Holds P c) (p n mask : Nat) (on : Bool) :
    Holds P (c.mutePort p n mask on) := by
  grind [Chip.mutePort]
grind_pattern Chip.mutePort_keeps => Chip.mutePort c p n mask on, Chip.Keeps P

theorem Chip.applySplice_keeps {P : Chip → Prop} (K : Chip.Keeps P) {c : Chip} (h : Holds P c) (x : SpliceArg) :
    Holds P (c.applySplice x) := by
  grind [Chip.applySplice]
grind_pattern Chip.applySplice_keeps => Chip.applySplice c x, Chip.Keeps P

theorem Chip.spliceBoundary_keeps {P : Chip → Prop} (K : Chip.Keeps P) {c : Chip} (h : Holds P c) (p : Nat) :
    Holds P (c.spliceBoundary p) := by
  grind [Chip.spliceBoundary]
grind_pattern Chip.spliceBoundary_keeps => Chip.spliceBoundary c p, Chip.Keeps P

theorem Chip.forceMember_keeps {P : Chip → Prop} (K : Chip.Keeps P) {c : Chip} (h : Holds P c) (x : Member) (on : Bool) :
    Holds P (c.forceMember x on) := by
  unfold Chip.forceMember
  grind
grind_pattern Chip.forceMember_keeps => Chip.forceMember c x on, Chip.Keeps P

theorem Chip.plyAction_keeps {P : Chip → Prop} (K : Chip.Keeps P) {c : Chip} (h : Holds P c) (k : Nat) :
    Holds P (c.plyAction k).1 := by
  unfold Chip.plyAction
  repeat' split
  all_goals grind
grind_pattern Chip.plyAction_keeps => Chip.plyAction c k, Chip.Keeps P

theorem Chip.applyPower_keeps {P : Chip → Prop} (K : Chip.Stable P) {c : Chip} (h : Holds P c) (t : Nat) :
    Holds P (c.applyPower t) := by
  have := K.toKeeps
  grind [Chip.applyPower]
grind_pattern Chip.applyPower_keeps => Chip.applyPower c t, Chip.Stable P

theorem Chip.applyCmd_keeps {P : Chip → Prop} (K : Chip.Stable P) {c : Chip} (h : Holds P c) (q : PendCmd) :
    Holds P (c.applyCmd q).1 := by
  have := K.toKeeps
  grind [Chip.applyCmd]
grind_pattern Chip.applyCmd_keeps => Chip.applyCmd c q, Chip.Stable P

theorem Chip.applyCmds_keeps {P : Chip → Prop} (K : Chip.Stable P) {c : Chip} (h : Holds P c) (l : List PendCmd) :
    Holds P (c.applyCmds l) := by
  have := K.toKeeps
  unfold Chip.applyCmds
  grind
grind_pattern Chip.applyCmds_keeps => Chip.applyCmds c l, Chip.Stable P

theorem Chip.commandsBoundary_keeps {P : Chip → Prop} (K : Chip.Stable P) {c : Chip} (h : Holds P c) (p : Nat) :
    Holds P (c.commandsBoundary p) := by
  have := K.toKeeps
  grind [Chip.commandsBoundary]
grind_pattern Chip.commandsBoundary_keeps => Chip.commandsBoundary c p, Chip.Stable P

theorem Chip.actAtOnce_keeps {P : Chip → Prop} (K : Chip.Stable P) {c : Chip} (h : Holds P c) (q : PendCmd) :
    Holds P (c.actAtOnce q) := by
  have := K.toKeeps
  grind [Chip.actAtOnce]
grind_pattern Chip.actAtOnce_keeps => Chip.actAtOnce c q, Chip.Stable P

theorem Chip.holdKey_keeps {P : Chip → Prop} (K : Chip.Keeps P) {c : Chip} (h : Holds P c) (seq : Nat) (m : CmdMsg) (a : CmdArg) :
    Holds P (c.holdKey seq m a) := by
  unfold Chip.holdKey
  repeat' split
  all_goals grind
grind_pattern Chip.holdKey_keeps => Chip.holdKey c seq m a, Chip.Keeps P

theorem Chip.acknowledge_keeps {P : Chip → Prop} (K : Chip.Keeps P) {c : Chip} (h : Holds P c) (e : ReelEntry) (dest : Answer)
    (code : Nat) :
    Holds P (c.acknowledge e dest code) := by
  grind [Chip.acknowledge]
grind_pattern Chip.acknowledge_keeps => Chip.acknowledge c e dest code, Chip.Keeps P

theorem Chip.hold_keeps {P : Chip → Prop} (K : Chip.Keeps P) {c : Chip} (h : Holds P c) (q : PendCmd) (m : CmdMsg) :
    Holds P (c.hold q m) := by
  grind [Chip.hold]
grind_pattern Chip.hold_keeps => Chip.hold c q m, Chip.Keeps P

theorem Chip.journal_keeps {P : Chip → Prop} (K : Chip.Stable P) {c : Chip} (h : Holds P c) (origin : Nat) (dest : Answer) (m :
    CmdMsg) (a : CmdArg) :
    Holds P (c.journal origin dest m a) := by
  have := K.toKeeps
  grind [Chip.journal]
grind_pattern Chip.journal_keeps => Chip.journal c origin dest m a, Chip.Stable P

theorem Chip.reply_keeps {P : Chip → Prop} (K : Chip.Keeps P) {c : Chip} (h : Holds P c) (dest : Answer) (origin : Nat) (m :
    CmdMsg) (result : Nat) :
    Holds P (c.reply dest origin m result) := by
  grind [Chip.reply]
grind_pattern Chip.reply_keeps => Chip.reply c dest origin m result, Chip.Keeps P

theorem Chip.submit_keeps {P : Chip → Prop} (K : Chip.Stable P) {c : Chip} (h : Holds P c) (origin : Nat) (dest : Answer) (m :
    CmdMsg) (a : CmdArg) :
    Holds P (c.submit origin dest m a) := by
  have := K.toKeeps
  unfold Chip.submit
  grind
grind_pattern Chip.submit_keeps => Chip.submit c origin dest m a, Chip.Stable P

theorem Chip.hostSubmit_keeps {P : Chip → Prop} (K : Chip.Keeps P) {c : Chip} (h : Holds P c) (m : CmdMsg) (a : CmdArg) (f : Chip →
    Answer → Chip)
    (hf : ∀ (c : Chip) (d : Answer), Holds P c → Holds P (f c d)) : Holds P (c.hostSubmit m a f) :=
  Chip.ite_keeps (fun _ => hf _ _ (Chip.set_keeps K h _ _ _)) (fun _ => h)
grind_pattern Chip.hostSubmit_keeps => (c.hostSubmit m a f), Chip.Keeps P

theorem Chip.hostCommand_keeps {P : Chip → Prop} (K : Chip.Stable P) {c : Chip} (h : Holds P c) (m : CmdMsg) (a : CmdArg) :
    Holds P (c.hostCommand m a) := by
  have := K.toKeeps
  grind [Chip.hostCommand]
grind_pattern Chip.hostCommand_keeps => Chip.hostCommand c m a, Chip.Stable P

theorem Chip.hello_keeps {P : Chip → Prop} (K : Chip.Keeps P) {c : Chip} (h : Holds P c) (dest : Answer) (m : CmdMsg) :
    Holds P (c.hello dest m) := by
  grind [Chip.hello]
grind_pattern Chip.hello_keeps => Chip.hello c dest m, Chip.Keeps P

theorem Chip.takeForward_keeps {P : Chip → Prop} (K : Chip.Stable P) {c : Chip} (h : Holds P c) (m : CmdMsg) (a : CmdArg) :
    Holds P (c.takeForward m a) := by
  have := K.toKeeps
  unfold Chip.takeForward
  grind
grind_pattern Chip.takeForward_keeps => Chip.takeForward c m a, Chip.Stable P

/-! ### Boot -/

theorem Chip.slotFail_keeps {P : Chip → Prop} (K : Chip.Keeps P) {c : Chip} (h : Holds P c) (k code : Nat) :
    Holds P (c.slotFail k code) := by
  grind [Chip.slotFail]
grind_pattern Chip.slotFail_keeps => Chip.slotFail c k code, Chip.Keeps P

theorem Chip.slotValid_keeps {P : Chip → Prop} (K : Chip.Keeps P) {c : Chip} (h : Holds P c) :
    Holds P (c.slotValid) := by
  grind [Chip.slotValid]
grind_pattern Chip.slotValid_keeps => Chip.slotValid c, Chip.Keeps P

theorem Chip.slotSelect_keeps {P : Chip → Prop} (K : Chip.Keeps P) {c : Chip} (h : Holds P c) (k : Nat) :
    Holds P (c.slotSelect k) := by
  grind [Chip.slotSelect]
grind_pattern Chip.slotSelect_keeps => Chip.slotSelect c k, Chip.Keeps P

theorem Chip.newDir_keeps {P : Chip → Prop} (K : Chip.Keeps P) {c : Chip} (h : Holds P c) :
    Holds P (c.newDir) := by
  grind [Chip.newDir]
grind_pattern Chip.newDir_keeps => Chip.newDir c, Chip.Keeps P

theorem Chip.noImage_keeps {P : Chip → Prop} (K : Chip.Keeps P) {c : Chip} (h : Holds P c) :
    Holds P (c.noImage) := by
  grind [Chip.noImage]
grind_pattern Chip.noImage_keeps => Chip.noImage c, Chip.Keeps P

theorem Chip.slotTry_keeps {P : Chip → Prop} (K : Chip.Keeps P) {c : Chip} (h : Holds P c) (k_ : List Nat) :
    Holds P (c.slotTry k_) := by
  induction k_ generalizing c <;> grind [Chip.slotTry]
grind_pattern Chip.slotTry_keeps => Chip.slotTry c k_, Chip.Keeps P

theorem Chip.rootReady_keeps {P : Chip → Prop} (K : Chip.Keeps P) {c : Chip} (h : Holds P c) :
    Holds P (c.rootReady) := by
  grind [Chip.rootReady]
grind_pattern Chip.rootReady_keeps => Chip.rootReady c, Chip.Keeps P

theorem Chip.restart_keeps {P : Chip → Prop} (K : Chip.Stable P) {c : Chip} (h : Holds P c) (warm : Bool) (cause : Nat) :
    Holds P (c.restart warm cause) := by
  have := K.toKeeps
  grind [Chip.restart]
grind_pattern Chip.restart_keeps => Chip.restart c warm cause, Chip.Stable P

theorem Chip.warmReset_keeps {P : Chip → Prop} (K : Chip.Stable P) {c : Chip} (h : Holds P c) (cause : Nat) :
    Holds P (c.warmReset cause) := by
  have := K.toKeeps
  grind [Chip.warmReset]
grind_pattern Chip.warmReset_keeps => Chip.warmReset c cause, Chip.Stable P

theorem Chip.resetctl_keeps {P : Chip → Prop} (K : Chip.Keeps P) {c : Chip} (h : Holds P c) (v : Word) :
    Holds P (c.resetctl v) := by
  grind [Chip.resetctl]
grind_pattern Chip.resetctl_keeps => Chip.resetctl c v, Chip.Keeps P

theorem Chip.unload_keeps {P : Chip → Prop} (K : Chip.Keeps P) {c : Chip} (h : Holds P c) :
    Holds P (c.unload) := by
  grind [Chip.unload]
grind_pattern Chip.unload_keeps => Chip.unload c, Chip.Keeps P

theorem Chip.reloadEarly_keeps {P : Chip → Prop} (K : Chip.Keeps P) {c : Chip} (h : Holds P c) :
    Holds P (c.reloadEarly) := by
  grind [Chip.reloadEarly]
grind_pattern Chip.reloadEarly_keeps => Chip.reloadEarly c, Chip.Keeps P

theorem Chip.imageReject_keeps {P : Chip → Prop} (K : Chip.Keeps P) {c : Chip} (h : Holds P c) (code : Nat) :
    Holds P (c.imageReject code) := by
  grind [Chip.imageReject]
grind_pattern Chip.imageReject_keeps => Chip.imageReject c code, Chip.Keeps P

theorem Chip.earlyPassed_keeps {P : Chip → Prop} (K : Chip.Keeps P) {c : Chip} (h : Holds P c) (t : Nat) (digest : List Byte)
    (tables : SkeinTables) :
    Holds P (c.earlyPassed t digest tables) := by
  grind [Chip.earlyPassed]
grind_pattern Chip.earlyPassed_keeps => Chip.earlyPassed c t digest tables, Chip.Keeps P

theorem Chip.latePassed_keeps {P : Chip → Prop} (K : Chip.Keeps P) {c : Chip} (h : Holds P c) (e : List Byte) (x : SectionIn) :
    Holds P (c.latePassed e x) := by
  grind [Chip.latePassed]
grind_pattern Chip.latePassed_keeps => (c.latePassed e x), Chip.Keeps P

theorem Chip.mapColumns_keeps {P : Chip → Prop} (K : Chip.Keeps P) {c : Chip} (h : Holds P c) :
    Holds P (c.mapColumns) := by
  grind [Chip.mapColumns]
grind_pattern Chip.mapColumns_keeps => Chip.mapColumns c, Chip.Keeps P

theorem Chip.imageShown_keeps {P : Chip → Prop} (K : Chip.Keeps P) {c : Chip} (h : Holds P c) :
    Holds P (c.imageShown) := by
  grind [Chip.imageShown]
grind_pattern Chip.imageShown_keeps => Chip.imageShown c, Chip.Keeps P

theorem Chip.roleBegin_keeps {P : Chip → Prop} (K : Chip.Keeps P) {c : Chip} (h : Holds P c) :
    Holds P (c.roleBegin) := by
  grind [Chip.roleBegin]
grind_pattern Chip.roleBegin_keeps => Chip.roleBegin c, Chip.Keeps P

theorem Chip.libChecked_keeps {P : Chip → Prop} (K : Chip.Keeps P) {c : Chip} (h : Holds P c) :
    Holds P (c.libChecked) := by
  grind [Chip.libChecked]
grind_pattern Chip.libChecked_keeps => Chip.libChecked c, Chip.Keeps P

theorem Chip.unitsLoaded_keeps {P : Chip → Prop} (K : Chip.Keeps P) {c : Chip} (h : Holds P c) :
    Holds P (c.unitsLoaded) := by
  grind [Chip.unitsLoaded]
grind_pattern Chip.unitsLoaded_keeps => Chip.unitsLoaded c, Chip.Keeps P

theorem Chip.imageComplete_keeps {P : Chip → Prop} (K : Chip.Keeps P) {c : Chip} (h : Holds P c) :
    Holds P (c.imageComplete) := by
  grind [Chip.imageComplete]
grind_pattern Chip.imageComplete_keeps => Chip.imageComplete c, Chip.Keeps P

theorem Chip.noStore_keeps {P : Chip → Prop} (K : Chip.Keeps P) {c : Chip} (h : Holds P c) :
    Holds P (c.noStore) := by
  grind [Chip.noStore]
grind_pattern Chip.noStore_keeps => Chip.noStore c, Chip.Keeps P

theorem Chip.startMove_keeps {P : Chip → Prop} (K : Chip.Keeps P) {c : Chip} (h : Holds P c) (m : ColMove) :
    Holds P (c.startMove m) := by
  grind [Chip.startMove]
grind_pattern Chip.startMove_keeps => Chip.startMove c m, Chip.Keeps P

theorem Chip.startColumns_keeps {P : Chip → Prop} (K : Chip.Keeps P) {c : Chip} (h : Holds P c) (p : Nat) :
    Holds P (c.startColumns p) := by
  grind [Chip.startColumns]
grind_pattern Chip.startColumns_keeps => Chip.startColumns c p, Chip.Keeps P

theorem Chip.startUnits_keeps {P : Chip → Prop} (K : Chip.Keeps P) {c : Chip} (h : Holds P c) (p : Nat) :
    Holds P (c.startUnits p) := by
  grind [Chip.startUnits]
grind_pattern Chip.startUnits_keeps => Chip.startUnits c p, Chip.Keeps P

theorem Chip.planeStarted_keeps {P : Chip → Prop} (K : Chip.Stable P) {c : Chip} (h : Holds P c) (p : Nat) :
    Holds P (c.planeStarted p) := by
  have := K.toKeeps
  grind [Chip.planeStarted]
grind_pattern Chip.planeStarted_keeps => Chip.planeStarted c p, Chip.Stable P

theorem Chip.secRoll_keeps {P : Chip → Prop} (K : Chip.Keeps P) {c : Chip} (h : Holds P c) (golden : List (List Byte)) :
    Holds P (c.secRoll golden) := by
  grind [Chip.secRoll]
grind_pattern Chip.secRoll_keeps => (c.secRoll golden), Chip.Keeps P

theorem Chip.wake_keeps {P : Chip → Prop} (K : Chip.Stable P) {c : Chip} (h : Holds P c) :
    Holds P (c.wake) := by
  have := K.toKeeps
  grind [Chip.wake]
grind_pattern Chip.wake_keeps => Chip.wake c, Chip.Stable P

/-! ### Slots -/

theorem Chip.malformed_keeps {P : Chip → Prop} (K : Chip.Keeps P) {c : Chip} (h : Holds P c) (st i : Nat) (w : DWord) :
    Holds P (c.malformed st i w) := by
  grind [Chip.malformed]
grind_pattern Chip.malformed_keeps => Chip.malformed c st i w, Chip.Keeps P

theorem Chip.abortBusy_keeps {P : Chip → Prop} (K : Chip.Keeps P) {c : Chip} (h : Holds P c) (cls idx : Nat) :
    Holds P (c.abortBusy cls idx) := by
  grind [Chip.abortBusy]
grind_pattern Chip.abortBusy_keeps => Chip.abortBusy c cls idx, Chip.Keeps P

theorem Chip.startTarget_keeps {P : Chip → Prop} (K : Chip.Keeps P) {c : Chip} (h : Holds P c) (cls idx : Nat) (a : RunArrival) :
    Holds P (c.startTarget cls idx a) := by
  grind [Chip.startTarget]
grind_pattern Chip.startTarget_keeps => (c.startTarget cls idx a), Chip.Keeps P

theorem Chip.wordArrives_keeps {P : Chip → Prop} (K : Chip.Keeps P) {c : Chip} (h : Holds P c) (cls idx : Nat) (a : RunArrival) :
    Holds P (c.wordArrives cls idx a) := by
  grind [Chip.wordArrives]
grind_pattern Chip.wordArrives_keeps => (c.wordArrives cls idx a), Chip.Keeps P

theorem Chip.arriveWords_keeps {P : Chip → Prop} (K : Chip.Keeps P) {c : Chip} (h : Holds P c) (only : Option Nat) (by_ : Nat) :
    Holds P (c.arriveWords only by_) := by
  grind [Chip.arriveWords]
grind_pattern Chip.arriveWords_keeps => (c.arriveWords only by_), Chip.Keeps P

theorem Chip.sendWord_keeps {P : Chip → Prop} (K : Chip.Keeps P) {c : Chip} (h : Holds P c) (cls idx : Nat) (a : RunArrival) :
    Holds P (c.sendWord cls idx a) := by
  grind [Chip.sendWord]
grind_pattern Chip.sendWord_keeps => (c.sendWord cls idx a), Chip.Keeps P

theorem Chip.slotWord_keeps {P : Chip → Prop} (K : Chip.Keeps P) {c : Chip} (h : Holds P c) (st op : Nat) (f : Chip → Nat → DWord →
    Chip)
    (hf : ∀ (c : Chip) (i : Nat) (w : DWord), Holds P c → Holds P (f c i w)) : Holds P (c.slotWord st op f) := by
  grind [Chip.slotWord]
grind_pattern Chip.slotWord_keeps => (c.slotWord st op f), Chip.Keeps P

theorem Chip.lineSubst_keeps {P : Chip → Prop} (K : Chip.Stable P) {c : Chip} (h : Holds P c) (f n line : Nat) (ecc poison : Bool) :
    Holds P (c.lineSubst f n line ecc poison) := by
  have K0 := K.toKeeps
  grind [Chip.lineSubst]
grind_pattern Chip.lineSubst_keeps => (c.lineSubst f n line ecc poison), Chip.Stable P

theorem Chip.ingestRun_keeps {P : Chip → Prop} (K : Chip.Stable P) {c : Chip} (h : Holds P c) (p f n line : Nat)
    (ecc poison subst : Bool) :
    Holds P (c.ingestRun p f n line ecc poison subst) := by
  have K0 := K.toKeeps
  grind [Chip.ingestRun]
grind_pattern Chip.ingestRun_keeps => (c.ingestRun p f n line ecc poison subst), Chip.Stable P

theorem Chip.rowLeft_keeps {P : Chip → Prop} (K : Chip.Keeps P) {c : Chip} (h : Holds P c) (ch t r : Nat) :
    Holds P (c.rowLeft ch t r) := by
  grind [Chip.rowLeft]
grind_pattern Chip.rowLeft_keeps => Chip.rowLeft c ch t r, Chip.Keeps P

theorem Chip.laneRun_keeps {P : Chip → Prop} (K : Chip.Keeps P) {c : Chip} (h : Holds P c) (p n pc : Nat) (work : RunWork)
    (subst : Bool) :
    Holds P (c.laneRun p n pc work subst) := by
  unfold Chip.laneRun
  grind
grind_pattern Chip.laneRun_keeps => (c.laneRun p n pc work subst), Chip.Keeps P

theorem Chip.spindleRun_keeps {P : Chip → Prop} (K : Chip.Keeps P) {c : Chip} (h : Holds P c) (work : RunWork) (subst : Bool) :
    Holds P (c.spindleRun work subst) := by
  unfold Chip.spindleRun
  grind
grind_pattern Chip.spindleRun_keeps => Chip.spindleRun c work subst, Chip.Keeps P

theorem Chip.spindleVoid_keeps {P : Chip → Prop} (K : Chip.Keeps P) {c : Chip} (h : Holds P c) (work : RunWork) :
    Holds P (c.spindleVoid work) := by
  unfold Chip.spindleVoid
  grind
grind_pattern Chip.spindleVoid_keeps => (c.spindleVoid work), Chip.Keeps P

theorem Chip.engineFreed_keeps {P : Chip → Prop} (K : Chip.Keeps P) {c : Chip} (h : Holds P c) (idx : Nat) (t : TargetRun) :
    Holds P (c.engineFreed idx t) := by
  grind [Chip.engineFreed]
grind_pattern Chip.engineFreed_keeps => Chip.engineFreed c idx t, Chip.Keeps P

theorem Chip.targetNext_keeps {P : Chip → Prop} (K : Chip.Keeps P) {c : Chip} (h : Holds P c) (cls idx : Nat) (x : Option RunArrival) :
    Holds P (c.targetNext cls idx x) := by
  cases x
  · exact h
  · exact Chip.startTarget_keeps K h _ _ _
grind_pattern Chip.targetNext_keeps => Chip.targetNext c cls idx x, Chip.Keeps P

theorem Chip.unitRun_keeps {P : Chip → Prop} (K : Chip.Stable P) {c : Chip} (h : Holds P c) (p cls idx turn : Nat) (work : RunWork)
    (subst : Bool) :
    Holds P (c.unitRun p cls idx turn work subst) := by
  have K0 := K.toKeeps
  unfold Chip.unitRun
  grind
grind_pattern Chip.unitRun_keeps => (c.unitRun p cls idx turn work subst), Chip.Stable P

theorem Chip.runSpindle_keeps {P : Chip → Prop} (K : Chip.Keeps P) {c : Chip} (h : Holds P c) (idx : Nat) (a : RunArrival) :
    Holds P (c.runSpindle idx a) := by
  grind [Chip.runSpindle]
grind_pattern Chip.runSpindle_keeps => (c.runSpindle idx a), Chip.Keeps P

theorem Chip.issueRun_keeps {P : Chip → Prop} (K : Chip.Keeps P) {c : Chip} (h : Holds P c) (st i : Nat) (w : DWord) (work : RunWork) :
    Holds P (c.issueRun st i w work) := by
  grind [Chip.issueRun]
grind_pattern Chip.issueRun_keeps => (c.issueRun st i w work), Chip.Keeps P

theorem Chip.engineComplete_keeps {P : Chip → Prop} (K : Chip.Keeps P) {c : Chip} (h : Holds P c) (idx : Nat) :
    Holds P (c.engineComplete idx) := by
  grind [Chip.engineComplete]
grind_pattern Chip.engineComplete_keeps => (c.engineComplete idx), Chip.Keeps P

theorem Chip.attachMark_keeps {P : Chip → Prop} (K : Chip.Keeps P) {c : Chip} (h : Holds P c) (cls idx : Nat) (m : Nat × Nat) :
    Holds P (c.attachMark cls idx m) := by
  grind [Chip.attachMark]
grind_pattern Chip.attachMark_keeps => Chip.attachMark c cls idx m, Chip.Keeps P

theorem Chip.drawBytes_keeps {P : Chip → Prop} (K : Chip.Keeps P) {c : Chip} (h : Holds P c) (n : Nat) : Holds P (c.drawBytes n).2
    := by
  have go : ∀ (l : List Nat) (q : List Byte × Chip), Holds P q.2 →
      Holds P (l.foldl (fun (q : List Byte × Chip) _ =>
        let (v, c) := q.2.draw
        (q.1 ++ (leBytes 32 v.toNat).take (n - q.1.length), c)) q).2 := by
    intro l
    induction l with
    | nil => exact fun _ hq => hq
    | cons a l ih => exact fun q hq => ih _ (Chip.draw_keeps K hq)
  exact go _ _ h
grind_pattern Chip.drawBytes_keeps => (c.drawBytes n), Chip.Keeps P

theorem Chip.moveRead_keeps {P : Chip → Prop} (K : Chip.Keeps P) {c : Chip} (h : Holds P c) (d : MoveDesc) (errs : List LineErr) :
    Holds P (c.moveRead d errs).2.2 := by
  grind [Chip.moveRead]
grind_pattern Chip.moveRead_keeps => Chip.moveRead c d errs, Chip.Keeps P

theorem Chip.moveActivates_keeps {P : Chip → Prop} (K : Chip.Keeps P) {c : Chip} (h : Holds P c) (d : MoveDesc) :
    Holds P (c.moveActivates d) := by
  grind [Chip.moveActivates]
grind_pattern Chip.moveActivates_keeps => Chip.moveActivates c d, Chip.Keeps P

theorem Chip.moveBlocked_keeps {P : Chip → Prop} (K : Chip.Keeps P) {c : Chip} (h : Holds P c) (d : MoveDesc) :
    Holds P (c.moveBlocked d) := by
  grind [Chip.moveBlocked]
grind_pattern Chip.moveBlocked_keeps => Chip.moveBlocked c d, Chip.Keeps P

theorem Chip.toEgress_keeps {P : Chip → Prop} (K : Chip.Keeps P) {c : Chip} (h : Holds P c) (d : MoveDesc) (m : InFlight) (errs :
    List LineErr) :
    Holds P (c.toEgress d m errs) := by
  grind [Chip.toEgress]
grind_pattern Chip.toEgress_keeps => Chip.toEgress c d m errs, Chip.Keeps P

theorem Chip.issueMove_keeps {P : Chip → Prop} (K : Chip.Keeps P) {c : Chip} (h : Holds P c) (p st i : Nat) (w : DWord) (breaks :
    Bool) (errs : List LineErr) :
    Holds P (c.issueMove p st i w breaks errs) := by
  grind [Chip.issueMove]
grind_pattern Chip.issueMove_keeps => Chip.issueMove c p st i w breaks errs, Chip.Keeps P

theorem Chip.cvuVerdict_keeps {P : Chip → Prop} (K : Chip.Stable P) {c : Chip} (h : Holds P c) (m : InFlight) (d : MoveDesc) :
    Holds P (c.cvuVerdict m d).2 := by
  have := K.toKeeps
  grind [Chip.cvuVerdict]
grind_pattern Chip.cvuVerdict_keeps => Chip.cvuVerdict c m d, Chip.Stable P

theorem Chip.moveWrite_keeps {P : Chip → Prop} (K : Chip.Stable P) {c : Chip} (h : Holds P c) (m : InFlight) (d : MoveDesc) :
    Holds P (c.moveWrite m d) := by
  have := K.toKeeps
  grind [Chip.moveWrite]
grind_pattern Chip.moveWrite_keeps => Chip.moveWrite c m d, Chip.Stable P

theorem Chip.cvuKernel_keeps {P : Chip → Prop} (K : Chip.Keeps P) {c : Chip} (h : Holds P c) (ctx k : Nat) (f : Chip → CvuDef → Chip)
    (hf : ∀ (c : Chip) (d : CvuDef), Holds P c → Holds P (f c d)) : Holds P (c.cvuKernel ctx k f) :=
  Chip.ite_keeps (fun _ => h) (fun _ => Chip.completeTarget_keeps K (hf _ _ h) _)
grind_pattern Chip.cvuKernel_keeps => (c.cvuKernel ctx k f), Chip.Keeps P

/-! ### RegAccess -/

theorem Chip.logAbort_keeps {P : Chip → Prop} (K : Chip.Keeps P) {c : Chip} (h : Holds P c) (x : Access) (cause : Nat) :
    Holds P (c.logAbort x cause) := by
  grind [Chip.logAbort]
grind_pattern Chip.logAbort_keeps => Chip.logAbort c x cause, Chip.Keeps P

theorem Chip.validCleared_keeps {P : Chip → Prop} (K : Chip.Keeps P) {c : Chip} (h : Holds P c) (a : Nat) :
    Holds P (c.validCleared a) := by
  grind [Chip.validCleared]
grind_pattern Chip.validCleared_keeps => Chip.validCleared c a, Chip.Keeps P

theorem Chip.svcWritten_keeps {P : Chip → Prop} (K : Chip.Keeps P) {c : Chip} (h : Holds P c) (was : Chip) (a : Nat) : Holds P
    (c.svcWritten was a) := by
  unfold Chip.svcWritten
  exact Chip.ite_keeps (fun _ => Chip.ite_keeps (fun _ => Chip.stormCleared_keeps K h _) fun _ =>
      Chip.ite_keeps (fun _ => Chip.deliverAll_keeps K (Chip.repend_keeps K h _)) fun _ => h)
    fun _ => Chip.ite_keeps (fun _ => Chip.dispatch_keeps K h) fun _ =>
      Chip.ite_keeps (fun _ => Chip.ite_keeps (fun _ => Chip.sendMsix_keeps K (Chip.set_keeps K h _ _ _) _) fun _ => h)
        fun _ => h
grind_pattern Chip.svcWritten_keeps => (c.svcWritten was a), Chip.Keeps P

/-! ### Supply -/

theorem Chip.heldReset_keeps {P : Chip → Prop} (K : Chip.Stable P) {c : Chip} (h : Holds P c) (tripped : List Nat) (hot : Bool) :
    Holds P (c.heldReset tripped hot) := by
  have := K.toKeeps
  grind [Chip.heldReset]
grind_pattern Chip.heldReset_keeps => Chip.heldReset c tripped hot, Chip.Stable P

theorem Chip.reading_keeps {P : Chip → Prop} (K : Chip.Keeps P) {c : Chip} (h : Holds P c) (sensor : Nat) (t : Int) :
    Holds P (c.reading sensor t) := by
  grind [Chip.reading]
grind_pattern Chip.reading_keeps => Chip.reading c sensor t, Chip.Keeps P

/-! ### Turn -/

theorem Chip.leaseAge_keeps {P : Chip → Prop} (K : Chip.Keeps P) {c : Chip} (h : Holds P c) (was : Nat) :
    Holds P (c.leaseAge was) := by
  grind [Chip.leaseAge]
grind_pattern Chip.leaseAge_keeps => Chip.leaseAge c was, Chip.Keeps P

theorem Chip.streamsTwist_keeps {P : Chip → Prop} (K : Chip.Keeps P) {c : Chip} (h : Holds P c) :
    Holds P (c.streamsTwist) := by
  grind [Chip.streamsTwist]
grind_pattern Chip.streamsTwist_keeps => Chip.streamsTwist c, Chip.Keeps P

theorem Chip.passTwist_keeps {P : Chip → Prop} (K : Chip.Keeps P) {c : Chip} (h : Holds P c) :
    Holds P (c.passTwist) := by
  grind [Chip.passTwist]
grind_pattern Chip.passTwist_keeps => Chip.passTwist c, Chip.Keeps P

theorem Chip.setErr_keeps {P : Chip → Prop} (K : Chip.Keeps P) {c : Chip} (h : Holds P c) (p : Nat) (e : Int) :
    Holds P (c.setErr p e) := by
  grind [Chip.setErr]
grind_pattern Chip.setErr_keeps => Chip.setErr c p e, Chip.Keeps P

theorem Chip.planTail_keeps {P : Chip → Prop} (K : Chip.Keeps P) {c : Chip} (h : Holds P c) (p : Nat) :
    Holds P (c.planTail p) := by
  grind [Chip.planTail]
grind_pattern Chip.planTail_keeps => Chip.planTail c p, Chip.Keeps P

theorem Chip.turnEnds_keeps {P : Chip → Prop} (K : Chip.Stable P) {c : Chip} (h : Holds P c) (p : Nat) :
    Holds P (c.turnEnds p) := by
  have K0 := K.toKeeps
  grind [Chip.turnEnds]
grind_pattern Chip.turnEnds_keeps => Chip.turnEnds c p, Chip.Stable P

theorem Chip.nextTurn_keeps {P : Chip → Prop} (K : Chip.Keeps P) {c : Chip} (h : Holds P c) (p : Nat) (e : Int) :
    Holds P (c.nextTurn p e) := by
  grind [Chip.nextTurn]
grind_pattern Chip.nextTurn_keeps => Chip.nextTurn c p e, Chip.Keeps P

theorem Chip.boundaryShown_keeps {P : Chip → Prop} (K : Chip.Keeps P) {c : Chip} (h : Holds P c) (p : Nat) (was : PlaneRun) :
    Holds P (c.boundaryShown p was) := by
  grind [Chip.boundaryShown]
grind_pattern Chip.boundaryShown_keeps => Chip.boundaryShown c p was, Chip.Keeps P

theorem Chip.boundaryEffects_keeps {P : Chip → Prop} (K : Chip.Stable P) {c : Chip} (h : Holds P c) (p : Nat) :
    Holds P (c.boundaryEffects p) := by
  have := K.toKeeps
  grind [Chip.boundaryEffects]
grind_pattern Chip.boundaryEffects_keeps => Chip.boundaryEffects c p, Chip.Stable P

end Sys2Proof.Machine
end

