-- ==== Sys2Proof/Laws/CommandsA.lean ====
section
/-! SUPPORT. What every command keeps: ingest, the lanes, rate control, the Spindles, composition, audio and the network. -/

namespace Sys2Proof.Machine

set_option Elab.async false

/-! ### Ingest -/

theorem execSt2110PacketRx_keeps {P : Chip → Prop} (K : Chip.Keeps P) {s s' : State} (hw : Holds P s.chip) (k : MediaPacket)
    (e : execSt2110PacketRx k s = .next s') : Holds P s'.chip :=
  onChip_keeps hw (fun c hc => by grind) e

theorem execLegDown_keeps {P : Chip → Prop} (K : Chip.Keeps P) {s s' : State} (hw : Holds P s.chip) (f : Fin 1024) (isB : Bool) (t
    : Nat)
    (e : execLegDown f isB t s = .next s') : Holds P s'.chip :=
  onChip_keeps hw (fun c hc => by grind) e

theorem execAncPacketRx_keeps {P : Chip → Prop} (K : Chip.Keeps P) {s s' : State} (hw : Holds P s.chip) (f : Fin 1024) (stamp :
    Word) (a : AncPacket)
    (e : execAncPacketRx f stamp a s = .next s') : Holds P s'.chip :=
  onChip_keeps hw (fun c hc => by grind) e

theorem execIngCntclr_keeps {P : Chip → Prop} (K : Chip.Keeps P) {s s' : State} (hw : Holds P s.chip) (v : Word)
    (e : execIngCntclr v s = .next s') : Holds P s'.chip :=
  onChip_keeps hw (fun c hc => by grind) e

/-! ### Audio -/

theorem execMaskCommit_keeps {P : Chip → Prop} (K : Chip.Keeps P) {s s' : State} (hw : Holds P s.chip) (n : Fin 48) (v : Word) (t :
    Nat)
    (e : execMaskCommit n v t s = .next s') : Holds P s'.chip :=
  onChip_keeps hw (fun c hc => by grind) e

theorem execAudioFrameRx_keeps {P : Chip → Prop} (K : Chip.Keeps P) {s s' : State} (hw : Holds P s.chip) (n : Fin 48) (k : AudioFrame)
    (e : execAudioFrameRx n k s = .next s') : Holds P s'.chip := by
  refine onChip_keeps hw (fun c hc => ?_) e
  have hm := Chip.applyMask_keeps K hc n.val k.at_
  refine Chip.ite_keeps (fun _ => hc) fun _ => ?_
  exact Chip.when_keeps (Chip.offerBlock_keeps K (Chip.when_keeps (Chip.setPort_keeps K hm _ _) fun c hc => Chip.set_keeps K hc _ _ _) _ _)
    fun c hc => Chip.bump_keeps K (Chip.set_keeps K hc _ _ _) _ _ _

theorem execAudioClockLoss_keeps {P : Chip → Prop} (K : Chip.Keeps P) {s s' : State} (hw : Holds P s.chip) (n : Fin 48) (t : Nat)
    (e : execAudioClockLoss n t s = .next s') : Holds P s'.chip :=
  onChip_keeps hw (fun c hc => by grind) e

theorem execRateMeterWindow_keeps {P : Chip → Prop} (K : Chip.Keeps P) {s s' : State} (hw : Holds P s.chip) (n : Fin 48)
    (e : execRateMeterWindow n s = .next s') : Holds P s'.chip :=
  onChip_keeps hw (fun c hc => by grind) e

theorem execAudioOutputFrame_keeps {P : Chip → Prop} (K : Chip.Keeps P) {s s' : State} (hw : Holds P s.chip) (n : Fin 48) (t : Nat)
    (e : execAudioOutputFrame n t s = .next s') : Holds P s'.chip := by
  refine onChip_keeps hw (fun c hc => ?_) e
  have hm := Chip.applyMask_keeps K hc n.val t
  refine Chip.ite_keeps (fun _ => hc) fun _ => ?_
  exact Chip.when_keeps (Chip.when_keeps (Chip.setPort_keeps K hm _ _) fun c hc => Chip.bump_keeps K hc _ _ _)
    fun c hc => Chip.fault_keeps K hc _ _ _ _ _ _ _ _

theorem execAudCntclr_keeps {P : Chip → Prop} (K : Chip.Keeps P) {s s' : State} (hw : Holds P s.chip) (v : Word)
    (e : execAudCntclr v s = .next s') : Holds P s'.chip :=
  onChip_keeps hw (fun c hc => by grind) e

/-! ### Lane -/

theorem execLaneCntclr_keeps {P : Chip → Prop} (K : Chip.Keeps P) {s s' : State} (hw : Holds P s.chip) (n : Fin 16) (v : Word)
    (e : execLaneCntclr n v s = .next s') : Holds P s'.chip :=
  onChip_keeps hw (fun c hc => by grind) e

/-! ### DecodeLane -/

theorem execParseNal_keeps {P : Chip → Prop} (K : Chip.Keeps P) {s s' : State} (hw : Holds P s.chip) (x : ParseIn)
    (e : execParseNal x s = .next s') : Holds P s'.chip :=
  onChip_keeps hw (fun c hc => by grind) e

theorem execDecCntclr_keeps {P : Chip → Prop} (K : Chip.Keeps P) {s s' : State} (hw : Holds P s.chip) (v : Word)
    (e : execDecCntclr v s = .next s') : Holds P s'.chip :=
  onChip_keeps hw (fun c hc => by grind) e

/-! ### Rate -/

theorem execRateCntclr_keeps {P : Chip → Prop} (K : Chip.Keeps P) {s s' : State} (hw : Holds P s.chip) (v : Word)
    (e : execRateCntclr v s = .next s') : Holds P s'.chip :=
  onChip_keeps hw (fun c hc => by grind) e

/-! ### TimeBases -/

theorem execSteadyBaseTick_keeps {P : Chip → Prop} (K : Chip.Keeps P) {s s' : State} (hw : Holds P s.chip) (b : Fin 16)
    (e : execSteadyBaseTick b s = .next s') : Holds P s'.chip :=
  onChip_keeps hw (fun c hc => by grind) e

theorem execEstimateMissed_keeps {P : Chip → Prop} (K : Chip.Keeps P) {s s' : State} (hw : Holds P s.chip) (b : Fin 16)
    (e : execEstimateMissed b s = .next s') : Holds P s'.chip :=
  onChip_keeps hw (fun c hc => by grind) e

theorem execHoldsExpiry_keeps {P : Chip → Prop} (K : Chip.Keeps P) {s s' : State} (hw : Holds P s.chip) (b : Fin 16)
    (e : execHoldsExpiry b s = .next s') : Holds P s'.chip :=
  onChip_keeps hw (fun c hc => by grind) e

theorem execTbLatch_keeps {P : Chip → Prop} (K : Chip.Keeps P) {s s' : State} (hw : Holds P s.chip) (b : Fin 16) (v : Word)
    (e : execTbLatch b v s = .next s') : Holds P s'.chip :=
  onChip_keeps hw (fun c hc => by grind) e

theorem execFreeStart_keeps {P : Chip → Prop} (K : Chip.Keeps P) {s s' : State} (hw : Holds P s.chip) (b : Fin 16)
    (e : execFreeStart b s = .next s') : Holds P s'.chip :=
  onChip_keeps hw (fun c hc => by grind) e

/-! ### Egress -/

theorem execMediaPacketSend_keeps {P : Chip → Prop} (K : Chip.Keeps P) {s s' : State} (hw : Holds P s.chip) (f : Fin 1024) (k :
    SendInfo)
    (e : execMediaPacketSend f k s = .next s') : Holds P s'.chip :=
  onChip_keeps hw (fun c hc => by grind) e

theorem Chip.scteAgain_keeps {P : Chip → Prop} (K : Chip.Keeps P) {c : Chip} (h : Holds P c) (f ch pid t : Nat) (e : Splice × Nat) :
    Holds P (c.scteAgain f ch pid t e) := by
  grind [Chip.scteAgain]
grind_pattern Chip.scteAgain_keeps => Chip.scteAgain c f ch pid t e, Chip.Keeps P

theorem execScte35Repeat_keeps {P : Chip → Prop} (K : Chip.Keeps P) {s s' : State} (hw : Holds P s.chip) (f : Fin 1024) (t : Nat)
    (e : execScte35Repeat f t s = .next s') : Holds P s'.chip :=
  onChip_keeps hw (fun c hc => by grind) e

theorem execNetCntclrFlow_keeps {P : Chip → Prop} (K : Chip.Keeps P) {s s' : State} (hw : Holds P s.chip) (v : Word)
    (e : execNetCntclrFlow v s = .next s') : Holds P s'.chip :=
  onChip_keeps hw (fun c hc => by grind) e

/-! ### Spindle -/

theorem execSalu_keeps {P : Chip → Prop} (K : Chip.Keeps P) {s s' : State} (hw : Holds P s.chip) (n : Fin 192) (cyc : Nat) (op :
    SaluOp)
    (e : execSalu n cyc op s = .next s') : Holds P s'.chip :=
  onChip_keeps hw (fun c hc => by grind) e

theorem execSmul_keeps {P : Chip → Prop} (K : Chip.Keeps P) {s s' : State} (hw : Holds P s.chip) (n : Fin 192) (cyc : Nat) (op :
    SmulOp)
    (e : execSmul n cyc op s = .next s') : Holds P s'.chip :=
  onChip_keeps hw (fun c hc => by grind) e

theorem execSdiv_keeps {P : Chip → Prop} (K : Chip.Keeps P) {s s' : State} (hw : Holds P s.chip) (n : Fin 192) (cyc : Nat) (op :
    SdivOp)
    (e : execSdiv n cyc op s = .next s') : Holds P s'.chip :=
  onChip_keeps hw (fun c hc => by grind) e

theorem execSmem_keeps {P : Chip → Prop} (K : Chip.Keeps P) {s s' : State} (hw : Holds P s.chip) (n : Fin 192) (cyc : Nat) (op :
    SmemOp)
    (e : execSmem n cyc op s = .next s') : Holds P s'.chip :=
  onChip_keeps hw (fun c hc => by grind) e

theorem execStab_keeps {P : Chip → Prop} (K : Chip.Keeps P) {s s' : State} (hw : Holds P s.chip) (n : Fin 192) (cyc : Nat) (e :
    execStab n cyc s = .next s') :
    Holds P s'.chip := by
  refine onChip_keeps hw (fun c hc => Chip.issue_keeps K hc _ _ _ _ fun c e b hc => ?_) e
  dsimp only
  have hp := Chip.padRead_keeps K hc n.val (0x78000 + 4 * (1024 * (bSimm b % 8) + (sread e (bSa b)).toNat % 1024)) 4
  split
  · rename_i q; rw [q] at hp; exact Chip.sresult_keeps K hp _ _ _ _
  · rename_i q; rw [q] at hp; exact hp

theorem execCtrl_keeps {P : Chip → Prop} (K : Chip.Keeps P) {s s' : State} (hw : Holds P s.chip) (n : Fin 192) (cyc : Nat) (op :
    CtrlOp)
    (e : execCtrl n cyc op s = .next s') : Holds P s'.chip :=
  onChip_keeps hw (fun c hc => by grind) e

theorem execAchk_keeps {P : Chip → Prop} (K : Chip.Keeps P) {s s' : State} (hw : Holds P s.chip) (n : Fin 192) (cyc : Nat)
    (e : execAchk n cyc s = .next s') : Holds P s'.chip :=
  onChip_keeps hw (fun c hc => by grind) e

theorem execCsr_keeps {P : Chip → Prop} (K : Chip.Keeps P) {s s' : State} (hw : Holds P s.chip) (n : Fin 192) (cyc : Nat)
    (e : execCsr n cyc s = .next s') : Holds P s'.chip :=
  onChip_keeps hw (fun c hc => by grind) e

theorem execValu_keeps {P : Chip → Prop} (K : Chip.Keeps P) {s s' : State} (hw : Holds P s.chip) (n : Fin 192) (cyc : Nat) (op :
    ValuOp)
    (e : execValu n cyc op s = .next s') : Holds P s'.chip :=
  onChip_keeps hw (fun c hc => by grind) e

theorem execVcmp_keeps {P : Chip → Prop} (K : Chip.Keeps P) {s s' : State} (hw : Holds P s.chip) (n : Fin 192) (cyc : Nat) (op :
    VcmpOp)
    (e : execVcmp n cyc op s = .next s') : Holds P s'.chip :=
  onChip_keeps hw (fun c hc => by grind) e

theorem execVmul_keeps {P : Chip → Prop} (K : Chip.Keeps P) {s s' : State} (hw : Holds P s.chip) (n : Fin 192) (cyc : Nat) (op :
    VmulOp)
    (e : execVmul n cyc op s = .next s') : Holds P s'.chip :=
  onChip_keeps hw (fun c hc => by grind) e

theorem execVsad_keeps {P : Chip → Prop} (K : Chip.Keeps P) {s s' : State} (hw : Holds P s.chip) (n : Fin 192) (cyc : Nat)
    (e : execVsad n cyc s = .next s') : Holds P s'.chip :=
  onChip_keeps hw (fun c hc => by grind) e

theorem execVred_keeps {P : Chip → Prop} (K : Chip.Keeps P) {s s' : State} (hw : Holds P s.chip) (n : Fin 192) (cyc : Nat) (op :
    VredOp)
    (e : execVred n cyc op s = .next s') : Holds P s'.chip :=
  onChip_keeps hw (fun c hc => by grind) e

theorem execVperm_keeps {P : Chip → Prop} (K : Chip.Keeps P) {s s' : State} (hw : Holds P s.chip) (n : Fin 192) (cyc : Nat) (op :
    VpermOp)
    (e : execVperm n cyc op s = .next s') : Holds P s'.chip :=
  onChip_keeps hw (fun c hc => by grind) e

theorem execVmem_keeps {P : Chip → Prop} (K : Chip.Keeps P) {s s' : State} (hw : Holds P s.chip) (n : Fin 192) (cyc : Nat) (op :
    VmemOp)
    (e : execVmem n cyc op s = .next s') : Holds P s'.chip :=
  onChip_keeps hw (fun c hc => by grind) e

theorem execMovs_keeps {P : Chip → Prop} (K : Chip.Keeps P) {s s' : State} (hw : Holds P s.chip) (n : Fin 192) (cyc : Nat) (op :
    MovsOp)
    (e : execMovs n cyc op s = .next s') : Holds P s'.chip :=
  onChip_keeps hw (fun c hc => by grind) e

theorem execSend_keeps {P : Chip → Prop} (K : Chip.Keeps P) {s s' : State} (hw : Holds P s.chip) (n : Fin 192) (cyc : Nat)
    (e : execSend n cyc s = .next s') : Holds P s'.chip :=
  onChip_keeps hw (fun c hc => by grind) e

theorem execSendl_keeps {P : Chip → Prop} (K : Chip.Keeps P) {s s' : State} (hw : Holds P s.chip) (n : Fin 192) (cyc : Nat)
    (e : execSendl n cyc s = .next s') : Holds P s'.chip :=
  onChip_keeps hw (fun c hc => by grind) e

theorem execCommit_keeps {P : Chip → Prop} (K : Chip.Keeps P) {s s' : State} (hw : Holds P s.chip) (n : Fin 192) (cyc : Nat)
    (e : execCommit n cyc s = .next s') : Holds P s'.chip :=
  onChip_keeps hw (fun c hc => by grind) e

theorem execResultWriteback_keeps {P : Chip → Prop} (K : Chip.Keeps P) {s s' : State} (hw : Holds P s.chip) (n : Fin 192) (cyc : Nat)
    (e : execResultWriteback n cyc s = .next s') : Holds P s'.chip :=
  onChip_keeps hw (fun c hc => by grind) e

theorem execSendArrival_keeps {P : Chip → Prop} (K : Chip.Keeps P) {s s' : State} (hw : Holds P s.chip) (collided crcFail : Bool)
    (e : execSendArrival collided crcFail s = .next s') : Holds P s'.chip :=
  onChip_keeps hw (fun c hc => by grind) e

theorem execRunArrival_keeps {P : Chip → Prop} (K : Chip.Keeps P) {s s' : State} (hw : Holds P s.chip) (n : Fin 192)
    (e : execRunArrival n s = .next s') : Holds P s'.chip :=
  onChip_keeps hw (fun c hc => by grind) e

theorem execRunComplete_keeps {P : Chip → Prop} (K : Chip.Stable P) {s s' : State} (hw : Holds P s.chip) (cls : Fin 13) (idx : Nat)
    (e : execRunComplete cls idx s = .next s') : Holds P s'.chip := by
  have K0 := K.toKeeps
  exact onChip_keeps hw (fun c hc => by grind) e

theorem execBudgetExpiry_keeps {P : Chip → Prop} (K : Chip.Keeps P) {s s' : State} (hw : Holds P s.chip) (cls : Fin 13) (idx : Nat)
    (e : execBudgetExpiry cls idx s = .next s') : Holds P s'.chip :=
  onChip_keeps hw (fun c hc => by grind) e

theorem execOwnershipAbort_keeps {P : Chip → Prop} (K : Chip.Keeps P) {s s' : State} (hw : Holds P s.chip) (cls : Fin 13) (idx : Nat)
    (e : execOwnershipAbort cls idx s = .next s') : Holds P s'.chip :=
  onChip_keeps hw (fun c hc => by grind) e

theorem execAbortComplete_keeps {P : Chip → Prop} (K : Chip.Keeps P) {s s' : State} (hw : Holds P s.chip) (cls : Fin 13) (idx : Nat)
    (e : execAbortComplete cls idx s = .next s') : Holds P s'.chip :=
  onChip_keeps hw (fun c hc => by grind) e

theorem execSpnCntclr_keeps {P : Chip → Prop} (K : Chip.Keeps P) {s s' : State} (hw : Holds P s.chip) (v : Word)
    (e : execSpnCntclr v s = .next s') : Holds P s'.chip :=
  onChip_keeps hw (fun c hc => by grind) e

/-! ### NetRx -/

theorem execPortUp_keeps {P : Chip → Prop} (K : Chip.Keeps P) {s s' : State} (hw : Holds P s.chip) (n : Fin 16) (phy : PortPhy)
    (e : execPortUp n phy s = .next s') : Holds P s'.chip :=
  onChip_keeps hw (fun c hc => by grind) e

theorem execPortDown_keeps {P : Chip → Prop} (K : Chip.Keeps P) {s s' : State} (hw : Holds P s.chip) (n : Fin 16) (phy : PortPhy)
    (e : execPortDown n phy s = .next s') : Holds P s'.chip :=
  onChip_keeps hw (fun c hc => by grind) e

theorem execMembershipReport_keeps {P : Chip → Prop} (K : Chip.Keeps P) {s s' : State} (hw : Holds P s.chip) (n : Fin 16)
    (e : execMembershipReport n s = .next s') : Holds P s'.chip :=
  onChip_keeps hw (fun c hc => by grind) e

theorem execArpRefresh_keeps {P : Chip → Prop} (K : Chip.Keeps P) {s s' : State} (hw : Holds P s.chip) (n : Fin 16) (flow : Fin 1024)
    (e : execArpRefresh n flow s = .next s') : Holds P s'.chip :=
  onChip_keeps hw (fun c hc => by grind) e

theorem execDynamicFrameSend_keeps {P : Chip → Prop} (K : Chip.Keeps P) {s s' : State} (hw : Holds P s.chip) (n : Fin 16) (t : Nat)
    (e : execDynamicFrameSend n t s = .next s') : Holds P s'.chip :=
  onChip_keeps hw (fun c hc => by grind) e

theorem execAnnounceTimeout_keeps {P : Chip → Prop} (K : Chip.Keeps P) {s s' : State} (hw : Holds P s.chip) (i : Fin 4) (sender : Nat)
    (e : execAnnounceTimeout i sender s = .next s') : Holds P s'.chip :=
  onChip_keeps hw (fun c hc => by grind) e

theorem execDelayReqSend_keeps {P : Chip → Prop} (K : Chip.Keeps P) {s s' : State} (hw : Holds P s.chip) (i : Fin 4)
    (e : execDelayReqSend i s = .next s') : Holds P s'.chip :=
  onChip_keeps hw (fun c hc => by grind) e

theorem execTsqPop_keeps {P : Chip → Prop} (K : Chip.Keeps P) {s s' : State} (hw : Holds P s.chip) (n : Fin 16) (v : Word)
    (e : execTsqPop n v s = .next s') : Holds P s'.chip :=
  onChip_keeps hw (fun c hc => by grind) e

theorem execEthFrameRx_keeps {P : Chip → Prop} (K : Chip.Keeps P) {s s' : State} (hw : Holds P s.chip) (k : EthFrame)
    (e : execEthFrameRx k s = .next s') : Holds P s'.chip :=
  onChip_keeps hw (fun c hc => by grind) e

theorem execNetCntclrLane_keeps {P : Chip → Prop} (K : Chip.Keeps P) {s s' : State} (hw : Holds P s.chip) (v : Word)
    (e : execNetCntclrLane v s = .next s') : Holds P s'.chip :=
  onChip_keeps hw (fun c hc => by grind) e

theorem execPcieLinkUp_keeps {P : Chip → Prop} (K : Chip.Keeps P) {s s' : State} (hw : Holds P s.chip)
    (e : execPcieLinkUp s = .next s') : Holds P s'.chip :=
  onChip_keeps hw (fun c hc => by grind) e

end Sys2Proof.Machine
end

