-- ==== Sys2Proof/Laws/CommandsB.lean ====
section
/-! SUPPORT. What every command keeps: clocks, DRAM, storage, the Strand, the service complex, the Reel and the pair. -/

namespace Sys2Proof.Machine

set_option Elab.async false

/-! ### Interrupts -/

theorem execInterruptSense_keeps {P : Chip → Prop} (K : Chip.Keeps P) {s s' : State} (hw : Holds P s.chip) (src : Fin 1024) (fw :
    FwCore)
    (e : execInterruptSense src fw s = .next s') : Holds P s'.chip :=
  onChip_keeps hw (fun c hc => by grind) e

theorem execCoalesceTimeout_keeps {P : Chip → Prop} (K : Chip.Keeps P) {s s' : State} (hw : Holds P s.chip) (src : Fin 1024)
    (e : execCoalesceTimeout src s = .next s') : Holds P s'.chip :=
  onChip_keeps hw (fun c hc => by grind) e

theorem execStormWindow_keeps {P : Chip → Prop} (K : Chip.Keeps P) {s s' : State} (hw : Holds P s.chip) (src : Fin 1024)
    (e : execStormWindow src s = .next s') : Holds P s'.chip :=
  onChip_keeps hw (fun c hc => by grind) e

theorem execLevelmaxExpiry_keeps {P : Chip → Prop} (K : Chip.Keeps P) {s s' : State} (hw : Holds P s.chip) (src : Fin 1024)
    (e : execLevelmaxExpiry src s = .next s') : Holds P s'.chip :=
  onChip_keeps hw (fun c hc => by grind) e

theorem execClaim_keeps {P : Chip → Prop} (K : Chip.Keeps P) {s s' : State} (hw : Holds P s.chip) (k : Fin 16)
    (e : execClaim k s = .next s') : Holds P s'.chip :=
  onChip_keeps hw (fun c hc => by grind) e

theorem execComplete_keeps {P : Chip → Prop} (K : Chip.Keeps P) {s s' : State} (hw : Holds P s.chip) (k : Fin 16) (v : Word)
    (e : execComplete k v s = .next s') : Holds P s'.chip :=
  onChip_keeps hw (fun c hc => by grind) e

theorem execFret_keeps {P : Chip → Prop} (K : Chip.Keeps P) {s s' : State} (hw : Holds P s.chip) (k : Fin 16) (fw : FwCore)
    (e : execFret k fw s = .next s') : Holds P s'.chip :=
  onChip_keeps hw (fun c hc => by grind) e

theorem execHostack_keeps {P : Chip → Prop} (K : Chip.Keeps P) {s s' : State} (hw : Holds P s.chip) (v : Word)
    (e : execHostack v s = .next s') : Holds P s'.chip :=
  onChip_keeps hw (fun c hc => by grind) e

theorem execIcglobalWrite_keeps {P : Chip → Prop} (K : Chip.Keeps P) {s s' : State} (hw : Holds P s.chip) (v : Word)
    (e : execIcglobalWrite v s = .next s') : Holds P s'.chip :=
  onChip_keeps hw (fun c hc => by grind) e

theorem execEnqueue_keeps {P : Chip → Prop} (K : Chip.Keeps P) {s s' : State} (hw : Holds P s.chip) (q : Fin 256) (v : Word)
    (e : execEnqueue q v s = .next s') : Holds P s'.chip :=
  onChip_keeps hw (fun c hc => by grind) e

theorem execAffwaitExpiry_keeps {P : Chip → Prop} (K : Chip.Keeps P) {s s' : State} (hw : Holds P s.chip) (q : Fin 256)
    (e : execAffwaitExpiry q s = .next s') : Holds P s'.chip :=
  onChip_keeps hw (fun c hc => by grind) e

theorem execTake_keeps {P : Chip → Prop} (K : Chip.Keeps P) {s s' : State} (hw : Holds P s.chip) (k : Fin 16)
    (e : execTake k s = .next s') : Holds P s'.chip :=
  onChip_keeps hw (fun c hc => by grind) e

theorem execDone_keeps {P : Chip → Prop} (K : Chip.Keeps P) {s s' : State} (hw : Holds P s.chip) (k : Fin 16) (v : Word)
    (e : execDone k v s = .next s') : Holds P s'.chip :=
  onChip_keeps hw (fun c hc => by grind) e

theorem execItemOverrun_keeps {P : Chip → Prop} (K : Chip.Keeps P) {s s' : State} (hw : Holds P s.chip) (k : Fin 16)
    (e : execItemOverrun k s = .next s') : Holds P s'.chip :=
  onChip_keeps hw (fun c hc => by grind) e

theorem execCoreReset_keeps {P : Chip → Prop} (K : Chip.Keeps P) {s s' : State} (hw : Holds P s.chip) (k : Fin 16)
    (e : execCoreReset k s = .next s') : Holds P s'.chip :=
  onChip_keeps hw (fun c hc => by grind) e

theorem execFastHandlerTimeout_keeps {P : Chip → Prop} (K : Chip.Keeps P) {s s' : State} (hw : Holds P s.chip) (k : Fin 16)
    (e : execFastHandlerTimeout k s = .next s') : Holds P s'.chip :=
  onChip_keeps hw (fun c hc => by grind) e

theorem execEventPinEdge_keeps {P : Chip → Prop} (K : Chip.Keeps P) {s s' : State} (hw : Holds P s.chip) (n : Fin 96) (high : Bool)
    (e : execEventPinEdge n high s = .next s') : Holds P s'.chip :=
  onChip_keeps hw (fun c hc => by grind) e

theorem execEvoutWrite_keeps {P : Chip → Prop} (K : Chip.Keeps P) {s s' : State} (hw : Holds P s.chip) (i : Fin 3) (v : Word)
    (e : execEvoutWrite i v s = .next s') : Holds P s'.chip :=
  onChip_keeps hw (fun c hc => by grind) e

theorem execSvcCntclrSource_keeps {P : Chip → Prop} (K : Chip.Keeps P) {s s' : State} (hw : Holds P s.chip) (v : Word)
    (e : execSvcCntclrSource v s = .next s') : Holds P s'.chip :=
  onChip_keeps hw (fun c hc => by grind) e

theorem execSvcCntclrQueue_keeps {P : Chip → Prop} (K : Chip.Keeps P) {s s' : State} (hw : Holds P s.chip) (v : Word)
    (e : execSvcCntclrQueue v s = .next s') : Holds P s'.chip :=
  onChip_keeps hw (fun c hc => by grind) e

/-! ### Nand -/

theorem execDirectoryRepair_keeps {P : Chip → Prop} (K : Chip.Keeps P) {s s' : State} (hw : Holds P s.chip)
    (e : execDirectoryRepair s = .next s') : Holds P s'.chip :=
  onChip_keeps hw (fun c hc => by grind) e

theorem execNandProgramDone_keeps {P : Chip → Prop} (K : Chip.Keeps P) {s s' : State} (hw : Holds P s.chip) (block : Nat) (part :
    Fin 10) (ok : Bool)
    (e : execNandProgramDone block part ok s = .next s') : Holds P s'.chip :=
  onChip_keeps hw (fun c hc => by grind) e

theorem execNandEraseDone_keeps {P : Chip → Prop} (K : Chip.Keeps P) {s s' : State} (hw : Holds P s.chip) (block : Nat) (part : Fin
    10) (ok : Bool)
    (e : execNandEraseDone block part ok s = .next s') : Holds P s'.chip :=
  onChip_keeps hw (fun c hc => by grind) e

theorem execNandBusyTimeout_keeps {P : Chip → Prop} (K : Chip.Keeps P) {s s' : State} (hw : Holds P s.chip) (ch : Fin 2) (target :
    Fin 4)
    (e : execNandBusyTimeout ch target s = .next s') : Holds P s'.chip :=
  onChip_keeps hw (fun c hc => by grind) e

theorem execScrubPassStart_keeps {P : Chip → Prop} (K : Chip.Keeps P) {s s' : State} (hw : Holds P s.chip)
    (e : execScrubPassStart s = .next s') : Holds P s'.chip :=
  onChip_keeps hw (fun c hc => by grind) e

theorem execNandScrubPage_keeps {P : Chip → Prop} (K : Chip.Keeps P) {s s' : State} (hw : Holds P s.chip) (r : NandRead) (last : Bool)
    (e : execNandScrubPage r last s = .next s') : Holds P s'.chip :=
  onChip_keeps hw (fun c hc => by grind) e

theorem Chip.refreshTo_keeps {P : Chip → Prop} (K : Chip.Keeps P) {c : Chip} (h : Holds P c) (i block n corrected : Nat) (eraseOk : Bool) :
    Holds P (c.refreshTo i block n corrected eraseOk) := by
  grind [Chip.refreshTo]
grind_pattern Chip.refreshTo_keeps => Chip.refreshTo c i block n corrected eraseOk, Chip.Keeps P

theorem execBlockRefresh_keeps {P : Chip → Prop} (K : Chip.Keeps P) {s s' : State} (hw : Holds P s.chip) (block : Nat) (corrected :
    Nat) (readable eraseOk : Bool)
    (e : execBlockRefresh block corrected readable eraseOk s = .next s') : Holds P s'.chip :=
  onChip_keeps hw (fun c hc => by grind) e

theorem execInstallTokenAccrue_keeps {P : Chip → Prop} (K : Chip.Keeps P) {s s' : State} (hw : Holds P s.chip)
    (e : execInstallTokenAccrue s = .next s') : Holds P s'.chip :=
  onChip_keeps hw (fun c hc => by grind) e

theorem execGoldenTokenAccrue_keeps {P : Chip → Prop} (K : Chip.Keeps P) {s s' : State} (hw : Holds P s.chip)
    (e : execGoldenTokenAccrue s = .next s') : Holds P s'.chip :=
  onChip_keeps hw (fun c hc => by grind) e

theorem execLogPageProgram_keeps {P : Chip → Prop} (K : Chip.Keeps P) {s s' : State} (hw : Holds P s.chip)
    (e : execLogPageProgram s = .next s') : Holds P s'.chip :=
  onChip_keeps hw (fun c hc => by grind) e

theorem execNandCntclr_keeps {P : Chip → Prop} (K : Chip.Keeps P) {s s' : State} (hw : Holds P s.chip) (v : Word)
    (e : execNandCntclr v s = .next s') : Holds P s'.chip :=
  onChip_keeps hw (fun c hc => by grind) e

/-! ### Reel -/

theorem execReelPageProgram_keeps {P : Chip → Prop} (K : Chip.Keeps P) {s s' : State} (hw : Holds P s.chip)
    (e : execReelPageProgram s = .next s') : Holds P s'.chip :=
  onChip_keeps hw (fun c hc => by grind) e

theorem execReelRead_keeps {P : Chip → Prop} (K : Chip.Keeps P) {s s' : State} (hw : Holds P s.chip) (v : Word)
    (e : execReelRead v s = .next s') : Holds P s'.chip :=
  onChip_keeps hw (fun c hc => by grind) e

theorem execReelTokenQuery_keeps {P : Chip → Prop} (K : Chip.Keeps P) {s s' : State} (hw : Holds P s.chip) (v : Word)
    (e : execReelTokenQuery v s = .next s') : Holds P s'.chip :=
  onChip_keeps hw (fun c hc => by grind) e

theorem execReelNandFetchDone_keeps {P : Chip → Prop} (K : Chip.Keeps P) {s s' : State} (hw : Holds P s.chip)
    (e : execReelNandFetchDone s = .next s') : Holds P s'.chip :=
  onChip_keeps hw (fun c hc => by grind) e

theorem execRingEnable_keeps {P : Chip → Prop} (K : Chip.Keeps P) {s s' : State} (hw : Holds P s.chip) (v : Word)
    (e : execRingEnable v s = .next s') : Holds P s'.chip :=
  onChip_keeps hw (fun c hc => by grind) e

theorem execSqDoorbell_keeps {P : Chip → Prop} (K : Chip.Keeps P) {s s' : State} (hw : Holds P s.chip) (v : Word)
    (e : execSqDoorbell v s = .next s') : Holds P s'.chip :=
  onChip_keeps hw (fun c hc => by grind) e

theorem execCqHeadWrite_keeps {P : Chip → Prop} (K : Chip.Keeps P) {s s' : State} (hw : Holds P s.chip) (v : Word)
    (e : execCqHeadWrite v s = .next s') : Holds P s'.chip :=
  onChip_keeps hw (fun c hc => by grind) e

theorem execPcieHotReset_keeps {P : Chip → Prop} (K : Chip.Keeps P) {s s' : State} (hw : Holds P s.chip)
    (e : execPcieHotReset s = .next s') : Holds P s'.chip :=
  onChip_keeps hw (fun c hc => by grind) e

/-! ### Dram -/

theorem execDramDynamicRequest_keeps {P : Chip → Prop} (K : Chip.Stable P) {s s' : State} (hw : Holds P s.chip) (r : DynReq)
    (e : execDramDynamicRequest r s = .next s') : Holds P s'.chip := by
  unfold execDramDynamicRequest at e
  split at e
  · cases e
  · refine onChip_keeps hw (fun c hc => Chip.ite_keeps (fun _ => Chip.serveDram_keeps K ?_) fun _ => hc) e
    exact Chip.upd_keeps K.toKeeps hc rfl rfl rfl

theorem execMr4Poll_keeps {P : Chip → Prop} (K : Chip.Keeps P) {s s' : State} (hw : Holds P s.chip) (ch : Fin 16) (v : Byte) (hot :
    Bool)
    (e : execMr4Poll ch v hot s = .next s') : Holds P s'.chip :=
  onChip_keeps hw (fun c hc => by grind) e

theorem execZqCalibration_keeps {P : Chip → Prop} (K : Chip.Keeps P) {s s' : State} (hw : Holds P s.chip) (ch : Fin 16)
    (e : execZqCalibration ch s = .next s') : Holds P s'.chip :=
  onChip_keeps hw (fun c hc => by grind) e

theorem execDqOscillatorRead_keeps {P : Chip → Prop} (K : Chip.Keeps P) {s s' : State} (hw : Holds P s.chip) (ch : Fin 16) (drift :
    List Int)
    (e : execDqOscillatorRead ch drift s = .next s') : Holds P s'.chip :=
  onChip_keeps hw (fun c hc => by grind) e

theorem execRfmIssue_keeps {P : Chip → Prop} (K : Chip.Keeps P) {s s' : State} (hw : Holds P s.chip) (ch : Fin 16) (pair : Fin 8)
    (e : execRfmIssue ch pair s = .next s') : Holds P s'.chip :=
  onChip_keeps hw (fun c hc => by grind) e

theorem execSnagHoldExpiry_keeps {P : Chip → Prop} (K : Chip.Stable P) {s s' : State} (hw : Holds P s.chip) (who : Nat) (ch bank :
    Fin 16)
    (e : execSnagHoldExpiry who ch bank s = .next s') : Holds P s'.chip := by
  have := K.toKeeps
  exact onChip_keeps hw (fun c hc => by grind) e

theorem execScrubLine_keeps {P : Chip → Prop} (K : Chip.Keeps P) {s s' : State} (hw : Holds P s.chip) (addr : Nat) (x : LineErr)
    (e : execScrubLine addr x s = .next s') : Holds P s'.chip := by
  unfold execScrubLine at e
  split at e
  · cases e
  · exact onChip_keeps hw (fun c hc => Chip.ite_keeps
      (fun _ => Chip.lineError_keeps K (Chip.activations_keeps K hc _ _ _) _ _) fun _ => hc) e

theorem execPanicRetry_keeps {P : Chip → Prop} (K : Chip.Keeps P) {s s' : State} (hw : Holds P s.chip) (k : Fin 8) (e : LineErr)
    (e : execPanicRetry k e s = .next s') : Holds P s'.chip :=
  onChip_keeps hw (fun c hc => by grind) e

theorem execDramCntclr_keeps {P : Chip → Prop} (K : Chip.Keeps P) {s s' : State} (hw : Holds P s.chip) (v : Word)
    (e : execDramCntclr v s = .next s') : Holds P s'.chip :=
  onChip_keeps hw (fun c hc => by grind) e

/-! ### Strand -/

theorem Chip.lockBegin_keeps {P : Chip → Prop} (K : Chip.Keeps P) {c : Chip} (h : Holds P c) (g : Nat) : Holds P (c.lockBegin g) := by
  grind [Chip.lockBegin]
grind_pattern Chip.lockBegin_keeps => Chip.lockBegin c g, Chip.Keeps P

theorem execReceiverDetect_keeps {P : Chip → Prop} (K : Chip.Keeps P) {s s' : State} (hw : Holds P s.chip) (n : Fin 64) (found : Bool)
    (e : execReceiverDetect n found s = .next s') : Holds P s'.chip :=
  onChip_keeps hw (fun c hc => by grind) e

theorem execTrainingSetRx_keeps {P : Chip → Prop} (K : Chip.Keeps P) {s s' : State} (hw : Holds P s.chip) (n : Fin 64) (ts : List
    Byte) (inverted : Bool) (call : Option (Fin 6))
    (e : execTrainingSetRx n ts inverted call s = .next s') : Holds P s'.chip :=
  onChip_keeps hw (fun c hc => by grind) e

theorem execBringupStepTimeout_keeps {P : Chip → Prop} (K : Chip.Keeps P) {s s' : State} (hw : Holds P s.chip) (g : Fin 64)
    (e : execBringupStepTimeout g s = .next s') : Holds P s'.chip :=
  onChip_keeps hw (fun c hc => by grind) e

theorem execRateLockTimeout_keeps {P : Chip → Prop} (K : Chip.Keeps P) {s s' : State} (hw : Holds P s.chip) (g : Fin 64)
    (e : execRateLockTimeout g s = .next s') : Holds P s'.chip :=
  onChip_keeps hw (fun c hc => by grind) e

theorem execTapAdjustTimeout_keeps {P : Chip → Prop} (K : Chip.Keeps P) {s s' : State} (hw : Holds P s.chip) (g : Fin 64)
    (e : execTapAdjustTimeout g s = .next s') : Holds P s'.chip :=
  onChip_keeps hw (fun c hc => by grind) e

theorem execExchangeRetry_keeps {P : Chip → Prop} (K : Chip.Keeps P) {s s' : State} (hw : Holds P s.chip) (g : Fin 64) (e :
    execExchangeRetry g s = .next s') :
    Holds P s'.chip := by
  refine onChip_keeps hw (fun c hc => ?_) e
  dsimp only
  split
  · exact Chip.ite_keeps (fun _ => Chip.ite_keeps (fun _ => Chip.grpRestart_keeps K hc _) fun _ =>
      Chip.setGrp_keeps K (Chip.each_keeps _ _ hc fun c m hc => Chip.setStrLane_keeps K hc _ _) _ _) fun _ => hc
  · exact hc

theorem execAlignmentMarkerSend_keeps {P : Chip → Prop} (K : Chip.Keeps P) {s s' : State} (hw : Holds P s.chip) (g : Fin 64)
    (e : execAlignmentMarkerSend g s = .next s') : Holds P s'.chip :=
  onChip_keeps hw (fun c hc => by grind) e

theorem execAlignmentMarkerRx_keeps {P : Chip → Prop} (K : Chip.Keeps P) {s s' : State} (hw : Holds P s.chip) (g : Fin 64) (skews :
    List Nat)
    (e : execAlignmentMarkerRx g skews s = .next s') : Holds P s'.chip :=
  onChip_keeps hw (fun c hc => by grind) e

theorem execLossOfLock_keeps {P : Chip → Prop} (K : Chip.Keeps P) {s s' : State} (hw : Holds P s.chip) (n : Fin 64) (how :
    LockLoss) (errors : Nat)
    (e : execLossOfLock n how errors s = .next s') : Holds P s'.chip :=
  onChip_keeps hw (fun c hc => by grind) e

theorem execElectricalIdleEntry_keeps {P : Chip → Prop} (K : Chip.Keeps P) {s s' : State} (hw : Holds P s.chip) (g : Fin 64)
    (e : execElectricalIdleEntry g s = .next s') : Holds P s'.chip :=
  onChip_keeps hw (fun c hc => by grind) e

theorem execElectricalIdleExit_keeps {P : Chip → Prop} (K : Chip.Keeps P) {s s' : State} (hw : Holds P s.chip) (g : Fin 64)
    (e : execElectricalIdleExit g s = .next s') : Holds P s'.chip :=
  onChip_keeps hw (fun c hc => by grind) e

theorem execEieReceived_keeps {P : Chip → Prop} (K : Chip.Keeps P) {s s' : State} (hw : Holds P s.chip) (n : Fin 64)
    (e : execEieReceived n s = .next s') : Holds P s'.chip :=
  onChip_keeps hw (fun c hc => by grind) e

theorem execExitBurstReceived_keeps {P : Chip → Prop} (K : Chip.Keeps P) {s s' : State} (hw : Holds P s.chip) (n : Fin 64)
    (e : execExitBurstReceived n s = .next s') : Holds P s'.chip :=
  onChip_keeps hw (fun c hc => by grind) e

theorem execStrandFrameRx_keeps {P : Chip → Prop} (K : Chip.Keeps P) {s s' : State} (hw : Holds P s.chip) (g : Fin 64) (f :
    StrandFrame)
    (e : execStrandFrameRx g f s = .next s') : Holds P s'.chip :=
  onChip_keeps hw (fun c hc => by grind) e

theorem execStrandFrameSend_keeps {P : Chip → Prop} (K : Chip.Keeps P) {s s' : State} (hw : Holds P s.chip) (g : Fin 64) (f :
    StrandSend) (fits : Bool)
    (e : execStrandFrameSend g f fits s = .next s') : Holds P s'.chip :=
  onChip_keeps hw (fun c hc => by grind) e

theorem execRemoteStatusSend_keeps {P : Chip → Prop} (K : Chip.Keeps P) {s s' : State} (hw : Holds P s.chip) (g : Fin 64)
    (e : execRemoteStatusSend g s = .next s') : Holds P s'.chip :=
  onChip_keeps hw (fun c hc => by grind) e

theorem execStrCntclr_keeps {P : Chip → Prop} (K : Chip.Keeps P) {s s' : State} (hw : Holds P s.chip) (v : Word)
    (e : execStrCntclr v s = .next s') : Holds P s'.chip :=
  onChip_keeps hw (fun c hc => by grind) e

/-! ### TwoPly -/

theorem execHeartbeatSend_keeps {P : Chip → Prop} (K : Chip.Keeps P) {s s' : State} (hw : Holds P s.chip)
    (e : execHeartbeatSend s = .next s') : Holds P s'.chip :=
  onChip_keeps hw (fun c hc => by grind) e

theorem execPathbWordSend_keeps {P : Chip → Prop} (K : Chip.Keeps P) {s s' : State} (hw : Holds P s.chip)
    (e : execPathbWordSend s = .next s') : Holds P s'.chip :=
  onChip_keeps hw (fun c hc => by grind) e

theorem execHeartbeatRx_keeps {P : Chip → Prop} (K : Chip.Keeps P) {s s' : State} (hw : Holds P s.chip) (h : Heartbeat)
    (e : execHeartbeatRx h s = .next s') : Holds P s'.chip :=
  onChip_keeps hw (fun c hc => by grind) e

theorem execPathbWordRx_keeps {P : Chip → Prop} (K : Chip.Keeps P) {s s' : State} (hw : Holds P s.chip) (w : Word) (badCell : Bool)
    (e : execPathbWordRx w badCell s = .next s') : Holds P s'.chip :=
  onChip_keeps hw (fun c hc => by grind) e

theorem Chip.pathDown_keeps {P : Chip → Prop} (K : Chip.Keeps P) {c : Chip} (h : Holds P c) (b : Bool) :
    Holds P (c.pathDown b) := by
  grind [Chip.pathDown]
grind_pattern Chip.pathDown_keeps => Chip.pathDown c b, Chip.Keeps P

theorem execPathSilence_keeps {P : Chip → Prop} (K : Chip.Keeps P) {s s' : State} (hw : Holds P s.chip) (pathB : Bool)
    (e : execPathSilence pathB s = .next s') : Holds P s'.chip :=
  onChip_keeps hw (fun c hc => by grind) e

theorem execLeaseRenew_keeps {P : Chip → Prop} (K : Chip.Keeps P) {s s' : State} (hw : Holds P s.chip)
    (e : execLeaseRenew s = .next s') : Holds P s'.chip :=
  onChip_keeps hw (fun c hc => by grind) e

theorem execLeaseExpiry_keeps {P : Chip → Prop} (K : Chip.Keeps P) {s s' : State} (hw : Holds P s.chip)
    (e : execLeaseExpiry s = .next s') : Holds P s'.chip :=
  onChip_keeps hw (fun c hc => by grind) e

theorem execBobbinTake_keeps {P : Chip → Prop} (K : Chip.Keeps P) {s s' : State} (hw : Holds P s.chip)
    (e : execBobbinTake s = .next s') : Holds P s'.chip :=
  onChip_keeps hw (fun c hc => by grind) e

theorem execRoleResolveTimeout_keeps {P : Chip → Prop} (K : Chip.Keeps P) {s s' : State} (hw : Holds P s.chip)
    (e : execRoleResolveTimeout s = .next s') : Holds P s'.chip :=
  onChip_keeps hw (fun c hc => by grind) e

theorem execPlyHello_keeps {P : Chip → Prop} (K : Chip.Keeps P) {s s' : State} (hw : Holds P s.chip) (payload : List Byte)
    (e : execPlyHello payload s = .next s') : Holds P s'.chip :=
  onChip_keeps hw (fun c hc => by grind) e

theorem execPlyRelease_keeps {P : Chip → Prop} (K : Chip.Keeps P) {s s' : State} (hw : Holds P s.chip) (rx : Option (BitVec 40))
    (e : execPlyRelease rx s = .next s') : Holds P s'.chip :=
  onChip_keeps hw (fun c hc => by grind) e

theorem execReleaseAckDeadline_keeps {P : Chip → Prop} (K : Chip.Keeps P) {s s' : State} (hw : Holds P s.chip)
    (e : execReleaseAckDeadline s = .next s') : Holds P s'.chip :=
  onChip_keeps hw (fun c hc => by grind) e

theorem execTransferInstant_keeps {P : Chip → Prop} (K : Chip.Keeps P) {s s' : State} (hw : Holds P s.chip) (p : Fin 4)
    (e : execTransferInstant p s = .next s') : Holds P s'.chip :=
  onChip_keeps hw (fun c hc => by grind) e

theorem execPlyTakereq_keeps {P : Chip → Prop} (K : Chip.Keeps P) {s s' : State} (hw : Holds P s.chip) (rx : Bool)
    (e : execPlyTakereq rx s = .next s') : Holds P s'.chip :=
  onChip_keeps hw (fun c hc => by grind) e

theorem execPlyLegs_keeps {P : Chip → Prop} (K : Chip.Keeps P) {s s' : State} (hw : Holds P s.chip) (rx : Option (BitVec 40 × Bool))
    (e : execPlyLegs rx s = .next s') : Holds P s'.chip :=
  onChip_keeps hw (fun c hc => by grind) e

theorem execPlyJoin_keeps {P : Chip → Prop} (K : Chip.Keeps P) {s s' : State} (hw : Holds P s.chip) (rx : Option JoinMsg)
    (e : execPlyJoin rx s = .next s') : Holds P s'.chip :=
  onChip_keeps hw (fun c hc => by grind) e

theorem execPlyAgree_keeps {P : Chip → Prop} (K : Chip.Keeps P) {s s' : State} (hw : Holds P s.chip) (rx :
    Option (List AgreeRec))
    (e : execPlyAgree rx s = .next s') : Holds P s'.chip :=
  onChip_keeps hw (fun c hc => by grind) e

theorem execStateCopyFrame_keeps {P : Chip → Prop} (K : Chip.Keeps P) {s s' : State} (hw : Holds P s.chip) (rx : Option (List Byte
    × Bool))
    (e : execStateCopyFrame rx s = .next s') : Holds P s'.chip :=
  onChip_keeps hw (fun c hc => by grind) e

theorem execStateCopyComplete_keeps {P : Chip → Prop} (K : Chip.Stable P) {s s' : State} (hw : Holds P s.chip) (p : Fin 4) (recs :
    List CopyRec)
    (e : execStateCopyComplete p recs s = .next s') : Holds P s'.chip := by
  have := K.toKeeps
  exact onChip_keeps hw (fun c hc => by grind) e

/-! ### Clocks -/

theorem execRefActivityLoss_keeps {P : Chip → Prop} (K : Chip.Keeps P) {s s' : State} (hw : Holds P s.chip) (k : Fin 28)
    (e : execRefActivityLoss k s = .next s') : Holds P s'.chip :=
  onChip_keeps hw (fun c hc => by grind) e

theorem execRefGlitch_keeps {P : Chip → Prop} (K : Chip.Keeps P) {s s' : State} (hw : Holds P s.chip) (k : Fin 28)
    (e : execRefGlitch k s = .next s') : Holds P s'.chip :=
  onChip_keeps hw (fun c hc => by grind) e

theorem execRefPulse_keeps {P : Chip → Prop} (K : Chip.Keeps P) {s s' : State} (hw : Holds P s.chip) (k : Fin 28) (t : Nat) (freq
    phase : Int)
    (e : execRefPulse k t freq phase s = .next s') : Holds P s'.chip := by
  refine onChip_keeps hw (fun c hc => ?_) e
  dsimp only
  refine Chip.ite_keeps (fun _ => hc) fun _ => ?_
  split
  · exact Chip.setRef_keeps K hc _ _
  · exact Chip.ite_keeps (fun _ => Chip.refLoss_keeps K hc _) fun _ =>
      Chip.ite_keeps (fun _ => Chip.setRef_keeps K (Chip.refLoss_keeps K hc _) _ _) fun _ =>
        Chip.refWindow_keeps K (Chip.set_keeps K (Chip.setRef_keeps K hc _ _) _ _ _) _ _ _ _ _ _

theorem execRefWindowEnd_keeps {P : Chip → Prop} (K : Chip.Keeps P) {s s' : State} (hw : Holds P s.chip) (k : Fin 28) (w : RefWindow)
    (e : execRefWindowEnd k w s = .next s') : Holds P s'.chip :=
  onChip_keeps hw (fun c hc => by grind) e

theorem execWtrExpiry_keeps {P : Chip → Prop} (K : Chip.Keeps P) {s s' : State} (hw : Holds P s.chip) (k : Fin 28)
    (e : execWtrExpiry k s = .next s') : Holds P s'.chip :=
  onChip_keeps hw (fun c hc => by grind) e

theorem execDpllSwitchComplete_keeps {P : Chip → Prop} (K : Chip.Keeps P) {s s' : State} (hw : Holds P s.chip)
    (e : execDpllSwitchComplete s = .next s') : Holds P s'.chip :=
  onChip_keeps hw (fun c hc => by grind) e

theorem execHoldoverSecond_keeps {P : Chip → Prop} (K : Chip.Keeps P) {s s' : State} (hw : Holds P s.chip) (e : execHoldoverSecond
    s = .next s') :
    Holds P s'.chip := by
  refine onChip_keeps hw (fun c hc => ?_) e
  dsimp only
  split
  · exact Chip.ite_keeps (fun _ => Chip.ite_keeps (fun _ => Chip.squelch_keeps K (Chip.set_keeps K
      (Chip.set_keeps K (Chip.bump_keeps K hc _ _ _) _ _ _) _ _ _)) fun _ => Chip.bump_keeps K hc _ _ _) fun _ => hc
  · exact hc

theorem execXtalspecCheck_keeps {P : Chip → Prop} (K : Chip.Keeps P) {s s' : State} (hw : Holds P s.chip)
    (e : execXtalspecCheck s = .next s') : Holds P s'.chip :=
  onChip_keeps hw (fun c hc => by grind) e

theorem execClkCntclr_keeps {P : Chip → Prop} (K : Chip.Keeps P) {s s' : State} (hw : Holds P s.chip) (v : Word)
    (e : execClkCntclr v s = .next s') : Holds P s'.chip :=
  onChip_keeps hw (fun c hc => by grind) e

theorem execPhaseStep_keeps {P : Chip → Prop} (K : Chip.Keeps P) {s s' : State} (hw : Holds P s.chip) (k : Fin 8) (v : Word)
    (e : execPhaseStep k v s = .next s') : Holds P s'.chip :=
  onChip_keeps hw (fun c hc => by grind) e

theorem execPhaseStepApplied_keeps {P : Chip → Prop} (K : Chip.Keeps P) {s s' : State} (hw : Holds P s.chip) (k : Fin 8)
    (e : execPhaseStepApplied k s = .next s') : Holds P s'.chip :=
  onChip_keeps hw (fun c hc => by grind) e

theorem execClockSwitchComplete_keeps {P : Chip → Prop} (K : Chip.Keeps P) {s s' : State} (hw : Holds P s.chip) (pt : Fin 10)
    (e : execClockSwitchComplete pt s = .next s') : Holds P s'.chip :=
  onChip_keeps hw (fun c hc => by grind) e

theorem execClockSwitchWatchdog_keeps {P : Chip → Prop} (K : Chip.Keeps P) {s s' : State} (hw : Holds P s.chip) (pt : Fin 10)
    (e : execClockSwitchWatchdog pt s = .next s') : Holds P s'.chip :=
  onChip_keeps hw (fun c hc => by grind) e

theorem execCrystalMonitorWindow_keeps {P : Chip → Prop} (K : Chip.Keeps P) {s s' : State} (hw : Holds P s.chip) (edges : Nat)
    (e : execCrystalMonitorWindow edges s = .next s') : Holds P s'.chip :=
  onChip_keeps hw (fun c hc => by grind) e

theorem execRootPllLoss_keeps {P : Chip → Prop} (K : Chip.Keeps P) {s s' : State} (hw : Holds P s.chip)
    (e : execRootPllLoss s = .next s') : Holds P s'.chip :=
  onChip_keeps hw (fun c hc => by grind) e

theorem execDomainMisalign_keeps {P : Chip → Prop} (K : Chip.Keeps P) {s s' : State} (hw : Holds P s.chip)
    (e : execDomainMisalign s = .next s') : Holds P s'.chip :=
  onChip_keeps hw (fun c hc => by grind) e

end Sys2Proof.Machine
end

