-- ==== Sys2Proof/Laws/CommandsC.lean ====
section
/-! SUPPORT. What every command keeps: start-up, commands, the collector, security, power, slots, registers and the Turn. -/

namespace Sys2Proof.Machine

set_option Elab.async false

/-! ### Collector -/

theorem execFirstrecClear_keeps {P : Chip → Prop} (K : Chip.Keeps P) {s s' : State} (hw : Holds P s.chip)
    (e : execFirstrecClear s = .next s') : Holds P s'.chip :=
  onChip_keeps hw (fun c hc => by grind) e

theorem execSafCntclr_keeps {P : Chip → Prop} (K : Chip.Keeps P) {s s' : State} (hw : Holds P s.chip) (v : Word)
    (e : execSafCntclr v s = .next s') : Holds P s'.chip :=
  onChip_keeps hw (fun c hc => by grind) e

theorem execSaferel_keeps {P : Chip → Prop} (K : Chip.Keeps P) {s s' : State} (hw : Holds P s.chip)
    (e : execSaferel s = .next s') : Holds P s'.chip :=
  onChip_keeps hw (fun c hc => by grind) e

theorem execFaultack_keeps {P : Chip → Prop} (K : Chip.Keeps P) {s s' : State} (hw : Holds P s.chip)
    (e : execFaultack s = .next s') : Holds P s'.chip :=
  onChip_keeps hw (fun c hc => by grind) e

theorem execSelftestPatternsEnd_keeps {P : Chip → Prop} (K : Chip.Keeps P) {s s' : State} (hw : Holds P s.chip) (fail : Bool)
    (e : execSelftestPatternsEnd fail s = .next s') : Holds P s'.chip :=
  onChip_keeps hw (fun c hc => by grind) e

theorem execTransientAgeOut_keeps {P : Chip → Prop} (K : Chip.Keeps P) {s s' : State} (hw : Holds P s.chip) (col : Fin 16)
    (e : execTransientAgeOut col s = .next s') : Holds P s'.chip :=
  onChip_keeps hw (fun c hc => by grind) e

theorem execFaultCollect_keeps {P : Chip → Prop} (K : Chip.Keeps P) {s s' : State} (hw : Holds P s.chip)
    (e : execFaultCollect s = .next s') : Holds P s'.chip :=
  onChip_keeps hw (fun c hc => by grind) e

theorem execOverlapEnd_keeps {P : Chip → Prop} (K : Chip.Keeps P) {s s' : State} (hw : Holds P s.chip) (pc : Fin 16)
    (e : execOverlapEnd pc s = .next s') : Holds P s'.chip :=
  onChip_keeps hw (fun c hc => by grind) e

theorem execProofTestVisit_keeps {P : Chip → Prop} (K : Chip.Keeps P) {s s' : State} (hw : Holds P s.chip)
    (e : execProofTestVisit s = .next s') : Holds P s'.chip :=
  onChip_keeps hw (fun c hc => by grind) e

theorem execPtageMinute_keeps {P : Chip → Prop} (K : Chip.Keeps P) {s s' : State} (hw : Holds P s.chip)
    (e : execPtageMinute s = .next s') : Holds P s'.chip :=
  onChip_keeps hw (fun c hc => by grind) e

/-! ### Variant -/

theorem execVariantStagingDone_keeps {P : Chip → Prop} (K : Chip.Keeps P) {s s' : State} (hw : Holds P s.chip) (p : Fin 4)
    (e : execVariantStagingDone p s = .next s') : Holds P s'.chip :=
  onChip_keeps hw (fun c hc => by grind) e

/-! ### Security -/

theorem execKeyStoreCheck_keeps {P : Chip → Prop} (K : Chip.Keeps P) {s s' : State} (hw : Holds P s.chip) (bad : List (Fin 256))
    (e : execKeyStoreCheck bad s = .next s') : Holds P s'.chip :=
  onChip_keeps hw (fun c hc => by grind) e

theorem execNonceRead_keeps {P : Chip → Prop} (K : Chip.Keeps P) {s s' : State} (hw : Holds P s.chip)
    (e : execNonceRead s = .next s') : Holds P s'.chip :=
  onChip_keeps hw (fun c hc => by grind) e

theorem execSessionExpiry_keeps {P : Chip → Prop} (K : Chip.Keeps P) {s s' : State} (hw : Holds P s.chip)
    (e : execSessionExpiry s = .next s') : Holds P s'.chip :=
  onChip_keeps hw (fun c hc => by grind) e

theorem execDebugRelease_keeps {P : Chip → Prop} (K : Chip.Keeps P) {s s' : State} (hw : Holds P s.chip)
    (e : execDebugRelease s = .next s') : Holds P s'.chip :=
  onChip_keeps hw (fun c hc => by grind) e

theorem execLockoutExpiry_keeps {P : Chip → Prop} (K : Chip.Keeps P) {s s' : State} (hw : Holds P s.chip)
    (e : execLockoutExpiry s = .next s') : Holds P s'.chip :=
  onChip_keeps hw (fun c hc => by grind) e

theorem execDebugToken_keeps {P : Chip → Prop} (K : Chip.Keeps P) {s s' : State} (hw : Holds P s.chip) (t : List Byte)
    (e : execDebugToken t s = .next s') : Holds P s'.chip :=
  onChip_keeps hw (fun c hc => by grind) e

theorem execJtagIdcode_keeps {P : Chip → Prop} (K : Chip.Keeps P) {s s' : State} (hw : Holds P s.chip)
    (e : execJtagIdcode s = .next s') : Holds P s'.chip :=
  onChip_keeps hw (fun c hc => by grind) e

theorem execJtagBypass_keeps {P : Chip → Prop} (K : Chip.Keeps P) {s s' : State} (hw : Holds P s.chip)
    (e : execJtagBypass s = .next s') : Holds P s'.chip :=
  onChip_keeps hw (fun c hc => by grind) e

theorem execSamplePreload_keeps {P : Chip → Prop} (K : Chip.Keeps P) {s s' : State} (hw : Holds P s.chip) (pins cells : List Bool)
    (e : execSamplePreload pins cells s = .next s') : Holds P s'.chip :=
  onChip_keeps hw (fun c hc => by grind) e

theorem execExtest_keeps {P : Chip → Prop} (K : Chip.Keeps P) {s s' : State} (hw : Holds P s.chip) (pins cells : List Bool)
    (e : execExtest pins cells s = .next s') : Holds P s'.chip :=
  onChip_keeps hw (fun c hc => by grind) e

theorem execClamp_keeps {P : Chip → Prop} (K : Chip.Keeps P) {s s' : State} (hw : Holds P s.chip)
    (e : execClamp s = .next s') : Holds P s'.chip :=
  onChip_keeps hw (fun c hc => by grind) e

theorem execHighz_keeps {P : Chip → Prop} (K : Chip.Keeps P) {s s' : State} (hw : Holds P s.chip)
    (e : execHighz s = .next s') : Holds P s'.chip :=
  onChip_keeps hw (fun c hc => by grind) e

theorem execIntest_keeps {P : Chip → Prop} (K : Chip.Keeps P) {s s' : State} (hw : Holds P s.chip) (cells outs : List Bool)
    (e : execIntest cells outs s = .next s') : Holds P s'.chip :=
  onChip_keeps hw (fun c hc => by grind) e

theorem execScanDump_keeps {P : Chip → Prop} (K : Chip.Keeps P) {s s' : State} (hw : Holds P s.chip) (chain : List Bool)
    (e : execScanDump chain s = .next s') : Holds P s'.chip :=
  onChip_keeps hw (fun c hc => by grind) e

theorem execMemoryBistControl_keeps {P : Chip → Prop} (K : Chip.Keeps P) {s s' : State} (hw : Holds P s.chip) (control result :
    List Bool)
    (e : execMemoryBistControl control result s = .next s') : Holds P s'.chip :=
  onChip_keeps hw (fun c hc => by grind) e

theorem execDebugHalt_keeps {P : Chip → Prop} (K : Chip.Keeps P) {s s' : State} (hw : Holds P s.chip) (u : DbgUnit)
    (e : execDebugHalt u s = .next s') : Holds P s'.chip :=
  onChip_keeps hw (fun c hc => by grind) e

theorem execDebugStep_keeps {P : Chip → Prop} (_K : Chip.Keeps P) {s s' : State} (hw : Holds P s.chip) (_u : DbgUnit)
    (e : execDebugStep _u s = .next s') : Holds P s'.chip :=
  onChip_keeps hw (fun c hc => by grind) e

theorem execDebugResume_keeps {P : Chip → Prop} (K : Chip.Keeps P) {s s' : State} (hw : Holds P s.chip) (u : DbgUnit)
    (e : execDebugResume u s = .next s') : Holds P s'.chip :=
  onChip_keeps hw (fun c hc => by grind) e

theorem execDebugGateOpen_keeps {P : Chip → Prop} (K : Chip.Keeps P) {s s' : State} (hw : Holds P s.chip) (g : Fin 64)
    (e : execDebugGateOpen g s = .next s') : Holds P s'.chip :=
  onChip_keeps hw (fun c hc => by grind) e

/-! ### Power -/

theorem execSeamStart_keeps {P : Chip → Prop} (K : Chip.Keeps P) {s s' : State} (hw : Holds P s.chip)
    (e : execSeamStart s = .next s') : Holds P s'.chip :=
  onChip_keeps hw (fun c hc => by grind) e

theorem execSeamEnd_keeps {P : Chip → Prop} (K : Chip.Keeps P) {s s' : State} (hw : Holds P s.chip) (fail : List (Fin 16))
    (e : execSeamEnd fail s = .next s') : Holds P s'.chip :=
  onChip_keeps hw (fun c hc => by grind) e

theorem execSeamTimeout_keeps {P : Chip → Prop} (K : Chip.Keeps P) {s s' : State} (hw : Holds P s.chip)
    (e : execSeamTimeout s = .next s') : Holds P s'.chip :=
  onChip_keeps hw (fun c hc => by grind) e

theorem execPlaneDrained_keeps {P : Chip → Prop} (K : Chip.Stable P) {s s' : State} (hw : Holds P s.chip) (p : Fin 4)
    (e : execPlaneDrained p s = .next s') : Holds P s'.chip := by
  have := K.toKeeps
  exact onChip_keeps hw (fun c hc => by grind) e

theorem execP4OffTimeout_keeps {P : Chip → Prop} (K : Chip.Keeps P) {s s' : State} (hw : Holds P s.chip)
    (e : execP4OffTimeout s = .next s') : Holds P s'.chip :=
  onChip_keeps hw (fun c hc => by grind) e

theorem execTokenVerdict_keeps {P : Chip → Prop} (K : Chip.Stable P) {s s' : State} (hw : Holds P s.chip) (ms : Fin 21)
    (e : execTokenVerdict ms s = .next s') : Holds P s'.chip := by
  have := K.toKeeps
  exact onChip_keeps hw (fun c hc => by grind) e

theorem execDebugGrant_keeps {P : Chip → Prop} (K : Chip.Keeps P) {s s' : State} (hw : Holds P s.chip)
    (e : execDebugGrant s = .next s') : Holds P s'.chip :=
  onChip_keeps hw (fun c hc => by grind) e

theorem execProvision_keeps {P : Chip → Prop} (K : Chip.Stable P) {s s' : State} (hw : Holds P s.chip) (r : List Byte)
    (e : execProvision r s = .next s') : Holds P s'.chip := by
  have := K.toKeeps
  exact onChip_keeps hw (fun c hc => by grind) e

theorem execDeploy_keeps {P : Chip → Prop} (K : Chip.Stable P) {s s' : State} (hw : Holds P s.chip) (r sig : List Byte)
    (e : execDeploy r sig s = .next s') : Holds P s'.chip := by
  have := K.toKeeps
  exact onChip_keeps hw (fun c hc => by grind) e

theorem execRma_keeps {P : Chip → Prop} (K : Chip.Stable P) {s s' : State} (hw : Holds P s.chip) (r sig cust : List Byte)
    (e : execRma r sig cust s = .next s') : Holds P s'.chip := by
  have := K.toKeeps
  exact onChip_keeps hw (fun c hc => by grind) e

/-! ### Commands -/

theorem execHello_keeps {P : Chip → Prop} (K : Chip.Keeps P) {s s' : State} (hw : Holds P s.chip) (m : CmdMsg)
    (e : execHello m s = .next s') : Holds P s'.chip :=
  onChip_keeps hw (fun c hc => by grind) e

theorem execMgmtDatagram_keeps {P : Chip → Prop} (K : Chip.Stable P) {s s' : State} (hw : Holds P s.chip) (d : MgmtDatagram)
    (e : execMgmtDatagram d s = .next s') : Holds P s'.chip := by
  have := K.toKeeps
  exact onChip_keeps hw (fun c hc => by grind) e

theorem execVariant_keeps {P : Chip → Prop} (K : Chip.Stable P) {s s' : State} (hw : Holds P s.chip) (m : CmdMsg) (v : Fin 16)
    (e : execVariant m v s = .next s') : Holds P s'.chip := by
  have := K.toKeeps
  exact onChip_keeps hw (fun c hc => by grind) e

theorem execTrim_keeps {P : Chip → Prop} (K : Chip.Stable P) {s s' : State} (hw : Holds P s.chip) (m : CmdMsg) (t : RateTarget) (kb
    : Nat)
    (e : execTrim m t kb s = .next s') : Holds P s'.chip := by
  have := K.toKeeps
  exact onChip_keeps hw (fun c hc => by grind) e

theorem execMute_keeps {P : Chip → Prop} (K : Chip.Stable P) {s s' : State} (hw : Holds P s.chip) (m : CmdMsg) (t : MuteTarget)
    (e : execMute m t s = .next s') : Holds P s'.chip := by
  have := K.toKeeps
  exact onChip_keeps hw (fun c hc => by grind) e

theorem execUnmute_keeps {P : Chip → Prop} (K : Chip.Stable P) {s s' : State} (hw : Holds P s.chip) (m : CmdMsg) (t : MuteTarget)
    (e : execUnmute m t s = .next s') : Holds P s'.chip := by
  have := K.toKeeps
  exact onChip_keeps hw (fun c hc => by grind) e

theorem execForcesub_keeps {P : Chip → Prop} (K : Chip.Stable P) {s s' : State} (hw : Holds P s.chip) (m : CmdMsg) (t : Member)
    (e : execForcesub m t s = .next s') : Holds P s'.chip := by
  have := K.toKeeps
  exact onChip_keeps hw (fun c hc => by grind) e

theorem execRelease_keeps {P : Chip → Prop} (K : Chip.Stable P) {s s' : State} (hw : Holds P s.chip) (m : CmdMsg) (t : Member)
    (e : execRelease m t s = .next s') : Holds P s'.chip := by
  have := K.toKeeps
  exact onChip_keeps hw (fun c hc => by grind) e

theorem execSplice_keeps {P : Chip → Prop} (K : Chip.Stable P) {s s' : State} (hw : Holds P s.chip) (m : CmdMsg) (x : SpliceArg)
    (e : execSplice m x s = .next s') : Holds P s'.chip := by
  have := K.toKeeps
  exact onChip_keeps hw (fun c hc => by grind) e

theorem execKeyload_keeps {P : Chip → Prop} (K : Chip.Stable P) {s s' : State} (hw : Holds P s.chip) (m : CmdMsg) (v : List Byte)
    (e : execKeyload m v s = .next s') : Holds P s'.chip := by
  have := K.toKeeps
  exact onChip_keeps hw (fun c hc => by grind) e

theorem execKeyclear_keeps {P : Chip → Prop} (K : Chip.Stable P) {s s' : State} (hw : Holds P s.chip) (m : CmdMsg) (slot : Fin 256)
    (e : execKeyclear m slot s = .next s') : Holds P s'.chip := by
  have := K.toKeeps
  exact onChip_keeps hw (fun c hc => by grind) e

theorem execSelftest_keeps {P : Chip → Prop} (K : Chip.Stable P) {s s' : State} (hw : Holds P s.chip) (m : CmdMsg) (pc : Nat)
    (e : execSelftest m pc s = .next s') : Holds P s'.chip := by
  have := K.toKeeps
  exact onChip_keeps hw (fun c hc => by grind) e

theorem execPlySwitch_keeps {P : Chip → Prop} (K : Chip.Stable P) {s s' : State} (hw : Holds P s.chip) (m : CmdMsg)
    (e : execPlySwitch m s = .next s') : Holds P s'.chip := by
  have := K.toKeeps
  exact onChip_keeps hw (fun c hc => by grind) e

theorem execPlyHold_keeps {P : Chip → Prop} (K : Chip.Stable P) {s s' : State} (hw : Holds P s.chip) (m : CmdMsg)
    (e : execPlyHold m s = .next s') : Holds P s'.chip := by
  have := K.toKeeps
  exact onChip_keeps hw (fun c hc => by grind) e

theorem execPlyUnhold_keeps {P : Chip → Prop} (K : Chip.Stable P) {s s' : State} (hw : Holds P s.chip) (m : CmdMsg)
    (e : execPlyUnhold m s = .next s') : Holds P s'.chip := by
  have := K.toKeeps
  exact onChip_keeps hw (fun c hc => by grind) e

theorem execPlyFence_keeps {P : Chip → Prop} (K : Chip.Stable P) {s s' : State} (hw : Holds P s.chip) (m : CmdMsg)
    (e : execPlyFence m s = .next s') : Holds P s'.chip := by
  have := K.toKeeps
  exact onChip_keeps hw (fun c hc => by grind) e

theorem execPlyRejoin_keeps {P : Chip → Prop} (K : Chip.Stable P) {s s' : State} (hw : Holds P s.chip) (m : CmdMsg)
    (e : execPlyRejoin m s = .next s') : Holds P s'.chip := by
  have := K.toKeeps
  exact onChip_keeps hw (fun c hc => by grind) e

theorem execPlyAlone_keeps {P : Chip → Prop} (K : Chip.Stable P) {s s' : State} (hw : Holds P s.chip) (m : CmdMsg)
    (e : execPlyAlone m s = .next s') : Holds P s'.chip := by
  have := K.toKeeps
  exact onChip_keeps hw (fun c hc => by grind) e

theorem execPower_keeps {P : Chip → Prop} (K : Chip.Stable P) {s s' : State} (hw : Holds P s.chip) (m : CmdMsg) (target : Nat)
    (e : execPower m target s = .next s') : Holds P s'.chip := by
  have := K.toKeeps
  exact onChip_keeps hw (fun c hc => by grind) e

theorem execInstallBegin_keeps {P : Chip → Prop} (K : Chip.Stable P) {s s' : State} (hw : Holds P s.chip) (m : CmdMsg) (golden :
    Bool) (len : Nat)
    (e : execInstallBegin m golden len s = .next s') : Holds P s'.chip := by
  have := K.toKeeps
  exact onChip_keeps hw (fun c hc => by grind) e

theorem execInstallData_keeps {P : Chip → Prop} (K : Chip.Stable P) {s s' : State} (hw : Holds P s.chip) (m : CmdMsg) (off : Nat)
    (bytes : List Byte)
    (e : execInstallData m off bytes s = .next s') : Holds P s'.chip := by
  have := K.toKeeps
  exact onChip_keeps hw (fun c hc => by grind) e

theorem execInstallCommit_keeps {P : Chip → Prop} (K : Chip.Stable P) {s s' : State} (hw : Holds P s.chip) (m : CmdMsg) (v :
    InstallBack)
    (e : execInstallCommit m v s = .next s') : Holds P s'.chip := by
  have := K.toKeeps
  exact onChip_keeps hw (fun c hc => by grind) e

theorem execInstallAbort_keeps {P : Chip → Prop} (K : Chip.Stable P) {s s' : State} (hw : Holds P s.chip) (m : CmdMsg)
    (e : execInstallAbort m s = .next s') : Holds P s'.chip := by
  have := K.toKeeps
  exact onChip_keeps hw (fun c hc => by grind) e

theorem execLogread_keeps {P : Chip → Prop} (K : Chip.Stable P) {s s' : State} (hw : Holds P s.chip) (m : CmdMsg) (addr first count
    : Nat)
    (e : execLogread m addr first count s = .next s') : Holds P s'.chip := by
  have := K.toKeeps
  exact onChip_keeps hw (fun c hc => by grind) e

theorem execUnknownCommand_keeps {P : Chip → Prop} (K : Chip.Stable P) {s s' : State} (hw : Holds P s.chip) (m : CmdMsg)
    (e : execUnknownCommand m s = .next s') : Holds P s'.chip := by
  have := K.toKeeps
  exact onChip_keeps hw (fun c hc => by grind) e

theorem execPlyForward_keeps {P : Chip → Prop} (K : Chip.Stable P) {s s' : State} (hw : Holds P s.chip) (rx : Option (CmdMsg × CmdArg))
    (e : execPlyForward rx s = .next s') : Holds P s'.chip := by
  have := K.toKeeps
  exact onChip_keeps hw (fun c hc => by grind) e

/-! ### Boot -/

theorem execPowerOnReset_keeps {P : Chip → Prop} (K : Chip.Stable P) {s s' : State} (hw : Holds P s.chip)
    (e : execPowerOnReset s = .next s') : Holds P s'.chip := by
  have := K.toKeeps
  exact onChip_keeps hw (fun c hc => by grind) e

theorem execWarmReset_keeps {P : Chip → Prop} (K : Chip.Stable P) {s s' : State} (hw : Holds P s.chip)
    (e : execWarmReset s = .next s') : Holds P s'.chip := by
  have := K.toKeeps
  exact onChip_keeps hw (fun c hc => by grind) e

theorem execResetctlWarm_keeps {P : Chip → Prop} (K : Chip.Keeps P) {s s' : State} (hw : Holds P s.chip) (v : Word)
    (e : execResetctlWarm v s = .next s') : Holds P s'.chip :=
  onChip_keeps hw (fun c hc => by grind) e

theorem execReelFlushDone_keeps {P : Chip → Prop} (K : Chip.Stable P) {s s' : State} (hw : Holds P s.chip)
    (e : execReelFlushDone s = .next s') : Holds P s'.chip := by
  have := K.toKeeps
  exact onChip_keeps hw (fun c hc => by grind) e

theorem execServiceWatchdog_keeps {P : Chip → Prop} (K : Chip.Keeps P) {s s' : State} (hw : Holds P s.chip) (e :
    execServiceWatchdog s = .next s') :
    Holds P s'.chip :=
  onChip_keeps hw (fun _ hc => Chip.ite_keeps
    (fun _ => Chip.upd_keeps K (Chip.flushReel_keeps K hc 9) rfl rfl rfl) fun _ => hc) e

theorem execCrystalWindow_keeps {P : Chip → Prop} (K : Chip.Keeps P) {s s' : State} (hw : Holds P s.chip) (edges : Nat)
    (e : execCrystalWindow edges s = .next s') : Holds P s'.chip :=
  onChip_keeps hw (fun c hc => by grind) e

theorem execCrystalQualTimeout_keeps {P : Chip → Prop} (K : Chip.Keeps P) {s s' : State} (hw : Holds P s.chip)
    (e : execCrystalQualTimeout s = .next s') : Holds P s'.chip :=
  onChip_keeps hw (fun c hc => by grind) e

theorem execRootPllLock_keeps {P : Chip → Prop} (K : Chip.Keeps P) {s s' : State} (hw : Holds P s.chip)
    (e : execRootPllLock s = .next s') : Holds P s'.chip :=
  onChip_keeps hw (fun c hc => by grind) e

theorem execImageHeaderRead_keeps {P : Chip → Prop} (K : Chip.Keeps P) {s s' : State} (hw : Holds P s.chip) (b : List Byte)
    (e : execImageHeaderRead b s = .next s') : Holds P s'.chip :=
  onChip_keeps hw (fun c hc => by grind) e

theorem execSectionStreamed_keeps {P : Chip → Prop} (K : Chip.Keeps P) {s s' : State} (hw : Holds P s.chip) (x : SectionIn)
    (e : execSectionStreamed x s = .next s') : Holds P s'.chip :=
  onChip_keeps hw (fun c hc => by grind) e

theorem execDebugBoot_keeps {P : Chip → Prop} (K : Chip.Keeps P) {s s' : State} (hw : Holds P s.chip)
    (e : execDebugBoot s = .next s') : Holds P s'.chip :=
  onChip_keeps hw (fun c hc => by grind) e

theorem execDramTrainingDone_keeps {P : Chip → Prop} (K : Chip.Keeps P) {s s' : State} (hw : Holds P s.chip) (ok : Bool)
    (e : execDramTrainingDone ok s = .next s') : Holds P s'.chip :=
  onChip_keeps hw (fun c hc => by grind) e

theorem execPostDone_keeps {P : Chip → Prop} (K : Chip.Keeps P) {s s' : State} (hw : Holds P s.chip) (pass : BitVec 16)
    (e : execPostDone pass s = .next s') : Holds P s'.chip :=
  onChip_keeps hw (fun c hc => by grind) e

theorem execNandPageReadDone_keeps {P : Chip → Prop} (K : Chip.Keeps P) {s s' : State} (hw : Holds P s.chip) (r : NandRead)
    (e : execNandPageReadDone r s = .next s') : Holds P s'.chip :=
  onChip_keeps hw (fun c hc => by grind) e

theorem execPlaneStart_keeps {P : Chip → Prop} (K : Chip.Stable P) {s s' : State} (hw : Holds P s.chip) (p : Fin 4)
    (e : execPlaneStart p s = .next s') : Holds P s'.chip := by
  have := K.toKeeps
  exact onChip_keeps hw (fun c hc => by grind) e

theorem execBootLateTimer_keeps {P : Chip → Prop} (K : Chip.Keeps P) {s s' : State} (hw : Holds P s.chip)
    (e : execBootLateTimer s = .next s') : Holds P s'.chip :=
  onChip_keeps hw (fun c hc => by grind) e

theorem execSlotProven_keeps {P : Chip → Prop} (K : Chip.Keeps P) {s s' : State} (hw : Holds P s.chip) (golden : List (List Byte))
    (e : execSlotProven golden s = .next s') : Holds P s'.chip :=
  onChip_keeps hw (fun c hc => by grind) e

theorem execWakePin_keeps {P : Chip → Prop} (K : Chip.Stable P) {s s' : State} (hw : Holds P s.chip) (n : Fin 8)
    (e : execWakePin n s = .next s') : Holds P s'.chip := by
  have := K.toKeeps
  exact onChip_keeps hw (fun c hc => by grind) e

theorem execWakeTimer_keeps {P : Chip → Prop} (K : Chip.Stable P) {s s' : State} (hw : Holds P s.chip)
    (e : execWakeTimer s = .next s') : Holds P s'.chip := by
  have := K.toKeeps
  exact onChip_keeps hw (fun c hc => by grind) e

/-! ### Slots -/

theorem execRun_keeps {P : Chip → Prop} (K : Chip.Keeps P) {s s' : State} (hw : Holds P s.chip) (st : Fin 64) (work : RunWork) (e :
    execRun st work s = .next s') :
    Holds P s'.chip := by
  exact onChip_keeps hw (fun c hc => Chip.slotWord_keeps K hc _ _ _ fun c i w hc =>
    Chip.ite_keeps (fun _ => Chip.advance_keeps K hc _) fun _ =>
    Chip.ite_keeps (fun _ => Chip.malformed_keeps K hc _ _ _) fun _ => Chip.advance_keeps K (Chip.issueRun_keeps K hc _ _ _ _) _) e

theorem execNop_keeps {P : Chip → Prop} (K : Chip.Keeps P) {s s' : State} (hw : Holds P s.chip) (st : Fin 64)
    (e : execNop st s = .next s') : Holds P s'.chip :=
  onChip_keeps hw (fun c hc => by grind) e

theorem execAwait_keeps {P : Chip → Prop} (K : Chip.Keeps P) {s s' : State} (hw : Holds P s.chip) (st : Fin 64)
    (e : execAwait st s = .next s') : Holds P s'.chip :=
  onChip_keeps hw (fun c hc => by grind) e

theorem execMark_keeps {P : Chip → Prop} (K : Chip.Keeps P) {s s' : State} (hw : Holds P s.chip) (st : Fin 64)
    (e : execMark st s = .next s') : Holds P s'.chip :=
  onChip_keeps hw (fun c hc => by grind) e

theorem execTest_keeps {P : Chip → Prop} (K : Chip.Keeps P) {s s' : State} (hw : Holds P s.chip) (st : Fin 64)
    (e : execTest st s = .next s') : Holds P s'.chip :=
  onChip_keeps hw (fun c hc => by grind) e

theorem execTurn_keeps {P : Chip → Prop} (K : Chip.Keeps P) {s s' : State} (hw : Holds P s.chip) (st : Fin 64)
    (e : execTurn st s = .next s') : Holds P s'.chip :=
  onChip_keeps hw (fun c hc => by grind) e

theorem execBodyEndShort_keeps {P : Chip → Prop} (K : Chip.Keeps P) {s s' : State} (hw : Holds P s.chip) (st : Fin 64)
    (e : execBodyEndShort st s = .next s') : Holds P s'.chip :=
  onChip_keeps hw (fun c hc => by grind) e

theorem execTestStepEnd_keeps {P : Chip → Prop} (K : Chip.Keeps P) {s s' : State} (hw : Holds P s.chip) (cls : Fin 13) (idx : Nat)
    (e : execTestStepEnd cls idx s = .next s') : Holds P s'.chip :=
  onChip_keeps hw (fun c hc => by grind) e

theorem execMove_keeps {P : Chip → Prop} (K : Chip.Keeps P) {s s' : State} (hw : Holds P s.chip) (st : Fin 64) (breaks : Bool)
    (errs : List LineErr)
    (e : execMove st breaks errs s = .next s') : Holds P s'.chip := by
  unfold execMove at e
  split at e
  · cases e
  · exact onChip_keeps hw (fun c hc => Chip.slotWord_keeps K hc _ _ _ fun c i w hc =>
      Chip.ite_keeps (fun _ => Chip.advance_keeps K hc _)
        fun _ => Chip.advance_keeps K (Chip.issueMove_keeps K hc _ _ _ _ _ _) _) e

theorem execMoveComplete_keeps {P : Chip → Prop} (K : Chip.Stable P) {s s' : State} (hw : Holds P s.chip) (st : Fin 64) (failed :
    List Nat)
    (e : execMoveComplete st failed s = .next s') : Holds P s'.chip := by
  have := K.toKeeps
  exact onChip_keeps hw (fun c hc => by grind) e

theorem execCvuSeed_keeps {P : Chip → Prop} (K : Chip.Keeps P) {s s' : State} (hw : Holds P s.chip) (ctx : Fin 2048)
    (e : execCvuSeed ctx s = .next s') : Holds P s'.chip :=
  onChip_keeps hw (fun c hc => by grind) e

theorem execCvuSave_keeps {P : Chip → Prop} (K : Chip.Stable P) {s s' : State} (hw : Holds P s.chip) (ctx : Fin 2048)
    (e : execCvuSave ctx s = .next s') : Holds P s'.chip := by
  have := K.toKeeps
  exact onChip_keeps hw (fun c hc => by grind) e

theorem execCvuRestore_keeps {P : Chip → Prop} (K : Chip.Keeps P) {s s' : State} (hw : Holds P s.chip) (ctx : Fin 2048)
    (e : execCvuRestore ctx s = .next s') : Holds P s'.chip :=
  onChip_keeps hw (fun c hc => by grind) e

/-! ### RegAccess -/

theorem execRegisterAccessAbort_keeps {P : Chip → Prop} (K : Chip.Keeps P) {s s' : State} (hw : Holds P s.chip) (a : Access)
    (e : execRegisterAccessAbort a s = .next s') : Holds P s'.chip :=
  onChip_keeps hw (fun c hc => by grind) e

theorem execLowWordRead_keeps {P : Chip → Prop} (K : Chip.Keeps P) {s s' : State} (hw : Holds P s.chip) (who : Requester) (addr : Nat)
    (e : execLowWordRead who addr s = .next s') : Holds P s'.chip :=
  onChip_keeps hw (fun c hc => by grind) e

/-! ### Supply -/

theorem execSupplyWarning_keeps {P : Chip → Prop} (K : Chip.Keeps P) {s s' : State} (hw : Holds P s.chip) (rail : Fin 8)
    (e : execSupplyWarning rail s = .next s') : Holds P s'.chip :=
  onChip_keeps hw (fun c hc => by grind) e

theorem execSupplyWarningEnd_keeps {P : Chip → Prop} (K : Chip.Keeps P) {s s' : State} (hw : Holds P s.chip) (rail : Fin 8)
    (e : execSupplyWarningEnd rail s = .next s') : Holds P s'.chip :=
  onChip_keeps hw (fun c hc => by grind) e

theorem execSupplyTrip_keeps {P : Chip → Prop} (K : Chip.Stable P) {s s' : State} (hw : Holds P s.chip) (rail : Fin 8)
    (e : execSupplyTrip rail s = .next s') : Holds P s'.chip := by
  have := K.toKeeps
  exact onChip_keeps hw (fun c hc => by grind) e

theorem execSupplyLoss_keeps {P : Chip → Prop} (K : Chip.Stable P) {s s' : State} (hw : Holds P s.chip)
    (e : execSupplyLoss s = .next s') : Holds P s'.chip := by
  have := K.toKeeps
  exact onChip_keeps hw (fun c hc => by grind) e

theorem execThermalWarning_keeps {P : Chip → Prop} (K : Chip.Keeps P) {s s' : State} (hw : Holds P s.chip) (sensor : Fin 8) (t :
    BitVec 12)
    (e : execThermalWarning sensor t s = .next s') : Holds P s'.chip :=
  onChip_keeps hw (fun c hc => by grind) e

theorem execThermalShutdown_keeps {P : Chip → Prop} (K : Chip.Stable P) {s s' : State} (hw : Holds P s.chip) (sensor : Fin 8) (t :
    BitVec 12)
    (e : execThermalShutdown sensor t s = .next s') : Holds P s'.chip := by
  have := K.toKeeps
  exact onChip_keeps hw (fun c hc => by grind) e

theorem execThermalShutdownRelease_keeps {P : Chip → Prop} (K : Chip.Stable P) {s s' : State} (hw : Holds P s.chip) (sensor : Fin
    8) (t : BitVec 12)
    (e : execThermalShutdownRelease sensor t s = .next s') : Holds P s'.chip := by
  have := K.toKeeps
  exact onChip_keeps hw (fun c hc => by grind) e

/-! ### Turn -/

theorem execTwistStart_keeps {P : Chip → Prop} (K : Chip.Stable P) {s s' : State} (hw : Holds P s.chip)
    (e : execTwistStart s = .next s') : Holds P s'.chip := by
  have := K.toKeeps
  exact onChip_keeps hw (fun c hc => by grind) e

theorem execHouseFramePulse_keeps {P : Chip → Prop} (K : Chip.Keeps P) {s s' : State} (hw : Holds P s.chip) (p : Fin 4)
    (e : execHouseFramePulse p s = .next s') : Holds P s'.chip :=
  onChip_keeps hw (fun c hc => by grind) e

theorem execBodyStart_keeps {P : Chip → Prop} (K : Chip.Keeps P) {s s' : State} (hw : Holds P s.chip) (p : Fin 4)
    (e : execBodyStart p s = .next s') : Holds P s'.chip :=
  onChip_keeps hw (fun c hc => by grind) e

theorem execTailStart_keeps {P : Chip → Prop} (K : Chip.Keeps P) {s s' : State} (hw : Holds P s.chip) (p : Fin 4)
    (e : execTailStart p s = .next s') : Holds P s'.chip :=
  onChip_keeps hw (fun c hc => by grind) e

theorem execTurnBoundary_keeps {P : Chip → Prop} (K : Chip.Stable P) {s s' : State} (hw : Holds P s.chip) (p : Fin 4)
    (e : execTurnBoundary p s = .next s') : Holds P s'.chip := by
  have := K.toKeeps
  exact onChip_keeps hw (fun c hc => by grind) e

/-! ### A write of a register -/

theorem Chip.via_keeps {P : Chip → Prop} {c : Chip} (h : Holds P c) (f : State → Host.Outcome State Fault Refusal)
    (hf : ∀ s s' : State, Holds P s.chip → f s = .next s' → Holds P s'.chip) : Holds P (c.via f) := by
  unfold Chip.via
  split
  · exact hf _ _ h (by assumption)
  · exact h

theorem Chip.enqWrite_keeps {P : Chip → Prop} (K : Chip.Keeps P) {c : Chip} (h : Holds P c) (q w : Nat) (v : Word) : Holds P
    (c.enqWrite q w v) := by
  unfold Chip.enqWrite
  dsimp only
  split
  · exact Chip.setQueue_keeps K h _ _
  · exact Chip.setQueue_keeps K h _ _
  · exact Chip.setQueue_keeps K h _ _
  · exact Chip.via_keeps h _ fun _ _ hw e => execEnqueue_keeps K hw _ _ e

theorem Chip.some_keeps {P : Chip → Prop} {c c' : Chip} (h : Holds P c) (e : some c = some c') : Holds P c' := by
  cases e
  exact h

theorem Chip.option_keeps {P : Chip → Prop} {p : Prop} [Decidable p] {a b : Option Chip} {c' : Chip} (ha : a = some c' → Holds P c')
    (hb : b = some c' → Holds P c') (e : (if p then a else b) = some c') : Holds P c' := by
  split at e
  · exact ha e
  · exact hb e

theorem Chip.actionA_keeps {P : Chip → Prop} (K : Chip.Keeps P) {c c' : Chip} (h : Holds P c) (a : Nat) (v : Word) (e : c.actionA a
    v = some c') : Holds P c' := by
  unfold Chip.actionA at e
  revert e
  refine Chip.option_keeps (fun e => Chip.some_keeps (by
    exact Chip.resetctl_keeps K h _) e) ?_
  refine Chip.option_keeps (fun e => Chip.some_keeps (by
    exact Chip.via_keeps h _ fun _ _ hw e => execIngCntclr_keeps K hw _ e) e) ?_
  refine Chip.option_keeps (fun e => Chip.some_keeps (by
    exact Chip.via_keeps h _ fun _ _ hw e => execLaneCntclr_keeps K hw _ _ e) e) ?_
  refine Chip.option_keeps (fun e => Chip.some_keeps (by
    exact Chip.via_keeps h _ fun _ _ hw e => execRateCntclr_keeps K hw _ e) e) ?_
  refine Chip.option_keeps (fun e => Chip.some_keeps (by
    exact Chip.via_keeps h _ fun _ _ hw e => execSpnCntclr_keeps K hw _ e) e) ?_
  refine Chip.option_keeps (fun e => Chip.some_keeps (by
    exact Chip.via_keeps h _ fun _ _ hw e => execDecCntclr_keeps K hw _ e) e) ?_
  refine Chip.option_keeps (fun e => Chip.some_keeps (by
    exact Chip.via_keeps h _ fun _ _ hw e => execAudCntclr_keeps K hw _ e) e) ?_
  refine Chip.option_keeps (fun e => Chip.some_keeps (by
    exact Chip.via_keeps (Chip.via_keeps h _ fun _ _ hw e => execNetCntclrLane_keeps K hw _ e) _ fun _ _ hw e =>
    execNetCntclrFlow_keeps K hw _ e) e) ?_
  refine Chip.option_keeps (fun e => Chip.some_keeps (by
    exact Chip.via_keeps h _ fun _ _ hw e => execTsqPop_keeps K hw _ _ e) e) ?_
  refine Chip.option_keeps (fun e => Chip.some_keeps (by
    exact Chip.via_keeps h _ fun _ _ hw e => execTbLatch_keeps K hw _ _ e) e) ?_
  refine Chip.option_keeps (fun e => Chip.some_keeps (by
    exact Chip.via_keeps h _ fun _ _ hw e => execClkCntclr_keeps K hw _ e) e) ?_
  refine Chip.option_keeps (fun e => Chip.some_keeps (by
    exact Chip.via_keeps h _ fun _ _ hw e => execPhaseStep_keeps K hw _ _ e) e) ?_
  refine Chip.option_keeps (fun e => Chip.some_keeps (by
    exact Chip.via_keeps h _ fun _ _ hw e => execDramCntclr_keeps K hw _ e) e) ?_
  refine Chip.option_keeps (fun e => Chip.some_keeps (by
    exact Chip.via_keeps h _ fun _ _ hw e => execNandCntclr_keeps K hw _ e) e) ?_
  refine Chip.option_keeps (fun e => Chip.some_keeps (by
    exact Chip.via_keeps h _ fun _ _ hw e => execStrCntclr_keeps K hw _ e) e) ?_
  intro e
  cases e

theorem Chip.actionB_keeps {P : Chip → Prop} (K : Chip.Keeps P) {c c' : Chip} (h : Holds P c) (a : Nat) (v : Word) (e : c.actionB a
    v = some c') : Holds P c' := by
  unfold Chip.actionB at e
  revert e
  refine Chip.option_keeps (fun e => Chip.some_keeps (by
    exact Chip.via_keeps (Chip.via_keeps h _ fun _ _ hw e => execSvcCntclrSource_keeps K hw _ e) _ fun _ _ hw e =>
    execSvcCntclrQueue_keeps K hw _ e) e) ?_
  refine Chip.option_keeps (fun e => Chip.some_keeps (by
    exact Chip.via_keeps h _ fun _ _ hw e => execHostack_keeps K hw _ e) e) ?_
  refine Chip.option_keeps (fun e => Chip.some_keeps (by
    exact Chip.via_keeps h _ fun _ _ hw e => execRingEnable_keeps K hw _ e) e) ?_
  refine Chip.option_keeps (fun e => Chip.some_keeps (by
    exact Chip.via_keeps h _ fun _ _ hw e => execSqDoorbell_keeps K hw _ e) e) ?_
  refine Chip.option_keeps (fun e => Chip.some_keeps (by
    exact Chip.via_keeps h _ fun _ _ hw e => execCqHeadWrite_keeps K hw _ e) e) ?_
  refine Chip.option_keeps (fun e => Chip.some_keeps (by
    exact Chip.via_keeps h _ fun _ _ hw e => execIcglobalWrite_keeps K hw _ e) e) ?_
  refine Chip.option_keeps (fun e => Chip.some_keeps (by
    exact Chip.via_keeps h _ fun _ _ hw e => execEvoutWrite_keeps K hw _ _ e) e) ?_
  refine Chip.option_keeps (fun e => Chip.some_keeps (by
    exact Chip.via_keeps h _ fun _ _ hw e => execComplete_keeps K hw _ _ e) e) ?_
  refine Chip.option_keeps (fun e => Chip.some_keeps (by
    exact Chip.via_keeps h _ fun _ _ hw e => execDone_keeps K hw _ _ e) e) ?_
  refine Chip.option_keeps (fun e => Chip.some_keeps (by
    exact Chip.enqWrite_keeps K h _ _ _) e) ?_
  refine Chip.option_keeps (fun e => Chip.some_keeps (by
    exact Chip.via_keeps h _ fun _ _ hw e => execReelRead_keeps K hw _ e) e) ?_
  refine Chip.option_keeps (fun e => Chip.some_keeps (by
    exact Chip.via_keeps h _ fun _ _ hw e => execReelTokenQuery_keeps K hw _ e) e) ?_
  refine Chip.option_keeps (fun e => Chip.some_keeps (by
    exact Chip.set_keeps K h _ _ _) e) ?_
  refine Chip.option_keeps (fun e => Chip.some_keeps (by
    exact Chip.via_keeps h _ fun _ _ hw e => execSafCntclr_keeps K hw _ e) e) ?_
  refine Chip.option_keeps (fun e => Chip.some_keeps (by
    exact Chip.when_keeps (Chip.when_keeps h fun c hc => Chip.saferel_keeps K hc) fun c hc => Chip.faultack_keeps K hc) e) ?_
  refine Chip.option_keeps (fun e => Chip.some_keeps (by
    exact Chip.when_keeps h fun c hc => Chip.firstrecClear_keeps K hc) e) ?_
  refine Chip.option_keeps (fun e => Chip.some_keeps (by
    exact Chip.when_keeps h fun c hc => Chip.endSession_keeps K hc) e) ?_
  intro e
  cases e

theorem Chip.writeReg_keeps {P : Chip → Prop} (K : Chip.Keeps P) {c : Chip} (h : Holds P c) (who : Requester) (a : Nat) (v : Word)
    : Holds P (c.writeReg who a v) := by
  unfold Chip.writeReg
  refine Chip.ite_keeps (fun _ => h) fun _ => Chip.ite_keeps (fun _ => h) fun _ => ?_
  split
  · exact Chip.actionA_keeps K h a v (by assumption)
  · split
    · exact Chip.actionB_keeps K h a v (by assumption)
    · split
      · exact h
      · exact Chip.svcWritten_keeps K (Chip.validCleared_keeps K (Chip.wr_keeps K h _ _) _) _ _

theorem Chip.writeAccess_keeps {P : Chip → Prop} (K : Chip.Keeps P) {c : Chip} (h : Holds P c) (x : Access) :
    Holds P (c.writeAccess x) := by
  unfold Chip.writeAccess
  split
  · exact h
  · exact Chip.writeReg_keeps K h _ _ _
grind_pattern Chip.writeAccess_keeps => (c.writeAccess x), Chip.Keeps P

theorem execRegisterWrite_keeps {P : Chip → Prop} (K : Chip.Keeps P) {s s' : State} (hw : Holds P s.chip) (ws : List Access) (e :
    execRegisterWrite ws s = .next s') :
    Holds P s'.chip := by
  exact onChip_keeps hw (fun c hc => Chip.each_keeps _ _ (Chip.each_keeps _ _ hc fun c x hc => Chip.writeAccess_keeps K hc x)
    fun c x hc => Chip.logAbort_keeps K hc x.1 x.2) e

end Sys2Proof.Machine
end

