-- ==== Sys2Proof/Laws/Regs.lean ====
section
/-! SUPPORT. Register fields: reading back what was written, and that a write to one field leaves the others and everything
that is no register as they were. -/

namespace Sys2Proof.Machine

set_option Elab.async false

/-! ### Fields of a word -/

theorem Fld.mask_getLsbD (f : Fld) (h : f.hi < 32) (hl : f.lo ≤ f.hi) (i : Nat) :
    f.mask.getLsbD i = (decide (f.lo ≤ i) && decide (i ≤ f.hi)) := by
  unfold Fld.mask Fld.width
  simp only [BitVec.getLsbD_shiftLeft, BitVec.getLsbD_ofNat, Nat.testBit_two_pow_sub_one]
  grind

theorem Fld.write_getLsbD (f : Fld) (w : Word) (v i : Nat) (h : f.hi < 32) (hl : f.lo ≤ f.hi) :
    (f.write w v).getLsbD i = if f.lo ≤ i ∧ i ≤ f.hi then v.testBit (i - f.lo) else w.getLsbD i := by
  unfold Fld.write
  simp only [BitVec.getLsbD_or, BitVec.getLsbD_and, BitVec.getLsbD_not, Fld.mask_getLsbD f h hl, BitVec.getLsbD_shiftLeft,
    BitVec.getLsbD_ofNat, Nat.testBit_mod_two_pow, Fld.width]
  by_cases hi : i < 32
  · by_cases h1 : f.lo ≤ i <;> by_cases h2 : i ≤ f.hi <;> grind
  · have : w.getLsbD i = false := BitVec.getLsbD_of_ge _ _ (by omega)
    simp [hi, this]
    omega

theorem Fld.read_testBit (f : Fld) (w : Word) (i : Nat) :
    (f.read w).testBit i = (decide (i < f.width) && w.getLsbD (f.lo + i)) := by
  unfold Fld.read
  rw [Nat.testBit_mod_two_pow, BitVec.testBit_toNat, BitVec.getLsbD_ushiftRight]

/-- A field written reads back, cut to its width. -/
theorem Fld.read_write (f : Fld) (w : Word) (v : Nat) (h : f.hi < 32) (hl : f.lo ≤ f.hi) :
    f.read (f.write w v) = v % 2 ^ f.width := by
  apply Nat.eq_of_testBit_eq
  intro i
  rw [Fld.read_testBit, Fld.write_getLsbD f w v _ h hl, Nat.testBit_mod_two_pow]
  unfold Fld.width
  by_cases hi : i < f.hi + 1 - f.lo
  · simp [hi, show f.lo ≤ f.lo + i by omega, show f.lo + i ≤ f.hi by omega]
  · simp [hi]

/-- A write to one field leaves a field that shares no bit with it. -/
theorem Fld.read_write_ne (f g : Fld) (w : Word) (v : Nat) (h : f.hi < 32) (hl : f.lo ≤ f.hi) (hd : f.hi < g.lo ∨ g.hi < f.lo) :
    g.read (f.write w v) = g.read w := by
  apply Nat.eq_of_testBit_eq
  intro i
  rw [Fld.read_testBit, Fld.read_testBit, Fld.write_getLsbD f w v _ h hl]
  unfold Fld.width
  by_cases hi : i < g.hi + 1 - g.lo
  · rw [if_neg (by omega)]
  · simp [hi]

/-- A field's value is below 2 to its width. -/
theorem Fld.read_lt (f : Fld) (w : Word) : f.read w < 2 ^ f.width := Nat.mod_lt _ (Nat.two_pow_pos _)

/-! ### Registers of the device -/

theorem Chip.wr_canonical {c : Chip} (h : c.Canonical) (a : Nat) (w : Word) : (c.wr a w).Canonical :=
  ⟨tabWf_tabSet _ _ _ _ h.1, h.2⟩

theorem Chip.set_canonical {c : Chip} (h : c.Canonical) (f : Fld) (i v : Nat) : (c.set f i v).Canonical := Chip.wr_canonical h _ _

grind_pattern Chip.set_canonical => (c.set f i v).Canonical

theorem Chip.rd_wr {c : Chip} (h : c.Canonical) (a : Nat) (w : Word) (b : Nat) :
    (c.wr a w).rd b = if b = a then w else c.rd b := tabGet_tabSet _ _ _ _ _ h.1

theorem Chip.rd_set {c : Chip} (h : c.Canonical) (f : Fld) (i v b : Nat) :
    (c.set f i v).rd b = if b = f.at i then f.write (c.rd b) v else c.rd b := by
  unfold Chip.set
  rw [Chip.rd_wr h]
  split
  · subst_vars; rfl
  · rfl

/-- Another register is not written. -/
theorem Chip.rd_set_ne {c : Chip} (h : c.Canonical) (f : Fld) (i v b : Nat) (hb : b ≠ f.at i) : (c.set f i v).rd b = c.rd b := by
  rw [Chip.rd_set h, if_neg hb]

grind_pattern Chip.rd_set_ne => (c.set f i v).rd b

/-- The field written reads back. -/
theorem Chip.get_set {c : Chip} (h : c.Canonical) (f : Fld) (i v : Nat) (h1 : f.hi < 32) (h2 : f.lo ≤ f.hi) :
    (c.set f i v).get f i = v % 2 ^ f.width := by
  unfold Chip.get
  rw [Chip.rd_set h, if_pos rfl, Fld.read_write f _ _ h1 h2]

grind_pattern Chip.get_set => Chip.get (c.set f i v) f i

/-- A field of another register, or one that shares no bit with the field written, keeps its value. -/
theorem Chip.get_set_ne {c : Chip} (h : c.Canonical) (f : Fld) (i v : Nat) (g : Fld) (j : Nat) (h1 : f.hi < 32) (h2 : f.lo ≤ f.hi)
    (hd : f.at i ≠ g.at j ∨ f.hi < g.lo ∨ g.hi < f.lo) : (c.set f i v).get g j = c.get g j := by
  unfold Chip.get
  rw [Chip.rd_set h]
  split
  · rename_i e
    rcases hd with hd | hd
    · exact absurd e.symm hd
    · exact Fld.read_write_ne f g _ _ h1 h2 hd
  · rfl

grind_pattern Chip.get_set_ne => Chip.get (c.set f i v) g j

theorem Chip.get_lt (c : Chip) (f : Fld) (i : Nat) : c.get f i < 2 ^ f.width := Fld.read_lt _ _

/-- A one-bit field set to 1 is on. -/
theorem Chip.on_set_one {c : Chip} (h : c.Canonical) (f : Fld) (i : Nat) (h1 : f.hi < 32) (h2 : f.lo ≤ f.hi) :
    (c.set f i 1).on f i = true := by
  unfold Chip.on
  rw [Chip.get_set h f i 1 h1 h2, Nat.mod_eq_of_lt (Nat.one_lt_two_pow (by unfold Fld.width; omega))]
  rfl

/-- A one-bit field set to 0 is off. -/
theorem Chip.on_set_zero {c : Chip} (h : c.Canonical) (f : Fld) (i : Nat) (h1 : f.hi < 32) (h2 : f.lo ≤ f.hi) :
    (c.set f i 0).on f i = false := by
  unfold Chip.on
  rw [Chip.get_set h f i 0 h1 h2]
  simp

theorem Chip.on_set_ne {c : Chip} (h : c.Canonical) (f : Fld) (i v : Nat) (g : Fld) (j : Nat) (h1 : f.hi < 32) (h2 : f.lo ≤ f.hi)
    (hd : f.at i ≠ g.at j ∨ f.hi < g.lo ∨ g.hi < f.lo) : (c.set f i v).on g j = c.on g j := by
  unfold Chip.on
  rw [Chip.get_set_ne h f i v g j h1 h2 hd]

/-- After reset every register holds its reset value. -/
theorem Chip.rd_reset (a : Nat) : State.reset.chip.rd a = regReset a := rfl

/-! ### A free value -/

theorem Chip.draw_rd (c : Chip) (a : Nat) : c.draw.2.rd a = c.rd a := rfl

end Sys2Proof.Machine
end

