-- ==== Sys2Proof/Laws/Fields.lean ====
section
/-! SUPPORT. What each update of the device leaves alone, one lemma per update and field, so that no proof unfolds a record update. -/

namespace Sys2Proof.Machine

set_option Elab.async false

/-! ### Register writes leave everything that is no register -/

@[simp] theorem Chip.wr_free (c : Chip) (a : Nat) (w : Word) : (c.wr a w).free = c.free := rfl
@[simp] theorem Chip.wr_sched (c : Chip) (a : Nat) (w : Word) : (c.wr a w).sched = c.sched := rfl
@[simp] theorem Chip.wr_boot (c : Chip) (a : Nat) (w : Word) : (c.wr a w).boot = c.boot := rfl
@[simp] theorem Chip.wr_tables (c : Chip) (a : Nat) (w : Word) : (c.wr a w).tables = c.tables := rfl
@[simp] theorem Chip.wr_variants (c : Chip) (a : Nat) (w : Word) : (c.wr a w).variants = c.variants := rfl
@[simp] theorem Chip.wr_varPend (c : Chip) (a : Nat) (w : Word) : (c.wr a w).varPend = c.varPend := rfl
@[simp] theorem Chip.wr_flows (c : Chip) (a : Nat) (w : Word) : (c.wr a w).flows = c.flows := rfl
@[simp] theorem Chip.wr_lanes (c : Chip) (a : Nat) (w : Word) : (c.wr a w).lanes = c.lanes := rfl
@[simp] theorem Chip.wr_rate (c : Chip) (a : Nat) (w : Word) : (c.wr a w).rate = c.rate := rfl
@[simp] theorem Chip.wr_spn (c : Chip) (a : Nat) (w : Word) : (c.wr a w).spn = c.spn := rfl
@[simp] theorem Chip.wr_tb (c : Chip) (a : Nat) (w : Word) : (c.wr a w).tb = c.tb := rfl
@[simp] theorem Chip.wr_svc (c : Chip) (a : Nat) (w : Word) : (c.wr a w).svc = c.svc := rfl
@[simp] theorem Chip.wr_saf (c : Chip) (a : Nat) (w : Word) : (c.wr a w).saf = c.saf := rfl
@[simp] theorem Chip.wr_decs (c : Chip) (a : Nat) (w : Word) : (c.wr a w).decs = c.decs := rfl
@[simp] theorem Chip.wr_cmp (c : Chip) (a : Nat) (w : Word) : (c.wr a w).cmp = c.cmp := rfl
@[simp] theorem Chip.wr_aud (c : Chip) (a : Nat) (w : Word) : (c.wr a w).aud = c.aud := rfl
@[simp] theorem Chip.wr_net (c : Chip) (a : Nat) (w : Word) : (c.wr a w).net = c.net := rfl
@[simp] theorem Chip.wr_ply (c : Chip) (a : Nat) (w : Word) : (c.wr a w).ply = c.ply := rfl
@[simp] theorem Chip.wr_clk (c : Chip) (a : Nat) (w : Word) : (c.wr a w).clk = c.clk := rfl
@[simp] theorem Chip.wr_dram (c : Chip) (a : Nat) (w : Word) : (c.wr a w).dram = c.dram := rfl
@[simp] theorem Chip.wr_nand (c : Chip) (a : Nat) (w : Word) : (c.wr a w).nand = c.nand := rfl
@[simp] theorem Chip.wr_str (c : Chip) (a : Nat) (w : Word) : (c.wr a w).str = c.str := rfl
@[simp] theorem Chip.wr_sec (c : Chip) (a : Nat) (w : Word) : (c.wr a w).sec = c.sec := rfl
@[simp] theorem Chip.wr_pwr (c : Chip) (a : Nat) (w : Word) : (c.wr a w).pwr = c.pwr := rfl
@[simp] theorem Chip.wr_cvus (c : Chip) (a : Nat) (w : Word) : (c.wr a w).cvus = c.cvus := rfl
@[simp] theorem Chip.wr_moves (c : Chip) (a : Nat) (w : Word) : (c.wr a w).moves = c.moves := rfl
@[simp] theorem Chip.wr_shadows (c : Chip) (a : Nat) (w : Word) : (c.wr a w).shadows = c.shadows := rfl

@[simp] theorem Chip.set_free (c : Chip) (f : Fld) (i v : Nat) : (c.set f i v).free = c.free := rfl
@[simp] theorem Chip.set_sched (c : Chip) (f : Fld) (i v : Nat) : (c.set f i v).sched = c.sched := rfl
@[simp] theorem Chip.set_boot (c : Chip) (f : Fld) (i v : Nat) : (c.set f i v).boot = c.boot := rfl
@[simp] theorem Chip.set_tables (c : Chip) (f : Fld) (i v : Nat) : (c.set f i v).tables = c.tables := rfl
@[simp] theorem Chip.set_variants (c : Chip) (f : Fld) (i v : Nat) : (c.set f i v).variants = c.variants := rfl
@[simp] theorem Chip.set_varPend (c : Chip) (f : Fld) (i v : Nat) : (c.set f i v).varPend = c.varPend := rfl
@[simp] theorem Chip.set_flows (c : Chip) (f : Fld) (i v : Nat) : (c.set f i v).flows = c.flows := rfl
@[simp] theorem Chip.set_lanes (c : Chip) (f : Fld) (i v : Nat) : (c.set f i v).lanes = c.lanes := rfl
@[simp] theorem Chip.set_rate (c : Chip) (f : Fld) (i v : Nat) : (c.set f i v).rate = c.rate := rfl
@[simp] theorem Chip.set_spn (c : Chip) (f : Fld) (i v : Nat) : (c.set f i v).spn = c.spn := rfl
@[simp] theorem Chip.set_tb (c : Chip) (f : Fld) (i v : Nat) : (c.set f i v).tb = c.tb := rfl
@[simp] theorem Chip.set_svc (c : Chip) (f : Fld) (i v : Nat) : (c.set f i v).svc = c.svc := rfl
@[simp] theorem Chip.set_saf (c : Chip) (f : Fld) (i v : Nat) : (c.set f i v).saf = c.saf := rfl
@[simp] theorem Chip.set_decs (c : Chip) (f : Fld) (i v : Nat) : (c.set f i v).decs = c.decs := rfl
@[simp] theorem Chip.set_cmp (c : Chip) (f : Fld) (i v : Nat) : (c.set f i v).cmp = c.cmp := rfl
@[simp] theorem Chip.set_aud (c : Chip) (f : Fld) (i v : Nat) : (c.set f i v).aud = c.aud := rfl
@[simp] theorem Chip.set_net (c : Chip) (f : Fld) (i v : Nat) : (c.set f i v).net = c.net := rfl
@[simp] theorem Chip.set_ply (c : Chip) (f : Fld) (i v : Nat) : (c.set f i v).ply = c.ply := rfl
@[simp] theorem Chip.set_clk (c : Chip) (f : Fld) (i v : Nat) : (c.set f i v).clk = c.clk := rfl
@[simp] theorem Chip.set_dram (c : Chip) (f : Fld) (i v : Nat) : (c.set f i v).dram = c.dram := rfl
@[simp] theorem Chip.set_nand (c : Chip) (f : Fld) (i v : Nat) : (c.set f i v).nand = c.nand := rfl
@[simp] theorem Chip.set_str (c : Chip) (f : Fld) (i v : Nat) : (c.set f i v).str = c.str := rfl
@[simp] theorem Chip.set_sec (c : Chip) (f : Fld) (i v : Nat) : (c.set f i v).sec = c.sec := rfl
@[simp] theorem Chip.set_pwr (c : Chip) (f : Fld) (i v : Nat) : (c.set f i v).pwr = c.pwr := rfl
@[simp] theorem Chip.set_cvus (c : Chip) (f : Fld) (i v : Nat) : (c.set f i v).cvus = c.cvus := rfl
@[simp] theorem Chip.set_moves (c : Chip) (f : Fld) (i v : Nat) : (c.set f i v).moves = c.moves := rfl
@[simp] theorem Chip.set_shadows (c : Chip) (f : Fld) (i v : Nat) : (c.set f i v).shadows = c.shadows := rfl

@[simp] theorem Chip.setB_free (c : Chip) (f : Fld) (i : Nat) (b : Bool) : (c.setB f i b).free = c.free := rfl
@[simp] theorem Chip.setB_sched (c : Chip) (f : Fld) (i : Nat) (b : Bool) : (c.setB f i b).sched = c.sched := rfl
@[simp] theorem Chip.setB_boot (c : Chip) (f : Fld) (i : Nat) (b : Bool) : (c.setB f i b).boot = c.boot := rfl
@[simp] theorem Chip.setB_tables (c : Chip) (f : Fld) (i : Nat) (b : Bool) : (c.setB f i b).tables = c.tables := rfl
@[simp] theorem Chip.setB_variants (c : Chip) (f : Fld) (i : Nat) (b : Bool) : (c.setB f i b).variants = c.variants := rfl
@[simp] theorem Chip.setB_varPend (c : Chip) (f : Fld) (i : Nat) (b : Bool) : (c.setB f i b).varPend = c.varPend := rfl
@[simp] theorem Chip.setB_flows (c : Chip) (f : Fld) (i : Nat) (b : Bool) : (c.setB f i b).flows = c.flows := rfl
@[simp] theorem Chip.setB_lanes (c : Chip) (f : Fld) (i : Nat) (b : Bool) : (c.setB f i b).lanes = c.lanes := rfl
@[simp] theorem Chip.setB_rate (c : Chip) (f : Fld) (i : Nat) (b : Bool) : (c.setB f i b).rate = c.rate := rfl
@[simp] theorem Chip.setB_spn (c : Chip) (f : Fld) (i : Nat) (b : Bool) : (c.setB f i b).spn = c.spn := rfl
@[simp] theorem Chip.setB_tb (c : Chip) (f : Fld) (i : Nat) (b : Bool) : (c.setB f i b).tb = c.tb := rfl
@[simp] theorem Chip.setB_svc (c : Chip) (f : Fld) (i : Nat) (b : Bool) : (c.setB f i b).svc = c.svc := rfl
@[simp] theorem Chip.setB_saf (c : Chip) (f : Fld) (i : Nat) (b : Bool) : (c.setB f i b).saf = c.saf := rfl
@[simp] theorem Chip.setB_decs (c : Chip) (f : Fld) (i : Nat) (b : Bool) : (c.setB f i b).decs = c.decs := rfl
@[simp] theorem Chip.setB_cmp (c : Chip) (f : Fld) (i : Nat) (b : Bool) : (c.setB f i b).cmp = c.cmp := rfl
@[simp] theorem Chip.setB_aud (c : Chip) (f : Fld) (i : Nat) (b : Bool) : (c.setB f i b).aud = c.aud := rfl
@[simp] theorem Chip.setB_net (c : Chip) (f : Fld) (i : Nat) (b : Bool) : (c.setB f i b).net = c.net := rfl
@[simp] theorem Chip.setB_ply (c : Chip) (f : Fld) (i : Nat) (b : Bool) : (c.setB f i b).ply = c.ply := rfl
@[simp] theorem Chip.setB_clk (c : Chip) (f : Fld) (i : Nat) (b : Bool) : (c.setB f i b).clk = c.clk := rfl
@[simp] theorem Chip.setB_dram (c : Chip) (f : Fld) (i : Nat) (b : Bool) : (c.setB f i b).dram = c.dram := rfl
@[simp] theorem Chip.setB_nand (c : Chip) (f : Fld) (i : Nat) (b : Bool) : (c.setB f i b).nand = c.nand := rfl
@[simp] theorem Chip.setB_str (c : Chip) (f : Fld) (i : Nat) (b : Bool) : (c.setB f i b).str = c.str := rfl
@[simp] theorem Chip.setB_sec (c : Chip) (f : Fld) (i : Nat) (b : Bool) : (c.setB f i b).sec = c.sec := rfl
@[simp] theorem Chip.setB_pwr (c : Chip) (f : Fld) (i : Nat) (b : Bool) : (c.setB f i b).pwr = c.pwr := rfl
@[simp] theorem Chip.setB_cvus (c : Chip) (f : Fld) (i : Nat) (b : Bool) : (c.setB f i b).cvus = c.cvus := rfl
@[simp] theorem Chip.setB_moves (c : Chip) (f : Fld) (i : Nat) (b : Bool) : (c.setB f i b).moves = c.moves := rfl
@[simp] theorem Chip.setB_shadows (c : Chip) (f : Fld) (i : Nat) (b : Bool) : (c.setB f i b).shadows = c.shadows := rfl

@[simp] theorem Chip.bump_free (c : Chip) (f : Fld) (i n : Nat) : (c.bump f i n).free = c.free := rfl
@[simp] theorem Chip.bump_sched (c : Chip) (f : Fld) (i n : Nat) : (c.bump f i n).sched = c.sched := rfl
@[simp] theorem Chip.bump_boot (c : Chip) (f : Fld) (i n : Nat) : (c.bump f i n).boot = c.boot := rfl
@[simp] theorem Chip.bump_tables (c : Chip) (f : Fld) (i n : Nat) : (c.bump f i n).tables = c.tables := rfl
@[simp] theorem Chip.bump_variants (c : Chip) (f : Fld) (i n : Nat) : (c.bump f i n).variants = c.variants := rfl
@[simp] theorem Chip.bump_varPend (c : Chip) (f : Fld) (i n : Nat) : (c.bump f i n).varPend = c.varPend := rfl
@[simp] theorem Chip.bump_flows (c : Chip) (f : Fld) (i n : Nat) : (c.bump f i n).flows = c.flows := rfl
@[simp] theorem Chip.bump_lanes (c : Chip) (f : Fld) (i n : Nat) : (c.bump f i n).lanes = c.lanes := rfl
@[simp] theorem Chip.bump_rate (c : Chip) (f : Fld) (i n : Nat) : (c.bump f i n).rate = c.rate := rfl
@[simp] theorem Chip.bump_spn (c : Chip) (f : Fld) (i n : Nat) : (c.bump f i n).spn = c.spn := rfl
@[simp] theorem Chip.bump_tb (c : Chip) (f : Fld) (i n : Nat) : (c.bump f i n).tb = c.tb := rfl
@[simp] theorem Chip.bump_svc (c : Chip) (f : Fld) (i n : Nat) : (c.bump f i n).svc = c.svc := rfl
@[simp] theorem Chip.bump_saf (c : Chip) (f : Fld) (i n : Nat) : (c.bump f i n).saf = c.saf := rfl
@[simp] theorem Chip.bump_decs (c : Chip) (f : Fld) (i n : Nat) : (c.bump f i n).decs = c.decs := rfl
@[simp] theorem Chip.bump_cmp (c : Chip) (f : Fld) (i n : Nat) : (c.bump f i n).cmp = c.cmp := rfl
@[simp] theorem Chip.bump_aud (c : Chip) (f : Fld) (i n : Nat) : (c.bump f i n).aud = c.aud := rfl
@[simp] theorem Chip.bump_net (c : Chip) (f : Fld) (i n : Nat) : (c.bump f i n).net = c.net := rfl
@[simp] theorem Chip.bump_ply (c : Chip) (f : Fld) (i n : Nat) : (c.bump f i n).ply = c.ply := rfl
@[simp] theorem Chip.bump_clk (c : Chip) (f : Fld) (i n : Nat) : (c.bump f i n).clk = c.clk := rfl
@[simp] theorem Chip.bump_dram (c : Chip) (f : Fld) (i n : Nat) : (c.bump f i n).dram = c.dram := rfl
@[simp] theorem Chip.bump_nand (c : Chip) (f : Fld) (i n : Nat) : (c.bump f i n).nand = c.nand := rfl
@[simp] theorem Chip.bump_str (c : Chip) (f : Fld) (i n : Nat) : (c.bump f i n).str = c.str := rfl
@[simp] theorem Chip.bump_sec (c : Chip) (f : Fld) (i n : Nat) : (c.bump f i n).sec = c.sec := rfl
@[simp] theorem Chip.bump_pwr (c : Chip) (f : Fld) (i n : Nat) : (c.bump f i n).pwr = c.pwr := rfl
@[simp] theorem Chip.bump_cvus (c : Chip) (f : Fld) (i n : Nat) : (c.bump f i n).cvus = c.cvus := rfl
@[simp] theorem Chip.bump_moves (c : Chip) (f : Fld) (i n : Nat) : (c.bump f i n).moves = c.moves := rfl
@[simp] theorem Chip.bump_shadows (c : Chip) (f : Fld) (i n : Nat) : (c.bump f i n).shadows = c.shadows := rfl

@[simp] theorem Chip.count_free (c : Chip) (f : Fld) (i n : Nat) : (c.count f i n).free = c.free := rfl
@[simp] theorem Chip.count_sched (c : Chip) (f : Fld) (i n : Nat) : (c.count f i n).sched = c.sched := rfl
@[simp] theorem Chip.count_boot (c : Chip) (f : Fld) (i n : Nat) : (c.count f i n).boot = c.boot := rfl
@[simp] theorem Chip.count_tables (c : Chip) (f : Fld) (i n : Nat) : (c.count f i n).tables = c.tables := rfl
@[simp] theorem Chip.count_variants (c : Chip) (f : Fld) (i n : Nat) : (c.count f i n).variants = c.variants := rfl
@[simp] theorem Chip.count_varPend (c : Chip) (f : Fld) (i n : Nat) : (c.count f i n).varPend = c.varPend := rfl
@[simp] theorem Chip.count_flows (c : Chip) (f : Fld) (i n : Nat) : (c.count f i n).flows = c.flows := rfl
@[simp] theorem Chip.count_lanes (c : Chip) (f : Fld) (i n : Nat) : (c.count f i n).lanes = c.lanes := rfl
@[simp] theorem Chip.count_rate (c : Chip) (f : Fld) (i n : Nat) : (c.count f i n).rate = c.rate := rfl
@[simp] theorem Chip.count_spn (c : Chip) (f : Fld) (i n : Nat) : (c.count f i n).spn = c.spn := rfl
@[simp] theorem Chip.count_tb (c : Chip) (f : Fld) (i n : Nat) : (c.count f i n).tb = c.tb := rfl
@[simp] theorem Chip.count_svc (c : Chip) (f : Fld) (i n : Nat) : (c.count f i n).svc = c.svc := rfl
@[simp] theorem Chip.count_saf (c : Chip) (f : Fld) (i n : Nat) : (c.count f i n).saf = c.saf := rfl
@[simp] theorem Chip.count_decs (c : Chip) (f : Fld) (i n : Nat) : (c.count f i n).decs = c.decs := rfl
@[simp] theorem Chip.count_cmp (c : Chip) (f : Fld) (i n : Nat) : (c.count f i n).cmp = c.cmp := rfl
@[simp] theorem Chip.count_aud (c : Chip) (f : Fld) (i n : Nat) : (c.count f i n).aud = c.aud := rfl
@[simp] theorem Chip.count_net (c : Chip) (f : Fld) (i n : Nat) : (c.count f i n).net = c.net := rfl
@[simp] theorem Chip.count_ply (c : Chip) (f : Fld) (i n : Nat) : (c.count f i n).ply = c.ply := rfl
@[simp] theorem Chip.count_clk (c : Chip) (f : Fld) (i n : Nat) : (c.count f i n).clk = c.clk := rfl
@[simp] theorem Chip.count_dram (c : Chip) (f : Fld) (i n : Nat) : (c.count f i n).dram = c.dram := rfl
@[simp] theorem Chip.count_nand (c : Chip) (f : Fld) (i n : Nat) : (c.count f i n).nand = c.nand := rfl
@[simp] theorem Chip.count_str (c : Chip) (f : Fld) (i n : Nat) : (c.count f i n).str = c.str := rfl
@[simp] theorem Chip.count_sec (c : Chip) (f : Fld) (i n : Nat) : (c.count f i n).sec = c.sec := rfl
@[simp] theorem Chip.count_pwr (c : Chip) (f : Fld) (i n : Nat) : (c.count f i n).pwr = c.pwr := rfl
@[simp] theorem Chip.count_cvus (c : Chip) (f : Fld) (i n : Nat) : (c.count f i n).cvus = c.cvus := rfl
@[simp] theorem Chip.count_moves (c : Chip) (f : Fld) (i n : Nat) : (c.count f i n).moves = c.moves := rfl
@[simp] theorem Chip.count_shadows (c : Chip) (f : Fld) (i n : Nat) : (c.count f i n).shadows = c.shadows := rfl

@[simp] theorem Chip.drop_free (c : Chip) (f : Fld) (i : Nat) : (c.drop f i).free = c.free := rfl
@[simp] theorem Chip.drop_sched (c : Chip) (f : Fld) (i : Nat) : (c.drop f i).sched = c.sched := rfl
@[simp] theorem Chip.drop_boot (c : Chip) (f : Fld) (i : Nat) : (c.drop f i).boot = c.boot := rfl
@[simp] theorem Chip.drop_tables (c : Chip) (f : Fld) (i : Nat) : (c.drop f i).tables = c.tables := rfl
@[simp] theorem Chip.drop_variants (c : Chip) (f : Fld) (i : Nat) : (c.drop f i).variants = c.variants := rfl
@[simp] theorem Chip.drop_varPend (c : Chip) (f : Fld) (i : Nat) : (c.drop f i).varPend = c.varPend := rfl
@[simp] theorem Chip.drop_flows (c : Chip) (f : Fld) (i : Nat) : (c.drop f i).flows = c.flows := rfl
@[simp] theorem Chip.drop_lanes (c : Chip) (f : Fld) (i : Nat) : (c.drop f i).lanes = c.lanes := rfl
@[simp] theorem Chip.drop_rate (c : Chip) (f : Fld) (i : Nat) : (c.drop f i).rate = c.rate := rfl
@[simp] theorem Chip.drop_spn (c : Chip) (f : Fld) (i : Nat) : (c.drop f i).spn = c.spn := rfl
@[simp] theorem Chip.drop_tb (c : Chip) (f : Fld) (i : Nat) : (c.drop f i).tb = c.tb := rfl
@[simp] theorem Chip.drop_svc (c : Chip) (f : Fld) (i : Nat) : (c.drop f i).svc = c.svc := rfl
@[simp] theorem Chip.drop_saf (c : Chip) (f : Fld) (i : Nat) : (c.drop f i).saf = c.saf := rfl
@[simp] theorem Chip.drop_decs (c : Chip) (f : Fld) (i : Nat) : (c.drop f i).decs = c.decs := rfl
@[simp] theorem Chip.drop_cmp (c : Chip) (f : Fld) (i : Nat) : (c.drop f i).cmp = c.cmp := rfl
@[simp] theorem Chip.drop_aud (c : Chip) (f : Fld) (i : Nat) : (c.drop f i).aud = c.aud := rfl
@[simp] theorem Chip.drop_net (c : Chip) (f : Fld) (i : Nat) : (c.drop f i).net = c.net := rfl
@[simp] theorem Chip.drop_ply (c : Chip) (f : Fld) (i : Nat) : (c.drop f i).ply = c.ply := rfl
@[simp] theorem Chip.drop_clk (c : Chip) (f : Fld) (i : Nat) : (c.drop f i).clk = c.clk := rfl
@[simp] theorem Chip.drop_dram (c : Chip) (f : Fld) (i : Nat) : (c.drop f i).dram = c.dram := rfl
@[simp] theorem Chip.drop_nand (c : Chip) (f : Fld) (i : Nat) : (c.drop f i).nand = c.nand := rfl
@[simp] theorem Chip.drop_str (c : Chip) (f : Fld) (i : Nat) : (c.drop f i).str = c.str := rfl
@[simp] theorem Chip.drop_sec (c : Chip) (f : Fld) (i : Nat) : (c.drop f i).sec = c.sec := rfl
@[simp] theorem Chip.drop_pwr (c : Chip) (f : Fld) (i : Nat) : (c.drop f i).pwr = c.pwr := rfl
@[simp] theorem Chip.drop_cvus (c : Chip) (f : Fld) (i : Nat) : (c.drop f i).cvus = c.cvus := rfl
@[simp] theorem Chip.drop_moves (c : Chip) (f : Fld) (i : Nat) : (c.drop f i).moves = c.moves := rfl
@[simp] theorem Chip.drop_shadows (c : Chip) (f : Fld) (i : Nat) : (c.drop f i).shadows = c.shadows := rfl

/-! ### Updates of other state leave the registers -/

@[simp] theorem Chip.setPort_regs (c : Chip) (n : Nat) (v : AudPort) : (c.setPort n v).regs = c.regs := rfl
@[simp] theorem Chip.setPort_dram (c : Chip) (n : Nat) (v : AudPort) : (c.setPort n v).dram = c.dram := rfl
@[simp] theorem Chip.setPort_sec (c : Chip) (n : Nat) (v : AudPort) : (c.setPort n v).sec = c.sec := rfl
@[simp] theorem Chip.setPort_rd (c : Chip) (n : Nat) (v : AudPort) (r : Nat) : (c.setPort n v).rd r = c.rd r := rfl
@[simp] theorem Chip.setPort_get (c : Chip) (n : Nat) (v : AudPort) (f : Fld) (i : Nat) : (c.setPort n v).get f i = c.get f i := rfl

@[simp] theorem Chip.setRef_regs (c : Chip) (k : Nat) (v : RefRun) : (c.setRef k v).regs = c.regs := rfl
@[simp] theorem Chip.setRef_dram (c : Chip) (k : Nat) (v : RefRun) : (c.setRef k v).dram = c.dram := rfl
@[simp] theorem Chip.setRef_sec (c : Chip) (k : Nat) (v : RefRun) : (c.setRef k v).sec = c.sec := rfl
@[simp] theorem Chip.setRef_rd (c : Chip) (k : Nat) (v : RefRun) (r : Nat) : (c.setRef k v).rd r = c.rd r := rfl
@[simp] theorem Chip.setRef_get (c : Chip) (k : Nat) (v : RefRun) (f : Fld) (i : Nat) : (c.setRef k v).get f i = c.get f i := rfl

@[simp] theorem Chip.setDec_regs (c : Chip) (k : Nat) (v : DecStream) : (c.setDec k v).regs = c.regs := rfl
@[simp] theorem Chip.setDec_dram (c : Chip) (k : Nat) (v : DecStream) : (c.setDec k v).dram = c.dram := rfl
@[simp] theorem Chip.setDec_sec (c : Chip) (k : Nat) (v : DecStream) : (c.setDec k v).sec = c.sec := rfl
@[simp] theorem Chip.setDec_rd (c : Chip) (k : Nat) (v : DecStream) (r : Nat) : (c.setDec k v).rd r = c.rd r := rfl
@[simp] theorem Chip.setDec_get (c : Chip) (k : Nat) (v : DecStream) (f : Fld) (i : Nat) : (c.setDec k v).get f i = c.get f i := rfl

@[simp] theorem Chip.setEg_regs (c : Chip) (k : Nat) (v : EgFlow) : (c.setEg k v).regs = c.regs := rfl
@[simp] theorem Chip.setEg_dram (c : Chip) (k : Nat) (v : EgFlow) : (c.setEg k v).dram = c.dram := rfl
@[simp] theorem Chip.setEg_sec (c : Chip) (k : Nat) (v : EgFlow) : (c.setEg k v).sec = c.sec := rfl
@[simp] theorem Chip.setEg_rd (c : Chip) (k : Nat) (v : EgFlow) (r : Nat) : (c.setEg k v).rd r = c.rd r := rfl
@[simp] theorem Chip.setEg_get (c : Chip) (k : Nat) (v : EgFlow) (f : Fld) (i : Nat) : (c.setEg k v).get f i = c.get f i := rfl

@[simp] theorem Chip.setFlow_regs (c : Chip) (k : Nat) (v : FlowRx) : (c.setFlow k v).regs = c.regs := rfl
@[simp] theorem Chip.setFlow_dram (c : Chip) (k : Nat) (v : FlowRx) : (c.setFlow k v).dram = c.dram := rfl
@[simp] theorem Chip.setFlow_sec (c : Chip) (k : Nat) (v : FlowRx) : (c.setFlow k v).sec = c.sec := rfl
@[simp] theorem Chip.setFlow_rd (c : Chip) (k : Nat) (v : FlowRx) (r : Nat) : (c.setFlow k v).rd r = c.rd r := rfl
@[simp] theorem Chip.setFlow_get (c : Chip) (k : Nat) (v : FlowRx) (f : Fld) (i : Nat) : (c.setFlow k v).get f i = c.get f i := rfl

@[simp] theorem Chip.setSrc_regs (c : Chip) (k : Nat) (v : SrcRun) : (c.setSrc k v).regs = c.regs := rfl
@[simp] theorem Chip.setSrc_dram (c : Chip) (k : Nat) (v : SrcRun) : (c.setSrc k v).dram = c.dram := rfl
@[simp] theorem Chip.setSrc_sec (c : Chip) (k : Nat) (v : SrcRun) : (c.setSrc k v).sec = c.sec := rfl
@[simp] theorem Chip.setSrc_rd (c : Chip) (k : Nat) (v : SrcRun) (r : Nat) : (c.setSrc k v).rd r = c.rd r := rfl
@[simp] theorem Chip.setSrc_get (c : Chip) (k : Nat) (v : SrcRun) (f : Fld) (i : Nat) : (c.setSrc k v).get f i = c.get f i := rfl

@[simp] theorem Chip.setLaneSlot_regs (c : Chip) (n k : Nat) (v : SlotRun) : (c.setLaneSlot n k v).regs = c.regs := rfl
@[simp] theorem Chip.setLaneSlot_dram (c : Chip) (n k : Nat) (v : SlotRun) : (c.setLaneSlot n k v).dram = c.dram := rfl
@[simp] theorem Chip.setLaneSlot_sec (c : Chip) (n k : Nat) (v : SlotRun) : (c.setLaneSlot n k v).sec = c.sec := rfl
@[simp] theorem Chip.setLaneSlot_rd (c : Chip) (n k : Nat) (v : SlotRun) (r : Nat) : (c.setLaneSlot n k v).rd r = c.rd r := rfl
@[simp] theorem Chip.setLaneSlot_get (c : Chip) (n k : Nat) (v : SlotRun) (f : Fld) (i : Nat) : (c.setLaneSlot n k v).get f i = c.get f i := rfl

@[simp] theorem Chip.setNandBlock_regs (c : Chip) (k : Nat) (v : NandBlock) : (c.setNandBlock k v).regs = c.regs := rfl
@[simp] theorem Chip.setNandBlock_dram (c : Chip) (k : Nat) (v : NandBlock) : (c.setNandBlock k v).dram = c.dram := rfl
@[simp] theorem Chip.setNandBlock_sec (c : Chip) (k : Nat) (v : NandBlock) : (c.setNandBlock k v).sec = c.sec := rfl
@[simp] theorem Chip.setNandBlock_rd (c : Chip) (k : Nat) (v : NandBlock) (r : Nat) : (c.setNandBlock k v).rd r = c.rd r := rfl
@[simp] theorem Chip.setNandBlock_get (c : Chip) (k : Nat) (v : NandBlock) (f : Fld) (i : Nat) : (c.setNandBlock k v).get f i = c.get f i := rfl

@[simp] theorem Chip.setDir_regs (c : Chip) (v : DirRec) : (c.setDir v).regs = c.regs := rfl
@[simp] theorem Chip.setDir_dram (c : Chip) (v : DirRec) : (c.setDir v).dram = c.dram := rfl
@[simp] theorem Chip.setDir_sec (c : Chip) (v : DirRec) : (c.setDir v).sec = c.sec := rfl
@[simp] theorem Chip.setDir_rd (c : Chip) (v : DirRec) (r : Nat) : (c.setDir v).rd r = c.rd r := rfl
@[simp] theorem Chip.setDir_get (c : Chip) (v : DirRec) (f : Fld) (i : Nat) : (c.setDir v).get f i = c.get f i := rfl

@[simp] theorem Chip.setNetPort_regs (c : Chip) (k : Nat) (v : NetPort) : (c.setNetPort k v).regs = c.regs := rfl
@[simp] theorem Chip.setNetPort_dram (c : Chip) (k : Nat) (v : NetPort) : (c.setNetPort k v).dram = c.dram := rfl
@[simp] theorem Chip.setNetPort_sec (c : Chip) (k : Nat) (v : NetPort) : (c.setNetPort k v).sec = c.sec := rfl
@[simp] theorem Chip.setNetPort_rd (c : Chip) (k : Nat) (v : NetPort) (r : Nat) : (c.setNetPort k v).rd r = c.rd r := rfl
@[simp] theorem Chip.setNetPort_get (c : Chip) (k : Nat) (v : NetPort) (f : Fld) (i : Nat) : (c.setNetPort k v).get f i = c.get f i := rfl

@[simp] theorem Chip.setPtp_regs (c : Chip) (k : Nat) (v : PtpInst) : (c.setPtp k v).regs = c.regs := rfl
@[simp] theorem Chip.setPtp_dram (c : Chip) (k : Nat) (v : PtpInst) : (c.setPtp k v).dram = c.dram := rfl
@[simp] theorem Chip.setPtp_sec (c : Chip) (k : Nat) (v : PtpInst) : (c.setPtp k v).sec = c.sec := rfl
@[simp] theorem Chip.setPtp_rd (c : Chip) (k : Nat) (v : PtpInst) (r : Nat) : (c.setPtp k v).rd r = c.rd r := rfl
@[simp] theorem Chip.setPtp_get (c : Chip) (k : Nat) (v : PtpInst) (f : Fld) (i : Nat) : (c.setPtp k v).get f i = c.get f i := rfl

@[simp] theorem Chip.setBase_regs (c : Chip) (k : Nat) (v : TimeBase) : (c.setBase k v).regs = c.regs := rfl
@[simp] theorem Chip.setBase_dram (c : Chip) (k : Nat) (v : TimeBase) : (c.setBase k v).dram = c.dram := rfl
@[simp] theorem Chip.setBase_sec (c : Chip) (k : Nat) (v : TimeBase) : (c.setBase k v).sec = c.sec := rfl
@[simp] theorem Chip.setBase_rd (c : Chip) (k : Nat) (v : TimeBase) (r : Nat) : (c.setBase k v).rd r = c.rd r := rfl
@[simp] theorem Chip.setBase_get (c : Chip) (k : Nat) (v : TimeBase) (f : Fld) (i : Nat) : (c.setBase k v).get f i = c.get f i := rfl

@[simp] theorem Chip.setPlane_regs (c : Chip) (k : Nat) (v : PlaneRun) : (c.setPlane k v).regs = c.regs := rfl
@[simp] theorem Chip.setPlane_dram (c : Chip) (k : Nat) (v : PlaneRun) : (c.setPlane k v).dram = c.dram := rfl
@[simp] theorem Chip.setPlane_sec (c : Chip) (k : Nat) (v : PlaneRun) : (c.setPlane k v).sec = c.sec := rfl
@[simp] theorem Chip.setPlane_rd (c : Chip) (k : Nat) (v : PlaneRun) (r : Nat) : (c.setPlane k v).rd r = c.rd r := rfl
@[simp] theorem Chip.setPlane_get (c : Chip) (k : Nat) (v : PlaneRun) (f : Fld) (i : Nat) : (c.setPlane k v).get f i = c.get f i := rfl

@[simp] theorem Chip.setChan_regs (c : Chip) (k : Nat) (v : ChanRate) : (c.setChan k v).regs = c.regs := rfl
@[simp] theorem Chip.setChan_dram (c : Chip) (k : Nat) (v : ChanRate) : (c.setChan k v).dram = c.dram := rfl
@[simp] theorem Chip.setChan_sec (c : Chip) (k : Nat) (v : ChanRate) : (c.setChan k v).sec = c.sec := rfl
@[simp] theorem Chip.setChan_rd (c : Chip) (k : Nat) (v : ChanRate) (r : Nat) : (c.setChan k v).rd r = c.rd r := rfl
@[simp] theorem Chip.setChan_get (c : Chip) (k : Nat) (v : ChanRate) (f : Fld) (i : Nat) : (c.setChan k v).get f i = c.get f i := rfl

@[simp] theorem Chip.setStream_regs (c : Chip) (k : Nat) (v : StreamRun) : (c.setStream k v).regs = c.regs := rfl
@[simp] theorem Chip.setStream_dram (c : Chip) (k : Nat) (v : StreamRun) : (c.setStream k v).dram = c.dram := rfl
@[simp] theorem Chip.setStream_sec (c : Chip) (k : Nat) (v : StreamRun) : (c.setStream k v).sec = c.sec := rfl
@[simp] theorem Chip.setStream_rd (c : Chip) (k : Nat) (v : StreamRun) (r : Nat) : (c.setStream k v).rd r = c.rd r := rfl
@[simp] theorem Chip.setStream_get (c : Chip) (k : Nat) (v : StreamRun) (f : Fld) (i : Nat) : (c.setStream k v).get f i = c.get f i := rfl

@[simp] theorem Chip.setTarget_regs (c : Chip) (k : Nat) (v : TargetRun) : (c.setTarget k v).regs = c.regs := rfl
@[simp] theorem Chip.setTarget_dram (c : Chip) (k : Nat) (v : TargetRun) : (c.setTarget k v).dram = c.dram := rfl
@[simp] theorem Chip.setTarget_sec (c : Chip) (k : Nat) (v : TargetRun) : (c.setTarget k v).sec = c.sec := rfl
@[simp] theorem Chip.setTarget_rd (c : Chip) (k : Nat) (v : TargetRun) (r : Nat) : (c.setTarget k v).rd r = c.rd r := rfl
@[simp] theorem Chip.setTarget_get (c : Chip) (k : Nat) (v : TargetRun) (f : Fld) (i : Nat) : (c.setTarget k v).get f i = c.get f i := rfl

@[simp] theorem Chip.setEngine_regs (c : Chip) (k : Nat) (v : Engine) : (c.setEngine k v).regs = c.regs := rfl
@[simp] theorem Chip.setEngine_dram (c : Chip) (k : Nat) (v : Engine) : (c.setEngine k v).dram = c.dram := rfl
@[simp] theorem Chip.setEngine_sec (c : Chip) (k : Nat) (v : Engine) : (c.setEngine k v).sec = c.sec := rfl
@[simp] theorem Chip.setEngine_rd (c : Chip) (k : Nat) (v : Engine) (r : Nat) : (c.setEngine k v).rd r = c.rd r := rfl
@[simp] theorem Chip.setEngine_get (c : Chip) (k : Nat) (v : Engine) (f : Fld) (i : Nat) : (c.setEngine k v).get f i = c.get f i := rfl

@[simp] theorem Chip.setStrLane_regs (c : Chip) (k : Nat) (v : StrLane) : (c.setStrLane k v).regs = c.regs := rfl
@[simp] theorem Chip.setStrLane_dram (c : Chip) (k : Nat) (v : StrLane) : (c.setStrLane k v).dram = c.dram := rfl
@[simp] theorem Chip.setStrLane_sec (c : Chip) (k : Nat) (v : StrLane) : (c.setStrLane k v).sec = c.sec := rfl
@[simp] theorem Chip.setStrLane_rd (c : Chip) (k : Nat) (v : StrLane) (r : Nat) : (c.setStrLane k v).rd r = c.rd r := rfl
@[simp] theorem Chip.setStrLane_get (c : Chip) (k : Nat) (v : StrLane) (f : Fld) (i : Nat) : (c.setStrLane k v).get f i = c.get f i := rfl

@[simp] theorem Chip.setGrp_regs (c : Chip) (k : Nat) (v : StrGroup) : (c.setGrp k v).regs = c.regs := rfl
@[simp] theorem Chip.setGrp_dram (c : Chip) (k : Nat) (v : StrGroup) : (c.setGrp k v).dram = c.dram := rfl
@[simp] theorem Chip.setGrp_sec (c : Chip) (k : Nat) (v : StrGroup) : (c.setGrp k v).sec = c.sec := rfl
@[simp] theorem Chip.setGrp_rd (c : Chip) (k : Nat) (v : StrGroup) (r : Nat) : (c.setGrp k v).rd r = c.rd r := rfl
@[simp] theorem Chip.setGrp_get (c : Chip) (k : Nat) (v : StrGroup) (f : Fld) (i : Nat) : (c.setGrp k v).get f i = c.get f i := rfl

@[simp] theorem Chip.pulse_regs (c : Chip) (n : Nat) : (c.pulse n).regs = c.regs := rfl
@[simp] theorem Chip.pulse_dram (c : Chip) (n : Nat) : (c.pulse n).dram = c.dram := rfl
@[simp] theorem Chip.pulse_sec (c : Chip) (n : Nat) : (c.pulse n).sec = c.sec := rfl
@[simp] theorem Chip.pulse_rd (c : Chip) (n : Nat) (r : Nat) : (c.pulse n).rd r = c.rd r := rfl
@[simp] theorem Chip.pulse_get (c : Chip) (n : Nat) (f : Fld) (i : Nat) : (c.pulse n).get f i = c.get f i := rfl

/-! ### A meaning that only changes the device -/

@[simp] theorem onChip_eq (f : Chip → Chip) (s : State) : onChip f s = .next { s with chip := f s.chip } := rfl

/-- Such a meaning leaves the queue. -/
theorem onChip_pending {f : Chip → Chip} {s t : State} (e : onChip f s = .next t) : t.pending = s.pending := by
  cases e
  rfl

end Sys2Proof.Machine
end

