-- ==== Sys2Proof/Laws/Reset.lean ====
section
/-! SUPPORT. What a reset leaves of the registers and the DRAM. -/

namespace Sys2Proof.Machine

set_option Elab.async false

theorem tabWf_foldl_tabSet {α : Type} [DecidableEq α] (d : Nat → α) (f : Nat × α → α) (t : Tab α) :
    ∀ u : Tab α, tabWf d u = true → tabWf d (t.foldl (fun u e => tabSet d u e.1 (f e)) u) = true := by
  induction t with
  | nil => intro u h; exact h
  | cons e t ih => intro u h; exact ih _ (tabWf_tabSet d u e.1 _ h)

/-- The registers after a reset are in canonical form, whatever they were. -/
theorem resetRegs_wf (warm : Bool) (t : Tab Word) : tabWf regReset (resetRegs warm t) = true :=
  tabWf_foldl_tabSet regReset (fun e => resetWord warm e.1 e.2) t [] rfl

/-- A reset gives a device in canonical form. -/
theorem Chip.fresh_canonical {c : Chip} (h : c.Canonical) (warm : Bool) : (c.fresh warm).Canonical := by
  refine ⟨resetRegs_wf warm c.regs, ?_⟩
  cases warm
  · rfl
  · exact h.2

/-- A register that a table in canonical form does not list rests at its reset value; after a reset it still does. -/
theorem rd_tabSets_ne (f : Nat × Word → Word) (a : Nat) (t : Tab Word) :
    ∀ u : Tab Word, tabWf regReset u = true → (∀ e ∈ t, e.1 ≠ a) →
      tabGet regReset (t.foldl (fun u e => tabSet regReset u e.1 (f e)) u) a = tabGet regReset u a := by
  induction t with
  | nil => intro u _ _; rfl
  | cons e t ih =>
    intro u h hn
    rw [List.foldl_cons, ih _ (tabWf_tabSet _ _ _ _ h) (fun x hx => hn x (List.mem_cons_of_mem _ hx)),
      tabGet_tabSet _ _ _ _ _ h, if_neg (fun x => hn e List.mem_cons_self x.symm)]

end Sys2Proof.Machine
end

