-- ==== Sys2Proof/WellFormed.lean ====
section
/-! DEFINITION. The well-formed commands: those whose operands have the lengths and ranges that the spec gives what they carry, where
the type of the operand does not say so already. -/

namespace Sys2Proof

open Sys2Proof.Machine

/-- R31: a target is an instance of its class. -/
def targetWf (cls : Fin 13) (idx : Nat) : Bool := decide (idx < classSize cls.val)

/-- R504, R509: a message has 64 bytes, an argument of at most 1 MiB, and the code of its row. -/
def CmdMsg.fits (m : CmdMsg) (a : CmdArg) : Bool := m.head.length == 64 && decide (m.arg.length ≤ 1048576) && codeFits m a

/-- R12: a word access of the register map, with the value of a write. -/
def Access.writes (a : Access) : Bool := a.size == 4 && a.addr % 4 == 0 && a.value.isSome

/-- R402, R408: a dynamic request covers whole 64-byte lines, and a write brings as many bytes as it counts. -/
def DynReq.wf (r : DynReq) : Bool :=
  decide (0 < r.count) && decide (r.errs.length ≤ (r.count + 63) / 64) && (!r.write || r.data.length == r.count)

/-- R61: the bytes read of an image are at most 256 MiB. -/
def imageWf (b : List Byte) : Bool := decide (b.length ≤ 268435456)

/-- R509: the row of a command message names the code that the message carries. -/
def hostFits : Instr → Option (CmdMsg × CmdArg)
  | .hello m => some (m, .hello)
  | .variant m v => some (m, .variant v.val)
  | .trim m t kb => some (m, .trim t kb)
  | .mute m t => some (m, .mute t)
  | .unmute m t => some (m, .unmute t)
  | .forcesub m t => some (m, .forceSub t)
  | .release m t => some (m, .release t)
  | .splice m x => some (m, .splice x)
  | .keyload m v => some ({ m with arg := v }, .keyLoad)
  | .keyclear m k => some (m, .keyClear k.val)
  | .selftest m p => some (m, .selfTest p)
  | .plySwitch m => some (m, .ply 1)
  | .plyHold m => some (m, .ply 2)
  | .plyUnhold m => some (m, .ply 3)
  | .plyFence m => some (m, .ply 4)
  | .plyRejoin m => some (m, .ply 5)
  | .plyAlone m => some (m, .ply 6)
  | .power m t => some (m, .power t)
  | .installBegin m g n => some (m, .installBegin g n)
  | .installData m o b => some (m, .installData o b)
  | .installCommit m v => some (m, .installCommit v)
  | .installAbort m => some (m, .installAbort)
  | .logread m a f n => some (m, .logRead a f n)
  | .unknownCommand m => some (m, .unknown)
  | _ => none

/-- The well-formed commands. -/
def Instr.wf (i : Instr) : Bool :=
  match hostFits i with
  | some (m, a) => m.fits a
  | none => match i with
    | .runComplete c n | .budgetExpiry c n | .abortComplete c n | .ownershipAbort c n | .testStepEnd c n => targetWf c n
    | .imageHeaderRead b => imageWf b
    | .slotProven l => l.all imageWf
    | .sectionStreamed x => imageWf x.stored
    | .dramDynamicRequest r => r.wf
    | .trainingSetRx _ t _ _ => t.length == 16
    | .alignmentMarkerRx _ l => decide (l.length ≤ 16)
    | .audioFrameRx _ k => decide (k.at_ < k.to_)
    | .debugToken t => t.length == 256
    | .provision r => r.length == 0x304
    | .deploy r sig => r.length == 0x90 && sig.length == 0x70
    | .rma r sig cust => r.length == 0x90 && sig.length == 0x70 && cust.length == 0xC0
    | .heartbeatRx h => h.payload.length == 16
    | .plyHello p => p.length == 41
    | .plyJoin (some (.grant t)) => t.length == 4
    | .plyForward (some (m, a)) => m.fits a
    | .mgmtDatagram d => decide (d.bytes.length ≤ 65507)
    | .stateCopyFrame (some (b, _)) => decide (20 ≤ b.length ∧ b.length ≤ 4052)
    | .keyStoreCheck l => decide l.Nodup
    | .registerWrite ws => ws.all Access.writes
    | _ => true

end Sys2Proof
end

