-- ==== Sys2Proof/Tests/Slice0.lean ====
section
/-! SUPPORT. Small tests: the well-formedness checks, check codes and values written out by hand, and for each statement a state
and operands that meet its hypotheses. -/

namespace Sys2Proof.Machine

set_option Elab.async false

set_option maxRecDepth 4096

/-- A device with register fields set, as (field, instance, value). -/
def dev (l : List (Fld × Nat × Nat)) (c : Chip := {}) : Chip := l.foldl (fun c e => c.set e.1 e.2.1 e.2.2) c

/-- Such a device is in canonical form if the one it is made of is. -/
theorem dev_canonical (l : List (Fld × Nat × Nat)) (c : Chip) (h : c.Canonical) : (dev l c).Canonical := by
  induction l generalizing c with
  | nil => exact h
  | cons e l ih => exact ih _ (Chip.set_canonical h _ _ _)

theorem reset_canonical : ({} : Chip).Canonical := ⟨rfl, rfl⟩

/-- So is one made of a device at reset, whatever else that device holds. -/
theorem dev_inv (l : List (Fld × Nat × Nat)) (c : Chip) (h : c.regs = [] := by rfl) (hm : c.dram.mem = [] := by rfl) :
    (dev l c).Canonical := dev_canonical l c ⟨by rw [h]; rfl, by rw [hm]; rfl⟩

/-! ### Steps, the invariant, DRAM and the register map -/

theorem witness_StepRunsFront : ({ pending := [.faultack] } : State).pending = .faultack :: [] := rfl
theorem witness_ExecKeepsQueue : exec .faultCollect .reset = .next .reset := rfl
theorem witness_StepKeepsInv : State.reset.Inv ∧ step .reset = .next .reset := ⟨reset_canonical, rfl⟩
def fused : Chip := { sec := { ({} : Sec) with kwk := 1, ik := [2 ^ 255, 0, 0] } }
theorem witness_SecretFusesOnlyGrow : step { chip := fused } = .next { chip := fused } ∧ fused.sec.kwk.testBit 0 = true ∧
    (fused.sec.ik.getD 0 0).testBit 255 = true := ⟨rfl, by decide, by decide⟩
theorem witness_NonStoringKeepsDram : Instr.mayStore .faultCollect = false ∧ exec .faultCollect .reset = .next .reset := ⟨rfl, rfl⟩
def memOn : Chip := dev [(R.DRAM_MAPCFG_EN, 0, 1), (R.DRAM_REGIONLO_EN, 0, 1), (R.DRAM_REGIONLO_ECC, 0, 1), (R.DRAM_REGIONHI_LIMIT, 0, 2)]
  { sched := { cyc := 512 } }
theorem witness_OutsideDramFaults : memOn.dramBytes < (memOn.dramBytes - 63) + dynSize { who := 0, addr := memOn.dramBytes - 63 } ∧
    (memOn.dramBytes - 64) + dynSize { who := 0, addr := memOn.dramBytes - 64 } ≤ memOn.dramBytes ∧ memOn.on R.DRAM_MAPCFG_EN = true ∧
    65600 + 64 ≤ memOn.dramBytes ∧ memOn.dramOpen = true ∧ memOn.eccRegion 65600 = true ∧
    memOn.bankFree (memOn.dramLoc 65600).bank = true := by decide +kernel
def locked : Chip := dev [(R.CLK_ROOTSTAT_PLLLOCK, 0, 1)]
theorem witness_LowWordLatchesHigh : isPairLow 0x1700118 = true ∧ locked.abortCause { who := .core 15, addr := 0x1700118 } = none ∧
    tabWf (fun _ => 0) locked.shadows = true := by decide +kernel
theorem witness_AbortOnlyLogs : (dev [(R.CLK_ROOTSTAT_PLLLOCK, 0, 1)]).Canonical ∧
    locked.abortCause { who := .pcie, addr := 0x3FFFFFC, value := some 1 } = some 0 ∧
    locked.abortCause { who := .core 15, addr := 2, size := 2 } = some 2 ∧ ({} : Chip).abortCause { who := .pcie, addr := 0x100000 } = some 3 ∧
    (dev [(R.CLK_GATE0, 0, 1), (R.CLK_ROOTSTAT_PLLLOCK, 0, 1)]).abortCause { who := .debug, addr := 0x400000 } = some 1 ∧
    locked.on R.GLB_ABORTINFO_VALID = false ∧ (dev [(R.GLB_ABORTINFO_VALID, 0, 1)]).on R.GLB_ABORTINFO_VALID = true :=
  ⟨dev_inv _ _, by decide +kernel⟩
theorem witness_AbortCauseOrder : earlyWindow 0x100000 = false ∧ earlyWindow 0xFFFFC = true ∧ earlyWindow 0x1500000 = true ∧
    earlyWindow 0x15FFFFC = true ∧ ({} : Chip).on R.CLK_ROOTSTAT_PLLLOCK = false ∧ locked.on R.CLK_ROOTSTAT_PLLLOCK = true ∧
    locked.implemented 0x3FFFFFC = false ∧ locked.implemented 0 = true ∧ locked.gated 0 = false ∧
    (dev [(R.CLK_GATE0, 0, 1)]).gated 0x400000 = true ∧ (dev [(R.CLK_GATE0, 0, 1)]).implemented 0x400000 = true := by decide +kernel
theorem witness_MediaCounterClears : bit (0x800003FF#32).toNat 31 = true ∧ ({} : Chip).legA (bits (0x800003FF#32).toNat 9 0) = 1023 ∧
    bits (0x8000005F#32).toNat 6 0 < 96 ∧ bit (0x800000BF#32).toNat 30 = false ∧ bits (0x800000BF#32).toNat 7 0 < 192 ∧
    bits (0x8000002F#32).toNat 5 0 < 48 ∧ bit (0x7FFFFFFF#32).toNat 31 = false := by decide +kernel
theorem witness_LinkCounterClears : bit (0x8000000F#32).toNat 31 = true ∧ bit (0x8000000F#32).toNat 30 = false ∧
    bits (0x8000000F#32).toNat 9 0 < 16 ∧ bit (0xC00003FF#32).toNat 30 = true ∧ bits (0x8000001B#32).toNat 4 0 = 27 ∧
    bit (0x7FFFFFFF#32).toNat 31 = false := by decide +kernel
theorem witness_ServiceCounterClears : bit (0x800003FF#32).toNat 31 = true ∧ bit (0x800003FF#32).toNat 29 = false ∧
    bit (0xA00000FF#32).toNat 29 = true ∧ bit (0x7FFFFFFF#32).toNat 31 = false := by decide +kernel
theorem witness_RegisterWriteByType : ∃ r : RegRow, regRowAt 0x1600108 = some r ∧ locked.Canonical ∧ locked.dbgLevel < 2 ∧
    locked.abortCause { who := .core 0, addr := 0x1600108, value := some 1 } = none ∧ debugOnly 0x1600108 = false ∧
    (locked.actionA 0x1600108 1).isNone = true ∧ (locked.actionB 0x1600108 1).isNone = true :=
  ⟨_, rfl, dev_inv _ _, by decide +kernel⟩

/-! ### Resets, supplies, start-up -/

theorem witness_ResetByAccessType : ({} : Chip).pwr.hot = false ∧ ({} : Chip).pwr.tripped = [] ∧ ({} : Chip).boot.held = false ∧
    ({} : Chip).boot.warmAfterFlush = none ∧ ({} : Chip).dbgLevel < 2 ∧ 2 ≤ (dev [(R.SEC_DBGSTAT_LEVEL, 0, 2)]).dbgLevel := by
  decide +kernel
theorem witness_ResetControl : bits (0xA5C30001#32).toNat 31 16 = 0xA5C3 ∧ bit (0xA5C30001#32).toNat 0 = true ∧
    bits (0xA5C20001#32).toNat 31 16 ≠ 0xA5C3 ∧ bit (0xA5C30000#32).toNat 0 = false := by decide
theorem witness_HotResetOnlyEndpoint : (dev [(R.PWR_PWRSTAT_STATE, 0, 2)]).get R.PWR_PWRSTAT_STATE < 3 ∧
    3 ≤ (dev [(R.PWR_PWRSTAT_STATE, 0, 3)]).get R.PWR_PWRSTAT_STATE := by decide +kernel
theorem witness_SupplyMonitors : ({} : Chip).railWatched 7 = true ∧ (dev [(R.PWR_PWRSTAT_STATE, 0, 3)]).railWatched 0 = false ∧
    (dev [(R.PWR_PWRSTAT_STATE, 0, 3)]).railWatched 3 = true := by decide +kernel
theorem witness_TemperatureMonitors : tjMax < (421#12).toInt ∧ (400#12).toInt ≤ tjMax ∧ 480 ≤ (480#12).toInt ∧ (479#12).toInt < 480 ∧
    (360#12).toInt ≤ tjMax - 40 ∧ tjMax - 40 < (381#12).toInt := by
  have h : tjMax = 420 ∨ tjMax = 400 := by unfold tjMax; cases Config.extended <;> simp
  have e : ∀ n : Nat, n < 2048 → (BitVec.ofNat 12 n).toInt = n := by intro n hn; rw [BitVec.toInt_eq_toNat_of_lt] <;> simp <;> omega
  rw [e 421 (by omega), e 400 (by omega), e 480 (by omega), e 479 (by omega), e 360 (by omega), e 381 (by omega)]
  rcases h with h | h <;> rw [h] <;> decide
theorem witness_CrystalQualification : State.reset.Inv ∧ ({} : Chip).boot.held = false ∧ ({} : Chip).on R.CLK_ROOTSTAT_XTALOK = false ∧
    (dev [(R.CLK_ROOTSTAT_XTALOK, 0, 1)]).on R.CLK_ROOTSTAT_XTALOK = true ∧
    (dev [(R.CLK_ROOTSTAT_XTALOK, 0, 1)]).on R.CLK_ROOTSTAT_PLLLOCK = false := ⟨reset_canonical, by decide +kernel⟩
/-- A section table entry of a type at an offset, without content. -/
def entry (type flags offset : Nat) : List Byte :=
  leBytes 1 type ++ leBytes 1 0 ++ leBytes 2 flags ++ leBytes 4 0 ++ leBytes 4 offset ++ List.replicate 84 0
/-- An image of 13 empty sections, the early ones first, as far as its signature block. -/
def image : List Byte :=
  let h := leBytes 4 0x534B4E21 ++ leBytes 1 0 ++ leBytes 1 4 ++ leBytes 2 64 ++ leBytes 2 13 ++ leBytes 2 0 ++ leBytes 4 0 ++ leBytes 8 1
    ++ leBytes 8 0x219200FF00000000 ++ leBytes 8 0x10000 ++ leBytes 4 0 ++ leBytes 4 0 ++ leBytes 4 1344 ++ leBytes 4 0x40
  h ++ leBytes 4 (crc32c h).toNat ++ leBytes 4 0 ++
    (([0x01, 0x02, 0x03, 0x09, 0x0E, 0x04, 0x05, 0x06, 0x07, 0x08, 0x0A, 0x0B, 0x0C].zipIdx).flatMap
      (fun (t, i) => entry t 0 (4096 * (i + 1)))) ++ List.replicate 288 0
def booting : Chip := { boot := { ({} : Boot) with slot := some 0, debugBoot := true } }
def streaming : Chip :=
  { boot := { ({} : Boot) with hdrOk := true, dramOk := true, table := [entry 0x7F 2 0, entry 0x7F 2 0] } }
theorem witness_ImageChecks : booting.boot.hdrOk = false ∧ booting.boot.complete = false ∧ booting.boot.slot = some 0 ∧
    booting.headCheck true image false = 0 ∧ booting.headCheck true (image.drop 1) false = 1 ∧
    streaming.sectionCheck [] (entry 0x7F 2 0) [] true = 9 ∧ sectionKnown (entryType (entry 0x7F 2 0)) = false ∧
    sectionEarly.contains (entryType (entry 0x0E 2 0)) = true := by decide +kernel
/-- An entry of no bytes of a type that is not listed, which an image may hold. -/
def emptyEntry : List Byte := (entry 0x7F 2 0).take 0x30 ++ sha384 []
theorem witness_ImageChecks_section : streaming.sectionCheck [] emptyEntry [] true = 0 := by decide +kernel
theorem witness_ImageChecks_read :
    let r : NandRead := { cws := [{}] }
    let c : Chip := { boot := { ({} : Boot) with slot := some 0 }, nand := { ({} : Nand) with noCount := true } }
    (c.pageRead r).boot.slot = some 0 ∧ (c.pageRead r).boot.complete = false ∧ (c.pageRead r).slotPart 0 = some r.part ∧
    (c.pageRead r).readFails r = true ∧ (dev [(R.SEC_DBGSTAT_LEVEL, 0, 3)]).dbgLevel = 3 ∧ ({} : Chip).dbgLevel ≠ 3 := by decide +kernel
def readyDev : Chip := dev [(R.SEQ_PLANECFG_EN, 3, 1), (R.SEQ_PLANECFG_TBSEL, 3, 15), (R.NET_TBSTAT_LOCKED, 15, 1), (R.CLK_ROOTSTAT_PLLLOCK, 0, 1),
    (R.GLB_BOOTSTAT_INAIR, 0, 1), (R.PWR_WAKECFG_EVS, 0, 0x80), (R.PWR_WAKECFG_TIMEREN, 0, 1)]
  { boot := { ({} : Boot) with complete := true, roleOk := true, postDone := true, dramOk := true, proving := true, us := 60000000 } }
theorem witness_BootCompletes : readyDev.planeReady 3 = true ∧ readyDev.planeReady 0 = false ∧ readyDev.pwr.toP2 = false ∧
    readyDev.boot.started.contains 3 = false ∧ readyDev.planeEnabled 3 = true ∧ readyDev.boot.proving = true ∧
    readyDev.on R.GLB_BOOTSTAT_INAIR = true ∧ readyDev.get R.GLB_BOOTTIME + 60000000 ≤ readyDev.sinceReset ∧ readyDev.boot.slot = none ∧
    bit (readyDev.get R.PWR_WAKECFG_EVS) 7 = true ∧ bit (readyDev.get R.PWR_WAKECFG_EVS) 6 = false ∧
    readyDev.on R.PWR_WAKECFG_TIMEREN = true ∧ ({} : Chip).on R.PWR_WAKECFG_TIMEREN = false ∧ ({} : Chip).boot.postDone = false ∧
    readyDev.on R.CLK_ROOTSTAT_PLLLOCK = true ∧ ({} : Chip).boot.dramOk = false := by decide +kernel

/-! ### The schedule, transfers and check values -/

/-- A device whose stream 63 issues word `w` next, in the body of plane 0. -/
def issuing (w : DWord) : Chip := dev [(⟨0x100200, 4, 3, 0⟩, 0, 0)]
  { sched := { ({} : Sched) with planes := [(0, { phase := .body, body := 25600 })], marks := [(7, some 9)] },
    tables := { streams := [(63, { plane := 0, words := [w] })] } }
/-- A slot word: opcode, class, index and the low 36 bits. -/
def slotWord (op cls idx low : Nat) : DWord := BitVec.ofNat 64 (op * 2 ^ 56 + cls * 2 ^ 48 + idx * 2 ^ 36 + low)
/-- A device with one busy target. -/
def busy (cls idx : Nat) (t : TargetRun) : Chip := { sched := { ({} : Sched) with cyc := 512, targets := [(targetKey cls idx, t)] } }
/-- Whether that word is the one that its stream issues next. -/
def issued (w : DWord) : Bool := (issuing w).dueWord 63 == some (0, w)
theorem witness_SlotWords_due : issued (slotWord 7 0 0 0) = true ∧ issued (slotWord 0 0 0 5) = true ∧ issued (slotWord 1 2 191 1) = true ∧
    issued (slotWord 1 1 15 1) = true ∧ issued (slotWord 3 6 1023 (7 * 2 ^ 24 + 9)) = true ∧ issued (slotWord 3 6 1023 (8 * 2 ^ 24)) = true ∧
    issued (slotWord 4 1 15 0) = true ∧ issued (slotWord 5 1 15 0) = true ∧ issued (slotWord 6 0 0 0) = true := by decide +kernel
theorem witness_SlotWords : 
    slotMalformed (slotWord 7 0 0 0) = true ∧ slotMalformed (slotWord 1 1 15 0) = true ∧ slotMalformed (slotWord 1 1 16 1) = true ∧
    slotMalformed (slotWord 1 1 15 1) = false ∧ slotMalformed (slotWord 1 2 191 1) = false ∧ slotOp (slotWord 3 6 1023 (7 * 2 ^ 24 + 9)) = 3 ∧
    slotMark (slotWord 3 6 1023 (7 * 2 ^ 24 + 9)) = 7 ∧ slotValue (slotWord 3 6 1023 (7 * 2 ^ 24 + 9)) = 9 ∧
    (issuing (slotWord 5 1 15 0)).unitIdle 1 15 = false ∧ (issuing (slotWord 5 1 15 0)).targetBusy (targetKey 1 15) = false ∧
    (busy 1 15 { work := .run }).targetBusy (targetKey 1 15) = true ∧ slotKernel (slotWord 1 9 2047 (2 * 2 ^ 20 + 1)) < 3 := by decide +kernel
theorem witness_TargetsEnd :
    ((busy 1 15 { work := .run, deadline := 767 }).target (targetKey 1 15)).deadline < (busy 1 15 {}).sched.cyc + 256 ∧
    (busy 1 15 {}).sched.cyc + 256 ≤ ((busy 1 15 { work := .run, deadline := 768 }).target (targetKey 1 15)).deadline ∧
    ((busy 1 15 { work := .run, breach := true }).target (targetKey 1 15)).breach = true ∧
    ((busy 1 15 { work := .run, aborting := true }).target (targetKey 1 15)).aborting = true ∧
    ((busy 1 15 { work := .test, deadline := 767 }).target (targetKey 1 15)).work = .test ∧
    (({ issuing 1 with sched := { (issuing 1).sched with planes := [(0, { phase := .tail })] } } : Chip).plane
      ((issuing 1).streamDef 63).plane).phase = .tail ∧ ((issuing 1).stream 63).ended = false ∧ ((issuing 1).streamDef 63).words ≠ [] := by
  decide +kernel
/-- A device whose plan column 15 stands in column 15, on engine 191 of which a RUN issued at cycle 735 is due. -/
def arriving : Chip := dev [(⟨0x8C0010, 4, 31, 31⟩, 3, 1), (⟨0x8C0010, 4, 27, 24⟩, 3, 15)]
  { sched := { ({} : Sched) with cyc := 512 },
    spn := { ({} : Spindles) with eng := [(191, { arrivals := [{ stream := 0, slot := 0, kernel := 1, budget := 9, subst := false, issued := 735 }] })] } }
theorem witness_TargetsEnd_run : (arriving.engine 191).arrivals = [{ stream := 0, slot := 0, kernel := 1, budget := 9, subst := false, issued := 735 }] ∧ 735 + 32 < arriving.sched.cyc + 256 ∧
    (arriving.setEngine 191 { arriving.engine 191 with arrivals := [] }).planEngine 191 = some 191 ∧
    (arriving.target (targetKey 2 191)).work = .idle ∧ (arriving.target (targetKey 2 191)).aborting = false := by decide +kernel
/-- That device, with plan column 15 loaded for plane 3. -/
def placed : Chip := dev [(R.LANE_LANECFG_EN, 15, 1), (R.LANE_LANECFG_PLANE, 15, 3)] arriving
theorem witness_SpindleSends_plane : placed.planCol (191 / 12) = some 15 ∧ placed.enginePlane 191 = some 3 := by decide +kernel
def faulted : Chip := dev [(R.SEQ_SFSTAT_VALID, 0, 1)]
theorem witness_ScheduleFaultLatch : faulted.Canonical ∧ 2 ^ 20 - 1 < 2 ^ 20 ∧ ({} : Chip).turn 3 < 2 ^ 40 ∧
    faulted.on R.SEQ_SFSTAT_VALID = true ∧ ({} : Chip).on R.SEQ_SFSTAT_VALID = false ∧ (faulted.rd 0x100304).toNat < 2 ^ 20 :=
  ⟨dev_inv _ _, by decide +kernel⟩
/-- A device with plane 0 in a phase at cycle 512. -/
def planeIn (r : PlaneRun) : Chip := dev [(⟨0x100200, 4, 11, 8⟩, 0, 0), (R.SEQ_TAILCTL_MINCYC, 0, 4), (R.SEQ_TAILCTL_MAXCYC, 0, 4),
  (R.SEQ_PLANECFG_RATE, 0, 5), (R.SEQ_PLANECFG_TBSEL, 0, 12), (R.NET_TBSTAT_VALID, 12, 1)]
  { sched := { ({} : Sched) with cyc := 512, planes := [(0, r)] }, tb := [(12, { t40 := 2 ^ 70 })] }
theorem witness_TurnParts : (planeIn { phase := .lead, t := 511, lead := 1 }).owner (planeIn {}).ringPos = some 0 ∧
    (planeIn { phase := .lead, t := 511, lead := 1 }).plane 0 = { phase := .lead, t := 511, lead := 1 } ∧ 511 + 1 ≤ (planeIn {}).sched.cyc ∧
    (planeIn { phase := .body, t := 1, lead := 255, body := 256 }).plane 0 = { phase := .body, t := 1, lead := 255, body := 256 } ∧
    errExceeds ((planeIn { phase := .tail, tnext := 767, pulseIdx := 1, pulseAt := 767 * 65536 }).boundaryErr 0) = false ∧
    (planeIn { phase := .body }).running 0 = true ∧ 1 < (planeIn {}).lastPulse 0 ∧ (planeIn {}).running 1 = false ∧
    (planeIn {}).on R.NET_TBSTAT_VALID ((planeIn {}).baseOf 0) = true ∧
    (planeIn {}).get R.SEQ_TAILCTL_MINCYC 0 ≤ (planeIn {}).get R.SEQ_TAILCTL_MAXCYC 0 := by decide +kernel
theorem witness_TurnCount : (planeIn {}).Canonical ∧ (0 : Fin 4) ≠ 3 := ⟨dev_inv _ _, by decide⟩
theorem witness_TwistPasses : locked.on R.CLK_ROOTSTAT_PLLLOCK = true ∧ ({} : Chip).on R.CLK_ROOTSTAT_PLLLOCK = false ∧
    tabWf (fun _ => ({} : TimeBase)) (planeIn {}).tb = true := by decide +kernel
/-- A device with transfer 0 in flight on stream 63, and check-value context 2047 at work on a kernel. -/
def transferring (kernel : Nat) : Chip :=
  { sched := { ({} : Sched) with targets := [(targetKey 9 2047, { work := .run, kernel := kernel })] }, moves := [{ stream := 63 }] }
theorem witness_TransfersAndCheckValues : (transferring 0).moves.find? (fun m => m.stream == 63) = some { stream := 63 } ∧
    (transferring 0).moves.find? (fun m => m.stream == 62) = none ∧ issued (slotWord 2 0xB 0 0) = true ∧
    slotMalformed (slotWord 2 0xB 0 0) = false ∧ (issuing (slotWord 2 0xB 0 0)).moveLeaves 63 = false ∧
    (issuing (slotWord 2 0xB 0 0)).unitIdle 0xB 0 = false ∧
    (issuing (slotWord 2 0xB 0 0)).endIdle (tget ({} : MoveDesc) (issuing (slotWord 2 0xB 0 0)).tables.moves 0).src = false ∧
    ((transferring 0).target (targetKey 9 2047)).work = .run ∧ ((transferring 1).target (targetKey 9 2047)).kernel = 1 ∧
    ((transferring 2).target (targetKey 9 2047)).kernel = 2 ∧ ({ fold := 2 ^ 56 - 1, seq := 2 ^ 32 - 1 } : CvuCtx).fold < 2 ^ 56 := by
  decide +kernel

/-! ### Spindle engines -/

/-- Engine 191 runs kernel 1 in column 15 and issues bundle `b` at cycle 0. -/
def engineOn (b : Nat) (e : Engine := {}) : Chip := dev [(⟨0x8C0010, 4, 31, 31⟩, 3, 1), (⟨0x8C0010, 4, 27, 24⟩, 3, 15)]
  { spn := { ({} : Spindles) with eng := [(191, { e with run := some { kernel := 1 } })], lib := [(0, BitVec.ofNat 128 b)] } }
/-- What of that bundle is fetched. -/
def fetched (b : Nat) (e : Engine := {}) : Option (Engine × Nat) := ((engineOn b e).fetch 191 0).2
/-- Whether it issues. -/
def issues (b : Nat) (e : Engine := {}) : Bool := (fetched b e).map (·.2) == some b
/-- A bundle of a scalar operation with its registers and IMM. -/
def scalar (op d a imm : Nat) : Nat := op * 2 ^ 112 + d * 2 ^ 107 + a * 2 ^ 102 + imm * 2 ^ 80
/-- A bundle of a vector operation with its lane width and VIMM. -/
def vector (op lw imm : Nat) : Nat := op * 2 ^ 72 + lw * 2 ^ 70 + imm * 2 ^ 32
/-- A bundle of a move operation. -/
def mover (op s : Nat) : Nat := op * 2 ^ 26 + s * 2 ^ 21
theorem witness_SpindleScalar : issues (scalar 0x01 31 1 0) = true ∧ issues (scalar 0x23 31 1 0) = true ∧ issues (scalar 0x27 31 1 0) = true ∧
    issues (scalar 0x24 31 1 0) { divFree := 1 } = true ∧ issues (scalar 0x37 31 1 0) = true ∧ issues (scalar 0x38 31 1 7) = true ∧
    issues (scalar 0x50 0 15 1) = true ∧ issues (scalar 0x58 31 0 7) = true ∧ issues (scalar 0x58 31 0 5) = true ∧
    bSop (scalar 0x23 31 1 0) = 0x23 ∧ bSimm (scalar 0x58 31 0 5) % 8 = 5 := by decide +kernel
theorem witness_SpindleScalar_memory : (sread { sreg := [(1, 2 ^ 19)] } 1).toNat = 2 ^ 19 ∧ (sread { sreg := [(1, 0x67FFE)] } 1).toNat % 2 = 0 ∧
    ((engineOn 0).padRead 191 0x7FFFC 4).2.isSome = true ∧
    ((engineOn 0 { dbl := [(0x7FFFC / 8, true)] }).padRead 191 0x7FFFC 4).2.isSome = false ∧
    (engineOn 0).planCol (191 / 12) = some 15 ∧ saluVal .add 1 1 = some 2 ∧ saluVal .shl 1 32 = none := by decide +kernel
theorem witness_ScalarValues : (0 : Int) ≤ (0x7FFFFFFF#32).toInt ∧ (0x80000000#32).toInt < 0 ∧ (1 : Word) ≠ 0 ∧
    (0x80000001#32) ≠ 0x80000000 ∧ saluVal .min 0x80000000 1 = some 0x80000000 ∧ saluVal .maxu 0x80000000 1 = some 0x80000000 := by decide
theorem witness_SpindleControl : issues (scalar 0x40 0 1 4095) = true ∧ issues (scalar 0x47 0 1 0) = true ∧
    jumpBad { jump := some (0, 0) } 0 = true ∧ jumpBad { loops := [⟨1, 4, 8⟩] } 3 = true ∧ jumpBad { loops := [⟨1, 4, 8⟩] } 9 = true ∧
    jumpBad { loops := [⟨1, 4, 8⟩] } 8 = false ∧ min (sread { sreg := [(1, 1)] } 1).toNat (2 ^ (4095 / 4096)) = 1 ∧
    min (sread {} 1).toNat (2 ^ (0 / 4096)) = 0 := by decide +kernel
theorem witness_SpindleVector : issues (vector 0x01 0 7) = true ∧ issues (vector 0x3F 2 32) = true ∧ issues (vector 0x47 2 0) = true ∧
    issues (vector 0x4F 2 0) = true ∧ issues (vector 0x53 1 0) = true ∧ issues (vector 0x5F 2 0) = true ∧ issues (vector 0x67 2 0) = true ∧
    issues (vector 0x73 2 0) = true ∧ issues (mover 1 0) = true ∧ issues (mover 7 0) = true ∧ laneBits 0 = 8 ∧
    argBest (fun p q => decide (p < q)) [(1, 0)] = some (1, 0) ∧ ((engineOn 0).padRead 191 0x7FFC0 64).2.isSome = true ∧
    (List.replicate 16 0).length = 64 / 2 ^ 2 := by decide +kernel
def landing : Chip :=
  { engineOn 0 with spn := { (engineOn 0).spn with flight := [{ src := 0, pcol := 15, unit := 11, line := 8191, acn := 15, data := [] }] } }
theorem witness_SpindleSends : issues (mover 0x10 0) = true ∧ issues (mover 0x11 1) = true ∧ issues (mover 0x18 0) = true ∧
    (landing.spn.flight.map (·.unit)) = [11] ∧ landing.physEngine (12 * 15 + 11) = some 191 ∧
    ((engineOn 0).engine 191).run.isSome = true ∧ ((engineOn 0).engine 191).halted = false ∧
    doubleWrite 1 ((engineOn 0).engine 191).results = false ∧
    doubleWrite 1 [⟨.sreg 1, 0, 0⟩, ⟨.sreg 1, 0, 0⟩] = true := by decide +kernel
theorem witness_SpindleSends_commit : (fetched (mover 0x18 0)).bind (fun x => x.1.run.map (·.kernel)) = some 1 := by decide +kernel
theorem witness_AddressViolations : issues (scalar 0x30 1 1 0) = true ∧ (0x80000#32).getLsbD 19 = true ∧
    (∀ j : Fin 32, 19 ≤ j.val → (0x7FFFC#32).getLsbD j.val = false) ∧ (0x7FFFE#32).toNat % smemWidth .load32 ≠ 0 ∧
    0x68000 ≤ (0x68000#32).toNat ∧ padBad ((engineOn 0).engine 191) 0x7FFFC 4 = false ∧ padBad ((engineOn 0).engine 191) 0x7FFC0 64 = false ∧
    issues (vector 0x70 0 0) = true ∧ issues (mover 0x11 1) = true := by decide +kernel
theorem witness_ResultLatency : tabWf (fun _ => ({} : Engine)) (engineOn 0).spn.eng = true ∧ ((engineOn 0).engine 191).results = [] ∧
    tabWf (fun _ => (0 : Word)) ((engineOn 0).engine 191).sreg = true ∧ 0 < 20 := by decide +kernel

/-! ### Media, audio, the network, references and clocks -/

def mediaDev : Chip := dev [(R.ING_FLOWCFG_EN, 1023, 1), (R.ING_FLOWCFG_SRC, 1023, 1), (R.ING_FLOWCFG_EN, 0, 1), (R.ING_FLOWCFG_SRC, 0, 2),
    (R.ING_FLOWSTAT_LEGAUP, 0, 1), (R.ING_FLOWSTAT_LEGBUP, 1022, 1), (R.ING_FLOWSTAT_LEGAUP, 1022, 1),
    (R.DEC_DSCFG_EN, 15, 1), (R.DEC_DSCFG_LANE, 15, 3), (R.DEC_DLSTAT_EN, 3, 1), (R.GLB_VARIANT_PENDVALID, 3, 1)]
  { decs := { ({} : Decs) with ctx := [(15, { rel := some {} })] } }
theorem witness_MediaReceipt : mediaDev.get R.ING_FLOWCFG_SRC (mediaDev.legA 1023) = 1 ∧ mediaDev.get R.ING_FLOWCFG_SRC (mediaDev.legA 0) ≠ 1 ∧
    mediaDev.flowOn 0 = true ∧ mediaDev.flowIsAnc 0 = true ∧ mediaDev.on R.ING_FLOWSTAT_LEGAUP (mediaDev.legA 0) = true ∧
    mediaDev.on R.ING_FLOWSTAT_LEGBUP (mediaDev.legA 0) = false ∧ mediaDev.on R.ING_FLOWSTAT_LEGBUP (mediaDev.legA 1022) = true ∧
    ((mediaDev.flow (mediaDev.legA 0)).legA.getD 0) + 1000000 ≤ 1000000 ∧ mediaDev.openTwist = true ∧ (issuing 0).openTwist = false ∧
    mediaDev.parseNext 3 = some 15 ∧ (mediaDev.dec 15).rel = some {} ∧ mediaDev.on R.GLB_VARIANT_PENDVALID 3 = true ∧
    (tget ({} : VarPend) mediaDev.varPend 3).staged = false ∧ (tget ({} : VarPend) [(3, { staged := true })] 3).staged = true := by decide +kernel
def audioDev (dir : Nat) : Chip := dev [(R.AUD_PORTCFG_EN, 47, 1), (R.AUD_PORTCFG_DIR, 47, dir), (R.AUD_PORTSTAT_RATECLS, 47, 1), (R.AUD_MASKSTAT_ACTIVE, 47, 0x8000),
  (R.AUD_PORTFMT_MODE, 47, 2), (R.AUD_PORTFMT_SLOTS, 47, 16), (R.AUD_PORTFMT_SLOTW, 47, 2), (R.PLY_PLYCFG_EN, 0, dir), (R.PLY_PLYCFG_MODE, 0, 1)]
theorem witness_AudioPorts : (audioDev 0).Canonical ∧ (audioDev 0).portOn 47 = true ∧ (audioDev 0).on R.AUD_PORTCFG_DIR 47 = false ∧
    (audioDev 0).portSlots 47 * (audioDev 0).slotWidth 47 = 512 ∧ (audioDev 0).maskDue 47 0 = false ∧ (audioDev 0).portOn 0 = false ∧
    (audioDev 0).on R.AUD_PORTCFG_MASTER 47 = false ∧ ((audioDev 0).port 47).lost = false ∧
    ((audioDev 0).port 47).lastEdge + 4 * 1000000000000 / (audioDev 0).portFs 47 ≤ 1000000000 ∧ ((audioDev 0).port 47).winN < 2 ∧
    (audioDev 0).get R.AUD_PORTSTAT_RATECLS 47 ≠ 0 ∧ (audioDev 0).plyOn = false ∧ (audioDev 1).plyOn = true ∧
    (audioDev 1).on R.AUD_PORTCFG_DIR 47 = true ∧ ((audioDev 1).outBlocks 47).1 = [] ∧
    tabWf (fun _ => ({} : AudPort)) (audioDev 1).aud.ports = true ∧ bit ((audioDev 1).get R.AUD_MASKSTAT_ACTIVE 47) 15 = true ∧
    bit (0x80000000#32).toNat 31 = true := ⟨dev_inv _ _, by decide +kernel⟩
def netDev : Chip := dev [(R.NET_LANESTAT_UP, 15, 1), (R.NET_EGCFG_EN, 1023, 1), (R.NET_EGCFG_FORM, 1023, 1), (R.NET_EGCFG_PORT, 1023, 15)]
  { net := { ({} : Net) with ports := [(15, { queue := [{ stampId := some 65535 }], reports := [({}, true, 2)], tsq := [{ id := 65535, t40 := 2 ^ 100 }] })],
                             ptp := [(3, { leader := some {} })] },
    tables := { egs := [(1023, { resolve := true })] } }
theorem witness_DynamicFrameStarts : (netDev.netPort 15).queue = [{ stampId := some 65535 }] ∧ netDev.portUp 15 = true ∧ netDev.portUp 0 = false ∧
    netDev.frameTwists 15 64 ≤ netDev.openRun ∧ (issuing 0).openRun < (issuing 0).frameTwists 15 64 ∧ 0 < netDev.frameTwists 15 64 := by
  decide +kernel
/-- A frame for every host, of an EtherType that nothing takes, with its FCS. -/
def frame (n : Nat) : EthFrame :=
  let l := List.replicate 6 0xFF#8 ++ List.replicate 6 1#8 ++ [0x12, 0x34] ++ List.replicate (n - 18) 0#8
  { lane := 15, bytes := l ++ fcs l }
theorem witness_NetworkFrames : (frame 64).bytes.length = 64 ∧ fcs ((frame 64).bytes.take 60) = (frame 64).bytes.drop 60 ∧
    netDev.frameOk 15 (frameParts ((frame 64).bytes.take 60)) = true ∧
    netDev.frameOk 15 { frameParts ((frame 64).bytes.take 60) with dst := 1 } = false ∧
    (frameParts ((frame 64).bytes.take 60)).type ≠ 0x8808 ∧ (frame 63).bytes.length = 63 ∧ fcs ((frame 63).bytes.take 59) = (frame 63).bytes.drop 59 ∧
    fcs [] ≠ [0, 0, 0, 1] ∧ netDev.portUp 15 = true ∧ (netDev.netPort 15).reports = [({}, true, 2)] ∧ netDev.egOn (netDev.egLead 1023) = true ∧
    (netDev.egDef 1023).resolve = true ∧ netDev.get R.NET_EGCFG_PORT 1023 = 15 ∧ (netDev.ptp 3).leader = some {} ∧ (netDev.ptp 0).leader = none := by
  decide +kernel
def spliceDev : Chip :=
  { netDev with net := { netDev.net with splices := [{ chan := 95, left := 2, lastNs := some 0 }] },
                tables := { egs := [(1023, { src := .chan 95, ts := { sctePid := some 500 } })] } }
theorem witness_MediaSends : netDev.egLive (netDev.egLead 0) = false ∧ (netDev.egDef 1023).ts.sctePid = none ∧
    (spliceDev.egDef (spliceDev.egLead 1023)).src = .chan 95 ∧ (spliceDev.egDef (spliceDev.egLead 1023)).ts.sctePid = some 500 ∧
    spliceDev.net.splices = [{ chan := 95, left := 2, lastNs := some 0 }] ∧ 1 < 2 ∧ 0 + 100000000 ≤ 100000000 := by decide +kernel
/-- A TS flow of channel 95 on plane pl, in an owned Twist of plane 0. -/
def sendDev (pl : Nat) : Chip := dev [(⟨0x100200, 4, 3, 0⟩, 0, 0), (R.NET_EGCFG_EN, 1023, 1), (R.NET_EGCFG_FORM, 1023, 1), (R.NET_EGCFG_PLANE, 1023, pl)]
  { sched := { ({} : Sched) with planes := [(0, { phase := .body, body := 25600 }), (1, { phase := .lead })] },
    tables := { egs := [(1023, { src := .chan 95 })] } }
theorem witness_MediaSends_sent : (sendDev 0).egLead 1023 = 1023 ∧ (sendDev 0).egLive 1023 = true ∧ (sendDev 1).egLive 1023 = true ∧
    (sendDev 1).accessCause ((sendDev 1).get R.NET_EGCFG_PLANE 1023) 0 = some 2 ∧
    (sendDev 0).accessCause ((sendDev 0).get R.NET_EGCFG_PLANE 1023) 0 = none ∧
    ((sendDev 0).draft 1023 { at_ := 0 }).2.map (·.due) = some 0 ∧
    (((sendDev 0).set R.NET_EGCFG_FORM 1023 2).draft 1023 { at_ := 0 }).2.isSome = false := by decide +kernel
theorem witness_TimesReadBack : netDev.Canonical ∧ (netDev.base 15).t40 < 2 ^ 48 * 1000000000 * 2 ^ 40 ∧
    (netDev.netPort 15).tsq = [{ id := 65535, t40 := 2 ^ 100 }] ∧ (netDev.netPort 0).tsq = [] ∧ 2 ^ 100 < 2 ^ 48 * 1000000000 * 2 ^ 40 ∧
    (∀ i : Fin 4, (spliceDev.ptp i.val).leader = none ∨ i = 3) ∧ bit (0x80000000#32).toNat 31 = true := ⟨dev_inv _ _, by decide +kernel⟩
def baseDev (l : List (Fld × Nat × Nat)) : Chip := dev ([(R.NET_TBCFG_EN, 15, 1), (R.NET_TBCFG_SRCTYPE, 15, 3), (R.NET_TBCFG_SRC, 15, 11),
    (R.NET_TBCFG_EN, 11, 1), (R.NET_TBCFG_SRCTYPE, 11, 2), (R.NET_TBLIM_HOLDS, 11, 1), (R.NET_TBSTAT_HOLDOVER, 11, 1)] ++ l)
  { sched := { ({} : Sched) with cyc := 800000000 }, tb := [(11, { placed := true })] }
theorem witness_HoldoverAndSteadyBases : (baseDev []).Canonical ∧ (baseDev []).tbSrcType 11 = 2 ∧ (baseDev []).on R.NET_TBCFG_EN 11 = true ∧
    (baseDev []).on R.NET_TBSTAT_HOLDOVER 11 = true ∧ (baseDev []).get R.NET_TBLIM_HOLDS 11 ≠ 0 ∧
    ((baseDev []).base 11).holdFrom + (baseDev []).get R.NET_TBLIM_HOLDS 11 * 800000000 ≤ (baseDev []).sched.cyc ∧
    (baseDev []).get R.NET_TBLIM_HOLDS 15 = 0 ∧ (baseDev []).tbSource 15 = some 11 ∧ (baseDev []).on R.NET_TBSTAT_LOCKED 15 = false ∧
    (baseDev [(R.NET_TBSTAT_LOCKED, 15, 1)]).on R.NET_TBSTAT_LOCKED 15 = true ∧
    (baseDev [(R.NET_TBSTAT_HOLDOVER, 11, 0), (R.NET_TBSTAT_VALID, 11, 1)]).sourceHolds 15 = false ∧
    (baseDev [(R.NET_TBCFG_START, 15, 1)]).on R.NET_TBCFG_START 15 = true ∧
    min 60000 (max 1000 ((baseDev []).get R.NET_TBCFG_FREEMS 15)) * 1000 ≤ (baseDev []).sinceReset ∧ ((baseDev []).base 11).placed = true :=
  ⟨dev_inv _ _, by decide +kernel⟩
def refDev (r : RefRun) (state : Nat) : Chip := dev [(R.CLK_REFCFG_EN, 7, 1), (R.CLK_REFCFG_TYPE, 7, 0), (R.CLK_REFCFG_EN, 0, 1), (R.CLK_REFCFG_TYPE, 0, 1),
    (R.CLK_REFTIME_WTR, 7, 1), (R.CLK_DPLLSTAT_STATE, 0, state), (R.CLK_HOSPEC, 0, 1), (R.CLK_DPLLFREQ, 0, 65970698)]
  { sched := { ({} : Sched) with cyc := 8000000000 }, clk := { ({} : Clk) with refs := [(7, r)], swRun := 2, holdFrom := some 7200000000 } }
theorem witness_ReferencesAndDpll : (refDev {} 2).refOn 7 = true ∧ (refDev {} 2).refOn 27 = false ∧ (refDev {} 2).refPulse 7 = true ∧
    (refDev {} 2).refOffered 7 = true ∧ ((refDev {} 2).refRun 7).lastPulse = none ∧
    ((refDev { lastPulse := some 0 } 2).refRun 7).lastPulse = some 0 ∧ 799919999 < 0 + 799920000 ∧ 0 + 799920000 ≤ 799920000 ∧ 800080000 ≤ 0 + 800080000 ∧
    (refDev {} 2).refPulse 0 = false ∧ (refDev {} 2).refOn 0 = true ∧ ((refDev { wtrFrom := some 7200000000 } 2).refRun 7).wtrFrom = some 7200000000 ∧
    (refDev {} 2).dpll = dpllLocked ∧ 7200000000 + (refDev {} 2).get R.CLK_REFTIME_WTR 7 * 800000000 ≤ (refDev {} 2).sched.cyc ∧
    (refDev {} 3).dpll = dpllSwitch ∧ 2 ≤ (refDev {} 3).clk.swRun ∧ (refDev {} 2).clk.holdFrom = some 7200000000 ∧
    7200000000 + ((refDev {} 2).get R.CLK_HOLDT + 1) * 800000000 ≤ (refDev {} 2).sched.cyc ∧
    (refDev {} 2).get R.CLK_HOLDT + 1 = (refDev {} 2).get R.CLK_HOSPEC ∧ ({} : Chip).get R.CLK_HOLDT + 1 ≠ 2 ∧
    (refDev {} 2).clk.lockedAt + 8000000000 ≤ (refDev {} 2).sched.cyc ∧ 65970697 < (refDev {} 2).dpllFreq.natAbs := by decide +kernel
def clockDev : Chip := dev [(R.CLK_ROOTSTAT_XTALOK, 0, 1), (R.CLK_ROOTSTAT_PLLLOCK, 0, 1), (R.CLK_SWSTAT_BUSY, 0, 2 ^ 9), (R.CLK_PHPEND, 7, 500000)]
  { clk := { ({} : Clk) with goal := [(9, some 1)] } }
theorem witness_PhaseAndRoot : clockDev.Canonical ∧ (500000#32).toInt.natAbs ≤ 500000 ∧
    (ofField 32 (clockDev.get R.CLK_PHPEND 7) + (500000#32).toInt).natAbs ≤ 1000000 ∧ 500000 < (500001#32).toInt.natAbs ∧
    tget none clockDev.clk.goal 9 = some 1 ∧ clockDev.switching 9 = true ∧ clockDev.switching 0 = false ∧
    clockDev.on R.CLK_ROOTSTAT_XTALOK = true ∧ clockDev.clk.xtalFails = 0 ∧ clockDev.on R.CLK_ROOTSTAT_PLLLOCK = true ∧
    clockDev.clk.dead = false ∧ tabWf (fun _ => (0 : Int)) clockDev.clk.applied = true := ⟨dev_inv _ _, by decide +kernel⟩

/-! ### DRAM, NAND and Strand -/

def chanDev (l : List (Fld × Nat × Nat)) : Chip := dev ([(R.DRAM_MAPCFG_EN, 0, 1), (R.DRAM_CHCFG_EN, 15, 1), (R.DRAM_PPCFG_PANICTRY, 7, 2)] ++ l)
  { dram := { ({} : Dram) with delays := [(15, [8, -8])], rfm := [(15, 7)], panics := [(7, some (3, 0))] } }
theorem witness_DramUpkeep : (chanDev []).chanOn 15 = true ∧ (chanDev []).dramOpen = true ∧ (chanDev []).chanOn 0 = false ∧
    ([8, -8] : List Int).getD 0 0 = 8 ∧ 8 < ([9, 0] : List Int).getD 0 0 ∧ ([0, -9] : List Int).getD 1 0 < -8 ∧
    ([8, -8] : List Int).getD 1 0 = -8 ∧ (15, 7) ∈ (chanDev []).dram.rfm ∧ (0, 0) ∉ (chanDev []).dram.rfm ∧
    pairRefreshed (chanDev []).ringPos 7 = false ∧ tget none (chanDev []).dram.panics 7 = some (3, 0) ∧
    0 + 1 < max 1 ((chanDev []).get R.DRAM_PPCFG_PANICTRY 7) ∧ max 1 (({} : Chip).get R.DRAM_PPCFG_PANICTRY 7) ≤ 0 + 1 ∧
    (8 : Int).natAbs ≤ 8 := by decide +kernel
theorem witness_DramUpkeep_seam : ({} : Chip).runningPlanes = [] ∧ (planeIn { phase := .body }).runningPlanes ≠ [] ∧
    ({} : Chip).on R.DRAM_FREQSTAT_SEAM = false ∧ (chanDev [(R.DRAM_FREQSTAT_SEAM, 0, 1)]).on R.DRAM_FREQSTAT_SEAM = true ∧
    (chanDev [(R.DRAM_FREQSTAT_SEAM, 0, 1), (R.PWR_PWRSTAT_BUSY, 0, 1)]).seamOver.pwrBusy = true ∧
    ({ pwr := { ({} : Pwr) with seam := some true } } : Chip).pwr.seam.isSome = true ∧
    ({ sched := { ({} : Sched) with cyc := 51200 } } : Chip).dram.seamFrom + 51200 ≤ 51200 ∧ ({} : Chip).sched.cyc < ({} : Chip).dram.seamFrom + 51200 := by
  decide +kernel
def nandDev : Chip := dev [(R.REEL_REELSTAT_MIRROR, 0, 1)]
  { sched := { ({} : Sched) with cyc := 8000000000 }, svc := { ({} : Svc) with accImgs := [{}] },
    nand := { ({} : Nand) with refresh := [5], logPage := [{}], logAt := some 0, reelAt := some 7200000000,
                               dir := { map := [(9, { blocks := [5], spares := [7] })] }, copies := (some {}, none) } }
theorem witness_NandStore : nandDev.on R.NAND_STORESTAT_SCRUBRUN = false ∧ (dev [(R.NAND_STORESTAT_SCRUBRUN, 0, 1)]).on R.NAND_STORESTAT_SCRUBRUN = true ∧
    (dev [(R.NAND_PARTSTAT_WRITING, 9, 1)]).on R.NAND_PARTSTAT_WRITING 9 = true ∧ 5 ∈ nandDev.nand.refresh ∧ 7 ∉ nandDev.nand.refresh ∧
    nandDev.partOf 5 = some 9 ∧ nandDev.bestSpare 9 5 = some 7 ∧ (nandDev.nandBlock 5).erases < nandDev.anchor.endlim ∧
    nandDev.anchor.endlim ≤ ({ erases := 20000 } : NandBlock).erases ∧ 59 < nandDev.anchor.refth ∧
    tabWf (fun _ => ({} : NandBlock)) nandDev.nand.blocks = true ∧ validDir nandDev.nand.copies = some {} ∧ validDir (none, none) = none ∧
    nandDev.nand.logAt = some 0 ∧ 0 + 8000000000 ≤ nandDev.sched.cyc ∧ nandDev.nand.logPage ≠ [] ∧ nandDev.nand.logStopped = false ∧
    nandDev.nand.reelAt = some 7200000000 ∧ 7200000000 + 800000000 ≤ nandDev.sched.cyc ∧ nandDev.imagesWait = true ∧
    ({} : Chip).imagesWait = false := by decide +kernel
/-- The golden slot 2 is being read in the boot, and nothing of the store has been read yet; a scrub pass runs. -/
def bootNand : Chip :=
  let d : DirRec := { map := [(9, { blocks := [5], spares := [] })] }
  let n : Nand := { noCount := true, tokDue := 1, goldDue := 1, scrubbed := 1, refresh := [5], dir := d }
  dev [(R.NAND_STORESTAT_SCRUBRUN, 0, 1)] { boot := { ({} : Boot) with slot := some 5 }, nand := n }
theorem witness_NandStore_reads : bootNand.boot.slot.isSome = true ∧ bootNand.boot.complete = false ∧ bootNand.nand.noCount = true ∧
    bootNand.boot.hdrOk = false ∧ bootNand.sched.cyc < bootNand.nand.tokDue ∧ bootNand.sched.cyc < bootNand.nand.goldDue ∧
    nandDev.nand.tokDue ≤ nandDev.sched.cyc ∧ nandDev.nand.goldDue ≤ nandDev.sched.cyc ∧
    bootNand.on R.NAND_STORESTAT_SCRUBRUN = true ∧ bootNand.sched.cyc < bootNand.nand.scrubFrom + bootNand.nand.scrubbed * 12500000 ∧
    ({} : Chip).nand.scrubFrom + ({} : Chip).nand.scrubbed * 12500000 ≤ ({} : Chip).sched.cyc ∧
    bootNand.partOf 5 = some 9 ∧ bootNand.on R.NAND_PARTSTAT_WRITING 9 = false ∧ bootNand.bestSpare 9 5 = none := by decide +kernel
/-- Group 63 of one lane, in a state of its bring-up at cycle 8·10⁹. -/
def strDev (state : Nat) (q : StrGroup) (l : List (Fld × Nat × Nat) := []) : Chip :=
  dev ([(R.STR_GRPCFG_EN, 63, 1), (R.STR_GRPSTAT_STATE, 63, state), (R.STR_GRPSTAT_RATE, 63, 3), (R.STR_GRPSTAT_VER, 63, 2)] ++ l)
    { sched := { ({} : Sched) with cyc := 8000000000 }, str := { ({} : Str) with groups := [(63, q)] } }
def tset16 : List Byte := [0xBC, 0xA1, 0, 0x10, 0x12, 0xF, 0, 0, 0, 0, 0, 0, 0x92, 0x21, 0, 0x1F]
theorem witness_StrandBringUp : (strDev 0 {}).Canonical ∧ (strDev 0 {}).grpOf 63 = some 63 ∧ (strDev 0 {}).grpState 63 = strDetect ∧
    (strDev 0 {}).clk.dead = false ∧ ((strDev 0 {}).grpLanes 63).all (fun m => ((strDev 0 {}).setB R.STR_LANESTAT_RXDET 63 true).on R.STR_LANESTAT_RXDET m) = true ∧
    ((strDev 0 {}).grpLanes 63).all (fun m => ((strDev 0 {}).setB R.STR_LANESTAT_RXDET 63 false).on R.STR_LANESTAT_RXDET m) = false ∧
    tsValid tset16 = true ∧ tsValid (tset16.take 15) = false ∧ (strDev 6 {}).grpState 63 = strActive ∧ (strDev 7 {}).grpState 63 = strIdle ∧
    (strDev 1 {}).grpState 63 = strLock ∧ (strDev 7 {}).grpUp 63 = true ∧
    (strDev 7 {} [(R.STR_LANESTAT_EI, 63, 1)]).on R.STR_LANESTAT_EI 63 = true := ⟨dev_inv _ _, by decide +kernel⟩
theorem witness_StrandBringUp_timed : (strDev 1 {}).grpOn 63 = true ∧ (strDev 1 {}).grpUp 63 = false ∧
    ((strDev 1 {}).grp 63).from0 + (strDev 1 {}).stepLimit 63 ≤ (strDev 1 {}).sched.cyc ∧ ((strDev 1 { retrain := true, fails := 1 }).grp 63).fails < 2 ∧
    2 ≤ ((strDev 1 { retrain := true, fails := 2 }).grp 63).fails ∧
    (strDev 1 { from0 := 8000000000 }).sched.cyc < ((strDev 1 { from0 := 8000000000 }).grp 63).from0 + (strDev 1 { from0 := 8000000000 }).stepLimit 63 ∧
    (strDev 3 {}).grpState 63 = strStepUp ∧ 0 < (strDev 3 {}).get R.STR_GRPSTAT_RATE 63 ∧ (strDev 4 {}).grpState 63 = strTaps ∧
    ((strDev 1 { failAt := some 7200000000, cfgFail := true }).grp 63).failAt = some 7200000000 ∧ 7200000000 + 800000000 ≤ (strDev 1 {}).sched.cyc ∧
    ((strDev 1 {}).grp 63).failAt = none ∧ (strDev 5 {}).grpState 63 = strDeskew ∧ ((strDev 5 { amRun := 2 }).grp 63).amRun < 3 ∧
    3 ≤ ((strDev 5 { amRun := 3 }).grp 63).amRun ∧ ([128] : List Nat).all (fun x => decide (x ≤ 128)) = true ∧
    ([129] : List Nat).all (fun x => decide (x ≤ 128)) = false ∧ tabWf (fun _ => ({} : StrGroup)) (strDev 1 { fails := 1 }).str.groups = true ∧
    (strDev 6 {} [(R.STR_GRPCFG_EIALLOW, 63, 1)]).on R.STR_GRPCFG_EIALLOW 63 = true ∧ bit ((strDev 6 { caps := 2 }).grp 63).caps 1 = true ∧
    ((strDev 6 { caps := 2 }).grp 63).lastTx + 256 * 16 ≤ (strDev 6 {}).sched.cyc ∧ ((strDev 7 {}).grp 63).retrainAfter = false := by decide +kernel
/-- A frame of type 0x3E with an empty payload and sequence number 0. -/
def strFrame : StrandFrame :=
  let h : List Byte := leBytes 2 (0x3E * 1024) ++ leBytes 2 0 ++ leBytes 2 0
  { bytes := h ++ leBytes 4 (strandCrc false 0 h).toNat }
theorem witness_StrandFrames : strFrame.errLanes = [] ∧ ((strDev 6 {}).grp 63).waitAm = false ∧
    strFrame.bytes.length = 10 + leAt strFrame.bytes 4 2 % 8192 ∧ extendSeq ((strDev 6 {}).grp 63).rxSeq (leAt strFrame.bytes 2 2) = 0 ∧
    (strandCrc ((strDev 6 {}).get R.STR_GRPSTAT_VER 63 == 0) 0 (strFrame.bytes.take 6)).toNat = leAt strFrame.bytes 6 4 ∧
    later 32 ((strDev 6 {}).grp 63).rxSeq 0 = false ∧ later 32 ((strDev 6 { rxSeq := 1 }).grp 63).rxSeq 0 = true ∧
    (strDev 6 {}).typeAllowed 63 (leAt strFrame.bytes 0 2 / 1024) = true ∧ (strDev 6 {}).typeAllowed 63 8 = false ∧
    (strDev 6 {}).typeAllowed 63 2 = true ∧ (strDev 6 {}).flowBound 63 2 1023 = false ∧
    bit ((strDev 6 { caps := 16 }).grp 63).caps 4 = true := by decide +kernel

/-! ### The service complex and the Reel -/

/-- Core 15 with an in-service stack; source 1023, of priority 3, is pending for it. -/
def coreDev (stack : List Nat) (l : List (Fld × Nat × Nat) := []) : Chip :=
  dev ([(R.SVC_SRCCFG_EN, 1023, 1), (R.SVC_SRCCFG_PRIO, 1023, 3), (R.SVC_SRCCFG_TARGET, 1023, 15), (R.SVC_SRCSTAT_PEND, 1023, 1),
    (R.SVC_THRESH, 15, 2), (R.SVC_SRCCFG_PRIO, 7, 2), (R.SVC_SRCCFG_EN, 7, 1), (R.SVC_SRCSTAT_LEVEL, 7, 1),
    (R.SVC_SRCCFG_MASK, 7, 0), (R.SVC_SRCCFG_MASK, 1023, 0)] ++ l)
    { svc := { ({} : Svc) with cores := [(15, { stack := stack })] } }
theorem witness_InServiceStack : (coreDev [7]).Canonical ∧ tabWf (fun _ => ({} : CoreRun)) (coreDev [7]).svc.cores = true ∧
    (coreDev [7]).deliverable 1023 = true ∧ (coreDev [7]).toCore 1023 = true ∧ (coreDev [7]).get R.SVC_SRCCFG_TARGET 1023 = 15 ∧
    (coreDev [7]).on R.SVC_SRCCFG_FAST 1023 = false ∧ (coreDev [7]).get R.SVC_THRESH 15 < (coreDev [7]).srcPrio 1023 ∧
    (coreDev [7]).srcPrio 7 < (coreDev [7]).srcPrio 1023 ∧ (coreDev [7]).pendingSrcs = [1023] ∧ ((coreDev [7]).core 15).stack = [7] ∧
    (coreDev [7]).on R.SVC_CORESTAT_INFAST 15 = false ∧ (coreDev [7] [(R.SVC_CORESTAT_INFAST, 15, 1)]).on R.SVC_CORESTAT_INFAST 15 = true ∧
    8 ≤ ((coreDev [0, 1, 2, 3, 4, 5, 6, 7]).core 15).stack.length ∧ ((coreDev [0, 1, 2, 3, 4, 5, 6]).core 15).stack.length < 8 ∧
    (coreDev [7]).get R.SVC_SRCCFG_SENSE 7 = 0 ∧ (coreDev [7]).on R.SVC_SRCCFG_EN 7 = true ∧ (coreDev [7]).on R.SVC_SRCSTAT_LEVEL 7 = true ∧
    (coreDev [7]).masked 7 = false ∧ bits (7#32).toNat 9 0 = 7 ∧ bits (1023#32).toNat 9 0 ≠ 7 ∧ (coreDev []).core 15 = {} :=
  ⟨dev_inv _ _, by decide +kernel⟩
def sourceDev : Chip := dev [(R.SVC_SRCCFG_KIND, 1023, 2), (R.SVC_COALCFG_COALUS, 1023, 1), (R.SVC_STORMCFG_LEVELMAX, 1023, 1),
    (R.SVC_SRCCFG_EN, 1023, 1), (R.SVC_SRCSTAT_LEVEL, 1023, 1), (R.SVC_WQCFG_EN, 255, 1), (R.SVC_CORESTAT_HOLDING, 15, 1), (R.SVC_WQTIME_ITEMUS, 0, 1)]
  { sched := { ({} : Sched) with cyc := 1600000000 },
    svc := { ({} : Svc) with srcs := [(1023, { accumAt := some 1599999200 })], queues := [(255, { items := [{}], waitFrom := some 0 })],
                             cores := [(14, { late := true }), (15, { offer := some 255 })] } }
theorem witness_InterruptsAndItems : sourceDev.toCore 1023 = false ∧ sourceDev.toCore 0 = true ∧ sourceDev.get R.SVC_SRCCFG_TARGET 0 < 16 ∧
    (sourceDev.src 1023).accumAt = some 1599999200 ∧ 1599999200 + sourceDev.get R.SVC_COALCFG_COALUS 1023 * 800 ≤ sourceDev.sched.cyc ∧
    sourceDev.get R.SVC_COALCFG_COALUS 0 = 0 ∧ sourceDev.get R.SVC_COALCFG_COALCNT 0 ≤ 1 ∧ sourceDev.get R.SVC_STORMCFG_EDGEMAX 1023 = 0 ∧
    (sourceDev.src 1023).winFrom + max 1 (sourceDev.get R.SVC_ICGLOBAL_STORMWIN) * 800000 ≤ sourceDev.sched.cyc ∧
    ({} : Chip).sched.cyc < (({} : Chip).src 0).winFrom + max 1 (({} : Chip).get R.SVC_ICGLOBAL_STORMWIN) * 800000 ∧
    sourceDev.on R.SVC_SRCCFG_EN 1023 = true ∧ sourceDev.get R.SVC_SRCCFG_SENSE 1023 = 0 ∧ sourceDev.on R.SVC_SRCSTAT_LEVEL 1023 = true ∧
    sourceDev.get R.SVC_STORMCFG_LEVELMAX 1023 ≠ 0 ∧ sourceDev.on R.SVC_SRCSTAT_STORM 1023 = false ∧
    (sourceDev.src 1023).heldFrom + sourceDev.get R.SVC_STORMCFG_LEVELMAX 1023 * 800000 < sourceDev.sched.cyc ∧
    sourceDev.get R.SVC_SRCCFG_KIND (bits (1023#32).toNat 9 0) = 2 ∧ sourceDev.get R.SVC_SRCCFG_KIND 0 ≠ 2 ∧ sourceDev.queueRoom 255 = false ∧
    (dev [(R.SVC_WQCFG_EN, 255, 1)]).queueRoom 255 = true ∧ (sourceDev.queue 255).waitFrom = some 0 := by decide +kernel
theorem witness_InterruptsAndItems_cores : 0 + sourceDev.get R.SVC_WQTIME_AFFWAIT 255 * 800 ≤ sourceDev.sched.cyc ∧
    (sourceDev.core 15).offer = some 255 ∧ (sourceDev.queue 255).items = [{}] ∧ (sourceDev.core 0).offer = none ∧
    sourceDev.on R.SVC_CORESTAT_HOLDING 15 = true ∧ (sourceDev.core 15).late = false ∧ (sourceDev.core 14).late = true ∧
    (sourceDev.core 14).takenAt + sourceDev.itemUs (sourceDev.get R.SVC_CORESTAT_LASTQ 14) * 800 + 800000000 ≤ sourceDev.sched.cyc ∧
    (coreDev [7] [(R.SVC_CORESTAT_INFAST, 15, 1)]).on R.SVC_CORESTAT_INFAST 15 = true ∧ sourceDev.svc.doneAt + 1600000000 ≤ sourceDev.sched.cyc ∧
    sourceDev.svc.queues.map (fun q => q.2.items) ≠ [[]] ∧ ({} : Chip).sched.cyc < ({} : Chip).svc.doneAt + 1600000000 := by decide +kernel
/-- Rings of 16 slots; command 0x0001 of the token 5 stands on chip as sequence 9. -/
def ringDev (l : List (Fld × Nat × Nat) := []) : Chip := dev ([(R.SVC_RINGCFG_EN, 0, 1), (R.SVC_RINGCFG_LOG2, 0, 4), (R.REEL_RDSEQLO, 0, 9),
    (R.REEL_TOKLO, 0, 5), (R.REEL_OLDLO, 0, 9)] ++ l)
  { svc := { ({} : Svc) with sqTail := 1, cqNext := 15, reel := [{ seq := 9, token := 5, origin := 1 }] } }
theorem witness_RingsAndReel : (ringDev []).Canonical ∧ (ringDev []).ringsOn = true ∧ ({} : Chip).ringsOn = false ∧ bit (0x8000000C#32).toNat 31 = true ∧
    4 ≤ (0x80000004#32).toNat % 16 ∧ (0x8000000C#32).toNat % 16 ≤ 12 ∧ (ringDev []).ringHeld = 15 ∧
    (15 % 4096 % (ringDev []).ringSize + (ringDev []).ringSize - (ringDev []).svc.cqHead) % (ringDev []).ringSize ≤ (ringDev []).ringHeld ∧
    ({ ringDev [] with svc := { (ringDev []).svc with cqNext := 14 } } : Chip).ringHeld < 15 ∧
    (ringDev [(R.REEL_RDSTAT_BUSY, 0, 1)]).on R.REEL_RDSTAT_BUSY = true ∧ (ringDev []).on R.REEL_RDSTAT_BUSY = false ∧
    (((ringDev []).set R.REEL_RDSEQHI 0 0).reelEntry ((ringDev []).set R.REEL_RDSEQHI 0 0).reelRdseq).isSome = true ∧
    (ringDev [(R.REEL_RDSEQLO, 0, 8)]).reelEntry 8 = none ∧ 8 < (ringDev []).get2 R.REEL_OLDLO R.REEL_OLDHI ∧
    (ringDev []).get2 R.REEL_TOKLO R.REEL_TOKHI = 5 := ⟨dev_inv _ _, by decide +kernel⟩
/-- A message of a code. -/
def msg (code : Nat) : CmdMsg := { head := leBytes 2 code ++ List.replicate 62 0 }
theorem witness_HostCommands : ({} : Chip).ringsOn = false ∧ (ringDev []).get R.SVC_SQHEAD ≠ (ringDev []).svc.sqTail ∧
    ({ ringDev [] with svc := { (ringDev []).svc with cqNext := 14 } } : Chip).ringRoom = true ∧ (ringDev []).svc.posts = [] ∧
    codeFits (msg 0) .hello = true ∧ codeFits (msg 0x101) (.variant 15) = true ∧
    (ringDev []).step1 1 (msg 0x101) (.variant 15) = some 0x10 ∧
    ({ svc := { ({} : Svc) with hello := true } } : Chip).step1 1 (msg 0x701) (.logRead 0 0 0) = none ∧
    128 ≤ (List.replicate 128 0).length ∧ unjournaled (.variant 0) = false ∧
    (tget none ({} : Chip).svc.mgmtCnt 255) = none ∧ (dev [(R.SEC_KSSTAT_TYPE, 255, 2)]).get R.SEC_KSSTAT_TYPE 255 = 2 := by decide +kernel

/-! ### Safety, security, power -/

/-- Every domain free of reactions, planes in air; one fault in the inbox. -/
def safDev (level : Nat) (l : List (Fld × Nat × Nat) := []) : Chip :=
  dev ([(R.GLB_BOOTSTAT_INAIR, 0, 1), (R.SAF_COLSTAT_PTAGE, 15, 39)] ++ l)
    { sched := { cyc := 48000000000 }, saf := { ({} : Saf) with inbox := [{}], visitAt := some 48000000000, reacts := [{ level := level }] } }
theorem witness_Collector : (safDev 2).Canonical ∧ (safDev 2).saf.inbox = [{}] ∧ ({} : Chip).saf.inbox = [] ∧
    (safDev 2).on R.GLB_BOOTSTAT_INAIR = true ∧ (safDev 2).safLevel < 3 ∧ 3 ≤ (safDev 3).safLevel ∧ ({} : Chip).on R.GLB_BOOTSTAT_INAIR = false ∧
    (safDev 2).saf.visitAt = some 48000000000 ∧ 48000000000 ≤ (safDev 2).sched.cyc ∧ (safDev 2).on R.SAF_PTSTAT_PAUSED = false ∧
    ({} : Chip).saf.visitAt = none ∧ (safDev 2 [(R.SAF_PTSTAT_PAUSED, 0, 1)]).on R.SAF_PTSTAT_PAUSED = true ∧
    (safDev 2).saf.minuteAt ≤ (safDev 2).sched.cyc ∧ (safDev 2).colRetired 15 = false ∧ 39 ≤ (safDev 2).get R.SAF_COLSTAT_PTAGE 15 ∧
    (safDev 2).get R.SAF_COLSTAT_PTAGE 15 < 65534 ∧ ({} : Chip).sched.cyc < ({} : Chip).saf.minuteAt := ⟨dev_inv _ _, by decide +kernel⟩
/-- A public key: the generator of P-384, whose private key is 1, x then y, most significant byte first. -/
def bytes48 (n : Nat) : List Byte := (List.range 48).map (fun i => BitVec.ofNat 8 (n / 256 ^ (47 - i)))
def genKey : List Byte := bytes48 p384Gx ++ bytes48 p384Gy
/-- Words of the SHA-384 of that key, least significant byte first. -/
def keyWords : List Nat := [2974653857, 3951211889, 3484439168, 2028033509, 3508710036, 158837192, 3632097616, 4208105207, 1789259851, 3070623960,
  434178282, 1699447071]
/-- A device in lifecycle state lcs at debug level lvl, whose keys KH0 and KH1 are that hash and serve every role. -/
def secDev (lcs lvl : Nat) (t : Option (List Byte) := none) (l : List (Fld × Nat × Nat) := []) : Chip :=
  dev ([(R.SEC_LCSTAT_LCS, 0, lcs), (R.SEC_DBGSTAT_LEVEL, 0, lvl), (R.SEC_LCSTAT_KVALID, 0, 3), (R.SEC_KROLE, 0, 255)] ++
    (keyWords.zipIdx.flatMap fun (w, i) => [(R.SEC_KHASH, i, w), (R.SEC_KHASH, 16 + i, w)]) ++ l)
    { sec := { ({} : Sec) with nonceAt := some 0, token := t, lockAt := 0, fails := [0, 1] } }
/-- A token or request: its first four bytes and 1 s, in zeros, with two blocks of that key and a signature (r, the generator's x; s). -/
def req (l : List Byte) (sig : Nat := 0) : List Byte :=
  let block := genKey ++ bytes48 p384Gx ++ bytes48 sig
  l ++ [1] ++ List.replicate 43 0 ++ block ++ List.replicate 16 0 ++ block
/-- The signatures of a debug token for D1, of DEPLOY and of RMA under the private key 1, worked out outside the model. -/
def sigToken : Nat := 0xeb53e998376a955c133af449445337f4a655821480e29ae74b68d0b8bf002f91bfcedf4e9cbe49f739638a0a52e08219
def sigDeploy : Nat := 0x3f091b8b13245d4854658c211b7d99e19c00c19855ff17cf9b316bec15c0b2d44f4ea41a955232c3414b1eb37cddd44e
def sigRma : Nat := 0xceb4c1c77d2e070a7aeac0644c94654a69c1ba5a88c528e5ded9bf5d00c33e82bcf98b92d5d2f53b1c8b75d980ad620a
theorem witness_SecurityCommands : (secDev 1 0).Canonical ∧ (secDev 1 0).on R.SEC_DBGSTAT_LOCKOUT = false ∧
    (secDev 1 0).get R.PWR_PWRSTAT_STATE ≠ 3 ∧ (secDev 1 0 none [(R.SEC_DBGSTAT_LOCKOUT, 0, 1)]).on R.SEC_DBGSTAT_LOCKOUT = true ∧
    (secDev 1 0 none [(R.PWR_PWRSTAT_STATE, 0, 3)]).get R.PWR_PWRSTAT_STATE = 3 ∧ (secDev 1 0).sec.token = none ∧
    (secDev 1 0).tokenOk (req [1, 1, 0, 0] sigToken) = true ∧ leAt (req [1, 1, 0, 0]) 0 1 = 1 ∧ (secDev 1 0).dbgLevel = 0 ∧
    (secDev 1 0).tokenOk (req [1, 0, 0, 0]) = false ∧ (secDev 0 0).tokenOk (req [2, 1, 0, 0]) = true ∧ (secDev 0 0).dbgLevel = 0 ∧
    (secDev 0 2).tokenOk (req [1, 1, 0, 0]) = true ∧ (secDev 0 2).dbgLevel = 2 ∧ (secDev 1 2).dbgLevel = 2 ∧ leAt (req [2, 1, 0, 0]) 0 1 = 2 ∧
    ((secDev 1 0).sec.fails.filter (fun t => decide ((secDev 1 0).sched.cyc ≤ t + 48000000000))).length = 2 ∧
    (secDev 1 0 none [(R.SEC_DBGSTAT_PENDING, 0, 1), (R.PWR_PWRSTAT_STATE, 0, 2)]).on R.SEC_DBGSTAT_PENDING = true ∧
    (secDev 1 0 none [(R.SEC_DBGSTAT_PENDING, 0, 1), (R.PWR_PWRSTAT_STATE, 0, 2)]).pwrState = 2 ∧ (secDev 1 0).runningPlanes = [] ∧ (secDev 1 0).on R.SEC_DBGSTAT_PENDING = false ∧
    (secDev 1 2).sec.endAt ≤ (secDev 1 2).sched.cyc ∧ ({} : Chip).sched.cyc < ({ sec := { ({} : Sec) with endAt := 1 } } : Chip).sec.endAt ∧
    0 + 48000000000 ≤ (safDev 2 [(R.SEC_DBGSTAT_LOCKOUT, 0, 1)]).sched.cyc ∧ (safDev 2 [(R.SEC_DBGSTAT_LOCKOUT, 0, 1)]).sec.lockAt = 0 ∧
    (secDev 1 0).sched.cyc < (secDev 1 0).sec.lockAt + 48000000000 := ⟨dev_inv _ _, by decide +kernel⟩
theorem witness_SecurityCommands_lifecycle : (secDev 0 3).lcs = 0 ∧ (secDev 0 3).dbgLevel = 3 ∧ (secDev 0 3).sec.lc = none ∧
    leAt (req [0x11, 0, 0, 0]) 0 1 = 0x11 ∧ (secDev 0 3).headerOk (req [0x11, 0, 0, 0]) = true ∧ (secDev 1 0).lcs ≠ 0 ∧ (secDev 1 0).lcs = 1 ∧
    leAt (req [0x12, 1, 0, 0]) 0 1 = 0x12 ∧ (secDev 1 0).headerOk (req [0x12, 1, 0, 0]) = true ∧ leAt (req [0x12, 1, 0, 0]) 1 1 = 1 ∧
    (secDev 1 0).keyOk 1 3 (slice (req [0x12, 1, 0, 0]) 0x30 96) = true ∧ (secDev 2 0).lcs = 2 ∧
    leAt (req [0x13, 1, 0, 0] sigRma) 0 1 = 0x13 ∧ (secDev 2 0).headerOk (req [0x13, 1, 0, 0] sigRma) = true ∧
    (secDev 2 0).keyOk 0 3 (slice (req [0x13, 1, 0, 0] sigRma) 0x30 96) = true ∧
    (secDev 2 0).keyOk 1 3 (slice (req [0x13, 1, 0, 0] sigRma) 0x100 96) = true := by decide +kernel
theorem witness_SecurityCommands_signed : headerSigned (req [0x12, 1, 0, 0] sigDeploy) 0x30 = true ∧
    headerSigned (req [0x13, 1, 0, 0] sigRma) 0x30 = true ∧ headerSigned (req [0x13, 1, 0, 0] sigRma) 0x100 = true := by decide +kernel
/-- Plane 3 has drained. -/
def drained : Chip := { sched := { planes := [(3, { phase := .body, stopTurn := some 5, t := 9, drainAt := 9 })] } }
def offWait : Chip := dev [(R.PWR_PWRSTAT_STATE, 0, 3), (R.PWR_PWRSTAT_TARGET, 0, 4), (R.PWR_PWRSTAT_BUSY, 0, 1)]
theorem witness_DebugAndPowerEnds : (secDev 1 1).dbgLevel = 1 ∧ (secDev 1 2).dbgLevel = 2 ∧ (secDev 1 3).dbgLevel = 3 ∧ drained.Canonical ∧
    tabWf (fun _ => ({} : Engine)) (secDev 1 2).spn.eng = true ∧ debugOnly 0x15001BC = false ∧ debugOnly 0x1500140 = true ∧
    (drained.plane 3).stopTurn.isSome = true ∧ (drained.plane 3).drainAt ≤ (drained.plane 3).t ∧ (drained.plane 3).phase ≠ .stopped ∧
    (({} : Chip).plane 3).stopTurn = none ∧ offWait.pwrState = 3 ∧ offWait.pwrTarget = 4 ∧ offWait.pwrBusy = true ∧
    (dev [(R.PWR_PWRSTAT_BUSY, 0, 0)]).pwrBusy = false := by
  refine ⟨by decide +kernel, by decide +kernel, by decide +kernel, ⟨rfl, rfl⟩, by decide +kernel⟩

/-! ### The pair -/

/-- A pair member of a role, at 30 ms, with path A in group 63 and both paths up; plane 3 is its reference plane. -/
def plyDev (role : Nat) (l : List (Fld × Nat × Nat) := []) (p : Ply := {}) (t : Nat := 0) : Chip :=
  dev ([(R.PLY_PLYCFG_EN, 0, 1), (R.PLY_PLYCFG_MODE, 0, 2), (R.PLY_PLYCFG_GROUP, 0, 63), (R.STR_GRPSTAT_STATE, 63, 6), (R.PLY_PLYSTAT_ROLE, 0, role),
    (R.PLY_PLYSTAT_PATHA, 0, 1), (R.PLY_PLYSTAT_PATHB, 0, 1), (R.PLY_PLYCFG_REFPLANE, 0, 3), (R.SEQ_PLANECFG_RATE, 3, 2), (R.PLY_PLYCFG_REVERT, 0, 1),
    (R.PLY_PLYCFG_PRIMARY, 0, 1), (R.PLY_PLYSTAT_CLEAN, 0, 120)] ++ l)
    { sched := { ({} : Sched) with cyc := 24000000, planes := [(0, { t := 23999999, phase := .body }), (3, { index := t, t := 23999999, phase := .body })] }, ply := p }
theorem witness_PairAndLease : (plyDev 1).Canonical ∧ (plyDev 1).plyOn = true ∧ (plyDev 1).role = roleHolder ∧ ({} : Chip).plyOn = false ∧
    (plyDev 4).role = roleSolo ∧ (plyDev 1).grpUp (plyDev 1).pathGroup = true ∧ (plyDev 1).clk.dead = false ∧ ({} : Chip).grpUp ({} : Chip).pathGroup = false ∧
    (plyDev 1).wordValid 1 false = false ∧ (plyDev 1).wordValid (pathWord 0x7F8000) false = true ∧
    ({} : Chip).sched.cyc < ({} : Chip).ply.lastA + 240000 ∧ ({} : Chip).sched.cyc < ({} : Chip).ply.lastB + 240000 ∧
    (plyDev 1).on R.PLY_PLYSTAT_PATHA = true ∧ (plyDev 1).ply.lastA + 240000 ≤ (plyDev 1).sched.cyc ∧ (plyDev 1).on R.PLY_PLYSTAT_PATHB = true ∧
    (plyDev 1).ply.lastB + 240000 ≤ (plyDev 1).sched.cyc ∧ (plyDev 1 [(R.PLY_PLYSTAT_PATHB, 0, 0)]).on R.PLY_PLYSTAT_PATHB = false ∧
    (plyDev 1 [(R.PLY_PLYSTAT_PATHB, 0, 0)]).on R.PLY_PLYSTAT_PATHA = true ∧ (plyDev 1 [(R.PLY_PLYSTAT_PATHA, 0, 0)]).on R.PLY_PLYSTAT_PATHA = false ∧
    (plyDev 1 [] { sent := [(7, 8000000)] }).ply.sent = [(7, 8000000)] ∧ (plyDev 1).healthy = true ∧ 20000000 + 4000000 ≤ (plyDev 1).sched.cyc ∧
    (plyDev 1).sched.cyc < 20000001 + 4000000 ∧ 8000000 + 16000000 ≤ (plyDev 1).sched.cyc ∧ (plyDev 1).sched.cyc < 8000001 + 16000000 ∧
    (plyDev 2).role = roleOther ∧ (plyDev 2 [] { failover := true }).ply.failover = true ∧ (plyDev 2).ply.seenAt + 17600000 ≤ (plyDev 2).sched.cyc ∧
    (plyDev 0 [] { resolveAt := some 6400000 }).role = roleResolving ∧ (plyDev 0 [] { resolveAt := some 6400000 }).ply.resolveAt = some 6400000 ∧
    6400000 + 17600000 ≤ (plyDev 0).sched.cyc ∧ (plyDev 0).ply.runA = 0 ∧ (plyDev 0).ply.runB = 0 ∧
    (plyDev 1 [] { transfer := some (0, false) }).refTime 0 ≤ (plyDev 1).refNs + 500000 ∧
    (plyDev 1).refNs + 500000 < (plyDev 1).refTime 1 := ⟨dev_inv _ _, by decide +kernel⟩
theorem witness_PairControl : leAt [(1 : Byte), 0x10, 0x11, 5, 0, 0, 0] 0 1 = 1 ∧ max (leAt [(1 : Byte), 0x10, 0x11] 1 1) 0x10 ≤ min (leAt [(1 : Byte), 0x10, 0x11] 2 1) 0x11 ∧
    min (leAt [(1 : Byte), 0x12, 0x12] 2 1) 0x11 < max (leAt [(1 : Byte), 0x12, 0x12] 1 1) 0x10 ∧ ({} : Chip).ply.want = false ∧
    (plyDev 1 [(R.PLY_PLYSTAT_PARTNER, 0, 1), (R.PLY_PLYSTAT_WARM, 0, 1)] { want := true }).mayTransfer = true ∧
    (plyDev 1 [] { want := true }).ply.want = true ∧ (plyDev 1 [] { want := true }).mayTransfer = false ∧
    (plyDev 1 [] { want := true, fenceAfter := true }).ply.fenceAfter = true ∧ (plyDev 2).ply.transfer = none ∧ (plyDev 2).refNs + 500000 ≤ (plyDev 2).refTime 2 ∧
    ((plyDev 2).turn (plyDev 2).refPlane : Int) + sdiff 40 2 ((plyDev 2).turn (plyDev 2).refPlane) = 2 ∧
    (plyDev 1 [] { transfer := some (0, true) }).ply.transfer = some (0, true) ∧ (plyDev 1).ply.moved.contains 0 = false ∧
    sdiff 40 ((plyDev 1).turn 0) ((plyDev 1).transferTurn 0 0) = 0 ∧ 0 ≠ (plyDev 1).refPlane ∧ (plyDev 1).ply.moved.contains (plyDev 1).refPlane = false ∧
    (plyDev 1).running (plyDev 1).refPlane = true ∧ (plyDev 1 [] { moved := [0] }).ply.moved.contains 0 = true ∧ sdiff 40 ((plyDev 1).turn 0) ((plyDev 1).transferTurn 0 1) < 0 ∧
    (plyDev 2).dualLeg = true ∧ (plyDev 1).ply.legs = none ∧ (plyDev 1).ply.legOut = (plyDev 1).on R.PLY_PLYSTAT_INSTEP ∧
    (plyDev 1 [(R.PLY_PLYSTAT_INSTEP, 0, 1)]).ply.legOut ≠ (plyDev 1 [(R.PLY_PLYSTAT_INSTEP, 0, 1)]).on R.PLY_PLYSTAT_INSTEP ∧
    ({} : Chip).dualLeg = false ∧ (plyDev 2).ply.forward = [] ∧ (plyDev 1 [] { forward := [(1, msg 0x101, .variant 1)] }).ply.forward = [(1, msg 0x101, .variant 1)] ∧
    codeFits (msg 0x101) (.variant 1) = true ∧ msgOk (msg 0x101) 0 (.variant 1) = true ∧ pairedCmd (.variant 1) = true ∧ cmdOrder (.power 1) = 8 ∧ cmdOrder (.variant 1) ≠ 8 ∧
    (plyDev 1 [] { mine := [{ ctx := 0, kind := 1, turn := 3, crc := 4 }] }).ply.mine.reverse ≠ [] ∧ (plyDev 2).ply.mine = [] := by decide +kernel
theorem witness_PairControl_copies : (plyDev 3).role = roleFenced ∧ (plyDev 2).role = roleOther ∧ (plyDev 1).role = roleHolder ∧
    (plyDev 2 [] { joining := true }).ply.joining = true ∧ (plyDev 2).ply.joining = false ∧ (plyDev 2).on R.PLY_PLYSTAT_PATHA = true ∧
    (List.range 4).all (fun p => !(plyDev 2).on R.SEQ_PLANECFG_EN p || (plyDev 2).running p) = true ∧ (plyDev 1).ply.transfer = none ∧
    (plyDev 1).on R.PLY_PLYSTAT_WARM = false ∧ (plyDev 1 [(R.PLY_PLYSTAT_WARM, 0, 1)]).on R.PLY_PLYSTAT_WARM = true ∧
    (plyDev 2).on R.PLY_PLYCFG_PRIMARY = true ∧ (plyDev 2).on R.PLY_PLYCFG_REVERT = true ∧ (plyDev 2).ply.hold = false ∧
    120 ≤ (plyDev 2).get R.PLY_PLYSTAT_CLEAN ∧ ({} : Chip).get R.PLY_PLYSTAT_CLEAN < 120 ∧ (plyDev 2 [] { hold := true }).ply.hold = true ∧
    (List.range 4).all (fun p => tget 0 ({} : Chip).ply.copyOut p == 0) = true ∧ tget 0 (plyDev 1 [] { copyOut := [(0, 1)] }).ply.copyOut 0 = 0 + 1 ∧
    (tget (0, []) (plyDev 1).ply.images 0).2.length ≤ 0 + 4032 ∧
    0 + 4032 < (tget (0, []) (plyDev 1 [] { images := [(0, (1, List.replicate 4033 0))] }).ply.images 0).2.length ∧
    (tget {} (plyDev 2).ply.copies 3).turn = leAt (3 :: List.replicate 40 (0 : Byte)) 4 4 ∧ (tget {} (plyDev 2).ply.copies 3).turn ≠ 1 % 2 ^ 32 ∧
    (tget {} (plyDev 2 [] { images := [(0, (7, [1]))], copies := [(0, { turn := 7, parts := [(0, [1])], total := 1 })] }).ply.copies 0).turn = 7 % 2 ^ 32 ∧ copyBytes {} = none ∧
    copyBytes { parts := [(0, [1])], total := 1 } = some [1] := by decide +kernel

/-! ### The well-formedness checks refuse -/

theorem test_wf_target : (Instr.runComplete 2 192).wf = false ∧ (Instr.runComplete 2 191).wf = true := by decide +kernel
theorem test_wf_message : (Instr.variant (msg 0x102) 1).wf = false ∧ (Instr.variant { head := [1, 1] } 1).wf = false ∧
    (Instr.variant (msg 0x101) 1).wf = true := by decide +kernel
theorem test_wf_lengths : (Instr.debugToken []).wf = false ∧ (Instr.debugToken (List.replicate 256 0)).wf = true ∧
    (Instr.provision []).wf = false ∧ (Instr.deploy [] []).wf = false ∧ (Instr.rma [] [] []).wf = false ∧
    (Instr.heartbeatRx ⟨[], 0⟩).wf = false ∧ (Instr.plyHello []).wf = false ∧ (Instr.plyJoin (some (.grant []))).wf = false ∧
    (Instr.plyForward (some (msg 0x102, .variant 1))).wf = false ∧ (Instr.stateCopyFrame (some ([], true))).wf = false := by decide +kernel
theorem test_wf_lists : (Instr.keyStoreCheck [3, 3]).wf = false ∧ (Instr.keyStoreCheck [3, 4]).wf = true ∧
    (Instr.registerWrite [{ who := .core 0, addr := 0x104 }]).wf = false ∧
    (Instr.registerWrite [{ who := .core 0, addr := 0x106, value := some 1 }]).wf = false ∧
    (Instr.registerWrite [{ who := .core 0, addr := 0x104, value := some 1 }]).wf = true := by decide +kernel
theorem test_wf_dram : (Instr.dramDynamicRequest { who := 0, addr := 0 , count := 0 }).wf = false ∧
    (Instr.dramDynamicRequest { who := 0, addr := 0, write := true, count := 2, data := [1] }).wf = false ∧
    (Instr.dramDynamicRequest { who := 0, addr := 0, write := true, count := 1, data := [1] }).wf = true := by decide +kernel
theorem test_wf_frames : (Instr.trainingSetRx 0 [] false none).wf = false ∧ (Instr.trainingSetRx 63 tset16 false none).wf = true ∧
    (Instr.alignmentMarkerRx 63 (List.replicate 17 0)).wf = false ∧ (Instr.alignmentMarkerRx 63 (List.replicate 16 0)).wf = true ∧
    (Instr.audioFrameRx 47 ⟨true, 0, 0, 0, []⟩).wf = false ∧ (Instr.audioFrameRx 47 ⟨true, 0, 0, 1, []⟩).wf = true := by decide +kernel
theorem test_wf_image_size (b : List Byte) (h : 268435456 < b.length) : (Instr.imageHeaderRead b).wf = false := by
  simp [Instr.wf, hostFits, imageWf, h]
theorem test_wf_section_size (p : Nat) (b : List Byte) (h : 268435456 < b.length) :
    (Instr.sectionStreamed { pos := p, stored := b }).wf = false := by
  simp [Instr.wf, hostFits, imageWf, h]
theorem test_wf_datagram_size (b : List Byte) (h : 65507 < b.length) :
    (Instr.mgmtDatagram { bytes := b, source := (0, 0), cmd := .hello }).wf = false := by
  simp [Instr.wf, hostFits, h]

/-! ### Values of the manual's tables and examples, and check codes worked out outside the model -/

/-- R37: Kₚ, MINCYC and MAXCYC of every rate, from the table. -/
theorem test_tail_bounds : (List.range 11).map (fun r => bodyRevolutions (frameRate r)) =
      [2036, 2034, 1952, 1628, 1627, 976, 814, 813, 488, 407, 406] ∧
    (List.range 11).map (fun r => minTail (frameRate r) (bodyRevolutions (frameRate r))) =
      [4537, 3974, 14209, 16276, 5995, 5953, 6986, 10038, 1825, 2341, 12059] ∧
    (List.range 11).map (fun r => maxTail (frameRate r) (bodyRevolutions (frameRate r))) =
      [12893, 12326, 22400, 23831, 13547, 12224, 12940, 15990, 7136, 7494, 17211] := by decide +kernel
/-- Chapter 06, the minimum rate of E1: four slices of 15 CTUs take 28,288 bits, and 36,288 bits a row need 147,912 kb/s. -/
theorem test_minimum_rate : floorBound true false [15, 15, 15, 15] = 28288 ∧ minRateKbps 36288 (1001000000000, 4080000) = 147912 := by
  decide +kernel
/-- Chapter 06, the alignment filler of E1: 193 periods of 90 kHz and 221 bytes. -/
theorem test_alignment_filler : initialDelay 200000 (2153284314, 1000) = (193, 221) := by decide +kernel
/-- Chapter 03, the record of E1: its first eight bytes. -/
theorem test_sheet_record : (sheetRecord 0 0 1 10625 245343 981373 2153284 20000 200000 147912).take 8 = [0, 0, 1, 0, 0x81, 0x29, 0, 0] ∧
    sheetTermsAgree 10625 245343 981373 2153284 20000 = true := by decide +kernel
/-- Chapter 09: the sample 0x7A_31C4 in 3-byte and in 4-byte packing. -/
theorem test_sample_bytes : sampleBytes 3 24 0x7A31C4 = [0xC4, 0x31, 0x7A] ∧ sampleBytes 4 24 0x7A31C4 = [0, 0xC4, 0x31, 0x7A] := by
  decide +kernel
/-- The published check values of "123456789" for the CRCs of R109, R335 and R606, and the published SHA-384 of "abc" (its first bytes). -/
theorem test_check_codes : crc32c [0x31, 0x32, 0x33, 0x34, 0x35, 0x36, 0x37, 0x38, 0x39] = 0xE3069283#32 ∧
    crcMpeg [0x31, 0x32, 0x33, 0x34, 0x35, 0x36, 0x37, 0x38, 0x39] = 0x0376E6E7#32 ∧
    crc8 [0x31, 0x32, 0x33, 0x34, 0x35, 0x36, 0x37, 0x38, 0x39] = 0xF4#8 ∧
    (sha384 [0x61, 0x62, 0x63]).take 8 = [0xCB, 0x00, 0x75, 0x3F, 0x45, 0xA3, 0x5E, 0x8B] := by decide +kernel
/-- R203: the corners of SDIV. -/
theorem test_division : divS 5 0 = (0x7FFFFFFF, 5) ∧ divS 0xFFFFFFFB 0 = (0x80000000, 0xFFFFFFFB) ∧
    divS 0x80000000 0xFFFFFFFF = (0x80000000, 0) ∧ divS 0xFFFFFFF9 2 = (0xFFFFFFFD, 0xFFFFFFFF) := by decide +kernel

/-- R162: a refresh picture starts P1 after the Turn in which its cause arose. -/
theorem test_refresh_follows_its_cause :
    ({ refresh := [5] } : SlotRun).refreshDue 5 = false ∧ ({ refresh := [5] } : SlotRun).refreshDue 6 = true ∧
    ({ begun := true, refresh := [5] } : SlotRun).nextType 6 .trail = .cra := by decide

end Sys2Proof.Machine
end

section
/-! The latch of the first schedule fault (R57, R58): what a trace entry, a fault message and a latched fault leave in the registers,
and from these what the second fault leaves. -/

namespace Sys2Proof.Machine

/-! ### What the operations of a schedule fault leave in the registers -/

/-- The canonical form survives every change of which the operations are made. -/
theorem Chip.canonical_keeps : Chip.Keeps Chip.Canonical where
  wr _ a w h := Chip.wr_canonical h a w
  upd h hd _ _ := ⟨h.1, hd ▸ h.2⟩

theorem Chip.trace_canonical {c : Chip} (h : c.Canonical) (kind plane aux data : Nat) : (c.trace kind plane aux data).Canonical :=
  Chip.trace_keeps Chip.canonical_keeps h kind plane aux data

/-- R59, R60: of the registers a trace entry writes SEQ.TRCSTAT only. -/
theorem Chip.rd_trace_ne {c : Chip} (h : c.Canonical) (kind plane aux data : Nat) {b : Nat} (hb : b ≠ 0x100404) :
    (c.trace kind plane aux data).rd b = c.rd b := by
  unfold Chip.trace
  split
  · extract_lets i e _ d d'
    have hd : d.Canonical := h
    have hd' : d'.rd b = c.rd b := Chip.rd_set_ne hd _ _ _ _ hb
    split
    · exact (Chip.rd_set_ne (Chip.set_canonical hd _ _ _) _ _ _ _ hb).trans hd'
    · exact hd'
  · rfl

/-- A trace entry leaves the cycle of the latched fault. -/
theorem Chip.trace_sfAt (c : Chip) (kind plane aux data : Nat) : (c.trace kind plane aux data).sched.sfAt = c.sched.sfAt := by
  unfold Chip.trace
  split
  · extract_lets
    split <;> rfl
  · rfl

/-- R539: a fault on its way to the collector leaves the registers. -/
@[simp] theorem Chip.fault_rd (c : Chip) (level cls domain block cause unit : Nat) (plane : Option Nat) (tclass b : Nat) :
    (c.fault level cls domain block cause unit plane tclass).rd b = c.rd b := by
  cases plane <;> rfl

/-- A field has the same value in two devices whose words of its register agree. -/
theorem Chip.get_congr {c d : Chip} (f : Fld) (i : Nat) (h : d.rd (f.at i) = c.rd (f.at i)) : d.get f i = c.get f i := by
  unfold Chip.get
  rw [h]

theorem Chip.on_congr {c d : Chip} (f : Fld) (i : Nat) (h : d.rd (f.at i) = c.rd (f.at i)) : d.on f i = c.on f i := by
  unfold Chip.on
  rw [Chip.get_congr f i h]

/-- The Turn counts stand in the planes' registers, from 0x101000 up. -/
theorem Chip.turn_congr {c d : Chip} (p : Nat) (h : ∀ b, 0x101000 ≤ b → d.rd b = c.rd b) : d.turn p = c.turn p := by
  unfold Chip.turn Chip.get2
  rw [Chip.get_congr R.SEQ_TURNCNTLO p (h _ (by simp only [Fld.at]; omega)),
    Chip.get_congr R.SEQ_TURNCNTHI p (h _ (by simp only [Fld.at]; omega))]

/-- A field written into a word below 2 to the `n`, all of the field below bit `n`, leaves it below. -/
theorem Fld.write_toNat_lt (f : Fld) (w : Word) (v n : Nat) (h : f.hi < 32) (hl : f.lo ≤ f.hi) (hn : f.hi < n) (hw : w.toNat < 2 ^ n) :
    (f.write w v).toNat < 2 ^ n := by
  apply Nat.lt_pow_two_of_testBit
  intro i hi
  rw [BitVec.testBit_toNat, Fld.write_getLsbD f w v i h hl, if_neg (by omega), ← BitVec.testBit_toNat]
  exact Nat.testBit_lt_two_pow (hw.trans_le (Nat.pow_le_pow_right two_pos hi))

/-! ### The latched fault -/

/-- R57: the word of SFSTAT `w` once VALID, CLASS, CAUSE, PLANE and STREAM of a fault are written into it. -/
def latchedStat (w : Word) (fcls cause p st : Nat) : Word :=
  R.SEQ_SFSTAT_STREAM.write (R.SEQ_SFSTAT_PLANE.write (R.SEQ_SFSTAT_CAUSE.write
    (R.SEQ_SFSTAT_CLASS.write (R.SEQ_SFSTAT_VALID.write w 1) fcls) cause) p) st

theorem latchedStat_valid (w : Word) (fcls cause p st : Nat) : R.SEQ_SFSTAT_VALID.read (latchedStat w fcls cause p st) = 1 := by
  unfold latchedStat
  iterate 4 rw [Fld.read_write_ne _ _ _ _ (by decide) (by decide) (by decide)]
  rw [Fld.read_write _ _ _ (by decide) (by decide)]
  rfl

/-- R57, R58: the registers a latched fault writes, with what it writes there; the Turn count is the one before. -/
theorem Chip.rd_schedLatch {c : Chip} (h : c.Canonical) (fcls cause p st slot cyc b : Nat) :
    (c.schedLatch fcls cause p st slot cyc).rd b =
      if b = 0x100300 then latchedStat (c.rd b) fcls cause p st
      else if b = 0x100304 then R.SEQ_SFSLOT.write (c.rd b) slot
      else if b = 0x100308 then R.SEQ_SFTURNLO.write (c.rd b) (c.turn p % 2 ^ 32)
      else if b = 0x10030C then R.SEQ_SFTURNHI.write (c.rd b) (c.turn p / 2 ^ 32)
      else c.rd b := by
  unfold Chip.schedLatch Chip.set2
  extract_lets d1 d2 d3
  have h1 : d1.Canonical := Chip.set_canonical (Chip.set_canonical h _ _ _) _ _ _
  have h2 : d2.Canonical := Chip.set_canonical (Chip.set_canonical h1 _ _ _) _ _ _
  have h3 : d3.Canonical := Chip.set_canonical (Chip.set_canonical h2 _ _ _) _ _ _
  have hrd3 (b : Nat) : d3.rd b =
      if b = 0x100300 then latchedStat (c.rd b) fcls cause p st
      else if b = 0x100304 then R.SEQ_SFSLOT.write (c.rd b) slot else c.rd b := by
    simp only [d3, d2, d1, Chip.rd_set (Chip.set_canonical h2 _ _ _), Chip.rd_set h2, Chip.rd_set (Chip.set_canonical h1 _ _ _),
      Chip.rd_set h1, Chip.rd_set (Chip.set_canonical h _ _ _), Chip.rd_set h]
    by_cases e1 : b = 0x100300
    · subst e1; simp [Fld.at, latchedStat]
    · by_cases e2 : b = 0x100304
      · subst e2; simp [Fld.at]
      · simp [Fld.at, e1, e2]
  have hturn : d3.turn p = c.turn p :=
    Chip.turn_congr p fun b hb => by rw [hrd3, if_neg (by omega), if_neg (by omega)]
  have h4 (x : Sched) : ({ d3 with sched := x } : Chip).Canonical := h3
  have hrd4 (x : Sched) : ({ d3 with sched := x } : Chip).rd b = d3.rd b := rfl
  rw [Chip.rd_set (Chip.set_canonical (h4 _) _ _ _), Chip.rd_set (h4 _), hrd4, hrd3, hturn]
  by_cases e3 : b = 0x100308
  · subst e3; simp [Fld.at]
  · by_cases e4 : b = 0x10030C
    · subst e4; simp [Fld.at]
    · simp [Fld.at, e3, e4]

/-! ### A schedule fault -/

/-- R57: the first schedule fault since VALID was cleared is latched. -/
theorem Chip.rd_schedFault_first {c : Chip} (h : c.Canonical) (hv : c.on R.SEQ_SFSTAT_VALID = false)
    (fcls cause p st slot tcls tidx cyc : Nat) {b : Nat} (hb : b ≠ 0x100404) :
    (c.schedFault fcls cause p st slot tcls tidx cyc).rd b = (c.schedLatch fcls cause p st slot cyc).rd b := by
  unfold Chip.schedFault
  extract_lets word t first d
  have ht (b : Nat) (hb : b ≠ 0x100404) : t.rd b = c.rd b := Chip.rd_trace_ne h _ _ _ _ hb
  have hturn : t.turn p = c.turn p := Chip.turn_congr p fun b hb => ht b (by omega)
  have hd : d = t.schedLatch fcls cause p st slot cyc := by
    simp only [d, Chip.on_congr R.SEQ_SFSTAT_VALID 0 (ht _ (by decide)), hv, Bool.false_eq_true, if_false]
  rw [Chip.fault_rd, hd, Chip.rd_schedLatch (Chip.trace_canonical h _ _ _ _), Chip.rd_schedLatch h, ht b hb, hturn]

/-- R57, R58: while a fault is held, one of a later cycle or of no lower stream (R47) writes MORE. -/
theorem Chip.rd_schedFault_held {c : Chip} (h : c.Canonical) (hv : c.on R.SEQ_SFSTAT_VALID = true)
    (fcls cause p st slot tcls tidx cyc : Nat) (hst : c.sched.sfAt = cyc → c.get R.SEQ_SFSTAT_STREAM ≤ st) {b : Nat}
    (hb : b ≠ 0x100404) : (c.schedFault fcls cause p st slot tcls tidx cyc).rd b = (c.set R.SEQ_SFSTAT_MORE 0 1).rd b := by
  unfold Chip.schedFault
  extract_lets word t first d
  have hct : t.Canonical := Chip.trace_canonical h _ _ _ _
  have ht (b : Nat) (hb : b ≠ 0x100404) : t.rd b = c.rd b := Chip.rd_trace_ne h _ _ _ _ hb
  have hfirst : first = false := by
    simp only [first, t, Chip.trace_sfAt, Chip.get_congr R.SEQ_SFSTAT_STREAM 0 (ht _ (by decide)), Bool.and_eq_false_imp,
      beq_iff_eq, decide_eq_false_iff_not, Nat.not_lt]
    exact hst
  have hd : d = t.set R.SEQ_SFSTAT_MORE 0 1 := by
    simp only [d, Chip.on_congr R.SEQ_SFSTAT_VALID 0 (ht _ (by decide)), hv, hfirst, if_true, Chip.when, Bool.false_eq_true, if_false]
  rw [Chip.fault_rd, hd, Chip.rd_set hct, Chip.rd_set h, ht b hb]

/-- After a schedule fault SFSTAT is valid. -/
theorem Chip.schedFault_valid {c : Chip} (h : c.Canonical) (fcls cause p st slot tcls tidx cyc : Nat)
    (hst : c.sched.sfAt = cyc → c.get R.SEQ_SFSTAT_STREAM ≤ st) :
    (c.schedFault fcls cause p st slot tcls tidx cyc).on R.SEQ_SFSTAT_VALID = true := by
  cases hv : c.on R.SEQ_SFSTAT_VALID with
  | false =>
    rw [Chip.on_congr _ _ (Chip.rd_schedFault_first h hv fcls cause p st slot tcls tidx cyc (by decide)), Chip.on, Chip.get,
      Chip.rd_schedLatch h, if_pos (by decide), latchedStat_valid]
    rfl
  | true =>
    rw [Chip.on_congr _ _ (Chip.rd_schedFault_held h hv fcls cause p st slot tcls tidx cyc hst (by decide)),
      Chip.on_set_ne h _ _ _ _ _ (by decide) (by decide) (by decide), hv]

/-- R58: the first schedule fault leaves the index of its word in SFSLOT. -/
theorem Chip.schedFault_first_slot {c : Chip} (h : c.Canonical) (hv : c.on R.SEQ_SFSTAT_VALID = false)
    (fcls cause p st tcls tidx cyc : Nat) {slot : Nat} (hs : slot < 2 ^ 20) :
    (c.schedFault fcls cause p st slot tcls tidx cyc).get R.SEQ_SFSLOT = slot := by
  rw [Chip.get, Chip.rd_schedFault_first h hv _ _ _ _ _ _ _ _ (by decide), Chip.rd_schedLatch h, if_neg (by decide), if_pos (by decide),
    Fld.read_write _ _ _ (by decide) (by decide)]
  exact Nat.mod_eq_of_lt hs

/-- R58: the first schedule fault leaves its plane's 40-bit Turn count in SFTURN. -/
theorem Chip.schedFault_first_turn {c : Chip} (h : c.Canonical) (hv : c.on R.SEQ_SFSTAT_VALID = false)
    (fcls cause st slot tcls tidx cyc : Nat) {p : Nat} (ht : c.turn p < 2 ^ 40) :
    (c.schedFault fcls cause p st slot tcls tidx cyc).get2 R.SEQ_SFTURNLO R.SEQ_SFTURNHI = c.turn p := by
  have hlo : (c.schedFault fcls cause p st slot tcls tidx cyc).get R.SEQ_SFTURNLO = c.turn p % 2 ^ 32 := by
    rw [Chip.get, Chip.rd_schedFault_first h hv _ _ _ _ _ _ _ _ (by decide), Chip.rd_schedLatch h, if_neg (by decide),
      if_neg (by decide), if_pos (by decide), Fld.read_write _ _ _ (by decide) (by decide)]
    exact Nat.mod_mod _ _
  have hhi : (c.schedFault fcls cause p st slot tcls tidx cyc).get R.SEQ_SFTURNHI = c.turn p / 2 ^ 32 := by
    rw [Chip.get, Chip.rd_schedFault_first h hv _ _ _ _ _ _ _ _ (by decide), Chip.rd_schedLatch h, if_neg (by decide),
      if_neg (by decide), if_neg (by decide), if_pos (by decide), Fld.read_write _ _ _ (by decide) (by decide)]
    exact Nat.mod_eq_of_lt (Nat.div_lt_of_lt_mul ht)
  rw [Chip.get2, hlo, hhi, Nat.mod_add_div]

/-- A fault while one is held leaves every register but SFSTAT and TRCSTAT. -/
theorem Chip.rd_schedFault_held_ne {c : Chip} (h : c.Canonical) (hv : c.on R.SEQ_SFSTAT_VALID = true)
    (fcls cause p st slot tcls tidx cyc : Nat) (hst : c.sched.sfAt = cyc → c.get R.SEQ_SFSTAT_STREAM ≤ st) {b : Nat}
    (hb : b ≠ 0x100404) (hs : b ≠ 0x100300) : (c.schedFault fcls cause p st slot tcls tidx cyc).rd b = c.rd b :=
  (Chip.rd_schedFault_held h hv fcls cause p st slot tcls tidx cyc hst hb).trans (Chip.rd_set_ne h _ _ _ _ hs)

/-- R57: a fault while one is held sets MORE. -/
theorem Chip.schedFault_held_more {c : Chip} (h : c.Canonical) (hv : c.on R.SEQ_SFSTAT_VALID = true)
    (fcls cause p st slot tcls tidx cyc : Nat) (hst : c.sched.sfAt = cyc → c.get R.SEQ_SFSTAT_STREAM ≤ st) :
    (c.schedFault fcls cause p st slot tcls tidx cyc).on R.SEQ_SFSTAT_MORE = true := by
  rw [Chip.on_congr _ _ (Chip.rd_schedFault_held h hv fcls cause p st slot tcls tidx cyc hst (by decide)),
    Chip.on_set_one h _ _ (by decide) (by decide)]

/-- R58: the reserved bits [31:20] of SFSLOT stay 0 over a schedule fault. -/
theorem Chip.schedFault_slot_reserved {c : Chip} (h : c.Canonical) (fcls cause p st slot tcls tidx cyc : Nat)
    (hst : c.sched.sfAt = cyc → c.get R.SEQ_SFSTAT_STREAM ≤ st) (hw : (c.rd 0x100304).toNat < 2 ^ 20) :
    ((c.schedFault fcls cause p st slot tcls tidx cyc).rd 0x100304).toNat < 2 ^ 20 := by
  cases hv : c.on R.SEQ_SFSTAT_VALID with
  | false =>
    rw [Chip.rd_schedFault_first h hv _ _ _ _ _ _ _ _ (by decide), Chip.rd_schedLatch h, if_neg (by decide), if_pos (by decide)]
    exact Fld.write_toNat_lt _ _ _ 20 (by decide) (by decide) (by decide) hw
  | true => rwa [Chip.rd_schedFault_held_ne h hv _ _ _ _ _ _ _ _ hst (by decide) (by decide)]

/-- R58: SFSLOT, SFTURNLO and SFTURNHI are read-only with reset 0: none of their bits is RW, RWS, W1C or
SK (R14). -/
theorem sfRegisters_readOnly : ∀ a ∈ [0x100304, 0x100308, 0x10030C], State.reset.chip.rd a = 0 ∧
    ∃ r : RegRow, regRowAt a = some r ∧ r.rw = 0 ∧ r.rws = 0 ∧ r.w1c = 0 ∧ r.sk = 0 := by
  simp only [List.forall_mem_cons, Chip.rd_reset]
  exact ⟨⟨rfl, _, rfl, by decide⟩, ⟨rfl, _, rfl, by decide⟩, ⟨rfl, _, rfl, by decide⟩, by simp⟩

/-- Settles O27: a first fault is latched, one while a fault is held writes MORE only, and the register map gives the three registers no
writable bit and reset 0. -/
theorem scheduleFaultLatch : Obligations.ScheduleFaultLatch := by
  unfold Obligations.ScheduleFaultLatch
  refine ⟨?_, sfRegisters_readOnly⟩
  intro c fcls cause p st slot tcls tidx cyc h hslot _ hturn hst d
  refine ⟨Chip.schedFault_valid h _ _ _ _ _ _ _ _ hst, fun hv => ?first, fun hv => ?held,
    Chip.schedFault_slot_reserved h _ _ _ _ _ _ _ _ hst⟩
  case first =>
    exact ⟨Chip.schedFault_first_slot h hv _ _ _ _ _ _ _ hslot, Chip.schedFault_first_turn h hv _ _ _ _ _ _ _ hturn⟩
  case held =>
    have hrd {b : Nat} (hb : b ≠ 0x100404) (hs : b ≠ 0x100300) : d.rd b = c.rd b :=
      Chip.rd_schedFault_held_ne h hv _ _ _ _ _ _ _ _ hst hb hs
    exact ⟨Chip.schedFault_held_more h hv _ _ _ _ _ _ _ _ hst, hrd (by decide) (by decide), hrd (by decide) (by decide),
      hrd (by decide) (by decide)⟩

end Sys2Proof.Machine
end

section
/-! RESETCTL and the end of a flush (R78, R95): when each acts, and the device it leaves. -/

namespace Sys2Proof.Machine

/-! ### A RESETCTL write -/

/-- R95: a RESETCTL write changes the device as `Chip.resetctl` says and leaves the queue. -/
theorem exec_resetctlWarm (v : Word) (s : State) :
    exec (.resetctlWarm v) s = .next { s with chip := s.chip.resetctl v } := rfl

/-- R95: a write without KEY or without WARM is ignored. -/
theorem Chip.resetctl_ignored (c : Chip) {v : Word} (h : bits v.toNat 31 16 ≠ 0xA5C3 ∨ bit v.toNat 0 = false) :
    c.resetctl v = c := by
  apply if_neg
  rintro ⟨hkey, hwarm⟩
  rcases h with hne | hclear
  · exact hne hkey
  · exact Bool.false_ne_true (hclear.symm.trans hwarm)

/-- R78, R95: a write with KEY and WARM flushes the Reel, and a warm reset of cause 1 then waits. -/
theorem Chip.resetctl_accepted (c : Chip) {v : Word} (hkey : bits v.toNat 31 16 = 0xA5C3) (hwarm : bit v.toNat 0 = true) :
    c.resetctl v = { c.flushReel 9 with boot := { c.boot with warmAfterFlush := some 1 } } :=
  if_pos ⟨hkey, hwarm⟩

/-! ### The end of a flush -/

theorem exec_reelFlushDone (s : State) : exec .reelFlushDone s = execReelFlushDone s := rfl

/-- R388, R500, R570: the warm reset that waits runs at the end of the flush, with its cause. -/
theorem exec_reelFlushDone_waiting {s : State} {k : Nat} (h : s.chip.boot.warmAfterFlush = some k) :
    exec .reelFlushDone s = .next { s with chip := s.chip.warmReset k } := by
  rw [exec_reelFlushDone, execReelFlushDone, onChip_eq, h]

/-- Where no warm reset waits, the end of a flush changes nothing. -/
theorem exec_reelFlushDone_idle {s : State} (h : s.chip.boot.warmAfterFlush = none) :
    exec .reelFlushDone s = .next s := by
  rw [exec_reelFlushDone, execReelFlushDone, onChip_eq, h]

/-- Settles O18: a write is ignored or accepted by KEY and WARM, and the end of a flush starts the warm reset that waits, if one does. -/
theorem resetControl : Obligations.ResetControl := by
  unfold Obligations.ResetControl
  intro s v
  refine ⟨fun h => ?ignored, fun hkey hwarm => ?accepted, fun k h => exec_reelFlushDone_waiting h, exec_reelFlushDone_idle⟩
  case ignored => rw [exec_resetctlWarm, Chip.resetctl_ignored _ h]
  case accepted => rw [exec_resetctlWarm, Chip.resetctl_accepted _ hkey hwarm]

end Sys2Proof.Machine
end

section
/-! The latency of a Spindle result (R201, R202): what a register write, a store and the settling of an engine leave in its register
files. -/

namespace Sys2Proof.Machine

/-- A table with one resting value, read back after a write. -/
theorem tget_tset {α : Type} [DecidableEq α] (d : α) {t : Tab α} (h : tabWf (fun _ => d) t = true) (k : Nat) (v : α) (k' : Nat) :
    tget d (tset d t k v) k' = if k' = k then v else tget d t k' := tabGet_tabSet _ t k v k' h

/-! ### A result put in flight -/

theorem Chip.engine_setEngine_same {c : Chip} (h : tabWf (fun _ => ({} : Engine)) c.spn.eng = true) (n : Nat) (e : Engine) :
    (c.setEngine n e).engine n = e := by
  rw [Chip.engine, Chip.setEngine, tget_tset _ h, if_pos rfl]

/-- R202: a result of an engine with none in flight is its only one, and changes nothing else of the engine. -/
theorem Chip.engine_result {c : Chip} {n : Nat} (h : tabWf (fun _ => ({} : Engine)) c.spn.eng = true)
    (hr : (c.engine n).results = []) (d : SpnDest) (v : BitVec 512) (k : Nat) :
    (c.result n d v k).engine n = { c.engine n with results := [⟨d, v, (c.engine n).cyc + k - 1⟩] } := by
  rw [Chip.result, Chip.engine_setEngine_same h, hr, insertResult]

/-! ### Register writes (R201) -/

/-- R201: in a register file whose register 0 is the constant `z`, a write shows in its own register and never in register 0. -/
theorem constZero_tget_tset {α : Type} [DecidableEq α] (z d : α) {t : Tab α} (h : tabWf (fun _ => d) t = true) (k : Nat) (v : α)
    (r : Nat) : (if r = 0 then z else tget d (if k = 0 then t else tset d t k v) r) =
      if k = r ∧ r ≠ 0 then v else if r = 0 then z else tget d t r := by
  by_cases hr : r = 0
  · rw [if_pos hr, if_neg (fun hkr => hkr.2 hr), if_pos hr]
  · by_cases hk : k = 0
    · rw [if_neg hr, if_pos hk, if_neg (fun hkr => hr (hkr.1.symm.trans hk)), if_neg hr]
    · rw [if_neg hr, if_neg hk, tget_tset d h, if_neg hr]
      exact if_congr (by rw [and_iff_left hr, eq_comm]) rfl rfl

theorem regWrite_sreg (e : Engine) (k : Nat) (v : BitVec 512) :
    (regWrite e (.sreg k) v).sreg = if k = 0 then e.sreg else tset 0 e.sreg k (v.setWidth 32) := by
  rw [regWrite, apply_ite Engine.sreg]

theorem regWrite_vmask (e : Engine) (k : Nat) (v : BitVec 512) :
    (regWrite e (.vmask k) v).vmask = if k = 0 then e.vmask else tset 0 e.vmask k (v.setWidth 64) := by
  rw [regWrite, apply_ite Engine.vmask]

/-- R201: a scalar register read back after a register write. -/
theorem sread_regWrite {e : Engine} (h : tabWf (fun _ => (0 : Word)) e.sreg = true) (d : SpnDest) (v : BitVec 512) (r : Nat) :
    sread (regWrite e d v) r = if d = .sreg r ∧ r ≠ 0 then v.setWidth 32 else sread e r := by
  cases d with
  | sreg k => simp only [sread, regWrite_sreg, constZero_tget_tset 0 0 h, SpnDest.sreg.injEq]
  | vreg k => rfl
  | vmask k => rw [regWrite, apply_ite (sread · r)]; exact (ite_self _).trans (if_neg (by simp)).symm

/-- R201: a vector register read back after a register write. -/
theorem vreg_regWrite {e : Engine} (h : tabWf (fun _ => (0 : BitVec 512)) e.vreg = true) (d : SpnDest) (v : BitVec 512) (r : Nat) :
    tget 0 (regWrite e d v).vreg r = if d = .vreg r then v else tget 0 e.vreg r := by
  cases d with
  | vreg k => simp only [regWrite, tget_tset 0 h, SpnDest.vreg.injEq, eq_comm]
  | sreg k | vmask k => rw [regWrite, apply_ite Engine.vreg]; exact congrArg (tget 0 · r) (ite_self _)

/-- R201: a mask register read back after a register write. -/
theorem mread_regWrite {e : Engine} (h : tabWf (fun _ => (0 : BitVec 64)) e.vmask = true) (d : SpnDest) (v : BitVec 512) (r : Nat) :
    mread (regWrite e d v) r = if d = .vmask r ∧ r ≠ 0 then v.setWidth 64 else mread e r := by
  cases d with
  | vmask k => simp only [mread, regWrite_vmask, constZero_tget_tset _ 0 h, SpnDest.vmask.injEq]
  | vreg k => rfl
  | sreg k => rw [regWrite, apply_ite (mread · r)]; exact (ite_self _).trans (if_neg (by simp)).symm

/-! ### Settling an engine (R202) -/

/-- The three register files of an engine (R201). -/
def regFiles (e : Engine) : Tab Word × Tab (BitVec 512) × Tab (BitVec 64) := (e.sreg, e.vreg, e.vmask)

/-- A store leaves the register files. -/
theorem regFiles_padStore (e : Engine) (s : SpnStore) : regFiles (padStore e s) = regFiles e := by
  rw [padStore, apply_ite regFiles]
  exact ite_self _

theorem regFiles_foldl_padStore (l : List SpnStore) (e : Engine) : regFiles (l.foldl padStore e) = regFiles e := by
  induction l generalizing e with
  | nil => rfl
  | cons s l ih => rw [List.foldl_cons, ih, regFiles_padStore]

/-- R202: settling leaves in the register files the results that are due, written in their order. -/
theorem regFiles_settle (e : Engine) (cyc : Nat) : regFiles (settle e cyc) =
    regFiles ((e.results.filter (fun x => decide (x.due < cyc))).foldl (fun e x => regWrite e x.dest x.val) e) :=
  regFiles_foldl_padStore _ _

/-- Results in flight have no part in a register write. -/
theorem regFiles_regWrite_results (e : Engine) (l : List SpnResult) (d : SpnDest) (v : BitVec 512) :
    regFiles (regWrite { e with results := l } d v) = regFiles (regWrite e d v) := by
  cases d with
  | vreg k => rfl
  | sreg k | vmask k => simp only [regWrite, apply_ite regFiles]; rfl

/-- R202: one result in flight is written once its cycle is over. -/
theorem regFiles_settle_due (e : Engine) {x : SpnResult} {cyc : Nat} (h : x.due < cyc) :
    regFiles (settle { e with results := [x] } cyc) = regFiles (regWrite e x.dest x.val) := by
  rw [regFiles_settle, List.filter_cons_of_pos (by exact decide_eq_true h)]
  exact regFiles_regWrite_results e [x] x.dest x.val

/-- R202: one result in flight is not written before its cycle is over. -/
theorem regFiles_settle_notDue (e : Engine) {x : SpnResult} {cyc : Nat} (h : ¬ x.due < cyc) :
    regFiles (settle { e with results := [x] } cyc) = regFiles e := by
  rw [regFiles_settle, List.filter_cons_of_neg (by simpa using h)]
  rfl

theorem sread_congr {e e' : Engine} (h : regFiles e = regFiles e') (r : Nat) : sread e r = sread e' r := by
  rw [sread, sread, show e.sreg = e'.sreg from congrArg Prod.fst h]

theorem vreg_congr {e e' : Engine} (h : regFiles e = regFiles e') (r : Nat) : tget 0 e.vreg r = tget 0 e'.vreg r := by
  rw [show e.vreg = e'.vreg from congrArg (·.2.1) h]

theorem mread_congr {e e' : Engine} (h : regFiles e = regFiles e') (r : Nat) : mread e r = mread e' r := by
  rw [mread, mread, show e.vmask = e'.vmask from congrArg (·.2.2) h]

/-- Settles O38: settling writes the one result in flight exactly from ENG cycle t + k on, and a register write shows in its own
register only. -/
theorem resultLatency : Obligations.ResultLatency := by
  unfold Obligations.ResultLatency
  intro c n t k cyc d v heng hres hcyc hk hsreg hvreg hvmask
  have hdue : (c.engine n).cyc + k - 1 < cyc ↔ t + k ≤ cyc := by omega
  rw [Chip.engine_result heng hres]
  intro e
  by_cases htime : t + k ≤ cyc
  · have hregs : regFiles e = regFiles (regWrite (c.engine n) d v) := regFiles_settle_due _ (hdue.mpr htime)
    simp only [htime, and_true]
    exact ⟨fun r => (sread_congr hregs r).trans (sread_regWrite hsreg d v r),
      fun r => (vreg_congr hregs r).trans (vreg_regWrite hvreg d v r),
      fun r => (mread_congr hregs r).trans (mread_regWrite hvmask d v r)⟩
  · have hregs : regFiles e = regFiles (c.engine n) := regFiles_settle_notDue _ (fun h => htime (hdue.mp h))
    simp only [htime, and_false, if_false]
    exact ⟨sread_congr hregs, vreg_congr hregs, mread_congr hregs⟩

end Sys2Proof.Machine
end

section
/-! The start of a dynamic frame (R322): when the oldest waiting frame of a port leaves, and the Twists that it then takes. -/

namespace Sys2Proof.Machine

/-! ### The run of open-pool Twists -/

/-- A number below the length of the stretch of a range that meets a test meets it itself. -/
theorem apply_of_lt_length_takeWhile_range {p : Nat → Bool} {m j : Nat} (h : j < ((List.range m).takeWhile p).length) :
    p j = true := by
  have hpre : (List.range m).takeWhile p <+: List.range m := List.takeWhile_prefix p
  have hget : ((List.range m).takeWhile p)[j] = j := by rw [hpre.getElem h, List.getElem_range]
  exact hget ▸ List.mem_takeWhile_imp (List.getElem_mem h)

/-- R44: a run that is not empty begins with the present Twist, which is then open. -/
theorem Chip.openTwist_of_openRun_pos {c : Chip} (h : 0 < c.openRun) : c.openTwist = true :=
  apply_of_lt_length_takeWhile_range h

/-- R27: no later Twist of the run belongs to a plane that is then in its body. -/
theorem Chip.ownedAt_of_lt_openRun {c : Chip} {j : Nat} (hj : j ≠ 0) (h : j < c.openRun) :
    c.ownedAt (c.sched.cyc + 256 * j) = false := by
  have htest := apply_of_lt_length_takeWhile_range h
  rwa [if_neg hj, Bool.not_eq_true'] at htest

/-! ### DYNAMIC_FRAME_SEND -/

theorem exec_dynamicFrameSend (n : Fin 16) (t : Nat) (s : State) :
    exec (.dynamicFrameSend n t) s = execDynamicFrameSend n t s := rfl

theorem exec_dynamicFrameSend_empty {s : State} {n : Fin 16} (t : Nat) (h : (s.chip.netPort n.val).queue = []) :
    exec (.dynamicFrameSend n t) s = .next s := by
  simp only [exec_dynamicFrameSend, execDynamicFrameSend, onChip_eq, h]

section
variable {s : State} {n : Fin 16} {f : DynFrame} {l : List DynFrame} (hq : (s.chip.netPort n.val).queue = f :: l)
include hq

/-- R322: on a port that is down, or where the frame does not fit in the run, it waits and nothing changes. -/
theorem exec_dynamicFrameSend_waits (t : Nat)
    (h : ¬ (s.chip.portUp n.val ∧ s.chip.frameTwists n.val (f.data.length + 4) ≤ s.chip.openRun)) :
    exec (.dynamicFrameSend n t) s = .next s := by
  simp only [exec_dynamicFrameSend, execDynamicFrameSend, onChip_eq, hq, if_neg h]

/-- R322: a frame that fits leaves the queue and stands on the line. -/
theorem exec_dynamicFrameSend_unstamped (t : Nat)
    (h : s.chip.portUp n.val ∧ s.chip.frameTwists n.val (f.data.length + 4) ≤ s.chip.openRun) (hid : f.stampId = none) :
    exec (.dynamicFrameSend n t) s =
      .next { s with chip := s.chip.setNetPort n.val { s.chip.netPort n.val with queue := l, sent := f.wire t } } := by
  simp only [exec_dynamicFrameSend, execDynamicFrameSend, onChip_eq, hq, if_pos h, hid]

/-- R322, R345: one that asks for a stamp also leaves its time in the port's queue of stamps. -/
theorem exec_dynamicFrameSend_stamped (t : Nat)
    (h : s.chip.portUp n.val ∧ s.chip.frameTwists n.val (f.data.length + 4) ≤ s.chip.openRun) {id : Nat}
    (hid : f.stampId = some id) :
    exec (.dynamicFrameSend n t) s =
      .next { s with chip :=
        (s.chip.setNetPort n.val { s.chip.netPort n.val with queue := l, sent := f.wire t }).pushStamp n.val id t } := by
  simp only [exec_dynamicFrameSend, execDynamicFrameSend, onChip_eq, hq, if_pos h, hid]

end

/-- Settles O41: the oldest frame leaves exactly on a port that is up and when it fits in the run, and each Twist that it takes, being one of
the run, is open. -/
theorem dynamicFrameStarts : Obligations.DynamicFrameStarts := by
  unfold Obligations.DynamicFrameStarts
  refine ⟨fun s n t => exec_dynamicFrameSend_empty t, fun s n t f l hq => ?_⟩
  refine ⟨fun hup hfit => ⟨?unstamped, ?stamped, fun j hj => ?twists⟩, fun hlong => ?long, fun hdown => ?down⟩
  case unstamped => exact exec_dynamicFrameSend_unstamped hq t ⟨hup, hfit⟩
  case stamped => exact fun _ => exec_dynamicFrameSend_stamped hq t ⟨hup, hfit⟩
  case twists =>
    have hrun : j < s.chip.openRun := hj.trans_le hfit
    split
    next h0 => exact Chip.openTwist_of_openRun_pos (h0 ▸ hrun)
    next h0 => exact Chip.ownedAt_of_lt_openRun h0 hrun
  case long => exact exec_dynamicFrameSend_waits hq t fun h => hlong.not_ge h.2
  case down => exact exec_dynamicFrameSend_waits hq t fun h => Bool.false_ne_true (hdown.symm.trans h.1)

end Sys2Proof.Machine
end

section
/-! The counter clears of the service complex and the collector (R519, R558): a field set to 0 in the registers a command names, every other
register and everything that is no register as before. -/

namespace Sys2Proof.Machine

/-! ### A field cleared in several registers -/

/-- Field `f` set to 0 in each register of its array that the list names. -/
def Chip.clearFld (c : Chip) (f : Fld) (l : List Nat) : Chip := c.each l (fun c n => c.set f n 0)

theorem Chip.clearFld_cons (c : Chip) (f : Fld) (m : Nat) (l : List Nat) :
    c.clearFld f (m :: l) = (c.set f m 0).clearFld f l := rfl

/-- Only registers are written. -/
theorem Chip.clearFld_eq (c : Chip) (f : Fld) (l : List Nat) : c.clearFld f l = { c with regs := (c.clearFld f l).regs } := by
  induction l generalizing c with
  | nil => rfl
  | cons m l ih => exact ih (c.set f m 0)

/-- A register that the list does not name is not written. -/
theorem Chip.rd_clearFld_ne {c : Chip} (h : c.Canonical) (f : Fld) {l : List Nat} {a : Nat} (ha : ∀ m ∈ l, a ≠ f.at m) :
    (c.clearFld f l).rd a = c.rd a := by
  induction l generalizing c with
  | nil => rfl
  | cons m l ih =>
    obtain ⟨hm, hl⟩ := List.forall_mem_cons.mp ha
    rw [Chip.clearFld_cons, ih (Chip.set_canonical h _ _ _) hl, Chip.rd_set_ne h _ _ _ _ hm]

/-- Fields of an array with a stride stand in registers of their own. -/
theorem Fld.at_injective {f : Fld} (hs : 0 < f.stride) : Function.Injective f.at :=
  fun _ _ h => Nat.eq_of_mul_eq_mul_left hs (Nat.add_left_cancel h)

/-- The field reads 0 in every register that the list names and keeps its value in the others. -/
theorem Chip.get_clearFld {c : Chip} (h : c.Canonical) {f : Fld} (hs : 0 < f.stride) (h1 : f.hi < 32) (h2 : f.lo ≤ f.hi)
    (l : List Nat) (n : Nat) : (c.clearFld f l).get f n = if n ∈ l then 0 else c.get f n := by
  induction l generalizing c with
  | nil => rfl
  | cons m l ih =>
    rw [Chip.clearFld_cons, ih (Chip.set_canonical h _ _ _)]
    by_cases hm : n = m
    · subst hm
      rw [Chip.get_set h _ _ _ h1 h2, Nat.zero_mod, ite_self, if_pos List.mem_cons_self]
    · rw [Chip.get_set_ne h _ _ _ _ _ h1 h2 (.inl fun e => hm (Fld.at_injective hs e).symm)]
      simp only [List.mem_cons, hm, false_or]

/-! ### The numbers a CNTCLR write names -/

/-- R519: every number below `count` with ALL (bit 30), or the one of bits [9:0]. -/
def cntclrNames (v : Word) (count : Nat) : List Nat := if bit v.toNat 30 then List.range count else [bits v.toNat 9 0]

theorem mem_cntclrNames {v : Word} {count n : Nat} (hn : n < count) :
    n ∈ cntclrNames v count ↔ bit v.toNat 30 = true ∨ n = bits v.toNat 9 0 := by
  unfold cntclrNames
  cases bit v.toNat 30 with
  | true => simpa using hn
  | false => simp

/-- Every SOURCE is a source: there are 1,024. -/
theorem lt_of_mem_cntclrNames_sources {v : Word} {n : Nat} (h : n ∈ cntclrNames v 1024) : n < 1024 := by
  unfold cntclrNames at h
  split at h
  · exact List.mem_range.mp h
  · exact List.mem_singleton.mp h ▸ Nat.mod_lt _ (by decide)

/-! ### The commands -/

/-- R519: with GO and without QUEUES, EDGECNT of the sources named is cleared. -/
theorem exec_svcCntclrSource_go {s : State} {v : Word} (hgo : bit v.toNat 31 = true) (hq : bit v.toNat 29 = false) :
    exec (.svcCntclrSource v) s = .next { s with chip := s.chip.clearFld R.SVC_SRCSTAT_EDGECNT (cntclrNames v 1024) } := by
  change execSvcCntclrSource v s = _
  simp only [execSvcCntclrSource, onChip_eq, hgo, hq, Bool.not_false, Bool.and_self, if_true]
  rfl

/-- R519: with GO and QUEUES, DISCARD of the queues named is cleared; a number above 255 names none. -/
theorem exec_svcCntclrQueue_go {s : State} {v : Word} (hgo : bit v.toNat 31 = true) (hq : bit v.toNat 29 = true) :
    exec (.svcCntclrQueue v) s =
      .next { s with chip := s.chip.clearFld R.SVC_WQSTAT_DISCARD ((cntclrNames v 256).filter (· < 256)) } := by
  change execSvcCntclrQueue v s = _
  simp only [execSvcCntclrQueue, onChip_eq, hgo, hq, Bool.and_self, if_true, Chip.clearFld, Chip.each, List.foldl_filter,
    decide_eq_true_eq]
  rfl

/-- R519: without GO, or with QUEUES, no source is named. -/
theorem exec_svcCntclrSource_ignored {s : State} {v : Word} (h : bit v.toNat 31 = false ∨ bit v.toNat 29 = true) :
    exec (.svcCntclrSource v) s = .next s := by
  have hoff : (bit v.toNat 31 && !bit v.toNat 29) = false := by rcases h with h | h <;> simp [h]
  change execSvcCntclrSource v s = _
  simp only [execSvcCntclrSource, onChip_eq, hoff, Bool.false_eq_true, if_false]

/-- R519: without GO, or without QUEUES, no queue is named. -/
theorem exec_svcCntclrQueue_ignored {s : State} {v : Word} (h : bit v.toNat 31 = false ∨ bit v.toNat 29 = false) :
    exec (.svcCntclrQueue v) s = .next s := by
  have hoff : (bit v.toNat 31 && bit v.toNat 29) = false := by rcases h with h | h <;> simp [h]
  change execSvcCntclrQueue v s = _
  simp only [execSvcCntclrQueue, onChip_eq, hoff, Bool.false_eq_true, if_false]

/-- R558: SAF.CNTCLR in one equation. -/
theorem exec_safCntclr (v : Word) (s : State) : exec (.safCntclr v) s =
    .next { s with chip := if bit v.toNat 31 then (s.chip.set R.SAF_FURTHER 0 0).set R.SAF_L0CNT 0 0 else s.chip } := rfl

/-- Settles O16: each command clears its field in exactly the sources or queues named, and is otherwise ignored. -/
theorem serviceCounterClears : Obligations.ServiceCounterClears := by
  unfold Obligations.ServiceCounterClears
  intro s v h
  refine ⟨fun hgo hq => ?sources, fun hgo hq => ?queues, exec_svcCntclrSource_ignored, exec_svcCntclrQueue_ignored,
    fun hgo => ?safety, fun hgo => ?noSafety⟩
  case sources =>
    refine ⟨_, exec_svcCntclrSource_go hgo hq, Chip.clearFld_eq _ _ _, fun n hn => ?_, fun a ha => ?_⟩
    · rw [Chip.get_clearFld h (by decide) (by decide) (by decide)]
      exact if_congr (mem_cntclrNames hn) rfl rfl
    · exact Chip.rd_clearFld_ne h _ fun m hm => ha m (lt_of_mem_cntclrNames_sources hm)
  case queues =>
    refine ⟨_, exec_svcCntclrQueue_go hgo hq, Chip.clearFld_eq _ _ _, fun n hn => ?_, fun a ha => ?_⟩
    · have hnamed : n ∈ (cntclrNames v 256).filter (· < 256) ↔ bit v.toNat 30 = true ∨ n = bits v.toNat 9 0 := by
        rw [List.mem_filter, mem_cntclrNames hn, decide_eq_true_eq, and_iff_left hn]
      rw [Chip.get_clearFld h (by decide) (by decide) (by decide)]
      exact if_congr hnamed rfl rfl
    · exact Chip.rd_clearFld_ne h _ fun m hm => ha m (decide_eq_true_eq.mp (List.mem_filter.mp hm).2)
  case safety => rw [exec_safCntclr, if_pos hgo]
  case noSafety => rw [exec_safCntclr, if_neg (Bool.eq_false_iff.mp hgo)]

end Sys2Proof.Machine
end

section
/-! The in-service stack of a service core (R487, R491): the source a claim returns, and what a claim, a completion, a fast entry and an
FRET leave of the stack and of PEND. -/

namespace Sys2Proof.Machine

/-! ### What the operations leave of the cores and the registers -/

@[simp] theorem Chip.set_core (c : Chip) (f : Fld) (i v k : Nat) : (c.set f i v).core k = c.core k := rfl
@[simp] theorem Chip.unpend_core (c : Chip) (n k : Nat) : (c.unpend n).core k = c.core k := rfl
@[simp] theorem Chip.serviceFault_core (c : Chip) (j k : Nat) : (c.serviceFault j).core k = c.core k := rfl

@[simp] theorem Chip.repend_core (c : Chip) (n k : Nat) : (c.repend n).core k = c.core k := by
  rw [Chip.repend, apply_ite (Chip.core · k), Chip.set_core, ite_self]

theorem Chip.setCore_core_same {c : Chip} (h : tabWf (fun _ => ({} : CoreRun)) c.svc.cores = true) (k : Nat) (x : CoreRun) :
    (c.setCore k x).core k = x := by
  change tget {} (tset {} c.svc.cores k x) k = x
  rw [tget_tset _ h, if_pos rfl]

theorem Chip.setCore_canonical {c : Chip} (h : c.Canonical) (k : Nat) (x : CoreRun) : (c.setCore k x).Canonical :=
  Chip.setCore_keeps Chip.canonical_keeps h k x

theorem Chip.unpend_canonical {c : Chip} (h : c.Canonical) (n : Nat) : (c.unpend n).Canonical :=
  Chip.unpend_keeps Chip.canonical_keeps h n

/-- R523: of the registers, a core replaced writes its STACK only; the sources' registers stand above those of the 16 cores. -/
theorem Chip.rd_setCore_ne {c : Chip} (h : c.Canonical) {k : Nat} (hk : k < 16) (x : CoreRun) {a : Nat} (ha : 0x1204000 ≤ a) :
    (c.setCore k x).rd a = c.rd a := by
  let d : Chip := { c with svc := { c.svc with cores := tset {} c.svc.cores k x } }
  have hd : d.Canonical := h
  change ((d.set R.SVC_STACK_DEPTH k x.stack.length).set R.SVC_STACK_TOP k (x.stack.headD 0)).rd a = d.rd a
  rw [Chip.rd_set_ne (Chip.set_canonical hd _ _ _) _ _ _ _ (by simp only [Fld.at]; omega),
    Chip.rd_set_ne hd _ _ _ _ (by simp only [Fld.at]; omega)]

/-- R491: source `n` in service and no longer pending, core `k` as given. -/
def Chip.inService (c : Chip) (k n : Nat) (x : CoreRun) : Chip := ((c.unpend n).set R.SVC_SRCSTAT_INSVC n 1).setCore k x

theorem Chip.inService_core {c : Chip} (h : tabWf (fun _ => ({} : CoreRun)) c.svc.cores = true) (k n : Nat) (x : CoreRun) :
    (c.inService k n x).core k = x :=
  Chip.setCore_core_same (c := (c.unpend n).set R.SVC_SRCSTAT_INSVC n 1) h k x

theorem Chip.inService_canonical {c : Chip} (h : c.Canonical) (k n : Nat) (x : CoreRun) : (c.inService k n x).Canonical :=
  Chip.setCore_canonical (Chip.set_canonical (Chip.unpend_canonical h n) _ _ _) k x

theorem Chip.unpend_off {c : Chip} (h : c.Canonical) (n : Nat) : (c.unpend n).on R.SVC_SRCSTAT_PEND n = false :=
  Chip.on_set_zero h R.SVC_SRCSTAT_PEND n (by decide) (by decide)

theorem Chip.inService_pend {c : Chip} (h : c.Canonical) {k : Nat} (hk : k < 16) (n : Nat) (x : CoreRun) :
    (c.inService k n x).on R.SVC_SRCSTAT_PEND n = false := by
  have hu : (c.unpend n).Canonical := Chip.unpend_canonical h n
  rw [Chip.inService, Chip.on_congr _ _ (Chip.rd_setCore_ne (Chip.set_canonical hu _ _ _) hk _ (by simp only [Fld.at]; omega)),
    Chip.on_set_ne hu _ _ _ _ _ (by decide) (by decide) (.inr (by decide)), Chip.unpend_off h]

/-! ### The order of the pending sources (R491) -/

/-- R490, R491: the rank of a source among the pending ones: a fast source of a core comes first. -/
def Chip.claimRank (c : Chip) (n : Nat) : Nat :=
  if c.on R.SVC_SRCCFG_FAST n && c.toCore n then 16 else c.srcPrio n

theorem Chip.pendingSrcs_eq (c : Chip) : c.pendingSrcs = ((List.range 17).reverse).flatMap (fun p =>
    ((List.range 1024).filter (fun n => c.srcOn n && c.on R.SVC_SRCSTAT_PEND n)).filter (fun n => c.claimRank n == p)) := rfl

theorem Chip.claimRank_lt (c : Chip) (n : Nat) : c.claimRank n < 17 := by
  have hprio : c.get R.SVC_SRCCFG_PRIO n < 16 := Chip.get_lt c R.SVC_SRCCFG_PRIO n
  unfold Chip.claimRank Chip.srcPrio
  split
  · decide
  · split <;> omega

theorem Chip.claimRank_of_not_fast {c : Chip} {n : Nat} (h : c.on R.SVC_SRCCFG_FAST n = false) : c.claimRank n = c.srcPrio n := by
  rw [Chip.claimRank, h, Bool.false_and, if_neg Bool.false_ne_true]

theorem Chip.mem_pendingSrcs {c : Chip} {n : Nat} :
    n ∈ c.pendingSrcs ↔ n < 1024 ∧ c.srcOn n = true ∧ c.on R.SVC_SRCSTAT_PEND n = true := by
  simp [Chip.pendingSrcs_eq, Chip.claimRank_lt]

/-- R491: source `a` comes before source `b`: by the higher rank, and on a tie by the lower number. -/
def Chip.ClaimsBefore (c : Chip) (a b : Nat) : Prop :=
  c.claimRank b < c.claimRank a ∨ c.claimRank a = c.claimRank b ∧ a < b

theorem Chip.pendingSrcs_pairwise (c : Chip) : c.pendingSrcs.Pairwise c.ClaimsBefore := by
  rw [Chip.pendingSrcs_eq, List.pairwise_flatMap]
  constructor
  · intro p _
    have hlt := (List.pairwise_lt_range (n := 1024)).filter (fun n => c.srcOn n && c.on R.SVC_SRCSTAT_PEND n)
    refine (hlt.filter _).imp_of_mem fun ha hb hab => .inr ⟨?_, hab⟩
    exact (beq_iff_eq.mp (List.mem_filter.mp ha).2).trans (beq_iff_eq.mp (List.mem_filter.mp hb).2).symm
  · refine (List.pairwise_reverse.mpr List.pairwise_lt_range).imp fun hpq a ha b hb => .inl ?_
    rwa [beq_iff_eq.mp (List.mem_filter.mp ha).2, beq_iff_eq.mp (List.mem_filter.mp hb).2]

/-- In a sorted list the first element that meets a test is the one that no other such element comes before. -/
theorem find?_eq_some_of_pairwise {α : Type} {R : α → α → Prop} {p : α → Bool} {l : List α} {a : α} (hl : l.Pairwise R)
    (ha : a ∈ l) (hp : p a = true) (hfirst : ∀ b ∈ l, p b = true → ¬ R b a) : l.find? p = some a := by
  induction l with
  | nil => cases ha
  | cons b l ih =>
    obtain ⟨hb, hl⟩ := List.pairwise_cons.mp hl
    obtain ⟨hbfirst, hfirst⟩ := List.forall_mem_cons.mp hfirst
    rcases List.mem_cons.mp ha with rfl | ha
    · exact List.find?_cons_of_pos hp
    · rw [List.find?_cons_of_neg fun hpb => hbfirst hpb (hb a ha)]
      exact ih hl ha hfirst

/-! ### The source a claim returns (R491) -/

/-- R491: source `n` may be claimed by core `k`, as far as THRESH and the top of the stack decide. -/
def Chip.Claims (c : Chip) (k n : Nat) : Prop :=
  n < 1024 ∧ c.deliverable n = true ∧ c.toCore n = true ∧ c.get R.SVC_SRCCFG_TARGET n = k ∧ c.on R.SVC_SRCCFG_FAST n = false ∧
    c.get R.SVC_THRESH k < c.srcPrio n ∧ ∀ t ∈ (c.core k).stack.head?, c.srcPrio t < c.srcPrio n

/-- R491: the priority that a source claimed by core `k` must exceed. -/
def Chip.claimLimit (c : Chip) (k : Nat) : Nat :=
  max (c.get R.SVC_THRESH k) (((c.core k).stack.head?.map c.srcPrio).getD 0)

/-- R491: the test of the model's search for the source to claim. -/
def Chip.claimTest (c : Chip) (k n : Nat) : Bool :=
  c.deliverable n && c.toCore n && c.get R.SVC_SRCCFG_TARGET n == k && !c.on R.SVC_SRCCFG_FAST n &&
    decide (c.claimLimit k < c.srcPrio n)

theorem Chip.claimable_eq (c : Chip) (k : Nat) : c.claimable k =
    if c.on R.SVC_CORESTAT_INFAST k = true ∨ 8 ≤ (c.core k).stack.length then none else c.pendingSrcs.find? (c.claimTest k) := by
  simp only [Chip.claimable]
  unfold Chip.claimTest Chip.claimLimit
  cases (c.core k).stack <;> rfl

theorem Chip.claimLimit_lt {c : Chip} {k p : Nat} :
    c.claimLimit k < p ↔ c.get R.SVC_THRESH k < p ∧ ∀ t ∈ (c.core k).stack.head?, c.srcPrio t < p := by
  unfold Chip.claimLimit
  cases (c.core k).stack with
  | nil => simp
  | cons t l => simp

/-- The search finds, among the pending sources, those that may be claimed. -/
theorem Chip.claimTest_iff {c : Chip} {k n : Nat} (hn : n < 1024) : c.claimTest k n = true ↔ c.Claims k n := by
  simp only [Chip.claimTest, Chip.Claims, Bool.and_eq_true, beq_iff_eq, Bool.not_eq_true', decide_eq_true_eq, Chip.claimLimit_lt, hn,
    true_and, and_assoc]

theorem Chip.Claims.mem_pendingSrcs {c : Chip} {k n : Nat} (h : c.Claims k n) : n ∈ c.pendingSrcs := by
  obtain ⟨hn, hdel, -⟩ := h
  simp only [Chip.deliverable, Bool.and_eq_true] at hdel
  obtain ⟨⟨⟨⟨hon, hpend⟩, -⟩, -⟩, -⟩ := hdel
  exact Chip.mem_pendingSrcs.mpr ⟨hn, hon, hpend⟩

theorem Chip.Claims.claimRank {c : Chip} {k n : Nat} (h : c.Claims k n) : c.claimRank n = c.srcPrio n := by
  obtain ⟨-, -, -, -, hfast, -⟩ := h
  exact Chip.claimRank_of_not_fast hfast

/-- R491: a core outside a fast handler and with room on its stack claims the source of the highest PRIO, the lower number on a tie. -/
theorem Chip.claimable_best {c : Chip} {k n : Nat} (hn : c.Claims k n)
    (hbest : ∀ m, c.Claims k m → c.srcPrio m < c.srcPrio n ∨ (c.srcPrio m = c.srcPrio n ∧ n ≤ m))
    (hfast : c.on R.SVC_CORESTAT_INFAST k = false) (hroom : (c.core k).stack.length < 8) : c.claimable k = some n := by
  rw [Chip.claimable_eq, if_neg (by simpa [hfast] using hroom)]
  refine find?_eq_some_of_pairwise c.pendingSrcs_pairwise hn.mem_pendingSrcs ((Chip.claimTest_iff hn.1).mpr hn) fun m hm htest hbefore => ?_
  have hclaims : c.Claims k m := (Chip.claimTest_iff (Chip.mem_pendingSrcs.mp hm).1).mp htest
  have hmn := hbest m hclaims
  unfold Chip.ClaimsBefore at hbefore
  rw [hclaims.claimRank, hn.claimRank] at hbefore
  omega

/-- R491: in a fast handler, with 8 sources in service, or with no source that may be claimed, a claim returns none. -/
theorem Chip.claimable_none {c : Chip} {k : Nat}
    (h : c.on R.SVC_CORESTAT_INFAST k = true ∨ 8 ≤ (c.core k).stack.length ∨ ∀ n, ¬ c.Claims k n) : c.claimable k = none := by
  rw [Chip.claimable_eq]
  split
  next => rfl
  next hopen =>
    have hno : ∀ n, ¬ c.Claims k n := (or_assoc.mpr h).resolve_left hopen
    exact List.find?_eq_none.mpr fun m hm htest => hno m ((Chip.claimTest_iff (Chip.mem_pendingSrcs.mp hm).1).mp htest)

/-! ### CLAIM (R491) -/

/-- R491: a source on top of a core's stack. -/
def CoreRun.push (x : CoreRun) (n : Nat) : CoreRun := { x with stack := n :: x.stack }

/-- R491: core `k` has claimed source `n`: it is in service, on top of the stack, and in CLAIM. -/
def Chip.claimed (c : Chip) (k n : Nat) : Chip :=
  ((c.inService k n ((c.core k).push n)).set R.SVC_CLAIM_VALID k 1).set R.SVC_CLAIM_SOURCE k n

theorem exec_claim_some {s : State} {k : Fin 16} {n : Nat} (h : s.chip.claimable k.val = some n) :
    exec (.claim k) s = .next { s with chip := s.chip.claimed k.val n } := by
  change execClaim k s = _
  simp only [execClaim, onChip_eq, h]
  rfl

theorem exec_claim_none {s : State} {k : Fin 16} (h : s.chip.claimable k.val = none) : exec (.claim k) s =
    .next { s with chip := (s.chip.set R.SVC_CLAIM_VALID k.val 0).set R.SVC_CLAIM_SOURCE k.val 0 } := by
  change execClaim k s = _
  simp only [execClaim, onChip_eq, h]

section
variable {c : Chip} (h : c.Canonical) {k n : Nat}
include h

theorem Chip.claimed_valid : (c.claimed k n).on R.SVC_CLAIM_VALID k = true := by
  have hin := Chip.inService_canonical h k n ((c.core k).push n)
  rw [Chip.claimed, Chip.on_set_ne (Chip.set_canonical hin _ _ _) _ _ _ _ _ (by decide) (by decide) (.inr (by decide)),
    Chip.on_set_one hin _ _ (by decide) (by decide)]

theorem Chip.claimed_source (hn : n < 1024) : (c.claimed k n).get R.SVC_CLAIM_SOURCE k = n := by
  have hin := Chip.inService_canonical h k n ((c.core k).push n)
  rw [Chip.claimed, Chip.get_set (Chip.set_canonical hin _ _ _) _ _ _ (by decide) (by decide)]
  exact Nat.mod_eq_of_lt hn

theorem Chip.claimed_pend (hk : k < 16) : (c.claimed k n).on R.SVC_SRCSTAT_PEND n = false := by
  have hin := Chip.inService_canonical h k n ((c.core k).push n)
  have hclaim : R.SVC_CLAIM_VALID.at k ≠ R.SVC_SRCSTAT_PEND.at n := by simp only [Fld.at]; omega
  rw [Chip.claimed, Chip.on_set_ne (Chip.set_canonical hin _ _ _) R.SVC_CLAIM_SOURCE _ _ _ _ (by decide) (by decide) (.inl hclaim),
    Chip.on_set_ne hin _ _ _ _ _ (by decide) (by decide) (.inl hclaim), Chip.inService_pend h hk]

end

theorem Chip.claimed_stack {c : Chip} (h : tabWf (fun _ => ({} : CoreRun)) c.svc.cores = true) (k n : Nat) :
    ((c.claimed k n).core k).stack = n :: (c.core k).stack := by
  rw [Chip.claimed, Chip.set_core, Chip.set_core, Chip.inService_core h, CoreRun.push]

/-! ### COMPLETE (R491) -/

theorem exec_complete_top {s : State} {k : Fin 16} {v : Word} (h : (s.chip.core k.val).stack.head? = some (bits v.toNat 9 0)) :
    exec (.complete k v) s = .next { s with chip := (s.chip.popStack k.val).deliverAll } := by
  change execComplete k v s = _
  rw [execComplete, onChip_eq, if_pos h]

theorem exec_complete_other {s : State} {k : Fin 16} {v : Word} (h : (s.chip.core k.val).stack.head? ≠ some (bits v.toNat 9 0)) :
    exec (.complete k v) s =
      .next { s with chip := (s.chip.set R.SVC_CORESTAT_OOO k.val 1).serviceFault k.val } := by
  change execComplete k v s = _
  rw [execComplete, onChip_eq, if_neg h]

/-- R491: source `n` out of service, the stack of core `k` as given; whether it becomes pending again is decided after that. -/
def Chip.outOfService (c : Chip) (k n : Nat) (l : List Nat) : Chip :=
  (c.setCore k { c.core k with stack := l }).set R.SVC_SRCSTAT_INSVC n 0

theorem Chip.popStack_cons {c : Chip} {k n : Nat} {l : List Nat} (h : (c.core k).stack = n :: l) :
    c.popStack k = (c.outOfService k n l).repend n := by
  simp only [Chip.popStack, h]
  rfl

theorem Chip.popStack_stack {c : Chip} (hw : tabWf (fun _ => ({} : CoreRun)) c.svc.cores = true) {k n : Nat} {l : List Nat}
    (h : (c.core k).stack = n :: l) : ((c.popStack k).core k).stack = l := by
  rw [Chip.popStack_cons h, Chip.repend_core, Chip.outOfService, Chip.set_core, Chip.setCore_core_same hw]

/-- Of the sources' registers, taking a source out of service writes its INSVC only. -/
theorem Chip.get_outOfService_ne {c : Chip} (h : c.Canonical) {k : Nat} (hk : k < 16) (n : Nat) (l : List Nat) (f : Fld)
    (ha : 0x1204000 ≤ f.addr) (hd : R.SVC_SRCSTAT_INSVC.at n ≠ f.at n ∨ 30 < f.lo ∨ f.hi < 30) :
    (c.outOfService k n l).get f n = c.get f n := by
  rw [Chip.outOfService, Chip.get_set_ne (Chip.setCore_canonical h _ _) _ _ _ _ _ (by decide) (by decide) hd,
    Chip.get_congr _ _ (Chip.rd_setCore_ne h hk _ (by simp only [Fld.at]; omega))]

theorem Chip.on_outOfService_ne {c : Chip} (h : c.Canonical) {k : Nat} (hk : k < 16) (n : Nat) (l : List Nat) (f : Fld)
    (ha : 0x1204000 ≤ f.addr) (hd : R.SVC_SRCSTAT_INSVC.at n ≠ f.at n ∨ 30 < f.lo ∨ f.hi < 30) :
    (c.outOfService k n l).on f n = c.on f n := by
  rw [Chip.on, Chip.get_outOfService_ne h hk n l f ha hd, Chip.on]

/-- R491: a level source still asserted and not masked is pending again after its completion. -/
theorem Chip.popStack_repends {c : Chip} (h : c.Canonical) {k n : Nat} (hk : k < 16) {l : List Nat} (hst : (c.core k).stack = n :: l)
    (hsense : c.get R.SVC_SRCCFG_SENSE n = 0) (hen : c.on R.SVC_SRCCFG_EN n = true) (hlevel : c.on R.SVC_SRCSTAT_LEVEL n = true)
    (hmask : c.masked n = false) : (c.popStack k).on R.SVC_SRCSTAT_PEND n = true := by
  have hcfg : R.SVC_SRCSTAT_INSVC.at n ≠ R.SVC_SRCCFG_EN.at n := by simp only [Fld.at]; omega
  have hd : (c.outOfService k n l).Canonical := Chip.set_canonical (Chip.setCore_canonical h _ _) _ _ _
  have hmask' : (c.outOfService k n l).masked n = false := by
    rwa [Chip.masked, Chip.on_outOfService_ne h hk n l R.SVC_SRCCFG_MASK (by decide) (.inl hcfg),
      Chip.on_outOfService_ne h hk n l R.SVC_SRCSTAT_STORM (by decide) (.inr (by decide))]
  have hinsvc : (c.outOfService k n l).on R.SVC_SRCSTAT_INSVC n = false :=
    Chip.on_set_zero (Chip.setCore_canonical h _ _) _ _ (by decide) (by decide)
  rw [Chip.popStack_cons hst, Chip.repend, if_pos, Chip.on_set_one hd _ _ (by decide) (by decide)]
  refine ⟨?_, ?_, ?_, hmask', hinsvc⟩
  · rwa [Chip.get_outOfService_ne h hk n l R.SVC_SRCCFG_SENSE (by decide) (.inl hcfg)]
  · rwa [Chip.on_outOfService_ne h hk n l R.SVC_SRCCFG_EN (by decide) (.inl hcfg)]
  · rwa [Chip.on_outOfService_ne h hk n l R.SVC_SRCSTAT_LEVEL (by decide) (.inr (by decide))]

/-! ### Fast entry and FRET (R487, R491) -/

@[simp] theorem swapBank_stack (x : CoreRun) : (swapBank x).stack = x.stack := by rw [swapBank]

theorem Chip.fastEntry_stack {c : Chip} (h : tabWf (fun _ => ({} : CoreRun)) c.svc.cores = true) (k n : Nat) :
    ((c.fastEntry k n).core k).stack = n :: (c.core k).stack := by
  unfold Chip.fastEntry
  extract_lets x y
  rw [Chip.set_core, ← Chip.inService, Chip.inService_core h]
  exact congrArg (n :: ·) (swapBank_stack _)

theorem exec_fret_inFast {s : State} {k : Fin 16} (fw : FwCore) (h : s.chip.on R.SVC_CORESTAT_INFAST k.val = true) :
    exec (.fret k fw) s = .next { s with chip := (
      let x := swapBank (s.chip.core k.val)
      (((s.chip.setCore k.val { x with pc := x.fxepc }).set R.SVC_CORESTAT_INFAST k.val 0).popStack k.val).deliverAll) } := by
  change execFret k fw s = _
  rw [execFret, onChip_eq, if_pos h]

theorem exec_fret_outside {s : State} {k : Fin 16} (fw : FwCore) (h : s.chip.on R.SVC_CORESTAT_INFAST k.val = false) :
    exec (.fret k fw) s = .next { s with chip := s.chip.setCore k.val { s.chip.core k.val with
      mepc := fw.pc, mcause := 2, pc := fw.mtvec &&& ~~~ 3#64, mtvec := fw.mtvec, mpie := fw.mie, mie := false } } := by
  change execFret k fw s = _
  rw [execFret, onChip_eq, if_neg (Bool.eq_false_iff.mp h)]

/-- Settles O52: a claim finds the first source of the sorted pending ones that may be claimed; a completion pops the top and no other
source; a fast entry pushes and FRET pops. -/
theorem inServiceStack : Obligations.InServiceStack := by
  unfold Obligations.InServiceStack
  intro s k h hw c stack fits
  refine ⟨fun n hn hbest hfast hroom => ?claim, fun hnone => exec_claim_none (Chip.claimable_none hnone),
    fun v n l hst => ⟨fun hv => ?top, fun hv => ?other⟩, fun v hst => ?empty,
    Chip.fastEntry_stack hw k.val, exec_fret_inFast, exec_fret_outside⟩
  case claim =>
    exact ⟨_, exec_claim_some (Chip.claimable_best hn hbest hfast hroom), Chip.claimed_valid h, Chip.claimed_source h hn.1,
      Chip.claimed_stack hw k.val n, Chip.claimed_pend h k.isLt⟩
  case top =>
    have htop : stack.head? = some (bits v.toNat 9 0) := by rw [hst, hv, List.head?_cons]
    exact ⟨exec_complete_top htop, Chip.popStack_stack hw hst, fun _ => Chip.popStack_repends h k.isLt hst⟩
  case other =>
    have htop : stack.head? ≠ some (bits v.toNat 9 0) := by rw [hst, List.head?_cons]; exact fun e => hv (Option.some.inj e).symm
    exact ⟨exec_complete_other htop, by rw [Chip.serviceFault_core, Chip.set_core]⟩
  case empty =>
    have htop : stack.head? ≠ some (bits v.toNat 9 0) := by rw [hst, List.head?_nil]; exact (Option.some_ne_none _).symm
    exact exec_complete_other htop

end Sys2Proof.Machine
end

section
/-! What a step does as a whole: it runs the front of the queue, no command touches the queue, and what survives the few changes of which all
operations are made is kept by every command (the canonical form, R398; the secret fuses, R565, R570). -/

namespace Sys2Proof.Machine

/-! ### The queue -/

theorem step_cons {s : State} {c : Instr} {rest : List Instr} (h : s.pending = c :: rest) :
    step s = exec c { s with pending := rest } := by
  rw [step, h]

theorem step_nil {s : State} (h : s.pending = []) : step s = .next s := by
  rw [step, h]

/-- Settles O1: the two cases of the queue. -/
theorem stepRunsFront : Obligations.StepRunsFront := by
  unfold Obligations.StepRunsFront
  exact ⟨fun _ _ _ => step_cons, fun _ => step_nil⟩

/-- A command that may stop with a fault instead leaves the queue if its meaning does. -/
theorem ite_fault_pending {p : Prop} [Decidable p] {r : Fault} {o : Host.Outcome State Fault Refusal} {s t : State}
    (ho : o = .next t → t.pending = s.pending) (h : (if p then .fault r else o) = .next t) : t.pending = s.pending := by
  split at h
  · cases h
  · exact ho h

/-- Settles O2: every meaning changes the device alone; the three that access the DRAM by address may stop instead. -/
theorem execKeepsQueue : Obligations.ExecKeepsQueue := by
  unfold Obligations.ExecKeepsQueue
  intro i s t h
  unfold exec at h
  cases i with
  | dramDynamicRequest => exact ite_fault_pending onChip_pending h
  | scrubLine => exact ite_fault_pending onChip_pending h
  | move => exact ite_fault_pending onChip_pending h
  | _ => exact onChip_pending h

/-! ### Properties that every command keeps -/

/-- What survives every change of which the operations are made is kept by every command. -/
theorem exec_keeps {P : Chip → Prop} (K : Chip.Stable P) {i : Instr} {s t : State} (hP : Holds P s.chip)
    (hs : exec i s = .next t) : Holds P t.chip := by
  cases i with
  | powerOnReset => exact execPowerOnReset_keeps K hP hs
  | warmReset => exact execWarmReset_keeps K hP hs
  | resetctlWarm => exact execResetctlWarm_keeps K.toKeeps hP _ hs
  | pcieHotReset => exact execPcieHotReset_keeps K.toKeeps hP hs
  | supplyWarning => exact execSupplyWarning_keeps K.toKeeps hP _ hs
  | supplyTrip => exact execSupplyTrip_keeps K hP _ hs
  | supplyLoss => exact execSupplyLoss_keeps K hP hs
  | thermalWarning => exact execThermalWarning_keeps K.toKeeps hP _ _ hs
  | thermalShutdown => exact execThermalShutdown_keeps K hP _ _ hs
  | crystalWindow => exact execCrystalWindow_keeps K.toKeeps hP _ hs
  | crystalQualTimeout => exact execCrystalQualTimeout_keeps K.toKeeps hP hs
  | rootPllLock => exact execRootPllLock_keeps K.toKeeps hP hs
  | imageHeaderRead => exact execImageHeaderRead_keeps K.toKeeps hP _ hs
  | sectionStreamed => exact execSectionStreamed_keeps K.toKeeps hP _ hs
  | directoryRepair => exact execDirectoryRepair_keeps K.toKeeps hP hs
  | dramTrainingDone => exact execDramTrainingDone_keeps K.toKeeps hP _ hs
  | postDone => exact execPostDone_keeps K.toKeeps hP _ hs
  | planeStart => exact execPlaneStart_keeps K hP _ hs
  | bootLateTimer => exact execBootLateTimer_keeps K.toKeeps hP hs
  | freeStart => exact execFreeStart_keeps K.toKeeps hP _ hs
  | slotProven => exact execSlotProven_keeps K.toKeeps hP _ hs
  | twistStart => exact execTwistStart_keeps K hP hs
  | bodyStart => exact execBodyStart_keeps K.toKeeps hP _ hs
  | tailStart => exact execTailStart_keeps K.toKeeps hP _ hs
  | turnBoundary => exact execTurnBoundary_keeps K hP _ hs
  | houseFramePulse => exact execHouseFramePulse_keeps K.toKeeps hP _ hs
  | nop => exact execNop_keeps K.toKeeps hP _ hs
  | run => exact execRun_keeps K.toKeeps hP _ _ hs
  | move => exact execMove_keeps K.toKeeps hP _ _ _ hs
  | await => exact execAwait_keeps K.toKeeps hP _ hs
  | mark => exact execMark_keeps K.toKeeps hP _ hs
  | test => exact execTest_keeps K.toKeeps hP _ hs
  | turn => exact execTurn_keeps K.toKeeps hP _ hs
  | runArrival => exact execRunArrival_keeps K.toKeeps hP _ hs
  | runComplete => exact execRunComplete_keeps K hP _ _ hs
  | budgetExpiry => exact execBudgetExpiry_keeps K.toKeeps hP _ _ hs
  | abortComplete => exact execAbortComplete_keeps K.toKeeps hP _ _ hs
  | ownershipAbort => exact execOwnershipAbort_keeps K.toKeeps hP _ _ hs
  | bodyEndShort => exact execBodyEndShort_keeps K.toKeeps hP _ hs
  | testStepEnd => exact execTestStepEnd_keeps K.toKeeps hP _ _ hs
  | moveComplete => exact execMoveComplete_keeps K hP _ _ hs
  | cvuSeed => exact execCvuSeed_keeps K.toKeeps hP _ hs
  | cvuSave => exact execCvuSave_keeps K hP _ hs
  | cvuRestore => exact execCvuRestore_keeps K.toKeeps hP _ hs
  | salu => exact execSalu_keeps K.toKeeps hP _ _ _ hs
  | smul => exact execSmul_keeps K.toKeeps hP _ _ _ hs
  | sdiv => exact execSdiv_keeps K.toKeeps hP _ _ _ hs
  | smem => exact execSmem_keeps K.toKeeps hP _ _ _ hs
  | stab => exact execStab_keeps K.toKeeps hP _ _ hs
  | ctrl => exact execCtrl_keeps K.toKeeps hP _ _ _ hs
  | achk => exact execAchk_keeps K.toKeeps hP _ _ hs
  | csr => exact execCsr_keeps K.toKeeps hP _ _ hs
  | valu => exact execValu_keeps K.toKeeps hP _ _ _ hs
  | vcmp => exact execVcmp_keeps K.toKeeps hP _ _ _ hs
  | vmul => exact execVmul_keeps K.toKeeps hP _ _ _ hs
  | vsad => exact execVsad_keeps K.toKeeps hP _ _ hs
  | vred => exact execVred_keeps K.toKeeps hP _ _ _ hs
  | vperm => exact execVperm_keeps K.toKeeps hP _ _ _ hs
  | vmem => exact execVmem_keeps K.toKeeps hP _ _ _ hs
  | movs => exact execMovs_keeps K.toKeeps hP _ _ _ hs
  | send => exact execSend_keeps K.toKeeps hP _ _ hs
  | sendl => exact execSendl_keeps K.toKeeps hP _ _ hs
  | commit => exact execCommit_keeps K.toKeeps hP _ _ hs
  | resultWriteback => exact execResultWriteback_keeps K.toKeeps hP _ _ hs
  | sendArrival => exact execSendArrival_keeps K.toKeeps hP _ _ hs
  | variantStagingDone => exact execVariantStagingDone_keeps K.toKeeps hP _ hs
  | st2110PacketRx => exact execSt2110PacketRx_keeps K.toKeeps hP _ hs
  | legDown => exact execLegDown_keeps K.toKeeps hP _ _ _ hs
  | ancPacketRx => exact execAncPacketRx_keeps K.toKeeps hP _ _ _ hs
  | parseNal => exact execParseNal_keeps K.toKeeps hP _ hs
  | audioFrameRx => exact execAudioFrameRx_keeps K.toKeeps hP _ _ hs
  | audioClockLoss => exact execAudioClockLoss_keeps K.toKeeps hP _ _ hs
  | rateMeterWindow => exact execRateMeterWindow_keeps K.toKeeps hP _ hs
  | maskCommit => exact execMaskCommit_keeps K.toKeeps hP _ _ _ hs
  | audioOutputFrame => exact execAudioOutputFrame_keeps K.toKeeps hP _ _ hs
  | portUp => exact execPortUp_keeps K.toKeeps hP _ _ hs
  | portDown => exact execPortDown_keeps K.toKeeps hP _ _ hs
  | ethFrameRx => exact execEthFrameRx_keeps K.toKeeps hP _ hs
  | steadyBaseTick => exact execSteadyBaseTick_keeps K.toKeeps hP _ hs
  | estimateMissed => exact execEstimateMissed_keeps K.toKeeps hP _ hs
  | announceTimeout => exact execAnnounceTimeout_keeps K.toKeeps hP _ _ hs
  | holdsExpiry => exact execHoldsExpiry_keeps K.toKeeps hP _ hs
  | membershipReport => exact execMembershipReport_keeps K.toKeeps hP _ hs
  | arpRefresh => exact execArpRefresh_keeps K.toKeeps hP _ _ hs
  | mediaPacketSend => exact execMediaPacketSend_keeps K.toKeeps hP _ _ hs
  | scte35Repeat => exact execScte35Repeat_keeps K.toKeeps hP _ _ hs
  | dynamicFrameSend => exact execDynamicFrameSend_keeps K.toKeeps hP _ _ hs
  | tsqPop => exact execTsqPop_keeps K.toKeeps hP _ _ hs
  | tbLatch => exact execTbLatch_keeps K.toKeeps hP _ _ hs
  | refActivityLoss => exact execRefActivityLoss_keeps K.toKeeps hP _ hs
  | refGlitch => exact execRefGlitch_keeps K.toKeeps hP _ hs
  | refPulse => exact execRefPulse_keeps K.toKeeps hP _ _ _ _ hs
  | refWindowEnd => exact execRefWindowEnd_keeps K.toKeeps hP _ _ hs
  | wtrExpiry => exact execWtrExpiry_keeps K.toKeeps hP _ hs
  | dpllSwitchComplete => exact execDpllSwitchComplete_keeps K.toKeeps hP hs
  | holdoverSecond => exact execHoldoverSecond_keeps K.toKeeps hP hs
  | xtalspecCheck => exact execXtalspecCheck_keeps K.toKeeps hP hs
  | phaseStep => exact execPhaseStep_keeps K.toKeeps hP _ _ hs
  | crystalMonitorWindow => exact execCrystalMonitorWindow_keeps K.toKeeps hP _ hs
  | rootPllLoss => exact execRootPllLoss_keeps K.toKeeps hP hs
  | domainMisalign => exact execDomainMisalign_keeps K.toKeeps hP hs
  | reelFlushDone => exact execReelFlushDone_keeps K hP hs
  | clockSwitchWatchdog => exact execClockSwitchWatchdog_keeps K.toKeeps hP _ hs
  | dramDynamicRequest => exact execDramDynamicRequest_keeps K hP _ hs
  | mr4Poll => exact execMr4Poll_keeps K.toKeeps hP _ _ _ hs
  | zqCalibration => exact execZqCalibration_keeps K.toKeeps hP _ hs
  | dqOscillatorRead => exact execDqOscillatorRead_keeps K.toKeeps hP _ _ hs
  | rfmIssue => exact execRfmIssue_keeps K.toKeeps hP _ _ hs
  | snagHoldExpiry => exact execSnagHoldExpiry_keeps K hP _ _ _ hs
  | scrubLine => exact execScrubLine_keeps K.toKeeps hP _ _ hs
  | panicRetry => exact execPanicRetry_keeps K.toKeeps hP _ _ hs
  | seamStart => exact execSeamStart_keeps K.toKeeps hP hs
  | seamEnd => exact execSeamEnd_keeps K.toKeeps hP _ hs
  | seamTimeout => exact execSeamTimeout_keeps K.toKeeps hP hs
  | nandPageReadDone => exact execNandPageReadDone_keeps K.toKeeps hP _ hs
  | nandProgramDone => exact execNandProgramDone_keeps K.toKeeps hP _ _ _ hs
  | nandEraseDone => exact execNandEraseDone_keeps K.toKeeps hP _ _ _ hs
  | nandBusyTimeout => exact execNandBusyTimeout_keeps K.toKeeps hP _ _ hs
  | scrubPassStart => exact execScrubPassStart_keeps K.toKeeps hP hs
  | nandScrubPage => exact execNandScrubPage_keeps K.toKeeps hP _ _ hs
  | blockRefresh => exact execBlockRefresh_keeps K.toKeeps hP _ _ _ _ hs
  | reelPageProgram => exact execReelPageProgram_keeps K.toKeeps hP hs
  | logPageProgram => exact execLogPageProgram_keeps K.toKeeps hP hs
  | installTokenAccrue => exact execInstallTokenAccrue_keeps K.toKeeps hP hs
  | goldenTokenAccrue => exact execGoldenTokenAccrue_keeps K.toKeeps hP hs
  | receiverDetect => exact execReceiverDetect_keeps K.toKeeps hP _ _ hs
  | trainingSetRx => exact execTrainingSetRx_keeps K.toKeeps hP _ _ _ _ hs
  | bringupStepTimeout => exact execBringupStepTimeout_keeps K.toKeeps hP _ hs
  | rateLockTimeout => exact execRateLockTimeout_keeps K.toKeeps hP _ hs
  | tapAdjustTimeout => exact execTapAdjustTimeout_keeps K.toKeeps hP _ hs
  | exchangeRetry => exact execExchangeRetry_keeps K.toKeeps hP _ hs
  | alignmentMarkerSend => exact execAlignmentMarkerSend_keeps K.toKeeps hP _ hs
  | alignmentMarkerRx => exact execAlignmentMarkerRx_keeps K.toKeeps hP _ _ hs
  | lossOfLock => exact execLossOfLock_keeps K.toKeeps hP _ _ _ hs
  | strandFrameRx => exact execStrandFrameRx_keeps K.toKeeps hP _ _ hs
  | strandFrameSend => exact execStrandFrameSend_keeps K.toKeeps hP _ _ _ hs
  | remoteStatusSend => exact execRemoteStatusSend_keeps K.toKeeps hP _ hs
  | electricalIdleEntry => exact execElectricalIdleEntry_keeps K.toKeeps hP _ hs
  | electricalIdleExit => exact execElectricalIdleExit_keeps K.toKeeps hP _ hs
  | interruptSense => exact execInterruptSense_keeps K.toKeeps hP _ _ hs
  | coalesceTimeout => exact execCoalesceTimeout_keeps K.toKeeps hP _ hs
  | stormWindow => exact execStormWindow_keeps K.toKeeps hP _ hs
  | levelmaxExpiry => exact execLevelmaxExpiry_keeps K.toKeeps hP _ hs
  | claim => exact execClaim_keeps K.toKeeps hP _ hs
  | complete => exact execComplete_keeps K.toKeeps hP _ _ hs
  | fret => exact execFret_keeps K.toKeeps hP _ _ hs
  | hostack => exact execHostack_keeps K.toKeeps hP _ hs
  | icglobalWrite => exact execIcglobalWrite_keeps K.toKeeps hP _ hs
  | eventPinEdge => exact execEventPinEdge_keeps K.toKeeps hP _ _ hs
  | evoutWrite => exact execEvoutWrite_keeps K.toKeeps hP _ _ hs
  | enqueue => exact execEnqueue_keeps K.toKeeps hP _ _ hs
  | affwaitExpiry => exact execAffwaitExpiry_keeps K.toKeeps hP _ hs
  | take => exact execTake_keeps K.toKeeps hP _ hs
  | done => exact execDone_keeps K.toKeeps hP _ _ hs
  | itemOverrun => exact execItemOverrun_keeps K.toKeeps hP _ hs
  | coreReset => exact execCoreReset_keeps K.toKeeps hP _ hs
  | serviceWatchdog => exact execServiceWatchdog_keeps K.toKeeps hP hs
  | fastHandlerTimeout => exact execFastHandlerTimeout_keeps K.toKeeps hP _ hs
  | ringEnable => exact execRingEnable_keeps K.toKeeps hP _ hs
  | sqDoorbell => exact execSqDoorbell_keeps K.toKeeps hP _ hs
  | cqHeadWrite => exact execCqHeadWrite_keeps K.toKeeps hP _ hs
  | mgmtDatagram => exact execMgmtDatagram_keeps K hP _ hs
  | hello => exact execHello_keeps K.toKeeps hP _ hs
  | variant => exact execVariant_keeps K hP _ _ hs
  | trim => exact execTrim_keeps K hP _ _ _ hs
  | mute => exact execMute_keeps K hP _ _ hs
  | unmute => exact execUnmute_keeps K hP _ _ hs
  | forcesub => exact execForcesub_keeps K hP _ _ hs
  | release => exact execRelease_keeps K hP _ _ hs
  | splice => exact execSplice_keeps K hP _ _ hs
  | keyload => exact execKeyload_keeps K hP _ _ hs
  | keyclear => exact execKeyclear_keeps K hP _ _ hs
  | selftest => exact execSelftest_keeps K hP _ _ hs
  | plySwitch => exact execPlySwitch_keeps K hP _ hs
  | plyHold => exact execPlyHold_keeps K hP _ hs
  | plyUnhold => exact execPlyUnhold_keeps K hP _ hs
  | plyFence => exact execPlyFence_keeps K hP _ hs
  | plyRejoin => exact execPlyRejoin_keeps K hP _ hs
  | plyAlone => exact execPlyAlone_keeps K hP _ hs
  | power => exact execPower_keeps K hP _ _ hs
  | installBegin => exact execInstallBegin_keeps K hP _ _ _ hs
  | installData => exact execInstallData_keeps K hP _ _ _ hs
  | installCommit => exact execInstallCommit_keeps K hP _ _ hs
  | installAbort => exact execInstallAbort_keeps K hP _ hs
  | logread => exact execLogread_keeps K hP _ _ _ _ hs
  | unknownCommand => exact execUnknownCommand_keeps K hP _ hs
  | reelRead => exact execReelRead_keeps K.toKeeps hP _ hs
  | reelTokenQuery => exact execReelTokenQuery_keeps K.toKeeps hP _ hs
  | reelNandFetchDone => exact execReelNandFetchDone_keeps K.toKeeps hP hs
  | faultCollect => exact execFaultCollect_keeps K.toKeeps hP hs
  | faultack => exact execFaultack_keeps K.toKeeps hP hs
  | saferel => exact execSaferel_keeps K.toKeeps hP hs
  | firstrecClear => exact execFirstrecClear_keeps K.toKeeps hP hs
  | selftestPatternsEnd => exact execSelftestPatternsEnd_keeps K.toKeeps hP _ hs
  | overlapEnd => exact execOverlapEnd_keeps K.toKeeps hP _ hs
  | proofTestVisit => exact execProofTestVisit_keeps K.toKeeps hP hs
  | ptageMinute => exact execPtageMinute_keeps K.toKeeps hP hs
  | keyStoreCheck => exact execKeyStoreCheck_keeps K.toKeeps hP _ hs
  | nonceRead => exact execNonceRead_keeps K.toKeeps hP hs
  | debugToken => exact execDebugToken_keeps K.toKeeps hP _ hs
  | tokenVerdict => exact execTokenVerdict_keeps K hP _ hs
  | lockoutExpiry => exact execLockoutExpiry_keeps K.toKeeps hP hs
  | debugGrant => exact execDebugGrant_keeps K.toKeeps hP hs
  | sessionExpiry => exact execSessionExpiry_keeps K.toKeeps hP hs
  | debugRelease => exact execDebugRelease_keeps K.toKeeps hP hs
  | provision => exact execProvision_keeps K hP _ hs
  | deploy => exact execDeploy_keeps K hP _ _ hs
  | rma => exact execRma_keeps K hP _ _ _ hs
  | planeDrained => exact execPlaneDrained_keeps K hP _ hs
  | debugHalt => exact execDebugHalt_keeps K.toKeeps hP _ hs
  | debugStep u => exact execDebugStep_keeps K.toKeeps hP u hs
  | debugResume => exact execDebugResume_keeps K.toKeeps hP _ hs
  | debugGateOpen => exact execDebugGateOpen_keeps K.toKeeps hP _ hs
  | debugBoot => exact execDebugBoot_keeps K.toKeeps hP hs
  | jtagIdcode => exact execJtagIdcode_keeps K.toKeeps hP hs
  | jtagBypass => exact execJtagBypass_keeps K.toKeeps hP hs
  | samplePreload => exact execSamplePreload_keeps K.toKeeps hP _ _ hs
  | extest => exact execExtest_keeps K.toKeeps hP _ _ hs
  | clamp => exact execClamp_keeps K.toKeeps hP hs
  | highz => exact execHighz_keeps K.toKeeps hP hs
  | intest => exact execIntest_keeps K.toKeeps hP _ _ hs
  | scanDump => exact execScanDump_keeps K.toKeeps hP _ hs
  | memoryBistControl => exact execMemoryBistControl_keeps K.toKeeps hP _ _ hs
  | wakePin => exact execWakePin_keeps K hP _ hs
  | wakeTimer => exact execWakeTimer_keeps K hP hs
  | p4OffTimeout => exact execP4OffTimeout_keeps K.toKeeps hP hs
  | heartbeatSend => exact execHeartbeatSend_keeps K.toKeeps hP hs
  | heartbeatRx => exact execHeartbeatRx_keeps K.toKeeps hP _ hs
  | pathbWordSend => exact execPathbWordSend_keeps K.toKeeps hP hs
  | pathbWordRx => exact execPathbWordRx_keeps K.toKeeps hP _ _ hs
  | pathSilence => exact execPathSilence_keeps K.toKeeps hP _ hs
  | leaseRenew => exact execLeaseRenew_keeps K.toKeeps hP hs
  | leaseExpiry => exact execLeaseExpiry_keeps K.toKeeps hP hs
  | bobbinTake => exact execBobbinTake_keeps K.toKeeps hP hs
  | roleResolveTimeout => exact execRoleResolveTimeout_keeps K.toKeeps hP hs
  | plyHello => exact execPlyHello_keeps K.toKeeps hP _ hs
  | plyRelease => exact execPlyRelease_keeps K.toKeeps hP _ hs
  | releaseAckDeadline => exact execReleaseAckDeadline_keeps K.toKeeps hP hs
  | transferInstant => exact execTransferInstant_keeps K.toKeeps hP _ hs
  | plyLegs => exact execPlyLegs_keeps K.toKeeps hP _ hs
  | plyForward => exact execPlyForward_keeps K hP _ hs
  | plyAgree => exact execPlyAgree_keeps K.toKeeps hP _ hs
  | plyJoin => exact execPlyJoin_keeps K.toKeeps hP _ hs
  | plyTakereq => exact execPlyTakereq_keeps K.toKeeps hP _ hs
  | stateCopyFrame => exact execStateCopyFrame_keeps K.toKeeps hP _ hs
  | stateCopyComplete => exact execStateCopyComplete_keeps K hP _ _ hs
  | lowWordRead => exact execLowWordRead_keeps K.toKeeps hP _ _ hs
  | registerAccessAbort => exact execRegisterAccessAbort_keeps K.toKeeps hP _ hs
  | registerWrite => exact execRegisterWrite_keeps K.toKeeps hP _ hs
  | ingCntclr => exact execIngCntclr_keeps K.toKeeps hP _ hs
  | laneCntclr => exact execLaneCntclr_keeps K.toKeeps hP _ _ hs
  | rateCntclr => exact execRateCntclr_keeps K.toKeeps hP _ hs
  | spnCntclr => exact execSpnCntclr_keeps K.toKeeps hP _ hs
  | decCntclr => exact execDecCntclr_keeps K.toKeeps hP _ hs
  | audCntclr => exact execAudCntclr_keeps K.toKeeps hP _ hs
  | netCntclrLane => exact execNetCntclrLane_keeps K.toKeeps hP _ hs
  | netCntclrFlow => exact execNetCntclrFlow_keeps K.toKeeps hP _ hs
  | clkCntclr => exact execClkCntclr_keeps K.toKeeps hP _ hs
  | dramCntclr => exact execDramCntclr_keeps K.toKeeps hP _ hs
  | nandCntclr => exact execNandCntclr_keeps K.toKeeps hP _ hs
  | strCntclr => exact execStrCntclr_keeps K.toKeeps hP _ hs
  | svcCntclrSource => exact execSvcCntclrSource_keeps K.toKeeps hP _ hs
  | svcCntclrQueue => exact execSvcCntclrQueue_keeps K.toKeeps hP _ hs
  | safCntclr => exact execSafCntclr_keeps K.toKeeps hP _ hs
  | delayReqSend => exact execDelayReqSend_keeps K.toKeeps hP _ hs
  | pcieLinkUp => exact execPcieLinkUp_keeps K.toKeeps hP hs
  | eieReceived => exact execEieReceived_keeps K.toKeeps hP _ hs
  | exitBurstReceived => exact execExitBurstReceived_keeps K.toKeeps hP _ hs
  | supplyWarningEnd => exact execSupplyWarningEnd_keeps K.toKeeps hP _ hs
  | thermalShutdownRelease => exact execThermalShutdownRelease_keeps K hP _ _ hs
  | phaseStepApplied => exact execPhaseStepApplied_keeps K.toKeeps hP _ hs
  | clockSwitchComplete => exact execClockSwitchComplete_keeps K.toKeeps hP _ hs
  | transientAgeOut => exact execTransientAgeOut_keeps K.toKeeps hP _ hs

/-- A step keeps it, whether a command waits or not. -/
theorem step_keeps {P : Chip → Prop} (K : Chip.Stable P) {s t : State} (hP : Holds P s.chip) (hs : step s = .next t) :
    Holds P t.chip := by
  cases hq : s.pending with
  | nil =>
    rw [step_nil hq] at hs
    cases hs
    exact hP
  | cons c rest => exact exec_keeps K (s := { s with pending := rest }) hP (step_cons hq ▸ hs)

/-! ### The canonical form -/

/-- Settles O3: the register table and the DRAM are empty at reset. -/
theorem resetMeetsInv : Obligations.ResetMeetsInv := reset_canonical

theorem Chip.canonical_stable : Chip.Stable Chip.Canonical where
  toKeeps := Chip.canonical_keeps
  write _ _ _ h := ⟨h.1, Memory.wf_memPutAll _ _ _ h.2⟩
  reset _ _ h := Chip.fresh_canonical h _
  lost _ _ h := ⟨h.1, rfl⟩
  blow _ _ h := h
  burn _ h := h

/-- Settles O4: the canonical form survives every change of which the commands are made. -/
theorem stepKeepsInv : Obligations.StepKeepsInv := by
  unfold Obligations.StepKeepsInv
  exact fun _ _ h hs => step_keeps Chip.canonical_stable h hs

/-! ### The secret fuses (R565, R570) -/

/-- The bits of the secret rows of `x` are among those of device `c`. -/
def Chip.HasFuses (x : Sec) (c : Chip) : Prop :=
  (∀ (k : Fin 3) (n : Fin 256), (x.ik.getD k.val 0).testBit n.val = true → (c.sec.ik.getD k.val 0).testBit n.val = true) ∧
  ∀ n : Fin 256, x.kwk.testBit n.val = true → c.sec.kwk.testBit n.val = true

theorem Chip.HasFuses.congr {x : Sec} {c d : Chip} (h : c.HasFuses x) (hik : d.sec.ik = c.sec.ik) (hkwk : d.sec.kwk = c.sec.kwk) :
    d.HasFuses x := by
  unfold Chip.HasFuses
  rwa [hik, hkwk]

/-- R565: a row of IK0 to IK2 as PROVISION blows it. -/
theorem Chip.blowSecrets_ik (c : Chip) (b : List Byte) (k : Fin 3) :
    (c.blowSecrets b).sec.ik.getD k.val 0 = c.sec.ik.getD k.val 0 ||| leAt b (0x284 + 32 * k.val) 32 := by
  simp [Chip.blowSecrets, List.getD, k.isLt]

/-- R570: a row of IK0 to IK2 after RMA is all ones. -/
theorem Chip.burnSecrets_ik (c : Chip) (k : Fin 3) : c.burnSecrets.sec.ik.getD k.val 0 = 2 ^ 256 - 1 := by
  fin_cases k <;> rfl

theorem testBit_allOnes (n : Fin 256) : (2 ^ 256 - 1).testBit n.val = true := by
  rw [Nat.testBit_two_pow_sub_one]
  exact decide_eq_true n.isLt

/-- No change of which the commands are made clears a bit of a secret row. -/
theorem Chip.hasFuses_stable (x : Sec) : Chip.Stable (Chip.HasFuses x) where
  wr _ _ _ h := h
  upd h _ hik hkwk := h.congr hik hkwk
  write _ _ _ h := h
  reset _ _ h := h
  lost _ _ h := h
  blow c b h := by
    refine ⟨fun k n hn => ?_, fun n hn => ?_⟩
    · rw [Chip.blowSecrets_ik, Nat.testBit_or, h.1 k n hn, Bool.true_or]
    · exact (Nat.testBit_or ..).trans (by rw [h.2 n hn, Bool.true_or])
  burn c h := by
    refine ⟨fun k n _ => ?_, fun n _ => testBit_allOnes n⟩
    rw [Chip.burnSecrets_ik, testBit_allOnes]

/-- Settles O5: the bits that are blown before a step are among those after it. -/
theorem secretFusesOnlyGrow : Obligations.SecretFusesOnlyGrow := by
  unfold Obligations.SecretFusesOnlyGrow
  exact fun s _ hs => step_keeps (Chip.hasFuses_stable s.chip.sec) ⟨fun _ _ hn => hn, fun _ hn => hn⟩ hs

/-! ### The DRAM (R398) -/

/-- Settles O7: a byte of the string is read where it was written, and a byte outside as before. -/
theorem dramWriteReadsBack : Obligations.DramWriteReadsBack := by
  unfold Obligations.DramWriteReadsBack
  refine fun c a l => ⟨?string, fun b hb => ?outside⟩
  case string =>
    refine List.ext_getElem (by simp [Chip.dramRead]) fun i _ hi => ?_
    simp [Chip.dramRead, dramByte_dramWrite, hi]
  case outside => rw [dramByte_dramWrite, if_neg (by omega)]

end Sys2Proof.Machine
end

section
/-! Commands as changes of the device: what a meaning made by `onChip` answers. -/

namespace Sys2Proof.Machine

/-- A meaning answers the device that its change gives. -/
theorem onChip_next {f : Chip → Chip} {s : State} {c : Chip} (h : f s.chip = c) : onChip f s = .next { s with chip := c } := by
  rw [onChip_eq, h]

/-- A meaning whose change leaves the device answers the state itself. -/
theorem onChip_same {f : Chip → Chip} {s : State} (h : f s.chip = s.chip) : onChip f s = .next s := onChip_next h

end Sys2Proof.Machine
end

section
/-! Accesses to the register map (R14, R17, R18, R657 to R665): the causes of an abort and the abort log, the shadows of 64-bit reads, plain
register writes, and the registers that identify the device. -/

namespace Sys2Proof.Machine

/-! ### The cause of an abort (R659) -/

/-- Settles O12: the tests of the causes in their order. -/
theorem abortCauseOrder : Obligations.AbortCauseOrder := by
  unfold Obligations.AbortCauseOrder
  intro c x hwho
  have hply (q : Prop) : ¬ (x.who = .ply ∧ q) := fun h => hwho h.1
  refine ⟨fun hlock hearly => if_pos ⟨hlock, hearly⟩, fun hopen => ?_⟩
  have hopen : ¬ (c.on R.CLK_ROOTSTAT_PLLLOCK = false ∧ earlyWindow x.addr = false) := by
    rintro ⟨hlock, hearly⟩
    rcases hopen with h | h
    · exact Bool.false_ne_true (hlock.symm.trans h)
    · exact Bool.false_ne_true (hearly.symm.trans h)
  refine ⟨fun hsize => ?size, fun h4 halign => ⟨fun himp => ?unimplemented, fun himp hgate => ?gated, fun himp hgate => ?answers⟩⟩
  case size => rw [Chip.abortCause, if_neg hopen, if_pos hsize]
  all_goals
    have hsize : ¬ (x.size ≠ 4 ∨ x.addr % 4 ≠ 0) := fun h => h.elim (· h4) (· halign)
    rw [Chip.abortCause, if_neg hopen, if_neg hsize, if_neg (hply _)]
  case unimplemented => rw [if_pos himp]
  case gated => rw [if_neg (Bool.not_eq_false _ ▸ himp), if_pos hgate]
  case answers => rw [if_neg (Bool.not_eq_false _ ▸ himp), if_neg (Bool.eq_false_iff.mp hgate)]

/-! ### The abort log (R660) -/

/-- R660: the record of a first abort. -/
def Chip.abortRecord (c : Chip) (x : Access) (k : Nat) : Chip :=
  let c := (c.set R.GLB_ABORTINFO_VALID 0 1).set R.GLB_ABORTADDR_ADDR 0 x.addr
  let c := (c.set R.GLB_ABORTINFO_CAUSE 0 k).setB R.GLB_ABORTINFO_WRITE 0 x.value.isSome
  (c.set R.GLB_ABORTINFO_REQ 0 (reqCode x.who)).set R.GLB_ABORTINFO_CORE 0 (reqCore x.who)

theorem Chip.logAbort_first {c : Chip} (h : c.on R.GLB_ABORTINFO_VALID = false) (x : Access) (k : Nat) :
    c.logAbort x k = (c.abortRecord x k).bump R.GLB_ABORTINFO_COUNT 0 := by
  rw [Chip.logAbort, if_neg (Bool.eq_false_iff.mp h), Chip.abortRecord]

theorem Chip.logAbort_later {c : Chip} (h : c.on R.GLB_ABORTINFO_VALID = true) (x : Access) (k : Nat) :
    c.logAbort x k = (c.set R.GLB_ABORTINFO_MORE 0 1).bump R.GLB_ABORTINFO_COUNT 0 := by
  rw [Chip.logAbort, if_pos h]

/-- R659: the log stands in registers. -/
theorem Chip.logAbort_eq (c : Chip) (x : Access) (k : Nat) : c.logAbort x k = { c with regs := (c.logAbort x k).regs } := by
  cases h : c.on R.GLB_ABORTINFO_VALID with
  | false => rw [Chip.logAbort_first h]; rfl
  | true => rw [Chip.logAbort_later h]; rfl

/-- R659: an abort writes the two registers of the log alone. -/
theorem Chip.rd_logAbort_ne {c : Chip} (h : c.Canonical) (x : Access) (k : Nat) {a : Nat} (h0 : a ≠ 0x300) (h4 : a ≠ 0x304) :
    (c.logAbort x k).rd a = c.rd a := by
  cases hv : c.on R.GLB_ABORTINFO_VALID with
  | false => rw [Chip.logAbort_first hv]; unfold Chip.abortRecord Chip.bump Chip.setB; grind [Fld.at]
  | true => rw [Chip.logAbort_later hv]; unfold Chip.bump; grind [Fld.at]

section
variable {c : Chip} (h : c.Canonical) (x : Access) (k : Nat)
include h

theorem Chip.logAbort_valid : (c.logAbort x k).on R.GLB_ABORTINFO_VALID = true := by
  cases hv : c.on R.GLB_ABORTINFO_VALID with
  | false => rw [Chip.logAbort_first hv]; simp (disch := first | apply_rules [Chip.set_canonical] | decide) [Chip.abortRecord, Chip.bump, Chip.setB, Chip.on, Chip.get_set, Chip.get_set_ne, Fld.width]
  | true => rw [Chip.logAbort_later hv]; simp (disch := first | apply_rules [Chip.set_canonical] | decide) only [Chip.bump, Chip.on_set_ne, hv]

theorem Chip.logAbort_count :
    (c.logAbort x k).get R.GLB_ABORTINFO_COUNT = min 0xFFFF (c.get R.GLB_ABORTINFO_COUNT + 1) := by
  cases hv : c.on R.GLB_ABORTINFO_VALID with
  | false => rw [Chip.logAbort_first hv]; simp (disch := first | apply_rules [Chip.set_canonical] | decide) [Chip.abortRecord, Chip.bump, Chip.setB, Chip.get_set, Chip.get_set_ne, Fld.width]
  | true => rw [Chip.logAbort_later hv]; simp (disch := first | apply_rules [Chip.set_canonical] | decide) [Chip.bump, Chip.get_set, Chip.get_set_ne, Fld.width]

end

theorem reqCode_lt (w : Requester) : reqCode w < 2 ^ 3 := by
  cases w <;> simp [reqCode]

theorem reqCore_lt (w : Requester) : reqCore w < 2 ^ 4 := by
  cases w with
  | core k => exact k.isLt
  | _ => exact Nat.two_pow_pos 4

/-- R660: the record of a first abort reads back. -/
theorem Chip.abortRecord_reads {c : Chip} (h : c.Canonical) (x : Access) {k : Nat} (hk : k < 4) (ha : x.addr < 2 ^ 26) :
    let d := (c.abortRecord x k).bump R.GLB_ABORTINFO_COUNT 0
    d.get R.GLB_ABORTADDR_ADDR = x.addr ∧ d.get R.GLB_ABORTINFO_CAUSE = k ∧ d.on R.GLB_ABORTINFO_WRITE = x.value.isSome ∧
      d.get R.GLB_ABORTINFO_REQ = reqCode x.who ∧ d.get R.GLB_ABORTINFO_CORE = reqCore x.who := by
  have hreq := reqCode_lt x.who
  have hcore := reqCore_lt x.who
  simp (disch := first | apply_rules [Chip.set_canonical] | decide) only [Chip.abortRecord, Chip.bump, Chip.setB, Chip.on, Chip.get_set, Chip.get_set_ne]
  refine ⟨Nat.mod_eq_of_lt ha, Nat.mod_eq_of_lt hk, ?write, Nat.mod_eq_of_lt hreq, Nat.mod_eq_of_lt hcore⟩
  case write => cases x.value <;> rfl

theorem exec_registerAccessAbort {s : State} {x : Access} {k : Nat} (h : s.chip.abortCause x = some k) :
    exec (.registerAccessAbort x) s = .next { s with chip := s.chip.logAbort x k } := by
  change execRegisterAccessAbort x s = _
  rw [execRegisterAccessAbort, onChip_eq, h]

/-- R659: a write that aborts only enters the log. -/
theorem exec_registerWrite_aborts {s : State} {x : Access} {k : Nat} (h : s.chip.abortCause x = some k) (hv : x.value.isSome = true) :
    exec (.registerWrite [x]) s = .next { s with chip := s.chip.logAbort x k } := by
  change execRegisterWrite [x] s = _
  simp [execRegisterWrite, insertWrite, h, hv, Chip.each]

/-- Settles O11: an abort writes the log alone, with its record where it is the first. -/
theorem abortOnlyLogs : Obligations.AbortOnlyLogs := by
  unfold Obligations.AbortOnlyLogs
  intro s x k (h : s.chip.Canonical) hk ha hcause
  refine ⟨exec_registerAccessAbort hcause, exec_registerWrite_aborts hcause, Chip.logAbort_eq _ _ _,
    fun a => Chip.rd_logAbort_ne h x k, Chip.logAbort_valid h x k, Chip.logAbort_count h x k, fun hv => ?first, fun hv => ?later⟩
  case first => rw [Chip.logAbort_first hv]; exact Chip.abortRecord_reads h x hk ha
  case later => rw [Chip.logAbort_later hv]; simp (disch := first | apply_rules [Chip.set_canonical] | decide) [Chip.bump, Chip.on, Chip.get_set, Chip.get_set_ne, Chip.rd_set_ne, Fld.width]

end Sys2Proof.Machine
end

section
/-! Plain register writes, the shadows of 64-bit reads and the registers that identify the device (R14, R17, R18, R657, R658). -/

namespace Sys2Proof.Machine

/-! ### Plain writes -/

/-- R17: the bit of the word that a write below D2 leaves. -/
theorem Chip.writtenWord_getLsbD (c : Chip) (r : RegRow) (a : Nat) (v : Word) {n : Nat} (hn : n < 32) :
    (c.writtenWord r false a v).getLsbD n =
      if r.w1c.testBit n then (if (r.rw ||| r.rws).testBit n then v.getLsbD n else (c.rd a).getLsbD n) && !v.getLsbD n
      else if (r.rw ||| r.rws).testBit n then v.getLsbD n
      else (c.rd a).getLsbD n := by
  simp only [Chip.writtenWord, Bool.false_eq_true, if_false, Nat.or_zero, BitVec.getLsbD_and, BitVec.getLsbD_or, BitVec.getLsbD_not,
    BitVec.getLsbD_ofNat, hn, decide_true, Bool.true_and]
  cases r.w1c.testBit n <;> cases (r.rw ||| r.rws).testBit n <;> simp

/-- Outside the records whose VALID clears more, a write clears nothing else. -/
theorem Chip.validCleared_plain (c : Chip) {a : Nat} (hsf : a ≠ R.SEQ_SFSTAT_VALID.addr) (hdram : a ≠ R.DRAM_FAULTREC_VALID.addr)
    (hnand : a ≠ R.NAND_FAULTREC_VALID.addr) (habort : a ≠ R.GLB_ABORTINFO_VALID.addr) (hlane : gateRange a 0x400000 0x100000 = false)
    (hspn : gateRange a 0x800000 0xC0000 = false) : c.validCleared a = c := by
  simp [Chip.validCleared, hsf, hdram, hnand, habort, hlane, hspn]

theorem gateRange_eq_false {a lo len : Nat} (h : a < lo ∨ lo + len ≤ a) : gateRange a lo len = false :=
  decide_eq_false (by omega)

/-- Outside the service complex a write delivers nothing. -/
theorem Chip.svcWritten_outside (c was : Chip) {a : Nat} (h : a < 0x1200000 ∨ 0x1300000 ≤ a) : c.svcWritten was a = c := by
  have hsrc : gateRange a 0x1204000 0x4000 = false := gateRange_eq_false (by omega)
  have hcore : gateRange a 0x1201000 0x1000 = false := gateRange_eq_false (by omega)
  have hmsix : gateRange a 0x120F000 0x400 = false := gateRange_eq_false (by omega)
  simp [Chip.svcWritten, hsrc, hcore, hmsix]

/-- R12: a list of one answering write runs that write. -/
theorem exec_registerWrite_answers {s : State} {x : Access} {v : Word} (hv : x.value = some v) (h : s.chip.abortCause x = none) :
    exec (.registerWrite [x]) s = .next { s with chip := s.chip.writeReg x.who x.addr v } := by
  change execRegisterWrite [x] s = _
  simp [execRegisterWrite, insertWrite, h, hv, Chip.each, Chip.writeAccess]

/-- Settles O13: the write is one register word, made bit by bit from the access types. -/
theorem registerWriteByType : Obligations.RegisterWriteByType := by
  unfold Obligations.RegisterWriteByType
  intro s x v r (h : s.chip.Canonical) hv hdbg _ hlevel hcause honly hA hB hrow hsvc hsf hdram hnand habort hlane hspn
  refine ⟨s.chip.writtenWord r false x.addr v, ?written, ?reads, fun a ha => ?keeps, fun n hn => Chip.writtenWord_getLsbD _ _ _ _ hn⟩
  case written =>
    have hwrite : s.chip.writeReg x.who x.addr v = s.chip.wr x.addr (s.chip.writtenWord r false x.addr v) := by
      have hlevel : ¬ 2 ≤ s.chip.dbgLevel := by omega
      simp [Chip.writeReg, honly, hdbg, hA, hB, hrow, hlevel, Chip.svcWritten_outside _ _ hsvc,
        Chip.validCleared_plain _ hsf hdram hnand habort hlane hspn]
    rw [exec_registerWrite_answers hv hcause, hwrite]
  case reads => rw [Chip.rd_wr h, if_pos rfl]
  case keeps => rw [Chip.rd_wr h, if_neg ha]

/-! ### The shadows of 64-bit reads (R18) -/

/-- The high word of a pair is no window of the debug port, no trace word and no engine word. -/
theorem isPairLow_high {a : Nat} (h : isPairLow a = true) :
    debugOnly (a + 4) = false ∧ gateRange (a + 4) 0x108000 0x20000 = false ∧ gateRange (a + 4) 0x800000 0xC0000 = false := by
  have hcases : (a < 0x108000 - 4 ∨ 0x128000 ≤ a) ∧ (a < 0x800000 - 4 ∨ 0x8C0000 ≤ a) ∧ (a < 0x1500140 - 4 ∨ 0x1501000 ≤ a) := by
    simp only [isPairLow, pairLows, List.any_cons, List.any_nil, Bool.or_false, Bool.or_eq_true, decide_eq_true_eq] at h
    omega
  obtain ⟨htrace, hspn, hdbg⟩ := hcases
  refine ⟨?_, gateRange_eq_false (by omega), gateRange_eq_false (by omega)⟩
  rw [debugOnly, gateRange_eq_false (by omega), gateRange_eq_false (by omega), gateRange_eq_false (by omega), gateRange_eq_false (by omega)]
  rfl

/-- R18: with its shadow taken, the high word reads the shadow. -/
theorem Chip.readWord_high {c : Chip} {who : Requester} {a n : Nat} (h : isPairLow a = true) (hwho : who ≠ .debug)
    (hs : tget 0 c.shadows (shadowKey who a) = n + 1) : c.readWord who (a + 4) = BitVec.ofNat 32 n := by
  obtain ⟨hdbg, htrace, hspn⟩ := isPairLow_high h
  simp [Chip.readWord, hdbg, htrace, hspn, hwho, h, hs]

/-- Settles O9: the shadow is entered in its requester's own place and read from there. -/
theorem lowWordLatchesHigh : Obligations.LowWordLatchesHigh := by
  unfold Obligations.LowWordLatchesHigh
  intro s who a hlow hcause hwf
  refine ⟨(onChip_next (if_pos ⟨hlow, hcause⟩) : execLowWordRead who a s = _), fun hwho c hc => ?_⟩
  have hshadow : tget 0 c.shadows (shadowKey who a) = (s.chip.shown (a + 4)).toNat + 1 := by rw [hc, tget_tset 0 hwf, if_pos rfl]
  rw [Chip.readWord_high hlow hwho hshadow, BitVec.ofNat_toNat, BitVec.setWidth_eq]

/-! ### The registers that identify the device -/

/-- Settles O10: each reads its reset value, as its row gives it. -/
theorem identityRegisters : Obligations.IdentityRegisters := by
  unfold Obligations.IdentityRegisters
  simp only [Chip.get, Chip.rd_reset]
  decide

end Sys2Proof.Machine
end

section
/-! Resets and the monitors that hold one (R78, R80, R95, R645 to R652): what a reset leaves of the registers, the hot reset of the
endpoint, the supply and temperature monitors, and the qualification of the crystal. -/

namespace Sys2Proof.Machine

/-! ### The registers after a reset -/

/-- A register at its reset value keeps it over a reset. -/
theorem resetWord_regReset (warm : Bool) (a : Nat) : resetWord warm a (regReset a) = regReset a := by
  unfold resetWord
  ext n hn
  simp only [BitVec.getElem_or, BitVec.getElem_and, BitVec.getElem_not]
  cases (regReset a)[n] <;> cases (BitVec.ofNat 32 (keptBits warm a))[n] <;> rfl

/-- R14: the bits that a reset keeps, and those that it sets to their reset value. -/
theorem resetWord_getLsbD (warm : Bool) (a : Nat) (w : Word) {n : Nat} (hn : n < 32) :
    (resetWord warm a w).getLsbD n = (if (keptBits warm a).testBit n then w.getLsbD n else (regReset a).getLsbD n) := by
  unfold resetWord
  simp only [BitVec.getLsbD_or, BitVec.getLsbD_and, BitVec.getLsbD_not, BitVec.getLsbD_ofNat, hn, decide_true, Bool.true_and]
  cases (keptBits warm a).testBit n <;> simp

theorem keys_ge_of_tabWfFrom {α : Type} [DecidableEq α] {d : Nat → α} :
    ∀ {t : Tab α} {lo : Nat}, tabWfFrom d lo t = true → ∀ e ∈ t, lo ≤ e.1 := by
  intro t
  induction t with
  | nil => intro _ _ e he; cases he
  | cons x t ih =>
    intro lo h e he
    simp only [tabWfFrom, Bool.and_eq_true, decide_eq_true_eq] at h
    obtain ⟨⟨hlo, _⟩, ht⟩ := h
    rcases List.mem_cons.mp he with rfl | he
    · exact hlo
    · exact Nat.le_trans hlo (Nat.le_of_succ_le (ih ht e he))

/-- Setting each listed word through `g`, which leaves a resting one, gives `g` of what the list holds. -/
theorem tabGet_foldl_tabSet (g : Nat → Word → Word) (a : Nat) (hg : g a (regReset a) = regReset a) :
    ∀ (t : Tab Word) (lo : Nat) (u : Tab Word), tabWfFrom regReset lo t = true → tabWf regReset u = true →
      tabGet regReset u a = regReset a →
      tabGet regReset (t.foldl (fun u e => tabSet regReset u e.1 (g e.1 e.2)) u) a = g a (tabGet regReset t a) := by
  intro t
  induction t with
  | nil => intro _ u _ _ hu; exact hu.trans hg.symm
  | cons e t ih =>
    obtain ⟨j, w⟩ := e
    intro lo u ht hwf hu
    simp only [tabWfFrom, Bool.and_eq_true, decide_eq_true_eq] at ht
    obtain ⟨_, ht⟩ := ht
    have hset := tabWf_tabSet regReset u j (g j w) hwf
    rw [List.foldl_cons, tabGet]
    split
    next hlt =>
      rw [ih (j + 1) _ ht hset (by rw [tabGet_tabSet _ _ _ _ _ hwf, if_neg (by omega), hu]), tabGet_below _ ht (by omega)]
    next =>
      split
      next heq =>
        subst heq
        rw [rd_tabSets_ne (fun e => g e.1 e.2) a t _ hset (fun e he => Nat.ne_of_gt (keys_ge_of_tabWfFrom ht e he)), tabGet_tabSet _ _ _ _ _ hwf,
          if_pos rfl]
      next hne => exact ih (j + 1) _ ht hset (by rw [tabGet_tabSet _ _ _ _ _ hwf, if_neg hne, hu])

theorem Chip.rd_fresh {c : Chip} (h : c.Canonical) (warm : Bool) (a : Nat) : (c.fresh warm).rd a = resetWord warm a (c.rd a) :=
  tabGet_foldl_tabSet (resetWord warm) a (resetWord_regReset warm a) c.regs 0 [] h.1 rfl rfl

/-- Settles O17: every register goes through `resetWord`, and the two commands test what holds the device. -/
theorem resetByAccessType : Obligations.ResetByAccessType := by
  unfold Obligations.ResetByAccessType
  refine ⟨fun c warm a h => Chip.rd_fresh h warm a, fun a w n hn => ⟨resetWord_getLsbD _ _ _ hn, resetWord_getLsbD _ _ _ hn⟩,
    fun c a => rfl, fun s => ⟨fun hhot htrip => ?restarts, fun hheld => ?held, fun hheld => ?warmHeld, fun hheld =>
      ⟨fun k hk => ?waiting, fun hnone hlevel => ?plain, fun hnone hlevel => ?debug⟩⟩⟩
  case restarts => exact (onChip_next (if_neg (by simp [hhot, htrip])) : execPowerOnReset s = _)
  case held => exact (onChip_same (if_pos hheld) : execPowerOnReset s = _)
  case warmHeld => exact (onChip_same (if_pos hheld) : execWarmReset s = _)
  case waiting => change execWarmReset s = _; exact onChip_next (by simp [hheld, hk, Chip.warmReset])
  case plain => change execWarmReset s = _; exact onChip_next (by simp [hheld, hnone, Nat.not_le.mpr hlevel, Chip.warmReset])
  case debug => change execWarmReset s = _; exact onChip_next (by simp [hheld, hnone, hlevel, Chip.warmReset])

/-! ### The hot reset of the endpoint -/

/-- A device whose register table lists RINGCFG before IDCODE, out of order. -/
def unorderedRegs : State := { State.reset with chip := { State.reset.chip with regs := [(R.SVC_RINGCFG_EN.addr, 1), (R.GLB_IDCODE_PART.addr, 0)] } }

/-- The device that the hot reset answers. -/
def Chip.hotReset (c : Chip) : Chip := { c.ringsClear with svc := { c.ringsClear.svc with linkUp := false } }

theorem exec_pcieHotReset (s : State) : exec .pcieHotReset s = .next { s with chip := s.chip.hotReset } :=
  (onChip_next rfl : execPcieHotReset s = _)

/-- Refutes O19: the clause that every other register is left is said of states outside the invariant as well. In a table out of order
the cleared RINGCFG leaves the list, and the word of IDCODE that it hid shows. -/
theorem not_hotResetOnlyEndpoint : ¬ Obligations.HotResetOnlyEndpoint := by
  unfold Obligations.HotResetOnlyEndpoint
  intro h
  obtain ⟨⟨c, hexec, -, hkeeps, -⟩, -, -⟩ := h unorderedRegs
  have hc : c = unorderedRegs.chip.hotReset := by
    rw [exec_pcieHotReset] at hexec
    injection hexec with hstate
    exact (congrArg State.chip hstate).symm
  have hidcode : c.rd 0 = unorderedRegs.chip.rd 0 := hkeeps 0 (by decide)
  rw [hc] at hidcode
  exact absurd hidcode (by decide)

/-! ### The monitors -/

theorem mem_insertRail (n k : Nat) (l : List Nat) : k ∈ insertRail n l ↔ k = n ∨ k ∈ l := by
  induction l with
  | nil => simp [insertRail]
  | cons j l ih =>
    unfold insertRail
    split
    next => simp
    next =>
      split
      next h => simp [h]
      next => rw [List.mem_cons, ih, List.mem_cons]; exact or_left_comm

/-- Settles O20: the four commands case by case, the held reset field by field. -/
theorem supplyMonitors : Obligations.SupplyMonitors := by
  unfold Obligations.SupplyMonitors
  refine ⟨fun s rail => ⟨fun hw => ⟨?unwatched, ?unwatchedTrip⟩, fun hw => ⟨fun hheld => ?warns, fun hheld htrip => ?ignored,
    fun hheld htrip => ?joins, ?trip⟩, (onChip_next rfl : execSupplyWarningEnd rail s = _), (onChip_next rfl : execSupplyLoss s = _)⟩,
    fun c l hot => ⟨rfl, rfl, rfl, rfl, rfl, rfl⟩, fun n l k => mem_insertRail n k l⟩
  case unwatched => exact (onChip_same (if_pos hw) : execSupplyWarning rail s = _)
  case unwatchedTrip => exact (onChip_same (if_neg (by simp [hw])) : execSupplyTrip rail s = _)
  case warns => change execSupplyWarning rail s = _; exact onChip_next (by simp [hw, hheld])
  case ignored => change execSupplyWarning rail s = _; exact onChip_same (by simp [hw, hheld, htrip])
  case joins => change execSupplyWarning rail s = _; exact onChip_next (by simp [hw, hheld, htrip])
  case trip => exact (onChip_next (if_pos hw) : execSupplyTrip rail s = _)

/-- Settles O21: the three commands case by case. -/
theorem temperatureMonitors : Obligations.TemperatureMonitors := by
  unfold Obligations.TemperatureMonitors
  intro s n t
  refine ⟨fun hheld => ?held, fun hheld hover => ?warns, fun hheld hunder => ?reads, fun hover hhot hpwr => ?shuts, fun h => ?stays,
    fun hhot hcool htrip => ?releases, fun hhot hcool htrip => ?tripped, fun h => ?waits⟩
  case held => exact (onChip_same (if_pos hheld) : execThermalWarning n t s = _)
  case warns => change execThermalWarning n t s = _; exact onChip_next (by simp [hheld, hover])
  case reads => change execThermalWarning n t s = _; exact onChip_next (by simp [hheld, Int.not_lt.mpr hunder])
  case shuts =>
    exact (onChip_next (if_neg (by simp [hhot, tjShutdown, Int.not_lt.mpr hover, Nat.not_le.mpr hpwr])) : execThermalShutdown n t s = _)
  case stays => exact (onChip_same (if_pos h) : execThermalShutdown n t s = _)
  case releases => exact (onChip_next ((if_neg (by simp [hhot, Int.not_lt.mpr hcool])).trans (if_pos htrip)) : execThermalShutdownRelease n t s = _)
  case tripped => exact (onChip_next ((if_neg (by simp [hhot, Int.not_lt.mpr hcool])).trans (if_neg htrip)) : execThermalShutdownRelease n t s = _)
  case waits => exact (onChip_same (if_pos h) : execThermalShutdownRelease n t s = _)

/-! ### The crystal and the root PLL -/

/-- Settles O22: the three commands case by case. -/
theorem crystalQualification : Obligations.CrystalQualification := by
  unfold Obligations.CrystalQualification
  intro s
  refine ⟨fun hheld hok => ⟨fun edges => ⟨fun hn => ?counts, fun hn => ?qualifies⟩, ?timeout⟩, fun h => ⟨fun edges => ?ignored, ?ignoredTimeout⟩,
    fun hheld hok hlock hdead => ?locks, fun h => ?stays⟩
  case counts => exact (onChip_next ((if_neg (by simp [hheld, hok])).trans (if_neg (Nat.not_le.mpr hn))) : execCrystalWindow edges s = _)
  case qualifies => exact (onChip_next ((if_neg (by simp [hheld, hok])).trans (if_pos hn)) : execCrystalWindow edges s = _)
  case timeout => exact (onChip_next (if_neg (by simp [hheld, hok])) : execCrystalQualTimeout s = _)
  case ignored => exact (onChip_same (if_pos h) : execCrystalWindow edges s = _)
  case ignoredTimeout => exact (onChip_same (if_pos h) : execCrystalQualTimeout s = _)
  case locks => exact (onChip_next (if_neg (by simp [hheld, hok, hlock, hdead])) : execRootPllLock s = _)
  case stays => exact (onChip_same (if_pos h) : execRootPllLock s = _)

end Sys2Proof.Machine
end

section
/-! The boot (R69 to R74, R79, R91, R582): the checks of an image, training, self-test and the start of the planes. -/

namespace Sys2Proof.Machine

/-- The negated guard of IMAGE_HEADER_READ is the statement's condition. -/
theorem imageExpected_iff (c : Chip) :
    (c.boot.hdrOk = false ∧ c.boot.complete = false ∧ (c.boot.slot ≠ none ∨ c.boot.debugBoot = true)) ↔
      ¬ (c.boot.hdrOk = true ∨ c.boot.complete = true ∨ (c.boot.slot = none ∧ c.boot.debugBoot = false)) := by
  cases c.boot.hdrOk <;> cases c.boot.complete <;> cases c.boot.debugBoot <;> simp

/-- The negated guard of SECTION_STREAMED is the statement's condition. -/
theorem sectionDue_iff (c : Chip) (early : Bool) (pos : Nat) :
    (c.boot.hdrOk = true ∧ c.boot.complete = false ∧ pos = c.boot.passed.length ∧ (early = true ∨ c.boot.dramOk = true)) ↔
      ¬ (c.boot.hdrOk = false ∨ c.boot.complete = true ∨ pos ≠ c.boot.passed.length ∨ (early = false ∧ c.boot.dramOk = false)) := by
  cases c.boot.hdrOk <;> cases c.boot.complete <;> cases c.boot.dramOk <;> cases early <;> simp

/-- Settles O23: the branches of the three commands in their order. -/
theorem imageChecks : Obligations.ImageChecks := by
  unfold Obligations.ImageChecks
  intro s
  refine ⟨fun b hopen => ⟨fun hcode => ?header, fun hcode => ?badHeader⟩, fun b hclosed => ?closed, fun x => ⟨fun hdue => ?notDue,
    fun hdue hcode => ?badSection, fun hdue hcode hlen => ?passes, fun hdue hcode hlen htypes => ?completes,
    fun hdue hcode hlen htypes => ?missing⟩, fun hlevel => ?debug, fun hlevel => ?noDebug⟩
  case header =>
    have hopen := (imageExpected_iff _).mp hopen
    exact (onChip_next ((if_neg hopen).trans (if_neg (Decidable.not_not.mpr hcode))) : execImageHeaderRead b s = _)
  case badHeader =>
    have hopen := (imageExpected_iff _).mp hopen
    exact (onChip_next ((if_neg hopen).trans (if_pos hcode)) : execImageHeaderRead b s = _)
  case closed =>
    have hclosed := Decidable.not_not.mp (mt (imageExpected_iff _).mpr hclosed)
    exact (onChip_same (if_pos hclosed) : execImageHeaderRead b s = _)
  case notDue =>
    have hdue := Decidable.not_not.mp (mt (sectionDue_iff _ _ _).mpr hdue)
    exact (onChip_same (if_pos hdue) : execSectionStreamed x s = _)
  case badSection =>
    have hdue := (sectionDue_iff _ _ _).mp hdue
    exact (onChip_next ((if_neg hdue).trans (if_pos hcode)) : execSectionStreamed x s = _)
  case debug => exact (onChip_next (if_pos hlevel) : execDebugBoot s = _)
  case noDebug => exact (onChip_same (if_neg hlevel) : execDebugBoot s = _)
  all_goals
    have hdue := (sectionDue_iff _ _ _).mp hdue
    have hcode := Decidable.not_not.mpr hcode
  case passes => exact (onChip_next ((if_neg hdue).trans ((if_neg hcode).trans (if_pos hlen))) : execSectionStreamed x s = _)
  all_goals have hlen := Nat.not_lt.mpr hlen
  case completes =>
    exact (onChip_next ((if_neg hdue).trans ((if_neg hcode).trans ((if_neg hlen).trans (if_pos htypes)))) : execSectionStreamed x s = _)
  case missing =>
    have htypes := Bool.eq_false_iff.mp htypes
    exact (onChip_next ((if_neg hdue).trans ((if_neg hcode).trans ((if_neg hlen).trans (if_neg htypes)))) : execSectionStreamed x s = _)

/-- LATE's condition of BOOT_LATE_TIMER over the four planes. -/
theorem bootLate_iff (c : Chip) :
    ((List.range 4).any (fun p => c.planeEnabled p && !c.boot.started.contains p) = true ∨ c.boot.complete = false) ↔
      (c.boot.complete = false ∨ ∃ p : Nat, p < 4 ∧ c.planeEnabled p = true ∧ c.boot.started.contains p = false) := by
  rw [or_comm, List.any_eq_true]
  simp only [List.mem_range, Bool.and_eq_true, Bool.not_eq_true']

/-- Settles O24: the branches of the seven commands. -/
theorem bootCompletes : Obligations.BootCompletes := by
  unfold Obligations.BootCompletes
  intro s
  refine ⟨fun ok hbegun hok => ?trained, fun ok h => ?untrained, fun pass hdone hlock => ?post, fun pass h => ?noPost,
    fun p hready hp2 => ?starts, fun p hready hp2 => ?toP2, fun p hready => ?unready, ⟨fun h => ?late, fun h => ?inTime⟩,
    fun golden => ⟨fun hdue => ?proven, fun hdue => ?unproven⟩, fun n h => ?pin, fun n h => ?noPin, fun h => ?timer, fun h => ?noTimer⟩
  case trained => exact (onChip_next (if_neg (by simp [hbegun, hok])) : execDramTrainingDone ok s = _)
  case untrained => exact (onChip_same (if_pos h) : execDramTrainingDone ok s = _)
  case post => exact (onChip_next (if_neg (by simp [hdone, hlock])) : execPostDone pass s = _)
  case noPost => exact (onChip_same (if_pos h) : execPostDone pass s = _)
  case starts => exact (onChip_next ((if_neg (by simp [hready])).trans (if_neg (by simp [hp2]))) : execPlaneStart p s = _)
  case toP2 => exact (onChip_next ((if_neg (by simp [hready])).trans (if_pos hp2)) : execPlaneStart p s = _)
  case unready => exact (onChip_same (if_pos hready) : execPlaneStart p s = _)
  case late => exact (onChip_next (if_pos ((bootLate_iff _).mpr h)) : execBootLateTimer s = _)
  case inTime => exact (onChip_same (if_neg (mt (bootLate_iff _).mp h)) : execBootLateTimer s = _)
  case proven => exact (onChip_next (if_pos hdue) : execSlotProven golden s = _)
  case unproven => exact (onChip_same (if_neg hdue) : execSlotProven golden s = _)
  case pin => exact (onChip_next (if_pos h) : execWakePin n s = _)
  case noPin => exact (onChip_same (if_neg (by simp [h])) : execWakePin n s = _)
  case timer => exact (onChip_next (if_pos h) : execWakeTimer s = _)
  case noTimer => exact (onChip_same (if_neg (by simp [h])) : execWakeTimer s = _)

end Sys2Proof.Machine
end

section
/-! Slot words and the targets of their work (R30, R32, R45, R46, R210). -/

namespace Sys2Proof.Machine

/-! ### The word that a stream issues -/

section
variable {c : Chip} {st : Nat} (op : Nat) (f : Chip → Nat → DWord → Chip)

theorem Chip.slotWord_none (h : c.dueWord st = none) : c.slotWord st op f = c := by
  rw [Chip.slotWord, h]

theorem Chip.slotWord_malformed {i : Nat} {w : DWord} (h : c.dueWord st = some (i, w)) (hw : slotMalformed w = true) :
    c.slotWord st op f = (c.arriveWords none (c.issueCycle st)).malformed st i w := by
  rw [Chip.slotWord, h]
  exact if_pos hw

variable {op} in
theorem Chip.slotWord_op {i : Nat} {w : DWord} (h : c.dueWord st = some (i, w)) (hw : slotMalformed w = false) (ho : slotOp w = op) :
    c.slotWord st op f = f (c.arriveWords none (c.issueCycle st)) i w := by
  rw [Chip.slotWord, h]
  exact (if_neg (Bool.eq_false_iff.mp hw)).trans (if_pos ho)

end

/-- Settles O25: no word, a malformed word, and each opcode by its own meaning. -/
theorem slotWords : Obligations.SlotWords := by
  unfold Obligations.SlotWords
  refine ⟨fun s st work h => ⟨?_, ?_, ?_, ?_, ?_, ?_⟩, fun s st i w h => ⟨fun hw work => ⟨?_, ?_, ?_, ?_, ?_, ?_⟩, fun hw => ?_, ?arrives⟩⟩
  · exact (onChip_same (Chip.slotWord_none _ _ h) : execRun st work s = _)
  · exact (onChip_same (Chip.slotWord_none _ _ h) : execNop st s = _)
  · exact (onChip_same (Chip.slotWord_none _ _ h) : execAwait st s = _)
  · exact (onChip_same (Chip.slotWord_none _ _ h) : execMark st s = _)
  · exact (onChip_same (Chip.slotWord_none _ _ h) : execTest st s = _)
  · exact (onChip_same (Chip.slotWord_none _ _ h) : execTurn st s = _)
  · exact (onChip_next (Chip.slotWord_malformed _ _ h hw) : execRun st work s = _)
  · exact (onChip_next (Chip.slotWord_malformed _ _ h hw) : execNop st s = _)
  · exact (onChip_next (Chip.slotWord_malformed _ _ h hw) : execAwait st s = _)
  · exact (onChip_next (Chip.slotWord_malformed _ _ h hw) : execMark st s = _)
  · exact (onChip_next (Chip.slotWord_malformed _ _ h hw) : execTest st s = _)
  · exact (onChip_next (Chip.slotWord_malformed _ _ h hw) : execTurn st s = _)
  case arrives => exact fun x a hbusy => if_neg (Bool.eq_false_iff.mp hbusy)
  refine ⟨fun ho => ?nop, fun ho hidle work => ⟨fun hcls hker => ?badRun, fun hrun => ⟨fun hcls => ?spindle, fun hcls => ?unit⟩⟩,
    fun ho hmark => ?awaitPasses, fun ho hidle m hm hne => ?awaitLate, fun ho hidle => ?markIdle, fun ho hidle => ?markAttached,
    fun ho hidle => ?test, fun ho => ?turn, fun _ hidle work => ⟨fun ho => ?runIdle, fun ho => ?testIdle⟩⟩
  all_goals have hslot {op : Nat} (f : Chip → Nat → DWord → Chip) (ho : slotOp w = op) := Chip.slotWord_op f h hw ho
  case nop => exact (onChip_next (hslot _ ho) : execNop st s = _)
  case turn => exact (onChip_next (hslot _ ho) : execTurn st s = _)
  case runIdle => exact (onChip_next ((hslot _ ho).trans (if_pos hidle)) : execRun st work s = _)
  case testIdle => exact (onChip_next ((hslot _ ho).trans (if_pos hidle)) : execTest st s = _)
  case markIdle => exact (onChip_next ((hslot _ ho).trans (if_pos hidle)) : execMark st s = _)
  case awaitPasses =>
    change execAwait st s = _
    refine onChip_next ((hslot _ ho).trans ?_)
    rcases hmark with hidle | hmark
    · exact if_pos hidle
    · exact (ite_congr rfl (fun _ => rfl) (fun _ => if_pos hmark)).trans (ite_self _)
  case awaitLate =>
    subst hm
    have hidle := Bool.eq_false_iff.mp hidle
    exact (onChip_next ((hslot _ ho).trans ((if_neg hidle).trans (if_neg hne))) : execAwait st s = _)
  all_goals have hidle := Bool.eq_false_iff.mp hidle
  case badRun => exact (onChip_next ((hslot _ ho).trans ((if_neg hidle).trans (if_pos ⟨hcls, hker⟩))) : execRun st work s = _)
  case markAttached => exact (onChip_next ((hslot _ ho).trans (if_neg hidle)) : execMark st s = _)
  case test => exact (onChip_next ((hslot _ ho).trans (if_neg hidle)) : execTest st s = _)
  all_goals
    change execRun st work s = _
    refine onChip_next ((hslot _ ho).trans ((if_neg hidle).trans ((if_neg ?_).trans ?_)))
    · omega
  case spindle => exact congrArg (Chip.advance · _) (if_pos hcls)
  case unit => exact congrArg (Chip.advance · _) (if_neg hcls)

/-! ### The ends of a target's work -/

/-- A due work ends: the negated guard of BUDGET_EXPIRY and TEST_STEP_END. -/
theorem workDue {c : Chip} {t : TargetRun} {w : TargetWork} (hw : t.work = w) (ha : t.aborting = false) (hd : t.deadline < c.sched.cyc + 256) :
    ¬ (t.work ≠ w ∨ t.aborting = true ∨ c.sched.cyc + 256 ≤ t.deadline) := by
  rintro (h | h | h)
  · exact h hw
  · exact Bool.false_ne_true (ha.symm.trans h)
  · omega

/-- A target runs: the negated guard of RUN_COMPLETE. -/
theorem workRuns {t : TargetRun} {cls : Nat} (hw : t.work = .run) (ha : t.aborting = false) (h9 : cls ≠ 9) :
    ¬ (t.work ≠ .run ∨ t.aborting = true ∨ cls = 9) := by
  simp [hw, ha, h9]

/-- R46: the negated guard of BODY_END_SHORT. -/
theorem pastBody_iff (c : Chip) (p : Nat) :
    ((c.plane p).phase = .tail ∨ ((c.plane p).phase = .body ∧ c.ownedLeft p ≤ b2n (c.twistPlane == some p))) ↔
      (decide ((c.plane p).phase = .tail) ||
        (decide ((c.plane p).phase = .body) && decide (c.ownedLeft p ≤ b2n (c.twistPlane == some p)))) = true := by
  simp only [Bool.or_eq_true, Bool.and_eq_true, decide_eq_true_eq]

/-- Settles O26: the branches of the seven commands. -/
theorem targetsEnd : Obligations.TargetsEnd := by
  unfold Obligations.TargetsEnd
  refine ⟨fun s cls idx => ⟨fun hw ha h9 h2 => ?unit, fun hw ha h2 => ?engine, fun h => ?notRunning,
      fun hw ha hd => ⟨fun h2 htime => ?inTime, fun htime => ?expires⟩, fun h => ?notExpired, fun hw ha hd => ?testEnds, fun h => ?testRuns⟩,
    fun s cls idx => ⟨fun hb hw => ?breach, fun hb hw => ?breachIdle, fun hb => ?noBreach, fun ha h2 => ?freed, fun ha h2 => ?engineFreed,
      fun ha => ?notAborting⟩,
    fun s st => ⟨fun hpast hended hwords => ?short, fun h => ?notShort⟩, fun s n h => (onChip_same (by simp only [h]) : execRunArrival n s = _), fun s n a l h => ⟨fun hlate => ?early,
      fun hdue => ⟨fun hnone => ?unplanned, fun m hm => ⟨fun hw ha => ?starts, fun hbusy => ?overrun⟩⟩⟩⟩
  case unit => exact (onChip_next ((if_neg (workRuns hw ha h9)).trans (if_neg h2)) : execRunComplete cls idx s = _)
  case engine => exact (onChip_next ((if_neg (workRuns hw ha (by omega))).trans (if_pos h2)) : execRunComplete cls idx s = _)
  case notRunning => exact (onChip_next (if_pos h) : execRunComplete cls idx s = _)
  case inTime => exact (onChip_next ((if_neg (workDue hw ha hd)).trans (if_pos (And.intro h2 htime))) : execBudgetExpiry cls idx s = _)
  case expires =>
    have htime := not_and_or.mpr (htime.imp_right Bool.eq_false_iff.mp)
    exact (onChip_next ((if_neg (workDue hw ha hd)).trans (if_neg htime)) : execBudgetExpiry cls idx s = _)
  case notExpired => exact (onChip_next (if_pos h) : execBudgetExpiry cls idx s = _)
  case testEnds => exact (onChip_next (if_neg (workDue hw ha hd)) : execTestStepEnd cls idx s = _)
  case testRuns => exact (onChip_next (if_pos h) : execTestStepEnd cls idx s = _)
  case breach => exact (onChip_next ((if_neg (by simp [hb])).trans (if_neg hw)) : execOwnershipAbort cls idx s = _)
  case breachIdle => exact (onChip_next ((if_neg (by simp [hb])).trans (if_pos hw)) : execOwnershipAbort cls idx s = _)
  case noBreach => exact (onChip_same (if_pos hb) : execOwnershipAbort cls idx s = _)
  case freed => exact (onChip_next ((if_neg (by simp [ha])).trans (if_neg h2)) : execAbortComplete cls idx s = _)
  case engineFreed => exact (onChip_next ((if_neg (by simp [ha])).trans (if_pos h2)) : execAbortComplete cls idx s = _)
  case notAborting => exact (onChip_same (if_pos ha) : execAbortComplete cls idx s = _)
  case short =>
    refine (onChip_next (if_neg ?_) : execBodyEndShort st s = _)
    simp [(pastBody_iff _ _).mp hpast, hended, hwords]
  case notShort =>
    refine (onChip_same (if_pos ?_) : execBodyEndShort st s = _)
    exact h.imp_left (fun h => Bool.eq_false_iff.mpr (mt (pastBody_iff _ _).mpr h))
  all_goals
    change execRunArrival n s = _
    rw [execRunArrival, onChip_eq]
    simp only [h]
  case early => rw [if_pos hlate]
  all_goals rw [if_neg (Nat.not_le.mpr hdue)]
  case unplanned => simp only [hnone]
  all_goals simp only [hm]
  case starts => rw [if_pos ⟨hw, ha⟩]
  case overrun => rw [if_neg (not_and_or.mpr (hbusy.imp_right (Bool.not_eq_false _).mpr))]

end Sys2Proof.Machine
end

section
/-! The parts of a Turn, the Turn count and a passing Twist (R24, R26, R35, R39, R40, R341, R380). -/

namespace Sys2Proof.Machine

/-! ### The servo and the lead -/

/-- R37: a lead is shorter than a Twist and ends on one. -/
theorem leadOf_spec (t : Nat) : leadOf t < 256 ∧ (t + leadOf t) % 256 = 0 := by
  unfold leadOf
  omega

/-- R35: the next boundary lies a lead, a body and the tail after this one. -/
theorem Chip.servo_boundary (c : Chip) (p : Nat) :
    (c.servo p).2.2 = (c.plane p).t + (c.plane p).lead + (c.plane p).body + (c.servo p).1 := by
  unfold Chip.servo
  dsimp only
  split <;> rfl

/-- R35: the tail of a valid base lies within its bounds. -/
theorem Chip.servo_bounds {c : Chip} {p : Nat} (hvalid : c.on R.NET_TBSTAT_VALID (c.baseOf p) = true)
    (h : c.get R.SEQ_TAILCTL_MINCYC p ≤ c.get R.SEQ_TAILCTL_MAXCYC p) :
    c.get R.SEQ_TAILCTL_MINCYC p ≤ (c.servo p).1 ∧ (c.servo p).1 ≤ c.get R.SEQ_TAILCTL_MAXCYC p := by
  unfold Chip.servo
  dsimp only
  rw [if_pos hvalid]
  dsimp only
  split <;> split <;> omega

/-- The negated guard of BODY_START. -/
theorem bodyDue {c : Chip} {p : Nat} {r : PlaneRun} (hphase : r.phase = .lead) (ht : r.t + r.lead ≤ c.sched.cyc)
    (hown : c.owner c.ringPos = some p) : ¬ (r.phase ≠ .lead ∨ c.sched.cyc < r.t + r.lead ∨ c.owner c.ringPos ≠ some p) := by
  rintro (h | h | h)
  · exact h hphase
  · omega
  · exact h hown

/-- Settles O28: the branches of the four commands, and the figures of the servo. -/
theorem turnParts : Obligations.TurnParts := by
  unfold Obligations.TurnParts
  refine ⟨fun s p => ⟨fun hphase ht hown => ?body, fun h => ?noBody, fun hphase ht => ?tail, fun h => ?noTail, fun hphase ht => ?boundary,
    fun h => ?noBoundary, fun hrun hnew hindex => ?pulse, fun hrun hnew hindex => ?boundaryPulse, fun h => ?noPulse⟩,
    fun c p => ⟨Chip.servo_boundary c p, Chip.servo_bounds⟩, leadOf_spec⟩
  case body => exact (onChip_next (if_neg (bodyDue hphase ht hown)) : execBodyStart p s = _)
  case noBody => exact (onChip_same (if_pos h) : execBodyStart p s = _)
  case tail => exact (onChip_next (if_neg (by simp [hphase, ht])) : execTailStart p s = _)
  case noTail => exact (onChip_same (if_pos h) : execTailStart p s = _)
  case boundary => exact (onChip_next (if_neg (by simp [hphase, ht])) : execTurnBoundary p s = _)
  case noBoundary => exact (onChip_same (if_pos h) : execTurnBoundary p s = _)
  case pulse => exact (onChip_next ((if_neg (by simp [hrun, hnew])).trans (if_neg hindex)) : execHouseFramePulse p s = _)
  case boundaryPulse => exact (onChip_next ((if_neg (by simp [hrun, hnew])).trans (if_pos hindex)) : execHouseFramePulse p s = _)
  case noPulse => exact (onChip_same (if_pos h) : execHouseFramePulse p s = _)

/-! ### The Turn count -/

section
variable {c : Chip} (h : c.Canonical)
include h

/-- R39: the two registers of a count read back. -/
theorem Chip.turn_set2 (p : Fin 4) {n : Nat} (hn : n < 2 ^ 40) : (c.set2 R.SEQ_TURNCNTLO R.SEQ_TURNCNTHI p.val n).turn p.val = n := by
  have hat : R.SEQ_TURNCNTHI.at p.val ≠ R.SEQ_TURNCNTLO.at p.val := by simp only [Fld.at]; omega
  rw [Chip.turn, Chip.get2, Chip.set2, Chip.get_set_ne (Chip.set_canonical h _ _ _) _ _ _ _ _ (by decide) (by decide) (Or.inl hat),
    Chip.get_set h _ _ _ (by decide) (by decide), Chip.get_set (Chip.set_canonical h _ _ _) _ _ _ (by decide) (by decide)]
  simp only [Fld.width]
  omega

theorem Chip.turn_set2_ne (p q : Fin 4) (hpq : p ≠ q) (n : Nat) :
    (c.set2 R.SEQ_TURNCNTLO R.SEQ_TURNCNTHI p.val n).turn q.val = c.turn q.val := by
  have hne : p.val ≠ q.val := Fin.val_ne_of_ne hpq
  have hrd (b : Nat) (hlo : b ≠ R.SEQ_TURNCNTLO.at p.val) (hhi : b ≠ R.SEQ_TURNCNTHI.at p.val) :
      (c.set2 R.SEQ_TURNCNTLO R.SEQ_TURNCNTHI p.val n).rd b = c.rd b := by
    rw [Chip.set2, Chip.rd_set_ne (Chip.set_canonical h _ _ _) _ _ _ _ hhi, Chip.rd_set_ne h _ _ _ _ hlo]
  rw [Chip.turn, Chip.turn, Chip.get2, Chip.get2, Chip.get_congr _ _ (hrd _ (by simp only [Fld.at]; omega) (by simp only [Fld.at]; omega)),
    Chip.get_congr _ _ (hrd _ (by simp only [Fld.at]; omega) (by simp only [Fld.at]; omega))]

/-- The plane status lies beside the Turn count. -/
theorem Chip.turn_set_planestat {f : Fld} (p : Fin 4) (hf : f.at p.val = 0x10100C + 0x100 * p.val) (v : Nat) :
    (c.set f p.val v).turn p.val = c.turn p.val := by
  rw [Chip.turn, Chip.turn, Chip.get2, Chip.get2,
    Chip.get_congr R.SEQ_TURNCNTLO _ (Chip.rd_set_ne h f _ v _ (by rw [hf]; simp only [Fld.at]; omega)),
    Chip.get_congr R.SEQ_TURNCNTHI _ (Chip.rd_set_ne h f _ v _ (by rw [hf]; simp only [Fld.at]; omega))]

end

/-- Settles O29: the count is written whole at a start and at a boundary. -/
theorem turnCount : Obligations.TurnCount := by
  unfold Obligations.TurnCount
  refine ⟨by decide, fun c p n h => ?start, fun c p e h => ?boundary, fun c p q e h hpq => ?other⟩
  case start =>
    have hcount {d : Chip} (hd : d.Canonical) : (d.set2 R.SEQ_TURNCNTLO R.SEQ_TURNCNTHI p.val (n % 2 ^ 40)).Canonical :=
      Chip.set_canonical (Chip.set_canonical hd _ _ _) _ _ _
    refine (Chip.turn_set_planestat (f := R.SEQ_PLANESTAT_LOCKED) (Chip.set_canonical (hcount ?_) _ _ _) p rfl _).trans
      ((Chip.turn_set_planestat (f := R.SEQ_PLANESTAT_ERRCYC) (hcount ?_) p rfl _).trans
        (Chip.turn_set2 ?_ p (Nat.mod_lt _ (by decide))))
    all_goals exact h
  case boundary => exact Chip.turn_set2 (c := c.setPlane p.val _) h p (Nat.mod_lt _ (by decide))
  case other => exact Chip.turn_set2_ne (c := c.setPlane p.val _) h p q hpq _

/-! ### A Twist passes -/

theorem TimeBase.twist_t40 (b : TimeBase) : (b.twist.t40 : Int) = max 0 ((b.t40 : Int) + 320 * ((2 ^ 40 : Int) + b.rate)) := by
  rw [TimeBase.twist, Int.ofNat_toNat, max_comm]

theorem Chip.sched_each_setBase (l : List Nat) : ∀ c : Chip, (c.each l (fun c b => c.setBase b (c.base b).twist)).sched = c.sched := by
  induction l with
  | nil => intro c; rfl
  | cons b l ih => intro c; exact ih _

/-- R341: every base of a list without repetition moves by its own rate, once. -/
theorem Chip.base_each_twist (l : List Nat) :
    ∀ c : Chip, tabWf (fun _ => ({} : TimeBase)) c.tb = true → l.Nodup → ∀ b : Nat,
      (c.each l (fun c b => c.setBase b (c.base b).twist)).base b = if b ∈ l then (c.base b).twist else c.base b := by
  induction l with
  | nil => intro c _ _ b; rfl
  | cons a l ih =>
    intro c h hl b
    obtain ⟨ha, hl⟩ := List.nodup_cons.mp hl
    have hset : tabWf (fun _ => ({} : TimeBase)) (c.setBase a (c.base a).twist).tb = true := tabWf_tabSet _ _ _ _ h
    have hbase : (c.setBase a (c.base a).twist).base b = if b = a then (c.base a).twist else c.base b := tget_tset _ h a _ b
    have hfold := ih (c.setBase a (c.base a).twist) hset hl b
    rw [hbase] at hfold
    refine hfold.trans ?_
    by_cases hb : b = a
    · subst hb; simp [ha]
    · simp [hb]

/-- Settles O30: the count and the bases first, then what the new Twist brings. -/
theorem twistPasses : Obligations.TwistPasses := by
  unfold Obligations.TwistPasses
  intro s
  refine ⟨fun h => ?unlocked, fun h => ?passes, congrArg Sched.cyc (Chip.sched_each_setBase _ _), fun h b hb => ?bases,
    fun b => ⟨rfl, TimeBase.twist_t40 b⟩⟩
  case unlocked => exact (onChip_same (if_pos h) : execTwistStart s = _)
  case passes => exact (onChip_next (if_neg (by simp [h])) : execTwistStart s = _)
  case bases =>
    exact (Chip.base_each_twist (List.range 16) { s.chip with sched := { s.chip.sched with cyc := s.chip.sched.cyc + 256 } } h
      List.nodup_range b).trans (if_pos (List.mem_range.mpr hb))

end Sys2Proof.Machine
end

section
/-! Bytes of a number, and transfers and check-value units (R30, R534, R538). -/

namespace Sys2Proof.Machine

/-! ### Little-endian bytes -/

@[simp] theorem leBytes_length (n v : Nat) : (leBytes n v).length = n := by
  induction n generalizing v with
  | zero => rfl
  | succ n ih => simp [leBytes, ih]

/-- The bytes of a number read back as far as they hold it. -/
theorem ofLe_leBytes (n v : Nat) : ofLe (leBytes n v) = v % 256 ^ n := by
  induction n generalizing v with
  | zero => simp [leBytes, ofLe, Nat.mod_one]
  | succ n ih => rw [leBytes, ofLe, ih, BitVec.toNat_ofNat, Nat.pow_succ' (m := 256), Nat.mod_mul]

/-- A number among other bytes reads back at its offset. -/
theorem leAt_append (l r : List Byte) (n v : Nat) : leAt (l ++ (leBytes n v ++ r)) l.length n = v % 256 ^ n := by
  have htake : (leBytes n v ++ r).take n = leBytes n v := by rw [List.take_left' (leBytes_length n v)]
  rw [leAt, slice, List.drop_left, htake, leBytes_length, Nat.sub_self, List.replicate_zero, List.append_nil, ofLe_leBytes]

/-! ### The saved context (R534) -/

/-- The three mode bits of a saved context. -/
theorem bit_modes (a b d : Bool) :
    bit ((b2n a + 2 * b2n b + 4 * b2n d) % 256 ^ 1) 0 = a ∧ bit ((b2n a + 2 * b2n b + 4 * b2n d) % 256 ^ 1) 1 = b ∧
      bit ((b2n a + 2 * b2n b + 4 * b2n d) % 256 ^ 1) 2 = d := by
  revert a b d
  decide

/-- R534: the 16 bytes hold the whole context. -/
theorem cvuOf_cvuBytes {v : CvuCtx} (hfold : v.fold < 2 ^ 56) (hseq : v.seq < 2 ^ 32) : cvuOf (cvuBytes v) = v := by
  obtain ⟨seeded, check, seqFold, fold, crc, seq⟩ := v
  let modes := leBytes 1 (b2n check + 2 * b2n seqFold + 4 * b2n seeded)
  have hbytes : cvuBytes ⟨seeded, check, seqFold, fold, crc, seq⟩ = modes ++ (leBytes 7 fold ++ (leBytes 4 crc.toNat ++ leBytes 4 seq)) := by
    simp only [cvuBytes, modes, List.append_assoc]
  have hmodes := leAt_append [] (leBytes 7 fold ++ (leBytes 4 crc.toNat ++ leBytes 4 seq)) 1 (b2n check + 2 * b2n seqFold + 4 * b2n seeded)
  have hf := leAt_append modes (leBytes 4 crc.toNat ++ leBytes 4 seq) 7 fold
  have hc := leAt_append (modes ++ leBytes 7 fold) (leBytes 4 seq) 4 crc.toNat
  have hs := leAt_append (modes ++ (leBytes 7 fold ++ leBytes 4 crc.toNat)) [] 4 seq
  simp only [modes, List.append_assoc, List.nil_append, List.append_nil, List.length_append, List.length_nil, leBytes_length,
    Nat.reduceAdd] at hmodes hf hc hs hbytes
  obtain ⟨hb0, hb1, hb2⟩ := bit_modes check seqFold seeded
  rw [hbytes, cvuOf]
  simp only [hmodes, hf, hc, hs, hb0, hb1, hb2, CvuCtx.mk.injEq, true_and]
  refine ⟨Nat.mod_eq_of_lt hfold, ?_, Nat.mod_eq_of_lt hseq⟩
  rw [show 256 ^ 4 = 2 ^ 32 from rfl, Nat.mod_eq_of_lt crc.isLt, BitVec.ofNat_toNat, BitVec.setWidth_eq]

section
variable {c : Chip} {ctx k : Nat} (f : Chip → CvuDef → Chip)

theorem Chip.cvuKernel_runs (hw : (c.target (targetKey 9 ctx)).work = .run) (ha : (c.target (targetKey 9 ctx)).aborting = false)
    (hk : (c.target (targetKey 9 ctx)).kernel = k) :
    c.cvuKernel ctx k f = (f c (tget {} c.tables.cvus ctx)).completeTarget (targetKey 9 ctx) :=
  if_neg (by simp [hw, ha, hk])

theorem Chip.cvuKernel_other (h : (c.target (targetKey 9 ctx)).work ≠ .run ∨ (c.target (targetKey 9 ctx)).aborting = true ∨
    (c.target (targetKey 9 ctx)).kernel ≠ k) : c.cvuKernel ctx k f = c := if_pos h

end

/-- A transfer that stays within the DRAM is a slot word like the others. -/
theorem execMove_inside {s : State} {st : Fin 64} (h : s.chip.moveLeaves st.val = false) (breaks : Bool) (errs : List LineErr) :
    execMove st breaks errs s = onChip (fun c => c.slotWord st.val 2 (fun c i w =>
      let d : MoveDesc := tget {} c.tables.moves (slotArg w)
      if c.endIdle d.src || c.endIdle d.dst || c.unitIdle (slotClass w) (slotIndex w) then c.advance st.val
      else (c.issueMove (c.streamDef st.val).plane st.val i w breaks errs).advance st.val)) s := by
  rw [execMove, h]
  rfl

theorem Chip.moveLeaves_none {c : Chip} {st : Nat} (h : c.dueWord st = none) : c.moveLeaves st = false := by
  rw [Chip.moveLeaves, h]

/-- Settles O31: the completion of a transfer, its word, and the three kernels of a check-value context. -/
theorem transfersAndCheckValues : Obligations.TransfersAndCheckValues := by
  unfold Obligations.TransfersAndCheckValues
  intro s
  refine ⟨fun st failed m hm => ?completes, fun st hnone l => ?noTransfer, fun st breaks errs hnone => ?noWord,
    fun st breaks errs i w hdue hop hin => ⟨fun hw => ?malformed, fun hw hidle => ?idle, fun hw hidle => ?issues⟩,
    fun ctx => ⟨fun hw ha => ⟨fun hk => ?seed, fun hk => ?save, fun hk => ?restore⟩, fun h => ?noSeed, fun h => ?noSave, fun h => ?noRestore⟩,
    fun v hfold hseq => cvuOf_cvuBytes hfold hseq⟩
  case completes =>
    change execMoveComplete st failed s = _
    simp only [execMoveComplete, onChip_eq, hm]
  case noTransfer => exact (onChip_same (by simp only [hnone]) : execMoveComplete st l s = _)
  case noWord =>
    exact (execMove_inside (Chip.moveLeaves_none hnone) breaks errs).trans (onChip_same (Chip.slotWord_none _ _ hnone))
  case malformed => exact (execMove_inside hin breaks errs).trans (onChip_next (Chip.slotWord_malformed _ _ hdue hw))
  case idle => exact (execMove_inside hin breaks errs).trans (onChip_next ((Chip.slotWord_op _ hdue hw hop).trans (if_pos hidle)))
  case issues =>
    exact (execMove_inside hin breaks errs).trans
      (onChip_next ((Chip.slotWord_op _ hdue hw hop).trans (if_neg (Bool.eq_false_iff.mp hidle))))
  case seed => exact (onChip_next (Chip.cvuKernel_runs _ hw ha hk) : execCvuSeed ctx s = _)
  case save => exact (onChip_next (Chip.cvuKernel_runs _ hw ha hk) : execCvuSave ctx s = _)
  case restore => exact (onChip_next (Chip.cvuKernel_runs _ hw ha hk) : execCvuRestore ctx s = _)
  case noSeed => exact (onChip_same (Chip.cvuKernel_other _ h) : execCvuSeed ctx s = _)
  case noSave => exact (onChip_same (Chip.cvuKernel_other _ h) : execCvuSave ctx s = _)
  case noRestore => exact (onChip_same (Chip.cvuKernel_other _ h) : execCvuRestore ctx s = _)

end Sys2Proof.Machine
end

section
/-! Values of the scalar arithmetic of a Spindle (R203, R207). -/

namespace Sys2Proof.Machine

theorem divS_zero_nonneg {a : Word} (h : 0 ≤ a.toInt) : divS a 0 = (0x7FFFFFFF, a) := by
  have hs : a.slt 0 = false := by rw [BitVec.slt_eq_decide]; exact decide_eq_false (Int.not_lt.mpr h)
  rw [divS, if_pos rfl, hs]; rfl

theorem divS_zero_neg {a : Word} (h : a.toInt < 0) : divS a 0 = (0x80000000, a) := by
  have hs : a.slt 0 = true := by rw [BitVec.slt_eq_decide]; exact decide_eq_true h
  rw [divS, if_pos rfl, hs]; rfl

/-- R203: an exact quotient rounds toward 0, and the remainder completes it. -/
theorem divS_toInt {a b : Word} (hb : b ≠ 0) (h : a ≠ 0x80000000 ∨ b ≠ 0xFFFFFFFF) :
    (divS a b).1.toInt = a.toInt.tdiv b.toInt ∧ (divS a b).2.toInt = a.toInt.tmod b.toInt := by
  have hcorner : ¬ (a = 0x80000000 ∧ b = 0xFFFFFFFF) := not_and_or.mpr h
  rw [divS, if_neg hb, if_neg hcorner]
  exact ⟨BitVec.toInt_sdiv_of_ne_or_ne a b h, BitVec.toInt_srem a b⟩

theorem divU_toNat {a b : Word} (hb : b ≠ 0) : (divU a b).1.toNat = a.toNat / b.toNat ∧ (divU a b).2.toNat = a.toNat % b.toNat := by
  rw [divU, if_neg hb]
  exact ⟨BitVec.toNat_udiv, BitVec.toNat_umod⟩

/-- Settles O33: each value by the arithmetic of bit vectors. -/
theorem scalarValues : Obligations.ScalarValues := by
  unfold Obligations.ScalarValues
  intro a b
  refine ⟨rfl, divS_zero_nonneg, divS_zero_neg, by decide, divU_toNat, divS_toInt, ?add, ?sub, ?lt, ?ltu, ?le, ?leu, fun v hv => ?min,
    fun v hv => ?minu, fun v hv => ?max, fun v hv => ?maxu⟩
  case add => rw [saluVal, BitVec.add_def]
  case sub => exact congrArg some (BitVec.eq_of_toInt_eq (by rw [BitVec.toInt_sub, BitVec.toInt_ofInt]))
  case lt => simp [saluVal, BitVec.slt_eq_decide]
  case ltu => simp [saluVal, BitVec.ult_eq_decide]
  case le => simp [saluVal, BitVec.sle_eq_decide]
  case leu => simp [saluVal, BitVec.ule_eq_decide]
  all_goals
    obtain rfl := Option.some.inj hv
  case min => simp only [BitVec.slt_eq_decide, decide_eq_true_eq]; split <;> omega
  case minu => simp only [BitVec.ult_eq_decide, decide_eq_true_eq]; split <;> omega
  case max => simp only [BitVec.slt_eq_decide, decide_eq_true_eq]; split <;> omega
  case maxu => simp only [BitVec.ult_eq_decide, decide_eq_true_eq]; split <;> omega

end Sys2Proof.Machine
end

section
/-! Scalar and control operations of a Spindle bundle (R203, R207 to R209). -/

namespace Sys2Proof.Machine

/-! ### A bundle's cycle -/

theorem Chip.issue_idles {c d : Chip} {n cyc : Nat} (h : c.Idles n cyc d) (holds : Nat → Bool) (f : Chip → Engine → Nat → Chip) :
    c.issue n cyc holds f = d := by
  unfold Chip.Idles at h
  rw [Chip.issue, h]

theorem Chip.issue_issues {c d : Chip} {n cyc : Nat} {e : Engine} {b : Nat} (h : c.Issues n cyc d e b) {holds : Nat → Bool}
    (hb : holds b = true) (f : Chip → Engine → Nat → Chip) : c.issue n cyc holds f = f d e b := by
  obtain ⟨hfetch, hrun⟩ := h
  simp only [Chip.issue, hfetch, hb, hrun, Bool.not_true, Bool.false_eq_true, if_false]

/-! ### Products -/

theorem mul_high_unsigned (x y : Word) :
    (((x.setWidth 64 * y.setWidth 64) >>> 32).setWidth 32 : Word) = BitVec.ofNat 32 (x.toNat * y.toNat / 2 ^ 32) := by
  have hprod : x.toNat * y.toNat < 2 ^ 64 := by
    calc x.toNat * y.toNat < 2 ^ 32 * 2 ^ 32 := Nat.mul_lt_mul'' x.isLt y.isLt
      _ = 2 ^ 64 := by norm_num
  apply BitVec.eq_of_toNat_eq
  have hx : x.toNat % 2 ^ 64 = x.toNat := Nat.mod_eq_of_lt (by omega)
  have hy : y.toNat % 2 ^ 64 = y.toNat := Nat.mod_eq_of_lt (by omega)
  rw [BitVec.toNat_setWidth, BitVec.toNat_ushiftRight, BitVec.toNat_mul, BitVec.toNat_setWidth, BitVec.toNat_setWidth, hx, hy,
    Nat.mod_eq_of_lt hprod, Nat.shiftRight_eq_div_pow, BitVec.toNat_ofNat]

theorem mul_high_signed (x y : Word) :
    (((x.signExtend 64 * y.signExtend 64) >>> 32).setWidth 32 : Word) = BitVec.ofInt 32 (x.toInt * y.toInt / 2 ^ 32) := by
  have hprod : x.signExtend 64 * y.signExtend 64 = BitVec.ofInt 64 (x.toInt * y.toInt) := by
    rw [BitVec.ofInt_mul, BitVec.signExtend, BitVec.signExtend]
  apply BitVec.eq_of_toNat_eq
  rw [hprod, BitVec.toNat_setWidth, BitVec.toNat_ushiftRight, BitVec.toNat_ofInt, BitVec.toNat_ofInt, Nat.shiftRight_eq_div_pow]
  generalize x.toInt * y.toInt = z
  omega

/-! ### Scalar operations -/

/-- The guard of a scalar memory access as the statement says it. -/
theorem smemBad_iff {a : Word} {w : Nat} {store : Bool} :
    (addrBad a || decide (a.toNat % w ≠ 0) || (store && decide (0x68000 ≤ a.toNat))) = true ↔
      (2 ^ 19 ≤ a.toNat ∨ a.toNat % w ≠ 0 ∨ (store = true ∧ 0x68000 ≤ a.toNat)) := by
  rw [Bool.or_eq_true, Bool.or_eq_true, Bool.and_eq_true, addrBad, decide_eq_true_eq, decide_eq_true_eq, decide_eq_true_eq, or_assoc]

theorem smemStore_ok {a : Word} {w : Nat} (store : Bool) (ha : a.toNat < 0x68000) (hal : a.toNat % w = 0) :
    ¬ (addrBad a || decide (a.toNat % w ≠ 0) || (store && decide (0x68000 ≤ a.toNat))) = true := by
  rw [smemBad_iff]
  rintro (h | h | ⟨-, h⟩) <;> omega

theorem smemLoad_ok {a : Word} {w : Nat} {store : Bool} (hload : store = false) (ha : a.toNat < 2 ^ 19) (hal : a.toNat % w = 0) :
    ¬ (addrBad a || decide (a.toNat % w ≠ 0) || (store && decide (0x68000 ≤ a.toNat))) = true := by
  rw [smemBad_iff, hload]
  rintro (h | h | ⟨h, -⟩)
  · omega
  · exact h hal
  · cases h

/-- Settles O32: each operation of the bundle that issues. -/
theorem spindleScalar : Obligations.SpindleScalar := by
  unfold Obligations.SpindleScalar
  refine ⟨fun s n cyc c h => ⟨fun op => ?_, fun op => ?_, fun op => ?_, fun op => ?_, ?_, ?_, ?_⟩, fun s n cyc c e b h => ?_⟩
  · exact (onChip_next (Chip.issue_idles h _ _) : execSalu n cyc op s = _)
  · exact (onChip_next (Chip.issue_idles h _ _) : execSmul n cyc op s = _)
  · exact (onChip_next (Chip.issue_idles h _ _) : execSdiv n cyc op s = _)
  · exact (onChip_next (Chip.issue_idles h _ _) : execSmem n cyc op s = _)
  · exact (onChip_next (Chip.issue_idles h _ _) : execStab n cyc s = _)
  · exact (onChip_next (Chip.issue_idles h _ _) : execAchk n cyc s = _)
  · exact (onChip_next (Chip.issue_idles h _ _) : execCsr n cyc s = _)
  have hissue {holds : Nat → Bool} (hb : holds b = true) (f : Chip → Engine → Nat → Chip) := Chip.issue_issues h hb f
  refine ⟨fun h1 h2 op => ⟨fun v hv => ?salu, fun hv => ?saluFree⟩, fun h1 h2 => ⟨?mulLow, ?mulHighU, ?mulHighS⟩,
    fun h1 h2 => ⟨fun hfree => ⟨?quotS, ?quotU, ?remS, ?remU⟩, fun hbusy op => ?divBusy⟩,
    fun h1 h2 op => ⟨fun hbad => ?memBad, fun hstore ha hal => ?memStore, fun hload ha hal => ⟨fun c' bs hpad => ?memLoad,
      fun c' hpad => ?memDamaged⟩⟩, fun h38 => ⟨fun c' bs hpad => ?tab, fun c' hpad => ?tabDamaged⟩,
    fun h50 => ⟨fun hin => ?arrived, fun hout => ?notArrived⟩,
    fun h58 => ⟨fun hk => ?csr0, fun p hk hp => ?csr1, fun p hk hp => ?csr2, fun hk => ?csr3,
      fun r hr => ⟨fun hk => ?csr4, fun hk => ?csr5⟩, fun hk => ?csrFree⟩⟩
  case salu =>
    change execSalu n cyc op s = _
    exact onChip_next ((hissue (decide_eq_true ⟨h1, h2⟩) _).trans (by simp only [hv]))
  case saluFree =>
    change execSalu n cyc op s = _
    exact onChip_next ((hissue (decide_eq_true ⟨h1, h2⟩) _).trans (by simp only [hv]))
  case mulLow =>
    change execSmul n cyc .low s = _
    exact onChip_next ((hissue (decide_eq_true ⟨h1, h2⟩) _).trans (congrArg (c.sresult _ _ · 3) (BitVec.eq_of_toNat_eq (by rw [BitVec.toNat_mul, BitVec.toNat_ofNat]))))
  case mulHighU =>
    change execSmul n cyc .highU s = _
    exact onChip_next ((hissue (decide_eq_true ⟨h1, h2⟩) _).trans (congrArg (c.sresult _ _ · 3) (mul_high_unsigned _ _)))
  case mulHighS =>
    change execSmul n cyc .highS s = _
    exact onChip_next ((hissue (decide_eq_true ⟨h1, h2⟩) _).trans (congrArg (c.sresult _ _ · 3) (mul_high_signed _ _)))
  case quotS => exact (onChip_next ((hissue (decide_eq_true ⟨h1, h2⟩) _).trans (if_neg (Nat.not_lt.mpr hfree))) : execSdiv n cyc .quotS s = _)
  case quotU => exact (onChip_next ((hissue (decide_eq_true ⟨h1, h2⟩) _).trans (if_neg (Nat.not_lt.mpr hfree))) : execSdiv n cyc .quotU s = _)
  case remS => exact (onChip_next ((hissue (decide_eq_true ⟨h1, h2⟩) _).trans (if_neg (Nat.not_lt.mpr hfree))) : execSdiv n cyc .remS s = _)
  case remU => exact (onChip_next ((hissue (decide_eq_true ⟨h1, h2⟩) _).trans (if_neg (Nat.not_lt.mpr hfree))) : execSdiv n cyc .remU s = _)
  case divBusy => exact (onChip_next ((hissue (decide_eq_true ⟨h1, h2⟩) _).trans (if_pos hbusy)) : execSdiv n cyc op s = _)
  case memBad =>
    exact (onChip_next ((hissue (decide_eq_true ⟨h1, h2⟩) _).trans (if_pos (smemBad_iff.mpr hbad))) : execSmem n cyc op s = _)
  case memStore =>
    exact (onChip_next ((hissue (decide_eq_true ⟨h1, h2⟩) _).trans ((if_neg (smemStore_ok _ ha hal)).trans (if_pos hstore))) : execSmem n cyc op s = _)
  case memLoad =>
    change execSmem n cyc op s = _
    refine onChip_next ((hissue (decide_eq_true ⟨h1, h2⟩) _).trans
      ((if_neg (smemLoad_ok hload ha hal)).trans ((if_neg (Bool.eq_false_iff.mp hload)).trans ?_)))
    simp only [hpad]
    cases op <;> rfl
  case memDamaged =>
    change execSmem n cyc op s = _
    refine onChip_next ((hissue (decide_eq_true ⟨h1, h2⟩) _).trans
      ((if_neg (smemLoad_ok hload ha hal)).trans ((if_neg (Bool.eq_false_iff.mp hload)).trans ?_)))
    simp only [hpad]
  case tab =>
    change execStab n cyc s = _
    refine onChip_next ((hissue (holds := fun b => bSop b == 0x38) (beq_iff_eq.mpr h38) _).trans ?_)
    simp only [hpad]
  case tabDamaged =>
    change execStab n cyc s = _
    refine onChip_next ((hissue (holds := fun b => bSop b == 0x38) (beq_iff_eq.mpr h38) _).trans ?_)
    simp only [hpad]
  case arrived => exact (onChip_next ((hissue (holds := fun b => bSop b == 0x50) (beq_iff_eq.mpr h50) _).trans (if_pos hin)) : execAchk n cyc s = _)
  case notArrived => exact (onChip_next ((hissue (holds := fun b => bSop b == 0x50) (beq_iff_eq.mpr h50) _).trans (if_neg (Int.not_le.mpr hout))) : execAchk n cyc s = _)
  all_goals
    change execCsr n cyc s = _
    refine onChip_next ((hissue (holds := fun b => bSop b == 0x58) (beq_iff_eq.mpr h58) _).trans ?_)
  case csr0 => simp only [hk]
  case csr1 =>
    simp only [hk, hp]
    exact congrArg (c.sresult _ _ · 1) (BitVec.eq_of_toNat_eq (by simp))
  case csr2 => simp only [hk, hp, Option.getD_some]
  case csr3 => simp only [hk]
  case csr4 => simp only [hk, hr, Option.getD_some]
  case csr5 =>
    simp only [hk, hr, Option.getD_some]
    cases r.subst <;> rfl
  case csrFree =>
    have hlt := Nat.mod_lt (bSimm b) (by decide : 0 < 8)
    generalize bSimm b % 8 = k at hk hlt
    obtain rfl | rfl : k = 6 ∨ k = 7 := by omega
    all_goals rfl

/-! ### Control operations -/

section
variable {e : Engine} (u : Nat)

theorem jumpBad_slots (h : e.jump.isSome = true ∨ 0 < e.slots) : jumpBad e u = true := by
  unfold jumpBad
  rcases h with h | h <;> simp [h]

theorem jumpBad_noLoop (hjump : e.jump = none) (hslots : e.slots = 0) (hloops : e.loops = []) : jumpBad e u = false := by
  simp [jumpBad, hjump, hslots, hloops]

theorem jumpBad_loop {l : SpnLoop} {ls : List SpnLoop} (hjump : e.jump = none) (hslots : e.slots = 0) (hloops : e.loops = l :: ls) :
    jumpBad e u = true ↔ u < l.start ∨ l.stop < u := by
  simp [jumpBad, hjump, hslots, hloops]

/-- R209: the guard of LOOP as the statement says it. -/
theorem loopBad_iff (t : Nat) :
    (e.jump.isSome || decide (0 < e.slots) || decide (2 ≤ e.loops.length) || e.loops.any (fun l => l.stop == t)) = true ↔
      (e.jump.isSome = true ∨ 0 < e.slots ∨ 2 ≤ e.loops.length ∨ ∃ l ∈ e.loops, l.stop = t) := by
  simp only [Bool.or_eq_true, decide_eq_true_eq, List.any_eq_true, beq_iff_eq, or_assoc]

end

/-- Settles O34: each operation of the bundle that issues, and the guard of a jump. -/
theorem spindleControl : Obligations.SpindleControl := by
  unfold Obligations.SpindleControl
  refine ⟨fun s n cyc c h op => (onChip_next (Chip.issue_idles h _ _) : execCtrl n cyc op s = _), fun s n cyc c e b h h1 h2 => ?_,
    fun e u => ⟨jumpBad_slots u, jumpBad_noLoop u, fun l ls => jumpBad_loop u⟩⟩
  have hissue (f : Chip → Engine → Nat → Chip) :=
    Chip.issue_issues h (holds := fun b => decide (0x40 ≤ bSop b ∧ bSop b ≤ 0x47)) (decide_eq_true ⟨h1, h2⟩) f
  refine ⟨fun hbad op hop => ?bad, fun hok => ⟨?jump, fun ha => ⟨?zeroTaken, ?nonZeroPast⟩, fun ha => ⟨?zeroPast, ?nonZeroTaken⟩⟩,
    fun hbad => ?loopBad, fun hok => ⟨fun hcnt => ?loopSkips, fun hcnt => ?loopOpens⟩⟩
  case bad =>
    change execCtrl n cyc op s = _
    refine onChip_next ((hissue _).trans ?_)
    cases op with
    | loop => exact absurd rfl hop
    | branchZero => exact if_pos hbad
    | branchNonZero => exact if_pos hbad
    | jump => exact if_pos hbad
  case jump => exact (onChip_next ((hissue _).trans (if_neg (Bool.eq_false_iff.mp hok))) : execCtrl n cyc .jump s = _)
  case loopBad => exact (onChip_next ((hissue _).trans (if_pos ((loopBad_iff _).mpr hbad))) : execCtrl n cyc .loop s = _)
  case loopSkips =>
    exact (onChip_next ((hissue _).trans ((if_neg (mt (loopBad_iff _).mp hok)).trans (if_pos hcnt))) : execCtrl n cyc .loop s = _)
  case loopOpens =>
    exact (onChip_next ((hissue _).trans ((if_neg (mt (loopBad_iff _).mp hok)).trans (if_neg hcnt))) : execCtrl n cyc .loop s = _)
  case zeroTaken =>
    change execCtrl n cyc .branchZero s = _
    refine onChip_next ((hissue _).trans ((if_neg (Bool.eq_false_iff.mp hok)).trans ?_))
    simp only [ha, beq_self_eq_true, if_true]
  case nonZeroPast =>
    change execCtrl n cyc .branchNonZero s = _
    refine onChip_next ((hissue _).trans ((if_neg (Bool.eq_false_iff.mp hok)).trans ?_))
    simp only [ha, bne_self_eq_false, Bool.false_eq_true, if_false]
  case zeroPast =>
    change execCtrl n cyc .branchZero s = _
    refine onChip_next ((hissue _).trans ((if_neg (Bool.eq_false_iff.mp hok)).trans ?_))
    simp only [beq_eq_false_iff_ne.mpr ha, Bool.false_eq_true, if_false]
  case nonZeroTaken =>
    change execCtrl n cyc .branchNonZero s = _
    refine onChip_next ((hissue _).trans ((if_neg (Bool.eq_false_iff.mp hok)).trans ?_))
    simp only [bne_iff_ne.mpr ha, if_true]

end Sys2Proof.Machine
end

section
/-! Vector operations of a Spindle bundle (R203, R207). -/

namespace Sys2Proof.Machine

/-! ### Lanes -/

/-- The number that a list of digits of base `B` makes, the first digit the lowest. -/
def ofDigitsMod (B : Nat) (l : List Nat) : Nat := l.foldr (fun x a => x % B + B * a) 0

theorem ofDigitsMod_lt {B : Nat} (hB : 0 < B) (l : List Nat) : ofDigitsMod B l < B ^ l.length := by
  induction l with
  | nil => exact Nat.one_pos
  | cons x l ih =>
    have hx := Nat.mod_lt x hB
    calc x % B + B * ofDigitsMod B l < B * (ofDigitsMod B l + 1) := by rw [Nat.mul_succ]; omega
      _ ≤ B * B ^ l.length := Nat.mul_le_mul_left B ih
      _ = B ^ (x :: l).length := by rw [List.length_cons, Nat.pow_succ']

/-- The digits read back. -/
theorem ofDigitsMod_digit {B : Nat} (hB : 0 < B) (l : List Nat) (i : Nat) : ofDigitsMod B l / B ^ i % B = l.getD i 0 % B := by
  induction l generalizing i with
  | nil => simp [ofDigitsMod]
  | cons x l ih =>
    have hcons : ofDigitsMod B (x :: l) = x % B + B * ofDigitsMod B l := rfl
    cases i with
    | zero => rw [hcons, Nat.pow_zero, Nat.div_one, Nat.add_mul_mod_self_left, Nat.mod_mod]; rfl
    | succ i =>
      rw [hcons, Nat.pow_succ', ← Nat.div_div_eq_div_mul, Nat.add_mul_div_left _ _ hB, Nat.div_eq_of_lt (Nat.mod_lt x hB), Nat.zero_add,
        ih i]
      rfl

/-- R203: a register made of lanes has those lanes. -/
theorem lanes_ofLanes {lw : Nat} (hlw : lw < 3) {l : List Nat} (hl : l.length = 64 / 2 ^ lw) :
    lanes lw (ofLanes lw l) = l.map (· % 2 ^ laneBits lw) := by
  have hB : 0 < 2 ^ laneBits lw := Nat.two_pow_pos _
  have hbits : laneBits lw * (64 / 2 ^ lw) = 512 := by interval_cases lw <;> rfl
  have hlt := ofDigitsMod_lt hB l
  rw [← Nat.pow_mul, hl, hbits] at hlt
  have hval : (ofLanes lw l).toNat = ofDigitsMod (2 ^ laneBits lw) l := (BitVec.toNat_ofNat _ _).trans (Nat.mod_eq_of_lt hlt)
  rw [lanes, hval, ← hl]
  apply List.ext_getElem
  · simp
  · intro i _ hi
    rw [List.length_map] at hi
    rw [List.getElem_map, List.getElem_range, Nat.pow_mul, ofDigitsMod_digit hB, List.getElem_map, List.getD_eq_getElem _ _ hi]

theorem masked_length (lw : Nat) (m : BitVec 64) (old new : List Nat) : (masked lw m old new).length = new.length := by
  simp [masked]

/-- R203: a governed lane gets its result, every other keeps its value. -/
theorem masked_getD (lw : Nat) (m : BitVec 64) (old new : List Nat) {j : Nat} (hj : j < new.length) :
    (masked lw m old new).getD j 0 = if laneOn lw m j then new.getD j 0 else old.getD j 0 := by
  rw [List.getD_eq_getElem _ _ ((masked_length lw m old new).symm ▸ hj)]
  simp only [masked, List.getElem_map, List.getElem_range]

/-! ### Vector operations -/

theorem isShift_iff (op : ValuOp) : (op == .shl || op == .shr || op == .sar) = true ↔ op ∈ [ValuOp.shl, .shr, .sar] := by
  simp only [Bool.or_eq_true, beq_iff_eq, List.mem_cons, List.not_mem_nil, or_false, or_assoc]

/-- The guard of a vector memory access. -/
theorem vmemBad_iff {base : Word} {a : Nat} {store : Bool} :
    (addrBad base || decide (2 ^ 19 ≤ a) || (store && decide (0x68000 ≤ a))) = true ↔
      (2 ^ 19 ≤ base.toNat ∨ 2 ^ 19 ≤ a ∨ (store = true ∧ 0x68000 ≤ a)) := by
  rw [Bool.or_eq_true, Bool.or_eq_true, Bool.and_eq_true, addrBad, decide_eq_true_eq, decide_eq_true_eq, decide_eq_true_eq, or_assoc]

theorem vmemLoad_ok {base : Word} {a : Nat} (hbase : base.toNat < 2 ^ 19) (ha : a < 2 ^ 19) :
    ¬ (addrBad base || decide (2 ^ 19 ≤ a) || (VmemOp.load == .store && decide (0x68000 ≤ a))) = true := by
  rw [vmemBad_iff]
  rintro (h | h | ⟨h, -⟩)
  · omega
  · omega
  · cases h

theorem vmemStore_ok {base : Word} {a : Nat} (hbase : base.toNat < 2 ^ 19) (ha : a < 0x68000) :
    ¬ (addrBad base || decide (2 ^ 19 ≤ a) || (VmemOp.store == .store && decide (0x68000 ≤ a))) = true := by
  rw [vmemBad_iff]
  rintro (h | h | ⟨-, h⟩) <;> omega

/-- Settles O35: lanes and masks, then each operation of the bundle that issues. -/
theorem spindleVector : Obligations.SpindleVector := by
  unfold Obligations.SpindleVector
  refine ⟨fun lw l hlw hl => lanes_ofLanes hlw hl, fun lw m old new => ⟨masked_length lw m old new, fun j hj => masked_getD lw m old new hj⟩,
    fun s n cyc c h => ⟨fun op => ?_, fun op => ?_, fun op => ?_, ?_, fun op => ?_, fun op => ?_, fun op => ?_, fun op => ?_⟩,
    fun s n cyc c e b h => ?_⟩
  · exact (onChip_next (Chip.issue_idles h _ _) : execValu n cyc op s = _)
  · exact (onChip_next (Chip.issue_idles h _ _) : execVcmp n cyc op s = _)
  · exact (onChip_next (Chip.issue_idles h _ _) : execVmul n cyc op s = _)
  · exact (onChip_next (Chip.issue_idles h _ _) : execVsad n cyc s = _)
  · exact (onChip_next (Chip.issue_idles h _ _) : execVred n cyc op s = _)
  · exact (onChip_next (Chip.issue_idles h _ _) : execVperm n cyc op s = _)
  · exact (onChip_next (Chip.issue_idles h _ _) : execVmem n cyc op s = _)
  · exact (onChip_next (Chip.issue_idles h _ _) : execMovs n cyc op s = _)
  have hissue {holds : Nat → Bool} (hb : holds b = true) (f : Chip → Engine → Nat → Chip) := Chip.issue_issues h hb f
  refine ⟨fun h1 h2 op hop => ?valu, fun h1 h2 hw op hop => ?shiftFree, fun h1 h2 op => ?vcmp,
    fun h1 h2 => ⟨?mul, ?mac, fun op hop => ?widen⟩, fun h1 h2 => ?vsad,
    fun h1 h2 => ⟨?sum, fun x hx => ⟨?minU, ?argminU⟩, fun x hx => ?maxU, fun x hx => ⟨?minS, ?argminS⟩, fun x hx => ?maxS,
      fun hnil op hop => ?noLane⟩,
    fun h1 h2 => ⟨?shuffle, ?rotate, ?broadcast⟩,
    fun h1 h2 => ⟨fun hbad op => ?memBad, fun hbase ha => ?memStore, fun hbase ha c' bs hpad => ?memLoad, fun ha => ?memReadOnly,
      fun hbase ha c' hpad => ?memDamaged⟩,
    fun h1 h2 => ⟨fun q => ⟨?toLane, ?fromLane⟩, ?toMaskLow, ?toMaskHigh, ?fromMaskLow, ?fromMaskHigh⟩⟩
  case valu =>
    have hkeep : ¬ ((op == .shl || op == .shr || op == .sar) = true ∧ laneBits (bLw b) ≤ bVimm b) := by
      rintro ⟨hshift, hw⟩
      rw [isShift_iff] at hshift
      rcases hop with hlt | ⟨hl, hr, ha⟩
      · omega
      · simp [hl, hr, ha] at hshift
    exact (onChip_next ((hissue (decide_eq_true ⟨h1, h2⟩) _).trans (if_neg hkeep)) : execValu n cyc op s = _)
  case shiftFree =>
    exact (onChip_next ((hissue (decide_eq_true ⟨h1, h2⟩) _).trans (if_pos ⟨(isShift_iff op).mpr hop, hw⟩)) : execValu n cyc op s = _)
  case vcmp => exact (onChip_next (hissue (decide_eq_true ⟨h1, h2⟩) _) : execVcmp n cyc op s = _)
  case mul => exact (onChip_next (hissue (decide_eq_true ⟨h1, h2⟩) _) : execVmul n cyc .mul s = _)
  case mac => exact (onChip_next (hissue (decide_eq_true ⟨h1, h2⟩) _) : execVmul n cyc .mac s = _)
  case widen =>
    simp only [List.mem_cons, List.not_mem_nil, or_false] at hop
    rcases hop with rfl | rfl
    · exact (onChip_next (hissue (decide_eq_true ⟨h1, h2⟩) _) : execVmul n cyc .widenU s = _)
    · exact (onChip_next (hissue (decide_eq_true ⟨h1, h2⟩) _) : execVmul n cyc .widenS s = _)
  case vsad => exact (onChip_next (hissue (decide_eq_true ⟨h1, h2⟩) _) : execVsad n cyc s = _)
  case shuffle => exact (onChip_next (hissue (decide_eq_true ⟨h1, h2⟩) _) : execVperm n cyc .shuffle s = _)
  case rotate => exact (onChip_next (hissue (decide_eq_true ⟨h1, h2⟩) _) : execVperm n cyc .rotate s = _)
  case broadcast => exact (onChip_next (hissue (decide_eq_true ⟨h1, h2⟩) _) : execVperm n cyc .broadcast s = _)
  case toLane => exact (onChip_next (hissue (decide_eq_true ⟨h1, h2⟩) _) : execMovs n cyc (.toLane q) s = _)
  case fromLane => exact (onChip_next (hissue (decide_eq_true ⟨h1, h2⟩) _) : execMovs n cyc (.fromLane q) s = _)
  case toMaskLow => exact (onChip_next (hissue (decide_eq_true ⟨h1, h2⟩) _) : execMovs n cyc .toMaskLow s = _)
  case toMaskHigh => exact (onChip_next (hissue (decide_eq_true ⟨h1, h2⟩) _) : execMovs n cyc .toMaskHigh s = _)
  case fromMaskHigh => exact (onChip_next (hissue (decide_eq_true ⟨h1, h2⟩) _) : execMovs n cyc .fromMaskHigh s = _)
  case fromMaskLow =>
    change execMovs n cyc .fromMaskLow s = _
    refine onChip_next ((hissue (decide_eq_true ⟨h1, h2⟩) _).trans (congrArg (c.sresult _ _ · 1) (BitVec.eq_of_toNat_eq ?_)))
    rw [BitVec.toNat_ofNat, BitVec.toNat_ofNat, Nat.mod_mod]
  case memBad =>
    have hbad := vmemBad_iff (store := op == .store).mpr (hbad.imp_right Or.inl)
    exact (onChip_next ((hissue (decide_eq_true ⟨h1, h2⟩) _).trans (if_pos hbad)) : execVmem n cyc op s = _)
  case memReadOnly =>
    have hbad := vmemBad_iff (base := sread e (bSadr b)) (store := VmemOp.store == .store).mpr (Or.inr (Or.inr ⟨rfl, ha⟩))
    exact (onChip_next ((hissue (decide_eq_true ⟨h1, h2⟩) _).trans (if_pos hbad)) : execVmem n cyc .store s = _)
  case memStore =>
    exact (onChip_next ((hissue (decide_eq_true ⟨h1, h2⟩) _).trans (if_neg (vmemStore_ok hbase ha))) : execVmem n cyc .store s = _)
  case memLoad =>
    change execVmem n cyc .load s = _
    refine onChip_next ((hissue (decide_eq_true ⟨h1, h2⟩) _).trans ((if_neg (vmemLoad_ok hbase ha)).trans ?_))
    simp only [hpad]
  case memDamaged =>
    change execVmem n cyc .load s = _
    refine onChip_next ((hissue (decide_eq_true ⟨h1, h2⟩) _).trans ((if_neg (vmemLoad_ok hbase ha)).trans ?_))
    simp only [hpad]
  case sum =>
    change execVred n cyc .sum s = _
    refine onChip_next ((hissue (decide_eq_true ⟨h1, h2⟩) _).trans (congrArg (c.sresult _ _ · 6) (BitVec.eq_of_toNat_eq ?_)))
    rw [BitVec.toNat_ofNat, BitVec.toNat_ofNat, Nat.mod_mod]
  case noLane =>
    change execVred n cyc op s = _
    refine onChip_next ((hissue (decide_eq_true ⟨h1, h2⟩) _).trans ?_)
    simp only [hnil]
    cases op with
    | sum => exact absurd rfl hop
    | _ => rfl
  case' minU => change execVred n cyc .minU s = _
  case' argminU => change execVred n cyc .argminU s = _
  case' maxU => change execVred n cyc .maxU s = _
  case' minS => change execVred n cyc .minS s = _
  case' argminS => change execVred n cyc .argminS s = _
  case' maxS => change execVred n cyc .maxS s = _
  all_goals
    refine onChip_next ((hissue (decide_eq_true ⟨h1, h2⟩) _).trans ?_)
    simp only [hx, Option.map_some]

end Sys2Proof.Machine
end

section
/-! Reading fields after writes of other fields of the same instance, and after changes that leave the registers. -/

namespace Sys2Proof.Machine

/-- Two fields of one instance that lie apart: at different addresses with one stride, or in different bits. -/
def Fld.beside (f g : Fld) : Bool :=
  decide (f.hi < 32 ∧ f.lo ≤ f.hi ∧ ((f.stride = g.stride ∧ f.addr ≠ g.addr) ∨ f.hi < g.lo ∨ g.hi < f.lo))

theorem Chip.get_set_beside {c : Chip} (h : c.Canonical) {f g : Fld} (hfg : f.beside g = true) (i v : Nat) : (c.set f i v).get g i = c.get g i := by
  obtain ⟨hhi, hlo, happart⟩ := of_decide_eq_true hfg
  refine Chip.get_set_ne h f i v g i hhi hlo (happart.imp_left ?_)
  rintro ⟨hstride, haddr⟩ hat
  rw [Fld.at, Fld.at, hstride] at hat
  exact haddr (Nat.add_right_cancel hat)

theorem Chip.on_set_beside {c : Chip} (h : c.Canonical) {f g : Fld} (hfg : f.beside g = true) (i v : Nat) : (c.set f i v).on g i = c.on g i := by
  rw [Chip.on, Chip.get_set_beside h hfg, Chip.on]

/-- A field reads what the registers hold. -/
theorem Chip.get_of_regs {c d : Chip} (h : d.regs = c.regs) (f : Fld) (i : Nat) : d.get f i = c.get f i := by
  rw [Chip.get, Chip.rd, h, Chip.get, Chip.rd]

theorem Chip.on_of_regs {c d : Chip} (h : d.regs = c.regs) (f : Fld) (i : Nat) : d.on f i = c.on f i := by
  rw [Chip.on, Chip.get_of_regs h, Chip.on]

/-- The canonical form is one of the registers and of the DRAM. -/
theorem Chip.canonical_of_regs {c d : Chip} (h : c.Canonical) (hr : d.regs = c.regs) (hm : d.dram.mem = c.dram.mem) : d.Canonical := by
  unfold Chip.Canonical
  rw [hr, hm]
  exact h

theorem Chip.set_regs_congr {c d : Chip} (h : d.regs = c.regs) (f : Fld) (i v : Nat) : (d.set f i v).regs = (c.set f i v).regs := by
  simp only [Chip.set, Chip.wr, Chip.rd, h]

theorem Chip.each_regs {α : Type} {f : Chip → α → Chip} (h : ∀ c a, (f c a).regs = c.regs) (l : List α) :
    ∀ c : Chip, (c.each l f).regs = c.regs := by
  induction l with
  | nil => intro c; rfl
  | cons a l ih => intro c; exact (ih (f c a)).trans (h c a)

end Sys2Proof.Machine
end

section
/-! Times read back (R341, R345). -/

namespace Sys2Proof.Machine

theorem Chip.ptpPath_regs (c : Chip) (i : Nat) : (c.ptpPath i).regs = c.regs := by
  unfold Chip.ptpPath
  dsimp only
  split <;> rfl

/-- R341: 48 bits of seconds over a 32-bit and a 16-bit register. -/
theorem seconds_split (n : Nat) : n % 2 ^ 32 + 2 ^ 32 * (n / 2 ^ 32 % 2 ^ 16) = n % 2 ^ 48 := by omega

/-- R345: the registers of the transmit stamp that TSQ_POP took, with what the queue still holds. -/
def Chip.stampShown (c : Chip) (n : Nat) (e : TsqEntry) (left : Nat) : Chip :=
  let ns := e.t40 / 2 ^ 40
  let sec := ns / 1000000000
  let c := c.set R.NET_TSQSTAT_COUNT n left
  let c := (c.set R.NET_TSQ0_VALID n 1).set R.NET_TSQ0_FRAMEID n e.id
  let c := (c.set R.NET_TSQ1 n sec).set R.NET_TSQ2_SECHI n (sec / 2 ^ 32)
  (c.set R.NET_TSQ2_FRAC n (e.t40 % 2 ^ 40 / 2 ^ 24)).set R.NET_TSQ3 n (ns % 1000000000)

/-- TSQ_POP shows the oldest stamp; the PTP exchange that waits for it is no register. -/
theorem exec_tsqPop_cons {s : State} {n : Fin 16} {v : Word} {e : TsqEntry} {l : List TsqEntry} (hgo : bit v.toNat 31 = true)
    (hcons : (s.chip.netPort n.val).tsq = e :: l) :
    ∃ d : Chip, exec (.tsqPop n v) s = .next { s with chip := d } ∧ d.regs = (s.chip.stampShown n.val e l.length).regs := by
  have hexec : exec (.tsqPop n v) s = .next { s with chip := _ } := (onChip_next (if_neg (by simp [hgo])) : execTsqPop n v s = _)
  simp only [hcons] at hexec
  refine ⟨_, hexec, ?_⟩
  rw [Chip.each_regs]
  · unfold Chip.stampShown
    iterate 7 refine Chip.set_regs_congr ?_ _ _ _
    rfl
  · intro c i
    split
    · split
      · exact Chip.ptpPath_regs _ _
      · rfl
    · rfl

section
variable {c : Chip} (h : c.Canonical) (n : Nat) (e : TsqEntry) (left : Nat)
include h

theorem Chip.stampShown_valid : (c.stampShown n e left).on R.NET_TSQ0_VALID n = true ∧
    (c.stampShown n e left).get R.NET_TSQ0_FRAMEID n = e.id % 2 ^ 16 ∧ (c.stampShown n e left).get R.NET_TSQSTAT_COUNT n = left % 2 ^ 5 := by
  simp (disch := first | decide | apply_rules [Chip.set_canonical]) only [Chip.stampShown, Chip.on, Chip.get_set, Chip.get_set_beside,
    Fld.width]
  trivial

theorem Chip.stampShown_time :
    (c.stampShown n e left).get R.NET_TSQ1 n + 2 ^ 32 * (c.stampShown n e left).get R.NET_TSQ2_SECHI n =
      e.t40 / 2 ^ 40 / 1000000000 % 2 ^ 48 ∧
    (c.stampShown n e left).get R.NET_TSQ3 n = e.t40 / 2 ^ 40 % 1000000000 ∧
    (c.stampShown n e left).get R.NET_TSQ2_FRAC n = e.t40 % 2 ^ 40 / 2 ^ 24 := by
  simp (disch := first | decide | apply_rules [Chip.set_canonical]) only [Chip.stampShown, Chip.get_set, Chip.get_set_beside, Fld.width]
  exact ⟨seconds_split _, by omega, by omega⟩

end

/-- Settles O44: each register reads the part of the instant that it was set to. -/
theorem timesReadBack : Obligations.TimesReadBack := by
  unfold Obligations.TimesReadBack
  intro s v (h : s.chip.Canonical)
  refine ⟨fun b hgo => ?latch, fun b hgo => ?noLatch, fun n hgo hnil => ?empty, fun n e l hgo hcons => ?pop, fun n hgo => ?noPop⟩
  case latch =>
    refine ⟨_, (onChip_next (if_pos hgo) : execTbLatch b v s = _), ?_⟩
    simp (disch := first | decide | apply_rules [Chip.set_canonical]) only [Chip.get_set, Chip.get_set_beside]
    simp only [Fld.width]
    exact ⟨by omega, by omega, by omega⟩
  case noLatch => exact (onChip_same (if_neg (Bool.eq_false_iff.mp hgo)) : execTbLatch b v s = _)
  case empty =>
    change execTsqPop n v s = _
    simp only [execTsqPop, onChip_eq, hgo, hnil, Bool.not_true, Bool.false_eq_true, if_false]
  case pop =>
    obtain ⟨d, hexec, hregs⟩ := exec_tsqPop_cons hgo hcons
    obtain ⟨hvalid, hid, hcount⟩ := Chip.stampShown_valid h n.val e l.length
    refine ⟨d, hexec, ?_⟩
    simp only [Chip.get_of_regs hregs, Chip.on_of_regs hregs]
    exact ⟨hvalid, hid, hcount, Chip.stampShown_time h n.val e l.length⟩
  case noPop => exact (onChip_same (if_pos (by simp [hgo])) : execTsqPop n v s = _)

end Sys2Proof.Machine
end

section
/-! Media receipt: packets, ancillary packets, legs, parsing and the staging of a variant. -/

namespace Sys2Proof.Machine

/-- Settles O39: the guards of the five commands. -/
theorem mediaReceipt : Obligations.MediaReceipt := by
  unfold Obligations.MediaReceipt
  intro s
  refine ⟨fun k h => ?merged, fun k h => ?otherFlow, fun f stamp a => ⟨fun hon hanc => ⟨fun hlast => ?anc, fun hlast => ?ancEnds⟩, fun h => ?noAnc⟩,
    fun f isB t => ⟨fun hup hsilent => ⟨fun hother => ?lastLeg, fun hother => ?legFault⟩, fun h => ?heard⟩, fun x h => ?noParse,
    fun x k hopen hk => ?parses, fun p => ⟨fun hpend hst => ?stages, fun h => ?noStage⟩⟩
  case merged => exact (onChip_next (if_pos h) : execSt2110PacketRx k s = _)
  case otherFlow => exact (onChip_same (if_neg h) : execSt2110PacketRx k s = _)
  case anc =>
    change execAncPacketRx f stamp a s = _
    exact onChip_next ((if_pos ⟨hon, hanc⟩).trans (if_neg (Bool.eq_false_iff.mp hlast)))
  case ancEnds =>
    change execAncPacketRx f stamp a s = _
    exact onChip_next ((if_pos ⟨hon, hanc⟩).trans (if_pos hlast))
  case noAnc => exact (onChip_same (if_neg (by rintro ⟨h1, h2⟩; simp [h1, h2] at h)) : execAncPacketRx f stamp a s = _)
  case noParse =>
    change execParseNal x s = _
    refine onChip_same ?_
    rcases h with h | h
    · simp only [h, Bool.not_false, if_true]
    · simp only [h, ite_self]
  case parses =>
    change execParseNal x s = _
    simp only [execParseNal, onChip_eq, hopen, hk, Bool.not_true, Bool.false_eq_true, if_false]
  case stages => exact (onChip_next (if_pos ⟨hpend, hst⟩) : execVariantStagingDone p s = _)
  case noStage => exact (onChip_same (if_neg (by rintro ⟨h1, h2⟩; simp [h1, h2] at h)) : execVariantStagingDone p s = _)
  case lastLeg =>
    cases isB
    · exact (onChip_next ((if_pos ⟨hup, hsilent⟩).trans (if_neg (Bool.eq_false_iff.mp hother))) : execLegDown f false t s = _)
    · exact (onChip_next ((if_pos ⟨hup, hsilent⟩).trans (if_neg (Bool.eq_false_iff.mp hother))) : execLegDown f true t s = _)
  case legFault =>
    cases isB
    · exact (onChip_next ((if_pos ⟨hup, hsilent⟩).trans (if_pos hother)) : execLegDown f false t s = _)
    · exact (onChip_next ((if_pos ⟨hup, hsilent⟩).trans (if_pos hother)) : execLegDown f true t s = _)
  case heard =>
    have hkeep {up : Bool} {a b : Nat} (h : up = false ∨ a < b) : ¬ (up = true ∧ b ≤ a) := by
      rintro ⟨hup, hle⟩
      exact h.elim (fun h => Bool.false_ne_true (h.symm.trans hup)) (fun h => Nat.not_lt.mpr hle h)
    cases isB
    · exact (onChip_same (if_neg (hkeep h)) : execLegDown f false t s = _)
    · exact (onChip_same (if_neg (hkeep h)) : execLegDown f true t s = _)

end Sys2Proof.Machine
end

section
/-! Audio ports: frames, clock loss, rates and masks. -/

namespace Sys2Proof.Machine

theorem Chip.bump_regs_congr {c d : Chip} (h : d.regs = c.regs) (f : Fld) (i n : Nat) : (d.bump f i n).regs = (c.bump f i n).regs := by
  rw [Chip.bump, Chip.bump, Chip.get_of_regs h]
  exact Chip.set_regs_congr h _ _ _

theorem Chip.fault_regs (c : Chip) (level cls domain block cause unit : Nat) (plane : Option Nat) (tclass : Nat) :
    (c.fault level cls domain block cause unit plane tclass).regs = c.regs := by
  cases plane <;> rfl

theorem Chip.fault_aud (c : Chip) (level cls domain block cause unit : Nat) (plane : Option Nat) (tclass : Nat) :
    (c.fault level cls domain block cause unit plane tclass).aud = c.aud := by
  cases plane <;> rfl

/-! ### The slot mask -/

theorem Chip.applyMask_canonical {c : Chip} (h : c.Canonical) (n t : Nat) : (c.applyMask n t).1.Canonical := by
  unfold Chip.applyMask
  split
  · exact Chip.set_canonical (Chip.set_canonical h _ _ _) _ _ _
  · exact h

/-- A frame start that applies a mask writes the mask in use and MASKPEND alone. -/
theorem Chip.applyMask_get {c : Chip} (h : c.Canonical) (n t : Nat) {f : Fld} (hactive : R.AUD_MASKSTAT_ACTIVE.beside f = true)
    (hpend : R.AUD_PORTSTAT_MASKPEND.beside f = true) : (c.applyMask n t).1.get f n = c.get f n := by
  unfold Chip.applyMask
  split
  · change ((c.set R.AUD_MASKSTAT_ACTIVE n _).set R.AUD_PORTSTAT_MASKPEND n 0).get f n = c.get f n
    rw [Chip.get_set_beside (Chip.set_canonical h _ _ _) hpend, Chip.get_set_beside h hactive]
  · rfl

/-- The frame's format lies beside the mask. -/
theorem Chip.applyMask_format {c : Chip} (h : c.Canonical) (n t : Nat) :
    (c.applyMask n t).1.portSlots n = c.portSlots n ∧ (c.applyMask n t).1.slotWidth n = c.slotWidth n := by
  constructor
  · rw [Chip.portSlots, Chip.portSlots, Chip.applyMask_get h _ _ rfl rfl, Chip.applyMask_get h _ _ rfl rfl]
  · rw [Chip.slotWidth, Chip.slotWidth, Chip.applyMask_get h _ _ rfl rfl]

theorem Chip.outDrive_getElem (d : Chip) (n k : Nat) (x : Bool) (blk : Option ABlock) {i : Nat} (hi : i < d.portSlots n) :
    (d.outDrive n k x blk)[i]? = some (if bit (d.get R.AUD_MASKSTAT_ACTIVE n) i = true then
        some (d.outSample n k i x blk * 2 ^ (d.slotWidth n - d.sampleWidth n))
      else if d.on R.AUD_PORTCFG_TRISTATE n then none else some 0) := by
  rw [Chip.outDrive, List.getElem?_map, List.getElem?_range hi]
  rfl

/-- A damaged block and a missing one give no sample. -/
theorem Chip.outSample_zero (d : Chip) (n k i : Nat) {x : Bool} {blk : Option ABlock} (h : x = true ∨ blk = none) :
    d.outSample n k i x blk = 0 := by
  cases blk with
  | none => rfl
  | some b =>
    have hx : x = true := h.elim id (by simp)
    exact if_pos (Or.inl hx)

/-! ### Frames of an input port -/

theorem Chip.agreeSend_regs (c : Chip) (r : AgreeRec) : (c.agreeSend r).regs = c.regs := by
  unfold Chip.agreeSend
  split <;> rfl

theorem Chip.offerBlock_regs (c : Chip) (n t : Nat) : (c.offerBlock n t).regs = c.regs := by
  unfold Chip.offerBlock
  dsimp only
  split
  · rfl
  · split
    · rfl
    · exact Chip.agreeSend_regs _ _

section
variable {s : State} {n : Fin 48} {k : AudioFrame} (hon : s.chip.portOn n.val = true) (hdir : s.chip.on R.AUD_PORTCFG_DIR n.val = false)
  (hedge : k.rising = s.chip.startRising n.val)
include hon hdir hedge

theorem exec_audioFrameRx_ok (h : s.chip.Canonical) (hok : k.sd.length = s.chip.portSlots n.val * s.chip.slotWidth n.val + 1) :
    ∃ d : Chip, exec (.audioFrameRx n k) s = .next { s with chip := d } ∧
      d.regs = ((s.chip.applyMask n.val k.at_).1.set R.AUD_PORTSTAT_CLKOK n.val 1).regs := by
  obtain ⟨hslots, hwidth⟩ := Chip.applyMask_format h n.val k.at_
  rw [← hslots, ← hwidth] at hok
  have hguard : ¬ (!s.chip.portOn n.val || s.chip.on R.AUD_PORTCFG_DIR n.val || k.rising != s.chip.startRising n.val) = true := by
    simp [hon, hdir, hedge]
  refine ⟨_, (onChip_next (if_neg hguard) : execAudioFrameRx n k s = _), ?_⟩
  simp only [hok, decide_true, Bool.not_true, Chip.when, if_true, Bool.false_eq_true, if_false]
  exact (Chip.offerBlock_regs _ _ _).trans (Chip.set_regs_congr rfl _ _ _)

theorem exec_audioFrameRx_bad (h : s.chip.Canonical) (hbad : k.sd.length ≠ s.chip.portSlots n.val * s.chip.slotWidth n.val + 1) :
    ∃ d : Chip, exec (.audioFrameRx n k) s = .next { s with chip := d } ∧
      d.regs = (((s.chip.applyMask n.val k.at_).1.set R.AUD_PORTSTAT_FRAMEERR n.val 1).bump R.AUD_ERRCNT_FRAMING n.val).regs := by
  obtain ⟨hslots, hwidth⟩ := Chip.applyMask_format h n.val k.at_
  rw [← hslots, ← hwidth] at hbad
  have hguard : ¬ (!s.chip.portOn n.val || s.chip.on R.AUD_PORTCFG_DIR n.val || k.rising != s.chip.startRising n.val) = true := by
    simp [hon, hdir, hedge]
  refine ⟨_, (onChip_next (if_neg hguard) : execAudioFrameRx n k s = _), ?_⟩
  simp only [hbad, decide_false, Bool.not_false, Chip.when, if_true, Bool.false_eq_true, if_false]
  exact Chip.bump_regs_congr (Chip.set_regs_congr ((Chip.offerBlock_regs _ _ _).trans rfl) _ _ _) _ _ _

end

/-! ### The rate meter of a port -/

/-- What a rate window leaves in the registers: a measured rate and its offset, the rate class with its event, and whether the class is
wrong. -/
def Chip.rateShown (c : Chip) (n meas ppm cls : Nat) (err : Bool) : Chip :=
  let d := ((c.set R.AUD_FSMEAS n meas).set R.AUD_FSPPM n ppm).set R.AUD_PORTSTAT_RATECLS n cls
  (d.when (cls != c.get R.AUD_PORTSTAT_RATECLS n) (·.set R.AUD_PORTSTAT_RATECHG n 1)).setB R.AUD_PORTSTAT_RATEERR n err

theorem exec_rateMeterWindow {s : State} {n : Fin 48} (hon : s.chip.portOn n.val = true) :
    ∃ (d : Chip) (meas ppm cls : Nat) (err : Bool), exec (.rateMeterWindow n) s = .next { s with chip := d } ∧
      d.regs = (s.chip.rateShown n.val meas ppm cls err).regs ∧ ((s.chip.port n.val).winN < 2 → meas = 0 ∧ ppm = 0 ∧ cls = 0) := by
  refine ⟨_, _, _, _, _, (onChip_next (if_neg (by simp [hon])) : execRateMeterWindow n s = _), rfl, fun hfew => ?_⟩
  simp [hfew, toField]

section
variable {c : Chip} (h : c.Canonical) (n meas ppm cls : Nat) (err : Bool)
include h

theorem Chip.rateShown_cls : (c.rateShown n meas ppm cls err).get R.AUD_PORTSTAT_RATECLS n = cls % 2 ^ 3 := by
  unfold Chip.rateShown Chip.when Chip.setB
  split
  all_goals
    simp (disch := first | decide | apply_rules [Chip.set_canonical]) only [Chip.get_set, Chip.get_set_beside, Fld.width]

theorem Chip.rateShown_change (hcls : cls ≠ c.get R.AUD_PORTSTAT_RATECLS n) :
    (c.rateShown n meas ppm cls err).on R.AUD_PORTSTAT_RATECHG n = true := by
  unfold Chip.rateShown Chip.when Chip.setB
  dsimp only
  rw [if_pos (bne_iff_ne.mpr hcls)]
  simp (disch := first | decide | apply_rules [Chip.set_canonical]) only [Chip.on_set_one, Chip.on_set_beside]

theorem Chip.rateShown_measure : (c.rateShown n meas ppm cls err).get R.AUD_FSMEAS n = meas % 2 ^ 24 ∧
    (c.rateShown n meas ppm cls err).get R.AUD_FSPPM n = ppm % 2 ^ 16 := by
  unfold Chip.rateShown Chip.when Chip.setB
  split
  all_goals
    simp (disch := first | decide | apply_rules [Chip.set_canonical]) only [Chip.get_set, Chip.get_set_beside, Fld.width, true_and]

end

/-! ### Frames of an output port -/

/-- The port with the frame that starts at `t` on its lines. -/
def Chip.outPort (c : Chip) (n t : Nat) : AudPort :=
  let o := c.outFrame n t
  let drive := c.outDrive n o.1 (blockBad (c.outBlocks n).2 o.2) o.2
  let x := c.port n
  { x with drive := drive, lastEdge := t, sdOut := c.outWave n x.sdOut drive, fsOut := if c.on R.AUD_PORTCFG_MASTER n then c.fsWave n else [] }

theorem exec_audioOutputFrame {s : State} {n : Fin 48} (t : Nat) (hon : s.chip.portOn n.val = true)
    (hdir : s.chip.on R.AUD_PORTCFG_DIR n.val = true) :
    let b := (s.chip.applyMask n.val t).1
    ∃ d : Chip, exec (.audioOutputFrame n t) s = .next { s with chip := d } ∧
      d.regs = (b.when (b.outFrame n.val t).2.isNone (·.bump R.AUD_FRAMECNT_DROPPED n.val)).regs ∧
      d.aud.ports = tset {} b.aud.ports n.val (b.outPort n.val t) := by
  intro b
  refine ⟨_, (onChip_next (if_neg (by simp [hon, hdir])) : execAudioOutputFrame n t s = _), ?_, ?_⟩
  · simp only [Chip.when, apply_ite Chip.regs, Chip.fault_regs, ite_self]
    exact ite_congr rfl (fun _ => Chip.bump_regs_congr rfl _ _ _) (fun _ => rfl)
  · simp only [Chip.when, apply_ite Chip.aud, Chip.fault_aud, ite_self, Chip.bump, Chip.set_aud]
    rfl

/-- Settles O40: the branches of the five commands, and what they leave in the port's registers. -/
theorem audioPorts : Obligations.AudioPorts := by
  unfold Obligations.AudioPorts
  intro s n (h : s.chip.Canonical)
  refine ⟨fun k hon hdir hedge => ?frame, fun k hno => ?noFrame, fun t => ⟨fun hon hmaster hlost hdue => ?lost, fun hno => ?notLost⟩,
    fun hoff => ?noMeter, fun hon => ?meter, fun v t => ⟨fun hgo => ?noCommit, fun hgo hply => ?rejected, fun hgo hply => ?commit⟩,
    fun t hon hdir => ?output, fun t hno => ?noOutput, fun d k i x blk hi => ⟨Chip.outDrive_getElem _ _ _ _ _ hi, fun hm hzero => ?silent⟩⟩
  case frame =>
    have hb := Chip.applyMask_canonical h n.val k.at_
    by_cases hok : k.sd.length = s.chip.portSlots n.val * s.chip.slotWidth n.val + 1
    · obtain ⟨d, hexec, hregs⟩ := exec_audioFrameRx_ok hon hdir hedge h hok
      refine ⟨d, hexec, fun _ => ⟨?_, ?_, ?_⟩, fun hbad => absurd hok hbad⟩
      · rw [Chip.on_of_regs hregs, Chip.on_set_one hb _ _ (by decide) (by decide)]
      · rw [Chip.get_of_regs hregs, Chip.get_set_beside hb rfl, Chip.applyMask_get h _ _ rfl rfl]
      · rw [Chip.on_of_regs hregs, Chip.on_set_beside hb rfl, Chip.on, Chip.applyMask_get h _ _ rfl rfl, Chip.on]
    · obtain ⟨d, hexec, hregs⟩ := exec_audioFrameRx_bad hon hdir hedge h hok
      have he := Chip.set_canonical hb R.AUD_PORTSTAT_FRAMEERR n.val 1
      refine ⟨d, hexec, fun hyes => absurd hyes hok, fun _ => ⟨?_, ?_, ?_⟩⟩
      · rw [Chip.on_of_regs hregs, Chip.bump, Chip.on_set_beside he rfl, Chip.on_set_one hb _ _ (by decide) (by decide)]
      · rw [Chip.on_of_regs hregs, Chip.bump, Chip.on_set_beside he rfl, Chip.on_set_beside hb rfl, Chip.on,
          Chip.applyMask_get h _ _ rfl rfl, Chip.on]
      · rw [Chip.get_of_regs hregs, Chip.bump, Chip.get_set he _ _ _ (by decide) (by decide), Chip.get_set_beside hb rfl,
          Chip.applyMask_get h _ _ rfl rfl]
        exact Nat.mod_eq_of_lt (by simp only [Fld.width]; omega)
  case noFrame =>
    refine (onChip_same (if_pos ?_) : execAudioFrameRx n k s = _)
    simpa only [Bool.or_eq_true, Bool.not_eq_true', bne_iff_ne, or_assoc] using hno
  case lost => exact (onChip_next (if_pos ⟨hon, hmaster, hlost, hdue⟩) : execAudioClockLoss n t s = _)
  case notLost =>
    refine (onChip_same (if_neg ?_) : execAudioClockLoss n t s = _)
    rintro ⟨hon, hmaster, hlost, hdue⟩
    simp [hon, hmaster, hlost, Nat.not_lt.mpr hdue] at hno
  case noMeter => exact (onChip_same (if_pos (by simp [hoff])) : execRateMeterWindow n s = _)
  case meter =>
    obtain ⟨d, meas, ppm, cls, err, hexec, hregs, hfew⟩ := exec_rateMeterWindow hon
    obtain ⟨hmeas, hppm⟩ := Chip.rateShown_measure h n.val meas ppm cls err
    have hold := Chip.get_lt s.chip R.AUD_PORTSTAT_RATECLS n.val
    refine ⟨d, hexec, fun hne => ?_, fun hwin => ?_⟩
    · rw [Chip.get_of_regs hregs, Chip.rateShown_cls h] at hne
      rw [Chip.on_of_regs hregs, Chip.rateShown_change h]
      rintro rfl
      exact hne (Nat.mod_eq_of_lt hold)
    · obtain ⟨rfl, rfl, rfl⟩ := hfew hwin
      rw [Chip.get_of_regs hregs, Chip.get_of_regs hregs, Chip.get_of_regs hregs, hmeas, hppm, Chip.rateShown_cls h]
      decide
  case noCommit => exact (onChip_same (if_pos (by simp [hgo])) : execMaskCommit n v t s = _)
  case rejected => exact (onChip_next ((if_neg (by simp [hgo])).trans (if_pos hply)) : execMaskCommit n v t s = _)
  case commit => exact (onChip_next ((if_neg (by simp [hgo])).trans (if_neg (Bool.eq_false_iff.mp hply))) : execMaskCommit n v t s = _)
  case output =>
    obtain ⟨d, hexec, hregs, hports⟩ := exec_audioOutputFrame t hon hdir
    have hb := Chip.applyMask_canonical h n.val t
    refine ⟨d, hexec, ?_, fun hwf => ?_⟩
    · rw [Chip.get_of_regs hregs, Chip.when]
      cases ((s.chip.applyMask n.val t).1.outFrame n.val t).2 with
      | some blk => rfl
      | none =>
        refine (Chip.get_set hb _ _ _ (by decide) (by decide)).trans (Nat.mod_eq_of_lt ?_)
        simp only [Fld.width]
        omega
    · rw [Chip.port, hports, tget_tset _ hwf, if_pos rfl]
      rfl
  case noOutput =>
    refine (onChip_same (if_pos ?_) : execAudioOutputFrame n t s = _)
    simpa only [Bool.or_eq_true, Bool.not_eq_true'] using hno
  case silent =>
    rw [Chip.outDrive_getElem _ _ _ _ _ hi, if_pos hm, Chip.outSample_zero _ _ _ _ hzero, Nat.zero_mul]

end Sys2Proof.Machine
end

section
/-! The network's frames and media packets, holdover and the steady bases. -/

namespace Sys2Proof.Machine

/-- Settles O42: the checks of a received frame in their order, and the branches of the others. -/
theorem networkFrames : Obligations.NetworkFrames := by
  unfold Obligations.NetworkFrames
  intro s
  refine ⟨fun n phy => ⟨(onChip_next rfl : execPortUp n phy s = _), (onChip_next rfl : execPortDown n phy s = _)⟩,
    fun k => ⟨fun hdown => ?portDown, fun hup => ⟨fun hfcs => ?badFcs, fun hfcs hsize => ?badSize, fun hfcs hmin hmax =>
      ⟨fun htype => ?pause, fun htype => ⟨fun hok => ?dropped, fun hok => ?taken⟩⟩⟩⟩,
    fun n f leave left l hr hup => ?report, fun n h => ?noReport, fun n flow hon hres hport hup => ?arp, fun n flow h => ?noArp,
    fun i x hx => ?delay, fun i hnone => ?noDelay, fun i sender => (onChip_next rfl : execAnnounceTimeout i sender s = _)⟩
  case portDown => exact (onChip_same (if_pos (by simp [hdown])) : execEthFrameRx k s = _)
  case report =>
    change execMembershipReport n s = _
    simp only [execMembershipReport, onChip_eq, hr, hup, if_true]
  case noReport =>
    change execMembershipReport n s = _
    refine onChip_same ?_
    dsimp only
    split
    next hr => exact if_neg (Bool.eq_false_iff.mp (h.resolve_left (by simp [hr])))
    next => rfl
  case arp => exact (onChip_next (if_pos ⟨hon, hres, hport, hup⟩) : execArpRefresh n flow s = _)
  case noArp =>
    refine (onChip_same (if_neg ?_) : execArpRefresh n flow s = _)
    rintro ⟨hon, hres, hport, hup⟩
    simp [hon, hres, hport, hup] at h
  case delay =>
    change execDelayReqSend i s = _
    simp only [execDelayReqSend, onChip_eq, hx]
  case noDelay =>
    change execDelayReqSend i s = _
    simp only [execDelayReqSend, onChip_eq, hnone]
  all_goals
    change execEthFrameRx k s = _
    refine onChip_next ((if_neg (by simp [hup])).trans ?_)
  case badFcs => exact if_pos hfcs
  all_goals refine (if_neg (not_not_intro hfcs)).trans ?_
  case badSize => exact if_pos hsize
  all_goals refine (if_neg (by omega)).trans ?_
  case pause => exact if_pos htype
  all_goals refine (if_neg htype).trans ?_
  case dropped => exact if_pos (by simp [hok])
  case taken => exact if_neg (by simp [hok])

/-- Settles O43: the steps of a send, and the repeats of a section. -/
theorem mediaSends : Obligations.MediaSends := by
  unfold Obligations.MediaSends
  intro s f
  refine ⟨fun k hoff => ?muted, fun k cause hlive hcause => ?breach, fun k c' hlive hcause => ⟨fun hnone => ?nothing, fun d hd =>
    ⟨fun hearly => ?early, fun hdue => ?sends⟩⟩, fun t h => ?noSections, fun t ch pid hsrc hpid => ?sections,
    fun d t ch pid i x => ⟨fun h => ?notAgain, fun u hu hrecent => ?recent, fun u hu hdue hch hleft => ?again⟩⟩
  case muted => exact (onChip_same (if_pos hoff) : execMediaPacketSend f k s = _)
  case noSections =>
    change execScte35Repeat f t s = _
    refine onChip_same ?_
    dsimp only
    split
    next ch pid hsrc hpid => exact h.elim (fun h => by simp [h] at hpid) (fun h => absurd hsrc (h ch))
    next => rfl
  case sections =>
    change execScte35Repeat f t s = _
    simp only [execScte35Repeat, onChip_eq, hsrc, hpid]
  case notAgain =>
    unfold Chip.scteAgain
    dsimp only
    split
    next u hu => exact if_neg (by rintro ⟨hch, hleft, -⟩; simp [hch, hu] at h; omega)
    next => rfl
  case recent =>
    simp only [Chip.scteAgain, hu]
    exact if_neg (by omega)
  case again =>
    simp only [Chip.scteAgain, hu]
    exact if_pos ⟨hch, hleft, hdue⟩
  all_goals
    change execMediaPacketSend f k s = _
    refine onChip_next ((if_neg (by simp [hlive])).trans ?_)
    simp only [hcause]
  case nothing => simp only [hnone]
  case early => simp only [hd, hearly, if_true]
  case sends => simp only [hd, Nat.not_lt.mpr hdue, if_false]

/-- A rate that moves by a clamped step stays within the step and the limit. -/
theorem clampI_slew {x r : Int} (hlo : -steadyMax ≤ r) (hhi : r ≤ steadyMax) :
    let y := clampI (r + clampI (x - r) (-slewStep) slewStep) (-steadyMax) steadyMax
    y - r ≤ slewStep ∧ r - y ≤ slewStep ∧ y ≤ steadyMax ∧ -steadyMax ≤ y := by
  simp only [clampI, slewStep, steadyMax] at *
  omega

/-- The negated guard of FREE_START is the statement's condition. -/
theorem freeStartDue_iff (c : Chip) (b : Nat) :
    (12 ≤ b ∧ c.on R.NET_TBCFG_EN b = true ∧ c.on R.NET_TBCFG_START b = true ∧ c.on R.NET_TBSTAT_LOCKED b = false ∧
      c.on R.NET_TBSTAT_FREESTART b = false ∧ min 60000 (max 1000 (c.get R.NET_TBCFG_FREEMS b)) * 1000 ≤ c.sinceReset) ↔
    ¬ (b < 12 ∨ c.on R.NET_TBCFG_EN b = false ∨ c.on R.NET_TBCFG_START b = false ∨ c.on R.NET_TBSTAT_LOCKED b = true ∨
      c.on R.NET_TBSTAT_FREESTART b = true ∨ c.sinceReset < min 60000 (max 1000 (c.get R.NET_TBCFG_FREEMS b)) * 1000) := by
  simp only [not_or, Nat.not_lt, Bool.not_eq_false, Bool.not_eq_true]

/-- Settles O45: the guards of the four commands, and the bounds of a slewed rate. -/
theorem holdoverAndSteadyBases : Obligations.HoldoverAndSteadyBases := by
  unfold Obligations.HoldoverAndSteadyBases
  intro s b _
  refine ⟨fun hon htype => ?missed, fun h => ?notMissed, ⟨fun hhold hne hdue => ?expires, fun h => ?noExpiry⟩, fun h => ?noTick,
    fun q hb hon hq => ⟨fun hlock hfree => ?follows, fun hlock => ?tick⟩, fun x r hlo hhi => clampI_slew hlo hhi,
    ⟨fun hmay t r hsrc hnone => ?free, fun hmay => ?notFree⟩⟩
  case missed => exact (onChip_next (if_pos ⟨hon, htype⟩) : execEstimateMissed b s = _)
  case notMissed =>
    refine (onChip_same (if_neg ?_) : execEstimateMissed b s = _)
    rintro ⟨hon, htype⟩
    simp only [hon, Bool.true_eq_false, false_or] at h
    exact htype.elim h.1 h.2
  case expires => exact (onChip_next (if_pos ⟨hhold, hne, hdue⟩) : execHoldsExpiry b s = _)
  case noExpiry =>
    refine (onChip_same (if_neg ?_) : execHoldsExpiry b s = _)
    rintro ⟨hhold, hne, hdue⟩
    simp [hhold, hne, Nat.not_lt.mpr hdue] at h
  case noTick =>
    change execSteadyBaseTick b s = _
    refine onChip_same ?_
    by_cases hoff : b.val < 12 ∨ s.chip.on R.NET_TBCFG_EN b.val = false
    · exact if_pos hoff
    · have hnone : s.chip.tbSource b.val = none := by tauto
      refine (if_neg hoff).trans ?_
      simp only [hnone]
  case follows =>
    change execSteadyBaseTick b s = _
    refine onChip_next ((if_neg (by simp [hb, hon])).trans ?_)
    simp only [hq]
    exact if_pos (by simp only [hlock, hfree, Bool.not_false, Bool.and_self])
  case tick =>
    change execSteadyBaseTick b s = _
    refine onChip_next ((if_neg (by simp [hb, hon])).trans ?_)
    simp only [hq]
    refine if_neg ?_
    simp only [Bool.and_eq_true, Bool.not_eq_true', not_and_or, Bool.not_eq_false]
    exact hlock
  case free =>
    change execFreeStart b s = _
    refine onChip_next ((if_neg ((freeStartDue_iff _ _).mp hmay)).trans ?_)
    cases hq : s.chip.tbSource b.val with
    | none =>
      obtain ⟨rfl, rfl⟩ := hnone hq
      rfl
    | some q =>
      obtain ⟨rfl, rfl⟩ := hsrc q hq
      rfl
  case notFree => exact (onChip_same (if_pos (Decidable.not_not.mp (mt (freeStartDue_iff _ _).mpr hmay))) : execFreeStart b s = _)

end Sys2Proof.Machine
end

section
/-! References, the DPLL, phase steps and root failures. -/

namespace Sys2Proof.Machine

/-- A pulse reference is measured from one pulse to the next: the negated guard of REF_PULSE. -/
theorem refMeasured {c : Chip} {k : Nat} (hon : c.refOn k = true) (hpulse : c.refPulse k = true) (hoff : c.refOffered k = true) :
    ¬ (c.refOn k = false ∨ c.refPulse k = false ∨ c.refOffered k = false) := by
  simp [hon, hpulse, hoff]

theorem ite_or_false {α : Type} {a b : Bool} (x y : α) :
    (if (a || !b) = true then x else y) = if a = true ∨ b = false then x else y := by
  simp only [Bool.or_eq_true, Bool.not_eq_true']

/-- Settles O46: the branches of the eight commands. -/
theorem referencesAndDpll : Obligations.ReferencesAndDpll := by
  unfold Obligations.ReferencesAndDpll
  intro s k
  refine ⟨fun hon => ?loss, fun hon hk => ?glitch, fun hoff => ⟨?offLoss, ?offGlitch, fun w => ?offWindow, fun t f p => ?offPulse⟩,
    fun hon hk => ?noGlitch, fun t f p => ⟨fun h => ?noPulse, fun hon hpulse hoff => ⟨fun hnone => ?first, fun u hu =>
      ⟨fun hearly => ?early, fun hlate => ?late, fun hmin hmax => ?measured⟩⟩⟩, fun w => ⟨fun hpulse => ?pulseWindow, fun hon hpulse => ?window⟩,
    fun w hw => ⟨fun hlock hdue => ?restored, fun h => ?notRestored⟩, fun hnone => ?noWtr, fun hsw hrun => ?switches, fun h => ?noSwitch,
    fun t ht => ⟨fun hearly => ?secondEarly, fun hdue => ⟨fun hinv hspec => ?second, fun hinv hne hspec => ?outOfSpec⟩⟩, fun hnone => ?noHold,
    fun hlock hdue hfreq => ?xtalspec, fun h => ?noXtalspec⟩
  case loss => exact (onChip_next (if_pos hon) : execRefActivityLoss k s = _)
  case glitch => exact (onChip_next (if_pos ⟨hon, hk⟩) : execRefGlitch k s = _)
  case offLoss => exact (onChip_same (if_neg (by simp [hoff])) : execRefActivityLoss k s = _)
  case offGlitch => exact (onChip_same (if_neg (by simp [hoff])) : execRefGlitch k s = _)
  case offWindow => exact (onChip_same (if_pos (Or.inl hoff)) : execRefWindowEnd k w s = _)
  case offPulse => exact (onChip_same (if_pos (Or.inl hoff)) : execRefPulse k t f p s = _)
  case noGlitch => exact (onChip_same (if_neg (by omega)) : execRefGlitch k s = _)
  case noPulse => exact (onChip_same (if_pos (Or.inr h)) : execRefPulse k t f p s = _)
  case first =>
    change execRefPulse k t f p s = _
    refine onChip_next ((if_neg (refMeasured hon hpulse hoff)).trans ?_)
    simp only [hnone]
  case early =>
    change execRefPulse k t f p s = _
    refine onChip_next ((if_neg (refMeasured hon hpulse hoff)).trans ?_)
    simp only [hu]
    exact if_pos (by omega)
  case late =>
    change execRefPulse k t f p s = _
    refine onChip_next ((if_neg (refMeasured hon hpulse hoff)).trans ?_)
    simp only [hu]
    have hpast : ¬ t < u + 800000000 - 80000 := by omega
    have hover : u + 800000000 + 80000 < t := by rw [Nat.add_assoc]; exact hlate
    simp only [hpast, hover, if_true, if_false]
  case measured =>
    change execRefPulse k t f p s = _
    refine onChip_next ((if_neg (refMeasured hon hpulse hoff)).trans ?_)
    simp only [hu]
    exact (if_neg (by omega)).trans (if_neg (by omega))
  case pulseWindow => exact (onChip_same (if_pos (Or.inr hpulse)) : execRefWindowEnd k w s = _)
  case window =>
    change execRefWindowEnd k w s = _
    refine onChip_next ((if_neg (by simp [hon, hpulse])).trans ?_)
    simp only [ite_or_false]
    rfl
  case restored =>
    change execWtrExpiry k s = _
    simp only [execWtrExpiry, onChip_eq, hw]
    rw [if_pos ⟨hlock, hdue⟩]
  case notRestored =>
    change execWtrExpiry k s = _
    refine onChip_same ?_
    simp only [hw]
    exact if_neg (by omega)
  case noWtr =>
    change execWtrExpiry k s = _
    exact onChip_same (by simp only [hnone])
  case switches => exact (onChip_next (if_pos ⟨hsw, hrun⟩) : execDpllSwitchComplete s = _)
  case noSwitch => exact (onChip_same (if_neg (by omega)) : execDpllSwitchComplete s = _)
  case secondEarly =>
    change execHoldoverSecond s = _
    refine onChip_same ?_
    simp only [ht]
    exact if_neg (by omega)
  case noHold =>
    change execHoldoverSecond s = _
    exact onChip_same (by simp only [hnone])
  case xtalspec => exact (onChip_next (if_pos ⟨hlock, hdue, hfreq⟩) : execXtalspecCheck s = _)
  case noXtalspec => exact (onChip_same (if_neg (by omega)) : execXtalspecCheck s = _)
  all_goals
    have h : s.chip.Canonical := hinv
    have hspecReg : (s.chip.bump R.CLK_HOLDT 0).get R.CLK_HOSPEC = s.chip.get R.CLK_HOSPEC := Chip.get_set_beside h rfl _ _
    change execHoldoverSecond s = _
    refine onChip_next ?_
    simp only [ht, hspecReg]
    refine (if_pos hdue).trans ?_
  case second => exact if_neg (by omega)
  case outOfSpec => exact if_pos ⟨hne, hspec⟩

/-! ### Signed fields -/

theorem ofField_toInt (v : Word) : ofField 32 v.toNat = v.toInt := by
  have hv := v.isLt
  rw [ofField, BitVec.toInt_eq_toNat_cond]
  split <;> split <;> omega

/-- A 32-bit field holds a signed number in its range. -/
theorem ofField_toField {p : Int} (hlo : -2 ^ 31 ≤ p) (hhi : p < 2 ^ 31) : ofField 32 (toField 32 p % 2 ^ 32) = p := by
  unfold ofField toField
  split <;> omega

/-! ### Phase steps -/

section
variable {c : Chip} (h : c.Canonical) (k : Nat)
include h

/-- R391: a pending phase reads back with its busy bit. -/
theorem Chip.phasePending_reads {p : Int} (hlo : -2 ^ 31 ≤ p) (hhi : p < 2 ^ 31) :
    let d := (c.set R.CLK_PHPEND k (toField 32 p)).setB R.CLK_PHSTAT_PHBUSY k (decide (p ≠ 0))
    ofField 32 (d.get R.CLK_PHPEND k) = p ∧ (d.on R.CLK_PHSTAT_PHBUSY k = true ↔ p ≠ 0) := by
  have hset := Chip.set_canonical h R.CLK_PHPEND k (toField 32 p)
  refine ⟨?_, ?_⟩
  · rw [Chip.setB, Chip.get_set_beside hset rfl, Chip.get_set h _ _ _ (by decide) (by decide)]
    exact ofField_toField hlo hhi
  · rw [Chip.setB, Chip.on, Chip.get_set hset _ _ _ (by decide) (by decide)]
    by_cases hp : p = 0 <;> simp [hp, b2n, Fld.width]

end

/-- Settles O47: the branches of the commands, and the pending phase read back. -/
theorem phaseAndRoot : Obligations.PhaseAndRoot := by
  unfold Obligations.PhaseAndRoot
  intro s (h : s.chip.Canonical)
  refine ⟨fun k v => ⟨fun hstep hsum => ?step, fun hbad => ?rejected⟩, fun k => ⟨fun hslew => ?atOnce, fun hslew hidle => ?idle,
      fun hslew hbusy => ?slews⟩, fun k p hlo hhi => ?phaseTo, fun pt src hgoal hsw => ⟨?complete, ?watchdog⟩,
    fun pt hno => ⟨?noComplete, ?noWatchdog⟩, fun edges => ⟨fun hok hfails => ?unwatched, fun hwatch => ⟨fun hgood => ?good, fun hbad hn => ?failing,
      fun hbad hn => ?failed⟩⟩, fun hlock => ⟨?pllLoss, ?misalign⟩, fun hlock => ⟨?noPllLoss, ?noMisalign⟩,
    fun d cause => ⟨fun hdead => ?failure, fun hdead => if_pos hdead⟩⟩
  case step =>
    have hguard : ¬ (500000 < (ofField 32 v.toNat).natAbs ∨ 1000000 < (ofField 32 (s.chip.get R.CLK_PHPEND k.val) + ofField 32 v.toNat).natAbs) := by
      rw [ofField_toInt]
      omega
    obtain ⟨hpend, hbusy⟩ := Chip.phasePending_reads h k.val (p := ofField 32 (s.chip.get R.CLK_PHPEND k.val) + v.toInt) (by omega) (by omega)
    rw [← ofField_toInt v] at hpend hbusy ⊢
    exact ⟨_, (onChip_next (if_neg hguard) : execPhaseStep k v s = _), hpend, hbusy, rfl⟩
  case rejected =>
    rw [← ofField_toInt] at hbad
    exact (onChip_next (if_pos hbad) : execPhaseStep k v s = _)
  case atOnce => exact (onChip_next (if_pos (by omega)) : execPhaseStepApplied k s = _)
  case idle =>
    exact (onChip_same ((if_neg (by omega)).trans (if_pos (Or.inr hidle))) : execPhaseStepApplied k s = _)
  case slews =>
    have hguard : ¬ (min 1000 (s.chip.get R.CLK_OUTCFG_SLEW k.val) = 0 ∨ s.chip.on R.CLK_PHSTAT_PHBUSY k.val = false) := by simp [hslew, hbusy]
    exact (onChip_next ((if_neg (by omega)).trans (if_neg hguard)) : execPhaseStepApplied k s = _)
  case phaseTo =>
    obtain ⟨hpend, hbusy⟩ := Chip.phasePending_reads h k.val hlo hhi
    refine ⟨hpend, hbusy, fun hwf => ?_⟩
    exact (tget_tset 0 hwf _ _ _).trans (if_pos rfl)
  case complete =>
    change execClockSwitchComplete pt s = _
    simp only [execClockSwitchComplete, onChip_eq, hgoal, hsw, if_true]
  case watchdog =>
    change execClockSwitchWatchdog pt s = _
    simp only [execClockSwitchWatchdog, onChip_eq, hgoal, hsw, if_true]
  case noComplete =>
    change execClockSwitchComplete pt s = _
    refine onChip_same ?_
    split
    next src hgoal => exact if_neg (by rcases hno with hno | hno <;> simp [hno] at hgoal ⊢)
    next => rfl
  case noWatchdog =>
    change execClockSwitchWatchdog pt s = _
    refine onChip_same ?_
    split
    next src hgoal => exact if_neg (by rcases hno with hno | hno <;> simp [hno] at hgoal ⊢)
    next => rfl
  case unwatched => exact (onChip_same (if_pos ⟨hok, hfails⟩) : execCrystalMonitorWindow edges s = _)
  case pllLoss => exact (onChip_next (if_pos hlock) : execRootPllLoss s = _)
  case misalign => exact (onChip_next (if_pos hlock) : execDomainMisalign s = _)
  case noPllLoss => exact (onChip_same (if_neg (by simp [hlock])) : execRootPllLoss s = _)
  case noMisalign => exact (onChip_same (if_neg (by simp [hlock])) : execDomainMisalign s = _)
  case failure => rw [Chip.rootFailure, if_neg (by simp [hdead])]
  all_goals
    have hwatch : ¬ (s.chip.on R.CLK_ROOTSTAT_XTALOK = false ∧ s.chip.clk.xtalFails = 0) := by
      rintro ⟨hok, hfails⟩
      exact hwatch.elim (fun hx => Bool.false_ne_true (hok.symm.trans hx)) (fun hx => hx hfails)
    change execCrystalMonitorWindow edges s = _
    refine onChip_next ((if_neg hwatch).trans ?_)
  case good => exact if_pos hgood
  case failing => exact (if_neg hbad).trans (if_neg hn)
  case failed => exact (if_neg hbad).trans (if_pos hn)

end Sys2Proof.Machine
end

section
/-! Upkeep of the DRAM and the NAND store. -/

namespace Sys2Proof.Machine

/-! ### Delays and the lowest failing channel -/

/-- A delay moves by one step and stays within 8 of its trained value. -/
theorem stepDelay_bounds {x : Int} (y : Int) (hx : x.natAbs ≤ 8) : (stepDelay x y).natAbs ≤ 8 ∧ (stepDelay x y - x).natAbs ≤ 1 := by
  simp only [stepDelay, clampI]
  omega

/-- The lowest of a list, as SEAM_END takes it. -/
theorem foldl_min_eq {l : List (Fin 16)} {k : Nat} : ∀ {m : Nat}, (∀ j ∈ l, k ≤ j.val) → k ≤ m → (k = m ∨ ∃ j ∈ l, j.val = k) →
    l.foldl (fun m j => min m j.val) m = k := by
  induction l with
  | nil =>
    intro m _ _ h
    exact h.elim Eq.symm (by simp)
  | cons j l ih =>
    intro m hall hm hex
    obtain ⟨hj, hl⟩ := List.forall_mem_cons.mp hall
    refine ih hl (Nat.le_min.mpr ⟨hm, hj⟩) ?_
    rcases hex with rfl | ⟨i, hi, rfl⟩
    · exact Or.inl (Nat.min_eq_left hj).symm
    · rcases List.mem_cons.mp hi with rfl | hi
      · exact Or.inl (Nat.min_eq_right hm).symm
      · exact Or.inr ⟨i, hi, rfl⟩

/-- A delay that would have to go further than its bound. -/
theorem delayHeld_iff (old drift : List Int) :
    (List.range drift.length).any (fun i =>
        decide (old.getD i 0 = 8 ∧ 8 < drift.getD i 0 ∨ old.getD i 0 = -8 ∧ drift.getD i 0 < -8)) = true ↔
      ∃ i : Nat, i < drift.length ∧ (old.getD i 0 = 8 ∧ 8 < drift.getD i 0 ∨ old.getD i 0 = -8 ∧ drift.getD i 0 < -8) := by
  simp only [List.any_eq_true, List.mem_range, decide_eq_true_eq]

/-- Settles O48: the guards of the commands, and the bounds of a delay. -/
theorem dramUpkeep : Obligations.DramUpkeep := by
  unfold Obligations.DramUpkeep
  refine ⟨fun s ch hon hopen => ⟨fun v => ⟨?cool, ?hot⟩, ?zq, fun drift => ⟨fun hfree => ?moves, fun hheld => ?held⟩,
      fun x y hx => stepDelay_bounds y hx⟩,
    fun s ch hoff => ⟨fun v h => ?noPoll, ?noZq, fun l => ?noRead⟩, fun s ch pair hmem hopen hpair => ?rfm, fun s ch pair hno => ?noRfm,
    fun s who ch bank => (onChip_next rfl : execSnagHoldExpiry who ch bank s = _),
    fun s k line n hp hopen => ⟨fun e he => ?recovered, fun e he => ?unrecoverable, fun hlast => ?exhausted, fun hmore => ?again⟩,
    fun s k e hno => ?noPanic, fun s hseam hplanes hfree => ?seam, fun s hno => ?noSeam,
    fun s hon => ⟨fun hbusy => ?seamDone, fun hbusy => ?arrives, fun l k hk hmin => ?failed, fun hlate => ?timeout, fun hearly => ?noTimeout⟩,
    fun s hoff => ⟨?idleTimeout, fun l => ?idleEnd⟩⟩
  case cool => exact (onChip_next ((if_pos ⟨hon, hopen⟩).trans (if_neg Bool.false_ne_true)) : execMr4Poll ch v false s = _)
  case hot => exact (onChip_next ((if_pos ⟨hon, hopen⟩).trans (if_pos rfl)) : execMr4Poll ch v true s = _)
  case zq => exact (onChip_next (if_pos ⟨hon, hopen⟩) : execZqCalibration ch s = _)
  case moves =>
    have hfree := mt (delayHeld_iff _ _).mp (by rintro ⟨i, hi, hheld⟩; exact hfree i hi hheld)
    exact (onChip_next ((if_pos ⟨hon, hopen⟩).trans (if_neg hfree)) : execDqOscillatorRead ch drift s = _)
  case held =>
    exact (onChip_next ((if_pos ⟨hon, hopen⟩).trans (if_pos ((delayHeld_iff _ _).mpr hheld))) : execDqOscillatorRead ch drift s = _)
  case noPoll => exact (onChip_same (if_neg (by rintro ⟨h1, h2⟩; simp [h1, h2] at hoff)) : execMr4Poll ch v h s = _)
  case noZq => exact (onChip_same (if_neg (by rintro ⟨h1, h2⟩; simp [h1, h2] at hoff)) : execZqCalibration ch s = _)
  case noRead => exact (onChip_same (if_neg (by rintro ⟨h1, h2⟩; simp [h1, h2] at hoff)) : execDqOscillatorRead ch l s = _)
  case rfm => exact (onChip_next (if_pos ⟨hmem, hopen, hpair⟩) : execRfmIssue ch pair s = _)
  case noRfm => exact (onChip_same (if_neg (by rintro ⟨h1, h2, h3⟩; simp [h1, h2, h3] at hno)) : execRfmIssue ch pair s = _)
  case noPanic =>
    change execPanicRetry k e s = _
    refine onChip_same ?_
    split
    next => rfl
    next line n hp => exact if_pos (hno.resolve_left (by simp [hp]))
  case seam => exact (onChip_next (if_pos ⟨hseam, hplanes, hfree⟩) : execSeamStart s = _)
  case noSeam => exact (onChip_same (if_neg (by rintro ⟨h1, h2, h3⟩; rcases hno with h | h | h <;> simp_all)) : execSeamStart s = _)
  case seamDone => exact (onChip_next ((if_pos hon).trans (if_neg (Bool.eq_false_iff.mp hbusy))) : execSeamEnd [] s = _)
  case arrives => exact (onChip_next ((if_pos hon).trans (if_pos hbusy)) : execSeamEnd [] s = _)
  case failed =>
    change execSeamEnd l s = _
    refine onChip_next ((if_pos hon).trans ?_)
    cases l with
    | nil => cases hk
    | cons j l =>
      obtain ⟨hj, hl⟩ := List.forall_mem_cons.mp hmin
      have hlow : l.foldl (fun m j => min m j.val) j.val = k.val :=
        foldl_min_eq hl hj ((List.mem_cons.mp hk).imp (congrArg Fin.val) (fun hk => ⟨k, hk, rfl⟩))
      simp only [hlow]
  case timeout => exact (onChip_next (if_pos ⟨hon, hlate⟩) : execSeamTimeout s = _)
  case noTimeout => exact (onChip_same (if_neg (by omega)) : execSeamTimeout s = _)
  case idleTimeout => exact (onChip_same (if_neg (by simp [hoff])) : execSeamTimeout s = _)
  case idleEnd => exact (onChip_same (if_neg (by simp [hoff])) : execSeamEnd l s = _)
  case recovered =>
    change execPanicRetry k e s = _
    simp only [List.mem_cons, List.not_mem_nil, or_false] at he
    simp only [execPanicRetry, onChip_eq, hp]
    rcases he with rfl | rfl | rfl
    all_goals rw [if_neg (by simp [hopen])]
  case unrecoverable =>
    change execPanicRetry k e s = _
    simp only [List.mem_cons, List.not_mem_nil, or_false] at he
    simp only [execPanicRetry, onChip_eq, hp]
    rcases he with rfl | rfl
    all_goals rw [if_neg (by simp [hopen])]
  case exhausted =>
    change execPanicRetry k .linkUncorrectable s = _
    simp only [execPanicRetry, onChip_eq, hp]
    rw [if_neg (by simp [hopen]), if_pos hlast]
  case again =>
    change execPanicRetry k .linkUncorrectable s = _
    simp only [execPanicRetry, onChip_eq, hp]
    rw [if_neg (by simp [hopen]), if_neg (Nat.not_le.mpr hmore)]

/-! ### The NAND store -/

/-- A page of a log or of the Reel may be programmed once its time since the last one is over. -/
def pageDue (d cyc : Nat) : Option Nat → Bool
  | some t => decide (t + d ≤ cyc)
  | none => true

theorem pageDue_of {o : Option Nat} {d cyc : Nat} (h : ∀ t : Nat, o = some t → t + d ≤ cyc) : pageDue d cyc o = true := by
  cases o with
  | none => rfl
  | some t => exact decide_eq_true (h t rfl)

/-- What a scrub reads: nothing of a partition that is being written. -/
theorem scrubRead_eq {c b : Chip} {r : NandRead} (hw : r.part < 10 → c.on R.NAND_PARTSTAT_WRITING r.part = true → b = c)
    (hr : 10 ≤ r.part ∨ c.on R.NAND_PARTSTAT_WRITING r.part = false → b = c.pageRead r) :
    (if r.part < 10 ∧ c.on R.NAND_PARTSTAT_WRITING r.part = true then c else c.pageRead r) = b := by
  split
  next h => exact (hw h.1 h.2).symm
  next h =>
    refine (hr ?_).symm
    simpa only [not_and_or, Nat.not_lt, Bool.not_eq_true] using h

theorem scrubDue {c : Chip} (hrun : c.on R.NAND_STORESTAT_SCRUBRUN = true)
    (hdue : c.nand.scrubFrom + c.nand.scrubbed * 12500000 ≤ c.sched.cyc) :
    ¬ (c.on R.NAND_STORESTAT_SCRUBRUN = false ∨ c.sched.cyc < c.nand.scrubFrom + c.nand.scrubbed * 12500000) := by
  rw [hrun]
  rintro (h | h)
  · cases h
  · exact Nat.not_lt.mpr hdue h

/-- A boot looks for its slot while it has one and no complete image. -/
theorem booting_iff (c : Chip) :
    (c.boot.slot.isSome && !c.boot.complete) = true ↔ c.boot.slot.isSome = true ∧ c.boot.complete = false := by
  rw [Bool.and_eq_true, Bool.not_eq_true']

/-- Settles O49: the branches of the commands. -/
theorem nandStore : Obligations.NandStore := by
  unfold Obligations.NandStore
  intro s
  refine ⟨fun b p => ⟨?programmed, ?programFails⟩, fun b p => ⟨?eraseFails, fun hend => ?worn, fun hend => ?erased⟩,
    fun ch t => (onChip_next rfl : execNandBusyTimeout ch t s = _), fun hidle => ?scrub, fun hrun => ?scrubbing,
    ⟨fun r l h => ?noPage, fun r b hrun hdue hw hr => ⟨?page, ?lastPage⟩⟩,
    fun b corr rd er => ⟨fun h => ?notQueued, fun i hmem hpart => ⟨fun hw => ?writing, fun hw => ⟨fun hi hrd => ?lost, fun hkeep =>
      ⟨fun hnone => ?noSpare, fun n hn => ?copied⟩⟩⟩⟩,
    fun r => ⟨fun hdata => ⟨fun hfails => ?slotFails, fun hfails => ?pageRead⟩, fun ch a hdata => ⟨fun hboot hno => ?noAnchor, fun h => ?anchor⟩,
      fun copy hdata => ⟨fun hfirst => ?firstDir, fun hfirst => ?dir⟩⟩,
    fun d hd => ?repair, fun hnone => ?noRepair, fun hearly => ?noInstall, fun hdue => ?install, fun hearly => ?noGolden, fun hdue => ?golden,
    fun hdue hpage hstop => ?log, fun hstop => ?stopped, fun hpage => ?noLog, fun t ht hearly => ?logEarly, fun t ht hearly => ?reelEarly,
    fun hdue hwait => ?reel, fun hwait => ?noReel⟩
  case programmed => exact (onChip_next (if_pos rfl) : execNandProgramDone b p true s = _)
  case programFails => exact (onChip_next (if_neg Bool.false_ne_true) : execNandProgramDone b p false s = _)
  case eraseFails => exact (onChip_next (if_pos rfl) : execNandEraseDone b p false s = _)
  case worn => exact (onChip_next ((if_neg Bool.true_eq_false.mp).trans (if_pos hend)) : execNandEraseDone b p true s = _)
  case erased => exact (onChip_next ((if_neg Bool.true_eq_false.mp).trans (if_neg (Nat.not_le.mpr hend))) : execNandEraseDone b p true s = _)
  case scrub => exact (onChip_next (if_neg (by simp [hidle])) : execScrubPassStart s = _)
  case scrubbing => exact (onChip_same (if_pos hrun) : execScrubPassStart s = _)
  case noPage => exact (onChip_same (if_pos h) : execNandScrubPage r l s = _)
  case page =>
    obtain rfl := scrubRead_eq hw hr
    exact (onChip_next ((if_neg (scrubDue hrun hdue)).trans (if_neg Bool.false_ne_true)) : execNandScrubPage r false s = _)
  case lastPage =>
    obtain rfl := scrubRead_eq hw hr
    exact (onChip_next ((if_neg (scrubDue hrun hdue)).trans (if_pos rfl)) : execNandScrubPage r true s = _)
  case notQueued =>
    change execBlockRefresh b corr rd er s = _
    have hnone : (if b ∈ s.chip.nand.refresh then s.chip.partOf b else none) = none := by
      split
      next hmem => exact h.resolve_left (not_not_intro hmem)
      next => rfl
    exact onChip_same (by simp only [hnone])
  case writing =>
    change execBlockRefresh b corr rd er s = _
    refine onChip_same ?_
    simp only [if_pos hmem, hpart]
    exact if_pos hw
  case lost =>
    change execBlockRefresh b corr rd er s = _
    refine onChip_next ?_
    simp only [if_pos hmem, hpart]
    exact (if_neg (Bool.eq_false_iff.mp hw)).trans (if_pos ⟨hi, hrd⟩)
  case noSpare =>
    change execBlockRefresh b corr rd er s = _
    refine onChip_next ?_
    simp only [if_pos hmem, hpart]
    refine (if_neg (Bool.eq_false_iff.mp hw)).trans ((if_neg ?_).trans (by simp only [hnone]))
    exact not_and_or.mpr (hkeep.imp Nat.not_lt.mpr (Bool.not_eq_false _).mpr)
  case copied =>
    change execBlockRefresh b corr rd er s = _
    refine onChip_next ?_
    simp only [if_pos hmem, hpart]
    refine (if_neg (Bool.eq_false_iff.mp hw)).trans ((if_neg ?_).trans (by simp only [hn]))
    exact not_and_or.mpr (hkeep.imp Nat.not_lt.mpr (Bool.not_eq_false _).mpr)
  case repair =>
    change execDirectoryRepair s = _
    simp only [execDirectoryRepair, onChip_eq, hd]
  case noRepair =>
    change execDirectoryRepair s = _
    simp only [execDirectoryRepair, onChip_eq, hnone]
  case noInstall => exact (onChip_same (if_pos hearly) : execInstallTokenAccrue s = _)
  case install => exact (onChip_next (if_neg (Nat.not_lt.mpr hdue)) : execInstallTokenAccrue s = _)
  case noGolden => exact (onChip_same (if_pos hearly) : execGoldenTokenAccrue s = _)
  case golden => exact (onChip_next (if_neg (Nat.not_lt.mpr hdue)) : execGoldenTokenAccrue s = _)
  case log => exact (onChip_next (if_pos ⟨pageDue_of hdue, hpage, hstop⟩) : execLogPageProgram s = _)
  case stopped => exact (onChip_same (if_neg (by simp [hstop])) : execLogPageProgram s = _)
  case noLog => exact (onChip_same (if_neg (by simp [hpage])) : execLogPageProgram s = _)
  case logEarly =>
    refine (onChip_same (if_neg ?_) : execLogPageProgram s = _)
    rintro ⟨hdue, -⟩
    simp only [ht, decide_eq_true_eq] at hdue
    omega
  case reelEarly =>
    refine (onChip_same (if_neg ?_) : execReelPageProgram s = _)
    simp only [ht, Bool.and_eq_true, decide_eq_true_eq]
    omega
  case reel => exact (onChip_next (if_pos (Bool.and_eq_true_iff.mpr ⟨pageDue_of hdue, hwait⟩)) : execReelPageProgram s = _)
  case noReel => exact (onChip_same (if_neg (by simp [hwait])) : execReelPageProgram s = _)
  all_goals
    change execNandPageReadDone r s = _
    refine onChip_next ?_
    simp only [hdata, booting_iff]
  case slotFails => exact if_pos hfails
  case pageRead => exact if_neg hfails
  case noAnchor => exact if_pos ⟨hboot, hno⟩
  case anchor => exact if_neg (not_and_or.mpr (h.imp_right Bool.eq_false_iff.mp))
  case firstDir => exact if_pos hfirst
  case dir => exact if_neg hfirst

end Sys2Proof.Machine
end

section
/-! Strand groups: bring-up, upkeep and frames. -/

namespace Sys2Proof.Machine

/-! ### Bring-up -/

theorem each_preserves {α β : Type} (p : Chip → β) {f : Chip → α → Chip} (h : ∀ c a, p (f c a) = p c) (l : List α) :
    ∀ c : Chip, p (c.each l f) = p c := by
  induction l with
  | nil => intro c; rfl
  | cons a l ih => intro c; exact (ih (f c a)).trans (h c a)

/-- Lanes that lose their lock leave the groups and the time. -/
theorem Chip.unlockLanes_grp (c : Chip) (g k : Nat) : (c.unlockLanes g).grp k = c.grp k := by
  unfold Chip.unlockLanes
  refine each_preserves (·.grp k) ?_ _ _
  exact fun _ _ => rfl

theorem Chip.unlockLanes_sched (c : Chip) (g : Nat) : (c.unlockLanes g).sched = c.sched := by
  unfold Chip.unlockLanes
  refine each_preserves Chip.sched ?_ _ _
  exact fun _ _ => rfl

/-- Settles O50: the branches of the commands, by the lane's group and by the group's state. -/
theorem strandBringUp : Obligations.StrandBringUp := by
  unfold Obligations.StrandBringUp
  refine ⟨fun s n g hg => ⟨fun hst b => ?notDetect, fun hst hdead b => ⟨fun hall => ?found, fun hall => ?locks⟩, fun hdead b => ?deadDetect,
      fun ts inv call => ⟨fun h => ?noTs, fun hvalid => ⟨fun hst => ?retrains, fun hst => ?remembered, fun hd ha hi => ?heard⟩⟩,
      fun hup => ?eie, fun hup => ?noEie, fun hei => ?exits, fun hei => ?noExit⟩,
    fun s n hg => ⟨fun b => ?freeDetect, ?freeEie, ?freeExit, fun ts inv call => ?freeTs⟩,
    fun s n how k => ⟨fun hquiet => ?quiet, fun hloud => ⟨fun hnone => ?freeLoss, fun g hg => ⟨fun hstay => ?stays, fun hgo => ?down⟩⟩⟩,
    fun s g hoff => ⟨?offStep, ?offRate, ?offTap, ?offSend, fun l => ?offRx, ?offIdle, ?offExit⟩,
    fun s g hon => ⟨fun hst hup hfail hdue => ⟨fun hre hf => ?retry, fun hre => ?restart⟩, fun h => ?noStep, fun hst hdue hrate => ?lower,
      fun h => ?noRate, fun hst hdue => ?taps, fun h => ?noTaps, fun t ht hdue => ⟨fun hcfg => ?cfgFails, fun hcfg => ?exchange⟩,
      fun t ht hearly => ?exchangeEarly, fun hnone => ?noExchange, fun hst hdead => ?marker, fun h => ?noMarker,
      fun skews => ⟨fun hst hup => ?noRx, fun hst hn => ?deskew, fun hst hn => ?active, fun hst hup => ?upkeep⟩,
      ⟨fun hidle => ?idles, fun hidle => ?noIdle⟩, ⟨fun hst hre => ?wakes, fun hst hre => ?wakesRetrain⟩, fun hst => ?noWake⟩⟩
  case notDetect =>
    change execReceiverDetect n b s = _
    refine onChip_same ?_
    simp only [hg]
    exact if_pos (Or.inl hst)
  case found =>
    change execReceiverDetect n b s = _
    refine onChip_next ?_
    simp only [hg]
    exact (if_neg (by simp [hst, hdead])).trans (if_neg (Bool.eq_false_iff.mp hall))
  case locks =>
    change execReceiverDetect n b s = _
    refine onChip_next ?_
    simp only [hg]
    exact (if_neg (by simp [hst, hdead])).trans (if_pos hall)
  case deadDetect =>
    change execReceiverDetect n b s = _
    refine onChip_same ?_
    simp only [hg]
    exact if_pos (Or.inr hdead)
  case noTs =>
    change execTrainingSetRx n ts inv call s = _
    refine onChip_same ?_
    simp only [hg]
    exact if_pos h
  case retrains =>
    change execTrainingSetRx n ts inv call s = _
    refine onChip_next ?_
    simp only [hg]
    exact (if_neg (by simp [hvalid, hst, strActive, strDetect])).trans (if_pos hst)
  case remembered =>
    change execTrainingSetRx n ts inv call s = _
    refine onChip_next ?_
    simp only [hg]
    exact (if_neg (by simp [hvalid, hst, strIdle, strDetect])).trans ((if_neg (by simp [hst, strIdle, strActive])).trans (if_pos hst))
  case heard =>
    change execTrainingSetRx n ts inv call s = _
    refine onChip_next ?_
    simp only [hg]
    exact (if_neg (by simp [hvalid, hd])).trans ((if_neg ha).trans (if_neg hi))
  case eie =>
    change execEieReceived n s = _
    simp only [execEieReceived, onChip_eq, hg, hup, if_true]
  case noEie =>
    change execEieReceived n s = _
    exact onChip_same (by simp only [hg, hup, Bool.false_eq_true, if_false])
  case exits =>
    change execExitBurstReceived n s = _
    simp only [execExitBurstReceived, onChip_eq, hg, hei, if_true]
  case noExit =>
    change execExitBurstReceived n s = _
    exact onChip_same (by simp only [hg, hei, Bool.false_eq_true, if_false])
  case freeDetect =>
    change execReceiverDetect n b s = _
    exact onChip_same (by simp only [hg])
  case freeEie =>
    change execEieReceived n s = _
    exact onChip_same (by simp only [hg])
  case freeExit =>
    change execExitBurstReceived n s = _
    exact onChip_same (by simp only [hg])
  case freeTs =>
    change execTrainingSetRx n ts inv call s = _
    exact onChip_same (by simp only [hg])
  case quiet => exact (onChip_next (if_pos hquiet) : execLossOfLock n how k s = _)
  case freeLoss =>
    change execLossOfLock n how k s = _
    refine onChip_next ((if_neg hloud).trans ?_)
    simp only [hnone]
  case stays =>
    change execLossOfLock n how k s = _
    refine onChip_next ((if_neg hloud).trans ?_)
    simp only [hg]
    rcases hstay with hup | hidle
    · exact (ite_congr rfl (fun _ => rfl) (fun _ => if_neg (Bool.eq_false_iff.mp hup))).trans (ite_self _)
    · exact if_pos hidle
  case down =>
    change execLossOfLock n how k s = _
    refine onChip_next ((if_neg hloud).trans ?_)
    obtain ⟨hup, hidle⟩ := not_or.mp hgo
    simp only [hg]
    exact (if_neg hidle).trans (if_pos (Bool.not_eq_false _ ▸ hup))
  case offStep => exact (onChip_same (if_pos (Or.inl hoff)) : execBringupStepTimeout g s = _)
  case offRate => exact (onChip_same (if_neg (by simp [hoff])) : execRateLockTimeout g s = _)
  case offTap => exact (onChip_same (if_neg (by simp [hoff])) : execTapAdjustTimeout g s = _)
  case offSend => exact (onChip_same (if_neg (by simp [hoff])) : execAlignmentMarkerSend g s = _)
  case offRx => exact (onChip_same (if_pos (Or.inl hoff)) : execAlignmentMarkerRx g l s = _)
  case offIdle => exact (onChip_same (if_neg (by simp [hoff])) : execElectricalIdleEntry g s = _)
  case offExit => exact (onChip_same (if_neg (by simp [hoff])) : execElectricalIdleExit g s = _)
  case retry =>
    refine (onChip_next ((if_neg ?_).trans (if_pos ⟨hre, hf⟩)) : execBringupStepTimeout g s = _)
    simp [hon, hst, hup, hfail, hdue]
  case restart =>
    refine (onChip_next ((if_neg ?_).trans (if_neg ?_)) : execBringupStepTimeout g s = _)
    · simp [hon, hst, hup, hfail, hdue]
    · exact not_and_or.mpr (hre.imp Bool.eq_false_iff.mp Nat.not_lt.mpr)
  case noStep => exact (onChip_same (if_pos (Or.inr h)) : execBringupStepTimeout g s = _)
  case lower =>
    change execRateLockTimeout g s = _
    refine onChip_next ((if_pos ⟨hon, hst, hdue, hrate⟩).trans ?_)
    have hgrp (f : Fld) (i v : Nat) : ((s.chip.unlockLanes g.val).set f i v).grp g.val = s.chip.grp g.val :=
      Chip.unlockLanes_grp _ _ _
    simp only [hgrp, Chip.set_sched, Chip.unlockLanes_sched]
  case noRate => exact (onChip_same (if_neg (by rintro ⟨-, h1, h2, h3⟩; rcases h with h | h | h <;> omega)) : execRateLockTimeout g s = _)
  case taps => exact (onChip_next (if_pos ⟨hon, hst, hdue⟩) : execTapAdjustTimeout g s = _)
  case noTaps => exact (onChip_same (if_neg (by rintro ⟨-, h1, h2⟩; omega)) : execTapAdjustTimeout g s = _)
  case cfgFails =>
    change execExchangeRetry g s = _
    refine onChip_next ?_
    simp only [ht]
    exact (if_pos hdue).trans (if_pos hcfg)
  case exchange =>
    change execExchangeRetry g s = _
    refine onChip_next ?_
    simp only [ht]
    exact (if_pos hdue).trans (if_neg (Bool.eq_false_iff.mp hcfg))
  case exchangeEarly =>
    change execExchangeRetry g s = _
    refine onChip_same ?_
    simp only [ht]
    exact if_neg (Nat.not_le.mpr hearly)
  case noExchange =>
    change execExchangeRetry g s = _
    exact onChip_same (by simp only [hnone])
  case marker => exact (onChip_next (if_pos ⟨hon, hst, hdead⟩) : execAlignmentMarkerSend g s = _)
  case noMarker =>
    refine (onChip_same (if_neg ?_) : execAlignmentMarkerSend g s = _)
    rintro ⟨-, hst, hdead⟩
    exact h.elim (fun h => hst.elim h.1 h.2) (fun h => Bool.false_ne_true (hdead.symm.trans h))
  case noRx => exact (onChip_same (if_pos (Or.inr ⟨hst, hup⟩)) : execAlignmentMarkerRx g skews s = _)
  case deskew =>
    exact (onChip_next ((if_neg (by simp [hon, hst])).trans ((if_pos hst).trans (if_neg (Nat.not_le.mpr hn)))) :
      execAlignmentMarkerRx g skews s = _)
  case active =>
    exact (onChip_next ((if_neg (by simp [hon, hst])).trans ((if_pos hst).trans (if_pos hn))) : execAlignmentMarkerRx g skews s = _)
  case upkeep => exact (onChip_next ((if_neg (by simp [hon, hup])).trans (if_neg hst)) : execAlignmentMarkerRx g skews s = _)
  case idles => exact (onChip_next (if_pos ⟨hon, hidle⟩) : execElectricalIdleEntry g s = _)
  case noIdle => exact (onChip_same (if_neg (fun h => hidle h.2)) : execElectricalIdleEntry g s = _)
  case wakes => exact (onChip_next ((if_pos ⟨hon, hst⟩).trans (if_neg (Bool.eq_false_iff.mp hre))) : execElectricalIdleExit g s = _)
  case wakesRetrain => exact (onChip_next ((if_pos ⟨hon, hst⟩).trans (if_pos hre)) : execElectricalIdleExit g s = _)
  case noWake => exact (onChip_same (if_neg (fun h => hst h.2)) : execElectricalIdleExit g s = _)

/-! ### Frames -/

/-- A group that sends frames: the negated guard of STRAND_FRAME_SEND. -/
theorem sends_iff (c : Chip) (g : Nat) (fits : Bool) :
    (c.grpState g ≠ strActive ∨ fits = false ∨ c.clk.dead = true) ↔
      ¬ (c.grpState g = strActive ∧ c.clk.dead = false) ∨ fits = false := by
  cases c.clk.dead <;> cases fits <;> simp

/-- Settles O51: the checks of a received frame in their order, and what a group sends. -/
theorem strandFrames : Obligations.StrandFrames := by
  unfold Obligations.StrandFrames
  refine ⟨fun s g f c hc hno => ?notTaken, fun s g f c hc hon hup hwait => ⟨fun herr => ?aborted, fun herr hcode => ?codeError,
      fun herr hcode htime => ⟨fun hlen => ?badLen, fun hlen => ⟨fun hcrc => ?badCrc, fun hcrc hlater =>
        ⟨fun htype => ?badType, fun htype hkind hbound => ?unbound, fun htype hbound => ?delivered⟩⟩⟩⟩,
    fun s g => ⟨fun hup => ⟨fun o turn line soff px ok => ?raster, fun flow turn => ?anc, fun type pay bad => ?other⟩,
      fun hoff x fits => ?off, fun hon x fits hno => ⟨fun hdyn => ?dynamicLost, fun hdyn => ?staticLost⟩, fun hup hver hcap => ?status,
      fun hno => ?noStatus⟩,
    fun c g type flow pay hwf => ?sequence⟩
  case notTaken =>
    subst hc
    exact (onChip_next (if_pos hno) : execStrandFrameRx g f s = _)
  case off => exact (onChip_same (if_pos hoff) : execStrandFrameSend g x fits s = _)
  case dynamicLost =>
    have hno := (sends_iff _ g.val fits).mpr (hno.imp_left (fun h hs => h ⟨hon, hs⟩))
    exact (onChip_same ((if_neg (by simp [hon])).trans ((if_pos hno).trans (if_neg (by simp [hdyn])))) : execStrandFrameSend g x fits s = _)
  case staticLost =>
    have hno := (sends_iff _ g.val fits).mpr (hno.imp_left (fun h hs => h ⟨hon, hs⟩))
    exact (onChip_next ((if_neg (by simp [hon])).trans ((if_pos hno).trans (if_pos (by simp [hdyn])))) : execStrandFrameSend g x fits s = _)
  case raster =>
    obtain ⟨hon, hact, hdead⟩ := hup
    exact (onChip_next ((if_neg (by simp [hon])).trans (if_neg (by simp [hact, hdead]))) :
      execStrandFrameSend g (.raster o turn line soff px ok) true s = _)
  case anc =>
    obtain ⟨hon, hact, hdead⟩ := hup
    exact (onChip_next ((if_neg (by simp [hon])).trans (if_neg (by simp [hact, hdead]))) :
      execStrandFrameSend g (.anc flow turn) true s = _)
  case other =>
    obtain ⟨hon, hact, hdead⟩ := hup
    exact (onChip_next ((if_neg (by simp [hon])).trans (if_neg (by simp [hact, hdead]))) :
      execStrandFrameSend g (.other type pay bad) true s = _)
  case status =>
    obtain ⟨hon, hact, hdead⟩ := hup
    exact (onChip_next (if_pos ⟨hon, hact, hver, hcap, hdead⟩) : execRemoteStatusSend g s = _)
  case noStatus =>
    refine (onChip_same (if_neg ?_) : execRemoteStatusSend g s = _)
    rintro ⟨hon, hact, hver, hcap, hdead⟩
    simp [hon, hact, hdead, hver, hcap] at hno
  case sequence =>
    rw [Chip.strandSend, Chip.when, if_neg Bool.false_ne_true, Chip.grp]
    exact congrArg StrGroup.txSeq ((tget_tset _ hwf _ _ _).trans (if_pos rfl))
  all_goals
    subst hc
    change execStrandFrameRx g f s = _
    refine onChip_next ((if_neg (by simp [hon, hup, hwait])).trans ?_)
  case aborted => exact if_pos herr
  all_goals refine (if_neg (Bool.eq_false_iff.mp herr)).trans ?_
  case codeError => exact if_pos hcode
  all_goals refine (if_neg (by simp [hcode, htime])).trans ?_
  case badLen => exact if_pos hlen
  all_goals refine (if_neg (not_not_intro hlen)).trans ?_
  case badCrc => exact if_pos hcrc
  all_goals refine (if_neg (not_or.mpr ⟨not_not_intro hcrc, Bool.eq_false_iff.mp hlater⟩)).trans ?_
  case badType => exact if_pos htype
  all_goals refine (if_neg (by simp [htype])).trans ?_
  case unbound => exact if_pos ⟨hkind, hbound⟩
  case delivered =>
    refine if_neg (not_and_or.mpr (hbound.imp ?_ (Bool.not_eq_false _).mpr))
    exact fun h => not_or.mpr h

end Sys2Proof.Machine
end

section
/-! Accesses outside the DRAM, and the counter clears of the media blocks. -/

namespace Sys2Proof.Machine

/-! ### Outside the DRAM -/

/-- A guarded meaning stops with its fault in the guard's case alone. -/
theorem guarded_fault_iff {b : Bool} {f : Chip → Chip} {s : State} {e : Fault} :
    (if b then .fault e else onChip f s : Host.Outcome State Fault Refusal) = .fault e ↔ b = true := by
  cases b <;> simp [onChip_eq]

theorem Chip.outsideDram_iff (c : Chip) (a n : Nat) : c.outsideDram a n = true ↔ c.dramBytes < a + n := decide_eq_true_iff

theorem Chip.outsideDram_eq_false {c : Chip} {a n : Nat} (h : a + n ≤ c.dramBytes) : c.outsideDram a n = false :=
  decide_eq_false (Nat.not_lt.mpr h)

theorem execDramDynamicRequest_inside {s : State} {r : DynReq} (h : r.addr + dynSize r ≤ s.chip.dramBytes) :
    execDramDynamicRequest r s = onChip (fun c =>
      if c.on R.DRAM_MAPCFG_EN then ({ c with dram := { c.dram with queue := c.dram.queue ++ [r] } }).serveDram else c) s :=
  if_neg (Bool.eq_false_iff.mp (Chip.outsideDram_eq_false h))

theorem execScrubLine_inside {s : State} {a : Nat} {e : LineErr} (h : a + 64 ≤ s.chip.dramBytes) :
    execScrubLine a e s = onChip (fun c =>
      if c.on R.DRAM_MAPCFG_EN ∧ c.dramOpen ∧ c.eccRegion a ∧ c.bankFree (c.dramLoc a).bank then
        ((c.activations a 64 (some 1024)).lineError a e).1
      else c) s :=
  if_neg (Bool.eq_false_iff.mp (Chip.outsideDram_eq_false h))

/-- Settles O8: the three guards, and the branch that follows each. -/
theorem outsideDramFaults : Obligations.OutsideDramFaults := by
  unfold Obligations.OutsideDramFaults
  refine ⟨fun s r => guarded_fault_iff.trans (Chip.outsideDram_iff _ _ _), fun s a e => guarded_fault_iff.trans (Chip.outsideDram_iff _ _ _),
    fun s st b e => guarded_fault_iff, fun s r hin hen => (execDramDynamicRequest_inside hin).trans (onChip_next (if_pos hen)),
    fun s a e hin hen hopen hreg hfree => (execScrubLine_inside hin).trans (onChip_next (if_pos ⟨hen, hopen, hreg, hfree⟩)),
    fun s r hin hoff => (execDramDynamicRequest_inside hin).trans (onChip_same (if_neg (Bool.eq_false_iff.mp hoff))), fun s a e hin hclosed => ?_⟩
  refine (execScrubLine_inside hin).trans (onChip_same (if_neg ?_))
  rintro ⟨hen, hopen, hreg, hfree⟩
  simp [hen, hopen, hreg, hfree] at hclosed

/-! ### Counter clears -/

/-- The audio counters of one port, cleared. -/
def Chip.audClear (c : Chip) (n : Nat) : Chip :=
  let c := (c.set R.AUD_SUBBLKS_SUBST n 0).set R.AUD_SUBBLKS_NOMATCH n 0
  let c := (c.set R.AUD_FRAMECNT_DROPPED n 0).set R.AUD_FRAMECNT_REPEATED n 0
  (c.set R.AUD_ERRCNT_FRAMING n 0).set R.AUD_ERRCNT_CLKLOSS n 0

/-- The one port of a list of all that a command names. -/
theorem filter_range_beq {k n : Nat} (h : n < k) : (List.range k).filter (· == n) = [n] := by
  rw [List.filter_beq, List.nodup_range.count, if_pos (List.mem_range.mpr h), List.replicate_one]

theorem execAudCntclr_one {v : Word} {s : State} (go : bit v.toNat 31 = true) (one : bit v.toNat 30 = false) (h : bits v.toNat 5 0 < 48) :
    execAudCntclr v s = .next { s with chip := s.chip.audClear (bits v.toNat 5 0) } := by
  refine onChip_next ((if_pos go).trans ?_)
  rw [if_neg (Bool.eq_false_iff.mp one), filter_range_beq h]
  rfl

theorem Chip.get_audClear {c : Chip} (h : c.Canonical) (n : Nat) :
    (c.audClear n).get R.AUD_SUBBLKS_SUBST n = 0 ∧ (c.audClear n).get R.AUD_SUBBLKS_NOMATCH n = 0 ∧
      (c.audClear n).get R.AUD_FRAMECNT_DROPPED n = 0 ∧ (c.audClear n).get R.AUD_FRAMECNT_REPEATED n = 0 ∧
      (c.audClear n).get R.AUD_ERRCNT_FRAMING n = 0 ∧ (c.audClear n).get R.AUD_ERRCNT_CLKLOSS n = 0 := by
  unfold Chip.audClear
  refine ⟨?_, ?_, ?_, ?_, ?_, ?_⟩ <;>
    simp (disch := first | decide | apply_rules [Chip.set_canonical]) only [Chip.get_set, Chip.get_set_beside, Nat.zero_mod]

theorem execSpnCntclr_one {v : Word} {s : State} (go : bit v.toNat 31 = true) (one : bit v.toNat 30 = false) (h : bits v.toNat 7 0 < 192) :
    execSpnCntclr v s = .next { s with chip := s.chip.spnClear (bits v.toNat 7 0) } := by
  simp only [execSpnCntclr, onChip_eq, go, one, h, if_true, Bool.false_eq_true, if_false]

/-- A clear without GO. -/
theorem cntclr_idle {v : Word} {s : State} (idle : ¬ bit v.toNat 31 = true) :
    ∀ i ∈ [Instr.ingCntclr v, .rateCntclr v, .spnCntclr v, .decCntclr v, .audCntclr v], exec i s = .next s := by
  have hing : execIngCntclr v s = .next s := onChip_same (if_neg fun h => idle h.1)
  have hrate : execRateCntclr v s = .next s := onChip_same (if_neg idle)
  have hspn : execSpnCntclr v s = .next s := onChip_same (if_neg idle)
  have hdec : execDecCntclr v s = .next s := onChip_same (if_neg idle)
  have haud : execAudCntclr v s = .next s := onChip_same (if_neg idle)
  exact List.forall_mem_cons.mpr ⟨hing, List.forall_mem_cons.mpr ⟨hrate, List.forall_mem_cons.mpr ⟨hspn,
    List.forall_mem_cons.mpr ⟨hdec, List.forall_mem_singleton.mpr haud⟩⟩⟩⟩

/-- Settles O14: a clear with GO takes its branch, one without GO the other. -/
theorem mediaCounterClears : Obligations.MediaCounterClears := by
  unfold Obligations.MediaCounterClears
  refine fun s v => ⟨fun go hleg => onChip_next (if_pos ⟨go, hleg⟩), fun n go => onChip_next (if_pos go),
    fun go hch => onChip_next ((if_pos go).trans (if_pos hch)), execSpnCntclr_one,
    fun go => onChip_next (if_pos go),
    fun go one hport (h : s.chip.Canonical) => ⟨s.chip.audClear (bits v.toNat 5 0), execAudCntclr_one go one hport, Chip.get_audClear h _⟩, fun idle => cntclr_idle (Bool.eq_false_iff.mp idle),
    fun n idle => onChip_same (if_neg (Bool.eq_false_iff.mp idle))⟩
end Sys2Proof.Machine
end

section
/-! The interrupt controller and the work queues. -/

namespace Sys2Proof.Machine

/-- A source that has seen too many edges in its window, and is not stopped already, is stopped. -/
theorem Chip.when_storm {c d : Chip} {n m k : Nat}
    (hstop : m ≠ 0 ∧ m < k ∧ c.on R.SVC_SRCSTAT_STORM n = false → d = c.storm n)
    (hstay : ¬ (m ≠ 0 ∧ m < k ∧ c.on R.SVC_SRCSTAT_STORM n = false) → d = c) :
    c.when (decide (m ≠ 0 ∧ m < k) && !c.on R.SVC_SRCSTAT_STORM n) (·.storm n) = d := by
  by_cases hit : m ≠ 0 ∧ m < k ∧ c.on R.SVC_SRCSTAT_STORM n = false
  · obtain ⟨hm, hk, hon⟩ := hit
    rw [hstop ⟨hm, hk, hon⟩, hon, decide_eq_true ⟨hm, hk⟩]
    rfl
  · rw [hstay hit]
    refine if_neg fun h => hit ?_
    obtain ⟨hmk, hon⟩ := (Bool.and_eq_true _ _).mp h
    obtain ⟨hm, hk⟩ := of_decide_eq_true hmk
    exact ⟨hm, hk, Bool.not_eq_true' _ ▸ hon⟩

/-- Some queue holds an item. -/
theorem queues_any_iff {l : Tab QueueRun} :
    l.any (fun q => !q.2.items.isEmpty) = true ↔ ∃ q ∈ l, q.2.items ≠ [] := by
  simp only [List.any_eq_true, Bool.not_eq_true', List.isEmpty_eq_false_iff]

/-- Settles O53: the branches of the commands. -/
theorem interruptsAndItems : Obligations.InterruptsAndItems := by
  unfold Obligations.InterruptsAndItems
  refine fun s => ⟨fun n fw => ⟨fun hidle => ?still, fun hruns => ?runs⟩, fun n => ⟨fun t ht hus hdue => ?coalesced, fun h => ?notYet⟩,
    fun n => ⟨fun hearly => ?inWindow, fun hdue d hstop hstay => ?windowEnds⟩, fun n => ⟨fun hheld => ?levelmax, fun hfree => ?level⟩,
    fun v hk => ?hostack, fun v hk => ?noAck, fun v => rfl, fun n h => rfl, fun i v => rfl,
    fun q v => ⟨fun hroom => ?room, fun hfull => ?full⟩, fun q t ht hdue => ?affwait, fun q h => ?noAffwait,
    fun k => ⟨fun hnone => ?nothing, fun q hq hempty => ?gone, fun q w l hq hitems => ?taken, fun v go hheld => ?done, fun v h => ?notDone,
      fun hheld hlate hdue => ?overrun, fun h => ?noOverrun, fun hlate hdue => ?resets, fun h => ?noReset, fun hfast hdue => ?fastEnds,
      fun h => ?fastGoes⟩, fun hdue hitems => ?watchdog, fun h => ?noWatchdog⟩
  case still =>
    change execInterruptSense n fw s = _
    exact onChip_next (congrArg (Chip.sense · n.val) (if_neg hidle))
  case runs =>
    change execInterruptSense n fw s = _
    exact onChip_next (congrArg (Chip.sense · n.val) (if_pos hruns))
  case coalesced =>
    change execCoalesceTimeout n s = _
    refine onChip_next ?_
    simp only [ht]
    exact if_pos ⟨hus, hdue⟩
  case notYet =>
    change execCoalesceTimeout n s = _
    refine onChip_same ?_
    rcases h with hnone | hzero | ⟨t, ht, hearly⟩
    · simp only [hnone]
    · cases hat : (s.chip.src n.val).accumAt with
      | none => simp only [hat]
      | some t =>
        simp only [hat]
        exact if_neg fun h => h.1 hzero
    · simp only [ht]
      exact if_neg fun h => Nat.not_lt.mpr h.2 hearly
  case inWindow =>
    change execStormWindow n s = _
    exact onChip_same (if_neg (Nat.not_le.mpr hearly))
  case windowEnds =>
    change execStormWindow n s = _
    refine onChip_next ((if_pos hdue).trans ?_)
    simp only [Chip.when_storm hstop hstay]
  case levelmax =>
    change execLevelmaxExpiry n s = _
    exact onChip_next (if_pos hheld)
  case level =>
    change execLevelmaxExpiry n s = _
    exact onChip_same (if_neg hfree)
  case hostack =>
    change execHostack v s = _
    exact onChip_next (if_pos hk)
  case noAck =>
    change execHostack v s = _
    exact onChip_same (if_neg hk)
  case room =>
    change execEnqueue q v s = _
    exact onChip_next (if_pos hroom)
  case full =>
    change execEnqueue q v s = _
    exact onChip_next (if_neg (Bool.eq_false_iff.mp hfull))
  case affwait =>
    change execAffwaitExpiry q s = _
    refine onChip_next ?_
    simp only [ht]
    exact if_pos hdue
  case noAffwait =>
    change execAffwaitExpiry q s = _
    refine onChip_same ?_
    rcases h with hnone | ⟨t, ht, hearly⟩
    · simp only [hnone]
    · simp only [ht]
      exact if_neg (Nat.not_le.mpr hearly)
  case nothing =>
    change execTake k s = _
    refine onChip_next ?_
    simp only [hnone]
  case gone =>
    change execTake k s = _
    refine onChip_next ?_
    simp only [hq, hempty]
  case taken =>
    change execTake k s = _
    refine onChip_next ?_
    simp only [hq, hitems]
    rfl
  case done =>
    change execDone k v s = _
    exact onChip_next (if_pos ⟨go, hheld⟩)
  case notDone =>
    change execDone k v s = _
    refine onChip_same (if_neg fun ⟨go, hheld⟩ => ?_)
    simp [go, hheld] at h
  case overrun =>
    change execItemOverrun k s = _
    exact onChip_next (if_pos ⟨hheld, hlate, hdue⟩)
  case noOverrun =>
    change execItemOverrun k s = _
    refine onChip_same (if_neg fun ⟨hheld, hlate, hdue⟩ => ?_)
    simp [hheld, hlate, Nat.not_lt.mpr hdue] at h
  case resets =>
    change execCoreReset k s = _
    exact onChip_next (if_pos ⟨hlate, hdue⟩)
  case noReset =>
    change execCoreReset k s = _
    refine onChip_same (if_neg fun ⟨hlate, hdue⟩ => ?_)
    simp [hlate, Nat.not_lt.mpr hdue] at h
  case fastEnds =>
    change execFastHandlerTimeout k s = _
    exact onChip_next (if_pos ⟨hfast, hdue⟩)
  case fastGoes =>
    change execFastHandlerTimeout k s = _
    refine onChip_same (if_neg fun ⟨hfast, hdue⟩ => ?_)
    simp [hfast, Nat.not_lt.mpr hdue] at h
  case watchdog =>
    change execServiceWatchdog s = _
    exact onChip_next (if_pos ⟨hdue, queues_any_iff.mpr hitems⟩)
  case noWatchdog =>
    change execServiceWatchdog s = _
    refine onChip_same (if_neg fun ⟨hdue, hany⟩ => ?_)
    obtain ⟨q, hq, hitem⟩ := queues_any_iff.mp hany
    rcases h with hearly | hnone
    · exact Nat.not_lt.mpr hdue hearly
    · exact hitem (hnone q hq)

end Sys2Proof.Machine
end

section
/-! The rings of the host and the reads of the Reel. -/

namespace Sys2Proof.Machine

/-! ### What a read of the Reel shows -/

/-- The words of an entry lie behind the registers that show a read's outcome. -/
theorem Chip.entryShown {c : Chip} (h : c.Canonical) (word : Nat → Nat) (l : List Nat) :
    (c.each l (fun c w => c.set R.REEL_ENTRY w (word w))).Canonical ∧
      ∀ g : Fld, g.at 0 < R.REEL_ENTRY.addr → (c.each l (fun c w => c.set R.REEL_ENTRY w (word w))).get g = c.get g := by
  refine Chip.each_keeps (P := fun d => d.Canonical ∧ ∀ g : Fld, g.at 0 < R.REEL_ENTRY.addr → d.get g = c.get g) l _ ⟨h, fun _ _ => rfl⟩ ?_
  rintro d w ⟨hd, hget⟩
  refine ⟨Chip.set_canonical hd _ _ _, fun g hg => ?_⟩
  have happart : R.REEL_ENTRY.at w ≠ g.at 0 := Nat.ne_of_gt (Nat.lt_of_lt_of_le hg (Nat.le_add_right _ _))
  rw [Chip.get_set_ne hd _ _ _ _ _ (by decide) (by decide) (Or.inl happart), hget g hg]

/-- A read without an entry, and the start of a fetch, by the fields they write. -/
theorem Chip.absent_shown {c : Chip} (h : c.Canonical) (busy : Nat) :
    (((c.set R.REEL_RDSTAT_BUSY 0 busy).set R.REEL_RDSTAT_VALID 0 0).set R.REEL_RDSTAT_NAND 0 0).on R.REEL_RDSTAT_BUSY =
        (c.set R.REEL_RDSTAT_BUSY 0 busy).on R.REEL_RDSTAT_BUSY ∧
      (((c.set R.REEL_RDSTAT_BUSY 0 busy).set R.REEL_RDSTAT_VALID 0 0).set R.REEL_RDSTAT_NAND 0 0).on R.REEL_RDSTAT_VALID = false := by
  constructor <;>
    simp (disch := first | decide | apply_rules [Chip.set_canonical]) only [Chip.on_set_zero, Chip.on_set_beside]

theorem Chip.present_shown {c : Chip} (h : c.Canonical) (n : Nat) :
    ((c.set R.REEL_RDSTAT_VALID 0 1).set R.REEL_RDSTAT_NAND 0 n).on R.REEL_RDSTAT_BUSY = c.on R.REEL_RDSTAT_BUSY ∧
      ((c.set R.REEL_RDSTAT_VALID 0 1).set R.REEL_RDSTAT_NAND 0 n).on R.REEL_RDSTAT_VALID = true := by
  constructor <;>
    simp (disch := first | decide | apply_rules [Chip.set_canonical]) only [Chip.on_set_one, Chip.on_set_beside]

theorem Chip.reelShow_none {c : Chip} (h : c.Canonical) (x : Bool) :
    (c.reelShow none x).on R.REEL_RDSTAT_BUSY = false ∧ (c.reelShow none x).on R.REEL_RDSTAT_VALID = false ∧
      (c.reelShow none x).on R.REEL_RDSTAT_NOTFOUND = true := by
  have hp : (c.pulse 672).Canonical := Chip.canonical_of_regs h rfl rfl
  obtain ⟨hbusy, hvalid⟩ := Chip.absent_shown hp 0
  have hd := Chip.set_canonical (Chip.set_canonical (Chip.set_canonical hp R.REEL_RDSTAT_BUSY 0 0) R.REEL_RDSTAT_VALID 0 0) R.REEL_RDSTAT_NAND 0 0
  refine ⟨?_, ?_, Chip.on_set_one hd _ _ (by decide) (by decide)⟩
  · exact (Chip.on_set_beside hd (by decide) _ _).trans (hbusy.trans (Chip.on_set_zero hp _ _ (by decide) (by decide)))
  · exact (Chip.on_set_beside hd (by decide) _ _).trans hvalid

theorem Chip.reelShow_some {c : Chip} (h : c.Canonical) (e : ReelEntry) (x : Bool) :
    (c.reelShow (some e) x).on R.REEL_RDSTAT_BUSY = false ∧ (c.reelShow (some e) x).on R.REEL_RDSTAT_VALID = true := by
  have hp : (c.pulse 672).Canonical := Chip.canonical_of_regs h rfl rfl
  obtain ⟨hd, hget⟩ := Chip.entryShown (Chip.set_canonical hp R.REEL_RDSTAT_BUSY 0 0) (fun w => leAt e.bytes (4 * w) 4) (List.range 16)
  obtain ⟨hbusy, hvalid⟩ := Chip.present_shown hd (b2n x)
  refine ⟨hbusy.trans ?_, hvalid⟩
  rw [Chip.on, hget R.REEL_RDSTAT_BUSY (by decide)]
  exact Chip.on_set_zero hp _ _ (by decide) (by decide)

theorem Chip.reelFetch_shown {c : Chip} (h : c.Canonical) (b : Bool) :
    (c.reelFetch b).svc.fetch = some b ∧ (c.reelFetch b).on R.REEL_RDSTAT_BUSY = true ∧
      (c.reelFetch b).on R.REEL_RDSTAT_VALID = false := by
  have hd : ({ c with svc := { c.svc with fetch := some b } } : Chip).Canonical := Chip.canonical_of_regs h rfl rfl
  obtain ⟨hbusy, hvalid⟩ := Chip.absent_shown hd 1
  exact ⟨rfl, hbusy.trans (Chip.on_set_one hd _ _ (by decide) (by decide)), hvalid⟩

/-! ### The rings -/

/-- The rings are on for an enable and a size of 16 to 4,096. -/
theorem Chip.ringsOn_configured {c : Chip} (h : c.Canonical) (v : Nat) (en : Bool) :
    ((c.set R.SVC_RINGCFG_LOG2 0 (v % 16)).setB R.SVC_RINGCFG_EN 0 en).ringsOn = true ↔ en = true ∧ 4 ≤ v % 16 ∧ v % 16 ≤ 12 := by
  have hsize := Chip.set_canonical h R.SVC_RINGCFG_LOG2 0 (v % 16)
  unfold Chip.ringsOn Chip.setB
  simp (disch := first | decide | apply_rules [Chip.set_canonical]) only [Chip.on, Chip.get_set, Chip.get_set_beside, Fld.width]
  cases en <;> simp [b2n]

/-- The outcome of a fetch: the first entry of the NAND ring that it looks for. -/
theorem execReelNandFetchDone_some {s : State} {b : Bool} (hf : s.chip.svc.fetch = some b) :
    execReelNandFetchDone s = .next { s with chip := (
      let d : Chip := { s.chip with svc := { s.chip.svc with fetch := none } }
      match (s.chip.reelImages.filterMap (·.2)).reverse.find? (fun e =>
        if b then e.token == s.chip.svc.query.1 && e.origin == s.chip.svc.query.2 else e.seq == s.chip.reelRdseq) with
      | some e => (if b then d.set2 R.REEL_RDSEQLO R.REEL_RDSEQHI 0 e.seq else d).reelShow (some e) true
      | none => d.reelShow none false) } := by
  refine onChip_next ?_
  simp only [hf]
  cases b <;> rfl

/-- Settles O54: the branches of the commands, and the fields that show a read. -/
theorem ringsAndReel : Obligations.RingsAndReel := by
  unfold Obligations.RingsAndReel
  intro s v (h : s.chip.Canonical)
  refine ⟨⟨fun hstay => ?stays, fun hstart => ?starts, Chip.ringsOn_configured h _ _⟩, fun hon => ?bell, fun hoff => ⟨?noBell, ?noHead⟩,
    fun x k hon hx hk => ⟨fun hfit => ?frees, fun hmany => ?tooMany⟩, fun hbusy => ⟨?collides, fun go => ?queryCollides⟩,
    fun hready => ⟨fun e he => ?onChip, fun hnone hold hseq => ?fetches, fun hnone hnew => ?absent⟩,
    fun hready go => ⟨fun e he => ?tokenHeld, fun hnone => ?tokenFetched⟩, fun d b hd => Chip.reelFetch_shown hd b, fun idle => ?noGo,
    fun hnone => ?noFetch, fun b hb => ⟨fun hnone => ?lost, fun e he => ⟨fun hsearch => ?foundToken, fun hseq => ?foundSeq⟩⟩,
    fun d e x hd => ?shown⟩
  case stays =>
    change execRingEnable v s = _
    refine onChip_next (if_neg fun hstart => hstay ?_)
    simpa using hstart
  case starts =>
    change execRingEnable v s = _
    exact onChip_next (if_pos (by simpa using hstart))
  case bell =>
    change execSqDoorbell v s = _
    exact onChip_next (if_pos hon)
  case noBell =>
    change execSqDoorbell v s = _
    exact onChip_same (if_neg (Bool.eq_false_iff.mp hoff))
  case noHead =>
    change execCqHeadWrite v s = _
    exact onChip_same (if_neg (Bool.eq_false_iff.mp hoff))
  case frees =>
    change execCqHeadWrite v s = _
    subst hk hx
    exact onChip_next ((if_pos hon).trans (if_pos hfit))
  case tooMany =>
    change execCqHeadWrite v s = _
    subst hk hx
    exact onChip_same ((if_pos hon).trans (if_neg (Nat.not_le.mpr hmany)))
  case collides =>
    change execReelRead v s = _
    exact onChip_next (if_pos hbusy)
  case queryCollides =>
    change execReelTokenQuery v s = _
    exact onChip_next ((if_pos go).trans (if_pos hbusy))
  case onChip =>
    change execReelRead v s = _
    refine onChip_next ((if_neg (Bool.eq_false_iff.mp hready)).trans ?_)
    simp only [he]
  case fetches =>
    change execReelRead v s = _
    refine onChip_next ((if_neg (Bool.eq_false_iff.mp hready)).trans ?_)
    simp only [hnone]
    exact if_pos ⟨hold, hseq⟩
  case absent =>
    change execReelRead v s = _
    refine onChip_next ((if_neg (Bool.eq_false_iff.mp hready)).trans ?_)
    simp only [hnone]
    refine if_neg fun ⟨hold, hseq⟩ => ?_
    exact hnew.elim (Nat.not_le.mpr hold) hseq
  case tokenHeld =>
    change execReelTokenQuery v s = _
    refine onChip_next ((if_pos go).trans ((if_neg (Bool.eq_false_iff.mp hready)).trans ?_))
    simp only [he]
  case tokenFetched =>
    change execReelTokenQuery v s = _
    refine onChip_next ((if_pos go).trans ((if_neg (Bool.eq_false_iff.mp hready)).trans ?_))
    simp only [hnone]
  case noGo =>
    change execReelTokenQuery v s = _
    exact onChip_same (if_neg (Bool.eq_false_iff.mp idle))
  case noFetch =>
    change execReelNandFetchDone s = _
    refine onChip_same ?_
    simp only [hnone]
  case lost =>
    refine (execReelNandFetchDone_some hb).trans ?_
    simp only [hnone]
  case foundToken =>
    refine (execReelNandFetchDone_some hb).trans ?_
    simp only [he]
    rw [if_pos hsearch]
  case foundSeq =>
    refine (execReelNandFetchDone_some hb).trans ?_
    simp only [he]
    rw [if_neg (Bool.eq_false_iff.mp hseq)]
  case shown =>
    cases e with
    | none =>
      obtain ⟨hbusy, hvalid, hnotfound⟩ := Chip.reelShow_none hd x
      exact ⟨hbusy, hvalid, fun _ => hnotfound⟩
    | some e =>
      obtain ⟨hbusy, hvalid⟩ := Chip.reelShow_some hd e x
      exact ⟨hbusy, hvalid, nofun⟩

end Sys2Proof.Machine
end

section
/-! Commands of the host and of the in-band channel. -/

namespace Sys2Proof.Machine

/-! ### The submission ring -/

/-- The next command of the ring is read: the rings are on, one is there, its completion has room, and its code is this one's. -/
def Chip.mayRead (c : Chip) (m : CmdMsg) (a : CmdArg) : Prop :=
  c.ringsOn = true ∧ c.get R.SVC_SQHEAD ≠ c.svc.sqTail ∧ c.ringRoom = true ∧ c.svc.posts = [] ∧ codeFits m a = true

theorem Chip.mayRead_iff (c : Chip) (m : CmdMsg) (a : CmdArg) :
    (c.ringsOn && c.get R.SVC_SQHEAD != c.svc.sqTail && c.ringRoom && c.svc.posts.isEmpty && codeFits m a) = true ↔ c.mayRead m a := by
  simp only [Chip.mayRead, Bool.and_eq_true, bne_iff_ne, List.isEmpty_iff, and_assoc]

theorem Chip.hostSubmit_read {c : Chip} {m : CmdMsg} {a : CmdArg} (h : c.mayRead m a) (f : Chip → Answer → Chip) :
    c.hostSubmit m a f = f (c.set R.SVC_SQHEAD 0 ((c.get R.SVC_SQHEAD + 1) % c.ringSize)) (.host (c.get R.SVC_SQHEAD)) :=
  if_pos ((c.mayRead_iff m a).mpr h)

theorem Chip.hostSubmit_waits {c : Chip} {m : CmdMsg} {a : CmdArg} (h : ¬ c.mayRead m a) (f : Chip → Answer → Chip) : c.hostSubmit m a f = c :=
  if_neg (mt (c.mayRead_iff m a).mp h)

/-! ### The steps of acceptance -/

section
variable {c : Chip} {origin : Nat} {m : CmdMsg} {a : CmdArg} (dest : Answer)

theorem Chip.submit_refused {r : Nat} (h : c.step1 origin m a = some r) : c.submit origin dest m a = c.reply dest origin m r := by
  simp only [Chip.submit, h]

theorem Chip.submit_tooMany (h : c.step1 origin m a = none)
    (hmany : 128 ≤ (c.svc.accepted.filter (fun t => decide (c.sched.cyc < t + 800000000))).length) :
    c.submit origin dest m a = c.reply dest origin m 0x30 := by
  simp only [Chip.submit, h]
  exact if_pos hmany

variable (h : c.step1 origin m a = none) (hfew : (c.svc.accepted.filter (fun t => decide (c.sched.cyc < t + 800000000))).length < 128)
include h hfew

theorem Chip.submit_held {e : ReelEntry}
    (hold : (if c.tokenOf origin m = 0 then none else c.svc.reel.find? (fun e => e.token == c.tokenOf origin m && e.origin == origin)) = some e) :
    c.submit origin dest m a = c.answer dest { e.completion true with code := msgCode m } := by
  simp only [Chip.submit, h]
  rw [if_neg (Nat.not_le.mpr hfew), hold]

variable (hnew : (if c.tokenOf origin m = 0 then none else
  c.svc.reel.find? (fun e => e.token == c.tokenOf origin m && e.origin == origin)) = none)
include hnew

theorem Chip.submit_installs {off : Nat} {b : List Byte} (ha : a = .installData off b) :
    c.submit origin dest m a = (c.installData off b).1.reply dest origin m (c.installData off b).2 := by
  simp only [Chip.submit, h]
  rw [if_neg (Nat.not_le.mpr hfew), hnew, ha]

theorem Chip.submit_logRead {p f n : Nat} (ha : a = .logRead p f n) :
    c.submit origin dest m a = (c.logRead p f n).1.reply dest origin m (c.logRead p f n).2 := by
  simp only [Chip.submit, h]
  rw [if_neg (Nat.not_le.mpr hfew), hnew, ha]

theorem Chip.submit_journaled (ha : unjournaled a = false) : c.submit origin dest m a = c.journal origin dest m a := by
  simp only [Chip.submit, h]
  rw [if_neg (Nat.not_le.mpr hfew), hnew]
  cases a with
  | installData off b => cases ha
  | logRead p f n => cases ha
  | _ => rfl

end

/-! ### Datagrams -/

/-- A datagram passes its checks, the last of them that its counter lies above the last one of its slot. -/
theorem Chip.mgmtTaken_iff (c : Chip) (d : MgmtDatagram) :
    c.mgmtTaken d = true ↔ 112 ≤ d.bytes.length ∧ (mgmtMsg d).arg.length ≤ 8192 ∧ mgmtSlot d ∈ c.tables.mgmtSlots ∧
      c.get R.SEC_KSSTAT_TYPE (mgmtSlot d) = 2 ∧ c.mgmtTag (mgmtSlot d) (mgmtBody d) = d.bytes.drop (d.bytes.length - 32) ∧
      ∀ n ∈ tget none c.svc.mgmtCnt (mgmtSlot d), n < mgmtCounter d := by
  cases hlast : tget none c.svc.mgmtCnt (mgmtSlot d) with
  | none =>
    simp only [Chip.mgmtTaken, hlast, Bool.and_eq_true, decide_eq_true_eq, beq_iff_eq, List.contains_iff_mem, and_assoc, Option.mem_def, reduceCtorEq,
      false_implies, implies_true]
  | some n =>
    simp only [Chip.mgmtTaken, hlast, Bool.and_eq_true, decide_eq_true_eq, beq_iff_eq, List.contains_iff_mem, and_assoc, Option.mem_def,
      Option.some.injEq, forall_eq']

/-- Settles O55: each command is read off the ring and submitted, and a submission takes the first step that applies. -/
theorem hostCommands : Obligations.HostCommands := by
  unfold Obligations.HostCommands
  refine ⟨fun s m => ⟨fun v => rfl, fun t kb => rfl, fun t => ⟨rfl, rfl⟩, fun t => ⟨rfl, rfl⟩, fun x => rfl, fun v => rfl, fun k => rfl, fun p => rfl,
      rfl, rfl, rfl, rfl, rfl, rfl, fun t => rfl, fun g n => rfl, fun o b => rfl, fun v => rfl, rfl, fun a f n => rfl, rfl⟩,
    fun c m a s hc => ⟨fun hmay => Chip.hostSubmit_read hmay _, fun hwait => Chip.hostSubmit_waits hwait _, fun hmay => ?hello,
      fun hwait => ?noHello⟩,
    fun c origin d m a => ⟨fun r hr => Chip.submit_refused d hr, fun h => ⟨Chip.submit_tooMany d h, fun hfew =>
      ⟨fun e hold => Chip.submit_held d h hfew hold, fun hnew => ⟨fun o b => Chip.submit_installs d h hfew hnew,
        fun p f n => Chip.submit_logRead d h hfew hnew, Chip.submit_journaled d h hfew hnew⟩⟩⟩⟩,
    fun s d => ⟨fun htaken => ?taken, fun hfails => ?fails, s.chip.mgmtTaken_iff d⟩⟩
  case hello =>
    change execHello m s = _
    subst hc
    exact onChip_next (Chip.hostSubmit_read hmay _)
  case noHello =>
    change execHello m s = _
    subst hc
    exact onChip_same (Chip.hostSubmit_waits hwait _)
  case taken =>
    change execMgmtDatagram d s = _
    exact onChip_next (if_pos htaken)
  case fails =>
    change execMgmtDatagram d s = _
    exact onChip_next (if_neg (Bool.eq_false_iff.mp hfails))

end Sys2Proof.Machine
end

section
/-! The collector: records, pins, tests and proof-test ages. -/

namespace Sys2Proof.Machine

/-! ### Fields that are moved by one -/

theorem Chip.get_drop {c : Chip} (h : c.Canonical) (f : Fld) (i : Nat) (h1 : f.hi < 32) (h2 : f.lo ≤ f.hi) :
    (c.drop f i).get f i = c.get f i - 1 := by
  rw [Chip.drop, Chip.get_set h f i _ h1 h2]
  exact Nat.mod_eq_of_lt (Nat.lt_of_le_of_lt (Nat.sub_le _ _) (Chip.get_lt c f i))

theorem Chip.get_bump {c : Chip} (h : c.Canonical) (f : Fld) (i n : Nat) (h1 : f.hi < 32) (h2 : f.lo ≤ f.hi) :
    (c.bump f i n).get f i = min (2 ^ f.width - 1) (c.get f i + n) := by
  rw [Chip.bump, Chip.get_set h f i _ h1 h2]
  exact Nat.mod_eq_of_lt (Nat.lt_of_le_of_lt (Nat.min_le_left _ _) (Nat.sub_lt (Nat.two_pow_pos _) Nat.one_pos))

/-- A list of instances is done in order. -/
theorem Chip.each_range_succ (c : Chip) (n : Nat) (f : Chip → Nat → Chip) : c.each (List.range (n + 1)) f = f (c.each (List.range n) f) n := by
  rw [Chip.each, List.range_succ, List.foldl_append]
  rfl

theorem Chip.when_decide (c : Chip) (p : Prop) [Decidable p] (f : Chip → Chip) : c.when (decide p) f = if p then f c else c := by
  simp only [Chip.when, decide_eq_true_eq]

/-! ### The two records -/

theorem recAddr_inj {w k : Nat} (i : Nat) (h : w ≠ k) : recAddr i w ≠ recAddr i k := by
  unfold recAddr
  omega

theorem recAddr_apart {w k : Nat} (hw : w < 4) : recAddr 0 w ≠ recAddr 1 k := by
  unfold recAddr
  omega

/-- The first words of the second record, moved into the first. -/
theorem Chip.recordsMoved {c : Chip} (h : c.Canonical) {n : Nat} (hn : n ≤ 4) :
    let d := c.each (List.range n) (fun c w => (c.wr (recAddr 0 w) (c.rd (recAddr 1 w))).wr (recAddr 1 w) 0)
    d.Canonical ∧ (∀ w : Nat, w < n → d.rd (recAddr 0 w) = c.rd (recAddr 1 w) ∧ d.rd (recAddr 1 w) = 0) ∧
      ∀ a : Nat, (∀ w : Nat, w < n → a ≠ recAddr 0 w ∧ a ≠ recAddr 1 w) → d.rd a = c.rd a := by
  induction n with
  | zero => exact ⟨h, nofun, fun _ _ => rfl⟩
  | succ n ih =>
    obtain ⟨hd, hmoved, hrest⟩ := ih (Nat.le_of_succ_le hn)
    rw [Chip.each_range_succ]
    generalize c.each (List.range n) _ = d at hd hmoved hrest
    have hlast : d.rd (recAddr 1 n) = c.rd (recAddr 1 n) :=
      hrest _ fun w hw => ⟨(recAddr_apart (Nat.lt_trans hw hn)).symm, recAddr_inj 1 (Nat.ne_of_gt hw)⟩
    refine ⟨Chip.wr_canonical (Chip.wr_canonical hd _ _) _ _, fun w hw => ?_, fun a ha => ?_⟩
    · rw [Chip.rd_wr (Chip.wr_canonical hd _ _), Chip.rd_wr hd, Chip.rd_wr (Chip.wr_canonical hd _ _), Chip.rd_wr hd,
        if_neg (recAddr_apart (Nat.lt_of_lt_of_le hw hn))]
      rcases Nat.lt_succ_iff_lt_or_eq.mp hw with hlt | rfl
      · rw [if_neg (recAddr_inj 0 (Nat.ne_of_lt hlt)), if_neg (recAddr_inj 1 (Nat.ne_of_lt hlt)),
          if_neg (recAddr_apart hn).symm]
        exact hmoved w hlt
      · rw [if_pos rfl, if_pos rfl]
        exact ⟨hlast, rfl⟩
    · obtain ⟨hfirst, hsecond⟩ := ha n (Nat.lt_succ_self n)
      rw [Chip.rd_wr (Chip.wr_canonical hd _ _), if_neg hsecond, Chip.rd_wr hd, if_neg hfirst]
      exact hrest a fun w hw => ha w (Nat.lt_succ_of_lt hw)

/-! ### Proof tests -/

/-- The ages of the first columns, each moved on. -/
theorem Chip.agesMoved {c : Chip} (h : c.Canonical) (n : Nat) :
    let d := c.each (List.range n) (fun c x => c.bump R.SAF_COLSTAT_PTAGE x)
    d.Canonical ∧ (∀ x : Nat, x < n → d.get R.SAF_COLSTAT_PTAGE x = min 0xFFFF (c.get R.SAF_COLSTAT_PTAGE x + 1)) ∧
      (∀ x : Nat, n ≤ x → d.get R.SAF_COLSTAT_PTAGE x = c.get R.SAF_COLSTAT_PTAGE x) ∧
      d.get R.SAF_PTSTAT_OVERDUE 0 = c.get R.SAF_PTSTAT_OVERDUE 0 := by
  induction n with
  | zero => exact ⟨h, nofun, fun _ _ => rfl, rfl⟩
  | succ n ih =>
    obtain ⟨hd, hmoved, hrest, hover⟩ := ih
    rw [Chip.each_range_succ]
    generalize c.each (List.range n) _ = d at hd hmoved hrest hover
    have hother : ∀ x : Nat, x ≠ n → (d.bump R.SAF_COLSTAT_PTAGE n).get R.SAF_COLSTAT_PTAGE x = d.get R.SAF_COLSTAT_PTAGE x := fun x hx =>
      Chip.get_set_ne hd _ _ _ _ _ (by decide) (by decide) (Or.inl (by simp only [Fld.at]; omega))
    refine ⟨Chip.set_canonical hd _ _ _, fun x hx => ?_, fun x hx => ?_, ?_⟩
    · rcases Nat.lt_succ_iff_lt_or_eq.mp hx with hlt | rfl
      · rw [hother x (Nat.ne_of_lt hlt), hmoved x hlt]
      · rw [Chip.get_bump hd _ _ _ (by decide) (by decide), hrest x (Nat.le_refl x)]
        rfl
    · rw [hother x (Nat.ne_of_gt hx), hrest x (Nat.le_of_succ_le hx)]
    · exact (Chip.get_set_ne hd _ _ _ _ _ (by decide) (by decide) (Or.inl (by simp only [Fld.at]; omega))).trans hover

/-- A column that cannot be spared for its test. -/
theorem visitSkips_iff (d : Chip) (x : Nat) :
    ((!d.saf.tests.isEmpty || d.colRetired x || d.inOverlap x || d.saf.leaving.contains x) ||
        ((d.serves x).isSome && d.freeSpare.isNone)) = true ↔
      d.saf.tests ≠ [] ∨ d.colRetired x = true ∨ d.inOverlap x = true ∨ x ∈ d.saf.leaving ∨
        ((d.serves x).isSome = true ∧ d.freeSpare = none) := by
  simp only [Bool.or_eq_true, Bool.and_eq_true, Bool.not_eq_true', List.isEmpty_eq_false_iff, List.contains_iff_mem,
    Option.isNone_iff_eq_none, or_assoc, ne_eq]

/-- The columns a minute later. -/
def Chip.aged (c : Chip) : Chip :=
  ({ c with saf := { c.saf with minuteAt := c.saf.minuteAt + 48000000000 } }).each (List.range 16)
    (fun c x => c.bump R.SAF_COLSTAT_PTAGE x)

/-- A column in service has reached its first age of 40, with no such age shown yet. -/
def Chip.agesLate (c d : Chip) : Prop :=
  c.on R.SAF_PTSTAT_OVERDUE = false ∧ ∃ x : Nat, x < 16 ∧ d.colRetired x = false ∧ 40 ≤ d.get R.SAF_COLSTAT_PTAGE x ∧
    d.get R.SAF_COLSTAT_PTAGE x < 65535

theorem agesLate_iff {c d : Chip} (hon : d.on R.SAF_PTSTAT_OVERDUE = c.on R.SAF_PTSTAT_OVERDUE) :
    ((List.range 16).any (fun x => !d.colRetired x && decide (40 ≤ d.get R.SAF_COLSTAT_PTAGE x ∧ d.get R.SAF_COLSTAT_PTAGE x < 65535)) &&
      !d.on R.SAF_PTSTAT_OVERDUE) = true ↔ c.agesLate d := by
  simp only [hon, Chip.agesLate, Bool.and_eq_true, List.any_eq_true, List.mem_range, Bool.not_eq_true', decide_eq_true_eq, and_comm]

theorem Chip.aged_shown {c : Chip} (h : c.Canonical) :
    (∀ x : Nat, x < 16 → c.aged.get R.SAF_COLSTAT_PTAGE x = min 0xFFFF (c.get R.SAF_COLSTAT_PTAGE x + 1)) ∧
      c.aged.on R.SAF_PTSTAT_OVERDUE = c.on R.SAF_PTSTAT_OVERDUE := by
  obtain ⟨-, hages, -, hover⟩ := Chip.agesMoved (c := { c with saf := { c.saf with minuteAt := c.saf.minuteAt + 48000000000 } })
    (Chip.canonical_of_regs h rfl rfl) 16
  exact ⟨hages, congrArg (· == 1) hover⟩

theorem execPtageMinute_due {s : State} (hdue : s.chip.saf.minuteAt ≤ s.chip.sched.cyc) :
    execPtageMinute s = .next { s with chip := (s.chip.aged.when
      ((List.range 16).any (fun x =>
        !s.chip.aged.colRetired x && decide (40 ≤ s.chip.aged.get R.SAF_COLSTAT_PTAGE x ∧ s.chip.aged.get R.SAF_COLSTAT_PTAGE x < 65535)) &&
        !s.chip.aged.on R.SAF_PTSTAT_OVERDUE)
      (fun c => (c.set R.SAF_PTSTAT_OVERDUE 0 1).pulse 136)) } :=
  onChip_next (if_neg (Nat.not_lt.mpr hdue))

theorem ptageMinute_due {s : State} (h : s.chip.Canonical) (hdue : s.chip.saf.minuteAt ≤ s.chip.sched.cyc) :
    (∀ x : Nat, x < 16 → s.chip.aged.get R.SAF_COLSTAT_PTAGE x = min 0xFFFF (s.chip.get R.SAF_COLSTAT_PTAGE x + 1)) ∧
      (s.chip.agesLate s.chip.aged →
        execPtageMinute s = .next { s with chip := (s.chip.aged.set R.SAF_PTSTAT_OVERDUE 0 1).pulse 136 }) ∧
      (¬ s.chip.agesLate s.chip.aged → execPtageMinute s = .next { s with chip := s.chip.aged }) := by
  obtain ⟨hages, hon⟩ := Chip.aged_shown h
  refine ⟨hages, fun hlate => ?_, fun hnone => ?_⟩
  · rw [execPtageMinute_due hdue]
    exact congrArg (fun d => Host.Outcome.next { s with chip := d }) (if_pos ((agesLate_iff hon).mpr hlate))
  · rw [execPtageMinute_due hdue]
    exact congrArg (fun d => Host.Outcome.next { s with chip := d }) (if_neg (mt (agesLate_iff hon).mp hnone))

/-- Settles O56: the branches of the commands, the moved records and the moved ages. -/
theorem collector : Obligations.Collector := by
  unfold Obligations.Collector
  intro s (h : s.chip.Canonical)
  obtain ⟨-, hmoved, hrest⟩ := Chip.recordsMoved h (Nat.le_refl 4)
  refine ⟨fun hnone => ?nothing, fun m l hm => ?collects, ⟨s.chip.firstrecClear, rfl, hmoved, hrest⟩,
    fun hair hlow => ⟨?acks, Chip.on_set_beside h (by decide) _ _⟩, fun hhigh => ?noAck, fun hground => ⟨?groundAck, ?groundRel⟩,
    fun hair => ?releases, fun f => rfl, fun pc => rfl, fun x => ⟨rfl, Chip.get_drop h _ _ (by decide) (by decide)⟩,
    fun t ht hdue hgo => ⟨fun hskip => ?skips, fun hfree => ?tests⟩, fun hwait => ?noVisit, ptageMinute_due h, fun hearly => ?noMinute⟩
  case nothing =>
    change execFaultCollect s = _
    refine onChip_same ?_
    simp only [hnone]
  case collects =>
    change execFaultCollect s = _
    refine onChip_next ?_
    simp only [hm]
  case acks =>
    change execFaultack s = _
    exact onChip_next (if_pos (by simp [hair, hlow]))
  case noAck =>
    change execFaultack s = _
    exact onChip_same (if_neg (by simp [Nat.not_lt.mpr hhigh]))
  case groundAck =>
    change execFaultack s = _
    exact onChip_same (if_neg (by simp [hground]))
  case groundRel =>
    change execSaferel s = _
    exact onChip_same (if_neg (Bool.eq_false_iff.mp hground))
  case releases =>
    change execSaferel s = _
    exact onChip_next ((if_pos hair).trans (Chip.when_decide _ _ _))
  case noVisit =>
    change execProofTestVisit s = _
    refine onChip_same ?_
    cases hat : s.chip.saf.visitAt with
    | none => rfl
    | some t =>
      refine if_pos ?_
      rcases hwait with hnone | hpaused | ⟨u, hu, hearly⟩
      · cases hat.symm.trans hnone
      · exact Or.inr hpaused
      · cases hat.symm.trans hu
        exact Or.inl hearly
  case noMinute =>
    change execPtageMinute s = _
    exact onChip_same (if_pos hearly)
  all_goals
    change execProofTestVisit s = _
    have hnow : ¬ (s.chip.sched.cyc < t ∨ s.chip.on R.SAF_PTSTAT_PAUSED = true) := by
      simp [Nat.not_lt.mpr hdue, hgo]
    refine onChip_next ?_
    simp only [ht]
    refine (if_neg hnow).trans ?_
  case skips => exact if_pos ((visitSkips_iff _ _).mpr hskip)
  case tests => exact if_neg (mt (visitSkips_iff _ _).mp hfree)

end Sys2Proof.Machine
end

section
/-! Tokens, sessions, the key store and the lifecycle. -/

namespace Sys2Proof.Machine

theorem mem_range' {lo hi k : Nat} : k ∈ range' lo hi ↔ lo ≤ k ∧ k < hi := by
  simp only [range', List.mem_map, List.mem_range]
  constructor
  · rintro ⟨a, ha, rfl⟩
    omega
  · rintro ⟨hlo, hhi⟩
    exact ⟨k - lo, by omega, by omega⟩

theorem any_range'_iff {lo hi : Nat} {f : Nat → Bool} : (range' lo hi).any f = true ↔ ∃ k : Nat, lo ≤ k ∧ k < hi ∧ f k = true := by
  simp only [List.any_eq_true, mem_range', and_assoc]

/-! ### The nonce -/

/-- The first words of a nonce, written. -/
theorem Chip.nonceShown {c : Chip} (h : c.Canonical) (word : Nat → Nat) (n : Nat) :
    let d := c.each (List.range n) (fun c w => c.set R.SEC_NONCE w (word w))
    d.Canonical ∧ ∀ w : Nat, w < n → d.get R.SEC_NONCE w = word w % 2 ^ 32 := by
  induction n with
  | zero => exact ⟨h, nofun⟩
  | succ n ih =>
    obtain ⟨hd, hshown⟩ := ih
    rw [Chip.each_range_succ]
    generalize c.each (List.range n) _ = d at hd hshown
    refine ⟨Chip.set_canonical hd _ _ _, fun w hw => ?_⟩
    rcases Nat.lt_succ_iff_lt_or_eq.mp hw with hlt | rfl
    · rw [← hshown w hlt]
      exact Chip.get_set_ne hd _ _ _ _ _ (by decide) (by decide) (Or.inl (by simp only [Fld.at]; omega))
    · exact Chip.get_set hd _ _ _ (by decide) (by decide)

/-- A nonce, drawn and dated. -/
def Chip.nonceDrawn (c : Chip) : Chip :=
  let d := c.draw.2.each (List.range 8) (fun d w => d.set R.SEC_NONCE w (c.draw.1.toNat / 2 ^ (32 * w)))
  { d with sec := { d.sec with nonceAt := some d.sched.cyc } }

theorem Chip.nonceDrawn_get {c : Chip} (h : c.Canonical) {w : Nat} (hw : w < 8) :
    c.nonceDrawn.get R.SEC_NONCE w = c.draw.1.toNat / 2 ^ (32 * w) % 2 ^ 32 :=
  (Chip.nonceShown (c := c.draw.2) (Chip.canonical_of_regs h rfl rfl) (fun w => c.draw.1.toNat / 2 ^ (32 * w)) 8).2 w hw

theorem Chip.nonceShown_sched (c : Chip) (word : Nat → Nat) (l : List Nat) :
    (c.each l (fun c w => c.set R.SEC_NONCE w (word w))).sched = c.sched := by
  refine each_preserves Chip.sched ?_ l c
  exact fun _ _ => rfl

theorem Chip.nonceDrawn_sched (c : Chip) : c.nonceDrawn.sched = c.sched := by
  unfold Chip.nonceDrawn
  have hsched := c.draw.2.nonceShown_sched (fun w => c.draw.1.toNat / 2 ^ (32 * w)) (List.range 8)
  generalize c.draw.2.each (List.range 8) (fun d w => d.set R.SEC_NONCE w (c.draw.1.toNat / 2 ^ (32 * w))) = d at hsched ⊢
  exact hsched

theorem Chip.nonceDrawn_nonceAt (c : Chip) : c.nonceDrawn.sec.nonceAt = some c.sched.cyc :=
  congrArg (fun x : Sched => some x.cyc) c.nonceDrawn_sched

theorem Chip.nonceDrawn_fresh (c : Chip) : c.nonceDrawn.nonceFresh = true := by
  unfold Chip.nonceFresh
  rw [c.nonceDrawn_nonceAt, c.nonceDrawn_sched]
  exact decide_eq_true (Nat.le_add_right _ _)

/-! ### Sessions -/

theorem Chip.authFail_shown {c : Chip} (h : c.Canonical) : c.authFail.on R.SEC_DBGSTAT_AUTHFAIL = true :=
  Chip.on_set_one h _ _ (by decide) (by decide)

theorem Chip.tokenFail_locks {c : Chip} (h : c.Canonical) {now : Nat}
    (htwo : (c.sec.fails.filter (fun t => decide (now ≤ t + 48000000000))).length = 2) : (c.tokenFail now).on R.SEC_DBGSTAT_LOCKOUT = true := by
  have hlock : decide (3 ≤ (now :: c.sec.fails.filter (fun t => decide (now ≤ t + 48000000000))).length) = true := by
    rw [List.length_cons, htwo]
    rfl
  have hregs : (c.tokenFail now).regs = ((c.set R.SEC_DBGSTAT_LOCKOUT 0 1).set R.SEC_DBGSTAT_AUTHFAIL 0 1).regs := by
    unfold Chip.tokenFail
    simp only [hlock]
    rfl
  rw [Chip.on_of_regs hregs, Chip.on_set_beside (Chip.set_canonical h _ _ _) (by decide)]
  exact Chip.on_set_one h _ _ (by decide) (by decide)

/-- Showing the time that remains leaves the fields beside it. -/
theorem Chip.remainShown_get {c : Chip} (h : c.Canonical) {g : Fld} (hg : R.SEC_DBGSTAT_REMAIN.beside g = true) :
    c.remainShown.get g = c.get g := by
  unfold Chip.remainShown
  split
  · rfl
  · exact Chip.get_set_beside h hg _ _

/-- The fields that a grant writes. -/
def Chip.granted (c : Chip) (level : Nat) : Chip :=
  ((c.set R.SEC_DBGSTAT_LEVEL 0 level).set R.SEC_DBGSTAT_PENDING 0 0).set R.SEC_DBGSTAT_PENDLVL 0 0

theorem Chip.granted_shown {c : Chip} (h : c.Canonical) {level : Nat} (hl : level < 4) :
    (c.granted level).remainShown.dbgLevel = level ∧ (c.granted level).remainShown.on R.SEC_DBGSTAT_PENDING = false := by
  have hd : (c.granted level).Canonical := Chip.set_canonical (Chip.set_canonical (Chip.set_canonical h _ _ _) _ _ _) _ _ _
  rw [Chip.dbgLevel, Chip.on, Chip.remainShown_get hd (by decide), Chip.remainShown_get hd (by decide)]
  unfold Chip.granted
  constructor <;>
    simp (disch := first | decide | apply_rules [Chip.set_canonical]) only [Chip.get_set, Chip.get_set_beside, Fld.width]
  · exact Nat.mod_eq_of_lt hl
  · rfl

theorem Chip.grantLevel_eq (c : Chip) (level : Nat) : c.grantLevel level =
    (({ c with sec := { c.sec with endAt := c.sched.cyc + c.sec.dur * 800000000 } } : Chip).granted level).remainShown.pulse 624 := rfl

theorem Chip.grantLevel_shown {c : Chip} (h : c.Canonical) {level : Nat} (hl : level < 4) :
    (c.grantLevel level).dbgLevel = level ∧ (c.grantLevel level).on R.SEC_DBGSTAT_PENDING = false := by
  have hd : ({ c with sec := { c.sec with endAt := c.sched.cyc + c.sec.dur * 800000000 } } : Chip).Canonical := Chip.canonical_of_regs h rfl rfl
  rw [c.grantLevel_eq level, Chip.dbgLevel, Chip.on, Chip.pulse_get, Chip.pulse_get]
  exact Chip.granted_shown hd hl

/-- The fields that the end of a session writes. -/
def Chip.closed (c : Chip) : Chip :=
  (((c.set R.SEC_DBGSTAT_LEVEL 0 0).set R.SEC_DBGSTAT_REMAIN 0 0).set R.SEC_DBGSTAT_PENDING 0 0).set R.SEC_DBGSTAT_PENDLVL 0 0

theorem Chip.closed_dbgLevel {c : Chip} (h : c.Canonical) : c.closed.dbgLevel = 0 := by
  unfold Chip.closed Chip.dbgLevel
  simp (disch := first | decide | apply_rules [Chip.set_canonical]) only [Chip.get_set, Chip.get_set_beside, Nat.zero_mod]

theorem Chip.when_dbgLevel (c : Chip) (b : Bool) {f : Chip → Chip} (h : (f c).regs = c.regs) : (c.when b f).dbgLevel = c.dbgLevel := by
  cases b
  · rfl
  · exact Chip.get_of_regs h _ _

theorem Chip.endSession_dbgLevel {c : Chip} (h : c.Canonical) : c.endSession.dbgLevel = 0 := by
  unfold Chip.endSession
  split
  · next hnone => exact hnone.1
  · refine (Chip.when_dbgLevel (c.closed.pulse 624) _ rfl).trans ?_
    exact (Chip.pulse_get _ _ _ _).trans (Chip.closed_dbgLevel h)

/-- A deep session ends with a warm reset. -/
theorem Chip.endSession_warm {c : Chip} (h : 2 ≤ c.dbgLevel) : c.endSession.boot.warmAfterFlush = some 4 := by
  have hdeep : (decide (2 ≤ c.dbgLevel) || c.on R.SEC_DBGSTAT_PENDING) = true := by
    rw [decide_eq_true h, Bool.true_or]
  unfold Chip.endSession
  rw [if_neg (by omega), hdeep]
  rfl

/-! ### Verdicts -/

section
variable {s : State} (ms : Fin 21) {t : List Byte} (ht : s.chip.sec.token = some t)
include ht

theorem execTokenVerdict_token :
    execTokenVerdict ms s = .next { s with chip := (
      let d : Chip := { s.chip with sec := { s.chip.sec with token := none } }
      let now := s.chip.sec.tokenAt + ms.val * 800000
      if d.tokenOk t = false then d.tokenFail now
      else if leAt t 0 1 < s.chip.dbgLevel then d.endSession
      else if leAt t 0 1 = 1 then ({ d with sec := { d.sec with dur := leAt t 4 4 } }).grantLevel 1
      else if leAt t 0 1 = s.chip.dbgLevel then ({ d with sec := { d.sec with endAt := now + leAt t 4 4 * 800000000 } }).remainShown
      else d.deepGrant (leAt t 0 1) (leAt t 4 4)) } := by
  refine onChip_next ?_
  simp only [ht]
  rfl

end

/-- Settles O57: the branches of the commands, and the fields that they show. -/
theorem securityCommands : Obligations.SecurityCommands := by
  unfold Obligations.SecurityCommands
  intro s (h : s.chip.Canonical)
  refine ⟨⟨s.chip.nonceDrawn, rfl, s.chip.nonceDrawn_nonceAt, s.chip.nonceDrawn_fresh, fun w hw => Chip.nonceDrawn_get h hw⟩,
    fun t hfree hrun => ?submitted, fun t hlocked => ⟨?refused, Chip.authFail_shown h⟩, fun ms hnone => ?noToken,
    fun ms t ht => ⟨fun hbad => ?fails, fun hok => ⟨fun hlow => ?lower, fun hone hdbg => ?first, fun heq hdeep => ?renews,
      fun hhigh hdeep => ?deeper⟩⟩, fun now htwo => Chip.tokenFail_locks h htwo, fun hpend hpwr hrun => ?granted, fun hwait => ?noGrant,
    fun l hl => Chip.grantLevel_shown h hl, fun hopen hdue => ?expires, fun hgoes => ?noExpiry, rfl, Chip.endSession_dbgLevel h,
    Chip.endSession_warm, fun hlock hdue => ⟨?unlocks, Chip.on_set_zero h _ _ (by decide) (by decide)⟩, fun hkeeps => ?locked, fun l => rfl,
    fun r hlcs hdbg hidle hcode hok => ?provisions, fun r hout => ?noProvision, fun r sig => ⟨fun hok => ?deploys, fun hbad => ?noDeploy⟩,
    fun r sig cust => ⟨fun hok => ?rma, fun hbad => ?noRma⟩, rfl⟩
  case submitted =>
    change execDebugToken t s = _
    exact onChip_next (if_neg (by simp [hfree, hrun]))
  case refused =>
    change execDebugToken t s = _
    exact onChip_next (if_pos hlocked)
  case noToken =>
    change execTokenVerdict ms s = _
    refine onChip_same ?_
    simp only [hnone]
  case granted =>
    change execDebugGrant s = _
    exact onChip_next (if_pos ⟨hpend, hpwr, hrun⟩)
  case noGrant =>
    change execDebugGrant s = _
    refine onChip_same (if_neg fun ⟨hpend, hpwr, hrun⟩ => ?_)
    simp [hpend, hpwr, hrun] at hwait
  case expires =>
    change execSessionExpiry s = _
    exact onChip_next (if_pos ⟨hopen, hdue⟩)
  case noExpiry =>
    change execSessionExpiry s = _
    exact onChip_same (if_neg fun ⟨hopen, hdue⟩ => hgoes.elim hopen (Nat.not_lt.mpr hdue))
  case unlocks =>
    change execLockoutExpiry s = _
    exact onChip_next (if_pos ⟨hlock, hdue⟩)
  case locked =>
    change execLockoutExpiry s = _
    exact onChip_same (if_neg fun ⟨hlock, hdue⟩ => hkeeps.elim (fun hoff => Bool.noConfusion (hoff.symm.trans hlock)) (Nat.not_lt.mpr hdue))
  case provisions =>
    change execProvision r s = _
    exact onChip_next (if_pos ⟨hlcs, hdbg, hidle, hcode, hok⟩)
  case noProvision =>
    change execProvision r s = _
    refine onChip_next (if_neg fun ⟨hlcs, hdbg, hidle, hcode, hok⟩ => ?_)
    simp [hlcs, hdbg, hidle, hcode, hok] at hout
  case deploys =>
    change execDeploy r sig s = _
    exact onChip_next (if_pos hok)
  case noDeploy =>
    change execDeploy r sig s = _
    exact onChip_next (if_neg hbad)
  case rma =>
    change execRma r sig cust s = _
    exact onChip_next (if_pos (by simpa only [any_range'_iff] using hok))
  case noRma =>
    change execRma r sig cust s = _
    exact onChip_next (if_neg (by simpa only [any_range'_iff] using hbad))
  all_goals
    change execTokenVerdict ms s = _
    rw [execTokenVerdict_token ms ht]
    refine congrArg (fun d => Host.Outcome.next { s with chip := d }) ?_
  case fails => exact if_pos hbad
  all_goals refine (if_neg (Bool.not_eq_false _ ▸ hok)).trans ?_
  case lower => exact if_pos hlow
  case first => exact (if_neg (by omega)).trans (if_pos hone)
  case renews => exact (if_neg (by omega)).trans ((if_neg (by omega)).trans (if_pos heq))
  case deeper => exact (if_neg (by omega)).trans ((if_neg (by omega)).trans (if_neg (by omega)))

end Sys2Proof.Machine
end

section
/-! The debug port, and the ends of planes and power moves. -/

namespace Sys2Proof.Machine

/-! ### The test access port -/

theorem Chip.jtag_permitted {c : Chip} {need : Nat} (h : need ≤ c.dbgLevel) (ir : JtagIr) (out cells : List Bool) :
    c.jtag need ir out cells = { c with sec := { c.sec with ir := ir, shifted := out, cells := cells } } := if_neg (Nat.not_lt.mpr h)

theorem Chip.jtag_barred {c : Chip} {need : Nat} (h : c.dbgLevel < need) (ir : JtagIr) (out cells : List Bool) :
    c.jtag need ir out cells = c := if_pos h

/-- What an instruction of the port answers, at a level that permits it and at any other. -/
theorem onChip_jtag (s : State) (need : Nat) (ir : JtagIr) (out cells : List Bool) :
    onChip (fun c => c.jtag need ir out cells) s =
      if need ≤ s.chip.dbgLevel then
        .next { s with chip := { s.chip with sec := { s.chip.sec with ir := ir, shifted := out, cells := cells } } }
      else .next s := by
  split
  · next h => exact onChip_next (Chip.jtag_permitted h ir out cells)
  · next h => exact onChip_same (Chip.jtag_barred (Nat.not_le.mp h) ir out cells)

theorem Chip.dbgLevel_lt (c : Chip) : c.dbgLevel < 4 := Chip.get_lt c R.SEC_DBGSTAT_LEVEL 0

/-- D3 is the deepest level. -/
theorem Chip.dbgLevel_deepest (c : Chip) : 3 ≤ c.dbgLevel ↔ c.dbgLevel = 3 := by
  have := c.dbgLevel_lt
  omega

theorem Chip.jtag_deepest (s : State) (f : Chip → List Bool × List Bool) (ir : JtagIr) :
    onChip (fun c => c.jtag 3 ir (f c).1 (f c).2) s =
      if s.chip.dbgLevel = 3 then
        .next { s with chip := { s.chip with sec := { s.chip.sec with ir := ir, shifted := (f s.chip).1, cells := (f s.chip).2 } } }
      else .next s := by
  simp only [← s.chip.dbgLevel_deepest]
  exact onChip_jtag s 3 ir (f s.chip).1 (f s.chip).2

/-! ### The debugger -/

/-- A Spindle, halted by the debugger. -/
def Chip.spnHalted (c : Chip) (n : Nat) : Chip :=
  let c := c.setEngine n { c.engine n with halted := true }
  { c with sec := { c.sec with haltedSpn := if c.sec.haltedSpn.contains n then c.sec.haltedSpn else n :: c.sec.haltedSpn } }

/-- A Spindle, resumed by the debugger. -/
def Chip.spnResumed (c : Chip) (n : Nat) : Chip :=
  let c := c.setEngine n { c.engine n with halted := false }
  { c with sec := { c.sec with haltedSpn := c.sec.haltedSpn.filter (· != n) } }

/-- A clock gate, opened by the debugger. -/
def Chip.gateOpened (c : Chip) (g : Nat) : Chip :=
  let c := { c with sec := { c.sec with gates := if c.sec.gates.contains g then c.sec.gates else g :: c.sec.gates } }
  c.setB ⟨R.CLK_GATE0.addr + 4 * (g / 32), 0, g % 32, g % 32⟩ 0 false

theorem mem_listed {l : List Nat} {n m : Nat} : m ∈ (if l.contains n then l else n :: l) ↔ m = n ∨ m ∈ l := by
  split
  · next h => exact (or_iff_right_of_imp fun hm => hm ▸ List.contains_iff_mem.mp h).symm
  · exact List.mem_cons

theorem Chip.spnHalted_engine {c : Chip} (h : tabWf (fun _ => ({} : Engine)) c.spn.eng = true) (n m : Nat) :
    (c.spnHalted n).engine m = if m = n then { c.engine n with halted := true } else c.engine m :=
  tget_tset ({} : Engine) h n _ m

theorem Chip.spnResumed_engine {c : Chip} (h : tabWf (fun _ => ({} : Engine)) c.spn.eng = true) (n m : Nat) :
    (c.spnResumed n).engine m = if m = n then { c.engine n with halted := false } else c.engine m :=
  tget_tset ({} : Engine) h n _ m

theorem Chip.spnHalted_listed (c : Chip) (n m : Nat) : m ∈ (c.spnHalted n).sec.haltedSpn ↔ m = n ∨ m ∈ c.sec.haltedSpn :=
  mem_listed

theorem Chip.spnResumed_listed (c : Chip) (n m : Nat) : m ∈ (c.spnResumed n).sec.haltedSpn ↔ m ∈ c.sec.haltedSpn ∧ m ≠ n := by
  refine List.mem_filter.trans ?_
  rw [bne_iff_ne]
  rfl

theorem Chip.gateOpened_clear {c : Chip} (h : c.Canonical) (g : Nat) :
    ((c.gateOpened g).rd (R.CLK_GATE0.addr + 4 * (g / 32))).getLsbD (g % 32) = false := by
  have hbit : g % 32 < 32 := Nat.mod_lt _ (by decide)
  have hd : ({ c with sec := { c.sec with gates := if c.sec.gates.contains g then c.sec.gates else g :: c.sec.gates } } : Chip).Canonical :=
    Chip.canonical_of_regs h rfl rfl
  rw [Chip.gateOpened, Chip.setB, Chip.rd_set hd, if_pos (by rw [Fld.at, Nat.zero_mul, Nat.add_zero]),
    Fld.write_getLsbD _ _ _ _ hbit (Nat.le_refl _), if_pos ⟨Nat.le_refl _, Nat.le_refl _⟩]
  exact Nat.zero_testBit _

/-- Settles O58: the branches of the commands, and what the debugger's changes leave to be read. -/
theorem debugAndPowerEnds : Obligations.DebugAndPowerEnds := by
  unfold Obligations.DebugAndPowerEnds
  intro s (h : s.chip.Canonical)
  refine ⟨onChip_jtag s 0 .idcode s.chip.idcodeBits s.chip.sec.cells, onChip_jtag s 0 .bypass [false] s.chip.sec.cells,
    fun x y => onChip_jtag s 1 .sample x y, fun x y => Chip.jtag_deepest s (fun _ => (x, y)) .extest,
    fun x y => Chip.jtag_deepest s (fun _ => (y, x)) .intest, Chip.jtag_deepest s (fun c => ([false], c.sec.cells)) .clamp,
    Chip.jtag_deepest s (fun c => ([false], c.sec.cells)) .highz, fun x => Chip.jtag_deepest s (fun c => (x, c.sec.cells)) .scanDump,
    fun x y => ⟨fun hdeep => ?bist, fun hlow => ?noBist⟩, fun u => rfl,
    fun hlow => ⟨fun u => ⟨?noHalt, ?noResume⟩, fun g => ?noGate⟩,
    fun hopen => ⟨fun n hwf => ⟨⟨s.chip.spnHalted n.val, ?halts, ?haltEngine, ?haltList, fun m hm => ⟨?haltOther, ?haltOthers⟩⟩,
        ⟨s.chip.spnResumed n.val, ?resumes, ?resumeEngine, ?resumeList, fun m hm => ⟨?resumeOther, ?resumeOthers⟩⟩⟩,
      fun k => ⟨?haltsCore, ?resumesCore⟩, fun g => ⟨s.chip.gateOpened g.val, ?opens, mem_listed.mpr (Or.inl rfl), Chip.gateOpened_clear h _⟩⟩,
    fun d a who v honly hwho => ⟨?window, if_pos ⟨honly, hwho⟩⟩, fun p hruns => ?runs, fun p hstop hdue hlive => ?drained,
    fun hstate htarget hbusy => ?p4, fun hout => ?noP4⟩
  case bist =>
    change execMemoryBistControl x y s = _
    refine onChip_next ?_
    rw [Chip.jtag_permitted (Nat.le_of_eq hdeep.symm)]
    exact if_pos (decide_eq_true (Nat.le_of_eq hdeep.symm))
  case noBist =>
    change execMemoryBistControl x y s = _
    refine onChip_same ?_
    rw [Chip.jtag_barred hlow]
    exact if_neg (Bool.eq_false_iff.mp (decide_eq_false (Nat.not_le.mpr hlow)))
  case noHalt =>
    change execDebugHalt u s = _
    exact onChip_same (if_pos hlow)
  case noResume =>
    change execDebugResume u s = _
    exact onChip_same (if_pos hlow)
  case noGate =>
    change execDebugGateOpen g s = _
    exact onChip_same (if_pos hlow)
  case halts =>
    change execDebugHalt (.spindle n) s = _
    exact onChip_next (if_neg (Nat.not_lt.mpr hopen))
  case haltEngine => rw [Chip.spnHalted_engine hwf, if_pos rfl]
  case haltList => exact (Chip.spnHalted_listed _ _ _).mpr (Or.inl rfl)
  case haltOther => rw [Chip.spnHalted_engine hwf, if_neg hm]
  case haltOthers => exact (Chip.spnHalted_listed _ _ _).trans (or_iff_right hm)
  case resumes =>
    change execDebugResume (.spindle n) s = _
    exact onChip_next (if_neg (Nat.not_lt.mpr hopen))
  case resumeEngine => rw [Chip.spnResumed_engine hwf, if_pos rfl]
  case resumeList => exact fun hin => ((Chip.spnResumed_listed _ _ _).mp hin).2 rfl
  case resumeOther => rw [Chip.spnResumed_engine hwf, if_neg hm]
  case resumeOthers => exact (Chip.spnResumed_listed _ _ _).trans (and_iff_left hm)
  case haltsCore =>
    change execDebugHalt (.core k) s = _
    exact onChip_next (if_neg (Nat.not_lt.mpr hopen))
  case resumesCore =>
    change execDebugResume (.core k) s = _
    exact onChip_next (if_neg (Nat.not_lt.mpr hopen))
  case opens =>
    change execDebugGateOpen g s = _
    exact onChip_next (if_neg (Nat.not_lt.mpr hopen))
  case window =>
    unfold Chip.readWord
    exact (if_pos honly).trans (if_neg fun hdebug => hwho hdebug.1)
  case runs =>
    change execPlaneDrained p s = _
    refine onChip_same (if_neg fun ⟨hstop, hdue, hlive⟩ => ?_)
    rcases hruns with hnone | hstopped | hearly
    · rw [hnone] at hstop
      cases hstop
    · exact hlive hstopped
    · exact Nat.not_lt.mpr hdue hearly
  case drained =>
    change execPlaneDrained p s = _
    exact onChip_next (if_pos ⟨hstop, hdue, hlive⟩)
  case p4 =>
    change execP4OffTimeout s = _
    exact onChip_next (if_pos ⟨hstate, htarget, hbusy⟩)
  case noP4 =>
    change execP4OffTimeout s = _
    refine onChip_same (if_neg fun ⟨hstate, htarget, hbusy⟩ => ?_)
    simp [hstate, htarget, hbusy] at hout

end Sys2Proof.Machine
end

section
/-! What the operations of the pair leave of its registers and of its own state. -/

namespace Sys2Proof.Machine

/-! ### Operations that leave the pair's own state -/

theorem Chip.when_ply (c : Chip) (b : Bool) {f : Chip → Chip} (h : (f c).ply = c.ply) : (c.when b f).ply = c.ply := by
  cases b
  · rfl
  · exact h

theorem Chip.assertion_ply (c : Chip) (n : Nat) : (c.assertion n).ply = c.ply := by
  unfold Chip.assertion
  dsimp only
  split <;> rfl

theorem Chip.sensedEdge_ply (c : Chip) (n : Nat) : (c.sensedEdge n).ply = c.ply := by
  unfold Chip.sensedEdge
  rw [Chip.assertion_ply]
  split <;> rfl

theorem Chip.senseLevel_ply (c : Chip) (n : Nat) (level : Bool) : (c.senseLevel n level).ply = c.ply := by
  have hedge : ∀ (d : Chip) (b : Bool), (if b then d.sensedEdge n else d).ply = d.ply := fun d b => by
    cases b
    · rfl
    · exact d.sensedEdge_ply n
  unfold Chip.senseLevel
  dsimp only
  split
  · rfl
  · split
    · split
      · exact Chip.assertion_ply _ _
      · split <;> rfl
    · exact hedge _ _
    · exact hedge _ _
    · exact hedge _ _

theorem Chip.drivePins_ply (c : Chip) (source : Nat) (level : Nat → Bool) : (c.drivePins source level).ply = c.ply := by
  unfold Chip.drivePins
  refine each_preserves Chip.ply ?_ _ c
  intro d n
  split
  · rfl
  · exact Chip.senseLevel_ply _ _ _

theorem Chip.setLease_ply (c : Chip) (b : Bool) : (c.setLease b).ply = { c.ply with active := b } :=
  Chip.drivePins_ply _ _ _

theorem Chip.imageWaits_ply (c : Chip) (e : ReelEntry) (b : Bool) : (c.imageWaits e b).ply = c.ply := by
  unfold Chip.imageWaits
  split
  · split <;> rfl
  · rfl

theorem Chip.reelDevice_ply (c : Chip) (code plane turn : Nat) (b : List Byte) : (c.reelDevice code plane turn b).ply = c.ply :=
  Chip.imageWaits_ply _ _ _

theorem Chip.egStatus_ply (c : Chip) (f : Nat) : (c.egStatus f).ply = c.ply := by
  unfold Chip.egStatus
  refine each_preserves Chip.ply ?_ _ c
  exact fun _ _ => rfl

theorem Chip.flowsShown_ply (c : Chip) : c.flowsShown.ply = c.ply := by
  unfold Chip.flowsShown
  exact each_preserves Chip.ply (fun d f => d.egStatus_ply f) _ c

theorem Chip.setRole_ply (c : Chip) (new cause : Nat) : (c.setRole new cause).ply = c.ply := by
  unfold Chip.setRole
  dsimp only
  split
  · rfl
  · rw [Chip.flowsShown_ply, Chip.when_ply _ _ rfl, Chip.when_ply _ _ rfl, Chip.reelDevice_ply]
    rfl

theorem Chip.setInstep_ply (c : Chip) (b : Bool) : (c.setInstep b).ply = c.ply := by
  unfold Chip.setInstep
  split <;> rfl

theorem Chip.stepShown_ply (c : Chip) : c.stepShown.ply = c.ply := by
  unfold Chip.stepShown
  split
  · exact c.setInstep_ply _
  · rfl

/-! ### The role -/

/-- A device in canonical form that plays a role. -/
def Chip.Plays (r : Nat) (c : Chip) : Prop := c.Canonical ∧ c.role = r

theorem Chip.Plays.set {r : Nat} {c : Chip} (h : c.Plays r) {f : Fld} (hf : f.beside R.PLY_PLYSTAT_ROLE = true) (v : Nat) : (c.set f 0 v).Plays r :=
  ⟨Chip.set_canonical h.1 _ _ _, (Chip.get_set_beside h.1 hf _ _).trans h.2⟩

theorem Chip.Plays.of_regs {r : Nat} {c d : Chip} (h : c.Plays r) (hr : d.regs = c.regs) (hm : d.dram.mem = c.dram.mem) : d.Plays r :=
  ⟨Chip.canonical_of_regs h.1 hr hm, (Chip.get_of_regs hr _ _).trans h.2⟩

theorem Chip.Plays.when {r : Nat} {c : Chip} (h : c.Plays r) (b : Bool) {f : Chip → Chip} (hf : (f c).Plays r) : (c.when b f).Plays r := by
  cases b
  · exact h
  · exact hf

theorem Chip.Plays.pulse {r : Nat} {c : Chip} (h : c.Plays r) (n : Nat) : (c.pulse n).Plays r := h.of_regs rfl rfl

theorem Chip.Plays.imageWaits {r : Nat} {c : Chip} (h : c.Plays r) (e : ReelEntry) (b : Bool) : (c.imageWaits e b).Plays r := by
  unfold Chip.imageWaits
  split
  · split <;> exact h.of_regs rfl rfl
  · exact h

theorem Chip.Plays.reelShown {r : Nat} {c : Chip} (h : c.Plays r) : c.reelShown.Plays r := by
  unfold Chip.reelShown Chip.set2
  exact ((h.set (by decide) _).set (by decide) _).set (by decide) _

theorem Chip.Plays.reelDevice {r : Nat} {c : Chip} (h : c.Plays r) (code plane turn : Nat) (b : List Byte) :
    (c.reelDevice code plane turn b).Plays r := by
  unfold Chip.reelDevice Chip.reelPush Chip.reelWrite Chip.set2
  refine Chip.Plays.reelShown (Chip.Plays.imageWaits ?_ _ _)
  exact ((h.of_regs rfl rfl).set (by decide) _).set (by decide) _

/-- The states of the flows lie apart from the pair's. -/
theorem Chip.Plays.egStatus {r : Nat} {c : Chip} (h : c.Plays r) (f : Nat) : (c.egStatus f).Plays r := by
  unfold Chip.egStatus
  refine Chip.each_keeps (P := Chip.Plays r) _ _ h fun d l hd => ?_
  have hset : ∀ {d : Chip}, d.Plays r → ∀ (f : Fld) (v : Nat), f.addr = R.NET_EGSTAT_MUTED.addr → f.stride = 0x20 → f.hi < 32 → f.lo ≤ f.hi →
      (d.set f l v).Plays r := fun hd f v haddr hstride hhi hlo => by
    refine ⟨Chip.set_canonical hd.1 _ _ _, (Chip.get_set_ne hd.1 _ _ _ _ _ hhi hlo (Or.inl ?_)).trans hd.2⟩
    rw [Fld.at, haddr, hstride, Fld.at]
    simp only
    omega
  exact hset (hset (hset hd R.NET_EGSTAT_MUTED _ rfl rfl (by decide) (by decide)) R.NET_EGSTAT_UNRES _ rfl rfl (by decide) (by decide)) R.NET_EGSTAT_LINKDN _ rfl rfl
     (by decide) (by decide)

theorem Chip.Plays.flowsShown {r : Nat} {c : Chip} (h : c.Plays r) : c.flowsShown.Plays r := by
  unfold Chip.flowsShown
  exact Chip.each_keeps (P := Chip.Plays r) _ _ h fun d f hd => hd.egStatus f

theorem Chip.setRole_plays {c : Chip} (h : c.Canonical) {new : Nat} (hnew : new < 8) (cause : Nat) : (c.setRole new cause).Plays new := by
  unfold Chip.setRole
  dsimp only
  split
  · next hsame => exact ⟨h, hsame⟩
  · have hset : (c.set R.PLY_PLYSTAT_ROLE 0 new).Plays new :=
      ⟨Chip.set_canonical h _ _ _, (Chip.get_set h _ _ _ (by decide) (by decide)).trans (Nat.mod_eq_of_lt hnew)⟩
    have hreel := hset.reelDevice 4 (4 + (c.set R.PLY_PLYSTAT_ROLE 0 new).refPlane)
      ((c.set R.PLY_PLYSTAT_ROLE 0 new).turn (c.set R.PLY_PLYSTAT_ROLE 0 new).refPlane)
      (leBytes 1 c.role ++ leBytes 1 new ++ leBytes 1 cause ++ leBytes 1 ((c.set R.PLY_PLYSTAT_ROLE 0 new).get R.PLY_PLYSTAT_PARTNER))
    have hlost := hreel.when (c.role == roleHolder) (f := (·.pulse 658)) (hreel.pulse 658)
    exact (hlost.when (new == roleHolder) (f := (·.pulse 657)) (hlost.pulse 657)).flowsShown

/-! ### The step and the partner, as shown -/

theorem Chip.on_setB {c : Chip} (h : c.Canonical) (f : Fld) (i : Nat) (b : Bool) (h1 : f.hi < 32) (h2 : f.lo ≤ f.hi) : (c.setB f i b).on f i = b := by
  cases b
  · exact Chip.on_set_zero h _ _ h1 h2
  · exact Chip.on_set_one h _ _ h1 h2

theorem Chip.setInstep_on {c : Chip} (h : c.Canonical) (b : Bool) {g : Fld} (hg : R.PLY_PLYSTAT_INSTEP.beside g = true) :
    (c.setInstep b).on g = c.on g := by
  unfold Chip.setInstep
  split
  · rfl
  · exact Chip.on_set_beside h hg _ _

theorem Chip.stepShown_on {c : Chip} (h : c.Canonical) {g : Fld} (hg : R.PLY_PLYSTAT_INSTEP.beside g = true) : c.stepShown.on g = c.on g := by
  unfold Chip.stepShown
  split
  · exact Chip.setInstep_on h _ hg
  · rfl

/-- The first part of a path's loss: its state and the partner's, as shown. -/
def Chip.pathLost (c : Chip) (pathB : Bool) : Chip :=
  let c := if pathB then { c with ply := { c.ply with silentB := true, runB := 0, wordRx := none } }.set R.PLY_PLYSTAT_PATHB 0 0
    else { c with ply := { c.ply with silentA := true, runA := 0 } }.set R.PLY_PLYSTAT_PATHA 0 0
  c.partnerShown.stepShown

theorem Chip.partnerShown_stepShown {c : Chip} (h : c.Canonical) :
    c.partnerShown.stepShown.Canonical ∧ c.partnerShown.stepShown.on R.PLY_PLYSTAT_PATHA = c.on R.PLY_PLYSTAT_PATHA ∧
      c.partnerShown.stepShown.on R.PLY_PLYSTAT_PATHB = c.on R.PLY_PLYSTAT_PATHB ∧
      c.partnerShown.stepShown.on R.PLY_PLYSTAT_PARTNER = (c.on R.PLY_PLYSTAT_PATHA || c.on R.PLY_PLYSTAT_PATHB) := by
  have hd : c.partnerShown.Canonical := Chip.set_canonical h _ _ _
  refine ⟨Chip.stepShown_keeps Chip.canonical_keeps hd, ?_, ?_, ?_⟩
  · exact (Chip.stepShown_on hd (by decide)).trans (Chip.on_set_beside h (by decide) _ _)
  · exact (Chip.stepShown_on hd (by decide)).trans (Chip.on_set_beside h (by decide) _ _)
  · exact (Chip.stepShown_on hd (by decide)).trans (Chip.on_setB h _ _ _ (by decide) (by decide))

theorem Chip.pathLost_shown {c : Chip} (h : c.Canonical) (b : Bool) :
    (c.pathLost b).Canonical ∧ (c.pathLost b).on (if b then R.PLY_PLYSTAT_PATHB else R.PLY_PLYSTAT_PATHA) = false ∧
      (c.pathLost b).on R.PLY_PLYSTAT_PARTNER = c.on (if b then R.PLY_PLYSTAT_PATHA else R.PLY_PLYSTAT_PATHB) := by
  cases b with
  | false =>
    let x : Chip := { c with ply := { c.ply with silentA := true, runA := 0 } }
    have hx : x.Canonical := Chip.canonical_of_regs h rfl rfl
    obtain ⟨hd, ha, -, hp⟩ := Chip.partnerShown_stepShown (Chip.set_canonical hx R.PLY_PLYSTAT_PATHA 0 0)
    have hoff := Chip.on_set_zero hx R.PLY_PLYSTAT_PATHA 0 (by decide) (by decide)
    refine ⟨hd, ha.trans hoff, hp.trans ?_⟩
    rw [hoff, Bool.false_or]
    exact Chip.on_set_beside hx (by decide) _ _
  | true =>
    let x : Chip := { c with ply := { c.ply with silentB := true, runB := 0, wordRx := none } }
    have hx : x.Canonical := Chip.canonical_of_regs h rfl rfl
    obtain ⟨hd, -, hb, hp⟩ := Chip.partnerShown_stepShown (Chip.set_canonical hx R.PLY_PLYSTAT_PATHB 0 0)
    have hoff := Chip.on_set_zero hx R.PLY_PLYSTAT_PATHB 0 (by decide) (by decide)
    refine ⟨hd, hb.trans hoff, hp.trans ?_⟩
    rw [hoff, Bool.or_false]
    exact Chip.on_set_beside hx (by decide) _ _

theorem Chip.pathDown_partner {c : Chip} {b : Bool} (h : (c.pathLost b).on R.PLY_PLYSTAT_PARTNER = true) :
    c.pathDown b = (((c.pathLost b).set R.PLY_PLYSTAT_PATHFLT 0 1).plyFault 0 1).pulse 660 := if_pos h

theorem Chip.pathDown_alone {c : Chip} {b : Bool} (h : (c.pathLost b).on R.PLY_PLYSTAT_PARTNER = false) :
    c.pathDown b =
      ((({ c.pathLost b with ply := { (c.pathLost b).ply with failover := true, pflags := 0, plevel := 0 } } : Chip).set R.PLY_PLYSTAT_FAILEV 0 1).pulse
        656).when ((c.pathLost b).role == roleHolder) (·.setInstep false) := if_neg (Bool.eq_false_iff.mp h)

end Sys2Proof.Machine
end

section
/-! Heartbeats, words, silence, the lease and the take. -/

namespace Sys2Proof.Machine

/-! ### Paths -/

theorem Chip.plyFault_plays {r : Nat} {c : Chip} (h : c.Plays r) (level cause : Nat) : (c.plyFault level cause).Plays r :=
  h.of_regs (Chip.fault_regs _ _ _ _ _ _ _ _ _) rfl

theorem Chip.on_plyFault (c : Chip) (level cause n : Nat) (g : Fld) : ((c.plyFault level cause).pulse n).on g = c.on g :=
  Chip.on_of_regs (d := c.plyFault level cause) (Chip.fault_regs _ _ _ _ _ _ _ _ _) g 0

theorem Chip.pathDown_off {c : Chip} (h : c.Canonical) (b : Bool) :
    (c.pathDown b).on (if b then R.PLY_PLYSTAT_PATHB else R.PLY_PLYSTAT_PATHA) = false := by
  obtain ⟨hd, hoff, -⟩ := Chip.pathLost_shown h b
  cases hp : (c.pathLost b).on R.PLY_PLYSTAT_PARTNER with
  | true =>
    rw [Chip.pathDown_partner hp, ← hoff]
    exact (Chip.on_plyFault _ _ _ _ _).trans (Chip.on_set_beside hd (by cases b <;> decide) _ _)
  | false =>
    let x : Chip := { c.pathLost b with ply := { (c.pathLost b).ply with failover := true, pflags := 0, plevel := 0 } }
    have hx : x.Canonical := Chip.canonical_of_regs hd rfl rfl
    have hset : (x.set R.PLY_PLYSTAT_FAILEV 0 1).Canonical := Chip.set_canonical hx _ _ _
    have hon : (x.set R.PLY_PLYSTAT_FAILEV 0 1).on (if b then R.PLY_PLYSTAT_PATHB else R.PLY_PLYSTAT_PATHA) = false :=
      (Chip.on_set_beside hx (by cases b <;> decide) _ _).trans hoff
    have hpulse : ((x.set R.PLY_PLYSTAT_FAILEV 0 1).pulse 656).Canonical := Chip.canonical_of_regs hset rfl rfl
    rw [Chip.pathDown_alone hp, Chip.when]
    split
    · exact (Chip.setInstep_on hpulse false (by cases b <;> decide)).trans hon
    · exact hon

theorem Chip.pathDown_fault {c : Chip} (h : c.Canonical) {b : Bool} (hother : c.on (if b then R.PLY_PLYSTAT_PATHA else R.PLY_PLYSTAT_PATHB) = true) :
    (c.pathDown b).on R.PLY_PLYSTAT_PATHFLT = true := by
  obtain ⟨hd, -, hp⟩ := Chip.pathLost_shown h b
  rw [Chip.pathDown_partner (hp.trans hother)]
  exact (Chip.on_plyFault _ _ _ _ _).trans (Chip.on_set_one hd _ _ (by decide) (by decide))

theorem Chip.pathDown_failover {c : Chip} (h : c.Canonical) {b : Bool}
    (hother : c.on (if b then R.PLY_PLYSTAT_PATHA else R.PLY_PLYSTAT_PATHB) = false) :
    (c.pathDown b).on R.PLY_PLYSTAT_FAILEV = true ∧ (c.pathDown b).ply.failover = true := by
  obtain ⟨hd, -, hp⟩ := Chip.pathLost_shown h b
  let x : Chip := { c.pathLost b with ply := { (c.pathLost b).ply with failover := true, pflags := 0, plevel := 0 } }
  have hx : x.Canonical := Chip.canonical_of_regs hd rfl rfl
  have hpulse : ((x.set R.PLY_PLYSTAT_FAILEV 0 1).pulse 656).Canonical := Chip.canonical_of_regs (Chip.set_canonical hx R.PLY_PLYSTAT_FAILEV 0 1) rfl rfl
  have hon : ((x.set R.PLY_PLYSTAT_FAILEV 0 1).pulse 656).on R.PLY_PLYSTAT_FAILEV = true := Chip.on_set_one hx _ _ (by decide) (by decide)
  rw [Chip.pathDown_alone (hp.trans hother)]
  refine ⟨?_, congrArg Ply.failover (Chip.when_ply _ _ (f := (·.setInstep false)) (Chip.setInstep_ply _ false))⟩
  rw [Chip.when]
  split
  · exact (Chip.setInstep_on hpulse false (by decide)).trans hon
  · exact hon

/-! ### Words -/

/-- The flags of a word, put among those of the last heartbeat. -/
theorem wordFlags_bits (f : Nat) (b0 b1 b2 b5 : Bool) :
    bit (f / 64 * 64 + bits f 4 3 * 8 + b2n b0 + 2 * b2n b1 + 4 * b2n b2 + 32 * b2n b5) 0 = b0 ∧
      bit (f / 64 * 64 + bits f 4 3 * 8 + b2n b0 + 2 * b2n b1 + 4 * b2n b2 + 32 * b2n b5) 1 = b1 ∧
      bit (f / 64 * 64 + bits f 4 3 * 8 + b2n b0 + 2 * b2n b1 + 4 * b2n b2 + 32 * b2n b5) 2 = b2 ∧
      bit (f / 64 * 64 + bits f 4 3 * 8 + b2n b0 + 2 * b2n b1 + 4 * b2n b2 + 32 * b2n b5) 5 = b5 := by
  have hlow : bits f 4 3 < 4 := Nat.mod_lt _ (by decide)
  have hbit : ∀ (n k : Nat) (b : Bool), n / 2 ^ k % 2 = b2n b → bit n k = b := fun n k b h => by
    rw [bit, h]
    cases b <;> rfl
  have hn : ∀ b : Bool, b2n b < 2 := by decide
  have h0 := hn b0
  have h1 := hn b1
  have h2 := hn b2
  have h5 := hn b5
  refine ⟨hbit _ _ _ ?_, hbit _ _ _ ?_, hbit _ _ _ ?_, hbit _ _ _ ?_⟩ <;> omega

theorem Chip.heard_ply (c : Chip) (b : Bool) : (if c.role = roleHolder then c.setInstep b else c.stepShown).ply = c.ply := by
  split
  · exact c.setInstep_ply b
  · exact c.stepShown_ply

/-! ### The lease and the take -/

theorem execLeaseRenew_eq (s : State) : execLeaseRenew s = onChip (fun c =>
    if c.plyOn && c.role == roleHolder && c.ply.sent.head?.all (fun e => decide (e.2 + 4000000 ≤ c.sched.cyc)) && c.healthy then c.renew else c) s := by
  rw [execLeaseRenew, onChip_eq, onChip_eq]
  cases hs : s.chip.ply.sent with
  | nil => rfl
  | cons e l => rw [List.head?_cons, Option.all_some]

theorem execLeaseExpiry_eq (s : State) : execLeaseExpiry s = onChip (fun c =>
    if c.plyOn && c.role == roleHolder && c.ply.sent.head?.all (fun e => decide (e.2 + 16000000 ≤ c.sched.cyc)) then c.plyFence 3 true else c) s := by
  rw [execLeaseExpiry, onChip_eq, onChip_eq]
  cases hs : s.chip.ply.sent with
  | nil => rfl
  | cons e l => rw [List.head?_cons, Option.all_some]

theorem execRoleResolveTimeout_eq (s : State) : execRoleResolveTimeout s = onChip (fun c =>
    if c.plyOn && c.role == roleResolving && c.ply.resolveAt.any (fun t => decide (t + 17600000 ≤ c.sched.cyc)) &&
      (c.ply.runA == 0 && c.ply.runB == 0) then c.takeBobbin 0 else c) s := by
  rw [execRoleResolveTimeout, onChip_eq, onChip_eq]
  cases hs : s.chip.ply.resolveAt with
  | none => rfl
  | some t => rw [Option.any_some]

theorem Chip.txAll {l : List Nat} (mode : Nat) : ∀ c : Chip,
    (c.each l (fun c p => { c with ply := { c.ply with tx := tset {} c.ply.tx p { mode := mode } } })).ply.tx =
      l.foldl (fun (t : Tab PlyTx) p => tset {} t p { mode := mode }) c.ply.tx := by
  induction l with
  | nil => exact fun _ => rfl
  | cons p l ih => exact fun c => ih { c with ply := { c.ply with tx := tset {} c.ply.tx p { mode := mode } } }

theorem Chip.plyFence_tx (c : Chip) (k : Nat) (b : Bool) :
    (c.plyFence k b).ply.tx = (List.range 4).foldl (fun (t : Tab PlyTx) p => tset {} t p { mode := 0 }) c.ply.tx := by
  have hlease : ((c.setLease false).set R.PLY_PLYSTAT_FENCEEV 0 1).ply.tx = c.ply.tx := by
    have hply := congrArg Ply.tx (c.setLease_ply false)
    exact hply
  refine (congrArg Ply.tx (Chip.when_ply _ _ rfl)).trans ?_
  rw [Chip.setRole_ply, ← hlease]
  exact Chip.txAll 0 _

theorem Chip.plyFence_role {c : Chip} (h : c.Canonical) (k : Nat) (b : Bool) : (c.plyFence k b).role = roleFenced := by
  have hd : (((c.setLease false).set R.PLY_PLYSTAT_FENCEEV 0 1).setTxAll 0).Canonical :=
    Chip.setTxAll_keeps Chip.canonical_keeps (Chip.set_canonical (Chip.setLease_keeps Chip.canonical_keeps h false) _ _ _) 0
  have hrole := Chip.setRole_plays hd (new := roleFenced) (by decide) k
  exact (hrole.when b (f := (·.plyFault 2 4)) (Chip.plyFault_plays hrole 2 4)).2

theorem Chip.becomeHolder_plays {c : Chip} (h : c.Canonical) (cause : Nat) : (c.becomeHolder cause).Plays roleHolder := by
  let d := (c.set R.PLY_PLYSTAT_TAKEEV 0 1).bump R.PLY_PLYCNT_TAKES 0
  have hd : d.Canonical := Chip.set_canonical (Chip.set_canonical h _ _ _) _ _ _
  have hserial : ({ d with ply := { d.ply with serial := d.ply.seen.getD d.ply.serial, sent := [], echo := none },
                           boot := { d.boot with roleOk := true } } : Chip).Canonical := Chip.canonical_of_regs hd rfl rfl
  have hlease := Chip.setLease_keeps Chip.canonical_keeps (Chip.renew_keeps Chip.canonical_keeps hserial) true
  exact Chip.setRole_plays (Chip.warmStart_keeps Chip.canonical_keeps hlease) (by decide) cause

theorem Chip.Plays.setTx {r : Nat} {c : Chip} (h : c.Plays r) (p mode at_ : Nat) : (c.setTx p mode at_).Plays r := h.of_regs rfl rfl

theorem Chip.takeBobbin_role {c : Chip} (h : c.Canonical) (cause : Nat) : (c.takeBobbin cause).role = roleHolder := by
  have hhold := Chip.becomeHolder_plays h cause
  unfold Chip.takeBobbin
  refine (Chip.Plays.of_regs (r := roleHolder) ?_ rfl rfl).2
  refine Chip.each_keeps (P := Chip.Plays roleHolder) _ _ hhold fun d p hd => ?_
  dsimp only
  split
  · exact (hd.setTx _ _ _).setTx _ _ _
  · exact hd.setTx _ _ _

/-! ### The commands -/

theorem execPathSilence_eq (b : Bool) (s : State) : execPathSilence b s = onChip (fun c =>
    if !c.plyOn || !c.on (if b then R.PLY_PLYSTAT_PATHB else R.PLY_PLYSTAT_PATHA) ||
      decide (c.sched.cyc < (if b then c.ply.lastB else c.ply.lastA) + 240000) then c else c.pathDown b) s := by
  cases b <;> rfl

/-- A device alone or without a partner's path neither hears nor says anything. -/
theorem Chip.pairOff_iff (c : Chip) : (c.plyOn = false ∨ c.role = roleSolo) ↔ (!c.plyOn || c.role == roleSolo) = true := by
  simp only [Bool.or_eq_true, Bool.not_eq_true', beq_iff_eq]

theorem Chip.pairOn_iff (c : Chip) : ¬ (c.plyOn = false ∨ c.role = roleSolo) ↔ (c.plyOn && c.role != roleSolo) = true := by
  simp only [not_or, Bool.not_eq_false, Bool.and_eq_true, bne_iff_ne, ne_eq]

/-- Settles O59: the branches of the commands, and what the operations of the pair leave. -/
theorem pairAndLease : Obligations.PairAndLease := by
  unfold Obligations.PairAndLease
  intro s (h : s.chip.Canonical)
  refine ⟨fun hidle => ?noBeat, fun hon hup hlive pay hpay => ?beats, fun hoff x w b => ⟨?deaf, ?deafWord⟩, fun hon x => ?heard,
    fun hidle => ?noWord, fun hon hlive => ?word, fun top => rfl, fun hon w b hbad => ?badWord, fun hon w b hgood => ?goodWord,
    fun b up last hup hlast => ⟨fun hsilent => ?silent, fun hlive => ?notSilent⟩,
    ⟨Chip.pathDown_off h false, Chip.pathDown_off h true, fun b other hother => ⟨fun hup => Chip.pathDown_fault h (hother.symm.trans hup),
      fun hdown => Chip.pathDown_failover h (hother.symm.trans hdown)⟩⟩,
    fun p hp => ⟨fun hdue => ?renews, fun hnot => ?noRenew⟩, ⟨rfl, ?age, rfl⟩, fun p hp => ⟨fun hdue => ?fences, fun hnot => ?noFence⟩,
    fun k b d hd => ?fenced, fun hdue => ?takes, fun hnot => ?noTake, fun k d hd => ?taken, fun p hp => ⟨fun hdue => ?resolves, fun hnot => ?noResolve⟩,
    fun x hx hrole hdue => ?cancelled, fun hnot => ?notCancelled⟩
  case noBeat =>
    change execHeartbeatSend s = _
    refine onChip_same (if_neg fun hall => ?_)
    simp only [Bool.and_eq_true, Bool.not_eq_true', bne_iff_ne] at hall
    obtain ⟨⟨⟨hon, hrole⟩, hup⟩, hlive⟩ := hall
    simp [hon, hrole, hup, hlive] at hidle
  case beats =>
    change execHeartbeatSend s = _
    subst hpay
    have hsend := fun pay => (if_pos (by simp [hup, hlive]) : s.chip.plySend 0x08 pay = s.chip.strandSend s.chip.pathGroup 0x08 0 pay false)
    refine onChip_next ((if_pos (by simp [(Chip.pairOn_iff _).mp hon, hup, hlive])).trans ?_)
    exact congrArg (fun d : Chip => { d with ply := { d.ply with hbcnt := (d.ply.hbcnt + 1) % 2 ^ 32 } }) (hsend _)
  case deaf =>
    change execHeartbeatRx x s = _
    exact onChip_same (if_pos ((Chip.pairOff_iff _).mp hoff))
  case deafWord =>
    change execPathbWordRx w b s = _
    exact onChip_same (if_pos ((Chip.pairOff_iff _).mp hoff))
  case heard =>
    refine ⟨_, (onChip_next (if_neg (mt (Chip.pairOff_iff _).mpr hon)) : execHeartbeatRx x s = _), ?_, ?_⟩
    · exact (congrArg Ply.pflags (Chip.heard_ply _ _)).trans rfl
    · exact (congrArg Ply.plevel (Chip.heard_ply _ _)).trans rfl
  case noWord =>
    change execPathbWordSend s = _
    refine onChip_same (if_neg fun hall => ?_)
    simp only [Bool.and_eq_true, Bool.not_eq_true', bne_iff_ne] at hall
    obtain ⟨⟨hon, hrole⟩, hlive⟩ := hall
    simp [hon, hrole, hlive] at hidle
  case word =>
    change execPathbWordSend s = _
    exact onChip_next (if_pos (by simp [(Chip.pairOn_iff _).mp hon, hlive]))
  case badWord =>
    change execPathbWordRx w b s = _
    exact onChip_next ((if_neg (mt (Chip.pairOff_iff _).mpr hon)).trans (if_pos (by simp [hbad])))
  case goodWord =>
    refine ⟨_, (onChip_next ((if_neg (mt (Chip.pairOff_iff _).mpr hon)).trans (if_neg (by simp [hgood]))) : execPathbWordRx w b s = _), ?_⟩
    exact wordFlags_bits _ _ _ _ _
  case silent =>
    change execPathSilence b s = _
    subst hup hlast
    obtain ⟨hon, hup, hlast⟩ := hsilent
    rw [execPathSilence_eq]
    exact onChip_next (if_neg (by simp [hon, hup, Nat.not_lt.mpr hlast]))
  case notSilent =>
    change execPathSilence b s = _
    subst hup hlast
    rw [execPathSilence_eq]
    exact onChip_same (if_pos (by simpa [or_assoc] using hlive))
  case renews =>
    change execLeaseRenew s = _
    subst hp
    obtain ⟨hon, hrole, hwell, hdue⟩ := hdue
    rw [execLeaseRenew_eq]
    exact onChip_next (if_pos (by simp [hon, hrole, hwell, hdue]))
  case noRenew =>
    change execLeaseRenew s = _
    subst hp
    rw [execLeaseRenew_eq]
    refine onChip_same (if_neg fun hall => ?_)
    simp only [Bool.and_eq_true, beq_iff_eq] at hall
    obtain ⟨⟨⟨hon, hrole⟩, hdue⟩, hwell⟩ := hall
    simp [hon, hrole, hdue, hwell] at hnot
  case age => exact Chip.get_set (Chip.canonical_of_regs h rfl rfl) _ _ _ (by decide) (by decide)
  case fences =>
    change execLeaseExpiry s = _
    subst hp
    obtain ⟨hon, hrole, hdue⟩ := hdue
    rw [execLeaseExpiry_eq]
    exact onChip_next (if_pos (by simp [hon, hrole, hdue]))
  case noFence =>
    change execLeaseExpiry s = _
    subst hp
    rw [execLeaseExpiry_eq]
    refine onChip_same (if_neg fun hall => ?_)
    simp only [Bool.and_eq_true, beq_iff_eq] at hall
    obtain ⟨⟨hon, hrole⟩, hdue⟩ := hall
    simp [hon, hrole, hdue] at hnot
  case fenced =>
    subst hd
    exact ⟨rfl, rfl, rfl, rfl, Chip.plyFence_tx _ _ _, Chip.plyFence_role h _ _⟩
  case takes =>
    change execBobbinTake s = _
    obtain ⟨hon, hrole, hfail, hdue⟩ := hdue
    exact onChip_next (if_pos (by simp [hon, hrole, hfail, hdue]))
  case noTake =>
    change execBobbinTake s = _
    refine onChip_same (if_neg fun hall => ?_)
    simp only [Bool.and_eq_true, beq_iff_eq, decide_eq_true_eq] at hall
    obtain ⟨⟨⟨hon, hrole⟩, hfail⟩, hdue⟩ := hall
    simp [hon, hrole, hfail, Nat.not_lt.mpr hdue] at hnot
  case taken =>
    subst hd
    exact ⟨Chip.takeBobbin_role h _, rfl, rfl, rfl⟩
  case resolves =>
    change execRoleResolveTimeout s = _
    subst hp
    obtain ⟨hon, hrole, hdue, ha, hb⟩ := hdue
    rw [execRoleResolveTimeout_eq]
    exact onChip_next (if_pos (by simp [hon, hrole, hdue, ha, hb]))
  case noResolve =>
    change execRoleResolveTimeout s = _
    subst hp
    rw [execRoleResolveTimeout_eq]
    refine onChip_same (if_neg fun hall => ?_)
    simp only [Bool.and_eq_true, beq_iff_eq] at hall
    obtain ⟨⟨⟨hon, hrole⟩, hdue⟩, ha, hb⟩ := hall
    simp [hon, hrole, hdue, ha, hb] at hnot
  case cancelled =>
    change execReleaseAckDeadline s = _
    refine onChip_next ?_
    simp only [hx]
    exact if_pos ⟨hrole, hdue⟩
  case notCancelled =>
    change execReleaseAckDeadline s = _
    refine onChip_same ?_
    cases hx : s.chip.ply.transfer with
    | none => rfl
    | some t =>
      obtain ⟨x, ack⟩ := t
      cases ack with
      | true => rfl
      | false =>
        refine if_neg fun ⟨hrole, hdue⟩ => ?_
        simp [hx, hrole, Nat.not_lt.mpr hdue] at hnot

end Sys2Proof.Machine
end

section
/-! Control frames of the pair, the transfer instant and the state copy. -/

namespace Sys2Proof.Machine

/-! ### What the sends and the hellos read and leave -/

/-- The boundary that is chosen does not depend on the pair's own state. -/
theorem Chip.refBoundary_ply (c : Chip) (x : Ply) (ahead : Nat) :
    ∀ k n : Nat, ({ c with ply := x } : Chip).refBoundary ahead k n = c.refBoundary ahead k n := by
  intro k
  induction k with
  | zero => exact fun _ => rfl
  | succ k ih =>
    intro n
    rw [Chip.refBoundary, Chip.refBoundary, ih]
    rfl

theorem Chip.setWarm_ply (c : Chip) (b : Bool) : (c.setWarm b).ply = c.ply := by
  unfold Chip.setWarm
  refine (Chip.stepShown_ply _).trans ?_
  exact Chip.when_ply c _ (f := (·.pulse 664)) rfl

theorem Chip.refPlane_lt (c : Chip) : c.refPlane < 4 := Chip.get_lt c R.PLY_PLYCFG_REFPLANE 0

theorem Chip.mem_runningPlanes {c : Chip} {p : Nat} : p ∈ c.runningPlanes ↔ p < 4 ∧ c.running p = true := by
  simp only [Chip.runningPlanes, List.mem_filter, List.mem_range]

theorem execPlyLegs_none (s : State) : execPlyLegs none s = onChip (fun c =>
    if c.plyOn && c.dualLeg && c.role == roleHolder && (c.ply.legs.map (·.2)).getD c.ply.legOut != c.on R.PLY_PLYSTAT_INSTEP then
      ({ c with ply := { c.ply with legs := some (c.twoAhead c.refPlane, c.on R.PLY_PLYSTAT_INSTEP) } }).plySend 0x0A
        ([0x03] ++ leBytes 5 (c.twoAhead c.refPlane) ++ leBytes 1 (b2n (c.on R.PLY_PLYSTAT_INSTEP)))
    else c) s := by
  rw [execPlyLegs, onChip_eq, onChip_eq]
  cases hl : s.chip.ply.legs with
  | none => rfl
  | some x => rfl

/-- A plane's change of hands at its boundary `n`, by the device that was or became the holder. -/
def Chip.planeMoves (c : Chip) (p n : Nat) (wasHolder : Bool) : Chip :=
  let c := { c with ply := { c.ply with moved := p :: c.ply.moved } }
  let c :=
    if p = c.refPlane then
      if wasHolder then
        let c := (c.setLease false).setRole roleOther 2
        { c with ply := { c.ply with inStep := c.runningPlanes.map (fun q => (q, true)), seen := some c.ply.serial,
                                     seenAt := c.sched.cyc } }
      else (c.becomeHolder 2).setInstep true
    else c
  let c := c.setTx p (c.plyMode (if wasHolder then roleOther else roleHolder)) (pulseNs (c.rateOf p) n)
  if c.runningPlanes.all (fun q => c.ply.moved.contains q) then
    let c := { c with ply := { c.ply with transfer := none, moved := [], acked := none } }
    c.when (c.ply.fenceAfter && wasHolder) (·.plyFence 4 false)
  else c

theorem execTransferInstant_moves {s : State} {p : Fin 4} {x : Nat} (hx : s.chip.ply.transfer = some (x, true))
    (hgo : ¬ (s.chip.ply.moved.contains p.val = true ∨ sdiff 40 (s.chip.turn p.val) (s.chip.transferTurn p.val x) < 0 ∨ (!s.chip.plyOn) = true)) :
    execTransferInstant p s = .next { s with chip := (s.chip.planeMoves p.val (s.chip.transferTurn p.val x)
      ((s.chip.role == roleHolder) != s.chip.ply.moved.contains s.chip.refPlane)) } := by
  refine onChip_next ?_
  split
  · next y hy =>
    cases hx.symm.trans hy
    exact if_neg hgo
  · next hno => exact absurd hx (hno x)

/-- A plane that moves before the reference plane only changes what it sends. -/
theorem Chip.planeMoves_early {c : Chip} {p : Nat} (hp : p ≠ c.refPlane) (href : c.ply.moved.contains c.refPlane = false)
    (hrun : c.running c.refPlane = true) (n : Nat) :
    c.planeMoves p n (c.role == roleHolder) =
      let role := if c.role = roleHolder then roleOther else roleHolder
      let d := { c with ply := { c.ply with moved := p :: c.ply.moved } }
      d.setTx p (d.plyMode role) (pulseNs (c.rateOf p) n) := by
  have hp' : ¬ p = ({ c with ply := { c.ply with moved := p :: c.ply.moved } } : Chip).refPlane := hp
  unfold Chip.planeMoves
  dsimp only
  rw [if_neg hp', if_neg fun hall => ?_]
  · simp only [beq_iff_eq]
    rfl
  · have hin := List.all_eq_true.mp hall c.refPlane (Chip.mem_runningPlanes.mpr ⟨c.refPlane_lt, hrun⟩)
    rcases List.mem_cons.mp (List.contains_iff_mem.mp hin) with heq | hmem
    · exact hp heq.symm
    · exact Bool.eq_false_iff.mp href (List.contains_iff_mem.mpr hmem)

/-- The plane whose copy is being sent. -/
theorem copyPlane_eq_some {t : Tab Nat} {p off : Nat} (hp : p < 4) (hout : tget 0 t p = off + 1) (hfirst : ∀ q : Nat, q < p → tget 0 t q = 0) :
    (List.range 4).find? (fun p => decide (0 < tget 0 t p)) = some p := by
  refine List.find?_range_eq_some.mpr ⟨?_, List.mem_range.mpr hp, fun q hq => ?_⟩
  · rw [hout]
    exact decide_eq_true (Nat.succ_pos off)
  · rw [hfirst q hq]
    rfl

theorem copyPlane_eq_none {t : Tab Nat} (h : ∀ p : Nat, p < 4 → tget 0 t p = 0) :
    (List.range 4).find? (fun p => decide (0 < tget 0 t p)) = none := by
  refine List.find?_eq_none.mpr fun p hp => ?_
  rw [h p (List.mem_range.mp hp)]
  decide

/-- Every plane that is in use runs. -/
theorem Chip.allStarted_iff (c : Chip) :
    (List.range 4).all (fun p => !c.on R.SEQ_PLANECFG_EN p || c.running p) = true ↔
      ∀ p : Nat, p < 4 → c.on R.SEQ_PLANECFG_EN p = true → c.running p = true := by
  simp only [List.all_eq_true, List.mem_range, Bool.or_eq_true, Bool.not_eq_true', ← Bool.not_eq_true, imp_iff_not_or]

/-- Settles O60: the branches of the commands. -/
theorem pairControl : Obligations.PairControl := by
  unfold Obligations.PairControl
  intro s
  refine ⟨fun b hno => ?noHello, fun b v hon hcode hv => ?hello, fun hwant => ?noWant,
    fun d hd hwant => ⟨fun hmay x hx => ?released, fun hnot => ?dropped⟩,
    fun x n hn => ⟨fun hon hrole hidle hdue => ?acked, fun hnot => ?notAcked⟩, fun p hno => ?noInstant,
    fun p x n hx hn => ⟨fun hnot => ?notYet, fun hon hnew hdue => ⟨⟨_, (onChip_next rfl : execTransferInstant p s = _)⟩, fun hp href hrun => ?moved⟩⟩,
    fun x b hon hdual hrole => ?legs, fun x b hnot => ?noLegs, fun now want hnow hwant => ⟨fun hon hdual hrole hne n hn => ?asks, fun hnot => ?asksNot⟩,
    fun hnone => ?noForward, fun n m a l hl => ?forwards, fun m a fit hfit => ⟨fun h => ?takenIn, fun h => ?notTakenIn⟩,
    fun hnot => ?noAgree, fun l hl hon hne => ?agrees, fun l => ⟨fun hoff => ?agreeOff, fun hon => ?agreeOn⟩,
    fun hoff x => ?joinOff, fun hon hrole t ht => ?grants, fun hrole => ?noGrant, fun hon hrole t => ?joins, fun hother hfenced t => ?noJoin,
    fun hon hrole t d hd => ?rejoins, fun may hmay => ⟨fun h => ?requests, fun h => ?noRequest⟩, fun h => ?wants, fun hnot => ?wantsNot,
    fun may hmay => ⟨fun h => ?asksTake, fun h => ?noTake⟩, fun hnot => ?noCopy,
    fun p off turn image data v d hon hrole hp hout hfirst himage hdata hmark => ?copies,
    fun b data ok p turn x v d hon hrole hp hturn hdata hmark hx => ?receives, fun hnot b ok => ?notReceived,
    fun p l hnot => ?notComplete, fun p l turn own d hon hrole hcold himage hd => ⟨fun hbad => ?outOfStep, fun b hturn hb => ?takes⟩⟩
  case noHello =>
    change execPlyHello b s = _
    exact onChip_same (if_pos (by simpa using hno))
  case hello =>
    subst hv
    refine ⟨_, (onChip_next (if_neg (by simp [hon, hcode])) : execPlyHello b s = _), ?_, fun hcommon => ?_, fun hnone => ?_⟩
    · exact (congrArg Ply.caps (Chip.setWarm_ply _ _)).trans rfl
    · exact (congrArg Ply.hello (Chip.setWarm_ply _ _)).trans (if_pos (decide_eq_true hcommon))
    · exact (congrArg Ply.hello (Chip.setWarm_ply _ _)).trans (if_neg (Bool.eq_false_iff.mp (decide_eq_false (Nat.not_le.mpr hnone))))
  case noWant =>
    change execPlyRelease none s = _
    exact onChip_same (if_pos (by simp [hwant]))
  case released =>
    change execPlyRelease none s = _
    subst hd hx
    obtain ⟨hon, hmay⟩ := hmay
    have hboth : (s.chip.plyOn && s.chip.mayTransfer) = true := by rw [hon, hmay]; rfl
    refine onChip_next ((if_neg (by simp [hwant])).trans ((if_pos hboth).trans ?_))
    simp only [Chip.refBoundary_ply]
    rfl
  case dropped =>
    change execPlyRelease none s = _
    subst hd
    have hboth : ¬ (s.chip.plyOn && s.chip.mayTransfer) = true := by
      rw [Bool.and_eq_true]
      rintro ⟨hon, hmay⟩
      simp [hon, hmay] at hnot
    exact onChip_next ((if_neg (by simp [hwant])).trans (if_neg hboth))
  case acked =>
    change execPlyRelease (some x) s = _
    subst hn
    exact onChip_next (if_pos (by simp [hon, hrole, hidle, hdue]))
  case notAcked =>
    change execPlyRelease (some x) s = _
    subst hn
    refine onChip_same (if_neg fun hall => ?_)
    simp only [Bool.and_eq_true, beq_iff_eq, decide_eq_true_eq, Option.isNone_iff_eq_none] at hall
    obtain ⟨⟨⟨hon, hrole⟩, hidle⟩, hdue⟩ := hall
    simp [hon, hrole, hidle, Nat.not_lt.mpr hdue] at hnot
  case noInstant =>
    change execTransferInstant p s = _
    refine onChip_same ?_
    cases hx : s.chip.ply.transfer with
    | none => rfl
    | some t =>
      obtain ⟨x, ack⟩ := t
      cases ack with
      | true => exact absurd hx (hno x)
      | false => rfl
  case notYet =>
    change execTransferInstant p s = _
    subst hn
    refine onChip_same ?_
    simp only [hx]
    refine if_pos ?_
    rcases hnot with hoff | hmoved | hearly
    · exact Or.inr (Or.inr (by rw [hoff]; rfl))
    · exact Or.inl hmoved
    · exact Or.inr (Or.inl hearly)
  case moved =>
    change execTransferInstant p s = _
    subst hn
    have hgo : ¬ (s.chip.ply.moved.contains p.val = true ∨ sdiff 40 (s.chip.turn p.val) (s.chip.transferTurn p.val x) < 0 ∨
        (!s.chip.plyOn) = true) := by
      simp only [hnew, hon, Int.not_lt.mpr hdue, Bool.not_true, Bool.false_eq_true, or_self, not_false_eq_true]
    rw [execTransferInstant_moves hx hgo, href, Bool.bne_false, Chip.planeMoves_early hp href hrun]
  case legs =>
    change execPlyLegs (some (x, b)) s = _
    exact onChip_next (if_pos (by simp [hon, hdual, hrole]))
  case noLegs =>
    change execPlyLegs (some (x, b)) s = _
    refine onChip_same (if_neg fun hall => ?_)
    simp only [Bool.and_eq_true, beq_iff_eq] at hall
    obtain ⟨⟨hon, hdual⟩, hrole⟩ := hall
    simp [hon, hdual, hrole] at hnot
  case asks =>
    change execPlyLegs none s = _
    subst hn hnow hwant
    rw [execPlyLegs_none]
    exact onChip_next (if_pos (by simp [hon, hdual, hrole, hne]))
  case asksNot =>
    change execPlyLegs none s = _
    subst hnow hwant
    rw [execPlyLegs_none]
    refine onChip_same (if_neg fun hall => ?_)
    simp only [Bool.and_eq_true, beq_iff_eq, bne_iff_ne] at hall
    obtain ⟨⟨⟨hon, hdual⟩, hrole⟩, hne⟩ := hall
    simp [hon, hdual, hrole, hne] at hnot
  case noForward =>
    change execPlyForward none s = _
    refine onChip_same ?_
    simp only [hnone]
  case forwards =>
    change execPlyForward none s = _
    refine onChip_next ?_
    simp only [hl]
  case takenIn =>
    change execPlyForward (some (m, a)) s = _
    obtain ⟨hon, hcode, hok, hsrc⟩ := hfit.mp h
    exact onChip_next (if_pos (by simp [hon, hcode, hok, hsrc]))
  case notTakenIn =>
    change execPlyForward (some (m, a)) s = _
    refine onChip_same (if_neg fun hall => h (hfit.mpr ?_))
    simpa [and_assoc] using hall
  case noAgree =>
    change execPlyAgree none s = _
    refine onChip_same (if_neg fun hall => ?_)
    simp only [Bool.and_eq_true, Bool.not_eq_true', List.isEmpty_eq_false_iff, ne_eq, List.reverse_eq_nil_iff] at hall
    obtain ⟨hon, hne⟩ := hall
    simp [hon, hne] at hnot
  case agrees =>
    change execPlyAgree none s = _
    subst hl
    exact onChip_next (if_pos (by simpa [hon] using hne))
  case agreeOff =>
    change execPlyAgree (some l) s = _
    exact onChip_same (if_neg (Bool.eq_false_iff.mp hoff))
  case agreeOn =>
    change execPlyAgree (some l) s = _
    exact onChip_next (if_pos hon)
  case joinOff =>
    change execPlyJoin x s = _
    exact onChip_same (if_pos (by simp [hoff]))
  case grants =>
    change execPlyJoin (some .request) s = _
    subst ht
    exact onChip_next ((if_neg (by simp [hon])).trans (if_pos hrole))
  case noGrant =>
    change execPlyJoin (some .request) s = _
    refine onChip_same ?_
    cases hon : s.chip.plyOn with
    | false => rfl
    | true => exact if_neg hrole
  case joins =>
    change execPlyJoin (some (.grant t)) s = _
    have hkeeps : s.chip.when (s.chip.role == roleFenced) (·.becomeOther 3) = s.chip := if_neg (by rw [hrole]; decide)
    refine onChip_next ((if_neg (by simp [hon])).trans ?_)
    simp only [hkeeps]
    exact if_pos hrole
  case noJoin =>
    change execPlyJoin (some (.grant t)) s = _
    have hkeeps : s.chip.when (s.chip.role == roleFenced) (·.becomeOther 3) = s.chip := if_neg (by simpa using hfenced)
    refine onChip_same ?_
    cases hon : s.chip.plyOn with
    | false => rfl
    | true =>
      simp only [hkeeps]
      exact if_neg hother
  case rejoins =>
    change execPlyJoin (some (.grant t)) s = _
    have hjoins : s.chip.when (s.chip.role == roleFenced) (·.becomeOther 3) = d := (if_pos (by simpa using hrole)).trans hd.symm
    refine onChip_next ((if_neg (by simp [hon])).trans ?_)
    simp only [hjoins]
  case requests =>
    change execPlyJoin none s = _
    obtain ⟨hon, hrole, hidle, hpath, hstarted⟩ := hmay.mp h
    refine onChip_next ((if_neg (by simp [hon])).trans ?_)
    exact if_pos ⟨hrole, hidle, s.chip.allStarted_iff.mpr hstarted, hpath⟩
  case noRequest =>
    change execPlyJoin none s = _
    refine onChip_same ?_
    by_cases hon : s.chip.plyOn = true
    · refine (if_neg (by simp [hon])).trans ?_
      refine if_neg ?_
      rintro ⟨hrole, hidle, hstarted, hpath⟩
      exact h (hmay.mpr ⟨hon, hrole, hidle, hpath, s.chip.allStarted_iff.mp hstarted⟩)
    · exact if_pos (by simpa using hon)
  case wants =>
    change execPlyTakereq true s = _
    obtain ⟨hon, hrole, hidle, hcold⟩ := h
    exact onChip_next ((if_pos rfl).trans (if_pos (by simp [hon, hrole, hidle, hcold])))
  case wantsNot =>
    change execPlyTakereq true s = _
    refine onChip_same ((if_pos rfl).trans (if_neg fun hall => ?_))
    simp only [Bool.and_eq_true, Bool.not_eq_true', beq_iff_eq, Option.isNone_iff_eq_none] at hall
    obtain ⟨⟨⟨hon, hrole⟩, hidle⟩, hcold⟩ := hall
    simp [hon, hrole, hidle, hcold] at hnot
  case asksTake =>
    change execPlyTakereq false s = _
    obtain ⟨hon, hprimary, hrole, hrevert, hfree, hclean, hcold⟩ := hmay.mp h
    exact onChip_next ((if_neg Bool.false_ne_true).trans (if_pos (by simp [hon, hprimary, hrole, hrevert, hfree, hclean, hcold])))
  case noTake =>
    change execPlyTakereq false s = _
    refine onChip_same ((if_neg Bool.false_ne_true).trans (if_neg fun hall => h (hmay.mpr ?_)))
    simpa [and_assoc] using hall
  case noCopy =>
    change execStateCopyFrame none s = _
    refine onChip_same ?_
    rcases hnot with hnone | hbarred
    · simp only [copyPlane_eq_none hnone]
    · have hbar : ¬ (s.chip.plyOn && s.chip.role == roleHolder) = true := by
        rw [Bool.and_eq_true, beq_iff_eq]
        rintro ⟨hon, hrole⟩
        simp [hon, hrole] at hbarred
      rcases hfind : (List.range 4).find? (fun p => decide (0 < tget 0 s.chip.ply.copyOut p)) with _ | q
      · rfl
      · exact if_neg hbar
  case copies =>
    change execStateCopyFrame none s = _
    subst hdata
    refine onChip_next ?_
    simp only [copyPlane_eq_some hp hout hfirst]
    refine (if_pos (by simp [hon, hrole])).trans ?_
    simp only [-Nat.reducePow, hout, Nat.add_sub_cancel, himage, hmark]
  case receives =>
    change execStateCopyFrame (some (b, ok)) s = _
    subst hp hturn hdata
    have hply : d.ply = s.chip.ply := (congrArg (fun r : Word × Chip => r.2.ply) hmark).symm
    rw [← hply] at hx
    subst hx
    refine onChip_next ((if_pos (by simp [hon, hrole])).trans ?_)
    simp only [-Nat.reducePow, hmark]
  case notReceived =>
    change execStateCopyFrame (some (b, ok)) s = _
    exact onChip_same (if_neg (by rw [Bool.and_eq_true, beq_iff_eq]; rintro ⟨hon, hrole⟩; simp [hon, hrole] at hnot))
  case notComplete =>
    change execStateCopyComplete p l s = _
    exact onChip_same (if_pos (by simpa [or_assoc] using hnot))
  all_goals
    change execStateCopyComplete p l s = _
    have hd := hd _ _ rfl rfl
    subst hd
    refine onChip_next ((if_neg (by simp [hon, hrole, hcold])).trans ?_)
    simp only [-Nat.reducePow, himage]
  case outOfStep =>
    have hgot : (if (tget {} s.chip.ply.copies p.val).turn = turn % 2 ^ 32 then copyBytes (tget {} s.chip.ply.copies p.val) else none) = none := by
      split
      · next hturn => exact hbad.resolve_left (not_not_intro hturn)
      · rfl
    rw [hgot]
  case takes =>
    rw [if_pos hturn, hb]

end Sys2Proof.Machine
end
